-- ==== Sys2Proof/Word.lean ====
section
/-!
DEFINITION. The word types of the module and their plainest arithmetic (R9: little-endian, 32 or 64 bits; R11).
-/

namespace Sys2Proof

/-- One byte of memory, of a record or of a stream. -/
abbrev Byte := BitVec 8

/-- A 32-bit register or descriptor word. -/
abbrev W32 := BitVec 32

/-- A 64-bit register, address word (R312) or beacon value (R407). -/
abbrev W64 := BitVec 64

/-- A byte string: a memory-resident structure, a payload, a page. -/
abbrev Bytes := List Byte

end Sys2Proof
end

