-- ==== Sys2Proof/Syntax.lean ====
section
/-!
DEFINITION. The commands that the TXM-8A block takes: one constructor of `Instr` for each row of spec/opcode_table.json,
with the operands of that row (the table gives none of them bits). A command is a host access, an event of one of the
module's engines, a message that arrives, or an event on a pin.
-/

namespace Sys2Proof

/-- A command stream, 0 to 15 (R341). -/
abbrev Stream := Fin 16

/-- A module tile number, 32 d + n (R23). -/
abbrev TileNo := Fin 256

/-- A Quema die, QD0 to QD7 (R1). -/
abbrev Die := Fin 8

/-- An engine: 18 d + e for engine e of die d (R330), 144 for the HDE. -/
abbrev EngineNo := Fin 145

/-- A channel of an engine (R307). -/
abbrev Chan := Fin 4

/-- A tensor link, TL0 to TL23 (R26). -/
abbrev LinkNo := Fin 24

/-- A direction on the ring of arcs (R157). -/
inductive Dir where
  | east
  | west
  deriving DecidableEq, Repr, Inhabited

/-- What a group member reports on its part of a cascade bundle load (R457). -/
inductive MemberResult where
  | ready
  | sigFail
  | digestMismatch
  | lost
  deriving DecidableEq, Repr, Inhabited

/-- What TWIN_PAIR learns of the partner (R462). -/
structure PartnerReport where
  /-- the partner's ATTEST report verifies -/
  verifies : Bool
  /-- firmware digests and every slot's occupancy and GENDIG agree -/
  digestsAgree : Bool
  deriving DecidableEq, Repr, Inhabited

/-- A remote read or write as it reaches its target (R126, R257): the chip number of its source, the byte address
within the target (a tile physical address, or a die-local HBM3 offset), and the data of a write. -/
structure Access where
  src : BitVec 12
  addr : Nat
  len : Nat
  write : Bool
  data : Bytes
  /-- the local engine and channel whose descriptor issued it, if any: it ends with REMOTE_REJECT when refused -/
  origin : Option (EngineNo × Chan)
  deriving DecidableEq, Repr, Inhabited

/-- A probe (R315): of a descriptor of this module, with the answer of a target on another module where it has one,
or one that arrives from another module. -/
inductive ProbeReq where
  | own (e : EngineNo) (ch : Chan) (otherModuleAccepts : Bool)
  | tile (t : TileNo) (src : BitVec 12) (addr : Nat) (len : Nat) (write : Bool)
  | hbm (d : Die) (src : BitVec 12) (addr : Nat) (len : Nat) (write : Bool)
  deriving DecidableEq, Repr, Inhabited

/-- The logits of one row, one FP32 value for each token of the vocabulary, and their poison mark (R230, R231). -/
structure LogitRow where
  x : List W32
  pois : Bool
  deriving DecidableEq, Repr, Inhabited

/-- What a die's ring engine emits next in one direction (R156, R159, R184): a weight or gradient frame, a buoy, or a packet of
its contribution to an exchange (R194). -/
inductive Emission where
  | weight (seg : BitVec 4) (group : Fin 32)
  | grad (layer : BitVec 12) (seg : BitVec 4) (group : Fin 32) (owner : Die) (fidx : Nat) (payload : Bytes) (pois : Bool)
  | genBuoy
  | layerBuoy
  | passEnd
  | packet (layer : BitVec 12) (xid : BitVec 4) (payload : Bytes) (pois : Bool)
  deriving DecidableEq, Repr, Inhabited

/-- What the governor measures of one slot over one evaluation window (R202): the part of a sweep pass that cannot overlap, and of one
moored layer the attention time at one copy of each KV head and the vector time, in picoseconds; the share of the most loaded arc
direction that other traffic takes, in millionths; the CCLK steps that the power manager predicts for the two modes; and the tokens emitted
in a second. -/
structure Measured where
  tSer : Nat
  tAttn : Nat
  tVec : Nat
  arcBusy : Nat
  stepMoored : Nat
  stepSweep : Nat
  rateNow : Nat
  deriving DecidableEq, Repr, Inhabited

/-- One TLL message (R444): its port sequence number, its class (control when true, R445), its source and destination
chip numbers (R455, R459), a kind code and its payload. -/
structure Msg where
  seq : BitVec 16
  control : Bool
  src : BitVec 12
  dst : BitVec 12
  kind : Nat
  payload : Bytes
  deriving DecidableEq, Repr, Inhabited

/-- What a graph node that ran on another module reports for its completion: beacon at its start, RESULT, and the flags INT_SAT, NAN_CVT,
RESUMED and MIGRATED from bit 0 on (R345, R384). -/
structure NodeReport where
  start : W64 := 0
  result : W64 := 0
  flags : BitVec 4 := 0
  deriving DecidableEq, Repr, Inhabited

/-- One entry of a received member table (R452). -/
structure MemberRow where
  i : Fin 512
  heartbeat : Nat
  hops : Nat
  standby : Bool
  side : Bool
  pattern : BitVec 2
  sercrc : W32
  deriving DecidableEq, Repr, Inhabited

/-- A fog message (R460). -/
structure Fog where
  group : BitVec 5
  module : BitVec 4
  sercrc : W32
  bootEpoch : W32
  cause : BitVec 8
  deriving DecidableEq, Repr, Inhabited

/-- A twin checkpoint as received (R463): the record's address word, its 128 bytes, the KV bytes of the added
positions, and whether its commit word arrived. -/
structure Checkpoint where
  recAddr : W64
  record : Bytes
  kv : Bytes
  committed : Bool
  deriving DecidableEq, Repr, Inhabited

/-- A row of SWS (R140, R146): whether of the upper layer, its sector, bank and row. -/
structure SwsRow where
  upper : Bool
  sector : Fin 32
  bank : Fin 8
  row : Fin 1024
  deriving DecidableEq, Repr, Inhabited

/-- What the tests of a start-up or a reset find (R149, R491, R519, R521): the dies that fail stage 5, 6 or 7, the tiles that self-test
retires, each bypassed column as (tile, array, column), the SWS rows that fail, and the spare rows that fail, in a row's place their
number. -/
structure SelfTest where
  failedDies : List Die
  retiredTiles : List TileNo
  bypassed : List (TileNo × Bool × Fin 128)
  swsRows : List (Die × SwsRow) := []
  badSpares : List (Die × SwsRow) := []
  deriving DecidableEq, Repr, Inhabited

/-- Who asks for a reset (RESET_CAUSE.SOURCE of R551). -/
inductive ResetSource where
  | powerOn
  | perst
  | pcieFlr
  | command
  | glbReset
  | faultNotReady
  | pllLoss
  | fatal (cause : BitVec 8)
  deriving DecidableEq, Repr, Inhabited

/-- The commands of the block: one constructor for each row of the opcode table: in the table's order those with operands, then
those without. -/
inductive Instr where
  /-- `HOST_REGION_WRITE` (R337). A write of HQ_REGION_Ar with VALID = 1 checks PAGES and the extent; on failure VALID reads 0 and REGION_ERR is set. Operands: the region and the value written to HQ_REGION_Ar. -/
  | hostRegionWrite (r : Fin 64) (a : W64)
  /-- `FENCE_REGISTER_WRITE` (R350). A write of HQ_FENCE_CFGf or HQ_FENCE_VALf is applied only while no fetched command names the fence; otherwise it is ignored and FENCE_ERR is set. Operands: the fence, which register (HQ_FENCE_VALf when true, else HQ_FENCE_CFGf), the value written. -/
  | fenceRegisterWrite (f : Fin 256) (val : Bool) (v : W64)
  /-- `SQ_DOORBELL` (R338). Doorbell 0 sets a new SQ TAIL; a TAIL out of range is refused with SQ_ERR. Operands: the value written to doorbell 0. -/
  | sqDoorbell (v : W64)
  /-- `CQ_DOORBELL` (R338). Doorbell 1 sets a new CQ HEAD and frees CQ slots; a HEAD out of range is refused with CQ_ERR. Operands: the value written to doorbell 1. -/
  | cqDoorbell (v : W64)
  /-- `FENCE_DOORBELL` (R353). Doorbell 256 + f raises host-signalable fence f when the write is a single 64-bit access carrying a larger value; otherwise FENCE_ERR is set. Operands: the fence, whether the write is one 64-bit access, the value. -/
  | fenceDoorbell (f : Fin 256) (single64 : Bool) (v : W64)
  /-- `SQ_FETCH` (R340). The ICD fetches the entry at SQ_HEAD into its stream's pending queue, or waits while that queue is full. Operands: whether the PCIe read of the entry succeeds. -/
  | sqFetch (pcieOk : Bool)
  /-- `COMPLETION_WRITE` (R347). A final completion held while the CQ is full is written once a slot frees. Operands: the stream whose held completion is written. -/
  | completionWrite (st : Stream)
  /-- `NOP` (R354). The NOP work command completes with no effect. Operands: the stream whose next entry runs. -/
  | nop (st : Stream)
  /-- `KERNEL` (R368). KERNEL checks and launches a compiled kernel, a PREFILL or a RELEASE on the tiles named by its masks. -/
  | kernel (st : Stream)
  /-- `GRAPH` (R383). GRAPH resolves a stored graph version, checks every node and launches the nodes in edge order. -/
  | graph (st : Stream)
  /-- `GRAPH_NODE_START` (R383). A graph node starts once all of its predecessors have completed with OK, with at most 64 nodes running at once. Operands: the launching stream, the node, and the engine and channel that a DMA node takes. -/
  | graphNodeStart (st : Stream) (node : Nat) (de : Fin 16) (ch : Chan)
  /-- `GRAPH_LAUNCH_MESSAGE` (R383). A named module receives a graph launch and its argument block over the tensor links and checks its own nodes. Operands: the launching module, bytes 0 to 3 of its GRAPH entry, the graph, its digest and the argument block. -/
  | graphLaunchMessage (src : Fin 512) (head : W32) (id : BitVec 16) (version : BitVec 16) (digest : Bytes) (args : Bytes)
  /-- `COMPLETION_TOKEN` (R383). A completion token that arrives over the tensor links satisfies an edge between modules. Operands: the sending module, the launching module and stream, the graph, the edge satisfied, and what the completed node's completion reports. -/
  | completionToken (src : Fin 512) (launcher : Fin 512) (st : Stream) (id : BitVec 16) (edge : Nat) (rep : NodeReport)
  /-- `DMA` (R357). The DMA work command runs one COPY descriptor on the HDE or on a DMA engine of the destination die. Operands: the stream, and the DMA engine and channel that take the descriptor. -/
  | dma (st : Stream) (de : Fin 16) (ch : Chan)
  /-- `SIGNAL` (R351). SIGNAL raises an owned fence to VALUE after its checks. -/
  | signal (st : Stream)
  /-- `WAIT` (R352). WAIT completes once the fence holds at least TARGET; it may instead end by deadlock or timeout. -/
  | wait (st : Stream)
  /-- `WAIT_TIMEOUT` (R352). A WAIT on a host-signalable fence that expires completes with TIMEOUT and increments WD_FIRED. -/
  | waitTimeout (st : Stream)
  /-- `BRANCH` (R372). BRANCH reads COND atomically, applies MASK and CMP, and continues at TARGET or at the next entry. -/
  | branch (st : Stream)
  /-- `BRANCH_POLL_DELAY` (R372). After a taken backward branch has waited 1.00 us, execution continues at TARGET. -/
  | branchPollDelay (st : Stream)
  /-- `LOOP` (R373). LOOP updates its frame counter and jumps back to TARGET or falls through. -/
  | loop (st : Stream)
  /-- `CALL` (R371). CALL opens a frame and runs the command buffer at ADDR entry by entry. -/
  | call (st : Stream)
  /-- `RETURN` (R371). RETURN ends the current frame and resumes the caller after its CALL. -/
  | ret (st : Stream)
  /-- `BARRIER` (R404). The BARRIER work command enters a module or cascade barrier for its stream and completes at release with the beacon value. -/
  | barrier (st : Stream)
  /-- `TIMESTAMP` (R354). TIMESTAMP writes the local beacon value to an 8-byte destination. -/
  | timestamp (st : Stream)
  /-- `DIGEST` (R437). DIGEST computes SHA-256 over its data, optionally compares it with EXPECTED, and writes a digest record. -/
  | digest (st : Stream)
  /-- `DECODE_LOOP` (R244). DECODE_LOOP checks a decode record and drives on-device verify passes for its sequence until an end condition. -/
  | decodeLoop (st : Stream)
  /-- `IDENTIFY` (R361). IDENTIFY writes the 4,096-byte identification structure. -/
  | identify (st : Stream)
  /-- `ATTEST` (R531). ATTEST writes a signed report with the nonce and, when they fit, the certificates. -/
  | attest (st : Stream)
  /-- `BUNDLE_BEGIN` (R360). BUNDLE_BEGIN checks a signed manifest and opens a bundle session for a slot, or starts a restoring load. -/
  | bundleBegin (st : Stream)
  /-- `BUNDLE_CHUNK` (R360). BUNDLE_CHUNK stores a chunk of an open session at its offset. -/
  | bundleChunk (st : Stream)
  /-- `BUNDLE_COMMIT` (R360). BUNDLE_COMMIT verifies the signatures and piece digests and commits a new live generation. -/
  | bundleCommit (st : Stream)
  /-- `BUNDLE_MEMBER_REPORT` (R457). The group master receives a member's READY or failure report for a cascade bundle load. Operands: the reporting module, the slot and READY or the failure. -/
  | bundleMemberReport (member : Fin 16) (slot : Fin 8) (result : MemberResult)
  /-- `BUNDLE_MEMBER_COMMIT` (R457). A member receives COMMIT for a cascade bundle load and writes its directory entry commit last. Operands: the slot, the generation and its digest. -/
  | bundleMemberCommit (slot : Fin 8) (gen : BitVec 16) (gendig : Bytes)
  /-- `WSET_SWITCH` (R216). WSET_SWITCH checks a slot, generation and policy, and schedules the generation to become serving. -/
  | wsetSwitch (st : Stream)
  /-- `MODE_REQUEST` (R205). MODE_REQUEST pins a slot to SWEEP or MOORED, or returns it to AUTO, through a mode epoch. -/
  | modeRequest (st : Stream)
  /-- `RING_CONFIG` (R358). RING_CONFIG either reports the ring state (QUERY) or sets the die-cache staging limit (STAGE_LIMIT). -/
  | ringConfig (st : Stream)
  /-- `CASCADE_JOIN` (R454). CASCADE_JOIN sets the wiring policy, pattern and expected light list, and starts member messages. -/
  | cascadeJoin (st : Stream)
  /-- `TWIN_PAIR` (R462). TWIN_PAIR either pairs the module with its partner in MIRROR or unpairs it. Operands: the stream and what the partner reports. -/
  | twinPair (st : Stream) (p : PartnerReport)
  /-- `POWER_POLICY` (R500). POWER_POLICY sets the power cap and the borrowing switch, recalling all loans first. -/
  | powerPolicy (st : Stream)
  /-- `CLOCK_PIN` (R428). CLOCK_PIN pins or unpins the CCLK step and enters or leaves reproducible mode at the next pass boundary. -/
  | clockPin (st : Stream)
  /-- `TELEMETRY` (R362). TELEMETRY writes the requested page: module, slots, power or faults. -/
  | telemetry (st : Stream)
  /-- `RETIRE` (R471). RETIRE takes the named channel out of service. -/
  | retire (st : Stream)
  /-- `SCRUB` (R130). SCRUB either scrubs the named tiles or switches kill scrubbing off or on. -/
  | scrub (st : Stream)
  /-- `SCRUB_DONE` (R129). A tile scrub ends after 16,800 CCLK cycles and SCRUB_BUSY clears. -/
  | scrubDone (t : TileNo)
  /-- `FW_UPDATE` (R529). FW_UPDATE copies and verifies a firmware image, then erases, programs and commits flash. Operands: the stream, and whether PWR_ALERT# asserts during step 4 or 5. -/
  | fwUpdate (st : Stream) (alertStops : Bool)
  /-- `RESET` (R363). The RESET command starts a reset of the named level; for level 1, 2 or 4 it completes with OK before the reset begins. -/
  | reset (st : Stream)
  /-- `DETACH_PREPARE` (R469). DETACH_PREPARE drains the module, hands its sequences to the twin partner and holds its links down. -/
  | detachPrepare (st : Stream)
  /-- `GRAPH_STORE` (R380). GRAPH_STORE checks a graph image, including acyclicity, and stores it as version 1. -/
  | graphStore (st : Stream)
  /-- `GRAPH_PATCH` (R381). GRAPH_PATCH applies patch records to a stored version and stores the result as a new version, or deletes the graph. -/
  | graphPatch (st : Stream)
  /-- `DELTA_LOAD` (R287). DELTA_LOAD encodes a delta generation from a source in two passes and commits it. Operands: the stream, and what host software writes into the source between the passes, if it does: offset and bytes. -/
  | deltaLoad (st : Stream) (wrote : Option (Nat × Bytes))
  /-- `HOST_TIER_MAP` (R271). HOST_TIER_MAP maps or unmaps a host-tier window. -/
  | hostTierMap (st : Stream)
  /-- `TIME_TAG` (R513). TIME_TAG records a host tag with the local beacon in the 16-slot ring. -/
  | timeTag (st : Stream)
  /-- `FAULT_POLICY` (R478). FAULT_POLICY sets N, W and the action of one bucket kind. -/
  | faultPolicy (st : Stream)
  /-- `TILE_QUEUE_ENABLE` (R56). Setting TILE_QUEUE.Q_EN checks the queue handle and starts TOD fetching, or records HANDLE_RANGE. Operands: the tile and the QHANDLE value written with Q_EN = 1. -/
  | tileQueueEnable (t : TileNo) (qhandle : Fin 64)
  /-- `TILE_QUEUE_TAIL` (R57). A TAIL write to TILE_QUEUE adds TODs to the queue, or is ignored with QUEUE_OVER. Operands: the tile and the TAIL written. -/
  | tileQueueTail (t : TileNo) (tail : BitVec 9)
  /-- `TOD_FETCH` (R56). The sequencer fetches the next TOD into the issue window and advances HEAD. -/
  | todFetch (t : TileNo)
  /-- `TOD_NOP` (R65). The NOP TOD completes at issue. Operands: the tile and the position in its issue window. -/
  | todNop (t : TileNo) (w : Nat)
  /-- `MMA` (R71). MMA folds and runs a multiply-accumulate with stored weights. -/
  | mma (t : TileNo) (w : Nat)
  /-- `MMA_T` (R85). MMA_T multiplies by the transpose of the stored weights. -/
  | mmaT (t : TileNo) (w : Nat)
  /-- `DIST` (R87). DIST runs a distance or compare-count function over the stored weights. -/
  | dist (t : TileNo) (w : Nat)
  /-- `ASHIFT` (R84). ASHIFT shifts the retained weight rows and enters S new rows. -/
  | ashift (t : TileNo) (w : Nat)
  /-- `SOFTMAX` (R92). SOFTMAX computes a masked, scaled softmax per row. -/
  | softmax (t : TileNo) (w : Nat)
  /-- `RMSNORM` (R92). RMSNORM computes RMS normalisation with gain per row. -/
  | rmsnorm (t : TileNo) (w : Nat)
  /-- `GLU` (R92). GLU applies a gated or plain activation. -/
  | glu (t : TileNo) (w : Nat)
  /-- `ROPE` (R92). ROPE applies rotary position encoding. -/
  | rope (t : TileNo) (w : Nat)
  /-- `QUANT` (R92). QUANT scales and converts to a narrow format, including MX blocks. -/
  | quant (t : TileNo) (w : Nat)
  /-- `DEQUANT` (R92). DEQUANT converts and scales to FP32 or BF16. -/
  | dequant (t : TileNo) (w : Nat)
  /-- `TOPK` (R92). TOPK writes the k largest values of each row with their indices. -/
  | topk (t : TileNo) (w : Nat)
  /-- `EWISE` (R92). EWISE computes an element-wise add, multiply or scaled add. -/
  | ewise (t : TileNo) (w : Nat)
  /-- `CONVERT` (R92). CONVERT converts elements between formats. -/
  | convert (t : TileNo) (w : Nat)
  /-- `SEM_SIGNAL` (R98). SEM_SIGNAL sends a count to a semaphore of any tile of the module. -/
  | semSignal (t : TileNo) (w : Nat)
  /-- `SEM_WAIT` (R97). SEM_WAIT waits for an own semaphore to reach COUNT and subtracts it. -/
  | semWait (t : TileNo) (w : Nat)
  /-- `TOD_BARRIER` (R402). The BARRIER TOD enters a module barrier with its context's entry phase. -/
  | todBarrier (t : TileNo) (w : Nat)
  /-- `EVENT` (R99). The EVENT TOD writes its software source number to EVR_DOORBELL. -/
  | event (t : TileNo) (w : Nat)
  /-- `QWAIT` (R376). QWAIT pops an internal queue entry and issues the TOD list that the entry names. -/
  | qwait (t : TileNo) (w : Nat)
  /-- `TASK_END` (R99). TASK_END reports the end of the task and makes the context idle. -/
  | taskEnd (t : TileNo) (w : Nat)
  /-- `SRKEY` (R100). SRKEY sets the stochastic-rounding key of its context. -/
  | srkey (t : TileNo) (w : Nat)
  /-- `TOD_COMPLETE` (R61). A TOD completes once its outputs are stored and visible; PSIG and IRQ then take effect. -/
  | todComplete (t : TileNo) (w : Nat)
  /-- `SEM_REQUEST` (R398). A tile's sync unit applies the signals and serves the waits that reached it in a cycle. -/
  | semRequest (t : TileNo)
  /-- `SEM_SIGNAL_REPORT` (R98). A signal's apply-or-refuse report returns to the signalling tile, completing or faulting the SEM_SIGNAL. -/
  | semSignalReport (t : TileNo) (w : Nat)
  /-- `HANDLE_WRITE` (R113). A HANDLE_Ah write with VALID = 1 checks the entry and sets HT_ERR on failure. Operands: the tile, the handle and the value written to HANDLE_Ah. -/
  | handleWrite (t : TileNo) (h : Fin 64) (a : W64)
  /-- `HANDLE_WRITE_RELEASE` (R114). A held handle write takes effect once no TOD or transfer names the handle. -/
  | handleWriteRelease (t : TileNo) (h : Fin 64)
  /-- `WINDOW_WRITE` (R128). A WIN_Aw write with VALID = 1 checks the window and sets WIN_ERR on failure. -/
  | windowWrite (t : TileNo) (w : Fin 8) (a : W64)
  /-- `REMOTE_ACCESS` (R126). A remote access arriving at a tile is accepted or rejected against the open windows. -/
  | remoteAccess (t : TileNo) (a : Access)
  /-- `PROBE` (R315). A target checks a descriptor's probe against its windows; a refusal ends the descriptor with WIN_PROBE. -/
  | probe (p : ProbeReq)
  /-- `HBM_WINDOW_WRITE` (R276). An HBM_WIN_Aw write with VALID = 1 checks the window and sets WIN_ERR on failure. -/
  | hbmWindowWrite (d : Die) (w : Fin 16) (a : W64)
  /-- `HBM_WINDOW_ACCESS` (R257). An access from another module arrives at an HBM window and is accepted or rejected. -/
  | hbmWindowAccess (d : Die) (a : Access)
  /-- `DMA_CHANNEL_ENABLE` (R307). Setting DMA_Qch.Q_EN starts a channel fetching descriptors; clearing it stops fetching. -/
  | dmaChannelEnable (e : EngineNo) (ch : Chan) (en : Bool)
  /-- `DMA_CHANNEL_TAIL` (R307). A TAIL write to DMA_Qch adds descriptors, or is ignored with QUEUE_OVER. -/
  | dmaChannelTail (e : EngineNo) (ch : Chan) (tail : BitVec 6)
  /-- `COPY` (R311). The COPY descriptor moves rows, optionally in array order or through a codec. -/
  | copy (e : EngineNo) (ch : Chan)
  /-- `GATHER` (R316). The GATHER descriptor reads records at indexed sources. -/
  | gather (e : EngineNo) (ch : Chan)
  /-- `SCATTER` (R316). The SCATTER descriptor writes records to indexed destinations. -/
  | scatter (e : EngineNo) (ch : Chan)
  /-- `FILL` (R311). The FILL descriptor fills rows with a 32-bit pattern. -/
  | fill (e : EngineNo) (ch : Chan)
  /-- `PAGEWALK` (R317). The PAGEWALK descriptor walks PTEs and delivers C positions of KV. -/
  | pagewalk (e : EngineNo) (ch : Chan)
  /-- `BOND` (R321). The BOND descriptor transfers data between an SWS sector and the scratchpad above it. -/
  | bond (e : EngineNo) (ch : Chan)
  /-- `PREFETCH` (R321). The PREFETCH descriptor installs lines in the die cache. -/
  | prefetch (e : EngineNo) (ch : Chan)
  /-- `DESCRIPTOR_COMPLETE` (R309). A descriptor completes once every byte is visible; its post-signal and IRQ follow. -/
  | descriptorComplete (e : EngineNo) (ch : Chan)
  /-- `VERIFY_PASS` (R227). A verify pass drafts the tree, builds the ancestor mask and runs the target model over every node. Operands: the decode record's address word, and the draft head's logits, one row for each node in node order. -/
  | verifyPass (ra : W64) (drafts : List (List W32))
  /-- `VERIFY_PASS_COMMIT` (R238). After acceptance, the deciding die commits pages, token records and the commit word. Operands: the record, the target's logits of each node, and each layer's output rows. -/
  | verifyPassCommit (ra : W64) (rows : List LogitRow) (outs : List (List Bytes))
  /-- `ADMISSION` (R267). When pages free, Rosha admits the sequence at the head of the admission queue and runs its prefill. -/
  | admission (slot : Fin 8)
  /-- `PREFILL_COMMIT` (R267). The last prefill pass draws the first token and writes the commit word. Operands: the record, the logits of position n - 1, and each layer's output rows. -/
  | prefillCommit (ra : W64) (row : LogitRow) (outs : List (List Bytes))
  /-- `PARK` (R273). Rosha parks an idle sequence's KV pages in a host-tier window. Operands: the sequence's record and the host-tier window. -/
  | park (ra : W64) (w : Fin 64)
  /-- `RECALL` (R273). Rosha recalls a parked sequence's pages into HBM3. -/
  | recallSequence (ra : W64)
  /-- `GENERATION_PARK` (R274). Rosha moves an unused live generation to a GEN window, or brings it back. Operands: the generation, the window, and whether it is brought back. -/
  | generationPark (slot : Fin 8) (gen : BitVec 16) (w : Fin 64) (back : Bool)
  /-- `FRAME_EMIT` (R165). An owner emits its next frame or buoy once the preceding segment is taken and it holds a credit. Operands: the owner, the direction and what its ring engine emits next. -/
  | frameEmit (d : Die) (dir : Dir) (f : Emission)
  /-- `FRAME_ARRIVAL` (R172). A WEIGHT frame arrives and is checked against PASS, GEN and its CRCs. Operands: the receiving die, the direction, and the bits of header and payload that transfer damaged. -/
  | frameArrival (d : Die) (dir : Dir) (hx : Bytes) (px : Bytes)
  /-- `FRAME_TAKE` (R162). A tile's stream port has read a frame's whole payload; the frame is then forwarded or dropped. Operands: the die, the direction and the buffer slot. -/
  | frameTake (d : Die) (dir : Dir) (i : Nat)
  /-- `RUN_ENTRY_PUSH` (R377). A ring engine pushes a run entry to RQID, waiting while the queue is full. -/
  | runEntryPush (d : Die) (dir : Dir) (i : Nat)
  /-- `GEN_BUOY` (R159). A GEN buoy arrives, is checked and forwarded. -/
  | genBuoy (d : Die) (dir : Dir) (hx : Bytes)
  /-- `LAYER_BUOY` (R160). A LAYER buoy arrives and is checked for order. -/
  | layerBuoy (d : Die) (dir : Dir) (hx : Bytes)
  /-- `PASS_END_BUOY` (R160). A PASS_END buoy arrives and its run count is checked. -/
  | passEndBuoy (d : Die) (dir : Dir) (hx : Bytes)
  /-- `GRAD_FRAME` (R185). A GRAD frame arrives; the die adds its contribution and forwards the frame, or holds it. Operands: the die, the direction, damaged header and payload bits, and the die's contribution when it has computed it. -/
  | gradFrame (d : Die) (dir : Dir) (hx : Bytes) (px : Bytes) (own : Option Bytes) (ownPois : Bool)
  /-- `CREDIT_RETURN` (R167). A credit return arrives on the service channel and restores a credit upstream. -/
  | creditReturn (d : Die) (dir : Dir)
  /-- `RE_REQUEST` (R175). The owner receives a re-request, re-reads the frame and resends it with RESENT = 1. Operands: the die that the request reaches, the owner or one that relays it, and the direction of the frame. -/
  | reRequest (d : Die) (dir : Dir)
  /-- `RESENT_COPY` (R175). The requesting die checks a resent copy and fills the kept slot with it. Operands: the die that the copy reaches, the requester or one that relays it, the direction, and the bits of header and payload that transfer damaged. -/
  | resentCopy (d : Die) (dir : Dir) (hx : Bytes) (px : Bytes)
  /-- `RE_REQUEST_TIMEOUT` (R176). A re-request unanswered within 200 us counts as a failed attempt; after four failures the frame is poisoned. -/
  | reRequestTimeout (d : Die) (dir : Dir) (i : Nat)
  /-- `PASS_COMPLETE` (R172). A die completes a pass and reports it. -/
  | passComplete (d : Die)
  /-- `EXCHANGE_PACKET` (R196). An exchange packet arrives, is written to its destination buffer and forwarded. -/
  | exchangePacket (d : Die) (dir : Dir) (hx : Bytes) (px : Bytes)
  /-- `EXCHANGE_COMPLETE` (R198). An exchange completes on a die and signals its semaphores. -/
  | exchangeComplete (d : Die) (layer : BitVec 12) (xid : BitVec 4)
  /-- `EXCHANGE_RE_REQUEST` (R199). The source receives an exchange re-request and resends the packet. -/
  | exchangeReRequest (d : Die) (dir : Dir)
  /-- `EXCHANGE_RESEND_TIMEOUT` (R199). An exchange re-request unanswered within 20 us fails; after four failures the packet is poisoned. -/
  | exchangeResendTimeout (d : Die) (i : Nat)
  /-- `GOVERNOR_EVALUATION` (R204). At each 20 ms window the governor evaluates each slot and may propose a mode change. Operands: the slot and what was measured in the window. -/
  | governorEvaluation (slot : Fin 8) (m : Measured)
  /-- `PROPOSE` (R209). A die receives PROPOSE, prepares and idles, or refuses. Operands: the die, the epoch number that the message carries, and whether the die can hold the new configuration. -/
  | propose (d : Die) (e : W32) (canHold : Bool)
  /-- `PREPARED` (R208). Rosha receives PREPARED with the die's audit sums. -/
  | prepared (d : Die)
  /-- `REFUSED` (R208). Rosha receives REFUSED and aborts the epoch. -/
  | refused (d : Die)
  /-- `COMMIT` (R210). A die receives COMMIT and applies the reserve, topology and slot modes. Operands: the die and the epoch number. -/
  | commit (d : Die) (e : W32)
  /-- `COMMITTED` (R210). Rosha receives COMMITTED; once every die has sent it, the new epoch's passes may start. -/
  | committed (d : Die)
  /-- `SETTLE_COMPLETE` (R213). The settle stage ends, page tables are rewritten and the slot's first pass may run. -/
  | settleComplete (slot : Fin 8)
  /-- `ABORT` (R211). A die receives ABORT, discards its prepared state and resumes the old epoch. Operands: the die and the epoch number. -/
  | abort (d : Die) (e : W32)
  /-- `REVERTED` (R211). Rosha receives REVERTED from a die. -/
  | reverted (d : Die)
  /-- `COMMITTED_DEADLINE` (R212). A missed COMMITTED deadline retires the die. -/
  | committedDeadline (d : Die)
  /-- `REVERTED_DEADLINE` (R212). A missed REVERTED deadline retires the die. -/
  | revertedDeadline (d : Die)
  /-- `HEARTBEAT_LOSS` (R475). No heartbeat from a die arrives for 1.00 ms, a stuck condition. -/
  | heartbeatLoss (d : Die)
  /-- `ARC_FLIT_NAK` (R174). An arc flit fails its CRC and is replayed; a ninth failure retrains the arc. -/
  | arcFlitNak (k : Fin 8)
  /-- `ARC_RETRAIN_DONE` (R476). An arc retrain ends, and the affected pass is re-run. -/
  | arcRetrainDone (k : Fin 8)
  /-- `KILL` (R389). Writing CP_KILL bit s kills the running work command of stream s. -/
  | kill (st : Stream)
  /-- `WATCHDOG_EXPIRY` (R388). A command without progress for CP_WDOG.LIMIT ms is killed and completes with TIMEOUT. -/
  | watchdogExpiry (st : Stream)
  /-- `BARRIER_CONFIG_WRITE` (R405). A configuring write of MBARb or CBARc is accepted while the barrier is idle, or refused with CFG_ERR. Operands: the kind, the barrier and the value written to MBARb or CBARc. -/
  | barrierConfigWrite (casc : Bool) (b : Fin 64) (v : W64)
  /-- `BARRIER_ROUND_COMPLETE` (R403). A barrier round completes: entrants are released and held entries are placed again. -/
  | barrierRoundComplete (casc : Bool) (b : Fin 64)
  /-- `BEACON_EXCHANGE` (R408). Every 4,096 BCLK cycles a module exchanges timestamps with its upstream peer and sets or slews its offset. -/
  | beaconExchange (t1 : W64) (t2 : W64) (t3 : W64) (t4 : W64)
  /-- `ARRIVE` (R411). The timing root receives ARRIVE for a cascade barrier round. -/
  | arrive (member : Fin 512) (c : Fin 64) (round : BitVec 2)
  /-- `RELEASE` (R411). A member receives RELEASE for a cascade barrier round. -/
  | release (c : Fin 64) (round : BitVec 2) (trel : W64)
  /-- `CASCADE_RELEASE_TIME` (R411). A member's cascade time reaches T_rel and it releases its entrants. -/
  | cascadeReleaseTime (c : Fin 64)
  /-- `EVR_DOORBELL` (R414). A write of EVR_DOORBELL fires a software source, or is ignored and counted in DB_IGN. -/
  | evrDoorbell (v : W32)
  /-- `EVR_FCLR` (R415). A write of EVR_FCLR clears the fire counter of the named source. Operands: the value written, and the fires that reach the source in the same cycle. -/
  | evrFclr (v : W32) (fires : Nat)
  /-- `EVR_EN_WRITE` (R422). A write of EVR_ENw replaces 32 enable bits, presenting enabled sources that are still pending. -/
  | evrEnWrite (w : Fin 32) (v : W32)
  /-- `EVR_PEND_WRITE` (R422). A write of EVR_PENDw replaces 32 pending bits; a hardware set in the same cycle wins. Operands: the word, the value, and the bits hardware sets in the same cycle. -/
  | evrPendWrite (w : Fin 32) (v : W32) (hw : W32)
  /-- `KEEPER_TAKE` (R419). A keeper core advances HEAD by one and takes a record, pushing its running priority. Operands: the core and the HEAD written. -/
  | keeperTake (k : Fin 4) (head : BitVec 4)
  /-- `EOI` (R419). A write of EVR_EOIk pops the stack, or sets EOI_ERR on a mismatch. -/
  | eoi (k : Fin 4) (src : BitVec 10)
  /-- `KEEPER_WAKE` (R421). A pending event wakes a sleeping keeper core, whose state is restored within 32 KCLK cycles. -/
  | keeperWake (k : Fin 4)
  /-- `KEEPER_SLEEP` (R421). A keeper core sleeps and its router state is saved. -/
  | keeperSleep (k : Fin 4)
  /-- `HOST_EVENT_QUEUE_HEAD` (R417). The driver writes an event queue HEAD, and MSI-X is re-sent if records remain. -/
  | hostEventQueueHead (v : Fin 64) (head : BitVec 13)
  /-- `HOST_EVENT_QUEUE_ENABLE` (R425). Setting or clearing EN of EVR_HQBASEv enables or disables a host event queue, with checks. Operands: the queue and the value written to EVR_HQBASEv. -/
  | hostEventQueueEnable (v : Fin 64) (value : W64)
  /-- `MSIX_VECTOR_UNMASK` (R554). Unmasking a vector whose pending bit is set sends its message. -/
  | msixVectorUnmask (v : Fin 64)
  /-- `LINK_SIGNAL_DETECT` (R448). A DOWN link detects signal and enters TRAIN. -/
  | linkSignalDetect (n : LinkNo)
  /-- `LINK_TRAINED` (R448). A link finishes training and enters DISCOVER. Operands: the link, and which lane groups trained. -/
  | linkTrained (n : LinkNo) (lg0 : Bool) (lg1 : Bool)
  /-- `LINK_TRAIN_TIMEOUT` (R448). A link not trained within 100 ms returns to DOWN. -/
  | linkTrainTimeout (n : LinkNo)
  /-- `CHARACTERISTIC_FRAME` (R449). A valid characteristic frame arrives, and the link's admission checks and light list are updated. -/
  | characteristicFrame (n : LinkNo) (frame : Bytes)
  /-- `CHARACTERISTIC_FRAME_SEND` (R447). A link's frame timer expires and it sends a characteristic frame. -/
  | characteristicFrameSend (n : LinkNo)
  /-- `LINK_SILENCE_TIMEOUT` (R451). A link that has heard no valid frame for 3.00 ms returns to TRAIN. -/
  | linkSilenceTimeout (n : LinkNo)
  /-- `LINK_SIGNAL_LOSS` (R444). A link leaves its port; unacknowledged messages are resent on the port's other links. -/
  | linkSignalLoss (n : LinkNo)
  /-- `FLIT_NAK` (R442). A flit CRC failure causes a NAK and a replay; a ninth failure retrains the link. -/
  | flitNak (n : LinkNo)
  /-- `MESSAGE` (R444). A TLL message arrives and is delivered in port sequence order. -/
  | message (n : LinkNo) (m : Msg)
  /-- `MEMBER_MESSAGE` (R452). A member message arrives, and heartbeats and routes are merged. -/
  | memberMessage (p : Fin 8) (rows : List MemberRow)
  /-- `MEMBER_HEARTBEAT_TIMEOUT` (R452). A member whose heartbeat has not advanced for 50.0 ms is marked LOST. -/
  | memberHeartbeatTimeout (i : Fin 512)
  /-- `FOG_MESSAGE` (R460). A fog message arrives; it is relayed, its source is marked LOST and dependent transfers end. -/
  | fogMessage (p : Fin 8) (f : Fog)
  /-- `TWIN_LOG_ENTRY` (R463). The partner receives a mirrored command's submission entry and decode record. -/
  | twinLogEntry (entry : Bytes) (record : Bytes)
  /-- `TWIN_CHECKPOINT` (R463). The partner receives a checkpoint and stores it commit last. -/
  | twinCheckpoint (c : Checkpoint)
  /-- `CHECKPOINT_ACK` (R464). A side receives a checkpoint acknowledgement, unblocking completions or completing PAIRING. -/
  | checkpointAck (ra : W64)
  /-- `WRITTEN_NOTICE` (R464). The partner receives a written notice and drops the command's log entry. -/
  | writtenNotice (tag : BitVec 16)
  /-- `FATAL_FAULT` (R489). A fatal fault ends service, sends the fog message and enters the listed state. -/
  | fatalFault (cause : BitVec 8)
  /-- `SPINE_LOSS` (R490). A die that has lost the control spine for 1.00 ms sends the fog message itself. -/
  | spineLoss (d : Die)
  /-- `POWER_ON` (R569). PWR_EN asserts and the power-on sequence starts. Operands: what start-up's tests find. -/
  | powerOn (t : SelfTest)
  /-- `GRANT_INTERVAL` (R502). Every 100 us the power manager sets the reserve and grants tokens afresh. Operands: the reserve's measured draw in W, and for each die stack by how many W its draw stayed below its allowance. -/
  | grantInterval (reserveDraw : Nat) (slack : List Nat)
  /-- `DRAW_SAMPLE` (R504). Every 10 us a die stack compares its draw with its allowance and adjusts THR. -/
  | drawSample (d : Die) (draw : BitVec 9)
  /-- `LOAN` (R505). A die stack whose contexts are all stalled lends tokens to throttled stacks. Operands: the lender and the stall that the wait predictor expects. -/
  | loan (d : Die) (predictedUs : Nat)
  /-- `LOAN_RECALL` (R506). When the lender's wait is satisfied, the loan is recalled before its contexts are released. -/
  | loanRecall (d : Die)
  /-- `CCLK_STEP_DOWN` (R508). THR held high for its interval lowers CCLK by one step. -/
  | cclkStepDown (d : Die)
  /-- `JUNCTION_HOT` (R509). Tj at 95 °C or above raises THR and sets THERM_LIM. -/
  | junctionHot (d : Die) (tj : BitVec 8)
  /-- `JUNCTION_HOT_HOLD` (R509). Tj at 95 °C or above for 1.00 ms lowers CCLK by one step. -/
  | junctionHotHold (d : Die)
  /-- `JUNCTION_CRITICAL` (R509). Tj at 100 °C or above drops CCLK to step 3. -/
  | junctionCritical (d : Die) (tj : BitVec 8)
  /-- `THERMAL_TRIP` (R509). Tj at 105 °C or above is a thermal trip, fatal cause 0x04. -/
  | thermalTrip (d : Die) (tj : BitVec 8)
  /-- `COOLANT_INLET_HIGH` (R509). A coolant inlet above 40 °C sets COOL_WARN and derates the cap. Operands: the inlet temperature in 0.1 degrees C. -/
  | coolantInletHigh (tenths : BitVec 12)
  /-- `FUNCTION_LEVEL_RESET` (R491). A level-1 reset from GLB_RESET, RESET or PCIe FLR kills work and resets the host-queue state. -/
  | functionLevelReset (src : ResetSource)
  /-- `WARM_RESET` (R491). A level-2 reset restarts Rosha and drops links, keeping weights and KV. -/
  | warmReset (src : ResetSource)
  /-- `DIE_RESET` (R491). A level-3 reset resets one die, reloads its SWS and runs its self-test. -/
  | dieReset (d : Die) (src : ResetSource)
  /-- `DIE_RESET_COMPLETE` (R492). A reset die returns at its own topology epoch, or is retired on self-test failure. Operands: the die and what its tests find. -/
  | dieResetComplete (d : Die) (t : SelfTest)
  /-- `MODULE_READY` (R519). Start-up or recovery after a function-level, warm or cold reset finishes and HQ_STATUS.READY is set. Operands: what the tests of the reset find. -/
  | moduleReady (t : SelfTest)
  /-- `COLD_RESET` (R491). A level-4 reset clears the module and runs full start-up. -/
  | coldReset (src : ResetSource)
  /-- `PROGRAM` (R527). REC_CTRL OP PROGRAM programs a recovery page from REC_DATA. -/
  | program (page : BitVec 14)
  /-- `TFTP_WRITE_REQUEST` (R528). A TFTP write of rosha on J3 programs recovery pages. -/
  | tftpWriteRequest (name : Bytes) (blksize : Nat)
  /-- `ENROL` (R532). SEC_CTRL OP ENROL enrols a publisher key from SEC_STAGE. -/
  | enrol (index : Fin 16)
  /-- `REVOKE` (R532). SEC_CTRL OP REVOKE empties a publisher key index. -/
  | revoke (index : Fin 16)
  /-- `DEBUG_FETCH` (R564). A checked DBG_ADDR write starts a 4 KiB fetch into DBG_DATA. -/
  | debugFetch (a : W64)
  /-- `AP_SEG_WRITE` (R560). An AP_SEGs write with VALID = 1 checks and maps a BAR4 segment, or sets AP_ERR. -/
  | apSegWrite (seg : Fin 64) (v : W64)
  /-- `BAR4_READ` (R561). A host read through BAR4 reaches die memory or returns zero. -/
  | bar4Read (off : Nat) (len : Nat)
  /-- `BAR4_WRITE` (R561). A host write through BAR4 reaches die memory or is discarded. -/
  | bar4Write (off : Nat) (data : Bytes)
  /-- `BAR4_RESIZE` (R562). A BAR4 size change clears VALID in every segment. Operands: the new size as a power of two of bytes. -/
  | bar4Resize (log2 : Fin 64)
  /-- `BAR0_IMPROPER_ACCESS` (R545). A BAR0 access of the wrong width or alignment is refused and counted in ACC_BAD. -/
  | bar0ImproperAccess (write : Bool) (off : Nat) (width : Nat)
  /-- `POWER_STATE_CHANGE` (R544). The function moves between D0 and D3hot, which governs BAR decoding and WAKE#. -/
  | powerStateChange (d3 : Bool)
  /-- `UDP_TELEMETRY_REQUEST` (R575). A 1-byte datagram to UDP port 7140 returns telemetry from that index. -/
  | udpTelemetryRequest (datagram : Bytes)
  /-- `ICMP_ECHO_REQUEST` (R575). The management port answers an ICMP echo. -/
  | icmpEchoRequest (data : Bytes)
  /-- `I3C_PRIVATE_WRITE` (R576). A one-byte I3C private write sets the telemetry index. -/
  | i3cPrivateWrite (bus : Fin 2) (data : Bytes)
  /-- `I3C_PRIVATE_READ` (R576). An I3C private read returns telemetry snapshots from the index onward. -/
  | i3cPrivateRead (bus : Fin 2) (len : Nat)
  /-- `I3C_ADDRESS_ASSIGNMENT` (R576). SETDASA or ENTDAA assigns the target's dynamic address. -/
  | i3cAddressAssignment (bus : Fin 2) (addr : BitVec 7)
  /-- `TILE_COUNTS_CNT_CLR` (R104). TILE_COUNTS.CNT_CLR clears the tile's three counts. -/
  | tileCountsCntClr (t : TileNo)
  /-- `SPAD_COUNTS_CNT_CLR` (R132). SPAD_COUNTS.CNT_CLR clears the scratchpad's three counts. -/
  | spadCountsCntClr (t : TileNo)
  /-- `DC_ECC_CNT_CLR` (R139). DC_ECC.CNT_CLR clears DC_STATS and the die-cache ECC counts. -/
  | dcEccCntClr (d : Die)
  /-- `SWP_STATUS_CNT_CLR` (R187). SWP_STATUS.CNT_CLR clears the four counts of SWP_ERR. -/
  | swpStatusCntClr (d : Die)
  /-- `MODE_STATUS_CNT_CLR` (R220). MODE_STATUS.CNT_CLR clears the four counts of XCH_ERR. -/
  | modeStatusCntClr (d : Die)
  /-- `CDC_ERR_CNT_CLR` (R305). CDC_ERR.CNT_CLR clears the counts of CDC_ERR and CDC_AZC. -/
  | cdcErrCntClr (d : Die)
  /-- `DMA_COUNTS_CNT_CLR` (R330). DMA_COUNTS.CNT_CLR clears the engine's three counts. -/
  | dmaCountsCntClr (e : EngineNo)
  /-- `TL_ERR_CNT_CLR` (R472). TL_ERRn.CNT_CLR clears the link's error counts. -/
  | tlErrCntClr (n : LinkNo)
  /-- `ARC_STATUS_CNT_CLR` (R558). ARC_STATUSk.CNT_CLR clears the arc counts and ARC_BYTESk. -/
  | arcStatusCntClr (k : Fin 8)
  /-- `REGISTER_WRITE` (R11). A write to a register without a row of its own acts per its access codes, including W1C clears with R13 collision counting. Operands: the BAR0 offset, whether the access is 64 bits, the value, and the W1C bits hardware sets in the same cycle. -/
  | registerWrite (off : Nat) (wide : Bool) (v : W64) (hw : W64)
  /-- `HEARTBEAT` (R475). A heartbeat from a Quema die's local sequencer arrives at the ICD over the control spine, increments HB_CNT and restarts the 1.00 ms loss timer. -/
  | heartbeat (d : Die)
  /-- `DHCP_LEASE` (R528). A DHCP reply on J3 gives the management port its IPv4 address. -/
  | dhcpLease (addr : W32)
  /-- `TFTP_DATA` (R528). A TFTP data block of the rosha transfer arrives; its bytes are programmed as pages, and the final block acts as FINISH. -/
  | tftpData (data : Bytes) (last : Bool)
  /-- `QUEUE_ENABLE` (R335). Writing HQ_CTRL.EN = 1 checks the queue sizes and READY, then enables the SQ and CQ with the counters reset and the phase set to 1, or refuses with SQ_ERR. -/
  | queueEnable
  /-- `QUEUE_DISABLE` (R335). Writing HQ_CTRL.EN = 0 stops SQ fetching; commands already fetched run on to their final completions. -/
  | queueDisable
  /-- `QUEUE_IDLE` (R335). After a disable, once every fetched command has written its completions, the module sets HQ_STATUS.IDLE. -/
  | queueIdle
  /-- `CASCADE_JOIN_SETTLED` (R454). CASCADE_JOIN completes once the light list has been stable for 100 ms, or at 5.00 s. -/
  | cascadeJoinSettled
  /-- `TWIN_PAIR_TIMEOUT` (R462). A TWIN_PAIR whose partner has not issued TWIN_PAIR within 10.0 s completes with TIMEOUT. -/
  | twinPairTimeout
  /-- `PASS_BOUNDARY` (R217). At the end of a pass the module applies pending changes, checks loop end conditions and launches the next pass. -/
  | passBoundary
  /-- `PREPARED_DEADLINE` (R208). The PREPARED deadline of 2.000 ms passes and Rosha aborts the epoch. -/
  | preparedDeadline
  /-- `AUDIT_REQUEST` (R487). Writing AUD_CTRL.REQ requests an audit at the next pass boundary. -/
  | auditRequest
  /-- `CONSERVATION_AUDIT` (R487). Rosha checks every audit sum at a quiet point and fires source 707. -/
  | conservationAudit
  /-- `EVENT_ROUTING` (R416). A pending, enabled source is routed to an accepting target and its record is written. -/
  | eventRouting
  /-- `MEMBER_MESSAGE_SEND` (R452). Every 10.0 ms a joined module sends its member table on every UP port. -/
  | memberMessageSend
  /-- `KEEPER_WATCHDOG` (R489). All four keeper cores miss their watchdog, a fatal fault. -/
  | keeperWatchdog
  /-- `PWR_EN_DEASSERT` (R571). PWR_EN deasserts; the module acts as on PWR_ALERT# and powers down after 2.00 ms. -/
  | pwrEnDeassert
  /-- `PWR_ALERT_ASSERT` (R498). PWR_ALERT# asserts: allowances fall, loans are recalled and flash commits complete. -/
  | pwrAlertAssert
  /-- `PWR_ALERT_DEASSERT` (R498). PWR_ALERT# deasserts with input at 46 V or above, and ALERT clears. -/
  | pwrAlertDeassert
  /-- `GRANT_RESUME` (R498). Normal grants resume 10.0 ms after PWR_ALERT# deasserts. -/
  | grantResume
  /-- `INPUT_UNDERVOLTAGE` (R496). Input below 42 V opens the hot-swap switch within 10 us. -/
  | inputUndervoltage
  /-- `INPUT_LOW` (R496). Input from 42 V to below 46 V for 100 us is treated as fatal cause 0x03. -/
  | inputLow
  /-- `INPUT_HIGH` (R496). Input above 56 V up to 58 V sets INPUT_WARN. -/
  | inputHigh
  /-- `INPUT_OVERVOLTAGE` (R496). Input above 58 V opens the hot-swap switch. -/
  | inputOvervoltage
  /-- `OVERCURRENT` (R497). A current above 80 A for 200 us is a hot-swap controller fault. -/
  | overcurrent
  /-- `CCLK_STEP_UP` (R508). With THR 0 everywhere and 10.0 ms since the last change, CCLK rises one step. -/
  | cclkStepUp
  /-- `PLL_LOCK_LOSS` (R510). The root PLL loses lock; the module holds cold reset while the beacon counts from the reference. -/
  | pllLockLoss
  /-- `PLL_RELOCK` (R510). The PLL locks again; the beacon returns to BCLK and start-up runs. -/
  | pllRelock
  /-- `PERST_ASSERT` (R570). PERST# asserted for more than 10 us after its first deassertion is a level-4 reset. -/
  | perstAssert
  /-- `PERST_DEASSERT` (R570). PERST# deasserts and the PCIe endpoint leaves reset. -/
  | perstDeassert
  /-- `FINISH` (R527). REC_CTRL OP FINISH verifies and commits the recovered image, then cold starts. -/
  | finish
  /-- `RECOVERY_ABORT` (R527). REC_CTRL OP ABORT forgets the programmed pages. -/
  | recoveryAbort
  /-- `DHCP_LEASE_TIMEOUT` (R528). With no DHCP lease after 10.0 s, the port takes a link-local address. -/
  | dhcpLeaseTimeout
  /-- `KEYS_LOCK` (R537). SEC_CTRL OP KEYS_LOCK locks enrolment and revocation until cold reset. -/
  | keysLock
  /-- `CHALLENGE` (R536). SEC_CTRL OP CHALLENGE places a fresh debug challenge in DBG_CHAL. -/
  | challenge
  /-- `DEBUG_UNLOCK` (R536). SEC_CTRL OP DEBUG_UNLOCK verifies the staged debug key and signatures and unlocks debug. -/
  | debugUnlock
  /-- `DEBUG_LOCK` (R536). SEC_CTRL OP DEBUG_LOCK locks debug and clears the debug data. -/
  | debugLock
  /-- `DEBUG_FETCH_DONE` (R564). The debug fetch completes, and BUSY clears with DBG_DATA and DBG_POIS updated. -/
  | debugFetchDone
  /-- `ARP_REQUEST` (R575). The management port answers ARP. -/
  | arpRequest
  /-- `HQ_COUNTS_CNT_CLR` (R334). HQ_COUNTS.CNT_CLR clears the host-queue counts. -/
  | hqCountsCntClr
  /-- `CP_CAP_CNT_CLR` (R393). CP_CAP.CNT_CLR clears COLL_CNT and DEADLOCK_CNT. -/
  | cpCapCntClr
  /-- `EVR_STATUS_CNT_CLR` (R424). EVR_STATUS.CNT_CLR clears the event router's counts. -/
  | evrStatusCntClr
  /-- `BCN_STATUS_CNT_CLR` (R412). BCN_STATUS.CNT_CLR clears LATE_REL. -/
  | bcnStatusCntClr
  /-- `PWR_COUNTS_CNT_CLR` (R516). PWR_COUNTS.CNT_CLR clears the power counts. -/
  | pwrCountsCntClr
  /-- `GLB_COUNTS_CNT_CLR` (R551). GLB_COUNTS.CNT_CLR clears the global counts. -/
  | glbCountsCntClr
  /-- `REC_OPERATION_DONE` (R527). A recovery PROGRAM, FINISH or ABORT operation ends and REC_STATUS.BUSY clears. -/
  | recOperationDone
  /-- `SEC_OPERATION_DONE` (R532). A SEC_CTRL operation such as ENROL or REVOKE ends within its bound, writes RES and clears SEC_STATUS.BUSY. -/
  | secOperationDone
  /-- `INPUT_BELOW_46V` (R498). The input falls below 46 V while PWR_ALERT# is asserted; the module sends the fog message and powers down with cause 0x03. -/
  | inputBelow46V
  deriving DecidableEq, Repr

end Sys2Proof
end

