-- ==== Sys2Proof/Config.lean ====
section
/-!
DEFINITION. What one part fixes and what the spec leaves open: the free values (opaque constants without a body), the
per-part values of the global registers, and the decoded form of a bundle manifest, whose layout beyond R533 the spec
does not give.
-/

namespace Sys2Proof

/-- One exchange of a model's exchange plan (R192, R195, R198). -/
structure XPlan where
  layer : Nat
  xid : Nat
  /-- element format of the PLACE fields (R38) -/
  fmt : Nat
  /-- columns of one die's slice, and FP32 partial values that one die contributes, of each row -/
  cols : Nat
  sums : Nat
  /-- offset within the die's HBM3 of the destination buffer of PLACE fields; the contribution of die d starts d times its length further
  on -/
  dest : Nat
  /-- offset within the die's HBM3 of the SUM fields' destination buffer -/
  sumDest : Nat
  /-- semaphores signalled at completion: tile within the die, semaphore, count -/
  sems : List (Nat × Nat × Nat)
  deriving DecidableEq, Repr, Inhabited

/-- One tensor of a model's tensor directory (R280, R282, R287). -/
structure Tensor where
  /-- format code of R38 -/
  fmt : Nat
  elements : Nat
  /-- a matrix used as an array weight -/
  weight : Bool
  /-- byte offset in the bundle, in the order of the weight operand of R74 -/
  off : Nat
  /-- level table of a TQ format (R42) -/
  levels : Bytes
  /-- layer and segment that use it, inputs and output columns (R150, R151) -/
  layer : Nat := 0
  seg : Nat := 0
  rows : Nat := 0
  cols : Nat := 0
  /-- the tensor that holds the RMS normalisation gain of its inputs, to be folded into it (R193) -/
  gain : Option Nat := none
  /-- first column and the column after the last that this module's role keeps; none: all (R456) -/
  part : Option (Nat × Nat) := none
  deriving DecidableEq, Repr, Inhabited

/-- What a bundle manifest says of its model (R192, R221, R227, R261, R263, R436). -/
structure ModelInfo where
  vocab : Nat := 1
  ctxMax : Nat := 0
  layers : Nat := 1
  qHeads : Nat := 8
  kvHeads : Nat := 8
  headDim : Nat := 64
  /-- format code of the KV entries -/
  kvFmt : Nat := 2
  /-- bytes of one layer-output row in the format of the layer-output exchange -/
  rowBytes : Nat := 64
  weightBytes : Nat := 0
  /-- SHA-256 of the decode, prefill and release kernels -/
  decodeDigest : Bytes := []
  prefillDigest : Bytes := []
  releaseDigest : Bytes := []
  plan : List XPlan := []
  tensors : List Tensor := []
  /-- the map from draft token to target token, as a list -/
  draftMap : List Nat := []
  /-- the mask buffers that the decode kernel names (R229): the die-local address of a pass's first sequence's, and from one to the next -/
  maskBuf : Nat := 0
  maskStep : Nat := 0
  /-- which half of the columns this module keeps in the SPLIT pattern (R456) -/
  side : Option Bool := none
  deriving DecidableEq, Repr, Inhabited

/-- FREE. How far the module's exp of an FP32 argument lies from the exact FP32 result: k units in the last place less 2 (R94). -/
opaque Config.expErr : W32 → Fin 5
/-- FREE. The same for the reciprocal square root. -/
opaque Config.rsqrtErr : W32 → Fin 5
/-- FREE. The same for sin. -/
opaque Config.sinErr : W32 → Fin 5
/-- FREE. The same for cos. -/
opaque Config.cosErr : W32 → Fin 5
/-- FREE. The same for tanh. -/
opaque Config.tanhErr : W32 → Fin 5
/-- FREE. A power of ROPE's base, b to the power -2i/D for i at least 1, in FP32, for which R94 gives no accuracy: base, i, D. -/
opaque Config.powF32 : W32 → Nat → Nat → W32
/-- FREE. The element codes of an MX block with a NaN or an infinity, for which R53 gives X alone: format, FP32 inputs, element. -/
opaque Config.mxBadCode : Nat → List W32 → Nat → Nat
/-- FREE. Byte i of a stored group of 128 weights into which an RMS normalisation gain is folded, for which R193 gives no encoding: format,
the gains of its rows as stored, the group as loaded, i. -/
opaque Config.foldGain : Nat → Bytes → Bytes → Nat → Byte
/-- FREE. A byte that the spec leaves undefined: the n-th one taken. -/
opaque Config.freeByte : Nat → Byte
/-- FREE. Which of several choices the spec leaves open is taken: the n-th one, below the given bound. -/
opaque Config.freePick : Nat → Nat → Nat
/-- FREE. The set of a die-cache slice that holds a line (R133): line number of the die-local address, to a set below 512. -/
opaque Config.cacheSet : Nat → Nat
/-- FREE. Whether a slot's gradients are BF16, else FP32 (R183): a fine-tuning parameter of a job whose layout is not given. -/
opaque Config.gradBf16 : Nat → Bool
/-- FREE. Fresh random bytes of a debug challenge (R536): the n-th challenge. -/
opaque Config.challenge : Nat → Bytes
/-- FREE. Whether an Ed25519 signature verifies (RFC 8032; R522): key, message, signature. -/
opaque Config.ed25519Verifies : Bytes → Bytes → Bytes → Bool
/-- FREE. Whether an ML-DSA-65 signature verifies (FIPS 204; R522): key, message, signature. -/
opaque Config.mldsaVerifies : Bytes → Bytes → Bytes → Bool
/-- FREE. The identity's Ed25519 signature over a message (R530, R531). -/
opaque Config.idEdSign : Bytes → Bytes
/-- FREE. The identity's ML-DSA-65 signature over a message (R530, R531). -/
opaque Config.idMlSign : Bytes → Bytes
/-- FREE. Whether an Ed25519 public key decodes (SEC_STATUS.RES 4 of R537). -/
opaque Config.edKeyDecodes : Bytes → Bool
/-- FREE. Whether an ML-DSA-65 public key decodes. -/
opaque Config.mlKeyDecodes : Bytes → Bool
/-- FREE. The identity Ed25519 public key (R530). -/
opaque Config.idEdKey : Bytes
/-- FREE. The identity ML-DSA-65 public key (R530). -/
opaque Config.idMlKey : Bytes
/-- FREE. The certificates of the records region (R530). -/
opaque Config.certs : Bytes
/-- FREE. The reading of a manifest body: its layout beyond R533's first 24 bytes is not given. -/
opaque Config.manifestModel : Bytes → ModelInfo
/-- FREE. The length of a manifest's body as its directory gives it (R533). -/
opaque Config.manifestBody : Bytes → Nat
/-- FREE. Whether a load of so many bytes fits the free HBM3 of every die (R286): the n-th time it is asked. -/
opaque Config.loadFits : Nat → Nat → Bool
/-- FREE. The tile physical address at which Rosha keeps a tensor's level table on every tile (R42, R173): slot, generation, tensor index. -/
opaque Config.levelPlace : Nat → Nat → Nat → Nat
/-- FREE. The die-local HBM3 address of a slot's gradient buffer on a die (R184), a fine-tuning parameter of a job whose layout is not given. -/
opaque Config.gradPlace : Nat → Nat → Nat
/-- FREE. The scale of a group with a difference that is not finite, for which R287 states none. -/
opaque Config.deltaScale : List W32 → BitVec 16
/-- FREE. The bin of a difference below minus one scale or not finite, for which R287 states none: difference, scale. -/
opaque Config.deltaBin : W32 → W32 → Nat
/-- FREE. The index of a difference that is not finite, for which R288 states none. -/
opaque Config.deltaIndex : W32 → W32 → Nat
/-- FREE. The bytes of a tensor converted whole to a level-table format, for which R52 and R288 state no conversion. -/
opaque Config.fullLevels : List W32 → Bytes
/-- FREE. The frames that Rosha gives a slot's KV pool on a die (R262): slot, generation, die; die-local HBM3 addresses of 4 KiB frames. -/
opaque Config.kvFrames : Nat → Nat → Nat → List Nat
/-- FREE. Per-part values of the global registers (R551). -/
opaque Config.icdStep : BitVec 8
opaque Config.qdStep : BitVec 8
opaque Config.romVer : BitVec 16
opaque Config.fusedSvnMin : BitVec 8
opaque Config.debugDisable : Bool
/-- FREE. The four fused firmware-key hashes that are not revoked (R523), and the fused debug-key hash (R536). -/
opaque Config.fwKeyHashes : List Bytes
opaque Config.debugKeyHash : Bytes
/-- FREE. SHA-256 of the committed configuration record (R531), whose layout the spec does not give: publisher keys by index, and
fault policies by 2 * kind + bucket as N, W and action. -/
opaque Config.cfgDigest : List (Nat × Bytes) → List (Nat × Nat × Nat × Nat) → Bytes
/-- FREE. The module serial, 16 bytes (R361). -/
opaque Config.serial : Bytes
/-- FREE. The fused MAC address of J3 (R575). -/
opaque Config.mac : Bytes
/-- FREE. The Rosha image that the flash holds from manufacture. -/
opaque Config.factoryImage : Bytes
/-- FREE. The link-local IPv4 address that J3 takes without a lease (R528, RFC 3927). -/
opaque Config.linkLocal : W32

end Sys2Proof
end

