-- ==== Sys2Proof/Machine/Bits.lean ====
section
/-!
DEFINITION. Bit fields, byte order and small list operations: how numbers are cut from and packed into the
little-endian structures of the manual (R9) and into big-endian ones where a network standard fixes them.
-/

namespace Sys2Proof.Machine

/-- Bits `hi` down to `lo` of `v`, as the field maps write [hi:lo]. -/
def fld (v hi lo : Nat) : Nat := v / 2 ^ lo % 2 ^ (hi + 1 - lo)

/-- Bit `n` of `v`. -/
def bitN (v n : Nat) : Bool := v / 2 ^ n % 2 = 1

/-- Bits `hi` down to `lo` of a register value. -/
def rfld (v : W64) (hi lo : Nat) : Nat := fld v.toNat hi lo

/-- Bit `n` of a register value. -/
def rbit (v : W64) (n : Nat) : Bool := bitN v.toNat n

/-- The number 1 or 0 of a flag. -/
def b2n (b : Bool) : Nat := if b then 1 else 0

/-- A flag placed at bit `n`. -/
def bAt (b : Bool) (n : Nat) : Nat := if b then 2 ^ n else 0

/-- The number that bytes spell, least significant first (R9). -/
def leNat : Bytes → Nat
  | [] => 0
  | b :: r => b.toNat + 256 * leNat r

/-- `n` bytes of a number, least significant first (R9). -/
def leBytes : Nat → Nat → Bytes
  | 0, _ => []
  | n + 1, v => BitVec.ofNat 8 v :: leBytes n (v / 256)

/-- The number that bytes spell, most significant first. -/
def beNat (bs : Bytes) : Nat := bs.foldl (fun a b => a * 256 + b.toNat) 0

/-- `n` bytes of a number, most significant first. -/
def beBytes (n v : Nat) : Bytes := (leBytes n v).reverse

/-- `n` bytes of `l` from offset `off`, zero beyond its end. -/
def bytesAt (l : Bytes) (off n : Nat) : Bytes :=
  let r := (l.drop off).take n
  r ++ List.replicate (n - r.length) 0

/-- The little-endian number in `n` bytes at `off`. -/
def leAt (l : Bytes) (off n : Nat) : Nat := leNat ((l.drop off).take n)

/-- Bits `hi` to `lo` of the 32-bit word at `off`. -/
def wfld (l : Bytes) (off hi lo : Nat) : Nat := fld (leAt l off 4) hi lo

/-- The byte at `off`, 0 beyond the end. -/
def byteN (l : Bytes) (off : Nat) : Nat := (l.getD off 0).toNat

/-- `l` with the bytes `n` written from offset `off` on; the length stays. -/
def patch (l : Bytes) (off : Nat) (n : Bytes) : Bytes :=
  l.take off ++ n.take (l.length - off) ++ l.drop (off + n.length)

/-- Bytewise exclusive or with a mask; bytes beyond the mask stay. -/
def xorBytes : Bytes → Bytes → Bytes
  | [], _ => []
  | a, [] => a
  | x :: a, y :: b => (x ^^^ y) :: xorBytes a b

/-- `l` cut into pieces of `n` elements; the fuel is at least the number of pieces. -/
def cut {α : Type} (n : Nat) : Nat → List α → List (List α)
  | 0, _ => []
  | f + 1, l => if l.isEmpty then [] else l.take n :: cut n f (l.drop n)

/-- `l` in pieces of `n` elements. -/
def pieces {α : Type} (n : Nat) (l : List α) : List (List α) := cut n l.length l

/-- `l` padded with zero bytes to a multiple of `n`. -/
def padTo (n : Nat) (l : Bytes) : Bytes := l ++ List.replicate ((n - l.length % n) % n) 0

/-- ceil(a / b). -/
def ceilDiv (a b : Nat) : Nat := (a + (b - 1)) / b

/-- A 16-bit count that saturates at 0xFFFF. -/
def satInc (c : BitVec 16) (n : Nat) : BitVec 16 := BitVec.ofNat 16 (min (c.toNat + n) 0xFFFF)

/-- The number of set bits among the low `n` bits of `v`. -/
def popcount (n v : Nat) : Nat := (List.range n).countP (bitN v)

/-- The numbers below `n` whose bit is set in `v`, ascending. -/
def setBits (n v : Nat) : List Nat := (List.range n).filter (bitN v)

/-- The mask with the listed bits set. -/
def maskOf (l : List Nat) : Nat := l.foldl (fun a n => a ||| 2 ^ n) 0

/-- The index of the first element that satisfies `p`. -/
def indexOf {α : Type} (p : α → Bool) : List α → Option Nat
  | [] => none
  | a :: r => if p a then some 0 else (indexOf p r).map (· + 1)

/-- The list with element `n` replaced by its image. -/
def modAt {α : Type} (f : α → α) : List α → Nat → List α
  | [], _ => []
  | a :: r, 0 => f a :: r
  | a :: r, n + 1 => a :: modAt f r n

/-- Ascending insertion by a key. -/
def insertBy {α : Type} (le : α → α → Bool) (a : α) : List α → List α
  | [] => [a]
  | b :: r => if le a b then a :: b :: r else b :: insertBy le a r

/-- A stable sort by `le`. -/
def sortBy {α : Type} (le : α → α → Bool) : List α → List α
  | [] => []
  | a :: r => insertBy le a (sortBy le r)

/-- No element occurs twice. -/
def noDup {α : Type} [DecidableEq α] : List α → Bool
  | [] => true
  | a :: r => !r.contains a && noDup r

/-- The signed reading of an `n`-bit number. -/
def signed (n v : Nat) : Int := if v % 2 ^ n < 2 ^ (n - 1) then (v % 2 ^ n : Nat) else (v % 2 ^ n : Nat) - (2 ^ n : Nat)

/-- The `n`-bit two's complement encoding of an integer. -/
def unsigned (n : Nat) (i : Int) : Nat := (i % (2 ^ n : Nat)).toNat

end Sys2Proof.Machine
end

