-- ==== Sys2Proof/Machine/Hash.lean ====
section
/-!
DEFINITION. The hash and check functions that the manual names: CRC-32C (R157, R194, R447, R494), CRC-8 (R297), SHA-256
(FIPS 180-4), fold-64 (R433) and the counter-based generator Philox4x32-10 (R236).
-/

namespace Sys2Proof.Machine

/-- One bit step of the reflected CRC-32C register, polynomial 0x1EDC6F41. -/
def crc32cBit (c : W32) : W32 := if c.getLsbD 0 then (c >>> 1) ^^^ 0x82F63B78 else c >>> 1

/-- One byte of CRC-32C. -/
def crc32cByte (c : W32) (b : Byte) : W32 := Nat.repeat crc32cBit 8 (c ^^^ b.setWidth 32)

/-- CRC-32C of a byte string. -/
def crc32c (bs : Bytes) : W32 := ~~~ bs.foldl crc32cByte 0xFFFFFFFF

/-- One bit of CRC-8, polynomial 0x07, most significant bit first. -/
def crc8Bit (c : Byte) : Byte := if c.getLsbD 7 then (c <<< 1) ^^^ 0x07 else c <<< 1

/-- CRC-8 with polynomial 0x07 and initial value 0 (R297). -/
def crc8 (bs : Bytes) : Byte := bs.foldl (fun c b => Nat.repeat crc8Bit 8 (c ^^^ b)) 0

/-! ### SHA-256 (FIPS 180-4) -/

/-- The largest number whose `k`-th power does not pass `n`, for roots below 2^36. -/
def rootOf (k n : Nat) : Nat := (List.range 36).foldr (fun i r => if (r + 2 ^ i) ^ k ≤ n then r + 2 ^ i else r) 0

/-- The first 32 bits of the fractional part of the `k`-th root of `p`. -/
def rootWord (k p : Nat) : W32 := BitVec.ofNat 32 (rootOf k (p * 2 ^ (32 * k)))

/-- The first 64 primes. -/
def shaPrimes : List Nat := (List.range 312).filter fun n => 2 ≤ n && [2, 3, 5, 7, 11, 13, 17].all fun d => n = d || n % d ≠ 0

/-- The round constants come from the cube roots of the primes, the initial hash value from the square roots of the first eight. -/
def shaConsts : List W32 := shaPrimes.map (rootWord 3)
def shaStart : List W32 := (shaPrimes.take 8).map (rootWord 2)

/-- Exclusive or of a word's rotations to the right. -/
def rotXor (x : W32) (l : List Nat) : W32 := (l.map x.rotateRight).foldl (· ^^^ ·) 0

/-- The 16 words of the schedule from the one in turn on, and the eight working words. -/
structure ShaRun where
  win : List W32
  work : List W32
  deriving DecidableEq, Repr, Inhabited

/-- One step: the working words take the word in turn with its constant, and the schedule moves on by a word. -/
def shaStep (r : ShaRun) (k : W32) : ShaRun :=
  let w := fun i => r.win.getD i 0
  let v := fun i => r.work.getD i 0
  let pick := v 6 ^^^ (v 4 &&& (v 5 ^^^ v 6))
  let most := (v 0 &&& v 1) ||| (v 2 &&& (v 0 ||| v 1))
  let up := v 7 + rotXor (v 4) [6, 11, 25] + pick + k + w 0
  let fresh := w 0 + (rotXor (w 1) [7, 18] ^^^ (w 1 >>> 3)) + w 9 + (rotXor (w 14) [17, 19] ^^^ (w 14 >>> 10))
  { win := r.win.tail ++ [fresh]
    work := (up + rotXor (v 0) [2, 13, 22] + most) :: r.work.take 3 ++ (v 3 + up) :: (r.work.drop 4).take 3 }

/-- One 64-byte block taken into the hash value. -/
def shaAbsorb (h : List W32) (blk : Bytes) : List W32 :=
  let r := shaConsts.foldl shaStep ⟨(pieces 4 blk).map fun b => BitVec.ofNat 32 (beNat b), h⟩
  List.zipWith (· + ·) h r.work

/-- SHA-256 of a byte string, 32 bytes: a one bit, zeros and the length in bits fill its last block. -/
def sha256 (m : Bytes) : Bytes :=
  let fill := 0x80 :: List.replicate ((119 - m.length % 64) % 64) 0 ++ beBytes 8 (8 * m.length)
  ((pieces 64 (m ++ fill)).foldl shaAbsorb shaStart).flatMap fun w => beBytes 4 w.toNat

/-! ### fold-64 (R433) -/

/-- mix(x) of R433. -/
def foldMix (x : W64) : W64 :=
  let x := x ^^^ (x >>> 31)
  let x := x * 0xA24B1F6D3C85E9D3
  let x := x ^^^ (x >>> 29)
  let x := x * 0x6F1D83C5B27A4E91
  x ^^^ (x >>> 32)

/-- block(i, w) of R433, over 64 bytes. -/
def foldBlock (i : Nat) (blk : Bytes) : W64 :=
  (pieces 8 (bytesAt blk 0 64)).foldl (fun a w => foldMix (a ^^^ BitVec.ofNat 64 (leNat w))) (foldMix (BitVec.ofNat 64 (i + 1)))

/-- The sum of block hashes of `bs`, whose first block has index `i`. -/
def foldSum (i : Nat) (bs : Bytes) : W64 :=
  ((pieces 64 bs).zipIdx i).foldl (fun h p => h + foldBlock p.2 p.1) 0

/-- The value of R433 from the sum of block hashes and the length in bytes. -/
def foldFinish (h : W64) (n : Nat) : W64 := foldMix (h ^^^ (BitVec.ofNat 64 n * 0xA24B1F6D3C85E9D3))

/-- fold-64 of a byte string. -/
def fold64 (bs : Bytes) : W64 := foldFinish (foldSum 0 bs) bs.length

/-! ### Philox4x32-10 (R236) -/

/-- High and low words of a 32 by 32 bit product. -/
def mulHiLo (a b : W32) : W32 × W32 :=
  let p := a.toNat * b.toNat
  (BitVec.ofNat 32 (p / 2 ^ 32), BitVec.ofNat 32 p)

/-- The counter and key of one Philox round. -/
structure Philox where
  c0 : W32
  c1 : W32
  c2 : W32
  c3 : W32
  k0 : W32
  k1 : W32
  deriving DecidableEq, Repr, Inhabited

/-- One round, with the key raised for the next. -/
def philoxRound (p : Philox) : Philox :=
  let x := mulHiLo 0xD2511F53 p.c0
  let y := mulHiLo 0xCD9E8D57 p.c2
  ⟨y.1 ^^^ p.c1 ^^^ p.k0, y.2, x.1 ^^^ p.c3 ^^^ p.k1, x.2, p.k0 + 0x9E3779B9, p.k1 + 0xBB67AE85⟩

/-- The four output words for a seed and a counter. -/
def philox (seed : W64) (c0 c1 c2 c3 : Nat) : List W32 :=
  let p := Nat.repeat philoxRound 10
    ⟨BitVec.ofNat 32 c0, BitVec.ofNat 32 c1, BitVec.ofNat 32 c2, BitVec.ofNat 32 c3, seed.setWidth 32, (seed >>> 32).setWidth 32⟩
  [p.c0, p.c1, p.c2, p.c3]

/-- The 16-bit value u of R51: seed, layer, position, element index. -/
def roundU (seed : W64) (layer pos idx : Nat) : Nat :=
  let w := (philox seed 3 layer pos (idx / 8)).getD (idx / 2 % 4) 0
  if idx % 2 = 0 then fld w.toNat 15 0 else fld w.toNat 31 16

end Sys2Proof.Machine
end

