-- ==== Sys2Proof/Machine/Fp.lean ====
section
/-!
DEFINITION. Number formats and arithmetic (chapter 02): the element encodings of R39 and R40, IEEE 754 binary32 addition,
multiplication and division with round to nearest even (R47 to R49), the conversions of R50 to R52 and the MX
quantiser of R53. A value is held exactly, as a signed multiple of a power of two.
-/

namespace Sys2Proof.Machine

/-- A floating-point value: NaN, an infinity with its sign, or (-1)^s * m * 2^e. -/
inductive Fp where
  | nan
  | inf (s : Bool)
  | fin (s : Bool) (m : Nat) (e : Int)
  deriving DecidableEq, Repr, Inhabited

/-- +0.0 -/
def Fp.zero : Fp := .fin false 0 0

/-- 1.0 -/
def Fp.one : Fp := .fin false 1 0

/-- A binary format: precision with the hidden bit, exponent of the smallest subnormal's unit, largest finite value as
a multiple of a power of two, exponent field width and bias. -/
structure FpFmt where
  p : Nat
  emin : Int
  maxM : Nat
  maxE : Int
  eb : Nat
  bias : Int
  deriving DecidableEq, Repr

def fmt32 : FpFmt := ⟨24, -149, 2 ^ 24 - 1, 104, 8, 127⟩
def fmtBF16 : FpFmt := ⟨8, -133, 255, 120, 8, 127⟩
def fmtE4M3 : FpFmt := ⟨4, -9, 14, 5, 4, 7⟩
def fmtE5M2 : FpFmt := ⟨3, -16, 7, 13, 5, 15⟩
def fmtE2M1 : FpFmt := ⟨2, -1, 3, 1, 2, 1⟩
def fmtE2M3 : FpFmt := ⟨4, -3, 15, -1, 2, 1⟩
def fmtE3M2 : FpFmt := ⟨3, -4, 7, 2, 3, 3⟩
def fmtFP16 : FpFmt := ⟨11, -24, 2047, 5, 5, 15⟩

/-- Rounding modes (R50); SR carries the value u of R51. -/
inductive Rnd where
  | rne
  | rtz
  | sr (u : Nat)
  deriving DecidableEq, Repr, Inhabited

/-- Whether the magnitude is rounded up: kept part `k`, remainder `r` of `sh` bits (R50, R51). -/
def roundUp (rnd : Rnd) (k r sh : Nat) : Bool :=
  match rnd with
  | .rne => decide (2 ^ sh < 2 * r) || (decide (2 * r = 2 ^ sh) && decide (k % 2 = 1))
  | .rtz => false
  | .sr u => decide (u < (if 16 ≤ sh then r / 2 ^ (sh - 16) else r * 2 ^ (16 - sh)))

/-- `m * 2^e` rounded to a multiple of `2^q`: the multiple. Below half a unit the result is zero (R52). -/
def roundAt (rnd : Rnd) (m : Nat) (e q : Int) : Nat :=
  if q ≤ e then m * 2 ^ (e - q).toNat
  else
    let sh := (q - e).toNat
    let k := m / 2 ^ sh
    let r := m % 2 ^ sh
    if k = 0 ∧ 2 * r < 2 ^ sh then 0
    else if roundUp rnd k r sh then k + 1 else k

/-- The exponent of the unit in the last place of `m * 2^e` in format `f`. -/
def ulpExp (f : FpFmt) (m : Nat) (e : Int) : Int := max (e + (Nat.log2 m : Int) + 1 - f.p) f.emin

/-- `m * 2^e` rounded to format `f` without a bound on the exponent: multiple and unit. -/
def roundTo (f : FpFmt) (rnd : Rnd) (m : Nat) (e : Int) : Nat × Int :=
  if m = 0 then (0, f.emin) else (roundAt rnd m e (ulpExp f m e), ulpExp f m e)

/-- Comparison of magnitudes `m * 2^e`. -/
def magLt (m1 : Nat) (e1 : Int) (m2 : Nat) (e2 : Int) : Bool :=
  let e := min e1 e2
  decide (m1 * 2 ^ (e1 - e).toNat < m2 * 2 ^ (e2 - e).toNat)

/-- The code of the finite value `k * 2^q` in format `f`, whose unit is `q`. -/
def encodeFin (f : FpFmt) (s : Bool) (k : Nat) (q : Int) : Nat :=
  let mb := f.p - 1
  let k' := if k = 2 ^ f.p then 2 ^ mb else k
  let q' := if k = 2 ^ f.p then q + 1 else q
  let c := if k' < 2 ^ mb then k' else (q' - f.emin + 1).toNat * 2 ^ mb + (k' - 2 ^ mb)
  c + b2n s * 2 ^ (f.eb + mb)

/-- The code of an infinity in an IEEE-shaped format. -/
def encodeInf (f : FpFmt) (s : Bool) : Nat := (2 ^ f.eb - 1) * 2 ^ (f.p - 1) + b2n s * 2 ^ (f.eb + f.p - 1)

/-- The value of a code whose exponent field is not special. -/
def decodeFin (f : FpFmt) (c : Nat) : Fp :=
  let mb := f.p - 1
  let m := c % 2 ^ mb
  let e := c / 2 ^ mb % 2 ^ f.eb
  let s := bitN c (f.eb + mb)
  if e = 0 then .fin s m f.emin else .fin s (m + 2 ^ mb) ((e : Int) - 1 + f.emin)

/-- The value of a code of an IEEE-shaped format (FP32, BF16, E5M2, FP16). -/
def decodeIeee (f : FpFmt) (c : Nat) : Fp :=
  let mb := f.p - 1
  if c / 2 ^ mb % 2 ^ f.eb = 2 ^ f.eb - 1 then (if c % 2 ^ mb = 0 then .inf (bitN c (f.eb + mb)) else .nan)
  else decodeFin f c

/-- E4M3: no infinity, NaN only at S.1111.111 (R39). -/
def decodeE4M3 (c : Nat) : Fp := if c % 128 = 127 then .nan else decodeFin fmtE4M3 c

/-- The value of an FP32 word. -/
def ofF32 (w : W32) : Fp := decodeIeee fmt32 w.toNat

/-- A value rounded to FP32 under RNE, overflow to infinity (R49). -/
def round32 : Fp → Fp
  | .fin s m e =>
    let r := roundTo fmt32 .rne m e
    if magLt fmt32.maxM fmt32.maxE r.1 r.2 then .inf s else .fin s r.1 r.2
  | x => x

/-- The FP32 word of a value; NaN is the canonical NaN 0x7FC0_0000 (R49). -/
def toF32 (x : Fp) : W32 :=
  match x with
  | .nan => 0x7FC00000
  | .inf s => BitVec.ofNat 32 (encodeInf fmt32 s)
  | .fin s m e =>
    let r := roundTo fmt32 .rne m e
    BitVec.ofNat 32 (if magLt fmt32.maxM fmt32.maxE r.1 r.2 then encodeInf fmt32 s else encodeFin fmt32 s r.1 r.2)

/-- The integer of a signed magnitude. -/
def sgn (s : Bool) (n : Nat) : Int := if s then -(n : Int) else n

/-- An integer as a value; zero is +0.0. -/
def Fp.ofInt (i : Int) : Fp := .fin (decide (i < 0)) i.natAbs 0

/-- The negated value. -/
def Fp.neg : Fp → Fp
  | .nan => .nan
  | .inf s => .inf (!s)
  | .fin s m e => .fin (!s) m e

/-- The magnitude. -/
def Fp.abs : Fp → Fp
  | .nan => .nan
  | .inf _ => .inf false
  | .fin _ m e => .fin false m e

/-- Binary32 addition under RNE (R47, R49). -/
def Fp.add : Fp → Fp → Fp
  | .nan, _ => .nan
  | _, .nan => .nan
  | .inf a, .inf b => if a = b then .inf a else .nan
  | .inf a, .fin _ _ _ => .inf a
  | .fin _ _ _, .inf b => .inf b
  | .fin s1 m1 e1, .fin s2 m2 e2 =>
    let e := min e1 e2
    let v := sgn s1 (m1 * 2 ^ (e1 - e).toNat) + sgn s2 (m2 * 2 ^ (e2 - e).toNat)
    if v = 0 then .fin (s1 && s2) 0 0 else round32 (.fin (decide (v < 0)) v.natAbs e)

/-- Binary32 subtraction. -/
def Fp.sub (a b : Fp) : Fp := a.add b.neg

/-- Binary32 multiplication under RNE; a product that FP32 holds is exact (R46). R46 calls every cell product exact and says that BF16
products fit FP32, which a product of two BF16 values below the least or above the largest FP32 value does not: that one is rounded to
FP32 like any other result (DESIGN CHOICE, assumption log 144). -/
def Fp.mul : Fp → Fp → Fp
  | .nan, _ => .nan
  | _, .nan => .nan
  | .inf a, .inf b => .inf (a != b)
  | .inf a, .fin s m _ => if m = 0 then .nan else .inf (a != s)
  | .fin s m _, .inf b => if m = 0 then .nan else .inf (s != b)
  | .fin s1 m1 e1, .fin s2 m2 e2 => round32 (.fin (s1 != s2) (m1 * m2) (e1 + e2))

/-- Binary32 division under RNE. -/
def Fp.div : Fp → Fp → Fp
  | .nan, _ => .nan
  | _, .nan => .nan
  | .inf _, .inf _ => .nan
  | .inf a, .fin s _ _ => .inf (a != s)
  | .fin s _ _, .inf b => .fin (s != b) 0 0
  | .fin s1 m1 e1, .fin s2 m2 e2 =>
    if m2 = 0 then (if m1 = 0 then .nan else .inf (s1 != s2))
    else
      let k := Nat.log2 m2 + 34
      let n := m1 * 2 ^ k
      let q := n / m2
      let m := if n % m2 = 0 then 2 * q else 2 * q + 1
      round32 (.fin (s1 != s2) m (e1 - e2 - k - 1))

/-- a < b; false with a NaN. -/
def Fp.lt : Fp → Fp → Bool
  | .nan, _ => false
  | _, .nan => false
  | .inf a, .inf b => a && !b
  | .inf a, .fin _ _ _ => a
  | .fin _ _ _, .inf b => !b
  | .fin s1 m1 e1, .fin s2 m2 e2 =>
    let e := min e1 e2
    decide (sgn s1 (m1 * 2 ^ (e1 - e).toNat) < sgn s2 (m2 * 2 ^ (e2 - e).toNat))

/-- a = b as numbers; false with a NaN, and +0.0 equals -0.0 (R88). -/
def Fp.eq (a b : Fp) : Bool := a ≠ .nan && b ≠ .nan && !a.lt b && !b.lt a

/-- a ≥ b. -/
def Fp.ge (a b : Fp) : Bool := a ≠ .nan && b ≠ .nan && !a.lt b

/-- Whether the sign is negative. -/
def Fp.isNeg : Fp → Bool
  | .nan => false
  | .inf s => s
  | .fin s _ _ => s

/-- The exact maximum of R88: NaN wins, and +0.0 ranks above -0.0. -/
def Fp.max (a b : Fp) : Fp :=
  if a = .nan ∨ b = .nan then .nan
  else if a.lt b then b else if b.lt a then a else if a.isNeg then b else a

/-- The exact minimum of R88. -/
def Fp.min (a b : Fp) : Fp :=
  if a = .nan ∨ b = .nan then .nan
  else if a.lt b then a else if b.lt a then b else if a.isNeg then a else b

/-- Whether a value is zero. -/
def Fp.isZero : Fp → Bool
  | .fin _ m _ => decide (m = 0)
  | _ => false

/-! ### Conversions (R50 to R52) -/

/-- A converted element: its code, whether a NaN was converted to an integer (NAN_CVT), whether an INT32 result
saturated (INT_SAT). -/
structure Conv where
  code : Nat
  nan : Bool := false
  sat : Bool := false
  deriving DecidableEq, Repr, Inhabited

/-- `m * 2^e` rounded to an integer: an integer format has no subnormals, so R52's rule for small values does not apply. -/
def roundInt (rnd : Rnd) (m : Nat) (e : Int) : Nat :=
  if 0 ≤ e then m * 2 ^ e.toNat
  else
    let sh := (-e).toNat
    let k := m / 2 ^ sh
    if roundUp rnd k (m % 2 ^ sh) sh then k + 1 else k

/-- Conversion to an `n`-bit integer: NaN gives 0 and NAN_CVT, the rest saturates (R52). -/
def convInt (n : Nat) (rnd : Rnd) : Fp → Conv
  | .nan => ⟨0, true, false⟩
  | .inf s => ⟨if s then 2 ^ (n - 1) else 2 ^ (n - 1) - 1, false, decide (n = 32)⟩
  | .fin s m e =>
    let v := sgn s (roundInt rnd m e)
    let lo : Int := -(2 ^ (n - 1) : Nat)
    let hi : Int := (2 ^ (n - 1) : Nat) - 1
    if v < lo then ⟨unsigned n lo, false, decide (n = 32)⟩
    else if hi < v then ⟨unsigned n hi, false, decide (n = 32)⟩
    else ⟨unsigned n v, false, false⟩

/-- Conversion to a floating format (R50 to R52): `nanC` is the code of NaN, `hasInf` whether the format has infinities, `nonsat` the saturation
mode. R52 does not say whether an overflow is judged before or after rounding: here the rounded value is judged, so 460 to E4M3 is 448 in both
modes (DESIGN CHOICE, assumption log 145). -/
def convFp (f : FpFmt) (nanC : Nat) (hasInf : Bool) (nonsat : Bool) (rnd : Rnd) : Fp → Nat
  | .nan => nanC
  | .inf s => if hasInf then encodeInf f s else if nonsat then nanC else encodeFin f s f.maxM f.maxE
  | .fin s m e =>
    let r := roundTo f rnd m e
    if magLt f.maxM f.maxE r.1 r.2 then
      (if nonsat then (if hasInf then encodeInf f s else nanC) else encodeFin f s f.maxM f.maxE)
    else encodeFin f s r.1 r.2

/-- Conversion to the format of code `fmt` (R38) for formats without a shared scale. -/
def convTo (fmt : Nat) (nonsat : Bool) (rnd : Rnd) (x : Fp) : Conv :=
  match fmt with
  | 0 => ⟨(toF32 x).toNat, false, false⟩
  | 1 => ⟨convFp fmtBF16 0x7FC0 true nonsat rnd x, false, false⟩
  | 2 => ⟨convFp fmtE4M3 0x7F false nonsat rnd x, false, false⟩
  | 3 => ⟨convFp fmtE5M2 0x7F true nonsat rnd x, false, false⟩
  | 4 => convInt 8 rnd x
  | 10 => convInt 32 rnd x
  | _ => ⟨0, false, false⟩

/-- Element size in bytes of a format without a shared scale; 0 for the others. -/
def elemBytes (fmt : Nat) : Nat :=
  match fmt with
  | 0 => 4
  | 1 => 2
  | 2 => 1
  | 3 => 1
  | 4 => 1
  | 10 => 4
  | _ => 0

/-- The value of an element code of a format that the vector unit reads, or of a scale-free array operand. -/
def decodeElem (fmt c : Nat) : Fp :=
  match fmt with
  | 0 => decodeIeee fmt32 c
  | 1 => decodeIeee fmtBF16 c
  | 2 => decodeE4M3 c
  | 3 => decodeIeee fmtE5M2 c
  | 4 => .ofInt (signed 8 c)
  | 10 => .ofInt (signed 32 c)
  | _ => .nan

/-! ### Block-scaled groups (R41 to R43) -/

/-- Element width in bits of a group format. -/
def groupBits (fmt : Nat) : Nat :=
  match fmt with
  | 5 => 4
  | 6 => 6
  | 7 => 6
  | 8 => 3
  | 9 => 2
  | 1 => 16
  | _ => 8

/-- Bytes of one group of 128 weights (R41, R74). -/
def groupBytes (fmt : Nat) : Nat :=
  match fmt with
  | 1 => 256
  | 5 => 68
  | 6 => 100
  | 7 => 100
  | 8 => 50
  | 9 => 34
  | _ => 128

/-- Whether a weight format carries shared scales. -/
def isScaled (fmt : Nat) : Bool := 5 ≤ fmt && fmt ≤ 9

/-- Whether a format is one of the two level-table formats. -/
def isTQ (fmt : Nat) : Bool := fmt = 8 || fmt = 9

/-- Whether the cells hold two weights of this format each (R44). -/
def isFourBit (fmt : Nat) : Bool := fmt = 5 || fmt = 8 || fmt = 9

/-- Element code i of a group (R41). -/
def groupElem (fmt : Nat) (g : Bytes) (i : Nat) : Nat :=
  let b := groupBits fmt
  leAt g (b * i / 8) 4 / 2 ^ (b * i % 8) % 2 ^ b

/-- The four scale codes of a group: E8M0 bytes, or one FP16 code four times; empty without a scale. -/
def groupScales (fmt : Nat) (g : Bytes) : List Nat :=
  if fmt = 5 then (List.range 4).map fun j => byteN g (64 + j)
  else if fmt = 6 ∨ fmt = 7 then (List.range 4).map fun j => byteN g (96 + j)
  else if fmt = 8 then List.replicate 4 (leAt g 48 2)
  else if fmt = 9 then List.replicate 4 (leAt g 32 2)
  else []

/-- The value of an E8M0 scale: 0xFF is NaN (R40). -/
def e8m0 (x : Nat) : Fp := if x = 255 then .nan else .fin false 1 ((x : Int) - 127)

/-- The value of the scale of quarter j (R43, R47); 1.0 for formats without one. A TQ scale of infinity decodes as NaN. -/
def scaleVal (fmt : Nat) (scales : List Nat) (j : Nat) : Fp :=
  if isTQ fmt then
    match decodeIeee fmtFP16 (scales.getD j 0) with
    | .inf _ => .nan
    | x => x
  else if isScaled fmt then e8m0 (scales.getD j 0)
  else .one

/-- The value of a weight's element before its scale: the element, or the level that its index selects (R42). -/
def weightElem (fmt : Nat) (levels : Bytes) (c : Nat) : Fp :=
  match fmt with
  | 5 => decodeFin fmtE2M1 c
  | 6 => decodeFin fmtE2M3 c
  | 7 => decodeFin fmtE3M2 c
  | 8 => decodeE4M3 (byteN levels c)
  | 9 => decodeE4M3 (byteN levels c)
  | f => decodeElem f c

/-! ### The MX quantiser (R53) -/

/-- Element format of an MX output. -/
def mxFmt (fmt : Nat) : FpFmt := if fmt = 5 then fmtE2M1 else if fmt = 6 then fmtE2M3 else fmtE3M2

/-- emax of R53: 2 for E2M1 and E2M3, 4 for E3M2. -/
def mxEmax (fmt : Nat) : Int := if fmt = 7 then 4 else 2

/-- floor(log2 |x|) of a finite nonzero value. -/
def floorLog2 : Fp → Int
  | .fin _ m e => (Nat.log2 m : Int) + e
  | _ => 0

/-- A finite value times 2^k, exactly. -/
def scale2 (k : Int) : Fp → Fp
  | .fin s m e => .fin s m (e + k)
  | x => x

/-- One 32-element block: element codes and the scale X. `rnds` gives each element's rounding (R51). For a block with a NaN or an
infinity R53 gives X = 0xFF and no element codes: they are free values (assumption log 146). -/
def quantBlock (fmt : Nat) (rnds : List Rnd) (xs : List Fp) : List Nat × Nat :=
  let bad := xs.any fun x => match x with | .fin _ _ _ => false | _ => true
  if bad then ((List.range xs.length).map fun i => Config.mxBadCode fmt (xs.map toF32) i % 2 ^ groupBits fmt, 255)
  else if xs.all Fp.isZero then (xs.map fun _ => 0, 0)
  else
    let mx := xs.foldl (fun a x => Fp.max a x.abs) .zero
    let x := max 0 (min 254 (floorLog2 mx - mxEmax fmt + 127))
    ((xs.zip rnds).map fun p => convFp (mxFmt fmt) 0 false false p.2 (scale2 (127 - x) p.1), x.toNat)

/-! ### Reduction trees (R47, R85, R95) -/

/-- One level: adjacent pairs combined; an odd last element stands alone. -/
def pairUp {α : Type} (f : α → α → α) : List α → List α
  | a :: b :: r => f a b :: pairUp f r
  | l => l

/-- `n` levels of the binary tree over a list of at most 2^n elements. -/
def treeN {α : Type} (f : α → α → α) : Nat → List α → List α
  | 0, l => l
  | n + 1, l => treeN f n (pairUp f l)

/-- The result of `n` levels. -/
def tree {α : Type} (f : α → α → α) (d : α) (n : Nat) (l : List α) : α := (treeN f n l).headD d

/-- The fixed order of R95: lane l of 256 takes elements l, l + 256 and so on; a tree of eight levels joins the lanes. -/
def laneReduce (f : Fp → Fp → Fp) (d : Fp) (xs : List Fp) : Fp :=
  let rows := pieces 256 xs
  let lanes := (List.range 256).map fun l => rows.foldl (fun a r => if l < r.length then f a (r.getD l d) else a) d
  tree f d 8 lanes

/-- A 32-bit integer sum that saturates (R48): the sum and whether it saturated. -/
def satAdd32 (a b : Int) : Int × Bool :=
  let v := a + b
  if v < -2147483648 then (-2147483648, true) else if 2147483647 < v then (2147483647, true) else (v, false)

end Sys2Proof.Machine
end

