-- ==== Sys2Proof/Machine/Elementary.lean ====
section
/-!
DEFINITION. exp, the reciprocal square root, sin, cos and tanh of FP32 values (R94): the exact FP32 result, computed in fixed point and
rounded to nearest even, and the module's result, which lies within 2 ulp of it; and the angle of ROPE (R92).
-/

namespace Sys2Proof.Machine

/-! ### Fixed point: an integer stands for its multiple of 2^-256 -/

/-- Fraction bits of the working precision. -/
def fixBits : Nat := 256

/-- ln 2, rounded down to 256 fraction bits. -/
def ln2Fix : Int := 0xb17217f7d1cf79abc9e3b39803f2f6af40f343267298b62d8a0d175b8baafa2b

/-- pi / 2, rounded down to 600 fraction bits: enough to reduce the largest FP32 argument. -/
def halfPi600 : Int :=
  0x1921fb54442d18469898cc51701b839a252049c1114cf98e804177d4c76273644a29410f31c6809bbdf2a33679a748636605614dbe4be286e9fc26adadaa3848bc90b6aecc4bcfd8de89885

/-- `m * 2^e` with `n` fraction bits. -/
def toFix (n : Nat) (s : Bool) (m : Nat) (e : Int) : Int :=
  let k := e + n
  sgn s (if 0 ≤ k then m * 2 ^ k.toNat else m / 2 ^ (-k).toNat)

/-- A power series at `r`: the sum of `term` and its successors, each the last times `q` over 2^256 and the next of the divisors
d, d + step, and so on. -/
def series : Nat → Int → Int → Nat → (Nat → Nat) → Int
  | 0, _, _, _, _ => 0
  | fuel + 1, term, q, n, dv => term + series fuel (term * q / (2 ^ fixBits * dv n)) q (n + 1) dv

/-- exp of a reduced argument: the terms r^n / n!. -/
def expSeries (r : Int) : Int := series 70 (2 ^ fixBits) r 0 fun n => n + 1

/-- sin of a reduced argument. -/
def sinSeries (r : Int) : Int := series 40 r (-(r * r / 2 ^ fixBits)) 0 fun n => (2 * n + 2) * (2 * n + 3)

/-- cos of a reduced argument. -/
def cosSeries (r : Int) : Int := series 40 (2 ^ fixBits) (-(r * r / 2 ^ fixBits)) 0 fun n => (2 * n + 1) * (2 * n + 2)

/-- The integer nearest to a / b, for b > 0. -/
def roundQuot (a b : Int) : Int := (2 * a + b).fdiv (2 * b)

/-- exp of a fixed-point argument, as a mantissa and a power of two. -/
def expFix (x : Int) : Nat × Int :=
  let k := roundQuot x ln2Fix
  ((expSeries (x - k * ln2Fix)).toNat, k - fixBits)

/-- The quarter turns in an FP32 argument, and what is left of it in fixed point. -/
def turns (s : Bool) (m : Nat) (e : Int) : Int × Int :=
  let x := toFix 600 s m e
  let q := roundQuot x halfPi600
  (q, (x - q * halfPi600) / 2 ^ (600 - fixBits))

/-- A fixed-point result rounded to FP32. -/
def ofFix (x : Int) : Fp := round32 (.fin (decide (x < 0)) x.natAbs (-(fixBits : Int)))

/-- floor of the square root, found bit by bit from 2^k down. -/
def sqrtBits : Nat → Nat → Nat → Nat
  | 0, _, r => r
  | k + 1, n, r => sqrtBits k n (if (r + 2 ^ k) * (r + 2 ^ k) ≤ n then r + 2 ^ k else r)

/-! ### The exact FP32 results: the mathematical value rounded to nearest even (R94) -/

/-- exp. -/
def expExact : Fp → Fp
  | .nan => .nan
  | .inf s => if s then .zero else .inf false
  | .fin s m e =>
    if m = 0 then .one
    else if magLt 128 0 m e then (if s then .zero else .inf false)
    else let r := expFix (toFix fixBits s m e); round32 (.fin false r.1 r.2)

/-- The reciprocal square root: a negative argument has none. -/
def rsqrtExact : Fp → Fp
  | .nan => .nan
  | .inf s => if s then .nan else .zero
  | .fin s m e =>
    if m = 0 then .inf s
    else if s then .nan
    else
      let m' := if e % 2 = 0 then m else 2 * m
      let e' := if e % 2 = 0 then e else e - 1
      let n := 2 ^ 240 / m'
      let r := sqrtBits 121 n 0
      let r := if r * r * m' = 2 ^ 240 then 2 * r else 2 * r + 1
      round32 (.fin false r (-(e' / 2) - 121))

/-- sin: an odd number of quarter turns takes the cosine of what is left. -/
def sinExact : Fp → Fp
  | .fin s m e =>
    if m = 0 then .fin s m e
    else
      let t := turns s m e
      let v := if t.1 % 2 = 0 then sinSeries t.2 else cosSeries t.2
      ofFix (if t.1 % 4 < 2 then v else -v)
  | _ => .nan

/-- cos. -/
def cosExact : Fp → Fp
  | .fin s m e =>
    let t := turns s m e
    let v := if t.1 % 2 = 0 then cosSeries t.2 else sinSeries t.2
    ofFix (if t.1 % 4 = 0 ∨ t.1 % 4 = 3 then v else -v)
  | _ => .nan

/-- tanh of x: (e^2x - 1) / (e^2x + 1); beyond 16 the FP32 value nearest to it is 1. -/
def tanhExact : Fp → Fp
  | .nan => .nan
  | .inf s => .fin s 1 0
  | .fin s m e =>
    if m = 0 then .fin s m e
    else if magLt 16 0 m e then .fin s 1 0
    else
      let r := expFix (toFix fixBits false m (e + 1))
      let y := toFix fixBits false r.1 r.2
      let v := (y - 2 ^ fixBits) * 2 ^ fixBits / (y + 2 ^ fixBits)
      ofFix (if s then -v else v)

/-! ### The module's results -/

/-- An FP32 value `k - 2` units in the last place away from an exact result: the magnitude moves along the FP32 codes. An exact result that
is NaN or infinite is the result. -/
def nearF32 (x : Fp) (k : Fin 5) : Fp :=
  match x with
  | .fin s _ _ => ofF32 (BitVec.ofNat 32 (min 0x7F800000 ((toF32 x).toNat % 2 ^ 31 + k.val - 2) + bAt s 31))
  | y => y

/-- exp within 2 ulp of the exact FP32 result (R94). -/
def Fp.exp (x : Fp) : Fp := nearF32 (expExact x) (Config.expErr (toF32 x))

/-- The reciprocal square root (R94). -/
def Fp.rsqrt (x : Fp) : Fp := nearF32 (rsqrtExact x) (Config.rsqrtErr (toF32 x))

/-- tanh (R94). -/
def Fp.tanh (x : Fp) : Fp := nearF32 (tanhExact x) (Config.tanhErr (toF32 x))

/-- sin (R94). -/
def Fp.sin (x : Fp) : Fp := nearF32 (sinExact x) (Config.sinErr (toF32 x))

/-- cos (R94). -/
def Fp.cos (x : Fp) : Fp := nearF32 (cosExact x) (Config.cosErr (toF32 x))

/-- The angle of ROPE (R92): pos * b^(-2i/D). The power is 1 for i = 0 and free otherwise, since R94 gives no accuracy for powers; the
position is rounded to FP32 and the product is one FP32 product (DESIGN CHOICE, assumption log 9). -/
def ropeAngle (pos base : W32) (i d : Nat) : Fp :=
  (round32 (.ofInt pos.toInt)).mul (if i = 0 then .one else ofF32 (Config.powF32 base i d))

end Sys2Proof.Machine
end

