-- ==== Sys2Proof/Machine/Table.lean ====
section
/-!
DEFINITION. Sparse tables in one canonical form: a list of (key, value) pairs with keys strictly rising and no entry
equal to the default value, which every unlisted key holds. Register banks and memories of the block are such tables.
-/

namespace Sys2Proof.Machine

/-- A sparse table: what is not listed holds `default`, the value the spec gives for reset. -/
abbrev Tbl (α : Type) := List (Nat × α)

/-- A byte-addressed memory: the table of the bytes that differ from what an unlisted address reads as (zero). -/
abbrev Mem := List Host.Cell

section
variable {α : Type}

/-- The value at key `k`. -/
def Tbl.get [Inhabited α] : Tbl α → Nat → α
  | [], _ => default
  | (a, v) :: r, k => if a = k then v else Tbl.get r k

/-- The table without any entry for `k`. -/
def Tbl.del : Tbl α → Nat → Tbl α
  | [], _ => []
  | (a, v) :: r, k => if a = k then Tbl.del r k else (a, v) :: Tbl.del r k

/-- An entry put in its place, before the first larger key. -/
def Tbl.ins : Tbl α → Nat → α → Tbl α
  | [], k, v => [(k, v)]
  | (a, w) :: r, k, v => if k < a then (k, v) :: (a, w) :: r else (a, w) :: Tbl.ins r k v

/-- The table with `v` at key `k`; the default value is not listed. -/
def Tbl.set [Inhabited α] [DecidableEq α] (t : Tbl α) (k : Nat) (v : α) : Tbl α :=
  if v = default then Tbl.del t k else Tbl.ins (Tbl.del t k) k v

/-- The table with the value at `k` changed by `f`. -/
def Tbl.upd [Inhabited α] [DecidableEq α] (t : Tbl α) (k : Nat) (f : α → α) : Tbl α :=
  Tbl.set t k (f (Tbl.get t k))

/-- The table with every key from `lo` up to, not including, `hi` back at its default value. -/
def Tbl.clear (t : Tbl α) (lo hi : Nat) : Tbl α :=
  t.filter fun c => decide (c.1 < lo) || decide (hi ≤ c.1)

/-- The table with every listed value changed by `f` (which keeps the default value). -/
def Tbl.mapAll [Inhabited α] [DecidableEq α] (t : Tbl α) (f : Nat → α → α) : Tbl α :=
  t.foldl (fun acc c => Tbl.upd acc c.1 (f c.1)) t

/-- The keys above `lo` strictly rise and no listed value is the default. -/
def Tbl.wfFrom [Inhabited α] [DecidableEq α] : Option Nat → Tbl α → Bool
  | _, [] => true
  | lo, (a, v) :: r => (match lo with | none => true | some l => decide (l < a)) && decide (v ≠ default) && Tbl.wfFrom (some a) r

/-- The canonical form of a table. -/
def Tbl.wf [Inhabited α] [DecidableEq α] (t : Tbl α) : Bool := Tbl.wfFrom none t

end

/-- The byte at address `a`. -/
def Mem.read (m : Mem) (a : Nat) : Byte := Tbl.get m a

/-- The memory with byte `b` at address `a`. -/
def Mem.write (m : Mem) (a : Nat) (b : Byte) : Mem := Tbl.set m a b

/-- `n` bytes from address `a` on. -/
def Mem.readN (m : Mem) (a : Nat) : Nat → Bytes
  | 0 => []
  | n + 1 => Mem.read m a :: Mem.readN m (a + 1) n

/-- The memory with the bytes `bs` from address `a` on. -/
def Mem.writeN (m : Mem) (a : Nat) : Bytes → Mem
  | [] => m
  | b :: bs => Mem.writeN (Mem.write m a b) (a + 1) bs

/-- The canonical form of a memory: addresses strictly rising, no entry equal to zero. -/
def Memory.wf (m : Mem) : Bool := Tbl.wf m

end Sys2Proof.Machine
end

