-- ==== Sys2Proof/Machine/State.lean ====
section
/-!
DEFINITION. The state of the block as plain data: every register, queue, buffer, counter, mode and pin that the spec
gives the module, the queue of waiting commands, and State.reset. A field's default value is its value after cold reset.
-/

namespace Sys2Proof.Machine

/-- Why a step stops with a fault. No meaning of this model raises one: every command has an effect. -/
inductive Fault where
  /-- Kept for an access to memory that the spec says does not exist and for which it names no answer; raised by no
  meaning (each such access has its ADDR_RANGE completion or reads zero). Safe. -/
  | noSuchMemory
  deriving DecidableEq, Repr

/-- Why a step has no meaning for a command. -/
inductive Refusal where
  /-- The command has no meaning yet; raised by exec's arm of that command only. Safe. -/
  | notModelled (mnemonic : String)
  deriving DecidableEq, Repr

/-- Completion status (R364). -/
inductive Status where
  | ok | badOpcode | lenRange | addrRange | align
  | notReady | modeAborted | genRetired | deadlock | busy
  | poisoned | codecOverrun | codecUnderrun | sigFail | digestMismatch
  | engineFault | semUnderflow | semOverflow | slotEmpty | conservation | timeout | eoiOrder
  | linkDown | dieRetired | twinLost | portMiswired | versionMismatch
  deriving DecidableEq, Repr, Inhabited

/-- A byte with its poison mark (R55). -/
abbrev PByte := Byte × Bool

/-- Which running command: that of a stream, a node of the graph launch running in a stream (R383), a node run here
for a launch of another module, or a command adopted from the twin partner (R466). -/
inductive JobRef where
  | stream (st : Nat)
  | node (st : Nat) (n : Nat)
  | remote (k : Nat) (n : Nat)
  | adopted (k : Nat)
  deriving DecidableEq, Repr, Inhabited

/-! ## Tiles -/

/-- Who asked a semaphore for something (R399): a TOD of a tile by its number, an engine channel, a local sequencer
applying SEMS for a command, or a die's ring engine signalling for an exchange. -/
inductive Requester where
  | tod (t : Nat) (uid : Nat)
  | chan (e : Nat) (ch : Nat)
  | seq (die : Nat) (job : JobRef)
  | xch (die : Nat)
  deriving DecidableEq, Repr, Inhabited

/-- A signal on its way to a tile's sync unit (R398). -/
structure SemSig where
  sem : Nat
  count : Nat
  who : Requester
  /-- the command on whose behalf an engine or local sequencer signals -/
  job : Option JobRef
  deriving DecidableEq, Repr, Inhabited

/-- A wait in a tile's line, in arrival order (R398). -/
structure SemReq where
  sem : Nat
  count : Nat
  checked : Bool
  who : Requester
  deriving DecidableEq, Repr, Inhabited

/-- Where a TOD stands: fetched, stalled in a semaphore line or at a barrier or queue, issued and running, its
outputs computed, or waiting for the report of its signal. -/
inductive TodPhase where
  | fetched
  | stalled
  | running
  | computed
  | reporting
  deriving DecidableEq, Repr, Inhabited

/-- One TOD of the issue window (R58). -/
structure TodSlot where
  uid : Nat
  bytes : Bytes
  qidx : Nat
  ctx : Nat
  /-- from the list of a QWAIT (R376), and the internal-queue launch that it serves -/
  listed : Bool
  launch : Option Nat
  /-- last TOD of its list -/
  lastListed : Bool
  phase : TodPhase
  /-- operand bytes taken from stream ports so far: weights, activations -/
  wgot : List PByte
  agot : List PByte
  /-- the level block and the row-key table with its layer, read when the TOD issued (R76, R100) -/
  levels : List PByte
  keys : Option (List PByte × Nat)
  /-- it lacks an operand byte or a queue entry and takes bubbles (R90, R99) -/
  starved : Bool
  /-- outputs to be stored at completion: tile physical address and byte with its mark -/
  outs : List (Nat × PByte)
  /-- tile lines that its outputs lie in, whose fill bits its completion sets (R121) -/
  fills : List Nat
  /-- tile lines whose fill bits a consuming read clears at completion (R121) -/
  consumed : List Nat
  /-- the report of a SEM_SIGNAL: none while unanswered, then whether it was applied (R98) -/
  report : Option Bool
  /-- its wait has been served (SEM_WAIT) or its barrier has released it -/
  released : Bool
  /-- a relocated tile field names no mapped tile (R369) -/
  bad : Bool
  /-- the command that placed it in the queue, if one did -/
  job : Option JobRef
  deriving DecidableEq, Repr, Inhabited

/-- A stored column of retained weights: element codes of its 128 rows and the group's scale codes (R41, R83). -/
structure WCol where
  elems : List Nat
  scales : List Nat
  pois : Bool
  deriving DecidableEq, Repr, Inhabited

/-- The retained weights of one array and their record (R83). `first` is the logical column that its first column holds. -/
structure Retained where
  wop : W32
  wfmt : Nat
  k : Nat
  n : Nat
  first : Nat
  cols : List WCol
  levels : Bytes
  deriving DecidableEq, Repr, Inhabited

/-- The rounding key of a context (R100). -/
structure RKey where
  kop : W32
  layer : Nat
  deriving DecidableEq, Repr, Inhabited

/-- TILE_FAULTc (R107). -/
structure UnitFault where
  cause : BitVec 8 := 0
  opc : BitVec 8 := 0
  qidx : BitVec 8 := 0
  valid : Bool := false
  deriving DecidableEq, Repr, Inhabited

/-- A pair of 64-bit registers: HANDLE_Ah and HANDLE_Bh, WIN_Aw and WIN_Bw, HBM_WIN_Aw and HBM_WIN_Bw, HQ_REGION_Ar and HQ_REGION_Br. -/
structure RegPair where
  a : W64 := 0
  b : W64 := 0
  deriving DecidableEq, Repr, Inhabited

/-- An entry of an internal queue (R375). -/
structure QEntry where
  kind : Nat
  tcount : Nat
  tlist : Nat
  token : W32
  runlen : Nat
  /-- a run without a record in the run table (R377) -/
  bad : Bool
  deriving DecidableEq, Repr, Inhabited

/-- An entry of the gather buffer (R119): a tile line, the bytes written into it by tile physical address with their marks, and the
TODs whose output it holds. -/
structure GEntry where
  line : Nat
  data : List (Nat × PByte)
  tods : List Nat
  deriving DecidableEq, Repr, Inhabited

/-- One task context of a tile. -/
structure Ctx where
  active : Bool := false
  wait : Bool := false
  fault : Bool := false
  nanCvt : Bool := false
  intSat : Bool := false
  /-- a TOD of the context faulted; its TODs are discarded until the reset of the context (R63) -/
  halted : Bool := false
  fr : UnitFault := {}
  key : Option RKey := none
  /-- the running command that uses the context -/
  job : Option JobRef := none
  deriving DecidableEq, Repr, Inhabited

/-- One tile: registers of R104, R132, R395, R486 and its internal state. -/
structure Tile where
  w0 : Nat := 128
  w1 : Nat := 128
  retired : Bool := false
  /-- a retirement that waits until no context is active (R103) -/
  retirePend : Bool := false
  byp0 : BitVec 128 := 0
  byp1 : BitVec 128 := 0
  ctxs : Tbl Ctx := []
  collCnt : BitVec 16 := 0
  nanCnt : BitVec 16 := 0
  satCnt : BitVec 16 := 0
  qEn : Bool := false
  qHandle : BitVec 6 := 0
  tail : BitVec 9 := 0
  head : BitVec 9 := 0
  /-- TODs of the queue buffer, by 32-byte unit, whose relocated tile field names no mapped tile (R369) -/
  badReloc : Tbl Bool := []
  /-- the command that placed the TOD of each ring slot, and the slots whose command has been stopped (R389) -/
  owners : Tbl (Option JobRef) := []
  dropped : Tbl Bool := []
  window : List TodSlot := []
  nextUid : Nat := 0
  ret0 : Option Retained := none
  ret1 : Option Retained := none
  handles : Tbl RegPair := []
  /-- handle writes held under R114, oldest first: handle, whether HANDLE_A, value -/
  heldHandles : List (Nat × Bool × W64) := []
  wins : Tbl RegPair := []
  /-- the gather buffer, the entry written least recently first (R119) -/
  gather : List GEntry := []
  scrubBusy : Bool := false
  /-- remote accesses that an open window has admitted and that wait for the end of a scrub (R117, R126) -/
  waiting : List Access := []
  winErr : Bool := false
  htErr : Bool := false
  spadColl : BitVec 16 := 0
  winReject : BitVec 16 := 0
  ceCnt : BitVec 16 := 0
  sems : Tbl (BitVec 16) := []
  /-- signals that have reached the sync unit and are not yet applied -/
  inbox : List SemSig := []
  /-- waits in line, in arrival order -/
  line : List SemReq := []
  semOvf : Bool := false
  semUnf : Bool := false
  semErrSem : BitVec 6 := 0
  semErrKind : BitVec 3 := 0
  semErrDie : BitVec 3 := 0
  semErrUnit : BitVec 5 := 0
  semErrCh : BitVec 2 := 0
  semColl : BitVec 16 := 0
  sigSum : W32 := 0
  decSum : W32 := 0
  /-- the 16 internal queues (R375) -/
  queues : Tbl (List QEntry) := []
  /-- the stream ports: 0 to 15 for DE0 to DE15, 16 RE-E, 17 RE-W (R66, R314) -/
  ports : Tbl (List PByte) := []
  deriving DecidableEq, Repr, Inhabited

/-! ## DMA engines -/

/-- Where a descriptor stands (R308, R313, R315, R322). -/
inductive DPhase where
  | checked
  | waiting
  | waited
  | probing
  | probed
  | moved
  deriving DecidableEq, Repr, Inhabited

/-- A descriptor in progress. -/
structure DSlot where
  bytes : Bytes
  qidx : Nat
  phase : DPhase
  job : Option JobRef
  overrun : Bool
  underrun : Bool
  pois : Bool
  written : Nat
  /-- destination bytes: keys of module memory and host bus addresses, whose contents a kill leaves undefined (R327) -/
  dest : List Nat
  hostDest : List Nat
  /-- accepted writes to another die, visible at completion: key of module memory and data (R35, R309) -/
  far : List (Nat × List PByte)
  /-- lines whose fill bits its consuming reads clear at completion: module tile and tile line (R121) -/
  consumed : List (Nat × Nat)
  /-- destination of the first poisoned block (R326, R484) -/
  poisAt : Option W64
  deriving DecidableEq, Repr, Inhabited

/-- One channel of an engine (R307, R330). -/
structure Channel where
  qEn : Bool := false
  tail : BitVec 6 := 0
  head : BitVec 6 := 0
  ring : Tbl Bytes := []
  /-- the command that placed each ring slot's descriptor, and whether its tile fields failed relocation (R369) -/
  owners : Tbl (Option JobRef) := []
  badReloc : Tbl Bool := []
  /-- ring slots whose command was killed before they were fetched (R389) -/
  cancelled : Tbl Bool := []
  prog : List DSlot := []
  fault : Bool := false
  fr : UnitFault := {}
  halted : Bool := false
  /-- the command whose descriptor halted it, which resets it at its end -/
  haltJob : Option JobRef := none
  deriving DecidableEq, Repr, Inhabited

/-- One engine (R330). -/
structure Engine where
  chans : Tbl Channel := []
  collCnt : BitVec 16 := 0
  poisCnt : BitVec 16 := 0
  rejCnt : BitVec 16 := 0
  deriving DecidableEq, Repr, Inhabited

/-! ## Quema dies, the ring and exchanges -/

/-- DIE_STATUS.STATE (R556). -/
inductive DieState where
  | starting
  | inService
  | reset3
  | quarantined
  | retired
  | unpowered
  deriving DecidableEq, Repr, Inhabited

/-- A sweep frame, buoy or exchange packet: its 32-byte header (R157, R194) and its payload. -/
structure Frame where
  hdr : Bytes
  pay : Bytes
  /-- bytes of the run that a WEIGHT frame belongs to: every ring engine knows them from the model's layout (R162) -/
  run : Nat := 0
  deriving DecidableEq, Repr, Inhabited

/-- Where a frame in a receive buffer stands. -/
inductive RPhase where
  /-- waits to be taken -/
  | queued
  /-- belongs to the next pass (R172) -/
  | held
  /-- damaged: the slot is kept for a resent copy, with the attempts made (R175, R176) -/
  | kept (attempts : Nat)
  /-- a GRAD frame waits for the die's contribution (R185) -/
  | grad
  deriving DecidableEq, Repr, Inhabited

/-- One occupied slot of a receive buffer with its header-store entry (R166). -/
structure RSlot where
  f : Frame
  phase : RPhase
  /-- the run entry of its run has been pushed (R162, R377) -/
  pushed : Bool
  deriving DecidableEq, Repr, Inhabited

/-- What a die has received from one owner in one direction in the pass (R160). -/
structure OwnerProg where
  gen : Bool := false
  layers : Nat := 0
  runs : Nat := 0
  ended : Bool := false
  deriving DecidableEq, Repr, Inhabited

/-- A copy of an own frame on the ring path between a die's two ring engines (R161, R180): layer, segment, group, frame, payload, mark. -/
structure RingCopy where
  layer : Nat
  seg : Nat
  group : Nat
  fidx : Nat
  pay : Bytes
  pois : Bool
  deriving DecidableEq, Repr, Inhabited

/-- A conservation sum that fails (R487): quantity, expected and found values, and the die to quarantine, or the slot to hold. -/
structure AuditFail where
  qty : Nat
  expect : Nat
  found : Nat
  die : Option Nat
  slot : Option Nat
  deriving DecidableEq, Repr, Inhabited

/-- One direction of one die's ring engines. -/
structure RingDir where
  /-- credits held toward the next die: key 2 * group for WEIGHT, 2 * group + 1 for GRAD, 64 for buoys (R166) -/
  credits : Tbl Nat := []
  /-- the receive buffer for this direction, in arrival order -/
  buf : List RSlot := []
  prog : Tbl OwnerProg := []
  /-- WEIGHT runs of the pass taken from this direction: owner, layer, segment, group (R165) -/
  took : List (Nat × Nat × Nat × Nat) := []
  /-- own runs sent in the pass: layer, segment, group (R159, R165) -/
  sent : List (Nat × Nat × Nat) := []
  /-- per group: the owner of the run now going out, and the frame of an own run that goes out next (R164) -/
  outRun : Tbl (Option Nat) := []
  outIdx : Tbl Nat := []
  /-- per group: whether the last run sent was an own run, if one was sent (R164) -/
  lastOwn : Tbl (Option Bool) := []
  /-- copies of own frames that the die's other ring engine has read and passed on (R180) -/
  copies : List RingCopy := []
  /-- packets of own contributions sent in the pass: layer, exchange, count (R195) -/
  xsent : List (Nat × Nat × Nat) := []
  /-- layers announced in the pass (R159) -/
  ownLayer : Nat := 0
  ownGen : Bool := false
  ownEnd : Bool := false
  deriving DecidableEq, Repr, Inhabited

/-- An item of an arc's service channel (R167, R175, R199). -/
inductive Svc where
  | credit (key : Nat)
  | rereq (owner : Nat) (hdr : Bytes)
  | resent (f : Frame)
  | xrereq (src : Nat) (requester : Nat) (hdr : Bytes)
  | xresent (requester : Nat) (f : Frame)
  deriving DecidableEq, Repr, Inhabited

/-- One outbound direction of a die's arc: frames in the order sent, and the service channel. -/
structure ArcDir where
  q : List Frame := []
  svc : List Svc := []
  deriving DecidableEq, Repr, Inhabited

/-- A damaged exchange packet being asked for again (R199). -/
structure XWait where
  hdr : Bytes
  attempts : Nat
  last : Frame
  deriving DecidableEq, Repr, Inhabited

/-- One exchange on one die (R192, R198). -/
structure XRun where
  layer : Nat
  xid : Nat
  /-- PLACE packets written: source die and offset -/
  placed : List (Nat × Nat)
  /-- SUM contributions: source die, offset and payload -/
  sums : List (Nat × Nat × Bytes)
  pois : Bool
  complete : Bool
  deriving DecidableEq, Repr, Inhabited

/-- HBM_STATUSc (R275). -/
structure HbmStat where
  ce : BitVec 16 := 0
  ue : BitVec 16 := 0
  pcRetired : W32 := 0
  /-- entries of the controller's remap table in use, of 1,024 (R259) -/
  remap : Nat := 0
  /-- rows mapped out, and rows copied and waiting for the pass boundary, by the row's channel identifier (R147, R259) -/
  rows : List W64 := []
  rowPend : List W64 := []
  deriving DecidableEq, Repr, Inhabited

/-- A mapped-out row of SWS (R146): whether of SWS-U, sector, bank, row, and the spare row that stands in for it. -/
structure RowFix where
  upper : Nat
  sector : Nat
  bank : Nat
  row : Nat
  spare : Nat
  deriving DecidableEq, Repr, Inhabited

/-- One Quema die: its status and the registers of its window (R556). -/
structure DieRegs where
  st : DieState := .starting
  hb : BitVec 16 := 0
  sweepWays : Nat := 0
  stageWays : Nat := 0
  lookups : W32 := 0
  misses : W32 := 0
  /-- lines installed in the die cache, as line numbers of die-local addresses (R133) -/
  lines : List Nat := []
  /-- installed lines with an uncorrectable and with a correctable error (R139); no command makes one -/
  badLines : List Nat := []
  /-- 64-byte blocks of installed lines that the fill delivered with a poison mark, by die-local block number (R139) -/
  lineMarks : List Nat := []
  weakLines : List Nat := []
  dcUe : BitVec 16 := 0
  dcCe : BitVec 16 := 0
  spareMin : Nat := 64
  mapped : BitVec 16 := 0
  swsUe : BitVec 16 := 0
  swsCe : BitVec 16 := 0
  res8m : Nat := 0
  /-- SWS rows copied to a spare and waiting for the pass boundary (R147), rows mapped out, and spare rows marked unusable (R149): whether
  of SWS-U, sector, bank, spare -/
  mapPend : List RowFix := []
  rowMap : List RowFix := []
  badSpares : List (Nat × Nat × Nat × Nat) := []
  /-- uncorrectable SWS errors: sector, layer and bank, beacon (R148) -/
  swsFails : List (Nat × Nat × Nat × W64) := []
  line : Bool := false
  pos : Nat := 0
  bwd : Bool := false
  pass : BitVec 16 := 0
  passDone : Bool := false
  passGen : BitVec 16 := 0
  /-- WEIGHT frames taken in the pass -/
  taken : Nat := 0
  swPcrc : BitVec 16 := 0
  swResend : BitVec 16 := 0
  swPois : BitVec 16 := 0
  genDrop : BitVec 16 := 0
  epoch : W32 := 0
  prepared : Bool := false
  /-- what its audit sums showed when it prepared (R209), and the number of the epoch that it last reverted (R206, R211) -/
  sums : List AuditFail := []
  lastAbort : Option W32 := none
  slotMode : Tbl Nat := []
  xPcrc : BitVec 16 := 0
  xResend : BitVec 16 := 0
  xPois : BitVec 16 := 0
  abortCnt : BitVec 16 := 0
  xruns : List XRun := []
  xwaits : List XWait := []
  /-- contributions this die sent in the pass, kept until it ends (R199) -/
  xkept : List Frame := []
  hbm : Tbl HbmStat := []
  hbmWinErr : Bool := false
  hbmWins : Tbl RegPair := []
  cdOver : BitVec 16 := 0
  cdUnder : BitVec 16 := 0
  cdHdr : BitVec 16 := 0
  enc64 : W32 := 0
  dec64 : W32 := 0
  east : RingDir := {}
  west : RingDir := {}
  outE : ArcDir := {}
  outW : ArcDir := {}
  /-- run table of the kernel that serves the pass: key 32 * segment + group, value (TCOUNT, TLIST), and RQID (R377) -/
  runTable : Tbl (Option (Nat × Nat)) := []
  rqid : Nat := 0
  /-- the line: sums of the chain that has ended first at this owner, which wait for the other: slot, header bytes 4 to 15, payload, poison
  (R184, R186) -/
  grads : List (Nat × Bytes × Bytes × Bool) := []
  /-- quarantined and not yet back in service, also while its level-3 reset runs (R22, R488) -/
  quar : Bool := false
  /-- STATE 2 of MODE_STATUS: some slot is in its settle stage since the last reset (R220) -/
  settle : Bool := false
  /-- beacon value of the last quarantine, if any (R488) -/
  lastQuar : Option W64 := none
  deriving DecidableEq, Repr, Inhabited

/-- ARC_STATUSk and ARC_BYTESk (R558), with the replays of the flit now failing (R174). -/
structure Arc where
  st : Nat := 0
  replay : BitVec 16 := 0
  retrain : BitVec 16 := 0
  eastBytes : Nat := 0
  westBytes : Nat := 0
  flitFails : Nat := 0
  deriving DecidableEq, Repr, Inhabited

/-! ## Commands, streams, kernels and graphs -/

/-- A kernel run by KERNEL KIND 0 (R367 to R370, R378). -/
structure KernelRun where
  dies : List Nat
  /-- (module tile, context) pairs that have not completed TASK_END -/
  ends : List (Nat × Nat)
  /-- module tiles mapped -/
  tiles : List Nat
  ctxMask : Nat
  /-- TODs not yet written to a tile's queue, in order -/
  feeds : List (Nat × List Bytes)
  /-- descriptors not yet written: engine, channel, bytes, whether relocation failed -/
  dfeeds : List (Nat × Nat × Bytes × Bool)
  /-- windows the kernel opened: module tile, window -/
  wins : List (Nat × Nat)
  /-- HBM windows opened for it: die, window -/
  hbmWins : List (Nat × Nat)
  /-- PERSIST_ID of a persistent kernel, its launch number, and tiles that have not reported it done -/
  persist : Option Nat
  launch : Nat
  launchLeft : List Nat
  /-- entries that wait for room in an internal queue: tile, queue, entry (R377) -/
  pushes : List (Nat × Nat × QEntry)
  release : Bool
  /-- the slot whose passes its run table serves, if it has a RUNS section, and whether it applies their weights transposed: a backward pass
  (R183, R377) -/
  stream : Option Nat := none
  back : Bool := false
  deriving DecidableEq, Repr, Inhabited

/-- Where a graph node stands (R383). -/
inductive NodePhase where
  | waiting
  | running
  | done (s : Status)
  deriving DecidableEq, Repr, Inhabited

/-- A node of a launched graph: its module (none: this one), its entry with arguments copied in, its predecessors. -/
structure GNode where
  module : Option Nat
  entry : Bytes
  preds : List Nat
  phase : NodePhase
  deriving DecidableEq, Repr, Inhabited

/-- A graph launch (R383, R384). -/
structure GraphRun where
  id : Nat
  version : Nat
  nodes : List GNode
  /-- statuses of failed nodes, in order, and the first failed node -/
  failed : List Status
  firstFail : Option Nat
  /-- module tiles that its finished nodes ran on (R130) -/
  ran : List Nat := []
  /-- other modules whose answer to the launch is awaited, and, once a node has failed, those that have yet to say that none of their nodes
  runs any more -/
  asked : List Nat := []
  stopping : List Nat := []
  deriving DecidableEq, Repr, Inhabited

/-- What a running control command waits for. -/
inductive Ctl where
  | mode (slot : Nat) (mode : Nat)
  | switch (slot : Nat)
  | stage
  | clock
  | join
  | pair
  | dieReset (die : Nat)
  | scrubTiles (ts : List Nat)
  | detach
  | bundle (slot : Nat)
  | graphDelete (id : Nat)
  deriving DecidableEq, Repr, Inhabited

/-- What a running command is doing. -/
inductive Body where
  /-- its checks have begun -/
  | begun
  | kernel (k : KernelRun)
  | prefill (ra : W64)
  | release (ra : W64)
  | decode (ra : W64)
  | graph (g : GraphRun)
  | dma (e : Nat) (ch : Nat)
  | wait (fence : Nat) (target : W64)
  | poll
  | barrier (casc : Bool) (b : Nat)
  | ctl (c : Ctl)
  deriving DecidableEq, Repr, Inhabited

/-- The fold-64 of one layer's rows so far (R433, R434): the sum of block hashes, blocks and bytes folded. -/
structure LayerFold where
  h : W64 := 0
  blocks : Nat := 0
  deriving DecidableEq, Repr, Inhabited

/-- A running command with what its completion reports. -/
structure Job where
  entry : Bytes
  sqIdx : Nat
  entryAddr : W64
  depth : Nat
  frames : List Nat
  start : W64
  body : Body
  intSat : Bool := false
  nanCvt : Bool := false
  migrated : Bool := false
  resumed : Bool := false
  /-- conditions that arose while it ran, oldest first (R365) -/
  conds : List Status := []
  poisAddr : Option W64 := none
  /-- unit record of the first faulting unit (R390, R392) -/
  origin : Option W64 := none
  repro : Bool := false
  folds : List LayerFold := []
  rowPois : Bool := false
  program : Bytes := []
  gendig : Bytes := []
  input : Bytes := []
  /-- modes of the passes it ran (for MODE of the result record) -/
  modes : List Nat := []
  /-- slot and generation of the result record -/
  slotGen : Option (Nat × Nat) := none
  /-- bytes that its DMA descriptor has written (RESULT of DMA) -/
  result : W64 := 0
  /-- the digest that DIGEST computed -/
  digest : Option Bytes := none
  deriving DecidableEq, Repr, Inhabited

/-- An active LOOP counter of a frame (R373). -/
structure LoopCtr where
  at_ : Nat
  target : Nat
  ctr : Nat
  deriving DecidableEq, Repr, Inhabited

/-- A frame of CALL (R371). -/
structure CFrame where
  addr : W64
  entries : Nat
  idx : Nat
  loops : List LoopCtr
  /-- the CALL that opened the frame -/
  job : Job
  deriving DecidableEq, Repr, Inhabited

/-- A fetched submission entry and the SQ counter it came from. -/
structure PEntry where
  bytes : Bytes
  sqIdx : Nat
  deriving DecidableEq, Repr, Inhabited

/-- A final completion that waits for a CQ slot: its entry without phase and SQ_HEAD, and whether source 657 fires. -/
structure HeldC where
  tag : BitVec 16
  status : Status
  flags : Nat
  start : W64
  digIdx : W32
  result : W64
  fire : Bool
  /-- the fence that the command names until this completion is written (R350) -/
  fence : Option Nat
  /-- a written notice to the twin partner follows it (R464) -/
  twin : Bool := false
  deriving DecidableEq, Repr, Inhabited

/-- One stream (R349). -/
structure StreamSt where
  pending : List PEntry := []
  /-- the frames of CALL, innermost first -/
  frames : List CFrame := []
  held : List HeldC := []
  /-- a taken backward branch waits 1.00 us before continuing (R372) -/
  polling : Bool := false
  deriving DecidableEq, Repr, Inhabited

/-- An installed persistent kernel (R378). -/
structure Persist where
  id : Nat
  tiles : List Nat
  ctxMask : Nat
  qid : Nat
  launches : Nat
  deriving DecidableEq, Repr, Inhabited

/-- A stored graph version (R380, R381): its image and graph digest. -/
structure GVersion where
  num : Nat
  image : Bytes
  digest : Bytes
  deriving DecidableEq, Repr, Inhabited

/-- A stored graph. -/
structure GraphObj where
  versions : List GVersion := []
  building : Bool := false
  deriving DecidableEq, Repr, Inhabited

/-- A fence (R350). -/
structure Fence where
  hostSig : Bool := false
  owner : BitVec 4 := 0
  value : W64 := 0
  deriving DecidableEq, Repr, Inhabited

/-- A launch that another module sent here (R383). -/
structure RemoteLaunch where
  src : Nat
  /-- the launching stream there -/
  st : Nat
  id : Nat
  version : Nat
  nodes : List GNode
  ran : List Nat := []
  /-- every module has found its checks in order: nodes may start; and a node has failed: none starts any more -/
  go : Bool := false
  halted : Bool := false
  deriving DecidableEq, Repr, Inhabited

/-- The host-queue block (R334) and the completion queue's state. -/
structure HostQ where
  en : Bool := false
  kscrub : Bool := true
  ready : Bool := false
  idle : Bool := true
  sqErr : Bool := false
  cqErr : Bool := false
  fetchErr : Bool := false
  /-- an SQ fetch has failed: nothing is fetched until EN is cleared and set again (R340) -/
  fetchStop : Bool := false
  fenceErr : Bool := false
  regionErr : Bool := false
  cqTail : Nat := 0
  cqHead : Nat := 0
  sqHead : Nat := 0
  sqTail : Nat := 0
  phase : Bool := true
  sqBase : W64 := 0
  cqBase : W64 := 0
  sqLog2 : Nat := 0
  cqLog2 : Nat := 0
  digBase : W64 := 0
  dlog : Nat := 0
  digSerial : W32 := 0
  collCnt : BitVec 16 := 0
  interimDrop : BitVec 16 := 0
  wdFired : BitVec 16 := 0
  regions : Tbl RegPair := []
  fences : Tbl Fence := []
  deriving DecidableEq, Repr, Inhabited

/-- The command processor (R393) and everything that runs on it. -/
structure CmdProc where
  capOvf : Bool := false
  deadlocks : BitVec 16 := 0
  collCnt : BitVec 16 := 0
  capHead : BitVec 16 := 0
  capSeq : W32 := 0
  wdog : BitVec 16 := 1000
  /-- capture ring, by SEQ mod 64 -/
  ring : Tbl Bytes := []
  streams : Tbl StreamSt := []
  jobs : List (JobRef × Job) := []
  persists : List Persist := []
  graphs : Tbl GraphObj := []
  remotes : Tbl (Option RemoteLaunch) := []
  deriving DecidableEq, Repr, Inhabited

/-! ## Model slots, sequences, epochs -/

/-- What a tensor of a delta generation is stored as (R280). -/
inductive DKind where
  | delta
  | shared
  | full
  deriving DecidableEq, Repr, Inhabited

/-- A tensor of a delta generation: its index in the base's directory, kind, level table and stored bytes (R283, R287). -/
structure DTensor where
  idx : Nat
  kind : DKind
  levels : Bytes
  data : Bytes
  deriving DecidableEq, Repr, Inhabited

/-- One die's home shard of a generation (R144, R150, R155): the HBM3 frames of its east and west halves, and while it is resident in SWS
the offset there of each column group (R142). -/
structure Shard where
  east : List Nat
  west : List Nat
  /-- all of it is stored -/
  ok : Bool
  resident : Bool
  sws : Tbl Nat
  deriving DecidableEq, Repr, Inhabited

/-- A live generation (R214, R215, R280). -/
structure Gen where
  num : BitVec 16
  info : ModelInfo
  gendig : Bytes
  /-- the reference count as kept -/
  refs : Nat
  inFlight : Nat
  /-- base slot and generation of a delta generation -/
  base : Option (Nat × BitVec 16)
  /-- host-tier window it was moved to (R274) -/
  window : Option Nat
  /-- its shards are whole on the topology in force (R179, R483) -/
  whole : Bool
  stored : Nat
  /-- the bundle's bytes as committed, and a delta generation's tensors (R283, R288) -/
  bytes : Bytes
  delta : List DTensor
  /-- the line of seven that its home shards are cut for, by its retired die, or the ring (R150, R179), and the shards by die -/
  cut : Option Nat := none
  shards : Tbl Shard := []
  deriving DecidableEq, Repr, Inhabited

/-- An open bundle session (R360, R457, R483); on a member of a cascade, what it has received of the master's load. -/
structure Session where
  num : BitVec 16
  manifest : Bytes
  /-- bytes of the whole manifest -/
  mlen : Nat
  total : Nat
  /-- accepted chunks: offset and bytes -/
  chunks : List (Nat × Bytes)
  /-- generation that a restoring load restores -/
  restores : Option (BitVec 16)
  /-- what each member of a cascade load reported -/
  reports : List (Nat × MemberResult)
  /-- HBM windows open on a receiving module for its load: die, window (R257) -/
  wins : List (Nat × Nat) := []
  deriving DecidableEq, Repr, Inhabited

/-- A checked WSET_SWITCH that waits for the pass boundary (R217). -/
structure Switch where
  gen : BitVec 16
  policy : Nat
  job : JobRef
  deriving DecidableEq, Repr, Inhabited

/-- An admission in a slot's queue (R267). -/
structure Admit where
  job : JobRef
  ra : W64
  prompt : W64
  n : Nat
  deriving DecidableEq, Repr, Inhabited

/-- The governor's latest estimates for a slot (R203, R362): tokens per second, microseconds and milliseconds. -/
structure Estimate where
  rowsPerDie : Nat := 0
  rateMoored : Nat := 0
  rateSweep : Nat := 0
  rateNow : Nat := 0
  settleUs : Nat := 0
  sinceCommitMs : Nat := 0
  deriving DecidableEq, Repr, Inhabited

/-- One model slot. -/
structure Slot where
  gens : List Gen := []
  newest : BitVec 16 := 0
  issued : Bool := false
  serving : Option (BitVec 16) := none
  draining : Option (BitVec 16) := none
  /-- 0 empty, 1 sweep, 2 moored (R220) -/
  mode : Nat := 0
  /-- 0 AUTO, 1 SWEEP, 2 MOORED (R205) -/
  pin : Nat := 0
  settling : Bool := false
  /-- held with NOT_READY by a failed audit sum (R488) -/
  frozen : Bool := false
  session : Option Session := none
  est : Estimate := {}
  /-- consecutive windows in which the other mode's rate was at least 15 % better (R204) -/
  better : Nat := 0
  /-- beacon of the last epoch commit that concerned the slot (R204) -/
  lastCommit : W64 := 0
  /-- beacon at which the governor's own proposal last aborted (R205) -/
  dwell : Option W64 := none
  admits : List Admit := []
  /-- checked switches that wait for the pass boundary, oldest first -/
  switches : List Switch := []
  lastGen : Option (BitVec 16) := none
  lastPrefill : Bool := false
  deriving DecidableEq, Repr, Inhabited

/-- The part of a sequence that one die holds (R263): directory frame, table frames and tree slots. -/
structure SeqDie where
  dir : Nat := 0
  /-- table frames, in directory order, and 4 KiB frames of the directory -/
  frames : List Nat := []
  dirFrames : Nat := 0
  /-- KV heads that the die holds (H_d of R263), by number -/
  heads : List Nat := []
  /-- page groups of 16 positions whose pages are allocated -/
  groups : Nat := 0
  /-- addresses of the tree slots' pages: 4 for each layer and local head, the draft head's layer last (R226, R227) -/
  tree : List Nat := []
  /-- addresses of the pages of the draft head's layer: page times local heads plus local head (R226, R238) -/
  draft : List Nat := []
  deriving DecidableEq, Repr, Inhabited

/-- A tree node of the pass in flight: token, parent, draft probability recorded, and the parent's distribution. -/
structure TNode where
  token : Nat
  parent : Option Nat
  rank : Nat
  q : W32
  deriving DecidableEq, Repr, Inhabited

/-- A live sequence (R189, R262 to R268). -/
structure Seq where
  ra : W64
  slot : Nat
  gen : BitVec 16
  home : Nat
  dies : Tbl SeqDie
  /-- host-tier window it is parked in, with the host-tier offset of its pages (R273) -/
  parked : Option (Nat × Nat)
  /-- generation it will be re-pinned to at its next token boundary (R216) -/
  repin : Option (BitVec 16)
  migrated : Bool
  /-- accepted counts of the passes in the adaptation window (R226), newest first -/
  acc : List Nat
  tmpl : Nat
  sinceMove : Nat
  /-- still in prefill, and the positions whose entries its prefill passes have written -/
  prefilling : Bool
  filled : Nat
  pois : Bool
  /-- beacon of its last pass (R273) -/
  lastRun : W64 := 0
  deriving DecidableEq, Repr, Inhabited

/-- A running decode loop (R244). -/
structure DLoop where
  ra : W64
  job : JobRef
  lastBeacon : W64
  lastOut : Nat
  /-- the tree of the verify pass in flight, and the draft distributions of its nodes as (token, probability) lists -/
  tree : List TNode
  qs : List (List (Nat × W32))
  running : Bool
  /-- the pass in which its last verify pass began: one at most in a pass (R244) -/
  lastPass : Option (BitVec 16) := none
  /-- the ancestor-mask rows of the verify pass in flight (R228) -/
  mask : List Bytes
  /-- a stop token, or a token with a poison mark, has been emitted (R247) -/
  stopHit : Bool
  poisHit : Bool
  deriving DecidableEq, Repr, Inhabited

/-- A request for a mode epoch (R206). -/
inductive EpochReq where
  | mode (slot : Nat) (mode : Nat) (job : Option JobRef)
  | line (retired : Nat)
  | rejoin (die : Nat)
  deriving DecidableEq, Repr, Inhabited

/-- The phase of an epoch change (R207 to R212). -/
inductive EpochPhase where
  | none
  | proposed
  | committing
  | aborting
  deriving DecidableEq, Repr, Inhabited

/-- The mode epoch machinery in Rosha. -/
structure Epoch where
  num : W32 := 0
  phase : EpochPhase := .none
  reqs : List EpochReq := []
  waiting : List EpochReq := []
  prepared : List Nat := []
  refused : List Nat := []
  committed : List Nat := []
  reverted : List Nat := []
  auditFailed : Bool := false
  /-- the retired die of the line of seven in force (R178) -/
  line : Option Nat := none
  deriving DecidableEq, Repr, Inhabited

/-- The pass that runs (R188). -/
structure Pass where
  num : BitVec 16 := 0
  running : Bool := false
  slot : Nat := 0
  gen : BitVec 16 := 0
  prevGen : BitVec 16 := 0
  mode : Nat := 0
  bwd : Bool := false
  /-- the record whose prompt a prefill pass computes (R542) -/
  pre : Option W64 := none
  /-- dies that have reported its completion -/
  done : List Nat := []
  /-- it holds its reference on its generation (R173) -/
  ref : Bool := false
  /-- activation rows of the pass (R190), and the positions that a score exchange covers (R201) -/
  rows : Nat := 0
  span : Nat := 0
  /-- frames of the score exchanges' destination buffer by die (R201) -/
  score : Tbl (List Nat) := []
  deriving DecidableEq, Repr, Inhabited

/-- A mapped host-tier window (R271). -/
structure TierWin where
  mapped : Bool := false
  host : W64 := 0
  len : Nat := 0
  off : Nat := 0
  use_ : Nat := 0
  deriving DecidableEq, Repr, Inhabited

/-- The slots, sequences and passes of the module. -/
structure Models where
  slots : Tbl Slot := []
  seqs : List Seq := []
  loops : List DLoop := []
  epoch : Epoch := {}
  pass : Pass := {}
  /-- free KV-pool frames by key 8 * slot + die (die-local addresses of 4 KiB frames), and all frames of each pool -/
  pools : Tbl (List Nat) := []
  poolSet : Tbl (List Nat) := []
  /-- frames that join the free list at the next pass boundary (R265): key, frames -/
  freed : List (Nat × List Nat) := []
  tier : Tbl TierWin := []
  stageLimit : Nat := 0
  stagePend : Option (Nat × JobRef) := none
  nextSession : BitVec 16 := 0
  deriving DecidableEq, Repr, Inhabited

/-! ## Barriers, beacon and event router -/

/-- A participant of a barrier (R401): a tile context or a stream's command. -/
inductive Part where
  | ctx (t : Nat) (c : Nat)
  | job (j : JobRef)
  deriving DecidableEq, Repr, Inhabited

/-- MBARb or CBARc and its entrants (R402). -/
structure Barrier where
  en : Bool := false
  round : BitVec 2 := 0
  phaseErr : Bool := false
  cfgErr : Bool := false
  expect : Nat := 0
  cnt0 : Nat := 0
  cnt1 : Nat := 0
  in0 : List Part := []
  in1 : List Part := []
  held : List Part := []
  phases : List (Part × Nat) := []
  /-- cascade: members whose ARRIVE for round n has come (at the root), whether this member has sent its own, and T_rel -/
  arrived : List Nat := []
  sentArrive : Bool := false
  trel : Option W64 := none
  deriving DecidableEq, Repr, Inhabited

/-- The beacon block (R407 to R412). -/
structure Beacon where
  local_ : W64 := 0
  offset : W64 := 0
  aligned : Bool := false
  root : Bool := false
  upport : BitVec 3 := 0
  margin : BitVec 16 := 0
  lateRel : BitVec 16 := 0
  measured : Bool := false
  mbar : Tbl Barrier := []
  cbar : Tbl Barrier := []
  deriving DecidableEq, Repr, Inhabited

/-- An event source (R415) with its audit counts (R423). -/
structure Src where
  en : Bool := false
  pend : Bool := false
  act : Bool := false
  fire : BitVec 16 := 0
  prio : BitVec 4 := 15
  tmask : BitVec 5 := 0
  vec : BitVec 6 := 0
  /-- the target that last received it: 0 to 3 for K0 to K3, 4 the host, 5 none yet -/
  last : Nat := 5
  /-- queued to a keeper and not yet taken -/
  queued : Bool := false
  /-- its present presentation has been counted in QFULL_CNT -/
  deferred : Bool := false
  /-- its next record is presented at an EOI (REFIRE, R420) -/
  refire : Bool := false
  records : Nat := 0
  merged : Nat := 0
  cleared : Nat := 0
  pendBefore : Nat := 0
  deriving DecidableEq, Repr, Inhabited

/-- A record in a keeper's queue. -/
structure KRec where
  src : Nat
  prio : Nat
  refire : Bool
  fire : BitVec 16
  beacon : W64
  deriving DecidableEq, Repr, Inhabited

/-- EVR_KCTLk, the core's stack and queue (R418, R419), and the retention copy (R421). -/
structure Keeper where
  en : Bool := false
  sleep : Bool := false
  eoiErr : Bool := false
  runPrio : Nat := 16
  stack : List (Nat × Nat) := []
  tail : BitVec 4 := 0
  head : BitVec 4 := 0
  q : List KRec := []
  /-- EN saved while the core sleeps -/
  savedEn : Bool := false
  irq : Bool := false
  deriving DecidableEq, Repr, Inhabited

/-- EVR_HQBASEv and EVR_HQv (R417, R425). -/
structure HostEvq where
  base : W64 := 0
  en : Bool := false
  tail : Nat := 0
  head : Nat := 0
  log2 : Nat := 0
  phase : Bool := true
  /-- a message was sent and the driver has not written HEAD since -/
  sent : Bool := false
  deriving DecidableEq, Repr, Inhabited

/-- The event router (R424). -/
structure Evr where
  srcs : Tbl Src := []
  keepers : Tbl Keeper := []
  hostqs : Tbl HostEvq := []
  collCnt : BitVec 16 := 0
  qfull : BitVec 16 := 0
  dbIgn : BitVec 16 := 0
  /-- the source last presented to each target 0 to 4 -/
  lastSrc : Tbl (Option Nat) := []
  deriving DecidableEq, Repr, Inhabited

/-! ## Links, cascades and twins -/

/-- A peer identity and what else its frames say (R447). -/
structure Peer where
  serial : Bytes
  group : Nat
  module : Nat
  link : Nat
  switch : Bool
  standby : Bool
  side : Bool
  vmaj : Nat
  vmin : Nat
  deriving DecidableEq, Repr, Inhabited

/-- A tensor link (R448, R472). -/
structure Link where
  /-- 0 DOWN, 1 TRAIN, 2 DISCOVER, 3 UP, 4 HELD, 5 RETIRED -/
  st : Nat := 0
  hold : Nat := 0
  lg0Ret : Bool := false
  lg1Ret : Bool := false
  port : Option Nat := none
  vmaj : Nat := 0
  vmin : Nat := 0
  retrain : BitVec 16 := 0
  peer : Option Peer := none
  /-- candidate peer of DISCOVER, consecutive valid frames and whether a frame was heard (HEARD) -/
  cand : Option Peer := none
  consec : Nat := 0
  heard : Bool := false
  replayCnt : BitVec 16 := 0
  crcCnt : BitVec 16 := 0
  fecCnt : BitVec 16 := 0
  flitFails : Nat := 0
  deriving DecidableEq, Repr, Inhabited

/-- A logical port (R443, R444). -/
structure Port where
  serial : Bytes := []
  group : Nat := 0
  module : Nat := 0
  switch : Bool := false
  twin : Bool := false
  sendSeq : BitVec 16 := 0
  nextSeq : BitVec 16 := 0
  /-- received ahead of their turn -/
  early : List Msg := []
  /-- sent and unacknowledged: link and message -/
  unacked : List (Nat × Msg) := []
  /-- waiting for a credit of their class (R445), oldest first -/
  held : List Msg := []
  deriving DecidableEq, Repr, Inhabited

/-- A member of the cascade (R452, R472). -/
structure Member where
  valid : Bool := false
  lost : Bool := false
  standby : Bool := false
  side : Bool := false
  alias_ : Bool := false
  amod : Nat := 0
  hops : Nat := 0
  port : Nat := 0
  pattern : Nat := 0
  sercrc : W32 := 0
  heartbeat : Nat := 0
  deriving DecidableEq, Repr, Inhabited

/-- TWIN_STATUS.STATE (R472). -/
inductive TwinState where
  | unpaired
  | pairing
  | mirror
  | isolated
  | takeover
  | detaching
  | detached
  deriving DecidableEq, Repr, Inhabited

/-- A log entry received from the partner (R463). -/
structure TwinLog where
  entry : Bytes
  record : Bytes
  /-- last checkpoint of its record -/
  ckpt : Option Checkpoint
  deriving DecidableEq, Repr, Inhabited

/-- A sequence of the partner in the mirror pool (R463, R465): its record, and KV bytes by first and last-but-one position. -/
structure MirrorSeq where
  ra : W64
  record : Bytes
  parts : List (Nat × Nat × Bytes)
  deriving DecidableEq, Repr, Inhabited

/-- A completion that waits for the partner's acknowledgement (R464): the job's record, whether final, and the record's bytes. -/
structure TwinWait where
  ra : W64
  job : JobRef
  final : Bool
  status : Status
  result : W64
  /-- checkpoints of the record still to be acknowledged before it -/
  left : Nat
  deriving DecidableEq, Repr, Inhabited

/-- Links, ports, cascade and twin (R472). -/
structure Links where
  links : Tbl Link := []
  ports : Tbl (Option Port) := []
  joined : Bool := false
  joining : Bool := false
  wiring : Bool := false
  pattern : Nat := 0
  switchedIn : Bool := false
  role : Nat := 0
  expected : Bytes := []
  members : Tbl Member := []
  heartbeat : Nat := 0
  /-- fog messages already relayed: group, module, boot epoch -/
  fogSeen : List (Nat × Nat × W32) := []
  twin : TwinState := .unpaired
  pairJob : Option JobRef := none
  log : List TwinLog := []
  /-- checkpoints sent and not acknowledged: record address words -/
  unackedCk : List W64 := []
  mirrored : List W64 := []
  /-- highest multiple of 256 checkpointed of each mirrored sequence -/
  ckDone : List (W64 × Nat) := []
  twinWaits : List TwinWait := []
  /-- SERIAL of the partner, whether it has issued TWIN_PAIR, and whether a running DETACH_PREPARE hands its commands over (R462, R469) -/
  partner : Bytes := []
  partnerPair : Bool := false
  handing : Bool := false
  /-- the mirror pool: the partner's checkpointed sequences (R465) -/
  mirror : List MirrorSeq := []
  deriving DecidableEq, Repr, Inhabited

/-! ## Faults, audit, power, boot, host interface -/

/-- A bucket's slices, newest first, and its policy is looked up by kind and bucket number (R474). -/
structure Bucket where
  slices : List Nat := []
  /-- number of the current slice -/
  cur : Nat := 0
  deriving DecidableEq, Repr, Inhabited

/-- A policy set by FAULT_POLICY (R478). -/
structure Policy where
  n : Nat
  w : Nat
  action : Nat
  deriving DecidableEq, Repr, Inhabited

/-- Errors, retirement and audit (R473 to R494). -/
structure Faults where
  collCnt : BitVec 16 := 0
  ovf : Bool := false
  logHead : BitVec 16 := 0
  logSeq : W32 := 0
  /-- fault log ring by SEQ mod 1,024 -/
  ring : Tbl Bytes := []
  /-- flash ring of persistent fault records, newest first, at most 4,096 -/
  flash : List Bytes := []
  /-- buckets by channel identifier and bucket number -/
  buckets : List (W64 × Nat × Bucket) := []
  /-- policies by 2 * kind + bucket -/
  policies : Tbl (Option Policy) := []
  /-- the policies in the committed configuration record -/
  stored : Tbl (Option Policy) := []
  /-- retirement records (channel identifiers) and row-map records (row and its spare), committed in flash -/
  retired : List W64 := []
  rowMaps : List (W64 × Nat) := []
  audBusy : Bool := false
  audFail : Bool := false
  audQty : BitVec 3 := 0
  audits : W32 := 0
  bootFaults : Nat := 0
  deriving DecidableEq, Repr, Inhabited

/-- TOK_d (R516). -/
structure Tok where
  held : Nat := 0
  lent : Nat := 0
  borrowed : Nat := 0
  draw : BitVec 9 := 0
  tj : BitVec 8 := 0
  thr : BitVec 4 := 0
  /-- tokens borrowed from each lender die -/
  from_ : List (Nat × Nat) := []
  deriving DecidableEq, Repr, Inhabited

/-- Power, clocks and elapsed time (R516). -/
structure Power where
  policyCap : Nat := 3000
  cap : Nat := 3000
  reserve : Nat := 0
  pool : Nat := 0
  borrow : Bool := true
  alert : Bool := false
  capLim : Bool := false
  thermLim : Bool := false
  inputWarn : Bool := false
  coolWarn : Bool := false
  vin : BitVec 16 := 0
  iin : BitVec 16 := 0
  pin : BitVec 12 := 0
  coolIn : BitVec 12 := 0
  coolOut : BitVec 12 := 0
  collCnt : BitVec 16 := 0
  stepDn : BitVec 16 := 0
  loans : BitVec 16 := 0
  lock : Bool := false
  step : Nat := 0
  pinStep : Nat := 0
  pinned : Bool := false
  repro : Bool := false
  /-- CLOCK_PIN settings that wait for the pass boundary, oldest first: STEP, REPRO and the command -/
  clockPend : List (Nat × Bool × JobRef) := []
  /-- the CCLK step of a lowering that reproducible mode defers to the pass boundary (R430, R508) -/
  lowerPend : Option Nat := none
  /-- the last lowering by a step: whether a temperature called for it, and when (R508) -/
  downFor : Option (Bool × W64) := none
  toks : Tbl Tok := []
  ttNext : Nat := 0
  tt : Tbl RegPair := []
  /-- normal grants are suspended after PWR_ALERT# (R498) -/
  suspended : Bool := false
  deriving DecidableEq, Repr, Inhabited

/-- Which source owns recovery (R528). -/
inductive RecOwner where
  | none
  | pcie
  | mgmt
  deriving DecidableEq, Repr, Inhabited

/-- A recovery operation that runs (R527). -/
inductive RecOp where
  | program (page : Nat) (mgmt : Bool) (data : Bytes)
  | finish
  | abort
  deriving DecidableEq, Repr, Inhabited

/-- A security operation that runs, with the result it will write (R532, R536). -/
inductive SecOp where
  | enrol (i : Nat) (key : Bytes)
  | revoke (i : Nat)
  | result (r : Nat)
  deriving DecidableEq, Repr, Inhabited

/-- Boot, flash, identity and security (R518 to R537). -/
structure Boot where
  bootEpoch : W32 := 0
  /-- the image region as programmed (empty for the image from manufacture), whether its commit word is committed, and the
  running image -/
  image : Bytes := []
  committed : Bool := true
  running : Bytes := []
  svnMin : BitVec 8 := 0
  recovery : Bool := false
  recErr : Nat := 0
  recCause : Nat := 0
  recOp : Option RecOp := none
  /-- pages programmed since the last erase: number and 4 KiB -/
  pages : List (Nat × Bytes) := []
  recOwner : RecOwner := .none
  recData : Mem := []
  tftp : Bytes := []
  tftpOn : Bool := false
  tftpPage : Nat := 0
  secStage : Mem := []
  secOp : Option SecOp := none
  secRes : Nat := 0
  keysLock : Bool := false
  debugOpen : Bool := false
  /-- publisher keys by index: 1,984 bytes -/
  keys : Tbl Bytes := []
  chal : Bytes := []
  chalCount : Nat := 0
  /-- stage reached (GLB_STATUS.STAGE) and self-test findings of the start-up in progress -/
  stage : Nat := 0
  selfTest : SelfTest := default
  deriving DecidableEq, Repr, Inhabited

/-- A reset in progress (R552): level, die of level 3, source. -/
structure ResetRun where
  level : Nat
  die : Nat
  src : Nat
  deriving DecidableEq, Repr, Inhabited

/-- Global registers, MSI-X, aperture, debug (R551 to R564). -/
structure Glb where
  /-- GLB_STATUS.STATE: 0 start-up, 1 in service, 2 recovery, 3 control commands only, 4 powering down -/
  state : Nat := 0
  apErr : Bool := false
  accErr : Bool := false
  rcLevel : Nat := 4
  rcSource : Nat := 0
  rcFatal : BitVec 8 := 0
  collCnt : BitVec 16 := 0
  accBad : BitVec 16 := 0
  rstIgn : BitVec 16 := 0
  /-- the level 1, 2 or 4 reset in progress, the level-3 resets in progress and waiting -/
  reset : Option ResetRun := none
  dieResets : List Nat := []
  dieResetQ : List Nat := []
  /-- MSI-X table words: vector control masked bit is set at reset -/
  msixAddr : Tbl W64 := []
  msixData : Tbl W32 := []
  msixOpen : Tbl Bool := []
  msixPend : Tbl Bool := []
  apSegs : Tbl W64 := []
  bar4Log2 : Nat := 36
  dbgAddr : W64 := 0
  /-- the address word that the running fetch reads -/
  dbgFrom : W64 := 0
  dbgBusy : Bool := false
  dbgErr : Nat := 0
  dbgData : Bytes := []
  dbgPois : W64 := 0
  deriving DecidableEq, Repr, Inhabited

/-- Pins, straps and sideband state (R565 to R576, R544). -/
structure Pins where
  pwrEn : Bool := true
  pwrgd : Bool := true
  perst : Bool := false
  perstSeen : Bool := true
  alert : Bool := false
  hotSwap : Bool := true
  pllHold : Bool := false
  /-- the hot-swap controller powers up only after PWR_EN has been deasserted (R499) -/
  needPwrEn : Bool := false
  d3 : Bool := false
  wake : Bool := false
  group : BitVec 5 := 0
  casc : BitVec 4 := 0
  twinSide : Bool := false
  standby : Bool := false
  i3cAddr : Tbl (BitVec 7) := []
  i3cIndex : Nat := 0
  ip : W32 := 0
  deriving DecidableEq, Repr, Inhabited

/-- What leaves the block: the messages and replies that its surroundings receive. -/
inductive Out where
  | msix (vec : Nat) (addr : W64) (data : W32)
  | fog (f : Fog)
  | link (port : Nat) (m : Msg)
  | charFrame (n : Nat) (frame : Bytes)
  | pcieRead (data : Bytes)
  | winRead (data : Bytes)
  | winReject
  | mgmt (kind : Nat) (data : Bytes)
  | i3c (bus : Nat) (data : Bytes)
  | probeAnswer (ok : Bool)
  deriving DecidableEq, Repr, Inhabited

/-- Memories (R109, R140, R249, R253, R336). -/
structure Memories where
  /-- host memory by bus address -/
  host : Mem := []
  /-- module memory by die * 2^48 + die-local offset, laid out as R253 gives -/
  mod : Mem := []
  /-- stored poison marks by 64-byte block of module memory -/
  pois : Tbl Bool := []
  /-- fill bits by 16384 * module tile + tile line (R121) -/
  fill : Tbl Bool := []
  /-- physical faults of module memory by 64-byte block: 1 a correctable error, 2 an uncorrectable one, 3 an HBM3 block
  whose first read alone fails, 4 an SWS block with a stuck bit and 5 the same after one read (R124, R145, R146, R258).
  No command makes one: a state may hold them. -/
  ecc : Tbl Nat := []
  deriving DecidableEq, Repr, Inhabited

/-- The state of the block. -/
structure State where
  /-- the commands that wait, first in, first out -/
  pending : List Instr
  mem : Memories
  tiles : Tbl Tile
  engines : Tbl Engine
  dies : Tbl DieRegs
  arcs : Tbl Arc
  hq : HostQ
  cp : CmdProc
  md : Models
  bcn : Beacon
  evr : Evr
  lk : Links
  flt : Faults
  pw : Power
  boot : Boot
  glb : Glb
  pins : Pins
  /-- messages that have left the block, oldest first -/
  out : List Out
  /-- free values taken so far (the model's own field) -/
  free : Nat
  deriving DecidableEq, Repr, Inhabited

/-- The block right after cold reset: every field at its Reset value. -/
def State.reset : State where
  pending := []
  mem := {}
  tiles := []
  engines := []
  dies := []
  arcs := []
  hq := {}
  cp := {}
  md := {}
  bcn := {}
  evr := {}
  lk := {}
  flt := {}
  pw := {}
  boot := {}
  glb := {}
  pins := {}
  out := []
  free := 0

end Sys2Proof.Machine
end

