-- ==== Sys2Proof/Machine/Array.lean ====
section
/-!
DEFINITION. The array unit (chapter 03, R44 to R49 and R71 to R88) as functions of operand bytes: MMA, MMA_T, DIST and
ASHIFT over the logical sizes M, K and N, with poison marks, conversion flags and the weights retained by KEEP.
-/

namespace Sys2Proof.Machine

/-- An accumulator: FP32 or INT32. -/
inductive Acc where
  | f (x : Fp)
  | i (n : Int)
  deriving DecidableEq, Repr, Inhabited

/-- The fields of an array TOD (R67). -/
structure ArrayTod where
  wfmt : Nat
  afmt : Nat
  ofmt : Nat
  rnd : Nat
  nonsat : Bool
  acc : Bool
  arr : Nat
  keep : Bool
  reuse : Bool
  fn : Nat
  s : Nat
  k : Nat
  m : Nat
  n : Nat
  deriving DecidableEq, Repr, Inhabited

/-- The operation words of an array TOD. -/
def arrayTod (b : Bytes) : ArrayTod where
  wfmt := wfld b 4 31 28
  afmt := wfld b 4 27 24
  ofmt := wfld b 4 23 20
  rnd := wfld b 4 19 18
  nonsat := bitN (leAt b 4 4) 17
  acc := bitN (leAt b 4 4) 16
  arr := wfld b 4 15 14
  keep := bitN (leAt b 4 4) 13
  reuse := bitN (leAt b 4 4) 12
  fn := wfld b 4 11 8
  s := wfld b 4 7 0
  k := wfld b 8 31 16
  m := wfld b 8 9 0
  n := wfld b 12 31 16

/-- One output element: its conversion and its poison mark. -/
structure OutElem where
  c : Conv
  pois : Bool
  deriving DecidableEq, Repr, Inhabited

/-- The element code that stands for a zero weight written by the front (R83, R84). -/
def zeroW : Nat := 65536

/-- The value of a stored weight before its scale. -/
def storedElem (fmt : Nat) (levels : Bytes) (c : Nat) : Fp := if c = zeroW then .zero else weightElem fmt levels c

/-- The bytes of a marked byte string. -/
def plain (l : List PByte) : Bytes := l.map (·.1)

/-- Whether any byte is poisoned. -/
def anyPois (l : List PByte) : Bool := l.any (·.2)

/-- A column as the cells use it: its weights, and the level registers of its array (R76, R83). -/
structure LCol where
  w : WCol
  lv : Bytes
  deriving DecidableEq, Repr, Inhabited

/-- `n` marked bytes at an offset. -/
def pAt (l : List PByte) (off n : Nat) : List PByte := (l.drop off).take n

/-- A stored column from its group: rows at and beyond `rows` hold zero weights. -/
def wcolOf (fmt rows : Nat) (g : List PByte) : WCol :=
  let b := plain g
  { elems := (List.range 128).map fun i => if i < rows then groupElem fmt b i else zeroW
    scales := groupScales fmt b
    pois := anyPois (g.take (ceilDiv (rows * groupBits fmt) 8)) || (isScaled fmt && anyPois (g.drop (16 * groupBits fmt))) }

/-- The column of K-fold kf and logical column n of a weight operand (R74). -/
def weightCol (fmt k n : Nat) (w : List PByte) (kf c : Nat) : WCol :=
  wcolOf fmt (min 128 (k - 128 * kf)) (pAt w ((kf * n + c) * groupBytes fmt) (groupBytes fmt))

/-- Element i of the activation slice of K-fold kf and row m (R74), with its mark. -/
def actElem (fmt m : Nat) (a : List PByte) (kf row i : Nat) : Nat × Bool :=
  let e := elemBytes fmt
  let p := pAt a ((kf * m + row) * 128 * e + i * e) e
  (leNat (plain p), anyPois p)

/-- Whether the operation accumulates in INT32 (R44, R81). -/
def intAcc (dist : Bool) (t : ArrayTod) : Bool := t.wfmt = 4 || (dist && 4 ≤ t.fn && t.fn ≤ 6)

/-! ### Column results -/

/-- The signed value of an INT8 code; a zero weight is 0. -/
def int8Val (c : Nat) : Int := if c = zeroW then 0 else signed 8 c

/-- The floating column result of R47 over the rows below `rows`. -/
def mmaCol (t : ArrayTod) (l : LCol) (acts : List Nat) : Fp :=
  let w := l.w
  let prods := (w.elems.zip acts).map fun p => (decodeElem t.afmt p.2).mul (storedElem t.wfmt l.lv p.1)
  let prods := prods ++ List.replicate (128 - prods.length) Fp.zero
  let q := fun j => (tree Fp.add .zero 5 ((prods.drop (32 * j)).take 32)).mul (scaleVal t.wfmt w.scales j)
  ((q 0).add (q 1)).add ((q 2).add (q 3))

/-- The integer column result of an INT8 multiply-accumulate. -/
def mmaColInt (w : WCol) (acts : List Nat) : Int :=
  ((w.elems.zip acts).map fun p => int8Val p.1 * signed 8 p.2).foldl (· + ·) 0

/-- The term of a DIST function on floating operands (R87). -/
def distTerm (fn : Nat) (a w : Fp) : Fp :=
  match fn with
  | 0 => (a.sub w).abs
  | 1 => (a.sub w).mul (a.sub w)
  | _ => a.add w

/-- How a DIST function combines floating results (R87, R88). -/
def distCombine (fn : Nat) : Fp → Fp → Fp :=
  match fn with
  | 2 => Fp.max
  | 3 => Fp.min
  | _ => Fp.add

/-- The identity of a floating DIST function. -/
def distId (fn : Nat) : Fp :=
  match fn with
  | 2 => .inf true
  | 3 => .inf false
  | _ => .zero

/-- The term of a DIST function on integers; within INT32 for INT8 operands. -/
def distTermInt (fn : Nat) (a w : Int) : Int :=
  match fn with
  | 0 => ((a - w).natAbs : Int)
  | 1 => (a - w) * (a - w)
  | _ => a + w

/-- How a DIST function combines integers, with its saturation. -/
def distCombineInt (fn : Nat) (a b : Int) : Int × Bool :=
  match fn with
  | 2 => (max a b, false)
  | 3 => (min a b, false)
  | _ => satAdd32 a b

/-- The integer that stands for the identity of a DIST function. -/
def distIdInt (fn : Nat) : Int :=
  match fn with
  | 2 => -2147483648
  | 3 => 2147483647
  | _ => 0

/-- Whether a compare-count function counts this pair; any comparison with NaN yields 0 (R88). -/
def countHit (fn : Nat) (a w : Fp) : Bool :=
  match fn with
  | 4 => w.lt a
  | 5 => a.ge w
  | _ => a.eq w

/-- The result of one K-fold of one column, combined into the accumulator: accumulator and whether it saturated. -/
def foldInto (dist : Bool) (t : ArrayTod) (l : LCol) (acts : List Nat) (acc : Acc × Bool) : Acc × Bool :=
  let w := l.w
  match acc with
  | (.f x, sat) =>
    if dist then
      let terms := (w.elems.zip acts).map fun p => distTerm t.fn (decodeElem t.afmt p.2) (storedElem t.wfmt [] p.1)
      let terms := terms ++ List.replicate (128 - terms.length) (distId t.fn)
      (.f (distCombine t.fn x (tree (distCombine t.fn) (distId t.fn) 7 terms)), sat)
    else (.f (x.add (mmaCol t l acts)), sat)
  | (.i n, sat) =>
    if dist then
      if 4 ≤ t.fn then
        let hits := (w.elems.zip acts).countP fun p => countHit t.fn (decodeElem t.afmt p.2) (storedElem t.wfmt [] p.1)
        let r := satAdd32 n hits
        (.i r.1, sat || r.2)
      else
        let terms := (w.elems.zip acts).map fun p => distTermInt t.fn (signed 8 p.2) (int8Val p.1)
        let r := terms.foldl (fun (a : Int × Bool) x => let c := distCombineInt t.fn a.1 x; (c.1, a.2 || c.2)) (distIdInt t.fn, false)
        let c := distCombineInt t.fn n r.1
        (.i c.1, sat || r.2 || c.2)
    else
      let r := satAdd32 n (mmaColInt w acts)
      (.i r.1, sat || r.2)

/-! ### Accumulators: start and output (R80, R81) -/

/-- The accumulator at the start of a round; the flags are NAN_CVT and INT_SAT of an FP32 value entering INT32. -/
def accStart (dist : Bool) (t : ArrayTod) (old : Nat) : Acc × Conv :=
  if t.acc then
    if intAcc dist t then
      if t.ofmt = 10 then (.i (signed 32 old), ⟨0, false, false⟩)
      else let c := convInt 32 .rne (decodeElem 0 old); (.i (signed 32 c.code), c)
    else (.f (decodeElem 0 old), ⟨0, false, false⟩)
  else if intAcc dist t then (.i (if dist then distIdInt t.fn else 0), ⟨0, false, false⟩)
  else (.f (if dist then distId t.fn else .zero), ⟨0, false, false⟩)

/-- The accumulator converted to OFMT under R50 to R52. -/
def accOut (t : ArrayTod) (rnd : Rnd) : Acc → Conv
  | .f x => convTo t.ofmt t.nonsat rnd x
  | .i n => if t.ofmt = 10 then ⟨unsigned 32 n, false, false⟩ else ⟨(toF32 (.ofInt n)).toNat, false, false⟩

/-! ### Whole operations -/

/-- What an array TOD reads. -/
structure ArrayIn where
  w : List PByte
  a : List PByte
  old : List PByte
  levels : List PByte
  /-- presented widths of MA0 and MA1 in this format -/
  wc0 : Nat
  wc1 : Nat
  /-- rounding of output row and element, and the marks of the rows' key-table entries -/
  rnd : Nat → Nat → Rnd
  rndPois : Nat → Bool

/-- The presented width of an array of effective width `w` (chapter 03, Folding). -/
def presented (fmt w : Nat) : Nat := if isFourBit fmt then 2 * w else w

/-- The columns that one round serves (R71). -/
def roundWidth (t : ArrayTod) (wc0 wc1 : Nat) : Nat :=
  if t.arr = 0 then wc0 else if t.arr = 1 then wc1 else wc0 + wc1

/-- Whether the output of a TOD is rounded by its context's key, so that the key's marks enter it (R55, R100): not an exact output. -/
def rounds (dist : Bool) (t : ArrayTod) : Bool := t.rnd = 2 && !intAcc dist t && t.ofmt ≠ 0

/-- One output element of MMA or DIST: row, column. `col kf` gives the stored column of each K-fold. -/
def forwardElem (dist : Bool) (t : ArrayTod) (x : ArrayIn) (col : Nat → LCol) (row c : Nat) : OutElem :=
  let eo := elemBytes t.ofmt
  let oldb := pAt x.old ((row * t.n + c) * eo) eo
  let st := accStart dist t (leNat (plain oldb))
  let fold := fun (r : (Acc × Bool) × Bool) kf =>
    let w := col kf
    let as := (List.range (min 128 (t.k - 128 * kf))).map (actElem t.afmt t.m x.a kf row)
    (foldInto dist t w (as.map (·.1)) r.1, r.2 || w.w.pois || as.any (·.2))
  let r := (List.range (ceilDiv t.k 128)).foldl fold ((st.1, st.2.sat), (t.acc && anyPois oldb) || (rounds dist t && x.rndPois row))
  let out := accOut t (x.rnd row c) r.1.1
  ⟨⟨out.code, out.nan || st.2.nan, out.sat || r.1.2⟩, r.2⟩

/-- The elements of MMA and DIST, row-major. -/
def forwardAll (dist : Bool) (t : ArrayTod) (x : ArrayIn) (col : Nat → Nat → LCol) : List OutElem :=
  (List.range t.m).flatMap fun row => (List.range t.n).map fun c => forwardElem dist t x (fun kf => col kf c) row c

/-- One element's term of MMA_T: the product with its group's scale (R85). -/
def transTerm (t : ArrayTod) (x : Nat) (l : LCol) (i : Nat) : Fp :=
  ((decodeElem t.afmt x).mul (storedElem t.wfmt l.lv (l.w.elems.getD i zeroW))).mul (scaleVal t.wfmt l.w.scales (i / 32))

/-- One array's result for one fold of MMA_T over its logical columns, each given by its input code and column. -/
def transArray (t : ArrayTod) (cols : List (Nat × LCol)) (i : Nat) : Fp :=
  let terms := cols.map fun p => transTerm t p.1 p.2 i
  let sum := fun (l : List Fp) => tree Fp.add .zero 7 (l ++ List.replicate (128 - l.length) Fp.zero)
  if isFourBit t.wfmt then
    let evens := (terms.zipIdx.filter fun p => p.2 % 2 = 0).map (·.1)
    let odds := (terms.zipIdx.filter fun p => p.2 % 2 = 1).map (·.1)
    (sum evens).add (sum odds)
  else sum terms

/-- One output element of MMA_T: row, array row k (R85). -/
def transElem (t : ArrayTod) (x : ArrayIn) (col : Nat → Nat → LCol) (row k : Nat) : OutElem :=
  let eo := elemBytes t.ofmt
  let ei := elemBytes t.afmt
  let oldb := pAt x.old ((row * t.k + k) * eo) eo
  let st := accStart false t (leNat (plain oldb))
  let rw := roundWidth t x.wc0 x.wc1
  let first := if t.arr = 2 then x.wc0 else rw
  let xin := fun c => pAt x.a ((row * t.n + c) * ei) ei
  let fold := fun (r : (Acc × Bool) × Bool) f =>
    let cs := (List.range (min rw (t.n - f * rw))).map fun j => (leNat (plain (xin (f * rw + j))), col (k / 128) (f * rw + j))
    let pois := (List.range (min rw (t.n - f * rw))).any fun j => anyPois (xin (f * rw + j)) || (col (k / 128) (f * rw + j)).w.pois
    match r.1 with
    | (.f a, sat) =>
      let v0 := transArray t (cs.take first) (k % 128)
      let v := if t.arr = 2 then v0.add (transArray t (cs.drop first) (k % 128)) else v0
      ((.f (a.add v), sat), r.2 || pois)
    | (.i n, sat) =>
      let v := (cs.map fun p => signed 8 p.1 * int8Val (p.2.w.elems.getD (k % 128) zeroW)).foldl (· + ·) 0
      let q := satAdd32 n v
      ((.i q.1, sat || q.2), r.2 || pois)
  let r := (List.range (ceilDiv t.n rw)).foldl fold ((st.1, st.2.sat), (t.acc && anyPois oldb) || (rounds false t && x.rndPois row))
  let out := accOut t (x.rnd row k) r.1.1
  ⟨⟨out.code, out.nan || st.2.nan, out.sat || r.1.2⟩, r.2⟩

/-- The elements of MMA_T, row-major M by K. -/
def transAll (t : ArrayTod) (x : ArrayIn) (col : Nat → Nat → LCol) : List OutElem :=
  (List.range t.m).flatMap fun row => (List.range t.k).map fun k => transElem t x col row k

/-- Whether a level block has a mark among its entries: a poisoned level marks every weight decoded through it. -/
def levelPois (fmt : Nat) (lv : List PByte) : Bool := isTQ fmt && anyPois (lv.take (if fmt = 8 then 8 else 4))

/-- A column of zero weights. -/
def zeroCol : WCol := ⟨List.replicate 128 zeroW, [], false⟩

/-- What KEEP retains in an array (R83): the columns of its share of the last pass, `lo` being the array's first column within a round. -/
def retainOf (t : ArrayTod) (wop : W32) (x : ArrayIn) (wc lo : Nat) : Retained :=
  let rw := roundWidth t x.wc0 x.wc1
  let lastR := (ceilDiv t.n rw - 1) * rw
  let lp := levelPois t.wfmt x.levels
  let cols := (List.range wc).map fun j =>
    if lastR + lo + j < t.n ∧ lo + j < rw then weightCol t.wfmt t.k t.n x.w (ceilDiv t.k 128 - 1) (lastR + lo + j) else zeroCol
  { wop := wop, wfmt := t.wfmt, k := t.k, n := t.n, first := lastR + lo
    cols := cols.map fun c => { c with pois := c.pois || lp }
    levels := plain x.levels }

/-- ASHIFT on one array's retained columns (R84): a new row's logical column n lands where the retained column n is. -/
def shiftCols (t : ArrayTod) (w : List PByte) (r : Retained) (wop : W32) : Retained :=
  let e := elemBytes t.wfmt
  { r with
    wop := wop
    cols := r.cols.zipIdx.map fun p =>
      let c := r.first + p.2
      let news := (List.range t.s).map fun j => pAt w ((j * t.n + c) * e) e
      let codes := if c < t.n then news.map fun b => leNat (plain b) else List.replicate t.s zeroW
      { p.1 with elems := (codes ++ p.1.elems).take 128, pois := p.1.pois || (c < t.n && news.any anyPois) } }

end Sys2Proof.Machine
end

