-- ==== Sys2Proof/Machine/Vector.lean ====
section
/-!
DEFINITION. The vector unit (chapter 03, R92 to R95) as functions of operand bytes: each operation over M rows of L
elements, computed in FP32, with poison marks, and converted to the output format (R50 to R53).
-/

namespace Sys2Proof.Machine

/-- The fields of a vector TOD (R68). -/
structure VecTod where
  ifmt : Nat
  ofmt : Nat
  bfmt : Nat
  rnd : Nat
  nonsat : Bool
  mask : Bool
  fn : Nat
  l : Nat
  d : Nat
  m : Nat
  p : W32
  deriving DecidableEq, Repr, Inhabited

/-- The operation words of a vector TOD. -/
def vecTod (b : Bytes) : VecTod where
  ifmt := wfld b 4 31 28
  ofmt := wfld b 4 27 24
  bfmt := wfld b 4 23 20
  rnd := wfld b 4 19 18
  nonsat := bitN (leAt b 4 4) 17
  mask := bitN (leAt b 4 4) 16
  fn := wfld b 4 15 8
  l := wfld b 8 17 0
  d := wfld b 12 31 16
  m := wfld b 12 9 0
  p := BitVec.ofNat 32 (leAt b 28 4)

/-- A value with its poison mark. -/
abbrev PVal := Fp × Bool

/-- Row `row` of `n` elements of format `fmt`. -/
def vecRow (fmt n : Nat) (a : List PByte) (row : Nat) : List PVal :=
  let e := elemBytes fmt
  (pieces e (pAt a (row * n * e) (n * e))).map fun b => (decodeElem fmt (leNat (plain b)), anyPois b)

/-- Whether any value of a row is marked. -/
def rowPois (r : List PVal) : Bool := r.any (·.2)

/-- The scale or epsilon parameter P as a value. -/
def VecTod.pv (t : VecTod) : Fp := ofF32 t.p

/-- exp, with z_i - m in FP32. -/
def softExp (m z : Fp) : Fp := (z.sub m).exp

/-- SOFTMAX of one row; `masked i` says whether element i is masked (R92, R94). A masked element enters as −∞ whatever it holds, so a NaN in
one does not make the row a row holding a NaN (DESIGN CHOICE, assumption log 147). -/
def softmaxRow (s : Fp) (r : List PVal) (masked : Nat → Bool) : List PVal :=
  let z := r.zipIdx.map fun p => if masked p.2 then Fp.inf true else s.mul p.1.1
  let pois := rowPois r
  if (List.range r.length).all masked then z.map fun _ => (.zero, pois)
  else if z.any (· = .nan) then z.map fun _ => (.nan, pois)
  else
    let m := laneReduce Fp.max (.inf true) z
    let e := z.map (softExp m)
    let sum := laneReduce Fp.add .zero e
    e.map fun x => (x.div sum, pois)

/-- RMSNORM of one row with gain `g` (R92). The spec gives no order of the FP32 steps: g times x is rounded first and then multiplied by
the reciprocal square root (DESIGN CHOICE, assumption log 148). -/
def rmsRow (eps : Fp) (r g : List PVal) : List PVal :=
  let ss := laneReduce Fp.add .zero (r.map fun p => p.1.mul p.1)
  let k := ((ss.div (.ofInt r.length)).add eps).rsqrt
  let pois := rowPois r
  (r.zip g).map fun p => ((p.2.1.mul p.1.1).mul k, pois || p.2.2)

/-- silu(a) = a / (1 + e^-a). -/
def silu (a : Fp) : Fp := a.div (Fp.one.add a.neg.exp)

/-- gelu(a) = 0.5 a (1 + tanh(0.7978846 (a + 0.044715 a^3))), its constants rounded to FP32. -/
def gelu (a : Fp) : Fp :=
  let t := (ofF32 0x3F4C422A).mul (a.add ((ofF32 0x3D372713).mul ((a.mul a).mul a)))
  ((Fp.fin false 1 (-1)).mul a).mul (Fp.one.add t.tanh)

/-- relu(a) = max(a, 0). -/
def relu (a : Fp) : Fp := a.max .zero

/-- The activation of a GLU function. -/
def gluAct (fn : Nat) : Fp → Fp :=
  match fn with
  | 0 => silu
  | 1 => gelu
  | 2 => relu
  | 3 => silu
  | _ => gelu

/-- GLU of one row; FN 3 and 4 have no B. -/
def gluRow (fn : Nat) (r b : List PVal) : List PVal :=
  if 3 ≤ fn then r.map fun p => (gluAct fn p.1, p.2)
  else (r.zip b).map fun p => ((gluAct fn p.1.1).mul p.2.1, p.1.2 || p.2.2)

/-- The index of a head pair's first and second element (R92). -/
def ropeP (fn i : Nat) : Nat := if fn = 0 then 2 * i else i
def ropeQ (fn d i : Nat) : Nat := if fn = 0 then 2 * i + 1 else i + d / 2

/-- ROPE of one row at an INT32 position. -/
def ropeRow (t : VecTod) (r : List PVal) (pos : W32) (posPois : Bool) : List PVal :=
  (List.range r.length).map fun j =>
    let h := j / t.d * t.d
    let o := j % t.d
    let i := if t.fn = 0 then o / 2 else o % (t.d / 2)
    let p := r.getD (h + ropeP t.fn i) (.zero, false)
    let q := r.getD (h + ropeQ t.fn t.d i) (.zero, false)
    let th := ropeAngle pos t.p i t.d
    let v := if o = ropeP t.fn i then (p.1.mul th.cos).sub (q.1.mul th.sin) else (p.1.mul th.sin).add (q.1.mul th.cos)
    (v, p.2 || q.2 || posPois)

/-- TOPK order: larger first, NaN last, lower index first among equals (R92). -/
def topkBefore (a b : Fp × Nat) : Bool :=
  if a.1 = .nan then (b.1 = .nan && a.2 ≤ b.2)
  else if b.1 = .nan then true
  else b.1.lt a.1 || (!a.1.lt b.1 && a.2 ≤ b.2)

/-- The k largest values with their indices. -/
def topkRow (k : Nat) (r : List PVal) : List (Fp × Nat) :=
  (sortBy topkBefore (r.zipIdx.map fun p => (p.1.1, p.2))).take k

/-- EWISE of one row; the product of AXPY is rounded to FP32 before the sum (DESIGN CHOICE, assumption log 148). -/
def ewiseRow (fn : Nat) (s : Fp) (r b : List PVal) : List PVal :=
  (r.zip b).map fun p =>
    ((match fn with
      | 0 => p.1.1.add p.2.1
      | 1 => p.1.1.mul p.2.1
      | _ => p.1.1.add (s.mul p.2.1)), p.1.2 || p.2.2)

/-- The mask bit of element i of row `row`: rows are padded to a multiple of 64 bytes (R92). -/
def maskBit (l : Nat) (b : List PByte) (row i : Nat) : Bool :=
  bitN ((b.getD (row * (64 * ceilDiv l 512) + i / 8) (0, false)).1.toNat) (i % 8)

/-- One result row of a vector operation other than TOPK, before conversion. -/
def vecRowOut (opc : Nat) (t : VecTod) (a b : List PByte) (row : Nat) : List PVal :=
  let r := vecRow t.ifmt t.l a row
  match opc with
  | 0x20 =>
    let y := softmaxRow t.pv r fun i => t.mask && !maskBit t.l b row i
    let bp := t.mask && anyPois (pAt b (row * (64 * ceilDiv t.l 512)) (ceilDiv t.l 8))
    y.map fun p => (p.1, p.2 || bp)
  | 0x21 => rmsRow t.pv r (vecRow t.bfmt t.l b 0)
  | 0x22 => gluRow t.fn r (vecRow t.bfmt t.l b row)
  | 0x23 => let pb := pAt b (4 * row) 4; ropeRow t r (BitVec.ofNat 32 (leNat (plain pb))) (anyPois pb)
  | 0x24 => r.map fun p => (t.pv.mul p.1, p.2)
  | 0x25 => r.map fun p => (t.pv.mul p.1, p.2)
  | 0x27 => ewiseRow t.fn t.pv r (vecRow t.bfmt t.l b row)
  | _ => r

/-- Output bytes with the number of NAN_CVT and INT_SAT elements. -/
structure VecOut where
  o : List PByte
  b : List PByte
  nans : Nat
  deriving DecidableEq, Repr, Inhabited

/-- A converted row in a format without a shared scale. -/
def convRow (t : VecTod) (rnd : Nat → Rnd) (r : List PVal) : List PByte × Nat :=
  let cs := r.zipIdx.map fun p => (convTo t.ofmt t.nonsat (rnd p.2) p.1.1, p.1.2)
  (cs.flatMap fun c => (leBytes (elemBytes t.ofmt) c.1.code).map fun x => (x, c.2), cs.countP fun c => c.1.nan)

/-- Element codes packed b bits each, element 0 lowest (R41). -/
def packBits (b : Nat) (codes : List Nat) : Nat := (codes.zipIdx.map fun p => p.1 * 2 ^ (b * p.2)).foldl (· + ·) 0

/-- A converted row in an MX format: groups of 128 elements as R41 lays them out, each quantised in blocks of 32 (R53).
Elements of the last group beyond the row are free bytes, taken from number `free` on. -/
def mxRow (t : VecTod) (free : Nat) (rnd : Nat → Rnd) (r : List PVal) : List PByte :=
  let b := groupBits t.ofmt
  (pieces 128 r).zipIdx.flatMap fun g =>
    let blocks := (List.range 4).map fun j =>
      let xs := (g.1.drop (32 * j)).take 32
      let q := quantBlock t.ofmt ((List.range xs.length).map fun i => rnd (128 * g.2 + 32 * j + i)) (xs.map (·.1))
      let fill := (List.range (32 - xs.length)).map fun i => (Config.freeByte (free + 128 * g.2 + 32 * j + i)).toNat % 2 ^ b
      (q.1 ++ fill, if xs.isEmpty then (Config.freeByte (free + 128 * g.2 + 32 * j)).toNat else q.2, rowPois xs)
    (blocks.flatMap fun k => (leBytes (4 * b) (packBits b k.1)).map fun x => (x, k.2.2)) ++
      blocks.map fun k => (BitVec.ofNat 8 k.2.1, k.2.2)

/-- Whether an output format is MX. -/
def isMX (fmt : Nat) : Bool := 5 ≤ fmt && fmt ≤ 7

/-- All output bytes of a vector TOD; `rnd row i` is the rounding of element i of a row, `keyPois row` whether the row's key-table entry is
poisoned, which marks every output that the key rounds (R55). -/
def vecAll (opc : Nat) (t : VecTod) (free : Nat) (rnd : Nat → Nat → Rnd) (keyPois : Nat → Bool) (a b : List PByte) : VecOut :=
  (List.range t.m).foldl (fun acc row =>
    let r := if opc = 0x26 then [] else vecRowOut opc t a b row
    let top := if opc = 0x26 then topkRow t.d (vecRow t.ifmt t.l a row) else []
    let tp := opc = 0x26 && rowPois (vecRow t.ifmt t.l a row)
    let vals := if opc = 0x26 then top.map fun p => (p.1, tp) else r
    let vals := if t.rnd = 2 && t.ofmt ≠ 0 && keyPois row then vals.map fun p => (p.1, true) else vals
    let idx := top.flatMap fun p => (leBytes 4 p.2).map fun x => (x, tp)
    let c := if isMX t.ofmt then (mxRow t (free + row * (vals.length + 128)) (rnd row) vals, 0) else convRow t (rnd row) vals
    ⟨acc.o ++ c.1, acc.b ++ idx, acc.nans + c.2⟩) ⟨[], [], 0⟩

/-- Bytes of one output row. -/
def outRowBytes (fmt n : Nat) : Nat := if isMX fmt then ceilDiv n 128 * groupBytes fmt else n * elemBytes fmt

/-- Sizes in bytes of operands A, B and O of a vector TOD (0 for an operand that the operation does not use). -/
def vecSizes (opc : Nat) (t : VecTod) : Nat × Nat × Nat :=
  let a := t.m * t.l * elemBytes t.ifmt
  let o := t.m * outRowBytes t.ofmt (if opc = 0x26 then t.d else t.l)
  let b :=
    match opc with
    | 0x20 => if t.mask then t.m * (64 * ceilDiv t.l 512) else 0
    | 0x21 => t.l * elemBytes t.bfmt
    | 0x22 => if 3 ≤ t.fn then 0 else t.m * t.l * elemBytes t.bfmt
    | 0x23 => 4 * t.m
    | 0x26 => 4 * t.m * t.d
    | 0x27 => t.m * t.l * elemBytes t.bfmt
    | _ => 0
  (a, b, o)

/-- Whether operand B is a data input in a format that BFMT names. -/
def vecBData (opc : Nat) (t : VecTod) : Bool := opc = 0x21 || (opc = 0x22 && t.fn < 3) || opc = 0x27

/-- The largest FN that R92 lists for an opcode. -/
def vecMaxFn (opc : Nat) : Nat :=
  match opc with
  | 0x22 => 4
  | 0x23 => 1
  | 0x27 => 2
  | _ => 0

end Sys2Proof.Machine
end

