-- ==== Sys2Proof/Machine/Operands.lean ====
section
/-!
DEFINITION. Operand forms: operand words (R66), handle entries with their checks and views (R112 to R115), remote
windows (R125, R128), address words (R312) and the die-local address regions (R253).
-/

namespace Sys2Proof.Machine

/-! ### Operand words (R66) -/

/-- The fields of an operand word. -/
structure OpWord where
  strm : Bool
  handle : Nat
  port : Nat
  off : Nat
  deriving DecidableEq, Repr, Inhabited

/-- An operand word read under R66. -/
def opWord (v : Nat) : OpWord := ⟨bitN v 31, fld v 29 24, fld v 28 24, fld v 22 0⟩

/-! ### Handles (R112, R113, R115) -/

/-- The fields of HANDLE_Ah and HANDLE_Bh. -/
structure HandleF where
  valid : Bool
  guard : Bool
  consume : Bool
  span : Nat
  bank : Nat
  size : Nat
  base : Nat
  view : Nat
  esize : Nat
  rows : Nat
  pitch : Nat
  rowb : Nat
  deriving DecidableEq, Repr, Inhabited

/-- A handle entry's fields. -/
def handleF (p : RegPair) : HandleF where
  valid := rbit p.a 63
  guard := rbit p.a 62
  consume := rbit p.a 61
  span := rfld p.a 60 58
  bank := rfld p.a 57 54
  size := rfld p.a 46 32
  base := rfld p.a 25 16
  view := rfld p.b 63 62
  esize := rfld p.b 61 60
  rows := rfld p.b 47 32
  pitch := rfld p.b 31 16
  rowb := rfld p.b 15 0

/-- The element size of a TRANSPOSED view. -/
def HandleF.e (h : HandleF) : Nat := 2 ^ h.esize

/-- The logical size of the view (R115). -/
def HandleF.logical (h : HandleF) : Nat :=
  if h.view = 0 then h.size * 512 else if h.view = 1 then h.rows * (64 * h.rowb) else h.rows * h.pitch * h.e

/-- The requirements of R115 on the view. -/
def HandleF.viewOk (h : HandleF) : Bool :=
  if h.view = 0 then true
  else if h.view = 1 then
    1 ≤ h.rows && 1 ≤ h.rowb && h.rowb ≤ h.pitch && (h.rows - 1) * 64 * h.pitch + 64 * h.rowb ≤ h.size * 512
  else if h.view = 2 then
    h.esize ≤ 2 && 1 ≤ h.rows && 1 ≤ h.pitch && h.rows % 64 = 0 && h.pitch * h.e % 64 = 0 && h.logical ≤ h.size * 512
  else false

/-- The checks of R113 on a write of HANDLE_Ah with VALID = 1. -/
def HandleF.ok (h : HandleF) : Bool :=
  h.span ≤ 4 && h.bank % 2 ^ h.span = 0 && 1 ≤ h.size && h.size ≤ 16384 && h.size % 2 ^ h.span = 0 &&
    h.base + h.size / 2 ^ h.span ≤ 1024 && h.viewOk

/-- The buffer byte of logical byte `j` (R115). -/
def HandleF.bufByte (h : HandleF) (j : Nat) : Nat :=
  if h.view = 0 then j
  else if h.view = 1 then
    let u := 64 * h.rowb
    j / u * 64 * h.pitch + j % u
  else
    let el := j / h.e
    ((el % h.rows) * h.pitch + el / h.rows) * h.e + j % h.e

/-- The tile physical address of buffer byte `b` (R110, R112). -/
def HandleF.phys (h : HandleF) (b : Nat) : Nat :=
  let s := 2 ^ h.span
  let i := b / 512
  ((h.base + i / s) * 16 + (h.bank + i % s)) * 512 + b % 512

/-- The tile physical address of logical byte `j`. -/
def HandleF.addr (h : HandleF) (j : Nat) : Nat := h.phys (h.bufByte j)

/-- The tile lines of the whole buffer (R121). -/
def HandleF.lines (h : HandleF) : List Nat := (List.range h.size).map fun i => h.phys (512 * i) / 512

/-! ### Windows (R125, R128) -/

/-- WIN_A's checks on a write with VALID = 1 (R128). -/
def winOk (p : RegPair) : Bool := 1 ≤ rfld p.b 14 0 && rfld p.a 13 0 + rfld p.b 14 0 ≤ 16384

/-- Whether a source with chip number `c` matches SRC and SMASK. -/
def srcMatch (a : W64) (c : Nat) : Bool := ((c ^^^ rfld a 43 32) &&& rfld a 55 44) = 0

/-- Whether an open window of a tile admits an access of `len` bytes at tile physical address `addr` (R125, R126). -/
def winAdmits (p : RegPair) (c addr len : Nat) (write : Bool) : Bool :=
  rbit p.a 63 && srcMatch p.a c && (if write then rbit p.a 62 else rbit p.a 61) &&
    rfld p.a 13 0 * 512 ≤ addr && addr + len ≤ (rfld p.a 13 0 + rfld p.b 14 0) * 512

/-! ### Die-local addresses (R253) -/

/-- First offset of the scratchpads in a die's address space. -/
def spadBase : Nat := 0x030000000000

/-- First offset of the staging region. -/
def stageBase : Nat := 0x020000000000

/-- First offset of the SWS region. -/
def swsBase : Nat := 0x010000000000

/-- The module memory key of an offset of a die. -/
def dieKey (d off : Nat) : Nat := d * 2 ^ 48 + off

/-- The module memory key of a tile physical address of module tile `t`. -/
def tileKey (t a : Nat) : Nat := dieKey (t / 32) (spadBase + t % 32 * 0x800000 + a)

/-- The region of R253 that an offset lies in. -/
inductive Region where
  | hbm
  | sws
  | staging
  | spad (tile : Nat)
  | none
  deriving DecidableEq, Repr, Inhabited

/-- The die-cache slice and way that hold an offset of the staging reserve: slices interleave at 4 KiB, way 7 holds the lowest 4 MiB
(R255). -/
def stagePlace (off : Nat) : Nat × Nat := ((off - stageBase) / 4096 % 16, 7 - (off - stageBase) / 0x400000)

/-- The region of an offset; `ways` is the die's STAGE_WAYS (R255). -/
def regionOf (ways off : Nat) : Region :=
  if off < 0x1800000000 then .hbm
  else if swsBase ≤ off ∧ off < swsBase + 0x100000000 then .sws
  else if stageBase ≤ off ∧ off < stageBase + ways * 0x400000 then .staging
  else if spadBase ≤ off ∧ off < spadBase + 32 * 0x800000 then .spad ((off - spadBase) / 0x800000)
  else .none

end Sys2Proof.Machine
end

