-- ==== Sys2Proof/Machine/Ops.lean ====
section
/-!
DEFINITION. Shared operations on the state: parts of the machine, module and host memory with poison marks and fill bits,
event sources, the fault log, the reach of address words, signals, scrubs. Every write of a memory, a fill bit or a
poison mark and every fire of an event source goes through this file.
-/

namespace Sys2Proof.Machine

/-- What a step answers. -/
abbrev Ans := Host.Outcome State Fault Refusal

/-! ### Parts -/

/-- The tile with module tile number `t` changed by `f`. -/
def updTile (s : State) (t : Nat) (f : Tile → Tile) : State := { s with tiles := s.tiles.upd t f }

/-- The die changed by `f`. -/
def updDie (s : State) (d : Nat) (f : DieRegs → DieRegs) : State := { s with dies := s.dies.upd d f }

/-- The engine changed by `f`. -/
def updEngine (s : State) (e : Nat) (f : Engine → Engine) : State := { s with engines := s.engines.upd e f }

/-- A channel of an engine. -/
def chanOf (s : State) (e ch : Nat) : Channel := (s.engines.get e).chans.get ch

/-- The channel changed by `f`. -/
def updChan (s : State) (e ch : Nat) (f : Channel → Channel) : State :=
  updEngine s e fun g => { g with chans := g.chans.upd ch f }

/-- The arc changed by `f`. -/
def updArc (s : State) (k : Nat) (f : Arc → Arc) : State := { s with arcs := s.arcs.upd k f }

/-- The stream changed by `f`. -/
def updStream (s : State) (st : Nat) (f : StreamSt → StreamSt) : State :=
  { s with cp := { s.cp with streams := s.cp.streams.upd st f } }

/-- The model slot changed by `f`. -/
def updSlot (s : State) (k : Nat) (f : Slot → Slot) : State := { s with md := { s.md with slots := s.md.slots.upd k f } }

/-- The link changed by `f`. -/
def updLink (s : State) (n : Nat) (f : Link → Link) : State := { s with lk := { s.lk with links := s.lk.links.upd n f } }

/-- The member changed by `f`. -/
def updMember (s : State) (i : Nat) (f : Member → Member) : State :=
  { s with lk := { s.lk with members := s.lk.members.upd i f } }

/-- The local beacon (R407). -/
def now (s : State) : W64 := s.bcn.local_

/-- A message leaves the block. -/
def emit (s : State) (o : Out) : State := { s with out := s.out ++ [o] }

/-- `n` free bytes, and the state in which they have been taken. -/
def takeFree (s : State) (n : Nat) : Bytes × State :=
  ((List.range n).map fun i => Config.freeByte (s.free + i), { s with free := s.free + n })

/-- The local beacon counts one BCLK cycle while the module is powered (R407, R511). -/
def idle (s : State) : State := if s.pins.hotSwap then { s with bcn := { s.bcn with local_ := s.bcn.local_ + 1 } } else s

/-! ### Dies, tiles, chip numbers -/

/-- Whether a Quema die is in service. -/
def dieUp (s : State) (d : Nat) : Bool := (s.dies.get d).st = .inService

/-- Whether a die has left service for good or until it is back after a reset: retired, or quarantined (R22, R488). -/
def dieOut (s : State) (d : Nat) : Bool := (s.dies.get d).st = .retired || (s.dies.get d).quar

/-- The dies in service, ascending. -/
def upDies (s : State) : List Nat := (List.range 8).filter (dieUp s)

/-- The dies out of service that count toward R22. -/
def outDies (s : State) : List Nat := (List.range 8).filter (dieOut s)

/-- Whether a second die has left service (R22). -/
def stopped (s : State) : Bool := 2 ≤ (outDies s).length

/-- Whether a tile is in service: not retired and on a die in service. -/
def tileUp (s : State) (t : Nat) : Bool := dieUp s (t / 32) && !(s.tiles.get t).retired

/-- The tiles of a die in service, ascending, as module tile numbers. -/
def upTiles (s : State) (d : Nat) : List Nat := ((List.range 32).map (32 * d + ·)).filter (tileUp s)

/-- This module's part of a chip number: group and module fields (R30). -/
def chipBase (s : State) : Nat := s.pins.group.toNat * 128 + s.pins.casc.toNat * 8

/-- The chip number of a die of this module. -/
def chipOf (s : State) (d : Nat) : Nat := chipBase s + d

/-- This module's index in the cascade: group and module fields. -/
def selfModule (s : State) : Nat := s.pins.group.toNat * 16 + s.pins.casc.toNat

/-- Whether a die stack has lent tokens (R505): the release of its contexts is held until the loan is recalled (R506). -/
def lends (s : State) (d : Nat) : Bool := (s.pw.toks.get d).lent ≠ 0

/-- The entry die of the host-data path that serves a die (R20, R21). -/
def entryDie (s : State) (d : Nat) : Nat :=
  let p := if d = 7 ∨ d ≤ 2 then 0 else 4
  if dieUp s p then p else 4 - p

/-- The GLOBAL address word of a die's offset. -/
def globalWord (s : State) (d off : Nat) : W64 := BitVec.ofNat 64 (chipOf s d * 2 ^ 48 + off)

/-! ### Host access to BAR0 (R544, R548) -/

/-- Whether the function decodes its BARs: the module has power, PERST# does not hold the endpoint in reset (R570), and the function is
in D0 (R544). -/
def barOn (s : State) : Bool := s.pins.hotSwap && !s.pins.perst && !s.pins.d3

/-- Whether the blocks other than the global and the debug block answer: READY is 1. -/
def blockOn (s : State) : Bool := s.hq.ready && barOn s

/-- Whether the window of a die takes writes: the die is in service. -/
def dieBlockOn (s : State) (d : Nat) : Bool := blockOn s && dieUp s d

/-- Whether the block of an engine takes writes; that of the HDE lies in the global block. -/
def engineBlockOn (s : State) (e : Nat) : Bool := if e = 144 then barOn s else dieBlockOn s (e / 18)

/-- A register write in a block that does not answer is ignored. -/
def gate (on : Bool) (s : State) (a : Ans) : Ans := if on then a else .next s

/-! ### Messages to other modules (R444, R445, R455) -/

/-- The module's SERIAL (R361). -/
def ownSerial : Bytes := bytesAt Config.serial 0 16

/-- Message kinds of this model's messages over the tensor links: the spec gives them no codes. -/
def kindAck : Nat := 0
def kindToken : Nat := 1
def kindArrive : Nat := 2
def kindRelease : Nat := 3
def kindWrite : Nat := 4
def kindRead : Nat := 5
def kindTwinLog : Nat := 6
def kindTwinCkpt : Nat := 7
def kindTwinWritten : Nat := 8
def kindTwinAck : Nat := 9
def kindLaunch : Nat := 10
def kindBundle : Nat := 11
def kindMember : Nat := 12
def kindMemberReport : Nat := 13
def kindMemberCommit : Nat := 14
def kindTwinEnd : Nat := 15
def kindTwinPair : Nat := 16
def kindSplit : Nat := 17

/-- Whether a message of a kind goes in the control class (R445): all but DMA, weight broadcast, KV checkpoints and SPLIT
exchanges. -/
def controlKind (k : Nat) : Bool := !([4, 5, 7, 11, 17].contains k)

/-- The links of a port. -/
def portLinks (s : State) (p : Nat) : List Nat := (List.range 24).filter fun n => (s.lk.links.get n).port = some p

/-- The module that serves module `m`: the standby switched in for it, if there is one (R458). -/
def servedBy (s : State) (m : Nat) : Nat :=
  let e := s.lk.members.get m
  if e.alias_ then m / 16 * 16 + e.amod else m

/-- The logical port toward a module (R455): its member entry's route, while it is not lost. -/
def routeTo (s : State) (m : Nat) : Option Nat :=
  let e := s.lk.members.get (servedBy s m)
  if e.valid && !e.lost && (s.lk.ports.get e.port).isSome then some e.port else none

/-- One message goes out on a port: it takes the next port sequence number and is kept until the receiver acknowledges it;
which link of the port carries it the spec leaves open. -/
def launchMsg (s : State) (p : Nat) (q : Port) (m : Msg) : State :=
  let ls := portLinks s p
  let n := ls.getD (Config.freePick s.free ls.length) 0
  let m := { m with seq := q.sendSeq }
  let q' := { q with sendSeq := q.sendSeq + 1, unacked := q.unacked ++ [(n, m)] }
  emit { s with free := s.free + 1, lk := { s.lk with ports := s.lk.ports.set p (some q') } } (.link p m)

/-- Whether a port has a credit of a message class: 64 for each class, one for every message not yet acknowledged (R445). -/
def hasCredit (q : Port) (control : Bool) : Bool := decide ((q.unacked.countP fun u => u.2.control = control) < 64)

/-- A message for a port goes out, or waits behind others of its class for a credit (R444, R445). -/
def postMsg (s : State) (p : Nat) (m : Msg) : State :=
  match s.lk.ports.get p with
  | none => s
  | some q =>
    if hasCredit q m.control && q.held.all (fun x => x.control ≠ m.control) then launchMsg s p q m
    else { s with lk := { s.lk with ports := s.lk.ports.set p (some { q with held := q.held ++ [m] }) } }

/-- The waiting messages of a port that have a credit go out, control before data (R445). -/
def sendHeld (p : Nat) : Nat → State → State
  | 0, s => s
  | f + 1, s =>
    match s.lk.ports.get p with
    | none => s
    | some q =>
      match (q.held.filter (·.control) ++ q.held.filter fun m => !m.control).find? fun m => hasCredit q m.control with
      | none => s
      | some m => sendHeld p f (launchMsg s p { q with held := q.held.erase m } m)

/-- One message of this module for a port. -/
def sendMsg (s : State) (p : Nat) (dst : BitVec 12) (kind : Nat) (pay : Bytes) : State :=
  postMsg s p { seq := 0, control := controlKind kind, src := BitVec.ofNat 12 (chipBase s), dst := dst, kind := kind, payload := pay }

/-- A payload of any length on a port, 4,096 bytes to a message. -/
def sendOn (s : State) (p : Nat) (dst : BitVec 12) (kind : Nat) (pay : Bytes) : State :=
  if pay.isEmpty then sendMsg s p dst kind [] else (pieces 4096 pay).foldl (fun s b => sendMsg s p dst kind b) s

/-- A payload to a module, over the port of its route; nothing leaves while it is unreachable. -/
def sendTo (s : State) (m kind : Nat) (pay : Bytes) : State :=
  match routeTo s m with
  | some p => sendOn s p (BitVec.ofNat 12 (8 * m)) kind pay
  | none => s

/-- A payload to the twin partner, over the twin port. -/
def sendTwin (s : State) (kind : Nat) (pay : Bytes) : State :=
  match s.lk.ports.get 7 with
  | some q => sendOn s 7 (BitVec.ofNat 12 (8 * (16 * q.group + q.module))) kind pay
  | none => s

/-- Whether the module is one half of a twin in the SPLIT pattern (R456). -/
def split (s : State) : Bool := s.lk.joined && s.lk.pattern = 3

/-- The mode to which a slot is pinned, 0 for none: moored in the SPLIT pattern (R456). -/
def pinOf (s : State) (x : Slot) : Nat := if split s then 2 else x.pin

/-! ### Module memory -/

/-- Whether a block reads as poisoned: its stored mark, or an uncorrectable error (R124, R145, R258). -/
def markAt (s : State) (b : Nat) : Bool := s.mem.pois.get b || s.mem.ecc.get b = 2

/-- The bytes of module memory from a key on, with their marks. -/
def loadMod (s : State) (k n : Nat) : List PByte :=
  (List.range n).map fun i => (Mem.read s.mem.mod (k + i), markAt s ((k + i) / 64))

/-- Bytes from a list of keys. -/
def loadKeys (s : State) (ks : List Nat) : List PByte :=
  ks.map fun k => (Mem.read s.mem.mod k, markAt s (k / 64))

/-- The poison marks after a write of `data` at key `k`: a write of a whole 64-byte block stores the marks of its data, a
partial write keeps the block's mark and adds those of its data (R124, R258, R326). -/
def poisAfter (p : Tbl Bool) (k : Nat) (data : List PByte) : Tbl Bool :=
  if data.isEmpty then p
  else
    (List.range ((k + data.length - 1) / 64 - k / 64 + 1)).foldl (fun p i =>
      let b := k / 64 + i
      let lo := max k (64 * b)
      let hi := min (k + data.length) (64 * b + 64)
      let mark := ((data.drop (lo - k)).take (hi - lo)).any (·.2)
      Tbl.set p b (if hi - lo = 64 then mark else Tbl.get p b || mark)) p

/-- The physical faults after a write of `n` bytes at key `k`: a whole block stores new check bits (R124, R258). -/
def eccAfter (e : Tbl Nat) (k n : Nat) : Tbl Nat := e.clear (ceilDiv k 64) ((k + n) / 64)

/-- The tile and tile line of a key in a scratchpad. -/
def lineOfKey (k : Nat) : Option (Nat × Nat) :=
  let off := k % 2 ^ 48
  if spadBase ≤ off ∧ off < spadBase + 32 * 0x800000 then
    some (k / 2 ^ 48 * 32 + (off - spadBase) / 0x800000, (off - spadBase) % 0x800000 / 512)
  else none

/-- The fill bits after a write of `n` bytes at key `k` (R121). -/
def fillAfter (f : Tbl Bool) (k n : Nat) : Tbl Bool :=
  if n = 0 then f
  else
    (List.range ((k + n - 1) / 512 - k / 512 + 1)).foldl (fun f i =>
      match lineOfKey ((k / 512 + i) * 512) with
      | some (t, l) => Tbl.set f (16384 * t + l) true
      | none => f) f

/-- The die-cache lines of a die after a write of `n` bytes at offset `off` of its HBM3 or SWS (R138). -/
def linesAfter (lines : List Nat) (off n : Nat) : List Nat :=
  lines.filter fun l => !(off / 512 ≤ l && l ≤ (off + n - 1) / 512)

/-- A write of marked bytes at a key of module memory: bytes, marks, fill bits and die-cache lines. -/
def storeMod (s : State) (k : Nat) (data : List PByte) : State :=
  if data.isEmpty then s
  else
    let s1 := { s with mem := { s.mem with
      mod := Mem.writeN s.mem.mod k (plain data)
      pois := poisAfter s.mem.pois k data
      ecc := eccAfter s.mem.ecc k data.length
      fill := fillAfter s.mem.fill k data.length } }
    if k % 2 ^ 48 < stageBase then updDie s1 (k / 2 ^ 48) fun d => { d with lines := linesAfter d.lines (k % 2 ^ 48) data.length }
    else s1

/-- A write of clean bytes. -/
def storeClean (s : State) (k : Nat) (data : Bytes) : State := storeMod s k (data.map fun b => (b, false))

/-- A write of bytes at single tile physical addresses, in order: bytes and marks; fill bits are set at completion by `setFill`. -/
def storeTile (s : State) (t : Nat) (data : List (Nat × PByte)) : State :=
  data.foldl (fun s p => { s with mem := { s.mem with
    mod := Mem.write s.mem.mod (tileKey t p.1) p.2.1
    pois := s.mem.pois.set (tileKey t p.1 / 64) (s.mem.pois.get (tileKey t p.1 / 64) || p.2.2) } }) s

/-- The 64-byte blocks that single-byte writes cover whole lose their old mark (R124). -/
def clearWhole (s : State) (t : Nat) (addrs : List Nat) : State :=
  let blocks := (addrs.map (· / 64)).eraseDups
  blocks.foldl (fun s b =>
    if (List.range 64).all fun i => addrs.contains (64 * b + i)
    then { s with mem := { s.mem with pois := s.mem.pois.set (tileKey t (64 * b) / 64) false } } else s) s

/-- Whether the fill bit of a tile line is set. -/
def filled (s : State) (t l : Nat) : Bool := s.mem.fill.get (16384 * t + l)

/-- Fill bits set for the listed lines. -/
def setFill (s : State) (t : Nat) (lines : List Nat) : State :=
  { s with mem := { s.mem with fill := lines.foldl (fun f l => Tbl.set f (16384 * t + l) true) s.mem.fill } }

/-- Fill bits cleared for the listed lines. -/
def clearFill (s : State) (t : Nat) (lines : List Nat) : State :=
  { s with mem := { s.mem with fill := lines.foldl (fun f l => Tbl.set f (16384 * t + l) false) s.mem.fill } }

/-! ### Host memory (R336) -/

/-- Bytes of host memory. -/
def hostRead (s : State) (a n : Nat) : Bytes := Mem.readN s.mem.host a n

/-- Bytes written to host memory. -/
def hostWrite (s : State) (a : Nat) (bs : Bytes) : State := { s with mem := { s.mem with host := Mem.writeN s.mem.host a bs } }

/-- Whether one valid host region that admits the access holds every byte of the extent (R336). -/
def hostMapped (s : State) (a n : Nat) (write : Bool) : Bool :=
  (List.range 64).any fun r =>
    let p := s.hq.regions.get r
    rbit p.a 0 && (if write then rbit p.a 2 else rbit p.a 1) && rfld p.a 63 12 * 4096 ≤ a &&
      a + n ≤ rfld p.a 63 12 * 4096 + rfld p.b 31 0 * 4096

/-! ### Event sources (R413 to R415) -/

/-- A source number that the router serves: none of the reserved ones. -/
def srcExists (n : Nat) : Bool := n < 661 || (664 ≤ n && n < 768) || (960 ≤ n && n < 1024)

/-- A source after `k` fires in one cycle: FIRE_CNT counts each, PEND is set, and fires that find it set are merged. -/
def fired (r : Src) (k : Nat) : Src :=
  if k = 0 then r
  else { r with fire := r.fire + BitVec.ofNat 16 k, merged := r.merged + (if r.pend then k else k - 1), pend := true }

/-- `k` fires of source `n`. -/
def fireN (s : State) (n k : Nat) : State :=
  if srcExists n then { s with evr := { s.evr with srcs := s.evr.srcs.upd n fun r => fired r k } } else s

/-- Source `n` fires. -/
def fire (s : State) (n : Nat) : State := fireN s n 1

/-- The event source of an engine (R329). -/
def engineSrc (e : Nat) : Nat :=
  if e = 144 then 656 else if e % 18 = 16 then 640 + 2 * (e / 18) else if e % 18 = 17 then 641 + 2 * (e / 18) else 512 + 16 * (e / 18) + e % 18

/-! ### Status codes (R364, R365) -/

/-- The code of a status. -/
def Status.code : Status → Nat
  | .ok => 0x0000
  | .badOpcode => 0x1001
  | .lenRange => 0x1002
  | .addrRange => 0x1003
  | .align => 0x1004
  | .notReady => 0x2001
  | .modeAborted => 0x2002
  | .genRetired => 0x2003
  | .deadlock => 0x2004
  | .busy => 0x2005
  | .poisoned => 0x3001
  | .codecOverrun => 0x3002
  | .codecUnderrun => 0x3003
  | .sigFail => 0x3004
  | .digestMismatch => 0x3005
  | .engineFault => 0x4001
  | .semUnderflow => 0x4002
  | .semOverflow => 0x4003
  | .slotEmpty => 0x4004
  | .conservation => 0x4005
  | .timeout => 0x4006
  | .eoiOrder => 0x4007
  | .linkDown => 0x5001
  | .dieRetired => 0x5002
  | .twinLost => 0x5003
  | .portMiswired => 0x5004
  | .versionMismatch => 0x5005

/-- The status that a code names; an unknown one is read as OK. -/
def statusOf (c : Nat) : Status :=
  ([Status.badOpcode, .lenRange, .addrRange, .align, .notReady, .modeAborted, .genRetired, .deadlock, .busy, .poisoned, .codecOverrun, .codecUnderrun,
    .sigFail, .digestMismatch, .engineFault, .semUnderflow, .semOverflow, .slotEmpty, .conservation, .timeout, .eoiOrder, .linkDown, .dieRetired,
    .twinLost, .portMiswired, .versionMismatch].find? fun x => x.code = c).getD .ok

/-- The class of a status: its upper byte divided by 16. -/
def Status.cls (x : Status) : Nat := x.code / 0x1000

/-- The status selected among conditions in the order they arose (R365). -/
def rankStatus (l : List Status) : Status :=
  let first := fun (c : Nat) => l.find? fun x => x.cls = c
  match first 5, first 4, first 1 with
  | some x, _, _ => x
  | none, some x, _ => x
  | none, none, some x => x
  | none, none, none =>
    match [Status.sigFail, .digestMismatch, .codecOverrun, .codecUnderrun, .poisoned].find? l.contains with
    | some x => x
    | none => (first 2).getD .ok

/-- The first check of an ordered table that fails. -/
def firstFail {α : Type} (l : List (Bool × α)) : Option α := (l.find? (·.1)).map (·.2)

/-! ### Commit words (R494) -/

/-- The 8-byte commit word of a record body. -/
def commitWord (kind seq : Nat) (body : Bytes) : W64 :=
  BitVec.ofNat 64 ((crc32c body).toNat * 2 ^ 32 + kind * 2 ^ 24 + seq % 2 ^ 24)

/-- Whether a commit word commits a body of a kind (R494). -/
def committed (w : W64) (kind : Nat) (body : Bytes) : Bool :=
  w ≠ 0 && w ≠ BitVec.allOnes 64 && rfld w 31 24 = kind && rfld w 63 32 = (crc32c body).toNat

/-! ### The fault log (R493) -/

/-- The fields of a fault log record that its event gives. -/
structure FRec where
  status : Status := .ok
  kind : Nat
  action : Nat := 0
  channel : W64 := 0
  level : Nat := 0
  cause : Nat := 0
  /-- TAG and stream of the affected command -/
  cmd : Option (Nat × Nat) := none
  addr : W64 := 0
  capseq : Nat := 0xFFFFFFFF
  qty : Nat := 0
  expect : W64 := 0
  found : W64 := 0
  deriving DecidableEq, Repr

/-- The 64 bytes of a record. -/
def flogBytes (s : State) (r : FRec) : Bytes :=
  leBytes 4 s.flt.logSeq.toNat ++ leBytes 2 r.status.code ++ leBytes 1 r.kind ++ leBytes 1 r.action ++ leBytes 8 r.channel.toNat ++
    leBytes 8 (now s).toNat ++ leBytes 4 s.boot.bootEpoch.toNat ++ leBytes 2 (min r.level 0xFFFF) ++ leBytes 1 r.cause ++
    leBytes 1 (match r.cmd with | some (_, st) => 16 + st | none => 0) ++ leBytes 8 r.addr.toNat ++ leBytes 4 r.capseq ++
    leBytes 2 (match r.cmd with | some (tag, _) => tag | none => 0) ++ leBytes 1 r.qty ++ [0] ++ leBytes 8 r.expect.toNat ++ leBytes 8 r.found.toNat

/-- Whether one more record would pass the ring's size (R394). -/
def ringOver (tail head : BitVec 16) (size : Nat) : Bool := size < (tail + 1 - head).toNat

/-- One record is written to the ring, and to flash for the persistent kinds unless PWR_ALERT# is asserted (R495). -/
def flog (s : State) (r : FRec) : State :=
  let b := flogBytes s r
  let f := s.flt
  fire { s with flt := { f with
    ring := f.ring.set (f.logSeq.toNat % 1024) b
    ovf := f.ovf || ringOver (f.logSeq.setWidth 16) f.logHead 1024
    logSeq := f.logSeq + 1
    flash := if (r.kind = 2 || r.kind = 3 || r.kind = 5) && !s.pins.alert then (b :: f.flash).take 4096 else f.flash } } 704

/-! ### Channel identifiers (R471) -/

/-- A channel identifier: kind in bits [63:56] and the fields below it. -/
def chanId (kind fields : Nat) : W64 := BitVec.ofNat 64 (kind * 2 ^ 56 + fields)

/-! ### Address words of commands (R342) -/

/-- SPACE of an address word (R312). -/
def spaceOf (w : W64) : Nat := rfld w 63 60

/-- The chip number of a GLOBAL word. -/
def chipF (w : W64) : Nat := rfld w 59 48

/-- The offset of a GLOBAL word. -/
def offF (w : W64) : Nat := rfld w 47 0

/-- The host bus address of a HOST word. -/
def hostF (w : W64) : Nat := rfld w 59 0

/-- Whether a GLOBAL word names a die of this module. -/
def isLocal (s : State) (w : W64) : Bool := chipF w / 8 * 8 = chipBase s

/-- The module memory key of a GLOBAL word of this module. -/
def keyOf (w : W64) : Nat := dieKey (chipF w % 8) (offF w)

/-- Whether a frame of a retired pseudo-channel lies in an HBM3 extent (R260). -/
def pcGone (s : State) (d off n : Nat) : Bool :=
  (s.dies.get d).hbm.any (fun c => c.2.pcRetired ≠ 0) &&
    (List.range ((off + n - 1) / 4096 - off / 4096 + 1)).any fun i =>
      let a := (off / 4096 + i) * 4096
      ((s.dies.get d).hbm.get (fld a 13 12)).pcRetired.getLsbD (fld a 18 14)

/-- Whether an HBM3 extent lies below the HBM reserve and in pseudo-channels in service (R252, R260). -/
def hbmExtent (s : State) (d off n : Nat) : Bool := off + n ≤ 0x17C0000000 && !pcGone s d off n

/-- Whether an SWS extent lies in the region. -/
def swsExtent (off n : Nat) : Bool := swsBase ≤ off && off + n ≤ swsBase + 0x100000000

/-- Whether an extent lies in a die's staging reserve (R255). -/
def stageExtent (s : State) (d off n : Nat) : Bool :=
  stageBase ≤ off && off + n ≤ stageBase + (s.dies.get d).stageWays * 0x400000

/-- The tile and tile physical address of an extent that lies in one tile's scratchpad (R253). -/
def spadExtent (off n : Nat) : Option (Nat × Nat) :=
  if spadBase ≤ off ∧ off < spadBase + 32 * 0x800000 ∧ (off - spadBase) % 0x800000 + n ≤ 0x800000
  then some ((off - spadBase) / 0x800000, (off - spadBase) % 0x800000) else none

/-- Whether a tile's windows admits an access (R126). -/
def tileAdmits (s : State) (t c addr len : Nat) (write : Bool) : Bool :=
  (List.range 8).any fun w => winAdmits ((s.tiles.get t).wins.get w) c addr len write

/-- Whether a die's HBM windows admits an access, in 64 KiB units (R257). -/
def hbmAdmits (s : State) (d c off len : Nat) (write : Bool) : Bool :=
  (List.range 16).any fun w =>
    let p := (s.dies.get d).hbmWins.get w
    rbit p.a 63 && srcMatch p.a c && (if write then rbit p.a 62 else rbit p.a 61) &&
      rfld p.a 20 0 * 65536 ≤ off && off + len ≤ (rfld p.a 20 0 + rfld p.b 20 0) * 65536

/-- Whether the command processor's front end reaches an extent of a die (R256): HBM3, SWS, and scratchpads through a
tile window under the chip number of the entry die (R125). -/
def frontReach (s : State) (d off n : Nat) (write : Bool) : Bool :=
  hbmExtent s d off n || swsExtent off n ||
    match spadExtent off n with
    | some (t, a) => tileAdmits s (32 * d + t) (chipOf s (entryDie s d)) a n write
    | none => false

/-- The reach check of R342 on an extent of `n` bytes. -/
def reach (s : State) (w : W64) (n : Nat) (write : Bool) : Option Status :=
  if spaceOf w = 4 then (if hostF w + n ≤ 2 ^ 64 ∧ hostMapped s (hostF w) n write then none else some .addrRange)
  else if spaceOf w = 0 then
    if !isLocal s w then some .addrRange
    else if (s.dies.get (chipF w % 8)).st = .reset3 then some .notReady
    else if !dieUp s (chipF w % 8) then some .dieRetired
    else if frontReach s (chipF w % 8) (offF w) n write then none else some .addrRange
  else some .addrRange

/-- The bytes at an address word that `reach` admits. -/
def readWord (s : State) (w : W64) (n : Nat) : List PByte :=
  if spaceOf w = 4 then (hostRead s (hostF w) n).map fun b => (b, false) else loadMod s (keyOf w) n

/-- Bytes written at an address word that `reach` admits. -/
def writeWord (s : State) (w : W64) (bs : Bytes) : State :=
  if spaceOf w = 4 then hostWrite s (hostF w) bs else storeClean s (keyOf w) bs

/-! ### Signals and scrubs -/

/-- A signal travels to the sync unit of tile `t` (R98). -/
def sendSig (s : State) (t : Nat) (g : SemSig) : State := updTile s t fun x => { x with inbox := x.inbox ++ [g] }

/-- The sum of a tile's semaphore values. -/
def semTotal (x : Tile) : Nat := (x.sems.map fun p => p.2.toNat).foldl (· + ·) 0

/-- A tile whose semaphores have been set to 0 (R395, R486). -/
def zeroSems (x : Tile) : Tile := { x with decSum := x.decSum + BitVec.ofNat 32 (semTotal x), sems := [] }

/-- The registers of a tile after a scrub (R129), which also clears every context's rounding key (R100), and discards the outputs that
its TODs hold in accumulator memory. -/
def scrubRegs (x : Tile) : Tile :=
  { zeroSems x with
    handles := [], heldHandles := [], wins := [], gather := [], ret0 := none, ret1 := none
    window := x.window.map fun w => { w with outs := [], fills := [] }
    ctxs := x.ctxs.mapAll fun _ c => { c with key := none } }

/-- The memory after the scrub of a tile: lines zero with new check bits, no poison, no fill bit. -/
def scrubMem (m : Memories) (t : Nat) : Memories :=
  { m with
    mod := Tbl.clear m.mod (tileKey t 0) (tileKey t 0x800000)
    pois := m.pois.clear (tileKey t 0 / 64) (tileKey t 0x800000 / 64)
    ecc := m.ecc.clear (tileKey t 0 / 64) (tileKey t 0x800000 / 64)
    fill := m.fill.clear (16384 * t) (16384 * (t + 1)) }

/-- A scrub of tile `t` begins (R129): its effects, with SCRUB_BUSY set until SCRUB_DONE. -/
def scrubTile (s : State) (t : Nat) : State :=
  updTile { s with mem := scrubMem s.mem t } t fun x => { scrubRegs x with scrubBusy := true }

/-- What a kill does to a tile while kill scrubbing is disabled (R131). -/
def clearTile (s : State) (t : Nat) : State :=
  updTile { s with mem := { s.mem with fill := s.mem.fill.clear (16384 * t) (16384 * (t + 1)) } } t
    fun x => { x with handles := [], heldHandles := [], wins := [] }

/-- Scrub or clear, by KSCRUB (R130, R131). -/
def killTile (s : State) (t : Nat) : State := if s.hq.kscrub then scrubTile s t else clearTile s t

end Sys2Proof.Machine
end

