-- ==== Sys2Proof/Machine/Kv.lean ====
section
/-!
DEFINITION. KV pages, page tables, tree slots and pools (R251, R261 to R265): how Rosha allocates, addresses, copies and
frees them on each die.
-/

namespace Sys2Proof.Machine

/-- Element bytes of a model's KV entries. -/
def kvE (m : ModelInfo) : Nat := if m.kvFmt = 1 then 2 else 1

/-- The page size P (R261). -/
def pageBytes (m : ModelInfo) : Nat := 32 * m.headDim * kvE m

/-- Whole frames of one page (R251). -/
def pageFrames (m : ModelInfo) : Nat := max 1 (pageBytes m / 4096)

/-- Bytes of the keys of one position. -/
def rowKv (m : ModelInfo) : Nat := m.headDim * kvE m

/-- The position of die `d` on the line whose retired die is `r` (R178). -/
def linePos (r d : Nat) : Nat := (d + 15 - r) % 8

/-- Where part `i` of `n` parts of the columns from `lo` to `hi` begins. -/
def cutAt (n lo hi i : Nat) : Nat := lo + (hi - lo) * i / n

/-- Of `w` columns, those that a module keeps: all, or in the SPLIT pattern its half, side A the first (R456). -/
def keepOf (side : Option Bool) (w : Nat) : Nat × Nat :=
  match side with
  | none => (0, w)
  | some b => (cutAt 2 0 w (b2n b), cutAt 2 0 w (b2n b + 1))

/-- The home shards of a cut, and which of them die `d` owns. -/
def shardOf (cut : Option Nat) (d : Nat) : Nat × Nat :=
  match cut with
  | none => (8, d)
  | some r => (7, linePos r d)

/-- Whether columns of the projection of query head `q` lie in the home shard of die `d`. -/
def headInShard (cut : Option Nat) (m : ModelInfo) (d q : Nat) : Bool :=
  let c := shardOf cut d
  let w := keepOf m.side (m.qHeads * m.headDim)
  decide (max (q * m.headDim) (cutAt c.1 w.1 w.2 c.2) < min ((q + 1) * m.headDim) (cutAt c.1 w.1 w.2 (c.2 + 1)))

/-- The query heads that die `d` computes in moored mode (R191): a head that the cut divides lies on two dies (R201). -/
def queryHeadsOn (s : State) (m : ModelInfo) (d : Nat) : List Nat :=
  if dieUp s d then (List.range m.qHeads).filter (headInShard s.md.epoch.line m d) else []

/-- The heads of the line of seven whose columns two dies share (R201). -/
def dividedHeads (s : State) (m : ModelInfo) : List Nat :=
  if s.md.epoch.line.isNone then [] else (List.range m.qHeads).filter fun q => 1 < (upDies s).countP fun d => headInShard s.md.epoch.line m d q

/-- The divided heads of which die `d` holds a part, in ascending order. -/
def dividedOn (s : State) (m : ModelInfo) (d : Nat) : List Nat := (dividedHeads s m).filter (headInShard s.md.epoch.line m d)

/-- The KV heads that die `d` holds of a sequence: all on the home die in sweep mode; in moored mode those that the die's
query heads use (R191, R263). -/
def kvHeadsOn (s : State) (m : ModelInfo) (mode home d : Nat) : List Nat :=
  if mode = 1 then (if d = home then List.range m.kvHeads else [])
  else ((queryHeadsOn s m d).map fun q => q * m.kvHeads / m.qHeads).eraseDups

/-- Layers with KV pages: the model's, and the draft head's own as the last (R226). -/
def kvLayers (m : ModelInfo) : Nat := m.layers + 1

/-- The most positions of a sequence on a die that holds `h` of its KV heads (R263). -/
def posLimit (m : ModelInfo) (h : Nat) : Nat := if h = 0 then m.ctxMax else min m.ctxMax (16 * (8388608 / (m.layers * h)))

/-- The PTE index of layer `l`, local head `h` and page `g` (R263). -/
def pteIndex (m : ModelInfo) (hd l h g : Nat) : Nat := g * (m.layers * hd) + l * hd + h

/-- A pool's key: slot and die. -/
def poolKey (slot d : Nat) : Nat := 8 * slot + d

/-- `k` consecutive aligned frames of a free list, and what remains. -/
def takeRun (free : List Nat) (k : Nat) : Option (Nat × List Nat) :=
  match free.find? fun a => a % (4096 * k) = 0 && (List.range k).all fun i => free.contains (a + 4096 * i) with
  | none => none
  | some a => some (a, free.filter fun f => !(a ≤ f && f < a + 4096 * k))

/-- `n` runs of `k` frames. -/
def takeRuns (k : Nat) : Nat → List Nat → Option (List Nat × List Nat)
  | 0, free => some ([], free)
  | n + 1, free =>
    match takeRun free k with
    | none => none
    | some (a, r) => (takeRuns k n r).map fun p => (a :: p.1, p.2)

/-- The frames of runs. -/
def framesOf (k : Nat) (runs : List Nat) : List Nat := runs.flatMap fun a => (List.range k).map (a + 4096 * ·)

/-- The free list of a pool. -/
def poolOf (s : State) (slot d : Nat) : List Nat := s.md.pools.get (poolKey slot d)

/-- The free list of a pool replaced. -/
def setPool (s : State) (slot d : Nat) (l : List Nat) : State := { s with md := { s.md with pools := s.md.pools.set (poolKey slot d) l } }

/-- Frames return to a pool. -/
def freeFrames (s : State) (slot d : Nat) (l : List Nat) : State := setPool s slot d (poolOf s slot d ++ l)

/-- Frames that join their pool at the next pass boundary (R265). -/
def freeLater (s : State) (slot d : Nat) (l : List Nat) : State :=
  { s with md := { s.md with freed := s.md.freed ++ [(poolKey slot d, l)] } }

/-- The address of the PTE of index `i`. -/
def pteAddr (q : SeqDie) (i : Nat) : Nat := q.frames.getD (i / 1024) 0 + 4 * (i % 1024)

/-- The PTE of index `i`. -/
def readPte (s : State) (d : Nat) (q : SeqDie) (i : Nat) : Nat := leNat (plain (loadMod s (dieKey d (pteAddr q i)) 4))

/-- A PTE written. -/
def writePte (s : State) (d : Nat) (q : SeqDie) (i v : Nat) : State := storeClean s (dieKey d (pteAddr q i)) (leBytes 4 v)

/-- The PTE that names a page of HBM3. -/
def pteOf (a : Nat) : Nat := 2 ^ 31 + a / 2048

/-- The HBM3 address of a page named by a PTE. -/
def pteAddrOf (v : Nat) : Nat := fld v 26 0 * 2048

/-- Table frames for `g` page groups. -/
def tableFrames (m : ModelInfo) (hd g : Nat) : Nat := ceilDiv (g * m.layers * hd) 1024

/-- Directory frames of a sequence of the model's maximum context. -/
def dirFramesOf (m : ModelInfo) (hd : Nat) : Nat := max 1 (ceilDiv (8 * tableFrames m hd (ceilDiv (posLimit m hd) 16)) 4096)

/-- Frames that the pages and tree slots of a sequence of `n` positions take on a die with `hd` of its KV heads (R266). -/
def seqFrames (m : ModelInfo) (hd n : Nat) : Nat := (ceilDiv n 16 + 4) * kvLayers m * hd * pageFrames m

/-- A fresh page is placed: the PTE of index `i` names it. -/
def mapPages (s : State) (d : Nat) (q : SeqDie) (i0 : Nat) (pages : List Nat) : State :=
  (pages.zipIdx i0).foldl (fun s p => writePte s d q p.2 (pteOf p.1)) s

/-- The directory entries of the table frames written. -/
def writeDir (s : State) (d : Nat) (q : SeqDie) : State :=
  (q.frames.zipIdx).foldl (fun s p => storeClean s (dieKey d (q.dir + 8 * p.2)) (leBytes 8 p.1)) s

/-- Allocation of `g` page groups, the tree slots and the page table of a sequence on die `d` (R263, R267 step 3). -/
def allocSeqDie (s : State) (m : ModelInfo) (slot d : Nat) (heads : List Nat) (g : Nat) : Option (SeqDie × State) :=
  let hd := heads.length
  if hd = 0 then some (default, s)
  else
    match takeRun (poolOf s slot d) (dirFramesOf m hd) with
    | none => none
    | some (dir, r1) =>
      match takeRuns 1 (tableFrames m hd g) r1 with
      | none => none
      | some (tabs, r2) =>
        match takeRuns (pageFrames m) (4 * kvLayers m * hd) r2 with
        | none => none
        | some (tree, r3) =>
          match takeRuns (pageFrames m) (g * kvLayers m * hd) r3 with
          | none => none
          | some (pages, r4) =>
            let n := g * m.layers * hd
            let q : SeqDie := { dir := dir, frames := tabs, dirFrames := dirFramesOf m hd, heads := heads, groups := g, tree := tree, draft := pages.drop n }
            some (q, mapPages (writeDir (setPool s slot d r4) d q) d q 0 (pages.take n))

/-- The HBM3 addresses of every allocated page of a sequence on a die, in PTE order and then the draft head's; a parked page has none. -/
def pagesOf (s : State) (m : ModelInfo) (d : Nat) (q : SeqDie) : List Nat :=
  ((List.range (q.groups * m.layers * q.heads.length)).filterMap fun i =>
    let v := readPte s d q i
    if bitN v 31 && !bitN v 30 then some (pteAddrOf v) else none) ++ q.draft

/-- The HBM3 address of the page of layer `l`, local head `h` and page `g`, if there is one: by its PTE, or in the draft head's list. -/
def pageAt (s : State) (m : ModelInfo) (d : Nat) (q : SeqDie) (l h g : Nat) : Option Nat :=
  let hd := q.heads.length
  if q.groups ≤ g then none
  else if l < m.layers then
    let v := readPte s d q (pteIndex m hd l h g)
    if bitN v 31 && !bitN v 30 then some (pteAddrOf v) else none
  else q.draft[g * hd + h]?

/-- Every frame of a sequence on a die. -/
def seqDieFrames (s : State) (m : ModelInfo) (d : Nat) (q : SeqDie) : List Nat :=
  framesOf (pageFrames m) (pagesOf s m d q) ++ framesOf (pageFrames m) q.tree ++ q.frames ++ framesOf q.dirFrames [q.dir]

/-- The generation record of a slot. -/
def genOf (s : State) (slot : Nat) (g : BitVec 16) : Option Gen := (s.md.slots.get slot).gens.find? fun x => x.num = g

/-- The model of a generation. -/
def infoOf (s : State) (slot : Nat) (g : BitVec 16) : ModelInfo := ((genOf s slot g).map (·.info)).getD default

/-- The live sequence of a record (R221, R266). -/
def seqOf (s : State) (ra : W64) : Option Seq := s.md.seqs.find? fun q => q.ra = ra

/-- A sequence changed by `f`. -/
def updSeq (s : State) (ra : W64) (f : Seq → Seq) : State :=
  { s with md := { s.md with seqs := s.md.seqs.map fun q => if q.ra = ra then f q else q } }

/-- A generation of a slot changed by `f`. -/
def updGen (s : State) (slot : Nat) (g : BitVec 16) (f : Gen → Gen) : State :=
  updSlot s slot fun x => { x with gens := x.gens.map fun y => if y.num = g then f y else y }

/-- A reference to a generation is dropped; one whose count is zero then is freed (R215). -/
def dropOneRef (s : State) (slot : Nat) (g : BitVec 16) : State :=
  let s := updGen s slot g fun x => { x with refs := x.refs - 1 }
  updSlot s slot fun x =>
    { x with
      gens := x.gens.filter fun y => !(y.num = g && y.refs = 0)
      draining := if x.draining = some g && (x.gens.any fun y => y.num = g && y.refs = 0) then none else x.draining }

/-- A reference to a generation is dropped; a delta generation that it frees drops its own on its base (R281). -/
def dropRef (s : State) (slot : Nat) (g : BitVec 16) : State :=
  let t := dropOneRef s slot g
  match (genOf s slot g).bind (·.base) with
  | some b => if (genOf t slot g).isNone then dropOneRef t b.1 b.2 else t
  | none => t

/-- A reference is added. -/
def addRef (s : State) (slot : Nat) (g : BitVec 16) : State := updGen s slot g fun x => { x with refs := x.refs + 1 }

/-- A sequence ends: its pages, tree slots and page tables return to their pools, its host-tier place is released, its
generation reference is dropped (R268). -/
def dropSeq (s : State) (q : Seq) : State :=
  let m := infoOf s q.slot q.gen
  let s := q.dies.foldl (fun s p => freeFrames s q.slot p.1 (if p.2.heads.isEmpty then [] else seqDieFrames s m p.1 p.2)) s
  let s := { s with
    md := { s.md with seqs := s.md.seqs.filter fun x => x.ra ≠ q.ra }
    lk := { s.lk with mirrored := s.lk.mirrored.filter (· ≠ q.ra), ckDone := s.lk.ckDone.filter fun p => p.1 ≠ q.ra } }
  dropRef s q.slot q.gen

/-- Byte offset of the keys, and of the values, of the position with index `i` within a page (R261). -/
def keyOffset (m : ModelInfo) (i : Nat) : Nat := i * (rowKv m)
def valOffset (m : ModelInfo) (i : Nat) : Nat := 16 * (rowKv m) + i * (rowKv m)

/-- The entry of one position copied between pages of a die. -/
def copyEntry (s : State) (m : ModelInfo) (d src i dst k : Nat) : State :=
  let s := storeMod s (dieKey d (dst + keyOffset m k)) (loadMod s (dieKey d (src + keyOffset m i)) (rowKv m))
  storeMod s (dieKey d (dst + valOffset m k)) (loadMod s (dieKey d (src + valOffset m i)) (rowKv m))

/-- One position's entry written by a pass whose arithmetic the model's own kernels define: free bytes. -/
def freeEntry (s : State) (m : ModelInfo) (d page i : Nat) (pois : Bool) : State :=
  let f := takeFree s (2 * (rowKv m))
  let k := (f.1.take (rowKv m)).map fun b => (b, pois)
  let v := (f.1.drop (rowKv m)).map fun b => (b, pois)
  storeMod (storeMod f.2 (dieKey d (page + keyOffset m i)) k) (dieKey d (page + valOffset m i)) v

/-- A whole page copied, marks included. -/
def copyPage (s : State) (m : ModelInfo) (d src d' dst : Nat) : State :=
  storeMod s (dieKey d' dst) (loadMod s (dieKey d src) (pageBytes m))

/-- Fresh pages for groups g0 to g1 of a sequence on a die (R238 steps 1 to 3): each holds the committed entries below C of
the page it replaces and the tree-slot entries of `path` at positions from C on, the draft head's among them; the PTEs name the fresh
pages and the replaced ones are freed at the next pass boundary. -/
def commitDie (s : State) (m : ModelInfo) (slot d c : Nat) (path : List Nat) (q : SeqDie) : Option (SeqDie × State) :=
  let hd := q.heads.length
  if hd = 0 then some (q, s)
  else
    let last := c + path.length - 1
    let g0 := c / 16
    let g1 := last / 16
    let nl := kvLayers m
    let need := (g1 + 1 - g0) * nl * hd
    let moreTabs := tableFrames m hd (max q.groups (g1 + 1)) - q.frames.length
    match takeRuns 1 moreTabs (poolOf s slot d) with
    | none => none
    | some (tabs, r1) =>
      match takeRuns (pageFrames m) need r1 with
      | none => none
      | some (fresh, r2) =>
        let q' := { q with frames := q.frames ++ tabs, groups := max q.groups (g1 + 1) }
        let s := writeDir (setPool s slot d r2) d q'
        let draft := (List.range (hd * q'.groups)).map fun i =>
          if i / hd < g0 ∨ g1 < i / hd then q.draft.getD i 0 else fresh.getD ((i / hd - g0) * nl * hd + m.layers * hd + i % hd) 0
        let s := (List.range need).foldl (fun s n =>
          let g := g0 + n / (nl * hd)
          let l := n / hd % nl
          let h := n % hd
          let page := fresh.getD n 0
          let old := pageAt s m d q l h g
          let s := (List.range 16).foldl (fun s k =>
            let pos := 16 * g + k
            if pos < c then (match old with | some a => copyEntry s m d a k page k | none => s)
            else if pos ≤ last then
              let node := path.getD (pos - c) 0
              copyEntry s m d (q.tree.getD ((l * hd + h) * 4 + node / 16) 0) (node % 16) page k
            else s) s
          let s := if l < m.layers then writePte s d q' (pteIndex m hd l h g) (pteOf page) else s
          match old with
          | some a => freeLater s slot d (framesOf (pageFrames m) [a])
          | none => s) s
        some ({ q' with draft := draft }, s)

end Sys2Proof.Machine
end

