-- ==== Sys2Proof/Machine/Completion.lean ====
section
/-!
DEFINITION. Running commands and how they end: completions and digest records (R345 to R348, R438), the capture of a
faulted or killed command (R389, R390, R392), the release of what it held, and the frames of CALL (R371, R374).
-/

namespace Sys2Proof.Machine

/-! ### The running commands -/

/-- The running command `j`. -/
def getJob (s : State) (j : JobRef) : Option Job := (s.cp.jobs.find? fun p => p.1 = j).map (·.2)

/-- The list with `j` running as `b`. -/
def putJobL : List (JobRef × Job) → JobRef → Job → List (JobRef × Job)
  | [], j, b => [(j, b)]
  | p :: r, j, b => if p.1 = j then (j, b) :: r else p :: putJobL r j b

/-- `j` runs as `b`. -/
def putJob (s : State) (j : JobRef) (b : Job) : State := { s with cp := { s.cp with jobs := putJobL s.cp.jobs j b } }

/-- `j` no longer runs, and no completion of it waits for the twin partner. -/
def delJob (s : State) (j : JobRef) : State :=
  { s with
    cp := { s.cp with jobs := s.cp.jobs.filter fun p => p.1 ≠ j }
    lk := { s.lk with twinWaits := s.lk.twinWaits.filter fun w => w.job ≠ j } }

/-- The running command `j` changed by `f`. -/
def updJob (s : State) (j : JobRef) (f : Job → Job) : State :=
  match getJob s j with
  | some b => putJob s j (f b)
  | none => s

/-- A condition that arose while `j` ran (R365). -/
def noteCond (s : State) (j : JobRef) (x : Status) : State := updJob s j fun b => { b with conds := b.conds ++ [x] }

/-- The stream that a command's completions name. -/
def JobRef.streamOf : JobRef → Nat
  | .stream st => st
  | .node st _ => st
  | .remote _ _ => 0
  | .adopted _ => 0

/-- Opcode of a submission entry (R341). -/
def entryOpc (e : Bytes) : Nat := byteN e 0

/-- TAG of a submission entry. -/
def entryTag (e : Bytes) : Nat := leAt e 2 2

/-- DIG of a submission entry. -/
def entryDig (e : Bytes) : Bool := bitN (leAt e 0 4) 15

/-- IRQ of a submission entry. -/
def entryIrq (e : Bytes) : Bool := bitN (leAt e 0 4) 14

/-- STREAM of a submission entry. -/
def entryStream (e : Bytes) : Nat := wfld e 0 11 8

/-- LEN of a submission entry. -/
def entryLen (e : Bytes) : Nat := leAt e 4 4

/-- ADDR of a submission entry. -/
def entryAddrW (e : Bytes) : W64 := BitVec.ofNat 64 (leAt e 8 8)

/-- The 64-bit parameter at a byte offset. -/
def param64 (e : Bytes) (off : Nat) : W64 := BitVec.ofNat 64 (leAt e off 8)

/-! ### The completion queue (R345 to R348) -/

/-- The CQ size. -/
def cqSize (s : State) : Nat := 2 ^ s.hq.cqLog2

/-- Whether the CQ is full. -/
def cqFull (s : State) : Bool := (s.hq.cqTail + 2 * cqSize s - s.hq.cqHead) % (2 * cqSize s) = cqSize s

/-- BCLK cycles from START to now, and whether they exceed 32 bits. -/
def durationOf (s : State) (start : W64) : Nat × Bool :=
  let d := (now s - start).toNat
  if 0xFFFFFFFF < d then (0xFFFFFFFF, true) else (d, false)

/-- The 32 bytes of a completion entry of stream `st` (R345). -/
def cqeBytes (s : State) (st : Nat) (c : HeldC) : Bytes :=
  let d := durationOf s c.start
  leBytes 2 c.status.code ++ leBytes 2 c.tag.toNat ++
    leBytes 4 (bAt s.hq.phase 31 + st * 2 ^ 27 + c.flags + bAt d.2 21 + s.hq.sqHead % 2 ^ 17) ++
    leBytes 8 c.start.toNat ++ leBytes 4 d.1 ++ leBytes 4 c.digIdx.toNat ++ leBytes 8 c.result.toNat

/-- The counter after one slot, modulo twice the size. -/
def nextCount (size n : Nat) : Nat := (n + 1) % (2 * size)

/-- Whether sequences are mirrored: in MIRROR, and while a paired DETACH_PREPARE drains (R463, R469). -/
def mirrors (s : State) : Bool := s.lk.twin = .mirror || (s.lk.twin = .detaching && s.lk.handing)

/-- The written notice of a mirrored command (R464). -/
def twinNotice (s : State) (tag : BitVec 16) : State := if mirrors s then sendTwin s kindTwinWritten (leBytes 2 tag.toNat) else s

/-- One completion entry is written: one 32-byte write at CQ_TAIL, the phase inverts past the last slot, source 657 fires. -/
def writeCqe (s : State) (st : Nat) (c : HeldC) : State :=
  let a := rfld s.hq.cqBase 63 12 * 4096 + 32 * (s.hq.cqTail % cqSize s)
  let s1 := hostWrite s a (cqeBytes s st c)
  let s2 := { s1 with hq := { s1.hq with
    cqTail := nextCount (cqSize s) s.hq.cqTail
    phase := if (s.hq.cqTail + 1) % cqSize s = 0 then !s.hq.phase else s.hq.phase } }
  let s3 := if c.fire || c.status ≠ .ok then fire s2 657 else s2
  if c.twin then twinNotice s3 c.tag else s3

/-- A final completion is written, or held while the CQ is full or an earlier one of the stream is held (R347). -/
def postFinal (s : State) (st : Nat) (c : HeldC) : State :=
  if cqFull s || !(s.cp.streams.get st).held.isEmpty then updStream s st fun x => { x with held := x.held ++ [c] }
  else writeCqe s st c

/-- An interim completion is written, or dropped and counted while the CQ is full (R347). -/
def postInterim (s : State) (st : Nat) (c : HeldC) : State :=
  if cqFull s then { s with hq := { s.hq with interimDrop := satInc s.hq.interimDrop 1 } } else writeCqe s st c

/-- The fence that an entry names: FENCE of SIGNAL and WAIT (R354). -/
def fenceOfEntry (e : Bytes) : Option Nat := if entryOpc e = 0x04 ∨ entryOpc e = 0x05 then some (byteN e 16) else none

/-- Whether a command works on a sequence, which MIRROR mirrors (R463). -/
def seqWork (b : Job) : Bool :=
  match b.body with
  | .decode _ => true
  | .prefill _ => true
  | .release _ => true
  | _ => false

/-- The completion of a command. -/
def heldOf (b : Job) (x : Status) (dig : W32) (result : W64) : HeldC where
  tag := BitVec.ofNat 16 (entryTag b.entry)
  status := x
  flags := bAt b.migrated 25 + bAt b.resumed 24 + bAt b.intSat 23 + bAt b.nanCvt 22
  start := b.start
  digIdx := dig
  result := result
  fire := entryIrq b.entry
  fence := fenceOfEntry b.entry
  twin := seqWork b

/-! ### Digest records (R437, R438, R582) -/

/-- Records in the digest ring. -/
def digSize (s : State) : Nat := 64 * 2 ^ s.hq.dlog

/-- One 128-byte digest record goes to its slot, and the serial number rises. -/
def writeDigest (s : State) (rec : Bytes) : State :=
  let s1 := hostWrite s (rfld s.hq.digBase 63 12 * 4096 + 128 * (s.hq.digSerial.toNat % digSize s)) rec
  { s1 with hq := { s1.hq with digSerial := s1.hq.digSerial + 1 } }

/-- Layer digest of a layer's folded rows (R433, R434). -/
def layerDigest (f : LayerFold) : W64 := foldFinish f.h (64 * f.blocks)

/-- The result digest (R437). -/
def resultDigest (b : Job) : Bytes :=
  match b.digest with
  | some d => d
  | none => sha256 (bytesAt b.program 0 32 ++ bytesAt b.gendig 0 32 ++ bytesAt b.input 0 32 ++
      b.folds.flatMap fun f => leBytes 8 (layerDigest f).toNat)

/-- A layer record: serial number, TAG, first layer and up to 14 layer digests. -/
def layerRecord (serial : Nat) (tag first : Nat) (ds : List W64) : Bytes :=
  bytesAt (leBytes 4 serial ++ leBytes 2 tag ++ leBytes 2 first ++ [BitVec.ofNat 8 ds.length] ++ [0, 0, 0] ++ [0x40] ++ [0, 0, 0] ++
    ds.flatMap fun d => leBytes 8 d.toNat) 0 128

/-- The slot mode that a result record reports: 0 for none or mixed. -/
def digMode (b : Job) : Nat :=
  match b.modes with
  | [] => 0
  | m :: r => if r.all (· = m) then m else 0

/-- The result record. -/
def resultRecord (s : State) (b : Job) (x : Status) (serial nlrec : Nat) : Bytes :=
  bytesAt (leBytes 4 serial ++ leBytes 2 (entryTag b.entry) ++ leBytes 2 (match b.slotGen with | some g => g.2 | none => 0) ++
    leBytes 2 b.folds.length ++ leBytes 1 (match b.slotGen with | some g => g.1 | none => 0xFF) ++ leBytes 1 nlrec ++
    leBytes 1 (bAt (nlrec ≠ 0) 5 + bAt (x ≠ .ok) 4 + bAt b.rowPois 3 + bAt b.repro 2) ++
    leBytes 1 (bAt s.md.epoch.line.isSome 7 + digMode b * 32 + s.pw.step) ++ [0, 0] ++
    resultDigest b ++ bytesAt b.program 0 32 ++ bytesAt b.input 0 32) 0 128

/-- Whether the command's end writes digest records. -/
def wantsDigest (s : State) (b : Job) : Bool :=
  rfld s.hq.digBase 63 12 ≠ 0 && entryOpc b.entry < 0x80 && (entryDig b.entry || entryOpc b.entry = 0x0C)

/-- The digest records of a command that ends with status `x`, and the DIGEST_IDX that its completion reports. -/
def digestOut (s : State) (b : Job) (x : Status) : State × W32 :=
  if wantsDigest s b then
    let nl := ceilDiv b.folds.length 14
    let nlrec := if nl + 1 ≤ digSize s then nl else 0
    let s1 := (List.range nlrec).foldl (fun s i =>
      writeDigest s (layerRecord s.hq.digSerial.toNat (entryTag b.entry) (14 * i) ((b.folds.drop (14 * i)).take 14 |>.map layerDigest))) s
    (writeDigest s1 (resultRecord s1 b x s1.hq.digSerial.toNat nlrec), s1.hq.digSerial)
  else (s, 0xFFFFFFFF)

/-! ### Units of a command -/

/-- A unit record (R392). -/
def unitRec (kind die unit ch cause opc head tail qidx : Nat) (origin : Bool) : W64 :=
  BitVec.ofNat 64 (kind * 2 ^ 60 + die % 8 * 2 ^ 57 + unit % 32 * 2 ^ 52 + ch % 4 * 2 ^ 50 + cause % 256 * 2 ^ 40 + opc % 256 * 2 ^ 32 +
    head % 512 * 2 ^ 23 + tail % 512 * 2 ^ 14 + qidx % 256 * 2 ^ 6 + b2n origin)

/-- The unit record of a context with its current TOD. -/
def ctxUnit (s : State) (t c cause opc qidx : Nat) (origin : Bool) : W64 :=
  let x := s.tiles.get t
  unitRec 1 (t / 32) (t % 32) c cause opc x.head.toNat x.tail.toNat qidx origin

/-- The unit record of an engine channel. -/
def chanUnit (s : State) (e ch cause opc qidx : Nat) (origin : Bool) : W64 :=
  let x := chanOf s e ch
  unitRec (if e = 144 then 4 else if e % 18 < 16 then 2 else 3) (if e = 144 then 0 else e / 18) (if e = 144 then 0 else e % 18) ch
    cause opc x.head.toNat x.tail.toNat qidx origin

/-- The ring slots between HEAD and TAIL of a channel. -/
def queuedSlots (x : Channel) : List Nat := (List.range (x.tail - x.head).toNat).map fun i => (x.head.toNat + i) % 32

/-- The queued descriptors of a command in a channel. -/
def ownedSlots (x : Channel) (j : JobRef) : List Nat :=
  (queuedSlots x).filter fun i => x.owners.get i = some j && !x.cancelled.get i

/-- Descriptors of a command in a channel, in progress or queued. -/
def ownedIn (x : Channel) (j : JobRef) : Nat := (x.prog.countP fun p => p.job = some j) + (ownedSlots x j).length

/-- The engine channels that hold descriptors of a command. -/
def chansOf (s : State) (j : JobRef) : List (Nat × Nat) :=
  s.engines.flatMap fun p => (List.range 4).filterMap fun ch => if 0 < ownedIn (p.2.chans.get ch) j then some (p.1, ch) else none

/-- The contexts that run a command. -/
def ctxsOf (s : State) (j : JobRef) : List (Nat × Nat) :=
  s.tiles.flatMap fun p => (List.range 4).filterMap fun c => if (p.2.ctxs.get c).job = some j then some (p.1, c) else none

/-- A command with the graph nodes that run for it. -/
def refsOf (s : State) (j : JobRef) : List JobRef :=
  match j with
  | .stream st => j :: ((s.cp.jobs.map (·.1)).filter fun r => match r with | .node st' _ => st' = st | _ => false)
  | _ => [j]

/-- The snapshot of R390: the first faulting unit first, then every other unit that was running the command, up to 16. -/
def snapshot (s : State) (j : JobRef) (origin : Option W64) : List W64 :=
  let same := fun (u : W64) => match origin with | some o => rfld o 63 50 = rfld u 63 50 | none => false
  let cur := fun (t c : Nat) => (s.tiles.get t).window.find? fun w => w.ctx = c
  let tiles := ((refsOf s j).flatMap (ctxsOf s)).map fun p => ctxUnit s p.1 p.2 0 (match cur p.1 p.2 with | some w => byteN w.bytes 0 | none => 0)
    (match cur p.1 p.2 with | some w => w.qidx | none => 0) false
  let chans := ((refsOf s j).flatMap (chansOf s)).map fun p =>
    let d := (chanOf s p.1 p.2).prog.find? fun q => match q.job with | some r => (refsOf s j).contains r | none => false
    chanUnit s p.1 p.2 0 (match d with | some q => byteN q.bytes 0 | none => 0) (match d with | some q => q.qidx | none => 0) false
  ((match origin with | some o => [o] | none => []) ++ (tiles ++ chans).filter fun u => !same u).take 16

/-! ### Barriers: withdrawal (R406) -/

/-- The participant that holds an entry's phase: a graph node enters for its stream (R401). -/
def Part.key : Part → Part
  | .job (.node st _) => .job (.stream st)
  | p => p

/-- The entry phase of a participant. -/
def phaseOf (b : Barrier) (p : Part) : Nat := ((b.phases.find? fun q => q.1 = p.key).map (·.2)).getD 0

/-- The entry phase of a participant set. -/
def setPhase (b : Barrier) (p : Part) (n : Nat) : Barrier :=
  { b with phases := if n % 4 = 0 then b.phases.filter fun q => q.1 ≠ p.key else (b.phases.filter fun q => q.1 ≠ p.key) ++ [(p.key, n % 4)] }

/-- A barrier without the entries of a participant: counts fall and its phase steps back once for each (R406). -/
def withdrawPart (b : Barrier) (p : Part) : Barrier :=
  let n0 := b.in0.countP (· = p)
  let n1 := b.in1.countP (· = p)
  let nh := b.held.countP (· = p)
  let k := n0 + n1 + nh
  if k = 0 then b
  else setPhase { b with cnt0 := b.cnt0 - n0, cnt1 := b.cnt1 - n1, in0 := b.in0.filter (· ≠ p), in1 := b.in1.filter (· ≠ p), held := b.held.filter (· ≠ p) }
    p (phaseOf b p + 3 * k)

/-- The entries of a participant withdrawn from every barrier. -/
def withdrawAll (s : State) (p : Part) : State :=
  { s with bcn := { s.bcn with
    mbar := s.bcn.mbar.mapAll fun _ b => withdrawPart b p
    cbar := s.bcn.cbar.mapAll fun _ b => withdrawPart b p } }

/-! ### Stopping a command's units (R389 step 1) -/

/-- Gather entries keep what TODs of the window put into them; an entry left without one is gone. -/
def pruneGather (x : Tile) : Tile :=
  { x with gather := (x.gather.map fun e => { e with tods := e.tods.filter fun u => x.window.any fun w => w.uid = u }).filter fun e => !e.tods.isEmpty }

/-- A tile without the TODs of a context that satisfy `p` and without their waits; the context is idle and reset. -/
def dropCtx (x : Tile) (t c : Nat) (p : TodSlot → Bool) : Tile :=
  let gone := (x.window.filter fun w => w.ctx = c && p w).map (·.uid)
  pruneGather { x with
    window := x.window.filter fun w => !(w.ctx = c && p w)
    line := x.line.filter fun r => match r.who with | .tod t' u => !(t' = t && gone.contains u) | _ => true
    ctxs := x.ctxs.upd c fun k => { k with active := false, wait := false, halted := false, job := none } }

/-- A retirement that waited takes effect once no context is active (R103). -/
def settleTile (x : Tile) : Tile :=
  if x.retirePend && !(x.ctxs.any fun c => c.2.active) then { x with retired := true, retirePend := false, qEn := false } else x

/-- A context is stopped and its barrier entries are withdrawn. -/
def stopCtx (s : State) (t c : Nat) (p : TodSlot → Bool) : State := withdrawAll (updTile s t fun x => settleTile (dropCtx x t c p)) (.ctx t c)

/-- A tile whose queued TODs of a command are discarded when they are fetched (R63, R389). -/
def dropQueued (j : JobRef) (x : Tile) : Tile :=
  { x with
    owners := x.owners.filter fun p => p.2 ≠ some j
    dropped := (x.owners.filter fun p => p.2 = some j).foldl (fun m p => Tbl.set m p.1 true) x.dropped }

/-- The queued TODs of a command discarded on every tile. -/
def dropSupply (s : State) (j : JobRef) : State := { s with tiles := s.tiles.mapAll fun _ x => dropQueued j x }

/-- A channel without the descriptors of a command: those in progress stop, queued ones are skipped, the channel is reset. -/
def dropDesc (x : Channel) (j : JobRef) : Channel :=
  { x with
    cancelled := (ownedSlots x j).foldl (fun m i => Tbl.set m i true) x.cancelled
    prog := x.prog.filter fun p => p.job ≠ some j }

/-- The waits of a channel withdrawn from every tile (R400). -/
def withdrawChan (s : State) (e ch : Nat) : State :=
  { s with tiles := s.tiles.mapAll fun _ x => { x with line := x.line.filter fun r => r.who ≠ .chan e ch } }

/-- A channel reset after the command that halted it (R309, R331). -/
def resetChan (j : JobRef) (c : Channel) : Channel :=
  if c.haltJob = some j then { c with halted := false, haltJob := none } else c

/-- The channels that a command's descriptors halted are reset. -/
def resetChans (s : State) (j : JobRef) : State :=
  { s with engines := s.engines.mapAll fun _ g => { g with chans := g.chans.mapAll fun _ c => resetChan j c } }

/-- Free bytes in place of the destination of a killed descriptor, whose contents are undefined (R327). -/
def scrambleDest (s : State) (p : DSlot) : State :=
  let s := p.dest.foldl (fun s k => let f := takeFree s 1; storeMod f.2 k (f.1.map fun b => (b, s.mem.pois.get (k / 64)))) s
  p.hostDest.foldl (fun s a => let f := takeFree s 1; hostWrite f.2 a f.1) s

/-- The destinations of a command's descriptors in progress. -/
def scrambleOwned (s : State) (e ch : Nat) (j : JobRef) : State :=
  ((chanOf s e ch).prog.filter fun p => p.job = some j).foldl scrambleDest s

/-- Every unit of a command stops. -/
def stopUnits (s : State) (j : JobRef) : State :=
  let chans := chansOf s j
  let s := (ctxsOf s j).foldl (fun s p => stopCtx s p.1 p.2 fun w => w.job = some j || w.launch.isSome) (dropSupply s j)
  let s := chans.foldl (fun s p => withdrawChan (updChan (scrambleOwned s p.1 p.2 j) p.1 p.2 fun x => dropDesc x j) p.1 p.2) s
  withdrawAll (resetChans s j) (.job j)

/-- Windows of a kernel closed (R370). -/
def closeWins (s : State) (k : KernelRun) : State :=
  let s := k.wins.foldl (fun s p => updTile s p.1 fun x => { x with wins := x.wins.upd p.2 fun w => { w with a := w.a &&& 0x7FFFFFFFFFFFFFFF } }) s
  k.hbmWins.foldl (fun s p => updDie s p.1 fun x => { x with hbmWins := x.hbmWins.upd p.2 fun w => { w with a := w.a &&& 0x7FFFFFFFFFFFFFFF } }) s

/-- The installation of a persistent kernel ends: its contexts stop (R378, R395). -/
def endPersist (s : State) (id : Nat) : State :=
  match s.cp.persists.find? fun p => p.id = id with
  | none => s
  | some p =>
    let s := { s with cp := { s.cp with persists := s.cp.persists.filter fun q => q.id ≠ id } }
    p.tiles.foldl (fun s t => (setBits 4 p.ctxMask).foldl (fun s c => stopCtx s t c fun _ => true) s) s

/-- The kernel that a command runs, if it is one. -/
def kernelOf (b : Job) : Option KernelRun :=
  match b.body with
  | .kernel k => some k
  | _ => none

/-- The tiles that a command's kernel maps. -/
def tilesOf (b : Job) : List Nat := match kernelOf b with | some k => k.tiles | none => []

/-- END written to a decode record that is still within reach (R247). -/
def writeEnd (s : State) (ra : W64) (n : Nat) : State :=
  if (reach s (ra + 123) 1 true).isNone then writeWord s (ra + 123) [BitVec.ofNat 8 n] else s

/-- The decode loop of a record is over. -/
def dropLoop (s : State) (ra : W64) : State := { s with md := { s.md with loops := s.md.loops.filter fun l => l.ra ≠ ra } }

/-- An admission of a command leaves its slot's queue. -/
def dropAdmit (s : State) (j : JobRef) : State :=
  { s with md := { s.md with slots := s.md.slots.mapAll fun _ x => { x with admits := x.admits.filter fun a => a.job ≠ j } } }

/-- What the end of a killed or captured loop or prefill leaves: END 6 for a retired die, else 7; a sequence still in prefill is no sequence. -/
def endModelWork (s : State) (j : JobRef) (b : Job) (x : Status) : State :=
  match b.body with
  | .decode ra => writeEnd (dropLoop s ra) ra (if x = .dieRetired then 6 else 7)
  | .prefill ra =>
    match seqOf s ra with
    | some q => if q.prefilling then dropSeq (dropAdmit s j) q else dropAdmit s j
    | none => dropAdmit s j
  | _ => s

/-- The release of R389 steps 1 to 4: units stopped, a persistent installation ended, tiles scrubbed or cleared, windows closed. -/
def releaseKilled (s : State) (j : JobRef) (b : Job) (x : Status) : State :=
  let s := endModelWork (stopUnits s j) j b x
  match kernelOf b with
  | none => s
  | some k =>
    let s := match k.persist with | some id => endPersist s id | none => s
    closeWins (k.tiles.foldl killTile s) k

/-- The release at an ordinary end: windows closed, contexts handed back, channels reset. -/
def releaseDone (s : State) (j : JobRef) (b : Job) : State :=
  match kernelOf b with
  | none => stopUnits s j
  | some k =>
    let halted := (ctxsOf s j).filter fun p => ((s.tiles.get p.1).ctxs.get p.2).halted
    let s := halted.foldl (fun s p => stopCtx s p.1 p.2 fun w => w.job = some j) s
    let s := if k.persist.isSome then { s with tiles := s.tiles.mapAll fun _ x => { x with owners := x.owners.filter fun p => p.2 ≠ some j } } else dropSupply s j
    let chans := chansOf s j
    let s := chans.foldl (fun s p => updChan s p.1 p.2 fun x => dropDesc x j) s
    let s := resetChans s j
    let s := { s with tiles := s.tiles.mapAll fun _ x => { x with ctxs := x.ctxs.mapAll fun _ c => if c.job = some j then { c with job := none } else c } }
    closeWins s k

/-! ### Capture (R390, R392, R394) -/

/-- The capture record of a command. -/
def captureRecord (s : State) (j : JobRef) (b : Job) (x : Status) (killed : Bool) : Bytes :=
  let units := snapshot s j b.origin
  let node := match j with | .node _ n => some n | .remote _ n => some n | _ => none
  let frames := (match node with | some n => [n] | none => b.frames).take 8
  bytesAt (leBytes 4 s.cp.capSeq.toNat ++ leBytes 2 x.code ++ leBytes 2 (entryTag b.entry) ++ leBytes 1 (entryOpc b.entry) ++
    leBytes 1 (bAt killed 5 + bAt node.isSome 4 + j.streamOf) ++ leBytes 1 b.depth ++ leBytes 1 units.length ++ leBytes 4 b.sqIdx ++
    leBytes 8 (now s).toNat ++ leBytes 8 b.entryAddr.toNat ++ bytesAt (frames.flatMap fun f => leBytes 4 f) 0 32 ++ bytesAt b.entry 0 64 ++
    units.flatMap fun u => leBytes 8 u.toNat) 0 256

/-- A capture: the record is written to the ring, the fault log holds a CAPTURE record, source 659 fires. -/
def capture (s : State) (j : JobRef) (b : Job) (x : Status) (killed : Bool) : State :=
  let r := captureRecord s j b x killed
  let c := s.cp
  let s1 := { s with cp := { c with
    ring := c.ring.set (c.capSeq.toNat % 64) r
    capOvf := c.capOvf || ringOver (c.capSeq.setWidth 16) c.capHead 64
    capSeq := c.capSeq + 1 } }
  let s2 := flog s1 { status := x, kind := 8, cmd := some (entryTag b.entry, j.streamOf), capseq := c.capSeq.toNat }
  fire (releaseKilled s2 j b x) 659

/-! ### Command buffers (R371, R374) -/

/-- A completion inside a command buffer is written only with IRQ or a status other than OK. -/
def postInner (s : State) (st : Nat) (b : Job) (x : Status) (dig : W32) (result : W64) : State :=
  if entryIrq b.entry || x ≠ .ok then postFinal s st (heldOf b x dig result)
  else if seqWork b then twinNotice s (BitVec.ofNat 16 (entryTag b.entry))
  else s

/-- The CALLs of the open frames complete with status `x`, innermost first; `fuel` bounds the frames. -/
def endCalls (x : Status) (st : Nat) : List CFrame → State → State
  | [], s => s
  | [f], s => postFinal (updStream s st fun q => { q with frames := [] }) st (heldOf f.job x 0xFFFFFFFF 0)
  | f :: r, s => endCalls x st r (postInner s st f.job x 0xFFFFFFFF 0)

/-- Execution goes on at entry `idx` of the innermost frame; a frame past its last entry ends and its caller resumes. -/
def resumeAt (st : Nat) : List CFrame → Nat → State → State
  | [], _, s => updStream s st fun q => { q with frames := [] }
  | f :: r, idx, s =>
    if idx < f.entries then updStream s st fun q => { q with frames := { f with idx := idx } :: r }
    else
      match r with
      | [] => postFinal (updStream s st fun q => { q with frames := [] }) st (heldOf f.job .ok 0xFFFFFFFF 0)
      | g :: _ => resumeAt st r (g.idx + 1) (postInner s st f.job .ok 0xFFFFFFFF 0)

/-! ### Graph nodes (R383, R384) -/

/-- Whether every node of a launch has ended, or no further node will start. -/
def graphOver (g : GraphRun) : Bool :=
  g.stopping.isEmpty && g.nodes.all fun n => match n.phase with | .done _ => true | .waiting => !g.failed.isEmpty | .running => false

/-- A node ends with a status. -/
def graphMark (g : GraphRun) (n : Nat) (x : Status) : GraphRun :=
  { g with
    nodes := modAt (fun q => { q with phase := .done x }) g.nodes n
    failed := if x = .ok then g.failed else g.failed ++ [x]
    firstFail := if x = .ok then g.firstFail else some (g.firstFail.getD n) }

/-! ### The end of a command -/

/-- Whether a status ends a work command with a capture (R390). -/
def captured (s : State) (b : Job) (x : Status) : Bool := (x.cls = 4 || x.cls = 5) && s.hq.ready && entryOpc b.entry < 0x80

/-- The fault log record of a poisoned command (R484). -/
def poisonLog (s : State) (j : JobRef) (b : Job) (x : Status) : State :=
  match b.poisAddr with
  | some a => fire (flog s { status := x, kind := 4, cmd := some (entryTag b.entry, j.streamOf), addr := a }) 709
  | none => s

/-- What the command held is given back, after a capture where its status asks for one. -/
def releaseFor (s : State) (j : JobRef) (b : Job) (x : Status) (killed : Bool) : State :=
  if killed || captured s b x then capture s j b x killed else releaseDone s j b

/-- The graph nodes that still run for a stream's command stop with it. -/
def dropNodes (s : State) (st : Nat) (x : Status) : State :=
  ((refsOf s (.stream st)).drop 1).foldl (fun s j => match getJob s j with | some b => delJob (releaseKilled s j b x) j | none => s) s

/-- The versions of a graph that launches hold, on this module or for another (R382). -/
def heldVersions (s : State) (id : Nat) : List Nat :=
  (s.cp.jobs.filterMap fun p => match p.2.body with | .graph g => if g.id = id then some g.version else none | _ => none) ++
    s.cp.remotes.filterMap fun r => match r.2 with | some l => if l.id = id then some l.version else none | none => none

/-- A deletion of a graph that no launch holds any more takes effect and its GRAPH_PATCH completes (R381). -/
def deleteDue (s : State) (p : JobRef × Job) : State :=
  match p.2.body with
  | .ctl (.graphDelete id) =>
    if heldVersions s id = [] then
      postFinal (delJob { s with cp := { s.cp with graphs := Tbl.del s.cp.graphs id } } p.1) p.1.streamOf (heldOf p.2 .ok 0xFFFFFFFF 0)
    else s
  | _ => s

/-- The graph deletions that a launch's end allows. -/
def deletesDue (s : State) : State := s.cp.jobs.foldl deleteDue s

/-- Bytes of a token between the modules of a launch: launching module and stream, graph, version, node, status and the node's report. Node
0xFFFF answers the launch itself, 0xFFFE starts its nodes (OK) or stops them, and 0xFFFD says that none of them runs any more. -/
def tokenBytes (launcher st id version node : Nat) (x : Status) (r : NodeReport) : Bytes :=
  leBytes 2 launcher ++ leBytes 1 st ++ leBytes 1 r.flags.toNat ++ leBytes 2 id ++ leBytes 2 version ++ leBytes 2 node ++ leBytes 2 x.code ++
    leBytes 4 0 ++ leBytes 8 r.start.toNat ++ leBytes 8 r.result.toNat

/-- The other modules of a launch with nodes that have not been reported. -/
def farModules (l : List GNode) : List Nat :=
  (l.filterMap fun n => match n.module, n.phase with | some _, .done _ => none | m, _ => m).eraseDups

/-- The other modules of a stream's launch are told to start its nodes, or to start none any more. -/
def tellFar (s : State) (st : Nat) (g : GraphRun) (ms : List Nat) (x : Status) : State :=
  ms.foldl (fun s m => sendTo s m kindToken (tokenBytes (selfModule s) st g.id g.version 0xFFFE x {})) s

/-- The first node of a launch has failed: no further node starts on any module (R384). -/
def haltFar (s : State) (st : Nat) (g : GraphRun) : State × GraphRun :=
  if g.failed.length = 1 then (tellFar s st g (farModules g.nodes) .busy, { g with stopping := farModules g.nodes }) else (s, g)

/-- What the end of a GRAPH brings: its nodes stop, here and where it ends before its nodes on other modules, and those of a killed one that
have finished leave their tiles scrubbed too (R130). -/
def endGraphWork (s : State) (st : Nat) (b : Job) (x : Status) (killed : Bool) : State :=
  match b.body with
  | .graph g =>
    let s := dropNodes s st x
    let s := if g.failed.isEmpty then tellFar s st g (farModules g.nodes) .busy else s
    if killed then g.ran.foldl killTile s else s
  | _ => s

/-- The stream's command ends: its completion, and entry `jump`, else the next entry of the frame, or the end of its CALLs. -/
def finishStream (s : State) (st : Nat) (b : Job) (x : Status) (result : W64) (killed : Bool) (jump : Option Nat := none) : State :=
  let j := JobRef.stream st
  let s := poisonLog (endGraphWork (releaseFor s j b x killed) st b x killed) j b x
  let d := digestOut s b x
  let s := deletesDue (delJob d.1 j)
  match (s.cp.streams.get st).frames with
  | [] => postFinal s st (heldOf b x d.2 result)
  | f :: r =>
    let s := postInner s st b x d.2 result
    if x = .ok then resumeAt st (f :: r) (jump.getD (f.idx + 1)) s else endCalls x st (f :: r) s

/-- The launch of a graph ends, with the status selected among its failed nodes and the first failed node logged. -/
def finishGraph (s : State) (st : Nat) (b : Job) (g : GraphRun) : State :=
  let x := rankStatus g.failed
  let s := match g.firstFail with
    | some n => flog s { status := x, kind := 8, cmd := some (entryTag b.entry, st), found := BitVec.ofNat 64 n }
    | none => s
  finishStream s st b x 0 false

/-- A node of a launch ends: its own completion under R374, its mark, tokens for other modules, and the launch's end. -/
def finishNode (s : State) (st n : Nat) (b : Job) (x : Status) (result : W64) (killed : Bool) : State :=
  let j := JobRef.node st n
  let s := poisonLog (releaseFor s j b x killed) j b x
  let s := delJob s j
  let s := postInner s st b x 0xFFFFFFFF result
  match getJob s (.stream st) with
  | none => s
  | some gb =>
    match gb.body with
    | .graph g =>
      let g' := { graphMark g n x with ran := (g.ran ++ tilesOf b).eraseDups }
      let far := (g'.nodes.filterMap fun q => if q.preds.contains n then q.module else none).eraseDups
      let s := if x = .ok then far.foldl (fun s m => sendTo s m kindToken (tokenBytes (selfModule s) st g.id g.version n x {})) s else s
      let r := if x = .ok then (s, g') else haltFar s st g'
      let s := r.1
      let g' := r.2
      let s := putJob s (.stream st) { gb with body := .graph g' }
      if graphOver g' then finishGraph s st { gb with body := .graph g' } g' else s
    | _ => s

/-- What a node's completion reports besides its status. -/
def reportOf (b : Job) (result : W64) : NodeReport :=
  ⟨b.start, result, BitVec.ofNat 4 (bAt b.intSat 0 + bAt b.nanCvt 1 + bAt b.resumed 2 + bAt b.migrated 3)⟩

/-- The launch `k` of another module after a change: gone once every node here has ended, or, halted, once none runs, which the launching
module is told. -/
def settleRemote (s : State) (k : Nat) (l : RemoteLaunch) : State :=
  let mine := l.nodes.filter fun q => q.module.isNone
  let ended := mine.all fun q => match q.phase with | .done _ => true | _ => false
  let quiet := l.halted && mine.all fun q => q.phase ≠ .running
  let s := if quiet then sendTo s l.src kindToken (tokenBytes l.src l.st l.id l.version 0xFFFD .ok {}) else s
  deletesDue { s with cp := { s.cp with remotes := s.cp.remotes.set k (if ended || quiet then none else some l) } }

/-- A node run here for another module's launch ends: a completion token goes back. -/
def finishRemote (s : State) (k n : Nat) (b : Job) (x : Status) (result : W64) (killed : Bool) : State :=
  let j := JobRef.remote k n
  let s := poisonLog (releaseFor s j b x killed) j b x
  let s := delJob s j
  match s.cp.remotes.get k with
  | none => s
  | some l =>
    let l' := { l with nodes := modAt (fun q => { q with phase := .done x }) l.nodes n, ran := (l.ran ++ tilesOf b).eraseDups }
    let far := (l.src :: l'.nodes.filterMap fun q => if q.preds.contains n then q.module else none).eraseDups
    let s := far.foldl (fun s m => sendTo s m kindToken (tokenBytes l.src l.st l.id l.version n x (reportOf b result))) s
    settleRemote s k l'

/-- A command adopted from the partner ends: its completion has its own TAG and STREAM (R466). -/
def finishAdopted (s : State) (j : JobRef) (b : Job) (x : Status) (result : W64) (killed : Bool) : State :=
  let d := digestOut (poisonLog (releaseFor s j b x killed) j b x) b x
  postFinal (deletesDue (delJob d.1 j)) (entryStream b.entry) { heldOf b x d.2 result with twin := false }

/-- The running command `j` ends with a status and a result. -/
def finish (s : State) (j : JobRef) (x : Status) (result : W64) (killed : Bool := false) : State :=
  match getJob s j with
  | none => s
  | some b =>
    match j with
    | .stream st => finishStream s st b x result killed
    | .node st n => finishNode s st n b x result killed
    | .remote k n => finishRemote s k n b x result killed
    | .adopted _ => finishAdopted s j b x result killed

/-- The running command `j` ends with the status that R365 selects among its conditions. -/
def finishRanked (s : State) (j : JobRef) (result : W64) : State :=
  match getJob s j with
  | none => s
  | some b => finish s j (rankStatus b.conds) result

/-- A command whose output is poisoned, with the first poisoned address (R326, R484). -/
def notePoison (s : State) (j : JobRef) (a : W64) : State :=
  updJob s j fun b => { b with
    conds := if b.conds.contains .poisoned then b.conds else b.conds ++ [.poisoned]
    poisAddr := match b.poisAddr with | some x => some x | none => some a }

/-- A fault of a unit that runs `j`: a status of class 0x40 or 0x50 ends the command with a capture at once; any other is
kept for its completion. -/
def unitFault (s : State) (j : JobRef) (x : Status) (origin : W64) : State :=
  let s := updJob s j fun b => { b with conds := b.conds ++ [x], origin := match b.origin with | some o => some o | none => some origin }
  match getJob s j with
  | none => s
  | some b => if captured s b x then finish s j (rankStatus b.conds) 0 else s

end Sys2Proof.Machine
end

