-- ==== Sys2Proof/Machine/Flags.lean ====
section
/-!
DEFINITION. Flag computations: W1C bits with their collisions (R11, R13), saturating counts, the arithmetic flags of a
context (R105) and the error flags of the host-queue block.
-/

namespace Sys2Proof.Machine

/-- A W1C bit after a write of `w` while hardware sets it (`hw`): a set in the same cycle wins (R13). -/
def w1c (old w hw : Bool) : Bool := (old && !w) || hw

/-- One collision for each bit that is cleared and set in the same cycle (R13). -/
def collisions (ws : List (Bool × Bool)) : Nat := ws.countP fun p => p.1 && p.2

/-- Source 658 fires: an error flag of the host-queue block has been set (R348). -/
def hqErr (s : State) (f : HostQ → HostQ) : State := fire { s with hq := f s.hq } 658

/-- The arithmetic flags of a context after results that saturated or met NaN (R105). -/
def noteArith (x : Tile) (c nan sat : Nat) : Tile :=
  { x with
    nanCnt := satInc x.nanCnt nan
    satCnt := satInc x.satCnt sat
    ctxs := if nan = 0 ∧ sat = 0 then x.ctxs else x.ctxs.upd c fun k => { k with nanCvt := k.nanCvt || decide (nan ≠ 0), intSat := k.intSat || decide (sat ≠ 0) } }

end Sys2Proof.Machine
end

