-- ==== Sys2Proof/Machine/HostQueue.lean ====
section
/-!
DEFINITION. The host queue: enabling, doorbells, fetch, completions held over, host regions and fences (R332 to R353).
-/

namespace Sys2Proof.Machine

/-- The SQ size. -/
def sqSize (s : State) : Nat := 2 ^ s.hq.sqLog2

/-- The host-queue block with new values. -/
def setHq (s : State) (f : HostQ → HostQ) : State := { s with hq := f s.hq }

/-- The checks of R335 on an enable. -/
def enableOk (h : HostQ) : Bool :=
  h.ready && 6 ≤ h.sqLog2 && h.sqLog2 ≤ 16 && 6 ≤ h.cqLog2 && h.cqLog2 ≤ 18 && h.dlog ≤ 10

/-- QUEUE_ENABLE (R335): EN written to 1. A write while EN is 1 changes nothing. -/
def execQueueEnable (s : State) : Ans := gate (barOn s) s <|
  if s.hq.en then .next s
  else if enableOk s.hq then
    .next (setHq s fun h => { h with en := true, idle := false, fetchStop := false, sqHead := 0, sqTail := 0, cqTail := 0, cqHead := 0, phase := true })
  else .next (hqErr s fun h => { h with sqErr := true })

/-- QUEUE_DISABLE (R335): EN written to 0 stops fetching. -/
def execQueueDisable (s : State) : Ans := gate (barOn s) s <| .next (setHq s fun h => { h with en := false })

/-- Whether stream `st` holds nothing that was fetched. -/
def streamEmpty (s : State) (st : Nat) : Bool :=
  let q := s.cp.streams.get st
  q.pending.isEmpty && q.frames.isEmpty && q.held.isEmpty && (getJob s (.stream st)).isNone

/-- QUEUE_IDLE (R335): IDLE is set once EN is 0 and no fetched command remains. -/
def execQueueIdle (s : State) : Ans :=
  if !s.hq.en && (List.range 16).all (streamEmpty s) then .next (setHq s fun h => { h with idle := true }) else .next s

/-- The checks of R337 on a region. -/
def regionOk (p : RegPair) : Bool := 1 ≤ rfld p.b 31 0 && rfld p.a 63 12 * 4096 + rfld p.b 31 0 * 4096 ≤ 2 ^ 64

/-- HOST_REGION_WRITE (R337): a write of HQ_REGION_Ar; reserved bits are ignored (R12). -/
def execHostRegionWrite (r : Fin 64) (a : W64) (s : State) : Ans := gate (blockOn s) s <|
  let v := a &&& 0xFFFFFFFFFFFFF007
  let p : RegPair := { s.hq.regions.get r.val with a := v }
  if rbit v 0 && !regionOk p then
    .next (hqErr s fun h => { h with regionErr := true, regions := h.regions.set r.val { p with a := v &&& 0xFFFFFFFFFFFFFFFE } })
  else .next (setHq s fun h => { h with regions := h.regions.set r.val p })

/-- Whether a fetched command names fence `f`: queued, running, or with its final completion held (R350). -/
def fenceNamed (s : State) (f : Nat) : Bool :=
  (List.range 16).any (fun st =>
    let q := s.cp.streams.get st
    q.pending.any (fun e => fenceOfEntry e.bytes = some f) || q.held.any fun c => c.fence = some f) ||
    s.cp.jobs.any fun p => fenceOfEntry p.2.entry = some f

/-- FENCE_REGISTER_WRITE (R350). -/
def execFenceRegisterWrite (f : Fin 256) (val : Bool) (v : W64) (s : State) : Ans := gate (blockOn s) s <|
  if fenceNamed s f.val then .next (hqErr s fun h => { h with fenceErr := true })
  else .next (setHq s fun h => { h with fences := h.fences.upd f.val fun x =>
    if val then { x with value := v } else { x with hostSig := rbit v 31, owner := v.setWidth 4 } })

/-- SQ_DOORBELL (R338, R339). -/
def execSqDoorbell (v : W64) (s : State) : Ans := gate (barOn s) s <|
  if !s.hq.en then .next s
  else
    let t := rfld v 16 0
    if t < 2 * sqSize s ∧ (t + 2 * sqSize s - s.hq.sqHead) % (2 * sqSize s) ≤ sqSize s then .next (setHq s fun h => { h with sqTail := t })
    else .next (hqErr s fun h => { h with sqErr := true })

/-- CQ_DOORBELL (R338): a HEAD between the old one and CQ_TAIL is taken. -/
def execCqDoorbell (v : W64) (s : State) : Ans := gate (barOn s) s <|
  if !s.hq.en then .next s
  else
    let n := 2 * cqSize s
    let t := rfld v 18 0
    if t < n ∧ (t + n - s.hq.cqHead) % n ≤ (s.hq.cqTail + n - s.hq.cqHead) % n then .next (setHq s fun h => { h with cqHead := t })
    else .next (hqErr s fun h => { h with cqErr := true })

/-- The running WAITs on fence `f` that its value satisfies complete (R352). -/
def wakeWaits (s : State) (f : Nat) : State :=
  (List.range 16).foldl (fun s st =>
    match getJob s (.stream st) with
    | some b =>
      match b.body with
      | .wait g t => if g = f && decide (t ≤ (s.hq.fences.get f).value) then finish s (.stream st) .ok (s.hq.fences.get f).value else s
      | _ => s
    | none => s) s

/-- A fence raised to a value, and its waiters released. -/
def raiseFence (s : State) (f : Nat) (v : W64) : State :=
  wakeWaits (setHq s fun h => { h with fences := h.fences.upd f fun x => { x with value := v } }) f

/-- FENCE_DOORBELL (R353). -/
def execFenceDoorbell (f : Fin 256) (single64 : Bool) (v : W64) (s : State) : Ans := gate (barOn s) s <|
  if !s.hq.en then .next s
  else
    let x := s.hq.fences.get f.val
    if x.hostSig && single64 && decide (x.value < v) then .next (raiseFence s f.val v)
    else .next (hqErr s fun h => { h with fenceErr := true })

/-- The host bus address of the SQ entry with counter `n`. -/
def sqEntryAddr (s : State) (n : Nat) : Nat := rfld s.hq.sqBase 63 12 * 4096 + 64 * (n % sqSize s)

/-- SQ_FETCH (R340): the entry at SQ_HEAD goes to its stream's pending queue of 256 entries; a PCIe failure sets FETCH_ERR
and stops fetching. -/
def execSqFetch (pcieOk : Bool) (s : State) : Ans :=
  if !s.hq.en || s.hq.fetchStop || s.hq.sqHead = s.hq.sqTail then .next s
  else if !pcieOk then .next (hqErr s fun h => { h with fetchErr := true, fetchStop := true })
  else
    let e := hostRead s (sqEntryAddr s s.hq.sqHead) 64
    if 256 ≤ (s.cp.streams.get (entryStream e)).pending.length then .next s
    else
      let s1 := updStream s (entryStream e) fun q => { q with pending := q.pending ++ [⟨e, s.hq.sqHead⟩] }
      .next (setHq s1 fun h => { h with sqHead := nextCount (sqSize s) h.sqHead })

/-- COMPLETION_WRITE (R347): the stream's oldest held completion is written once the CQ has room. -/
def execCompletionWrite (st : Stream) (s : State) : Ans :=
  match (s.cp.streams.get st.val).held with
  | [] => .next s
  | c :: r => if cqFull s then .next s else .next (writeCqe (updStream s st.val fun q => { q with held := r }) st.val c)

/-- HQ_COUNTS.CNT_CLR (R334). -/
def execHqCountsCntClr (s : State) : Ans := gate (blockOn s) s <| .next (setHq s fun h => { h with collCnt := 0, interimDrop := 0, wdFired := 0 })

end Sys2Proof.Machine
end

