-- ==== Sys2Proof/Machine/Ports.lean ====
section
/-!
DEFINITION. Channel faults of the DMA engines (R309, R313, R331), and what the loss of a tensor link or of a logical port
ends (R327, R412, R444, R468).
-/

namespace Sys2Proof.Machine

/-! ### Channel faults -/

/-- The status of a DMA cause (R313, R331); PATH_LOST has two, given apart. -/
def dmaStatus (cause : Nat) : Status :=
  match cause with
  | 0x04 => .lenRange
  | 0x05 => .lenRange
  | 0x06 => .align
  | 0x07 => .addrRange
  | 0x08 => .addrRange
  | 0x09 => .addrRange
  | 0x0B => .slotEmpty
  | 0x0C => .addrRange
  | 0x0D => .dieRetired
  | _ => .engineFault

/-- A channel with a fault recorded (the first stays, R331) and halted: the faulting descriptor is gone, its command's
other descriptors in the channel are never started. -/
def haltChan (x : Channel) (d : DSlot) (cause opc qidx : Nat) : Channel :=
  { x with
    fault := true
    halted := true
    haltJob := d.job
    prog := x.prog.filter fun p => p ≠ d && (p.job.isNone || p.job ≠ d.job)
    cancelled := match d.job with | some j => (ownedSlots x j).foldl (fun m i => Tbl.set m i true) x.cancelled | none => x.cancelled
    fr := if x.fr.valid then x.fr else { cause := BitVec.ofNat 8 cause, opc := BitVec.ofNat 8 opc, qidx := BitVec.ofNat 8 qidx, valid := true } }

/-- The writes of a descriptor that another die has accepted become visible there (R35, R309, R315). -/
def showFar (s : State) (d : DSlot) : State := d.far.foldl (fun s p => storeMod s p.1 p.2) s

/-- A descriptor faults its channel; its command learns the status. The job's other descriptors in the channel are never started. -/
def chanFaultAs (s : State) (e ch : Nat) (d : DSlot) (cause : Nat) (x : Status) : State :=
  let s := showFar s d
  let u := chanUnit s e ch cause (byteN d.bytes 0) d.qidx true
  let s := withdrawChan (updChan s e ch fun c => haltChan c d cause (byteN d.bytes 0) d.qidx) e ch
  let s := fire s (engineSrc e)
  match d.job with
  | some j => unitFault s j x u
  | none => s

/-- A descriptor faults with the status of its cause. -/
def chanFault (s : State) (e ch : Nat) (d : DSlot) (cause : Nat) : State := chanFaultAs s e ch d cause (dmaStatus cause)

/-- The GLOBAL chip numbers that a descriptor names in those of SRC, DST and AUX that its opcode uses (R310, R311). -/
def descChips (b : Bytes) : List Nat :=
  let g := fun (w : W64) => if spaceOf w = 0 then [chipF w] else []
  (if [0x04, 0x05].contains (byteN b 0) then [] else g (param64 b 16)) ++ (if byteN b 0 = 0x07 then [] else g (param64 b 24)) ++
    (if [0x02, 0x03, 0x05].contains (byteN b 0) || (byteN b 0 = 0x01 && wfld b 0 23 22 = 3) then g (param64 b 44) else [])

/-- Every descriptor in progress that satisfies `p`, an engine's test, ends with PATH_LOST. -/
def endDescs (s : State) (p : Nat → Bytes → Bool) (x : Status) : State :=
  s.engines.foldl (fun s g =>
    (List.range 4).foldl (fun s ch =>
      ((chanOf s g.1 ch).prog.filter fun d => p g.1 d.bytes).foldl (fun s d =>
        if (chanOf s g.1 ch).prog.contains d then chanFaultAs s g.1 ch d 0x0D x else s) s) s) s

/-- Every descriptor in progress one of whose chips satisfies `p` ends with PATH_LOST. -/
def endTransfers (s : State) (p : Nat → Bool) (x : Status) : State := endDescs s (fun _ b => (descChips b).any p) x

/-! ### Ports and routes -/

/-- Ports UP: at least one link. -/
def portsUp (s : State) : List Nat := (List.range 8).filter fun p => !(portLinks s p).isEmpty

/-- Every event of a link's state change (R448): the state set, source 664 + n. -/
def setLinkState (s : State) (n st : Nat) : State :=
  if (s.lk.links.get n).st = st then s else fire (updLink s n fun l => { l with st := st }) (664 + n)

/-- The launches and barrier entrants that need a module end with LINK_DOWN (R383, R412). -/
def endRemote (s : State) (gone : Nat → Bool) : State :=
  let jobs := s.cp.jobs.filterMap fun p =>
    match p.2.body with
    | .graph g => if g.nodes.any fun n => match n.module, n.phase with | some _, .done _ => false | some m, _ => gone m | none, _ => false then some p.1 else none
    | .barrier true _ => some p.1
    | _ => none
  let ctxJobs := (s.bcn.cbar.flatMap fun b => b.2.in0 ++ b.2.in1 ++ b.2.held).filterMap fun q =>
    match q with | .ctx t c => ((s.tiles.get t).ctxs.get c).job | .job _ => none
  let s := (jobs ++ ctxJobs).eraseDups.foldl (fun s j => finish s j .linkDown 0) s
  s.cp.remotes.foldl (fun s r => match r.2 with | some l => if gone l.src then settleRemote s r.1 { l with halted := true } else s | none => s) s

/-- A completion that waited for the partner is written (R464); an interim one carries MORE. -/
def releaseWait (s : State) (w : TwinWait) : State :=
  if w.final then
    match getJob s w.job with
    | none => s
    | some _ => finish s w.job w.status w.result
  else
    match getJob s w.job with
    | none => s
    | some b =>
      let inner := b.depth ≠ 0 || (match w.job with | .node _ _ => true | _ => false)
      if inner && !entryIrq b.entry then s
      else postInterim s (match w.job with | .adopted _ => entryStream b.entry | _ => w.job.streamOf) { heldOf b .ok 0xFFFFFFFF w.result with flags := (heldOf b .ok 0xFFFFFFFF 0).flags + 2 ^ 26, twin := false }

/-- Every completion that waits for the partner is written: nothing is mirrored any more. -/
def flushWaits (s : State) : State :=
  s.lk.twinWaits.foldl releaseWait { s with lk := { s.lk with twinWaits := [], unackedCk := [] } }

/-- The twin port has gone down without a fog message (R468): both sides go on alone. -/
def twinIsolated (s : State) : State :=
  let s := match s.lk.twin, s.lk.pairJob with
    | .detaching, some j => finish { s with lk := { s.lk with pairJob := none } } j .twinLost 0
    | .pairing, some j => finish { s with lk := { s.lk with pairJob := none } } j .twinLost 0
    | _, _ => s
  match s.lk.twin with
  | .mirror => flushWaits { s with lk := { s.lk with twin := .isolated } }
  | .pairing => { s with lk := { s.lk with twin := .isolated } }
  | .detaching => flushWaits { s with lk := { s.lk with twin := .isolated, handing := false } }
  | _ => s

/-- A port without links goes down (R444): every transfer, graph edge and barrier that needs it ends with LINK_DOWN. -/
def portDown (s : State) (p : Nat) : State :=
  let gone := fun m => let e := s.lk.members.get m; e.valid && e.port = p && m ≠ selfModule s
  let s := { s with lk := { s.lk with ports := s.lk.ports.set p none } }
  let s := endRemote (endTransfers s (fun c => gone (c / 8)) .linkDown) gone
  if p = 7 then twinIsolated s else s

/-- A link leaves its port (R444): its unacknowledged messages go again on another link of the port, or the port goes down. -/
def leavePort (s : State) (n : Nat) : State :=
  match (s.lk.links.get n).port with
  | none => s
  | some p =>
    let s := updLink s n fun l => { l with port := none }
    match portLinks s p, s.lk.ports.get p with
    | m :: _, some q =>
      let again := (q.unacked.filter fun u => u.1 = n).map (·.2)
      let s := again.foldl (fun s msg => emit s (.link p msg)) s
      { s with lk := { s.lk with ports := s.lk.ports.set p (some { q with unacked := q.unacked.map fun u => if u.1 = n then (m, u.2) else u }) } }
    | _, _ => portDown s p

/-- A link goes to a state outside a port, its peer forgotten unless it stays for DISCOVER. -/
def linkTo (s : State) (n st : Nat) : State :=
  setLinkState (updLink (leavePort s n) n fun l => { l with cand := none, consec := 0, heard := false, hold := 0 }) n st

end Sys2Proof.Machine
end

