-- ==== Sys2Proof/Machine/Tokens.lean ====
section
/-!
DEFINITION. Power tokens: what a die stack holds, the pool, and the recall of loans (R501, R502, R506).
-/

namespace Sys2Proof.Machine

/-- Power and clocks changed by `f`. -/
def setPw (s : State) (f : Power → Power) : State := { s with pw := f s.pw }

/-- The tokens of a die stack. -/
def tokOf (s : State) (d : Nat) : Tok := s.pw.toks.get d

/-- The tokens of a die stack changed by `f`. -/
def updTok (s : State) (d : Nat) (f : Tok → Tok) : State := setPw s fun p => { p with toks := p.toks.upd d f }

/-- A die stack's allowance (R502). -/
def allowance (t : Tok) : Nat := min 310 (t.held - t.lent + t.borrowed)

/-- Tokens held by or on loan from the die stacks in service. -/
def heldSum (s : State) : Nat := ((upDies s).map fun d => (tokOf s d).held).foldl (· + ·) 0

/-- The pool: every token of the cap in force that no die stack holds and that is not on loan (R501). -/
def rePool (s : State) : State := setPw s fun p => { p with pool := p.cap - heldSum s }

/-- A borrower without what it has of lender `d`: its THR rises so that its draw fits, by a step the spec leaves open. -/
def giveBack (d pick : Nat) (t : Tok) : Tok :=
  let n := ((t.from_.filter fun x => x.1 = d).map (·.2)).foldl (· + ·) 0
  if n = 0 then t
  else
    let u := { t with borrowed := t.borrowed - n, from_ := t.from_.filter fun x => x.1 ≠ d }
    if allowance u < u.draw.toNat then { u with thr := BitVec.ofNat 4 (max u.thr.toNat (pick % 16)) } else u

/-- The loan of die stack `d` is recalled (R506). -/
def recallLoan (s : State) (d : Nat) : State :=
  if (tokOf s d).lent = 0 then s
  else
    let s1 := (List.range 8).foldl (fun s e => updTok s e (giveBack d (Config.freePick (s.free + e) 16))) s
    rePool (updTok { s1 with free := s1.free + 8 } d fun t => { t with lent := 0 })

/-- Every loan is recalled. -/
def recallAll (s : State) : State := (List.range 8).foldl recallLoan s

end Sys2Proof.Machine
end

