-- ==== Sys2Proof/Machine/Ring.lean ====
section
/-!
DEFINITION. The ring of arcs and the line of seven: neighbours, credit quotas (R166), and what an abandoned pass leaves
(R175, R182).
-/

namespace Sys2Proof.Machine

/-- The die after `d` in a direction on the ring, or on the line whose retired die is given (R157, R178, R180). -/
def nextDieAt (line : Option Nat) (d : Nat) (dir : Dir) : Option Nat :=
  let n := match dir with | .east => (d + 1) % 8 | .west => (d + 7) % 8
  match line with
  | none => some n
  | some r =>
    match dir with
    | .east => if linePos r d < 6 then some n else none
    | .west => if 0 < linePos r d then some n else none

/-- The die after `d` in a direction, if the topology in force has one. -/
def nextDie (s : State) (d : Nat) (dir : Dir) : Option Nat := nextDieAt s.md.epoch.line d dir

/-- The die before `d` in a direction, whose frames `d` receives. -/
def prevDie (s : State) (d : Nat) (dir : Dir) : Option Nat := nextDie s d (match dir with | .east => .west | .west => .east)

/-- The arc between `d` and the die after it in a direction. -/
def arcOf (d : Nat) (dir : Dir) : Nat := match dir with | .east => d | .west => (d + 7) % 8

/-- The arc on which die `d` receives what travels in a direction. -/
def arcIn (d : Nat) (dir : Dir) : Nat := match dir with | .east => (d + 7) % 8 | .west => d

/-! ### Data on the arcs (R19, R20, R328) -/

/-- The hops from die `a` to die `b` in a direction: each die that sends. -/
def hopsTo (a b : Nat) (dir : Dir) : List (Nat × Dir) :=
  match dir with
  | .east => (List.range ((b + 8 - a) % 8)).map fun i => ((a + i) % 8, dir)
  | .west => (List.range ((a + 8 - b) % 8)).map fun i => ((a + 8 - i) % 8, dir)

/-- The way of data from die `a` to die `b`: one direction, through the ring engines of dies in service; the shorter of two such ways,
and east of two equally long ones. For a transfer of a host-data path R20 states the shorter way; for other transfers, and for four
hops each way, the choice is the model's (log entry 153). -/
def arcRoute (s : State) (a b : Nat) : List (Nat × Dir) :=
  let e := hopsTo a b .east
  let w := hopsTo a b .west
  let clear := fun (l : List (Nat × Dir)) => l.tail.all fun h => dieUp s h.1
  if e.length ≤ w.length then (if !clear e && clear w then w else e) else if !clear w && clear e then e else w

/-- Whether every arc of the way from `a` to `b` is UP. -/
def arcsUp (s : State) (a b : Nat) : Bool := (arcRoute s a b).all fun h => (s.arcs.get (arcOf h.1 h.2)).st = 2

/-- `n` bytes cross from die `a` to die `b` as packets of up to 4 KiB behind a 32-byte header, and every arc of the way counts them
(R328, R558). The split into as few packets as hold the bytes is the model's (log entry 153). -/
def crossArcs (s : State) (a b n : Nat) : State :=
  let m := n + 32 * ceilDiv n 4096
  (arcRoute s a b).foldl (fun s h => updArc s (arcOf h.1 h.2) fun x => match h.2 with
    | .east => { x with eastBytes := x.eastBytes + m }
    | .west => { x with westBytes := x.westBytes + m }) s

/-- The die at which an engine's data meets the arcs: its own; for the HDE, the entry die of the one host-data path that the ICD
chooses by the destination die, or by the source die where the destination is host memory (R20). -/
def hubDie (s : State) (e : Nat) (b : Bytes) : Nat :=
  if e < 144 then e / 18
  else
    let own := fun (w : W64) => spaceOf w = 0 && isLocal s w
    if own (param64 b 24) then entryDie s (chipF (param64 b 24) % 8) else entryDie s (chipF (param64 b 16) % 8)

/-- The entry die of the host-data path that a descriptor's data crosses, if it crosses one: the HDE's always does, a die engine's with
the host tier (R20, R271). -/
def hostPath (s : State) (e : Nat) (b : Bytes) : Option Nat :=
  if e = 144 then some (hubDie s e b)
  else if spaceOf (param64 b 16) = 3 ∨ spaceOf (param64 b 24) = 3 then some (entryDie s (e / 18))
  else none

/-- The column groups that travel in a direction (R153, R180). -/
def dirGroups (line : Bool) (dir : Dir) : List Nat :=
  if line then List.range 32 else (List.range 16).map fun g => match dir with | .east => g | .west => 16 + g

/-- The credit quotas of one receive buffer (R166): key 2g for WEIGHT, 2g + 1 for GRAD, 64 for buoys. -/
def quotas (line bwd : Bool) (dir : Dir) : Tbl Nat :=
  let w := (if line then 124 else 248) / (if bwd then 2 else 1)
  ((dirGroups line dir).flatMap fun g => if bwd then [(2 * g, w), (2 * g + 1, w)] else [(2 * g, w)]) ++ [(64, 128)]

/-! ### Frame headers (R157, R194) -/

/-- Fields of a frame header. -/
def hKind (h : Bytes) : Nat := wfld h 0 31 28
def hLast (h : Bytes) : Bool := bitN (leAt h 0 4) 26
def hPois (h : Bytes) : Bool := bitN (leAt h 0 4) 25
def hResent (h : Bytes) : Bool := bitN (leAt h 0 4) 24
def hOwner (h : Bytes) : Nat := wfld h 0 21 19
def hSlot (h : Bytes) : Nat := wfld h 0 18 16
def hLen (h : Bytes) : Nat := wfld h 0 12 0
def hGen (h : Bytes) : BitVec 16 := BitVec.ofNat 16 (wfld h 4 31 16)
def hPass (h : Bytes) : BitVec 16 := BitVec.ofNat 16 (wfld h 4 15 0)
def hLayer (h : Bytes) : Nat := wfld h 8 31 20
def hSeg (h : Bytes) : Nat := wfld h 8 19 16
def hGroup (h : Bytes) : Nat := wfld h 8 12 8
def hFidx (h : Bytes) : Nat := leAt h 12 4
def hArg (h : Bytes) : Nat := leAt h 16 4

/-- Whether a header's CRC holds. -/
def hcrcOk (h : Bytes) : Bool := leAt h 24 4 = (crc32c (bytesAt h 0 24)).toNat

/-- Whether a payload's CRC holds; a buoy has none. -/
def pcrcOk (f : Frame) : Bool := leAt f.hdr 28 4 = if f.pay.isEmpty then 0 else (crc32c f.pay).toNat

/-- A header with both CRCs set for a payload. -/
def sealHdr (h : Bytes) (pay : Bytes) : Bytes :=
  let b := bytesAt h 0 24
  b ++ leBytes 4 (crc32c b).toNat ++ leBytes 4 (if pay.isEmpty then 0 else (crc32c pay).toNat)

/-- The header with one of its flags set: 25 POIS, 24 RESENT. -/
def withFlag (h : Bytes) (bit : Nat) (v : Bool) : Bytes :=
  let w := leAt h 0 4
  patch h 0 (leBytes 4 (if bitN w bit = v then w else if v then w + 2 ^ bit else w - 2 ^ bit))

/-- A frame marked as poisoned, resealed. -/
def poisoned_ (f : Frame) : Frame := { f with hdr := sealHdr (withFlag f.hdr 25 true) f.pay }

/-- The ledger entry of a frame (R166). -/
def ledgerKey (h : Bytes) : Nat := if hKind h = 1 then 2 * hGroup h else if hKind h = 2 then 2 * hGroup h + 1 else 64

/-- The ring engine of a die in a direction. -/
def ringOf (d : DieRegs) : Dir → RingDir
  | .east => d.east
  | .west => d.west

/-- A die's ring engine in a direction changed. -/
def updRing (s : State) (d : Nat) (dir : Dir) (f : RingDir → RingDir) : State :=
  updDie s d fun x => match dir with | .east => { x with east := f x.east } | .west => { x with west := f x.west }

/-- A die's outbound arc direction. -/
def outOf (d : DieRegs) : Dir → ArcDir
  | .east => d.outE
  | .west => d.outW

/-- A die's outbound arc direction changed. -/
def updOut (s : State) (d : Nat) (dir : Dir) (f : ArcDir → ArcDir) : State :=
  updDie s d fun x => match dir with | .east => { x with outE := f x.outE } | .west => { x with outW := f x.outW }

/-! ### Ways of the die cache (R133 to R135) -/

/-- The slice and set of a line. -/
def cacheSlot (l : Nat) : Nat := l / 8 % 16 * 512 + Config.cacheSet l % 512

/-- Ways that serve as cache. -/
def cacheWays (d : DieRegs) : Nat := 16 - d.sweepWays - d.stageWays

/-- The most recent lines of each set that its ways hold. -/
def keepWays (ways : Nat) : List Nat → List Nat → List Nat
  | [], _ => []
  | l :: r, seen =>
    if seen.countP (fun k => cacheSlot k = cacheSlot l) < ways then l :: keepWays ways r (l :: seen) else keepWays ways r seen

/-- The ways of a die change: cache lines in ways that pass into a reserve are gone, which ones lie there the spec leaves open, and no set
keeps more lines than its ways hold. -/
def setWays (s : State) (d : Nat) (f : DieRegs → DieRegs) : State :=
  let x := f (s.dies.get d)
  if cacheWays (s.dies.get d) ≤ cacheWays x then updDie s d f
  else
    let l := (s.dies.get d).lines
    let kept := (l.zipIdx.filter fun p => Config.freePick (s.free + p.2) 2 = 0).map (·.1)
    { updDie s d fun y => { f y with lines := keepWays (cacheWays x) kept [] } with free := s.free + l.length }

/-- The sweep-reserve ways of a die. -/
def setSweepWays (s : State) (n d : Nat) : State := setWays s d fun x => { x with sweepWays := n }

/-- Whether the sweep reserve and the credits exist: some slot is in sweep mode (R188). -/
def sweepOn (s : State) : Bool := s.md.slots.any fun p => p.2.mode = 1

/-- A ring engine with empty buffers at the start of a pass; `full` is what it holds in credits. -/
def freshRing (full : Tbl Nat) : RingDir := { credits := full }

/-- The credits that a die holds in a direction at a quiet point with whole ledgers. -/
def fullCredits (s : State) (d : Nat) (dir : Dir) : Tbl Nat :=
  if sweepOn s && (nextDie s d dir).isSome && dieUp s d then quotas s.md.epoch.line.isSome s.md.pass.bwd dir else []

/-- A die takes up the configuration in force: reserve, credits, line position, slot modes, epoch number (R188, R210). -/
def holdConfig (s : State) (d : Nat) : State :=
  let s := setSweepWays s (if sweepOn s then 8 else 0) d
  updDie s d fun x => { x with
    epoch := s.md.epoch.num
    line := s.md.epoch.line.isSome
    pos := match s.md.epoch.line with | some r => linePos r d | none => 0
    slotMode := (List.range 8).foldl (fun t k => Tbl.set t k (s.md.slots.get k).mode) []
    east := freshRing (fullCredits s d .east)
    west := freshRing (fullCredits s d .west) }

/-- Every die at a quiet point with no frame of any pass: buffers, arcs and exchanges empty, credits whole. -/
def clearRings (s : State) : State :=
  (List.range 8).foldl (fun s d =>
    updDie s d fun x => { x with
      east := freshRing (fullCredits s d .east)
      west := freshRing (fullCredits s d .west)
      outE := {}
      outW := {}
      xruns := []
      xwaits := []
      xkept := []
      grads := []
      taken := 0
      passDone := false }) s

/-- The pass in flight takes its reference on its generation with what it emits first (R173, R215). -/
def takePassRef (s : State) : State :=
  let p := s.md.pass
  if p.ref || !p.running then s
  else
    let s := updGen (addRef s p.slot p.gen) p.slot p.gen fun x => { x with inFlight := x.inFlight + 1 }
    { s with md := { s.md with pass := { p with ref := true } } }

/-- The pass in flight gives back its reference on its generation. -/
def endPassRef (s : State) : State :=
  let p := s.md.pass
  if p.ref then
    dropRef (updGen { s with md := { s.md with pass := { p with ref := false } } } p.slot p.gen fun x => { x with inFlight := x.inFlight - 1 }) p.slot p.gen
  else s

/-- The running pass is over: its reference, its score buffers (R201) and BWD (R187) are gone. -/
def stopPass (s : State) : State :=
  let s := endPassRef s
  let p := s.md.pass
  let s := p.score.foldl (fun s f => freeFrames s p.slot f.1 f.2) s
  { s with
    dies := s.dies.mapAll fun _ x => { x with bwd := false }
    md := { s.md with pass := { p with running := false, done := [], score := [] } } }

/-- What a tile holds of the pass that ends: bytes in its ring-engine ports, run entries in its queues and the TODs listed by one. -/
def dropStream (x : Tile) : Tile :=
  pruneGather { x with
    ports := (x.ports.set 16 []).set 17 []
    queues := x.queues.mapAll fun _ l => l.filter fun e => e.kind ≠ 0
    window := x.window.filter fun w => !(w.listed && w.launch.isNone) }

/-- The running pass ends on every die without commit words: its partial results are discarded (R175, R182, R241). -/
def abandonPass (s : State) : State :=
  let s := stopPass { s with tiles := if s.md.pass.running then s.tiles.mapAll fun _ x => dropStream x else s.tiles }
  clearRings { s with md := { s.md with loops := s.md.loops.map fun l => { l with running := false, tree := [], qs := [] } } }

/-- Whether the ring is quiet (R168): nothing in flight on an arc. -/
def quiet (s : State) : Bool :=
  (List.range 8).all fun d =>
    let x := s.dies.get d
    x.outE.q.isEmpty && x.outW.q.isEmpty && x.outE.svc.isEmpty && x.outW.svc.isEmpty

/-- Whether the arcs of one die are quiet: nothing from it or to it is in flight (R208). -/
def quietAt (s : State) (d : Nat) : Bool :=
  let empty := fun (o : ArcDir) => o.q.isEmpty && o.svc.isEmpty
  empty (s.dies.get d).outE && empty (s.dies.get d).outW && empty (s.dies.get ((d + 7) % 8)).outE && empty (s.dies.get ((d + 1) % 8)).outW

/-- A header fault (R175): reported against the arc it arrived on by the caller; the pass is abandoned and re-run. -/
def headerFault (s : State) : State := abandonPass s

end Sys2Proof.Machine
end

