-- ==== Sys2Proof/Machine/Weights.lean ====
section
/-!
DEFINITION. The weights of a generation as the die stacks store them: the cut into home shards, segments, column groups and runs (R150
to R154, R283), their HBM3 frames (R144, R155, R251, R252), their slices in SWS (R142, R143, R219), level tables (R42, R173), and what
a re-cut moves (R179).
-/

namespace Sys2Proof.Machine

/-! ### The cut (R150 to R154, R283) -/

/-- The dies that own a shard of a cut. -/
def cutDies (cut : Option Nat) : List Nat := (List.range 8).filter fun d => some d ≠ cut

/-- The part of a tensor that lies in one run: the tensor's index, its first column and its columns. -/
structure Piece where
  idx : Nat
  ten : Tensor
  col : Nat
  n : Nat
  deriving DecidableEq, Repr, Inhabited

/-- The columns of a tensor in a home shard (R150): parts of what the module keeps of it (R456) that differ by at most one column. -/
def shardCols (cut : Option Nat) (d : Nat) (t : Tensor) : Nat × Nat :=
  let c := shardOf cut d
  let w := t.part.getD (0, t.cols)
  (cutAt c.1 w.1 w.2 c.2, cutAt c.1 w.1 w.2 (c.2 + 1))

/-- The pieces of a run (R152): the columns of a column group in each matrix of the segment, matrices in the directory's order. -/
def runPieces (m : ModelInfo) (cut : Option Nat) (d layer seg h : Nat) : List Piece :=
  m.tensors.zipIdx.filterMap fun (t, i) =>
    let c := shardCols cut d t
    let a := cutAt 32 c.1 c.2 h
    let b := cutAt 32 c.1 c.2 (h + 1)
    if t.weight && t.layer = layer && t.seg = seg && decide (a < b) then some ⟨i, t, a, b - a⟩ else none

/-- Groups of 128 weights of a piece. -/
def Piece.groups (p : Piece) : Nat := ceilDiv p.ten.rows 128 * p.n

/-- The tensor's group that is the piece's group `j`, in the order of R74 within both. -/
def Piece.groupOf (p : Piece) (j : Nat) : Nat := j / p.n * p.ten.cols + p.col + j % p.n

/-- The stored tensor of a delta generation, if it is a DELTA tensor. -/
def deltaOf (g : Gen) (i : Nat) : Option DTensor := g.delta.find? fun t => t.idx = i && t.kind = .delta

/-- Bytes of one stored group of a piece: none for a tensor that a delta generation shares. -/
def unitLen (g : Gen) (p : Piece) : Nat :=
  if g.base.isNone then groupBytes p.ten.fmt else if (deltaOf g p.idx).isSome then 34 else 0

/-- Stored groups of a piece: a DELTA tensor's run is padded to whole blocks of 32 (R283). -/
def units (g : Gen) (p : Piece) : Nat := if g.base.isNone then p.groups else ceilDiv p.groups 32 * 32

/-- Bytes of a piece as stored. -/
def pieceLen (g : Gen) (p : Piece) : Nat := units g p * unitLen g p

/-- Bytes of pieces as stored. -/
def piecesLen (g : Gen) (l : List Piece) : Nat := (l.map (pieceLen g)).foldl (· + ·) 0

/-- The segments of a model in pass order (R151). -/
def segOrder (m : ModelInfo) : List (Nat × Nat) := (List.range m.layers).flatMap fun l => (List.range 16).map fun q => (l, q)

/-- The pieces of one of a generation's runs. -/
def genPieces (g : Gen) (d layer seg h : Nat) : List Piece := runPieces g.info g.cut d layer seg h

/-- Bytes of a run as stored. -/
def runLen (g : Gen) (d layer seg h : Nat) : Nat := piecesLen g (genPieces g d layer seg h)

/-- Bytes of a column group as stored: its runs in pass order, one after another. -/
def groupLen (g : Gen) (d h : Nat) : Nat := ((segOrder g.info).map fun q => runLen g d q.1 q.2 h).foldl (· + ·) 0

/-- Where a run begins in its column group's bytes. -/
def runStart (g : Gen) (d layer seg h : Nat) : Nat :=
  (((segOrder g.info).filter fun q => decide (q.1 * 16 + q.2 < layer * 16 + seg)).map fun q => runLen g d q.1 q.2 h).foldl (· + ·) 0

/-- The pieces of a run with the place of each in its column group's bytes. -/
def placedPieces (g : Gen) (d layer seg h : Nat) : List (Nat × Piece) :=
  ((genPieces g d layer seg h).foldl (fun (r : List (Nat × Piece) × Nat) p => (r.1 ++ [(r.2, p)], r.2 + pieceLen g p)) ([], runStart g d layer seg h)).1

/-- One stored group of 128 weights: its column group, its place there, its tensor, its group in the tensor (none pads a block), its bytes. -/
structure Unit_ where
  h : Nat
  off : Nat
  idx : Nat
  grp : Option Nat
  len : Nat
  deriving DecidableEq, Repr, Inhabited

/-- Every group that die `d` stores of a generation. -/
def shardUnits (g : Gen) (d : Nat) : List Unit_ :=
  (List.range 32).flatMap fun h => (segOrder g.info).flatMap fun q => (placedPieces g d q.1 q.2 h).flatMap fun p =>
    (List.range (units g p.2)).filterMap fun j =>
      if unitLen g p.2 = 0 then none
      else some ⟨h, p.1 + j * unitLen g p.2, p.2.idx, if j < p.2.groups then some (p.2.groupOf j) else none, unitLen g p.2⟩

/-- A group of a tensor with the normalisation gain of its rows folded in (R193); the rest stands as loaded. -/
def foldedGroup (g : Gen) (t : Tensor) (j : Nat) (b : Bytes) : Bytes :=
  match t.gain with
  | none => b
  | some i =>
    let x := g.info.tensors.getD i default
    let l := bytesAt g.bytes (x.off + j / t.cols * 128 * elemBytes x.fmt) (128 * elemBytes x.fmt)
    (List.range b.length).map (Config.foldGain t.fmt l b)

/-- The bytes of a group as the generation is stored; a group that pads a block has scale +0.0 (R283). -/
def unitBytes (g : Gen) (u : Unit_) : Bytes :=
  match u.grp with
  | none => List.replicate u.len 0
  | some j =>
    let t := g.info.tensors.getD u.idx default
    if g.base.isNone then foldedGroup g t j (bytesAt g.bytes (t.off + u.len * j) u.len)
    else bytesAt (((deltaOf g u.idx).map (·.data)).getD []) (u.len * j) u.len

/-! ### HBM3 frames (R144, R155, R251, R252) -/

/-- Whether a column group belongs to the east half of its shard (R153). -/
def eastHalf (h : Nat) : Bool := decide (h < 16)

/-- Where a column group begins in its half's bytes. -/
def halfStart (g : Gen) (d h : Nat) : Nat := (((List.range h).filter fun i => eastHalf i = eastHalf h).map (groupLen g d)).foldl (· + ·) 0

/-- Bytes of a half. -/
def halfLen (g : Gen) (d : Nat) (east : Bool) : Nat := (((List.range 32).filter fun h => eastHalf h = east).map (groupLen g d)).foldl (· + ·) 0

/-- The frames of a half. -/
def Shard.frames (x : Shard) (east : Bool) : List Nat := if east then x.east else x.west

/-- The key of module memory of byte `o` of a column group's copy in HBM3. -/
def shardKey (g : Gen) (d h o : Nat) : Nat :=
  let p := halfStart g d h + o
  dieKey d (((g.shards.get d).frames (eastHalf h)).getD (p / 4096) 0 + p % 4096)

/-- Frames of a die that weights or KV pools hold. -/
def usedFrames (s : State) (d : Nat) : List Nat :=
  (s.md.poolSet.flatMap fun p => if p.1 % 8 = d && !(s.md.slots.get (p.1 / 8)).gens.isEmpty then p.2 else []) ++
    s.md.slots.flatMap fun k => k.2.gens.flatMap fun g => (g.shards.get d).east ++ (g.shards.get d).west

/-- Whether Rosha may allocate a frame: below the reserve and in no retired pseudo-channel. -/
def mayHold (s : State) (d a : Nat) : Bool := a % 4096 = 0 && hbmExtent s d a 4096

/-- The frames that carry a half, in ascending address: address bit 13 set for the east half (R251). -/
def halfFrame (east : Bool) (i : Nat) : Nat := 4096 * (i / 2 * 4 + (if east then 2 else 0) + i % 2)

/-- `n` free frames for a half, the lowest ones. Among 64 frames of a half each pseudo-channel of its stacks occurs once. -/
def pickFrames (s : State) (d : Nat) (east : Bool) (n : Nat) : Option (List Nat) :=
  if n = 0 then some []
  else
    let used := usedFrames s d
    let l := ((List.range (64 * (n + used.length))).map (halfFrame east)).filter fun a => mayHold s d a && !used.contains a
    if n ≤ l.length then some (l.take n) else none

/-- Bytes of module memory written at the listed keys. -/
def storeKeys (s : State) (ks : List Nat) (b : Bytes) : State := (ks.zip b).foldl (fun s p => storeClean s p.1 [p.2]) s

/-- The keys of bytes `o` to `o + n - 1` of a column group in HBM3. -/
def shardKeys (g : Gen) (d h o n : Nat) : List Nat := (List.range n).map fun i => shardKey g d h (o + i)

/-- The groups of a shard that `keep` admits written to its frames with the bytes that `b` gives. -/
def storeUnits (s : State) (g : Gen) (d : Nat) (b : Unit_ → Bytes) (keep : Unit_ → Bool) : State :=
  ((shardUnits g d).filter keep).foldl (fun s u => storeKeys s (shardKeys g d u.h u.off u.len) (b u)) s

/-- The groups of a shard that `keep` admits written to its frames. -/
def storeShard (s : State) (g : Gen) (d : Nat) (keep : Unit_ → Bool) : State := storeUnits s g d (unitBytes g) keep

/-- Frames for a die's shard of a generation; it is not whole while HBM3 has too few. -/
def takeShard (s : State) (g : Gen) (d : Nat) : Gen :=
  match pickFrames s d true (ceilDiv (halfLen g d true) 4096), pickFrames s d false (ceilDiv (halfLen g d false) 4096) with
  | some e, some w => { g with shards := g.shards.set d ⟨e, w, true, false, []⟩ }
  | _, _ => { g with shards := g.shards.set d default }

/-- Whether every shard of the topology in force is stored. -/
def genWhole (s : State) (g : Gen) : Bool := g.cut = s.md.epoch.line && (cutDies g.cut).all fun d => (g.shards.get d).ok && !dieOut s d

/-- A generation's shards cut for the topology in force and stored in HBM3 with the bytes that `b` gives. -/
def layWith (s : State) (g : Gen) (b : Unit_ → Bytes) : State × Gen :=
  let g := ((cutDies s.md.epoch.line).filter fun d => !dieOut s d).foldl (fun g d => takeShard s g d) { g with cut := s.md.epoch.line, shards := [] }
  let s := (cutDies g.cut).foldl (fun s d => if (g.shards.get d).ok then storeUnits s g d b fun _ => true else s) s
  (s, { g with whole := genWhole s g })

/-- A generation's shards cut for the topology in force and stored in HBM3 (R144, R150). -/
def layGen (s : State) (g : Gen) : State × Gen := layWith s g (unitBytes g)

/-! ### A re-cut (R179) -/

/-- Columns that two spans share. -/
def shared (a b : Nat × Nat) : Nat := min a.2 b.2 - max a.1 b.1

/-- Bytes that a re-cut moves from die `a`, by the old cut, to die `b`, by the new one. -/
def movedBytes (g : Gen) (old new : Option Nat) (a b : Nat) : Nat :=
  (g.info.tensors.map fun t => if t.weight then shared (shardCols old a t) (shardCols new b t) * ceilDiv t.rows 128 * groupBytes t.fmt else 0).foldl (· + ·) 0

/-- The surviving data crosses the arcs to its new owners. -/
def crossCut (s : State) (g : Gen) (old new : Option Nat) : State :=
  (cutDies old).foldl (fun s a => (cutDies new).foldl (fun s b =>
    if a = b || !dieUp s a || !dieUp s b || movedBytes g old new a b = 0 then s else crossArcs s a b (movedBytes g old new a b)) s) s

/-- Whether a group lies in the share that die `r` had by the ring's cut. -/
def lostUnit (g : Gen) (r : Nat) (u : Unit_) : Bool :=
  let t := g.info.tensors.getD u.idx default
  match u.grp with
  | some j => decide ((shardCols none r t).1 ≤ j % t.cols) && decide (j % t.cols < (shardCols none r t).2)
  | none => false

/-- A generation of the ring re-cut for the line: the surviving data moves; it stays incomplete while the retired die's share is not
reachable. -/
def recutLine (s : State) (r : Nat) (g : Gen) (reach : Bool) : State × Gen :=
  let s := crossCut s g g.cut (some r)
  let g := (cutDies (some r)).foldl (fun g d => takeShard s g d) { g with cut := some r, shards := [] }
  let s := (cutDies (some r)).foldl (fun s d => if (g.shards.get d).ok then storeShard s g d fun u => reach || !lostUnit g r u else s) s
  (s, { g with whole := reach && genWhole s g })

/-- The share that a re-cut lacked arrives: what the line needs of it is stored (R483). -/
def restoreGen (s : State) (g : Gen) : State × Gen :=
  match g.cut with
  | some r =>
    let s := (cutDies g.cut).foldl (fun s d => if (g.shards.get d).ok then storeShard s g d (lostUnit g r) else s) s
    (s, { g with whole := genWhole s g })
  | none => layGen s g

/-- A generation cut for a line goes back to the ring's cut. -/
def recutRing (s : State) (g : Gen) : State × Gen :=
  match g.cut with
  | some r => if g.whole then layGen (crossCut s g (some r) none) g else layGen s g
  | none => (s, { g with whole := genWhole s g })

/-! ### SWS (R142, R143, R219) -/

/-- The tile of a die that applies a column group travelling in a direction: its own, or where that is retired the first tile of the die
in service that receives groups in the same direction (R154). -/
def dirTile (s : State) (d h : Nat) (dir : Dir) : Nat :=
  let up := fun n => !(s.tiles.get (32 * d + n)).retired
  if up h then h else ((dirGroups s.md.epoch.line.isSome dir).find? up).getD h

/-- The tile above the sectors that hold a column group. -/
def sectorOf (s : State) (d h : Nat) : Nat := dirTile s d h (if eastHalf h then .east else .west)

/-- The spans of SWS that resident shards of a die take: first offset, end. -/
def slicesOn (s : State) (d : Nat) : List (Nat × Nat) :=
  s.md.slots.flatMap fun k => k.2.gens.flatMap fun g =>
    let x := g.shards.get d
    if x.resident then (List.range 32).map fun h => (x.sws.get h, x.sws.get h + groupLen g d h) else []

/-- Bytes of a sector of both layers (R140, R254). -/
def sectorLen : Nat := 0x8000000

/-- The spans in one sector, from the sector's start. -/
def sliceIn (s : State) (d n : Nat) : List (Nat × Nat) :=
  ((slicesOn s d).filter fun e => decide (e.1 < e.2) && e.1 / sectorLen = n).map fun e => (e.1 - n * sectorLen, e.2 - n * sectorLen)

/-- The lowest place of `len` bytes beside the spans of a sector, at a row of SWS-L: rows then alternate between the layers (R142). -/
def freeSlice (used : List (Nat × Nat)) (len : Nat) : Option Nat :=
  (sortBy (fun a b => decide (a ≤ b)) (0 :: used.map fun e => ceilDiv e.2 16384 * 16384)).find? fun o =>
    decide (o + len ≤ sectorLen) && used.all fun e => decide (o + len ≤ e.1) || decide (e.2 ≤ o)

/-- Offsets in SWS of the column groups that a tile applies, one after another, if its sectors hold them. -/
def placeSector (s : State) (g : Gen) (d n : Nat) : Option (List (Nat × Nat)) :=
  let hs := (List.range 32).filter fun h => sectorOf s d h = n
  let len := (hs.map (groupLen g d)).foldl (· + ·) 0
  (freeSlice (sliceIn s d n) len).map fun o =>
    (hs.foldl (fun (r : List (Nat × Nat) × Nat) h => (r.1 ++ [(h, r.2)], r.2 + groupLen g d h)) ([], n * sectorLen + o)).1

/-- A whole shard's offsets, if every sector holds its slice. -/
def placeShard (s : State) (g : Gen) (d : Nat) : Option (Tbl Nat) :=
  (List.range 32).foldl (fun r n => r.bind fun t => (placeSector s g d n).map fun l => l.foldl (fun t p => Tbl.set t p.1 p.2) t) (some [])

/-- The resident region of a die as its slices take it: from each sector's start to the row of SWS-L after its last slice. -/
def residentEnd (s : State) (d n : Nat) : Nat := ceilDiv (((sliceIn s d n).map (·.2)).foldl max 0) 16384 * 16384

/-- SWS_PART.RES_8M after a change. -/
def setResident (s : State) (d : Nat) : State :=
  updDie s d fun x => { x with res8m := ceilDiv (((List.range 32).map (residentEnd s d)).foldl (· + ·) 0) 0x800000 }

/-- The key of byte `o` of a column group in SWS. -/
def swsKey (x : Shard) (d h o : Nat) : Nat := dieKey d (swsBase + x.sws.get h + o)

/-- A die's slices filled from the backing copy. -/
def fillSws (s : State) (g : Gen) (d : Nat) : State :=
  (List.range 32).foldl (fun s h =>
    (List.range (groupLen g d h)).foldl (fun s o => storeMod s (swsKey (g.shards.get d) d h o) (loadMod s (shardKey g d h o) 1)) s) s

/-- Whether a generation may lie in SWS: of a slot in moored mode, whole, no delta, and in no window of the host tier. -/
def maySit (x : Slot) (g : Gen) : Bool := x.mode = 2 && g.base.isNone && g.whole && g.window.isNone

/-- Whether a resident generation's slices no longer lie beneath the tiles that apply them. -/
def displaced (s : State) (g : Gen) : Bool :=
  (upDies s).any fun d => (g.shards.get d).resident && (List.range 32).any fun h => decide (0 < groupLen g d h) && (g.shards.get d).sws.get h / sectorLen ≠ sectorOf s d h

/-- A generation leaves SWS: its slices pass to the staging region, their contents unchanged. -/
def unseat (s : State) (k : Nat) (g : Gen) : State :=
  (upDies s).foldl setResident (updGen s k g.num fun x => { x with shards := x.shards.mapAll fun _ y => { y with resident := false, sws := [] } })

/-- A generation enters SWS where the shard of every die stack in service fits, else it stays in HBM3 (R143). -/
def seat (s : State) (k : Nat) (g : Gen) : State :=
  let ds := upDies s
  match ds.foldl (fun r d => r.bind fun l => (placeShard s g d).map fun t => l ++ [(d, t)]) (some []) with
  | none => s
  | some l =>
    let g := l.foldl (fun g p => { g with shards := g.shards.upd p.1 fun x => { x with resident := true, sws := p.2 } }) g
    let s := updGen s k g.num fun x => { x with shards := g.shards }
    ds.foldl setResident (ds.foldl (fun s d => fillSws s g d) s)

/-- The residency of one generation brought up to date (R142, R143, R219). -/
def reseat (k : Nat) (s : State) (n : BitVec 16) : State :=
  let x := s.md.slots.get k
  match genOf s k n with
  | none => s
  | some g =>
    let in_ := (upDies s).any fun d => (g.shards.get d).resident
    if in_ && maySit x g && !displaced s g then s
    else
      let s := if in_ then unseat s k g else s
      match genOf s k n with
      | some g => if maySit x g && decide (0 < ((upDies s).map fun d => halfLen g d true + halfLen g d false).foldl (· + ·) 0) then seat s k g else s
      | none => s

/-- The residency of every generation (R219): older generations first. -/
def seatAll (s : State) : State :=
  (upDies s).foldl setResident ((List.range 8).foldl (fun s k => ((s.md.slots.get k).gens.map (·.num)).foldl (reseat k) s) s)

/-! ### The slices of an output row (R152, R154, R230) -/

/-- The columns of a row of `v` that a column group of die `d`'s shard holds: first column, columns. -/
def groupSpan (s : State) (v d h : Nat) : Nat × Nat :=
  let c := shardOf s.md.epoch.line d
  let lo := cutAt c.1 0 v c.2
  let hi := cutAt c.1 0 v (c.2 + 1)
  (cutAt 32 lo hi h, cutAt 32 lo hi (h + 1) - cutAt 32 lo hi h)

/-- Which spans of a row of `v` columns each tile that applied its weights holds, in ascending column and tile number: every tile in
service in moored mode, those of the home die in sweep mode. -/
def rowSlices (s : State) (mode home v : Nat) : List (List (Nat × Nat)) :=
  let groups := fun d n => (List.range 32).filter fun h => sectorOf s d h = n
  let asc := sortBy fun a b : Nat × Nat => decide (a.1 ≤ b.1)
  if mode = 2 then (upDies s).flatMap fun d => (List.range 32).map fun n => asc ((groups d n).map (groupSpan s v d))
  else (List.range 32).map fun n => asc ((cutDies s.md.epoch.line).flatMap fun d => (groups home n).map (groupSpan s v d))

/-! ### Level tables (R42, R173, R285) -/

/-- The level blocks of a generation by tensor index: a TQ tensor's own table; for a DELTA tensor the delta's table and, from byte 8 on,
its base's. -/
def levelBlocks (g : Gen) : List (Nat × Bytes) :=
  g.info.tensors.zipIdx.filterMap fun (t, i) =>
    match deltaOf g i with
    | some x => some (i, bytesAt x.levels 0 8 ++ t.levels)
    | none => if g.base.isNone && !t.levels.isEmpty then some (i, t.levels) else none

/-- The level blocks placed in the scratchpad of every tile in service. -/
def placeLevels (s : State) (k : Nat) (g : Gen) : State :=
  let l := levelBlocks g
  if l.isEmpty then s
  else ((upDies s).flatMap (upTiles s)).foldl (fun s t => l.foldl (fun s b =>
    storeClean s (tileKey t (Config.levelPlace k g.num.toNat b.1 % (0x800000 - b.2.length))) b.2) s) s

/-! ### Where stored weights lie -/

/-- A byte of a generation's shard: its die, column group and place there. -/
structure WPlace where
  gen : Gen
  slot : Nat
  h : Nat
  off : Nat
  deriving DecidableEq, Repr, Inhabited

/-- The generations with their slots. -/
def allGens (s : State) : List (Nat × Gen) := s.md.slots.flatMap fun k => k.2.gens.map fun g => (k.1, g)

/-- The weight byte that a die-local HBM3 address backs, if one lies there. -/
def hbmWeight (s : State) (d a : Nat) : Option WPlace :=
  (allGens s).findSome? fun (k, g) => [true, false].findSome? fun east =>
    (indexOf (fun f => a / 4096 * 4096 = f) ((g.shards.get d).frames east)).bind fun i =>
      let p := 4096 * i + a % 4096
      ((List.range 32).find? fun h => eastHalf h = east && decide (halfStart g d h ≤ p) && decide (p < halfStart g d h + groupLen g d h)).map
        fun h => ⟨g, k, h, p - halfStart g d h⟩

/-- The weight byte that lies at an offset of a die's SWS. -/
def swsWeight (s : State) (d o : Nat) : Option WPlace :=
  (allGens s).findSome? fun (k, g) =>
    let x := g.shards.get d
    if !x.resident then none
    else ((List.range 32).find? fun h => decide (x.sws.get h ≤ o) && decide (o < x.sws.get h + groupLen g d h)).map fun h => ⟨g, k, h, o - x.sws.get h⟩

/-- Whether an address lies in memory that Rosha keeps for weights with a second copy: in a frame of a resident shard, or in the
resident region of SWS. -/
def doubled (s : State) (d a : Nat) : Bool :=
  if a < swsBase then (allGens s).any fun p => let x := p.2.shards.get d; x.resident && (x.east ++ x.west).contains (a / 4096 * 4096)
  else decide ((a - swsBase) % sectorLen < residentEnd s d ((a - swsBase) / sectorLen))

/-- The key of the other copy of a weight byte, in SWS or in HBM3. -/
def twinKey (s : State) (d a : Nat) : Option Nat :=
  if a < swsBase then (hbmWeight s d a).bind fun w => if (w.gen.shards.get d).resident then some (swsKey (w.gen.shards.get d) d w.h w.off) else none
  else (swsWeight s d (a - swsBase)).map fun w => shardKey w.gen d w.h w.off

/-- The bytes of a block that have a second copy: key and the copy's key. -/
def copiesOf (s : State) (b : Nat) : List (Nat × Nat) :=
  (List.range 64).filterMap fun i => (twinKey s (64 * b / 2 ^ 48) (64 * b % 2 ^ 48 + i)).map fun k => (64 * b + i, k)

/-- Whether a block holds resident weights alone and their second copies read without error (R145, R258). -/
def copiesGood (s : State) (b : Nat) : Bool :=
  ((List.range 64).all fun i => doubled s (64 * b / 2 ^ 48) (64 * b % 2 ^ 48 + i)) && !(copiesOf s b).isEmpty && (copiesOf s b).all fun p => !markAt s (p.2 / 64)

/-- A block with its weights written anew from their second copies, without a mark. -/
def recopy (s : State) (b : Nat) : State :=
  let l := copiesOf s b
  let old := plain (loadMod s (64 * b) 64)
  let new := old.zipIdx.map fun p => match l.find? fun c => c.1 = 64 * b + p.2 with | some c => Mem.read s.mem.mod c.2 | none => p.1
  storeClean s (64 * b) new

end Sys2Proof.Machine
end

