-- ==== Sys2Proof/Machine/Retire.lean ====
section
/-!
DEFINITION. Channels and their buckets (R473 to R479), what retirement and map-out do (R102, R147, R259, R260, R480 to
R482), quarantine (R488), the fog message a module sends (R460, R489), and the handling of memory errors met by a read
(R124, R145, R258).
-/

namespace Sys2Proof.Machine

/-! ### Buckets -/

/-- Default policies of the buckets (R477): kind, bucket. -/
def defaultPolicy (kind b : Nat) : Option Policy :=
  match kind, b with
  | 2, 0 => some ⟨1000, 10, 1⟩
  | 2, 1 => some ⟨2, 3600, 4⟩
  | 3, 0 => some ⟨1000, 10, 1⟩
  | 3, 1 => some ⟨2, 3600, 4⟩
  | 4, 0 => some ⟨1, 0, 4⟩
  | 5, 0 => some ⟨16, 86400, 2⟩
  | 8, 0 => some ⟨3, 3600, 4⟩
  | _, _ => none

/-- The policy in force for a bucket. -/
def policyOf (s : State) (kind b : Nat) : Option Policy :=
  match s.flt.policies.get (2 * kind + b) with
  | some p => some p
  | none => defaultPolicy kind b

/-- The number of the slice of a window of `w` seconds that holds beacon value `t`: slices of a sixteenth of the window. -/
def sliceOf (w t : Nat) : Nat := t / (w * 9375000)

/-- A bucket at time `t` with `n` more events (R474); a window of 0 never leaks. -/
def bucketAdd (b : Bucket) (w t n : Nat) : Bucket :=
  if w = 0 then { b with slices := [b.slices.foldl (· + ·) 0 + n] }
  else
    let cur := sliceOf w t
    let shifted := (List.replicate (min 16 (cur - b.cur)) 0 ++ b.slices).take 16
    match shifted with
    | [] => ⟨[n], cur⟩
    | a :: r => ⟨(a + n) :: r, cur⟩

/-- A bucket's level. -/
def bucketLevel (b : Bucket) : Nat := b.slices.foldl (· + ·) 0

/-- The bucket of a channel. -/
def bucketOf (s : State) (c : W64) (b : Nat) : Bucket :=
  ((s.flt.buckets.find? fun p => p.1 = c && p.2.1 = b).map (·.2.2)).getD {}

/-- The bucket of a channel set. -/
def setBucket (s : State) (c : W64) (b : Nat) (x : Bucket) : State :=
  { s with flt := { s.flt with buckets := (s.flt.buckets.filter fun p => !(p.1 = c && p.2.1 = b)) ++ [(c, b, x)] } }

/-- `n` events of bucket `b` of channel `c`: counted and logged, a retrain by its own record; when the level exceeds N the policy's action,
unless it is NONE, is due with the level it had, which falls to 0. -/
def bump (s : State) (c : W64) (b n : Nat) : State × Option (Nat × Nat) :=
  let kind := rfld c 63 56
  match policyOf s kind b with
  | none => (s, none)
  | some p =>
    let x := bucketAdd (bucketOf s c b) p.w (now s).toNat n
    let l := bucketLevel x
    let s := if b = 0 then flog s { kind := 1, channel := c, level := l } else s
    if p.n < l && p.action ≠ 0 then (setBucket s c b { x with slices := [] }, some (p.action, l))
    else (setBucket s c b x, none)

/-- A bucket whose window changes from `old` to `new` seconds at time `t` keeps its level (R478). -/
def rewindow (b : Bucket) (old new t : Nat) : Bucket :=
  { slices := [bucketLevel (bucketAdd b old t 0)], cur := if new = 0 then 0 else sliceOf new t }

/-- An action is logged (R493). -/
def logAction (s : State) (c : W64) (action level : Nat) : State := flog s { kind := 2, action := action, channel := c, level := level }

/-- A stuck condition is logged with its action (R475). -/
def logStuck (s : State) (c : W64) (action : Nat) : State := flog s { kind := 3, action := action, channel := c }

/-- A retire record is written commit last in flash unless PWR_ALERT# is asserted (R480, R495). -/
def persistRetire (s : State) (c : W64) : State :=
  if s.pins.alert || s.flt.retired.contains c then s else { s with flt := { s.flt with retired := s.flt.retired ++ [c] } }

/-- A row-map record likewise, of a row and its spare (R147, R259). -/
def persistRow (s : State) (c : W64) (spare : Nat) : State := { s with flt := { s.flt with rowMaps := s.flt.rowMaps ++ [(c, spare)] } }

/-! ### Fog (R460, R489) -/

/-- The module's own fog message. -/
def ownFog (s : State) (cause : Nat) : Fog where
  group := s.pins.group
  module := s.pins.casc
  sercrc := crc32c ownSerial
  bootEpoch := s.boot.bootEpoch
  cause := BitVec.ofNat 8 cause

/-- A fog message goes out on every UP port and is logged; without a port nothing leaves. -/
def sendFog (s : State) (cause : Nat) : State :=
  let s := if (portsUp s).isEmpty then s else emit s (.fog (ownFog s cause))
  flog s { kind := 6, cause := cause, expect := BitVec.ofNat 64 (s.pins.group.toNat * 256 + s.pins.casc.toNat) }

/-! ### A Quema die leaves service -/

/-- The channel identifier of a die. -/
def dieChan (d : Nat) : W64 := chanId 9 d

/-- Whether a command has units on a die. -/
def unitsOn (s : State) (d : Nat) (j : JobRef) : Bool :=
  ((ctxsOf s j).any fun p => p.1 / 32 = d) || ((chansOf s j).any fun p => p.1 < 144 && p.1 / 18 = d) ||
    (match getJob s j with
     | some b => (match kernelOf b with | some k => k.dies.contains d | none => false)
     | none => false)

/-- Whether a live sequence loses committed KV entries with a die (R482): homed on it in sweep mode; in moored mode, a KV head
held there and on no other die in service. -/
def seqLost (s : State) (d : Nat) (q : Seq) : Bool :=
  if (s.md.slots.get q.slot).mode = 1 then q.home = d
  else (q.dies.get d).heads.any fun h => !((upDies s).any fun e => e ≠ d && (q.dies.get e).heads.contains h)

/-- The running command of a sequence: its loop, or its prefill. -/
def jobOfSeq (s : State) (ra : W64) : Option JobRef :=
  (s.cp.jobs.find? fun p => match p.2.body with | .decode r => r = ra | .prefill r => r = ra | _ => false).map (·.1)

/-- A sequence is lost with status `x`: its command ends, and what it holds elsewhere is freed. -/
def loseSeq (s : State) (x : Status) (q : Seq) : State :=
  let s := match jobOfSeq s q.ra with | some j => finish s j x 0 | none => s
  if (seqOf s q.ra).isSome then dropSeq s q else s

/-- The dies in service that are prepared and idle (R209). -/
def idleDies (s : State) : List Nat := (upDies s).filter fun d => (s.dies.get d).prepared

/-- The requester of an aborted mode change learns of it; the governor's own proposal waits a dwell period (R205, R211). -/
def tellAbort (s : State) (r : EpochReq) : State :=
  match r with
  | .mode _ _ (some j) => finish s j .modeAborted 0
  | .mode k _ none => updSlot s k fun x => { x with dwell := some (now s) }
  | _ => s

/-- Whether a request is for a change of topology. -/
def EpochReq.topology : EpochReq → Bool
  | .mode _ _ _ => false
  | _ => true

/-- An abort ends when no die is prepared any more and every REVERTED has arrived: the old epoch goes on, and a topology change
that it carried waits again (R211). -/
def endAbort (s : State) : State :=
  let e := s.md.epoch
  if e.phase = .aborting && (idleDies s).isEmpty && e.reverted.isEmpty then
    e.reqs.foldl tellAbort { s with md := { s.md with epoch := { e with phase := .none, reqs := [], prepared := [], refused := [], waiting := e.reqs.filter (·.topology) ++ e.waiting } } }
  else s

/-- The epoch change in progress aborts before its COMMIT (R211): every prepared die will revert. -/
def abortEpoch (s : State) : State :=
  if s.md.epoch.phase = .proposed then
    endAbort { s with md := { s.md with epoch := { s.md.epoch with phase := .aborting, reverted := [] } } }
  else s

/-- The modes of the slots in the epoch to come. -/
def targetMode (s : State) (k : Nat) : Nat :=
  s.md.epoch.reqs.foldl (fun m r => match r with | .mode i n _ => if i = k then n else m | _ => m) (s.md.slots.get k).mode

/-- The retired die of the line in the epoch to come. -/
def targetLine (s : State) : Option Nat :=
  s.md.epoch.reqs.foldl (fun l r => match r with | .line d => some d | .rejoin d => if l = some d then none else l | _ => l) s.md.epoch.line

/-- Whether a slot holds live sequences. -/
def slotLive (s : State) (k : Nat) : Bool := s.md.seqs.any fun q => q.slot = k

/-- MODE_STATUS of every die in service names the settle stage (R220). -/
def showSettle (s : State) : State := (upDies s).foldl (fun s d => updDie s d fun x => { x with settle := true }) s

/-- The weights of every generation laid anew by `f`. -/
def relayGens (s : State) (f : State → Gen → State × Gen) : State :=
  (allGens s).foldl (fun s (k, x) =>
    match genOf s k x.num with
    | some g => let r := f s g; updGen r.1 k g.num fun _ => r.2
    | none => s) s

/-- Whether a member under REPLICA can be read over the tensor links (R483). -/
def replicaNear (s : State) : Bool :=
  s.lk.joined && s.lk.pattern = 1 && s.lk.members.any fun p => p.1 ≠ selfModule s && p.2.valid && !p.2.lost && !p.2.standby

/-- Whether a lost share comes from another module: the twin partner, which mirrors, or a member under REPLICA, whose generation's digest the
spec's words compare and no register here shows. -/
def shareNear (s : State) : Bool := s.lk.twin = .mirror || (replicaNear s && Config.freePick s.free 2 = 1)

/-- What the line of seven without die `r` does to a generation: its shards are cut anew and the surviving data moves (R179); another
module gives the missing share where it has it (R483). One in the host tier is cut when it comes back; a delta generation
keeps its bytes as they are. -/
def relayLine (r : Nat) (s : State) (g : Gen) : State × Gen :=
  if g.window.isSome then (s, g) else if g.base.isSome then (s, { g with whole := false })
  else recutLine { s with free := s.free + 1 } r g (shareNear s)

/-- The same on the way back to the ring. -/
def relayRing (s : State) (g : Gen) : State × Gen := if g.window.isSome then (s, g) else recutRing s g

/-- One request of an epoch takes effect: a slot whose mode changes enters its settle stage (R213); the line asks for a new layout
of every moored slot, whose weights the twin partner gives back where it holds them (R179, R483); a die comes back. -/
def applyReq (s : State) (r : EpochReq) : State :=
  match r with
  | .mode k m job =>
    let change := (s.md.slots.get k).mode ≠ m
    let s := if change && slotLive s k then showSettle s else s
    let s := updSlot s k fun x => { x with mode := m, better := 0, lastCommit := now s, pin := if job.isSome then m else x.pin, settling := x.settling || (change && slotLive s k) }
    match job with
    | some j => if (s.md.slots.get k).settling then s else finish s j .ok 0
    | none => s
  | .line d =>
    let s := showSettle s
    relayGens { s with md := { s.md with
      epoch := { s.md.epoch with line := some d }
      slots := s.md.slots.mapAll fun k x => { x with settling := x.settling || (x.mode = 2 && slotLive s k) } } } (relayLine d)
  | .rejoin d =>
    let s := rePool (updTok (updDie s d fun x => { x with st := .inService, quar := false }) d fun t => { t with held := 120 })
    let s := s.cp.jobs.foldl (fun s p => match p.2.body with | .ctl (.dieReset e) => if e = d then finish s p.1 .ok 0 else s | _ => s) s
    let s := if s.glb.state = 3 && !stopped s then { s with glb := { s.glb with state := 1 } } else s
    let s :=
      if s.md.epoch.line = some d then
        relayGens { showSettle s with md := { s.md with
          epoch := { s.md.epoch with line := none }
          slots := s.md.slots.mapAll fun k x => { x with settling := x.settling || (x.mode = 2 && slotLive s k) } } } relayRing
      else s
    holdConfig s d

/-- The epoch change ends once every die in service has taken the new configuration (R210). -/
def endCommit (s : State) : State :=
  let e := s.md.epoch
  if e.phase = .committing && (upDies s).all fun d => e.committed.contains d then
    let s := { s with md := { s.md with epoch := { e with num := e.num + 1, phase := .none, reqs := [], prepared := [], refused := [], committed := [] } } }
    seatAll (e.reqs.foldl applyReq s)
  else s

/-- The arcs and links of a die leave service with it (R18). -/
def dropJoins (s : State) (d : Nat) (arcSt linkSt : Nat) : State :=
  let s := [d, (d + 7) % 8].foldl (fun s k =>
    if (s.arcs.get k).st = arcSt then s else fire (updArc s k fun a => { a with st := arcSt }) (688 + k)) s
  [3 * d, 3 * d + 1, 3 * d + 2].foldl (fun s n => linkTo s n linkSt) s

/-- Every transfer in flight on the host-data path of an entry die ends with DIE_RETIRED: those of the HDE and those of a die's engines
with the host tier (R20, R21). -/
def hostPathLost (s : State) (d : Nat) : State :=
  if d = 0 ∨ d = 4 then endDescs s (fun e b => hostPath s e b = some d) .dieRetired else s

/-- A die leaves service (R482 steps 1 to 4) in state `st`, its commands ending with `x`. -/
def leaveService (s : State) (d : Nat) (st : DieState) (x : Status) : State :=
  let s := recallAll (hostPathLost s d)
  let lost := s.md.seqs.filter (seqLost s d)
  let s := fire (updDie s d fun r => { r with st := st, quar := st = .quarantined }) 706
  let s := dropJoins s d 3 (if st = .retired then 5 else 0)
  let s := endAbort (abandonPass (abortEpoch s))
  let s := endTransfers s (fun c => c = chipOf s d) x
  let js := (s.cp.jobs.map (·.1)).filter (unitsOn s d)
  let s := js.foldl (fun s j => finish s j x 0) s
  let s := lost.foldl (fun s q => loseSeq s x q) s
  rePool { s with md := { s.md with
    slots := s.md.slots.mapAll fun _ k => { k with gens := k.gens.map fun g => { g with whole := false } }
    seqs := s.md.seqs.map fun q => { q with dies := Tbl.del q.dies d } } }

/-- After a die has left: the first asks for the line of seven (R178, R482 step 5); the second stops work (R22, R489). -/
def afterLeave (s : State) (d : Nat) : State :=
  if stopped s then sendFog { s with glb := { s.glb with state := if s.glb.state = 1 then 3 else s.glb.state } } 0x05
  else { s with md := { s.md with epoch := { s.md.epoch with waiting := s.md.epoch.waiting ++ [.line d] } } }

/-- A Quema die is retired (R482). -/
def retireDie (s : State) (d : Nat) (stuck : Bool) : State :=
  if (s.dies.get d).st = .retired then s
  else
    let was := dieOut s d
    let s := if stuck then logStuck s (dieChan d) 4 else logAction s (dieChan d) 4 0
    let s := persistRetire s (dieChan d)
    if was then dropJoins (updDie s d fun r => { r with st := .retired, quar := false }) d 3 5
    else afterLeave (leaveService s d .retired .dieRetired) d

/-- Beacon cycles of 24 h. -/
def day24 : Nat := 86400 * 150000000

/-- A die is quarantined (R488); a second quarantine within 24 h retires it. -/
def quarantine (s : State) (d : Nat) : State :=
  if dieOut s d then s
  else
    match (s.dies.get d).lastQuar with
    | some t => if (now s - t).toNat ≤ day24 then retireDie s d true
        else afterLeave (updDie (leaveService (logAction s (dieChan d) 5 0) d .quarantined .conservation) d fun r => { r with lastQuar := some (now s) }) d
    | none => afterLeave (updDie (leaveService (logAction s (dieChan d) 5 0) d .quarantined .conservation) d fun r => { r with lastQuar := some (now s) }) d

/-! ### Smaller channels -/

/-- Tiles of a die not retired. -/
def tilesLeft (s : State) (d : Nat) : Nat := ((List.range 32).filter fun n => !((s.tiles.get (32 * d + n)).retired || (s.tiles.get (32 * d + n)).retirePend)).length

/-- A tile is retired (R102, R103); a die with fewer than 24 tiles in service is retired (R477). -/
def retireTile (s : State) (t : Nat) (stuck : Bool) (level : Nat) : State :=
  let c := chanId 8 (t % 32 * 8 + t / 32)
  if (s.tiles.get t).retired || (s.tiles.get t).retirePend then s
  else
    let s := if stuck then logStuck s c 4 else logAction s c 4 level
    let s := updTile (persistRetire s c) t fun x => settleTile { x with retirePend := true }
    if tilesLeft s (t / 32) < 24 then retireDie s (t / 32) true else s

/-- A column is bypassed (R101, R102): a fault in an array whose width is 112 retires the tile. -/
def bypassColumn (s : State) (t : Nat) (arr : Bool) (col : Nat) : State :=
  let x := s.tiles.get t
  let w := if arr then x.w1 else x.w0
  let b := if arr then x.byp1 else x.byp0
  if b.getLsbD col || x.retired then s
  else if w ≤ 112 then retireTile s t true 0
  else
    let s := logStuck s (chanId 7 (col * 512 + bAt arr 8 + t % 32 * 8 + t / 32)) 3
    let m := b ||| (1#128 <<< col)
    updTile s t fun x => if arr then { x with w1 := w - 1, byp1 := m } else { x with w0 := w - 1, byp0 := m }

/-- An arc is retired: one of its two dies is (R481). -/
def retireArc (s : State) (k level : Nat) : State :=
  let c := chanId 3 k
  let a := k
  let b := (k + 1) % 8
  let ta := tilesLeft s a
  let tb := tilesLeft s b
  let host := fun d => d = 0 || d = 4
  let d := if ta < tb then a else if tb < ta then b else if !host a && host b then a else b
  if (s.arcs.get k).st = 3 then s else retireDie (logAction s c 4 level) d true

/-- An arc retrains (R174, R476): the pass it carries is abandoned and re-run; too many retrains retire it. -/
def retrainArc (s : State) (k level : Nat) : State :=
  let c := chanId 3 k
  let s := logAction s c 1 level
  let s := fire (updArc s k fun a => { a with st := 1, retrain := satInc a.retrain 1, flitFails := 0 }) (688 + k)
  match bump (abandonPass s) c 1 1 with
  | (s, some (4, l)) => retireArc s k l
  | (s, _) => s

/-- `n` arc replays are counted (R476). -/
def arcEvents (s : State) (k n : Nat) : State :=
  match bump s (chanId 3 k) 0 n with
  | (s, some (1, l)) => retrainArc s k l
  | (s, _) => s

/-- A link is retired (R448, R480). -/
def retireLink (s : State) (n level : Nat) : State :=
  if (s.lk.links.get n).st = 5 then s else linkTo (logAction s (chanId 2 n) 4 level) n 5

/-- A link retrains (R442): it leaves its port for TRAIN; too many retrains retire it. -/
def retrainLink (s : State) (n level : Nat) : State :=
  let s := logAction s (chanId 2 n) 1 level
  let s := linkTo (updLink s n fun l => { l with retrain := satInc l.retrain 1, flitFails := 0 }) n 1
  match bump s (chanId 2 n) 1 1 with
  | (s, some (4, l)) => retireLink s n l
  | (s, _) => s

/-- `n` link replays are counted (R476). -/
def linkEvents (s : State) (n k : Nat) : State :=
  match bump s (chanId 2 n) 0 k with
  | (s, some (1, l)) => retrainLink s n l
  | (s, _) => s

/-- A lane group is retired (R441); a link without lane groups is retired. -/
def retireLane (s : State) (n : Nat) (g : Bool) (stuck : Bool) : State :=
  let l := s.lk.links.get n
  if (if g then l.lg1Ret else l.lg0Ret) then s
  else
    let s := if stuck then logStuck s (chanId 1 (bAt g 5 + n)) 4 else logAction s (chanId 1 (bAt g 5 + n)) 4 0
    let s := updLink s n fun l => if g then { l with lg1Ret := true } else { l with lg0Ret := true }
    let l := s.lk.links.get n
    if l.lg0Ret && l.lg1Ret then retireLink s n 0 else s

/-! ### HBM3 and SWS rows and pseudo-channels -/

/-- Whether a die-local HBM3 address lies in pseudo-channel `p` of stack `c` (R250). -/
def inPc (c p a : Nat) : Bool := fld a 13 12 = c && fld a 18 14 = p

/-- The physical fault of a block set. -/
def setEcc (s : State) (b v : Nat) : State := { s with mem := { s.mem with ecc := s.mem.ecc.set b v } }

/-- The stored mark of a block set. -/
def setPois (s : State) (b : Nat) : State := { s with mem := { s.mem with pois := s.mem.pois.set b true } }

/-- A block that fails to read: a resident shard's block is taken from its other copy, any other one is delivered poisoned (R145, R258). -/
def badBlock (s : State) (b : Nat) : State :=
  let t := setEcc s b 0
  if copiesGood t b then recopy t b else setPois t b

/-- Blocks of a die's HBM3 that are copied out of a retired pseudo-channel: one that fails to read is copied poisoned, unless its second
copy in SWS is good (R258, R260). -/
def copyFaults (s : State) (c p d : Nat) : State :=
  s.mem.ecc.foldl (fun s e =>
    let a := 64 * e.1 % 2 ^ 48
    if e.2 = 2 && 64 * e.1 / 2 ^ 48 = d && decide (a < swsBase) && inPc c p a then badBlock s e.1 else s) s

/-- The frames of a sequence on a die that lie in a pseudo-channel move to free frames outside it, page by page; table and
directory entries name the new ones (R260). A sequence for which no frame is left keeps the old ones. A draft head's page that is poisoned
marks the sequence as another one does. -/
def movePages (s : State) (c p d : Nat) (q : Seq) : State :=
  let m := infoOf s q.slot q.gen
  let x := q.dies.get d
  let hit := fun a => (List.range (pageFrames m)).any fun i => inPc c p (a + 4096 * i)
  let total := x.groups * m.layers * x.heads.length
  let s := (List.range total).foldl (fun s i =>
    let v := readPte s d x i
    if bitN v 31 && !bitN v 30 && hit (pteAddrOf v) then
      match takeRun ((poolOf s q.slot d).filter fun a => !inPc c p a) (pageFrames m) with
      | some (a, rest) =>
        let bad := anyPois (loadMod s (dieKey d (pteAddrOf v)) (pageBytes m))
        let s := writePte (copyPage (setPool s q.slot d rest) m d (pteAddrOf v) d a) d x i (pteOf a)
        if bad then updSeq s q.ra fun y => { y with pois := true } else s
      | none => s
    else s) s
  let move := fun (put : SeqDie → Nat → Nat → SeqDie) (s : State) (t : Nat × Nat) =>
    if hit t.1 then
      match takeRun ((poolOf s q.slot d).filter fun a => !inPc c p a) (pageFrames m) with
      | some (a, rest) => updSeq (copyPage (setPool s q.slot d rest) m d t.1 d a) q.ra fun y => { y with dies := y.dies.upd d fun z => put z t.2 a }
      | none => s
    else s
  x.draft.zipIdx.foldl (move fun z i a => { z with draft := z.draft.set i a })
    (x.tree.zipIdx.foldl (move fun z i a => { z with tree := z.tree.set i a }) s)

/-- Table frames in a pseudo-channel move, and the directory names the new ones. -/
def moveTables (s : State) (c p d : Nat) (q : Seq) : State :=
  let x := (match seqOf s q.ra with | some y => y | none => q).dies.get d
  let r := x.frames.foldl (fun (r : State × List Nat) f =>
    if inPc c p f then
      match takeRun ((poolOf r.1 q.slot d).filter fun a => !inPc c p a) 1 with
      | some (a, rest) => (storeMod (setPool r.1 q.slot d rest) (dieKey d a) (loadMod r.1 (dieKey d f) 4096), r.2 ++ [a])
      | none => (r.1, r.2 ++ [f])
    else (r.1, r.2 ++ [f])) (s, [])
  let y := { x with frames := r.2 }
  writeDir (updSeq r.1 q.ra fun z => { z with dies := z.dies.set d y }) d y

/-- A directory with a frame in a pseudo-channel moves to other frames. -/
def moveDir (s : State) (c p d : Nat) (q : Seq) : State :=
  let x := (match seqOf s q.ra with | some y => y | none => q).dies.get d
  if (List.range x.dirFrames).any fun i => inPc c p (x.dir + 4096 * i) then
    match takeRun ((poolOf s q.slot d).filter fun a => !inPc c p a) x.dirFrames with
    | some (a, rest) =>
      updSeq (storeMod (setPool s q.slot d rest) (dieKey d a) (loadMod s (dieKey d x.dir) (4096 * x.dirFrames))) q.ra fun z =>
        { z with dies := z.dies.set d { x with dir := a } }
    | none => s
  else s

/-- A frame of a shard in a retired pseudo-channel: its contents go to a free frame of the same half, marks included. -/
def moveFrame (k : Nat) (n : BitVec 16) (d : Nat) (east : Bool) (s : State) (a : Nat) : State :=
  match pickFrames s d east 1 with
  | some (b :: _) =>
    let swap := fun (l : List Nat) => l.map fun f => if f = a then b else f
    updGen (storeMod s (dieKey d b) (loadMod s (dieKey d a) 4096)) k n fun g =>
      { g with shards := g.shards.upd d fun x => if east then { x with east := swap x.east } else { x with west := swap x.west } }
  | _ => updGen s k n fun g => { g with shards := g.shards.upd d fun x => { x with ok := false } }

/-- The moved blocks of a shard that were poisoned: written anew from SWS where the shard is resident, else the shard is not whole. -/
def mendFrame (k : Nat) (n : BitVec 16) (d : Nat) (s : State) (b : Nat) : State :=
  (((List.range 64).map (64 * (dieKey d b / 4096) + ·)).filter (markAt s)).foldl (fun s i =>
    if copiesGood s i then recopy s i else updGen s k n fun g => { g with shards := g.shards.upd d fun x => { x with ok := false } }) s

/-- The frames of every shard that lie in a retired pseudo-channel of a die move (R260). -/
def moveWeights (s : State) (c p d : Nat) : State :=
  let s := (allGens s).foldl (fun s (k, g) =>
    let x := g.shards.get d
    let hit := fun (l : List Nat) => l.filter (inPc c p)
    let s1 := (hit x.west).foldl (moveFrame k g.num d false) ((hit x.east).foldl (moveFrame k g.num d true) s)
    let y := Tbl.get ((genOf s1 k g.num).getD default).shards d
    ((y.east ++ y.west).filter fun f => !(x.east ++ x.west).contains f).foldl (mendFrame k g.num d) s1) s
  { s with md := { s.md with slots := s.md.slots.mapAll fun _ k => { k with gens := k.gens.map fun g =>
    if (g.shards.get d).ok || g.window.isSome || (g.cut == some d) then g else { g with whole := false } } } }

/-- Whether a live sequence holds a frame of a slot's pool on a die. -/
def seqHolds (s : State) (slot d a : Nat) : Bool :=
  s.md.seqs.any fun q => q.slot = slot && !(q.dies.get d).heads.isEmpty && (seqDieFrames s (infoOf s slot q.gen) d (q.dies.get d)).contains a

/-- A pseudo-channel is retired (R260): no frame of it is allocated any more, what lies in it moves to free frames, and the pools lose
it. -/
def retirePc (s : State) (d c p level : Nat) (stuck : Bool) : State :=
  let id := chanId 4 (p * 32 + c * 8 + d)
  if ((s.dies.get d).hbm.get c).pcRetired.getLsbD p then s
  else
    let s := persistRetire (if stuck then logStuck s id 4 else logAction s id 4 level) id
    let s := updDie s d fun x => { x with hbm := x.hbm.upd c fun h => { h with pcRetired := h.pcRetired ||| (1#32 <<< p) } }
    let s := copyFaults s c p d
    let s := s.md.seqs.foldl (fun s q => if (q.dies.get d).heads.isEmpty then s else moveDir (moveTables (movePages s c p d q) c p d q) c p d q) s
    let s := moveWeights s c p d
    { s with md := { s.md with
      pools := s.md.pools.mapAll fun k l => if k % 8 = d then l.filter fun a => !inPc c p a else l
      freed := s.md.freed.map fun f => if f.1 % 8 = d then (f.1, f.2.filter fun a => !inPc c p a) else f
      poolSet := s.md.poolSet.mapAll fun k l => if k % 8 = d then l.filter fun a => !inPc c p a || seqHolds s (k / 8) d a else l } }

/-- The channel of the HBM3 row that holds a die-local address (R250, R471). -/
def hbmRowChan (d a : Nat) : W64 :=
  chanId 5 (fld a 34 21 * 2 ^ 16 + (fld a 20 19 * 4 + fld a 11 10) * 2 ^ 12 + fld a 36 35 * 2 ^ 10 + fld a 18 14 * 32 + fld a 13 12 * 8 + d)

/-- The channel of the pseudo-channel that holds a die-local address. -/
def pcChan (d a : Nat) : W64 := chanId 4 (fld a 18 14 * 32 + fld a 13 12 * 8 + d)

/-- Events of a pseudo-channel's bucket. -/
def pcEvents (s : State) (d a n : Nat) : State :=
  match bump s (pcChan d a) 0 n with
  | (s, some (4, l)) => retirePc s d (fld a 13 12) (fld a 18 14) l false
  | (s, _) => s

/-- The die-local address of an HBM row named by a channel identifier (R250, R471). -/
def hbmRowAddr (c : W64) : Nat :=
  rfld c 29 16 * 2 ^ 21 + rfld c 15 14 * 2 ^ 19 + rfld c 13 12 * 2 ^ 10 + rfld c 11 10 * 2 ^ 35 + rfld c 9 5 * 2 ^ 14 + rfld c 4 3 * 2 ^ 12

/-- The SWS offset of a row named by a channel identifier (R254, R471). -/
def swsRowAddr (c : W64) : Nat := rfld c 21 12 * 2 ^ 17 + rfld c 11 9 * 2 ^ 14 + rfld c 8 8 * 2 ^ 13 + rfld c 7 3 * 2 ^ 27

/-- An HBM3 row is mapped out (R259): by the stack's own repair where it has a spare row, which the spec leaves open, else in the
controller's remap table of 1,024 entries; where neither remains, it is one more uncorrectable error of its pseudo-channel. It is
copied and recorded, and the switch waits for the pass boundary (R147); a record that PWR_ALERT# keeps out of flash brings no switch, and
a row that is mapped already takes no further entry. -/
def mapOutHbm (s : State) (d a : Nat) (stuck : Bool) (level : Nat) : State :=
  let id := hbmRowChan d a
  let c := fld a 13 12
  let x := (s.dies.get d).hbm.get c
  let s := if stuck then logStuck s id 2 else logAction s id 2 level
  if x.rows.contains id || x.rowPend.contains id || s.pins.alert then s
  else
    let own := Config.freePick s.free 2 = 1
    let s := { s with free := s.free + 1 }
    if own then persistRow (updDie s d fun y => { y with hbm := y.hbm.upd c fun h => { h with rowPend := h.rowPend ++ [id] } }) id 0
    else if x.remap < 1024 then
      persistRow (updDie s d fun y => { y with hbm := y.hbm.upd c fun h => { h with remap := h.remap + 1, rowPend := h.rowPend ++ [id] } }) id 1
    else pcEvents s d a 1

/-- Layer, sector, bank and row of an SWS offset (R254). -/
def swsRow (off : Nat) : RowFix := ⟨fld off 13 13, fld off 31 27, fld off 16 14, fld off 26 17, 0⟩

/-- Whether two rows lie in one bank. -/
def RowFix.sameBank (a b : RowFix) : Bool := a.upper = b.upper && a.sector = b.sector && a.bank = b.bank

/-- Whether they are one row. -/
def RowFix.same (a b : RowFix) : Bool := a.sameBank b && a.row = b.row

/-- The SWS offset at which a row begins. -/
def RowFix.start (r : RowFix) : Nat := r.sector * 2 ^ 27 + r.row * 2 ^ 17 + r.bank * 2 ^ 14 + r.upper * 2 ^ 13

/-- The channel identifier of a row (R471). -/
def RowFix.chan (d : Nat) (r : RowFix) : W64 := chanId 6 (r.row * 4096 + r.bank * 512 + r.upper * 256 + r.sector * 8 + d)

/-- The lowest usable spare row of a bank that stands in for no row. -/
def nextSpare (x : DieRegs) (r : RowFix) : Option Nat :=
  (List.range 64).find? fun n => !(x.badSpares.contains (r.upper, r.sector, r.bank, n)) &&
    !((x.rowMap ++ x.mapPend).any fun q => q.sameBank r && q.spare = n)

/-- The blocks of an SWS row, and of an HBM3 row by an address in it. -/
def swsRowBlocks (d : Nat) (r : RowFix) : List Nat := (List.range 128).map (dieKey d (swsBase + r.start) / 64 + ·)
def hbmRowBlocks (d a : Nat) : List Nat := (List.range 16).map (dieKey d (a / 1024 * 1024) / 64 + ·)

/-- An SWS row is mapped out (R146, R147): copied to a spare, resident blocks from their backing copy, recorded, and in force from the
next pass; a bank without a usable spare, or uncorrectable errors in four banks of a sector within an hour, retires the die (R148).
A row whose record PWR_ALERT# keeps out of flash is not switched. Banks of the two layers count as distinct. -/
def mapOutSws (s : State) (d off : Nat) (ue : Bool) : State :=
  let r := swsRow off
  let x := s.dies.get d
  let known := (x.rowMap ++ x.mapPend).any r.same
  let fails := if ue then (r.sector, r.upper, r.bank, now s) :: x.swsFails else x.swsFails
  let near := (fails.filter fun f => f.1 = r.sector && (now s - f.2.2.2).toNat ≤ 3600 * 150000000).map fun f => (f.2.1, f.2.2.1)
  let s := updDie s d fun y => { y with swsFails := fails }
  if 4 ≤ near.eraseDups.length then retireDie s d true
  else if known then s
  else
    match nextSpare x r with
    | none => retireDie s d true
    | some n =>
      let s := logStuck s (r.chan d) 2
      if s.pins.alert then s
      else
        let s := (swsRowBlocks d r).foldl (fun s b => if copiesGood s b then recopy s b else s) s
        persistRow (updDie s d fun y => { y with mapPend := y.mapPend ++ [{ r with spare := n }] }) (r.chan d) n

/-! ### Errors met by a read -/

/-- A read meets the fault of one 64-byte block. -/
def eccBlock (s : State) (b : Nat) : State :=
  let v := s.mem.ecc.get b
  let k := 64 * b
  let d := k / 2 ^ 48
  let off := k % 2 ^ 48
  if v = 0 then s
  else
    match regionOf (s.dies.get d).stageWays off with
    | .spad n =>
      let t := 32 * d + n
      if v = 2 then
        match bump (setEcc (setPois s b) b 0) (chanId 8 (n * 8 + d)) 0 1 with
        | (s, some (4, l)) => retireTile s t false l
        | (s, _) => s
      else updTile s t fun x => { x with ceCnt := satInc x.ceCnt 1 }
    | .hbm =>
      if v = 2 then
        let s := updDie (badBlock s b) d fun x => { x with hbm := x.hbm.upd (fld off 13 12) fun h => { h with ue := satInc h.ue 1 } }
        pcEvents (mapOutHbm s d off true 0) d off 1
      else
        let s := updDie (setEcc s b 0) d fun x => { x with hbm := x.hbm.upd (fld off 13 12) fun h => { h with ce := satInc h.ce 1 } }
        match bump s (hbmRowChan d off) 0 1 with
        | (s, some (2, l)) => mapOutHbm s d off false l
        | (s, _) => s
    | .sws =>
      if v = 2 then mapOutSws (updDie (badBlock s b) d fun x => { x with swsUe := satInc x.swsUe 1 }) d (off - swsBase) true
      else
        let s := updDie s d fun x => { x with swsCe := satInc x.swsCe 1 }
        if v = 5 then mapOutSws (setEcc s b 0) d (off - swsBase) false else setEcc s b (if v = 4 then 5 else 0)
    | .staging =>
      if v = 2 then updDie (setEcc (setPois s b) b 0) d fun x => { x with dcUe := satInc x.dcUe 1 }
      else updDie (setEcc s b 0) d fun x => { x with dcCe := satInc x.dcCe 1 }
    | .none => setEcc s b 0

/-- A read of the bytes at the listed keys meets their blocks' faults. -/
def eccNote (s : State) (keys : List Nat) : State :=
  if s.mem.ecc.isEmpty then s else ((keys.map (· / 64)).eraseDups).foldl eccBlock s

/-- A read of `n` bytes at key `k` meets their blocks' faults. -/
def eccAt (s : State) (k n : Nat) : State := eccNote s ((List.range n).map (k + ·))

end Sys2Proof.Machine
end

