-- ==== Sys2Proof/Machine/CmdProc.lean ====
section
/-!
DEFINITION. The command processor's front end: how a stream's next entry starts, NOP, SIGNAL, WAIT and fence deadlock,
BRANCH, LOOP, CALL and RETURN, TIMESTAMP and DIGEST (R341 to R356, R371 to R374, R385, R386, R437).
-/

namespace Sys2Proof.Machine

/-! ### Starting an entry -/

/-- Opcodes of work commands (R354). -/
def isWork (o : Nat) : Bool := o ≤ 0x0D

/-- Opcodes of control commands (R358). -/
def isControl (o : Nat) : Bool := 0x80 ≤ o && o ≤ 0x97

/-- The next entry of a stream with what a capture reports of it. -/
structure NextEntry where
  bytes : Bytes
  sqIdx : Nat
  addr : W64
  depth : Nat
  frames : List Nat
  /-- the reach of the 64 bytes of an entry in a buffer (R371) -/
  fault : Option Status
  deriving DecidableEq, Repr

/-- A stream's next entry, while the stream is free: nothing runs, no branch waits, no completion is held (R347, R349, R372). -/
def nextEntry (s : State) (st : Nat) : Option NextEntry :=
  let q := s.cp.streams.get st
  if (getJob s (.stream st)).isSome || q.polling || !q.held.isEmpty then none
  else
    match q.frames with
    | f :: r =>
      let a := f.addr + BitVec.ofNat 64 (64 * f.idx)
      some ⟨plain (readWord s a 64), f.job.sqIdx, a, r.length + 1, ((f :: r).map (·.idx)).reverse, reach s a 64 false⟩
    | [] =>
      match q.pending with
      | [] => none
      | p :: _ => some ⟨p.bytes, p.sqIdx, BitVec.ofNat 64 (4 * 2 ^ 60 + sqEntryAddr s p.sqIdx % 2 ^ 60), 0, [], none⟩

/-- Refusal of an opcode: undefined or misplaced (R343 step 1, R355), after a DETACH_PREPARE (R469), or a second die out of service (R22). -/
def opcodeCheck (s : State) (o depth : Nat) : Option Status :=
  firstFail [
    (!isWork o && !isControl o, .badOpcode),
    (depth = 0 && (o = 0x06 || o = 0x07 || o = 0x09), .badOpcode),
    (0 < depth && isControl o, .badOpcode),
    (s.lk.twin = .detached && !(o = 0x80 || o = 0x81 || o = 0x8C || o = 0x90), .notReady),
    (stopped s && !(o = 0x80 || o = 0x81 || o = 0x8C || o = 0x8F || o = 0x90), .dieRetired)]

/-- A command has begun. -/
def newJob (s : State) (e : NextEntry) : Job :=
  { entry := e.bytes, sqIdx := e.sqIdx, entryAddr := e.addr, depth := e.depth, frames := e.frames, start := now s, body := .begun }

/-- The entry leaves the pending queue and runs. -/
def openJob (s : State) (st : Nat) (e : NextEntry) : State :=
  putJob (if e.depth = 0 then updStream s st fun q => { q with pending := q.pending.tail } else s) (.stream st) (newJob s e)

/-- What an entry reads through its parameters: address word and length (R354, R358). -/
def entryReads (e : Bytes) : List (W64 × Nat) :=
  let own := (entryAddrW e, entryLen e)
  match entryOpc e with
  | 0x01 => match byteN e 16 with
    | 0 => [own, (param64 e 32, leAt e 40 4)]
    | 1 => [own, (param64 e 32, 128)]
    | _ => [(param64 e 32, 128)]
  | 0x02 | 0x0C | 0x0D | 0x82 | 0x83 | 0x88 | 0x8F | 0x92 | 0x93 => [own]
  | 0x06 => [(param64 e 16, 8)]
  | 0x94 => [own, (param64 e 24, leAt e 32 8)]
  | _ => []

/-- The errors that the bytes at an address word meet when they are read (R145, R258). -/
def eccWord (s : State) (p : W64 × Nat) : State :=
  if s.mem.ecc.isEmpty || spaceOf p.1 = 4 || (reach s p.1 p.2 false).isSome then s else eccAt s (keyOf p.1) p.2

/-- The errors that an entry's reads meet. -/
def noteReads (s : State) (e : Bytes) : State := (entryReads e).foldl eccWord s

/-- An entry on its way into its command: it has left the pending queue, and its reads have met the errors of what they read. -/
def entered (s : State) (st : Nat) (e : NextEntry) : State :=
  let t := openJob s st e
  noteReads (if e.depth = 0 then t else eccWord t (e.addr, 64)) e.bytes

/-- Stream `st` starts its next entry when that entry's opcode is `opc`, or is undefined. -/
def startEntry (opc st : Nat) (run : JobRef → Bytes → State → State) (s : State) : Ans :=
  match nextEntry s st with
  | none => .next s
  | some e =>
    match e.fault with
    | some x => .next (endCalls x st (s.cp.streams.get st).frames s)
    | none =>
      if entryOpc e.bytes ≠ opc && (isWork (entryOpc e.bytes) || isControl (entryOpc e.bytes)) then .next s
      else
        .next (match opcodeCheck s (entryOpc e.bytes) e.depth with
          | some x => finish (openJob s st e) (.stream st) x 0
          | none => run (.stream st) e.bytes (entered s st e))

/-- A command whose checks are `chk`: the first failing one completes it, otherwise it runs. -/
def checkThen (chk : Option Status) (j : JobRef) (run : State → State) (s : State) : State :=
  match chk with
  | some x => finish s j x 0
  | none => run s

/-- The running command's body set. -/
def setBody (s : State) (j : JobRef) (b : Body) : State := updJob s j fun x => { x with body := b }

/-! ### NOP, SIGNAL, WAIT -/

/-- NOP completes with no effect. -/
def runNop (j : JobRef) (_e : Bytes) (s : State) : State := finish s j .ok 0

/-- NOP (R354). -/
def execNop (st : Stream) (s : State) : Ans := startEntry 0x00 st.val runNop s

/-- The owner of a fence. -/
def fenceOwner (s : State) (f : Nat) : Nat := (s.hq.fences.get f).owner.toNat

/-- The checks of SIGNAL (R351). -/
def checkSignal (s : State) (j : JobRef) (e : Bytes) : Option Status :=
  let x := s.hq.fences.get (byteN e 16)
  firstFail [(decide (param64 e 24 ≤ x.value), .lenRange), (x.hostSig || x.owner.toNat ≠ j.streamOf, .addrRange)]

/-- SIGNAL raises its fence and completes with the new value. -/
def runSignal (j : JobRef) (e : Bytes) (s : State) : State :=
  checkThen (checkSignal s j e) j (fun s => finish (raiseFence s (byteN e 16) (param64 e 24)) j .ok (param64 e 24)) s

/-- SIGNAL (R351). -/
def execSignal (st : Stream) (s : State) : Ans := startEntry 0x04 st.val runSignal s

/-- The fence on which a stream is fence-blocked (R385). -/
def blockedOn (s : State) (st : Nat) : Option Nat :=
  match getJob s (.stream st) with
  | some b =>
    match b.body with
    | .wait f t =>
      let x := s.hq.fences.get f
      if !x.hostSig && x.owner.toNat ≠ st && decide (x.value < t) then some f else none
    | _ => none
  | none => none

/-- The cycle that the newly blocked stream closes (R386), with fuel for 16 streams. -/
def fenceCycle (s : State) (new : Nat) : Nat → Nat → List Nat → Option (List Nat)
  | 0, _, _ => none
  | n + 1, cur, acc =>
    match blockedOn s cur with
    | none => none
    | some f => if fenceOwner s f = new then some (acc ++ [cur]) else fenceCycle s new n (fenceOwner s f) (acc ++ [cur])

/-- The value of the fence on which a stream waits. -/
def observed (s : State) (st : Nat) : W64 :=
  match getJob s (.stream st) with
  | some b => match b.body with | .wait f _ => (s.hq.fences.get f).value | _ => 0
  | none => 0

/-- A cycle that fails is counted (R386). -/
def countCycle (s : State) : State := { s with cp := { s.cp with deadlocks := satInc s.cp.deadlocks 1 } }

/-- Every WAIT on the cycle completes with DEADLOCK and the cycle is counted (R386). -/
def failCycle (s : State) (l : List Nat) : State :=
  let s := countCycle s
  l.foldl (fun s st => finish s (.stream st) .deadlock (observed s st)) s

/-- WAIT completes, fails as a cycle of one, or blocks, which may close a cycle (R352, R386). -/
def runWait (j : JobRef) (e : Bytes) (s : State) : State :=
  let f := byteN e 16
  let x := s.hq.fences.get f
  let t := param64 e 24
  if decide (t ≤ x.value) then finish s j .ok x.value
  else if !x.hostSig && x.owner.toNat = j.streamOf then finish (countCycle s) j .deadlock x.value
  else
    let s := setBody s j (.wait f t)
    match fenceCycle s j.streamOf 16 j.streamOf [] with
    | some l => failCycle s l
    | none => s

/-- WAIT (R352). -/
def execWait (st : Stream) (s : State) : Ans := startEntry 0x05 st.val runWait s

/-- WAIT_TIMEOUT (R352): a WAIT on a host-signalable fence expires. -/
def execWaitTimeout (st : Stream) (s : State) : Ans :=
  match getJob s (.stream st.val) with
  | some b =>
    match b.body with
    | .wait f _ =>
      if (s.hq.fences.get f).hostSig then
        .next (finish (setHq s fun h => { h with wdFired := satInc h.wdFired 1 }) (.stream st.val) .timeout (s.hq.fences.get f).value)
      else .next s
    | _ => .next s
  | none => .next s

/-! ### BRANCH, LOOP, CALL, RETURN -/

/-- The innermost frame of a stream. -/
def topFrame (s : State) (st : Nat) : Option CFrame := (s.cp.streams.get st).frames.head?

/-- The innermost frame changed by `f`. -/
def updTop (s : State) (st : Nat) (f : CFrame → CFrame) : State :=
  updStream s st fun q => { q with frames := match q.frames with | [] => [] | a :: r => f a :: r }

/-- The command of a stream ends with OK and execution goes on at entry `n` of its frame. -/
def finishJump (s : State) (st n : Nat) : State :=
  match getJob s (.stream st) with
  | some b => finishStream s st b .ok 0 false (some n)
  | none => s

/-- The checks of BRANCH (R354, R372). -/
def checkBranch (s : State) (f : CFrame) (e : Bytes) : Option Status :=
  firstFail [
    (4 < byteN e 24, .lenRange),
    (f.entries ≤ leAt e 48 4, .lenRange),
    ((param64 e 16).toNat % 8 ≠ 0, .align),
    ((reach s (param64 e 16) 8 false).isSome, (reach s (param64 e 16) 8 false).getD .addrRange)]

/-- Whether the branch is taken (R372). -/
def taken (cmp : Nat) (x v : W64) : Bool :=
  match cmp with
  | 0 => x = v
  | 1 => x ≠ v
  | 2 => decide (v ≤ x)
  | 3 => decide (x < v)
  | _ => x ≠ 0

/-- The frame after a taken branch to entry `n`: loops whose body does not hold `n` are no longer active (R373). The body
runs from TARGET up to the LOOP entry itself. DEDUCED. -/
def leaveLoops (f : CFrame) (n : Nat) : CFrame := { f with loops := f.loops.filter fun l => l.target ≤ n && n ≤ l.at_ }

/-- BRANCH continues at TARGET or at the next entry; a taken one that does not go forward waits. -/
def runBranch (j : JobRef) (e : Bytes) (s : State) : State :=
  match topFrame s j.streamOf with
  | none => finish s j .badOpcode 0
  | some f =>
    checkThen (checkBranch s f e) j (fun s =>
      let x := BitVec.ofNat 64 (leNat (plain (readWord s (param64 e 16) 8))) &&& param64 e 40
      let n := leAt e 48 4
      if taken (byteN e 24) x (param64 e 32) then
        let s := updTop s j.streamOf fun f => leaveLoops f n
        let s := if n ≤ f.idx then updStream s j.streamOf fun q => { q with polling := true } else s
        finishJump s j.streamOf n
      else finish s j .ok 0) s

/-- BRANCH (R372). -/
def execBranch (st : Stream) (s : State) : Ans := startEntry 0x06 st.val runBranch s

/-- BRANCH_POLL_DELAY (R372): the wait after a taken backward branch ends. -/
def execBranchPollDelay (st : Stream) (s : State) : Ans :=
  if (s.cp.streams.get st.val).polling then .next (updStream s st.val fun q => { q with polling := false }) else .next s

/-- The checks of LOOP (R354, R373). -/
def checkLoop (f : CFrame) (e : Bytes) : Option Status :=
  firstFail [
    (leAt e 16 4 = 0 || 65535 < leAt e 16 4, .lenRange),
    (f.idx ≤ leAt e 20 4, .lenRange),
    ((f.loops.all fun l => l.at_ ≠ f.idx) && 8 ≤ f.loops.length, .lenRange)]

/-- One LOOP entry (R373): the frame's counters and the entry that follows. -/
def loopStep (f : CFrame) (count target : Nat) : CFrame × Nat :=
  let c := match f.loops.find? fun l => l.at_ = f.idx with
    | some l => l.ctr
    | none => count - 1
  let rest := f.loops.filter fun l => l.at_ ≠ f.idx
  if 0 < c then ({ f with loops := rest ++ [⟨f.idx, target, c - 1⟩] }, target) else ({ f with loops := rest }, f.idx + 1)

/-- LOOP counts and jumps back or falls through. -/
def runLoop (j : JobRef) (e : Bytes) (s : State) : State :=
  match topFrame s j.streamOf with
  | none => finish s j .badOpcode 0
  | some f =>
    checkThen (checkLoop f e) j (fun s =>
      let r := loopStep f (leAt e 16 4) (leAt e 20 4)
      finishJump (updTop s j.streamOf fun _ => r.1) j.streamOf r.2) s

/-- LOOP (R373). -/
def execLoop (st : Stream) (s : State) : Ans := startEntry 0x07 st.val runLoop s

/-- The checks of CALL (R354, R355). -/
def checkCall (s : State) (depth : Nat) (e : Bytes) : Option Status :=
  firstFail [
    (entryLen e < 64 || 0x400000 < entryLen e || entryLen e % 64 ≠ 0 || 8 ≤ depth, .lenRange),
    ((entryAddrW e).toNat % 64 ≠ 0, .align),
    ((reach s (entryAddrW e) (entryLen e) false).isSome, (reach s (entryAddrW e) (entryLen e) false).getD .addrRange)]

/-- CALL opens a frame; it completes when its frame ends. -/
def runCall (j : JobRef) (e : Bytes) (s : State) : State :=
  match getJob s j with
  | none => s
  | some b =>
    checkThen (checkCall s b.depth e) j (fun s =>
      updStream (delJob s j) j.streamOf fun q => { q with frames := ⟨entryAddrW e, entryLen e / 64, 0, [], b⟩ :: q.frames }) s

/-- CALL (R371). -/
def execCall (st : Stream) (s : State) : Ans := startEntry 0x08 st.val runCall s

/-- RETURN ends the innermost frame. -/
def runReturn (j : JobRef) (_e : Bytes) (s : State) : State :=
  match topFrame s j.streamOf with
  | none => finish s j .badOpcode 0
  | some f => finishJump s j.streamOf f.entries

/-- RETURN (R371). -/
def execRet (st : Stream) (s : State) : Ans := startEntry 0x09 st.val runReturn s

/-! ### TIMESTAMP and DIGEST -/

/-- The checks of TIMESTAMP (R354). -/
def checkTimestamp (s : State) (e : Bytes) : Option Status :=
  firstFail [
    (entryLen e ≠ 8, .lenRange),
    ((entryAddrW e).toNat % 8 ≠ 0, .align),
    ((reach s (entryAddrW e) 8 true).isSome, (reach s (entryAddrW e) 8 true).getD .addrRange)]

/-- TIMESTAMP writes the local beacon. -/
def runTimestamp (j : JobRef) (e : Bytes) (s : State) : State :=
  checkThen (checkTimestamp s e) j (fun s => finish (writeWord s (entryAddrW e) (leBytes 8 (now s).toNat)) j .ok (now s)) s

/-- TIMESTAMP (R354). -/
def execTimestamp (st : Stream) (s : State) : Ans := startEntry 0x0B st.val runTimestamp s

/-- The checks of DIGEST (R354). -/
def checkDigest (s : State) (e : Bytes) : Option Status :=
  firstFail [
    (entryLen e = 0 || 1 < byteN e 16, .lenRange),
    ((reach s (entryAddrW e) (entryLen e) false).isSome, (reach s (entryAddrW e) (entryLen e) false).getD .addrRange)]

/-- DIGEST computes SHA-256 over its data and compares it in MODE 1; poisoned data marks the record and the status. DEDUCED. -/
def runDigest (j : JobRef) (e : Bytes) (s : State) : State :=
  checkThen (checkDigest s e) j (fun s =>
    let data := readWord s (entryAddrW e) (entryLen e)
    let d := sha256 (plain data)
    let bad := byteN e 16 = 1 && d ≠ bytesAt e 24 32
    let s := updJob s j fun b => { b with
      digest := some d
      rowPois := anyPois data
      conds := b.conds ++ (if bad then [.digestMismatch] else []) ++ if anyPois data then [.poisoned] else [] }
    finishRanked s j 0) s

/-- DIGEST (R437). -/
def execDigest (st : Stream) (s : State) : Ans := startEntry 0x0C st.val runDigest s

/-- CP_CAP.CNT_CLR (R393). -/
def execCpCapCntClr (s : State) : Ans := gate (barOn s) s <| .next { s with cp := { s.cp with collCnt := 0, deadlocks := 0 } }

end Sys2Proof.Machine
end

