-- ==== Sys2Proof/Machine/Feed.lean ====
section
/-!
DEFINITION. Scratchpad buffers through handles (R112 to R116, R121, R122), faults of a tile (R107), and how the local
sequencers feed a kernel's TODs and descriptors and find it complete (R366, R369, R370, R378).
-/

namespace Sys2Proof.Machine

/-! ### Buffers through handles -/

/-- Handle `h` of tile `t`. -/
def handleOf (s : State) (t h : Nat) : HandleF := handleF ((s.tiles.get t).handles.get h)

/-- The tile physical addresses of logical bytes `off` to `off + n - 1`. -/
def physOf (h : HandleF) (off n : Nat) : List Nat := (List.range n).map fun i => h.addr (off + i)

/-- Logical bytes of a buffer with their marks. -/
def loadHandle (s : State) (t : Nat) (h : HandleF) (off n : Nat) : List PByte :=
  loadKeys s ((physOf h off n).map (tileKey t))

/-- The tile lines of tile physical addresses. -/
def linesOf (as : List Nat) : List Nat := (as.map (· / 512)).eraseDups

/-- Whether a guarded read of a buffer would meet an unfilled line (R122). -/
def guardFails (s : State) (t : Nat) (h : HandleF) (off n : Nat) : Bool :=
  h.guard && (linesOf (physOf h off n)).any fun l => !filled s t l

/-- The lines whose fill bits a read of a buffer clears when it completes (R121). -/
def consumes (h : HandleF) (off n : Nat) : List Nat := if h.guard && h.consume then linesOf (physOf h off n) else []

/-- The 64-byte blocks that are written whole have no fault any more. -/
def clearEcc (s : State) (t : Nat) (addrs : List Nat) : State :=
  if s.mem.ecc.isEmpty then s
  else
    ((addrs.map (· / 64)).eraseDups).foldl (fun s b =>
      if (List.range 64).all fun i => addrs.contains (64 * b + i) then setEcc s (tileKey t (64 * b) / 64) 0 else s) s

/-- Bytes written at tile physical addresses: marks of whole blocks replaced, those of partly written ones kept (R124). -/
def storeAddrs (s : State) (t : Nat) (data : List (Nat × PByte)) : State :=
  let as := data.map (·.1)
  storeTile (clearWhole (clearEcc s t as) t as) t data

/-! ### The gather buffer (R119, R120) -/

/-- An entry leaves the gather buffer: its valid bytes are written to their line. -/
def flushEntry (s : State) (t : Nat) (e : GEntry) : State :=
  updTile (storeAddrs s t e.data) t fun x => { x with gather := x.gather.filter fun g => g.line ≠ e.line }

/-- Bytes of one line enter the gather buffer: they merge into the entry of their line or take an entry, for which the one written least
recently makes room; an entry whose 512 bytes are all valid is flushed. -/
def gatherLine (s : State) (t uid line : Nat) (data : List (Nat × PByte)) : State :=
  let g := (s.tiles.get t).gather
  let old : GEntry := (g.find? fun e => e.line = line).getD ⟨line, [], []⟩
  let e : GEntry := ⟨line, (old.data.filter fun p => !(data.any fun q => q.1 = p.1)) ++ data, (old.tods.filter (· ≠ uid)) ++ [uid]⟩
  let s :=
    if g.any fun x => x.line = line then s
    else match g with | h :: _ => if 8 ≤ g.length then flushEntry s t h else s | [] => s
  if e.data.length = 512 then flushEntry s t e
  else updTile s t fun x => { x with gather := (x.gather.filter fun g => g.line ≠ line) ++ [e] }

/-- Successive writes grouped by the line they lie in. -/
def lineRuns : List (Nat × PByte) → List (Nat × List (Nat × PByte))
  | [] => []
  | p :: r =>
    match lineRuns r with
    | (l, d) :: q => if p.1 / 512 = l then (l, p :: d) :: q else (p.1 / 512, [p]) :: (l, d) :: q
    | [] => [(p.1 / 512, [p])]

/-- Writes of a TOD pass through the gather buffer in order. -/
def gatherAll (s : State) (t uid : Nat) (data : List (Nat × PByte)) : State :=
  (lineRuns data).foldl (fun s r => gatherLine s t uid r.1 r.2) s

/-- Every entry that holds output of a TOD is flushed (R120). -/
def flushTod (s : State) (t uid : Nat) : State :=
  (((s.tiles.get t).gather).filter fun e => e.tods.contains uid).foldl (fun s e => flushEntry s t e) s

/-- Logical bytes of a buffer written, with their fill bits: straight to the banks through a LINEAR view, and through the gather buffer
otherwise (R116), whose entries are flushed before the write is over. A transfer's entries take the number that the tile's next TOD will get. -/
def storeHandle (s : State) (t : Nat) (h : HandleF) (off : Nat) (data : List PByte) : State :=
  let as := physOf h off data.length
  let uid := (s.tiles.get t).nextUid
  let s := if h.view = 0 then storeAddrs s t (as.zip data) else flushTod (gatherAll s t uid (as.zip data)) t uid
  setFill s t (linesOf as)

/-- Fill bits cleared by a consuming read while others are set in the same cycle (R123): the set wins and is counted. -/
def consumeFill (s : State) (t : Nat) (consumed sets : List Nat) : State :=
  let both := consumed.filter sets.contains
  let s := clearFill s t (consumed.filter fun l => !sets.contains l)
  if both.isEmpty then s else updTile s t fun x => { x with spadColl := satInc x.spadColl both.length }

/-! ### Tile faults -/

/-- The completion status of a tile fault cause (R107). -/
def tileStatus (cause : Nat) : Status :=
  match cause with
  | 0x0C => .align
  | 0x0D => .addrRange
  | 0x08 => .semOverflow
  | 0x09 => .semUnderflow
  | 0x0A => .slotEmpty
  | _ => .engineFault

/-- A context with a fault recorded: the first stays until FAULT is cleared. -/
def faultCtx (k : Ctx) (cause opc qidx : Nat) : Ctx :=
  if k.fault then k
  else { k with fault := true, fr := ⟨BitVec.ofNat 8 cause, BitVec.ofNat 8 opc, BitVec.ofNat 8 qidx, true⟩ }

/-- A fault recorded against context `c` of tile `t`; the tile's fault event source fires. -/
def recordFault (s : State) (t c cause opc qidx : Nat) : State :=
  fire (updTile s t fun x => { x with ctxs := x.ctxs.upd c fun k => faultCtx k cause opc qidx }) (256 + t)

/-! ### The TOD queue (R56, R57) -/

/-- Whether the queue handle names a buffer of at least 8 KiB. -/
def queueOk (s : State) (t h : Nat) : Bool := (handleOf s t h).valid && decide (8192 ≤ (handleOf s t h).logical)

/-- TODs waiting in the queue. -/
def queued (x : Tile) : Nat := (x.tail - x.head).toNat

/-! ### Kernels -/

/-- The module tile of a logical tile on die `d`. -/
def mappedTile (k : KernelRun) (d lt : Nat) : Option Nat := (k.tiles.filter fun t => t / 32 = d)[lt]?

/-- A relocated tile field (R369): bits [4:0] a logical tile, bits [7:5] the die offset. -/
def relocTile (k : KernelRun) (d f : Nat) : Option Nat :=
  match indexOf (· = d) k.dies with
  | none => none
  | some i => mappedTile k (k.dies.getD ((i + f / 32) % k.dies.length) d) (f % 32)

/-- A TOD relocated for die `d`, and whether its tile field names no mapped tile. -/
def relocTod (k : KernelRun) (d : Nat) (b : Bytes) : Bytes × Bool :=
  if byteN b 0 = 0x30 then
    match relocTile k d (byteN b 7) with
    | some t => (patch b 7 [BitVec.ofNat 8 t], false)
    | none => (b, true)
  else (b, false)

/-- Whether a context counts as ended for a kernel: halted by a fault of the kernel. -/
def ctxHalted (s : State) (j : JobRef) (p : Nat × Nat) : Bool :=
  let c := (s.tiles.get p.1).ctxs.get p.2
  c.halted && c.job = some j

/-- Whether a kernel has ended (R370, R378): nothing left to feed, every context and descriptor over, every launch reported. -/
def kernelOver (s : State) (j : JobRef) (k : KernelRun) : Bool :=
  k.feeds.isEmpty && (k.dfeeds.all fun d => (chanOf s d.1 d.2.1).haltJob = some j) && k.launchLeft.isEmpty &&
    k.ends.all (ctxHalted s j) && (chansOf s j).isEmpty

/-- The kernel of a running command changed by `f`. -/
def updKernel (s : State) (j : JobRef) (f : KernelRun → KernelRun) : State :=
  updJob s j fun b => match b.body with | .kernel k => { b with body := .kernel (f k) } | _ => b

/-- The contexts without a command go to the first running kernel that uses them. -/
def handCtxs (s : State) : State :=
  s.cp.jobs.foldl (fun s p =>
    match p.2.body with
    | .kernel k => k.ends.foldl (fun s e =>
        if ((s.tiles.get e.1).ctxs.get e.2).job.isNone then updTile s e.1 fun x => { x with ctxs := x.ctxs.upd e.2 fun c => { c with job := some p.1 } } else s) s
    | _ => s) s

/-- One TOD written to its slot of the queue buffer and TAIL advanced. -/
def putTod (s : State) (t : Nat) (j : JobRef) (b : Bytes) (bad : Bool) : State :=
  let x := s.tiles.get t
  let i := x.tail.toNat % 256
  let s := storeHandle s t (handleOf s t x.qHandle.toNat) (32 * i) (b.map fun v => (v, false))
  updTile s t fun x => { x with tail := x.tail + 1, badReloc := x.badReloc.set i bad, owners := x.owners.set i (some j), dropped := x.dropped.set i false }

/-- A tile whose queue cannot be enabled for a kernel: the fault is recorded, its TODs and contexts there are over (R56). -/
def queueRefused (s : State) (t : Nat) (j : JobRef) : State :=
  let s := recordFault s t 0 0x0D 0 0
  let s := updKernel s j fun k => { k with feeds := k.feeds.filter fun f => f.1 ≠ t, ends := k.ends.filter fun e => e.1 ≠ t }
  unitFault s j .addrRange (ctxUnit s t 0 0x0D 0 0 true)

/-- The local sequencer writes a kernel's TODs to a tile's queue as room allows, enabling the queue if need be. -/
def feedTile (s : State) (j : JobRef) (k : KernelRun) (t : Nat) (tods : List Bytes) : State :=
  if (s.tiles.get t).scrubBusy then s
  else if !(s.tiles.get t).qEn && !queueOk s t (s.tiles.get t).qHandle.toNat then queueRefused s t j
  else
    let s := updTile s t fun x => { x with qEn := true }
    let n := min tods.length (256 - queued (s.tiles.get t))
    let s := (tods.take n).foldl (fun s b => let r := relocTod k (t / 32) b; putTod s t j r.1 r.2) s
    updKernel s j fun k => { k with feeds := (k.feeds.map fun f => if f.1 = t then (t, f.2.drop n) else f).filter fun f => !f.2.isEmpty }

/-- Descriptors waiting in a channel's ring. -/
def chanQueued (x : Channel) : Nat := (x.tail - x.head).toNat

/-- A descriptor placed in the ring. -/
def putDesc (x : Channel) (j : Option JobRef) (b : Bytes) (bad : Bool) : Channel :=
  let i := x.tail.toNat % 32
  { x with qEn := true, tail := x.tail + 1, ring := x.ring.set i b, owners := x.owners.set i j, badReloc := x.badReloc.set i bad, cancelled := x.cancelled.set i false }

/-- The internal queue of a tile, which holds 16 entries (R375). -/
def pushEntry (s : State) (t q : Nat) (e : QEntry) : State := updTile s t fun x => { x with queues := x.queues.upd q fun l => l ++ [e] }

/-- The launches of a kernel that wait for room are pushed in order (R377). -/
def pushJob (s : State) (j : JobRef) (l : List (Nat × Nat × QEntry)) : State :=
  let r := l.foldl (fun (r : State × List (Nat × Nat × QEntry)) p =>
    if (((r.1.tiles.get p.1).queues.get p.2.1).length < 16 && !(r.2.any fun q => q.1 = p.1 && q.2.1 = p.2.1)) then (pushEntry r.1 p.1 p.2.1 p.2.2, r.2)
    else (r.1, r.2 ++ [p])) (s, [])
  updKernel r.1 j fun k => { k with pushes := r.2 }

/-- The first descriptor left to feed goes to its channel when there is room. -/
def feedDesc (s : State) (j : JobRef) (d : Nat × Nat × Bytes × Bool) : State × Bool :=
  if chanQueued (chanOf s d.1 d.2.1) < 32 then (updChan s d.1 d.2.1 fun x => putDesc x (some j) d.2.2.1 d.2.2.2, true) else (s, false)

/-- A kernel's descriptors fed in order, channel by channel, as room allows. -/
def feedDescs (s : State) (j : JobRef) (l : List (Nat × Nat × Bytes × Bool)) : State × List (Nat × Nat × Bytes × Bool) :=
  l.foldl (fun (r : State × List (Nat × Nat × Bytes × Bool)) d =>
    if r.2.any fun q => q.1 = d.1 && q.2.1 = d.2.1 then (r.1, r.2 ++ [d])
    else
      let f := feedDesc r.1 j d
      (f.1, if f.2 then r.2 else r.2 ++ [d])) (s, [])

/-- One running kernel is fed. -/
def feedJob (s : State) (j : JobRef) : State :=
  match getJob s j with
  | some b =>
    match b.body with
    | .kernel k =>
      let r := feedDescs s j k.dfeeds
      let s := pushJob (updKernel r.1 j fun k => { k with dfeeds := r.2 }) j k.pushes
      k.feeds.foldl (fun s f => feedTile s j k f.1 f.2) s
    | _ => s
  | none => s

/-- Every running kernel is fed as queue room allows (R370). -/
def feedAll (s : State) : State :=
  if s.cp.jobs.any fun p => match p.2.body with | .kernel k => !k.feeds.isEmpty || !k.dfeeds.isEmpty || !k.pushes.isEmpty | _ => false
  then (s.cp.jobs.map (·.1)).foldl feedJob s else s

/-- A kernel ends: a released persistent kernel is no longer installed (R378), and what waits takes its place. -/
def endKernel (s : State) (j : JobRef) (k : KernelRun) : State :=
  let s := match k.release, k.persist with
    | true, some id => { s with cp := { s.cp with persists := s.cp.persists.filter fun p => p.id ≠ id } }
    | _, _ => s
  feedAll (handCtxs (finishRanked s j 0))

/-- Whether signals sent on a command's behalf wait to be applied. -/
def sigsOut (s : State) (j : JobRef) : Bool := s.tiles.any fun t => t.2.inbox.any fun g => g.job = some j

/-- A unit of a command has ended; the command completes when it was the last and every signal of it has been applied. -/
def unitDone (s : State) (j : JobRef) : State :=
  match getJob s j with
  | some b =>
    match b.body with
    | .kernel k => if kernelOver s j k && !sigsOut s j then endKernel s j k else s
    | .dma e ch => if ownedIn (chanOf s e ch) j = 0 && !sigsOut s j then finishRanked s j b.result else s
    | _ => s
  | none => s

/-- The persistent kernel that holds a context. -/
def persistOf (s : State) (t c : Nat) : Option Persist := s.cp.persists.find? fun p => p.tiles.contains t && bitN p.ctxMask c

/-- The command on whose behalf a TOD runs: its launch's, or its context's. -/
def todJob (s : State) (t : Nat) (w : TodSlot) : Option JobRef :=
  match w.launch, persistOf s t w.ctx with
  | some n, some p =>
    (s.cp.jobs.find? fun q => match q.2.body with | .kernel k => k.persist = some p.id && k.launch = n | _ => false).map (·.1)
  | _, _ => match ((s.tiles.get t).ctxs.get w.ctx).job with | some j => some j | none => w.job

/-- A fault of a persistent kernel's command ends the installation and every launch of it (R378). -/
def faultPersist (s : State) (id : Nat) : State :=
  let js := s.cp.jobs.filterMap fun q => match q.2.body with | .kernel k => if k.persist = some id then some q.1 else none | _ => none
  let s := endPersist s id
  js.foldl (fun s j => unitDone (updKernel s j fun k => { k with launchLeft := [], ends := [], feeds := [], pushes := [] }) j) s

/-- A TOD faults its context (R63, R107): the context halts, its TODs in the window and their waits are discarded. R63 does not say what becomes
of other TODs of the context that have issued and not completed: they are dropped without output (DESIGN CHOICE, assumption log 149). -/
def ctxFault (s : State) (t : Nat) (w : TodSlot) (cause : Nat) : State :=
  let opc := byteN w.bytes 0
  let u := ctxUnit s t w.ctx cause opc w.qidx true
  let j := todJob s t w
  let p := persistOf s t w.ctx
  let s := recordFault s t w.ctx cause opc w.qidx
  let gone := ((s.tiles.get t).window.filter fun y => y.ctx = w.ctx).map (·.uid)
  let s := updTile s t fun x => pruneGather { x with
    window := x.window.filter fun y => y.ctx ≠ w.ctx
    line := x.line.filter fun r => match r.who with | .tod t' u => !(t' = t && gone.contains u) | _ => true
    ctxs := x.ctxs.upd w.ctx fun k => { k with halted := true, wait := false } }
  let s := match j with | some j => unitDone (unitFault s j (tileStatus cause) u) j | none => s
  match p with | some p => faultPersist s p.id | none => s

end Sys2Proof.Machine
end

