-- ==== Sys2Proof/Machine/Tile.lean ====
section
/-!
DEFINITION. The tile sequencer (R56 to R70): the queue, the issue window, the checks of a TOD in the order of R107,
hazards, issue, and completion with its post-signal, event and clearing of fill bits.
-/

namespace Sys2Proof.Machine

/-! ### Fields of a TOD (R64, R65) -/

/-- OPC of a TOD. -/
def todOpc (b : Bytes) : Nat := byteN b 0

/-- PWAIT, PSIG, CHK and IRQ of a TOD. -/
def todPwait (b : Bytes) : Bool := bitN (leAt b 0 4) 10
def todPsig (b : Bytes) : Bool := bitN (leAt b 0 4) 11
def todChk (b : Bytes) : Bool := bitN (leAt b 0 4) 24
def todIrq (b : Bytes) : Bool := bitN (leAt b 0 4) 25

/-- PSEM and SSEM of a TOD. -/
def todPsem (b : Bytes) : Nat := wfld b 0 17 12
def todSsem (b : Bytes) : Nat := wfld b 0 23 18

/-- The units of a tile. -/
inductive TUnit where
  | array
  | vu
  | sync
  deriving DecidableEq, Repr, Inhabited

/-- The unit of an opcode, if the sequencer accepts it. -/
def unitOf (o : Nat) : Option TUnit :=
  if 0x10 ≤ o ∧ o ≤ 0x13 then some .array
  else if 0x20 ≤ o ∧ o ≤ 0x28 then some .vu
  else if o = 0 ∨ (0x30 ≤ o ∧ o ≤ 0x36) then some .sync else none

/-- The sync word of a TOD (R69). -/
def syncWord (b : Bytes) : Nat := leAt b 4 4

/-! ### Operands -/

/-- An operand of a TOD: its word, the bytes it spans, and whether it is written. -/
structure Operand where
  word : Nat
  size : Nat
  out : Bool
  deriving DecidableEq, Repr, Inhabited

/-- Whether an array TOD loads weights. -/
def loadsW (o : Nat) (t : ArrayTod) : Bool := o = 0x13 || !t.reuse

/-- Bytes of the weight operand (R74, R84). -/
def weightSize (o : Nat) (t : ArrayTod) : Nat :=
  if o = 0x13 then t.s * t.n * elemBytes t.wfmt
  else ceilDiv t.k 128 * t.n * groupBytes t.wfmt

/-- Bytes of the activation operand (R74, R85). -/
def actSize (o : Nat) (t : ArrayTod) : Nat :=
  if o = 0x11 then t.m * t.n * elemBytes t.afmt else ceilDiv t.k 128 * t.m * 128 * elemBytes t.afmt

/-- Elements of the output operand. -/
def outSize (o : Nat) (t : ArrayTod) : Nat := t.m * (if o = 0x11 then t.k else t.n) * elemBytes t.ofmt

/-- Operands of an array TOD, weights and activations first. Of a TOD with REUSE = 1, WOP only names the retained weights: R70 does not say
whether its handle is checked, and it is not (DESIGN CHOICE, assumption log 150). -/
def arrayOps (o : Nat) (b : Bytes) : List Operand :=
  let t := arrayTod b
  let w : List Operand := if loadsW o t then [⟨leAt b 16 4, weightSize o t, false⟩] else []
  if o = 0x13 then w
  else
    w ++ [⟨leAt b 20 4, actSize o t, false⟩, ⟨leAt b 24 4, outSize o t, true⟩] ++
      if isTQ t.wfmt then [⟨leAt b 28 4, 64, false⟩] else []

/-- Operands of a vector TOD. -/
def vecOps (o : Nat) (b : Bytes) : List Operand :=
  let t := vecTod b
  let z := vecSizes o t
  [⟨leAt b 16 4, z.1, false⟩, ⟨leAt b 24 4, z.2.2, true⟩] ++
    if z.2.1 = 0 then [] else [⟨leAt b 20 4, z.2.1, decide (o = 0x26)⟩]

/-- Operands of a TOD without its row-key table. -/
def todOps (b : Bytes) : List Operand :=
  let o := todOpc b
  match unitOf o with
  | some .array => arrayOps o b
  | some .vu => vecOps o b
  | some .sync => if o = 0x36 then [⟨syncWord b, 0, false⟩] else []
  | none => []

/-- Whether a TOD takes its rounding from its context's key (R100). -/
def usesKey (b : Bytes) : Bool := (unitOf (todOpc b) = some .array || unitOf (todOpc b) = some .vu) && todOpc b ≠ 0x13 && wfld b 4 19 18 = 2

/-- Rows of an array or vector TOD. -/
def todRows (b : Bytes) : Nat := if unitOf (todOpc b) = some .array then wfld b 8 9 0 else wfld b 12 9 0

/-- The row-key table operand of a TOD under a context's key. -/
def keyOps (b : Bytes) (key : Option RKey) : List Operand :=
  match usesKey b, key with
  | true, some k => [⟨k.kop.toNat, 16 * todRows b, false⟩]
  | _, _ => []

/-- What a TOD reads and writes, by handle number or 64 plus port number (R60): a read of a port counts as a write. -/
def resources (b : Bytes) (key : Option RKey) : List (Nat × Bool) :=
  let acc := unitOf (todOpc b) = some .array && todOpc b ≠ 0x13 && (arrayTod b).acc
  (todOps b ++ keyOps b key).flatMap fun p =>
    let w := opWord p.word
    if w.strm then [(64 + w.port, true)] else (w.handle, p.out) :: if acc && p.out then [(w.handle, false)] else []

/-- Whether two TODs of one context stand in a hazard. -/
def hazard (a b : List (Nat × Bool)) : Bool := a.any fun x => b.any fun y => x.1 = y.1 && (x.2 || y.2)

/-! ### The checks of R70, in the order of R107 -/

/-- Whether an operand word names a reserved port. -/
def badPort (p : Operand) : Bool := let w := opWord p.word; w.strm && 18 ≤ w.port

/-- Whether an operand word that must not be a stream is one. -/
def isStrm (v : Nat) : Bool := bitN v 31

/-- Pairs of weight and activation formats (R44). -/
def pairOk (dist : Bool) (w a : Nat) : Bool :=
  if dist then ((w = 2 || w = 3) && (a = 2 || a = 3)) || (w = 4 && a = 4)
  else ((w = 2 || w = 3 || (5 ≤ w && w ≤ 9)) && (a = 2 || a = 3)) || (w = 4 && a = 4) || (w = 1 && a = 1)

/-- The effective width of an array for the next TOD (R102, R104). -/
def widthOf (x : Tile) (arr : Bool) : Nat := if arr then x.w1 else x.w0

/-- The arrays that a TOD names. -/
def namedArrays (arr : Nat) : List Bool := if arr = 0 then [false] else if arr = 1 then [true] else [false, true]

/-- The retained weights of an array. -/
def retOf (x : Tile) (arr : Bool) : Option Retained := if arr then x.ret1 else x.ret0

/-- Whether REUSE or ASHIFT finds its retained weights (R83, R84). -/
def reuseFails (o : Nat) (x : Tile) (b : Bytes) : Bool :=
  let t := arrayTod b
  let rw := roundWidth t (presented t.wfmt x.w0) (presented t.wfmt x.w1)
  (namedArrays t.arr).any fun a =>
    match retOf x a with
    | none => true
    | some r =>
      if o = 0x13 then r.wfmt ≠ t.wfmt || r.n < t.n
      else r.wop.toNat ≠ leAt b 16 4 || r.wfmt ≠ t.wfmt || r.n ≠ t.n || 128 < t.k || rw < t.n

/-- BAD_PARAM of an array TOD. -/
def arrayParam (o : Nat) (b : Bytes) : Bool :=
  let t := arrayTod b
  t.arr = 3 || (if o = 0x12 then 7 ≤ t.fn else t.fn ≠ 0) || ((arrayOps o b).any badPort) ||
    (o ≠ 0x13 && (t.rnd = 3 || t.s ≠ 0 || isStrm (leAt b 24 4) || (isTQ t.wfmt && isStrm (leAt b 28 4)) || badPort ⟨leAt b 16 4, 0, false⟩))

/-- BAD_FMT of an array TOD (R38, R44, R80, R81, R84). -/
def arrayFmt (o : Nat) (b : Bytes) : Bool :=
  let t := arrayTod b
  if o = 0x13 then !(1 ≤ t.wfmt && t.wfmt ≤ 4)
  else
    !pairOk (o = 0x12) t.wfmt t.afmt || (if intAcc (o = 0x12) t then !(t.ofmt = 10 || t.ofmt = 0) else !(t.ofmt ≤ 4)) ||
      (t.acc && !(t.ofmt = 0 || t.ofmt = 10))

/-- BAD_PARAM of a vector TOD (R66, R68, R93). -/
def vecParam (o : Nat) (b : Bytes) : Bool :=
  let t := vecTod b
  t.rnd = 3 || vecMaxFn o < t.fn || (t.mask && o ≠ 0x20) || (vecOps o b).any badPort || isStrm (leAt b 24 4) || (o = 0x26 && isStrm (leAt b 20 4))

/-- BAD_FMT of a vector TOD (R38, R92). -/
def vecFmt (o : Nat) (b : Bytes) : Bool :=
  let t := vecTod b
  !(t.ifmt ≤ 4) || (if o = 0x25 then 2 ≤ t.ofmt else 8 ≤ t.ofmt) || (vecBData o t && !(t.bfmt ≤ 4))

/-- DIM_RANGE of a vector TOD (R68, R93). -/
def vecDims (o : Nat) (b : Bytes) : Bool :=
  let t := vecTod b
  512 < t.m || 131072 < t.l || (o = 0x23 && (t.d < 2 || 256 < t.d || t.d % 2 ≠ 0 || t.l % t.d ≠ 0)) ||
    (o = 0x26 && (t.d < 1 || 256 < t.d || t.l < t.d))

/-- Whether an operand's offset breaks R75. -/
def misaligned (p : Operand) : Bool := let w := opWord p.word; !w.strm && w.off % 64 ≠ 0

/-- Whether an operand's handle is unmapped or its extent passes the buffer. -/
def outside (s : State) (t : Nat) (p : Operand) : Bool :=
  let w := opWord p.word
  !w.strm && (!(handleOf s t w.handle).valid || (handleOf s t w.handle).logical < w.off + p.size)

/-- The first cause of R107 for which a TOD fails. -/
def checkTod (s : State) (t : Nat) (w : TodSlot) : Option Nat :=
  let x := s.tiles.get t
  let b := w.bytes
  let o := todOpc b
  let key := (x.ctxs.get w.ctx).key
  let ops := todOps b ++ keyOps b key
  let u := unitOf o
  let sync := u = some .sync
  firstFail [
    (u.isNone, 0x01),
    (w.bad || (usesKey b && key.isNone) || (u = some .array && arrayParam o b) || (u = some .vu && vecParam o b) ||
      (o = 0x36 && isStrm (syncWord b)) || (o = 0x32 && !(s.bcn.mbar.get (fld (syncWord b) 4 0)).en) || (o = 0x34 && w.listed), 0x02),
    ((u = some .array && arrayFmt o b) || (u = some .vu && vecFmt o b), 0x03),
    ((u = some .array && (let a := arrayTod b; a.n = 0 || (if o = 0x13 then a.s = 0 else a.m = 0 || a.k = 0))) ||
      (u = some .vu && (let v := vecTod b; v.m = 0 || v.l = 0)) || ((o = 0x30 || o = 0x31) && fld (syncWord b) 7 0 = 0), 0x04),
    ((u = some .array && (let a := arrayTod b; if o = 0x13 then 8 < a.s else 512 < a.m)) || (u = some .vu && vecDims o b), 0x05),
    (o = 0x33 && fld (syncWord b) 9 0 < 960, 0x06),
    (u = some .array && (o = 0x13 || (arrayTod b).reuse) && reuseFails o x b, 0x07),
    ((!sync || o = 0x36) && ops.any misaligned, 0x0C),
    ((!sync || o = 0x36) && ops.any (outside s t), 0x0D)]

/-! ### Issue (R59 to R61) -/

/-- Whether a TOD waits for every earlier TOD of its context (R61, R100). -/
def lastOnly (o : Nat) : Bool := o = 0x30 || o = 0x32 || o = 0x33 || o = 0x35 || o = 0x36

/-- Whether a TOD has been issued. -/
def issued (w : TodSlot) : Bool := w.phase = .running || w.phase = .computed || w.phase = .reporting

/-- Whether a TOD of an opcode stalls its context until it completes: SEM_WAIT, BARRIER and QWAIT (R97, R99). -/
def stallsCtx (o : Nat) : Bool := o = 0x31 || o = 0x32 || o = 0x34

/-- The earlier TODs of its context that a TOD still finds in the window. -/
def earlier (x : Tile) (w : TodSlot) : List TodSlot := (x.window.takeWhile fun y => y.uid ≠ w.uid).filter fun y => y.ctx = w.ctx

/-- Whether a TOD stands in a hazard with an earlier, uncompleted TOD of its context (R60), or names a handle with a held write (R114). -/
def inHazard (x : Tile) (w : TodSlot) : Bool :=
  let key := (x.ctxs.get w.ctx).key
  let res := resources w.bytes key
  ((earlier x w).any fun y => hazard (resources y.bytes key) res) || x.heldHandles.any fun h => res.any fun r => r.1 = h.1

/-- Whether TOD `w` may issue now, its semaphore wait apart: in order within its context, no hazard, its handles not held. -/
def mayIssue (x : Tile) (w : TodSlot) : Bool :=
  ((earlier x w).all fun y => issued y && !stallsCtx (todOpc y.bytes)) && (!lastOnly (todOpc w.bytes) || (earlier x w).isEmpty) &&
    !inHazard x w && !x.scrubBusy && !(x.ctxs.get w.ctx).halted

/-- Whether the unit of an opcode executes a TOD. -/
def unitBusy (x : Tile) (o : Nat) : Bool :=
  unitOf o ≠ some .sync && x.window.any fun y => y.phase = .running && unitOf (todOpc y.bytes) = unitOf o

/-- Whether the PWAIT of a TOD is over as soon as it is served: it is checked, or PSEM holds at least 1 and no earlier wait in line wants it (R398). -/
def pwaitReady (x : Tile) (w : TodSlot) : Bool :=
  let ahead := x.line.takeWhile fun r => match r.who with | .tod _ u => u ≠ w.uid | _ => true
  todChk w.bytes || (decide (1 ≤ (x.sems.get (todPsem w.bytes)).toNat) && !ahead.any fun r => r.sem = todPsem w.bytes)

/-- Whether a TOD that has not issued is ready, hazards and order apart: it has no PWAIT, or one that is over when it is served. -/
def turnReady (x : Tile) (w : TodSlot) : Bool :=
  (w.phase = .fetched && !todPwait w.bytes) ||
    ((w.phase = .fetched || w.phase = .stalled) && todPwait w.bytes && !w.released && pwaitReady x w)

/-- Whether an older TOD of the same unit is ready, and so issues first (R59). -/
def olderReady (x : Tile) (w : TodSlot) : Bool :=
  (x.window.takeWhile fun y => y.uid ≠ w.uid).any fun y =>
    unitOf (todOpc y.bytes) = unitOf (todOpc w.bytes) && turnReady x y && mayIssue x y

/-- Whether TOD `w` issues now. -/
def issues (s : State) (t : Nat) (w : TodSlot) : Bool :=
  let x := s.tiles.get t
  tileUp s t && mayIssue x w && !unitBusy x (todOpc w.bytes) && !olderReady x w

/-- The TOD in position `n` of the window. -/
def todAt (s : State) (t n : Nat) : Option TodSlot := (s.tiles.get t).window[n]?

/-- The TOD numbered `uid` changed by `f`. -/
def updTod (s : State) (t uid : Nat) (f : TodSlot → TodSlot) : State :=
  updTile s t fun x => { x with window := x.window.map fun w => if w.uid = uid then f w else w }

/-- The TOD numbered `uid`. -/
def todOf (s : State) (t uid : Nat) : Option TodSlot := (s.tiles.get t).window.find? fun w => w.uid = uid

/-- CTX_WAIT of a context. -/
def setWait (s : State) (t c : Nat) (v : Bool) : State := updTile s t fun x => { x with ctxs := x.ctxs.upd c fun k => { k with wait := v } }

/-- Whether a TOD stalls its context on a semaphore, a barrier, a queue, an operand or a hazard (CTX_WAIT of R104). -/
def stalledTod (x : Tile) (w : TodSlot) : Bool :=
  w.phase = .stalled || (w.phase = .running && w.starved) || (w.phase = .fetched && (earlier x w).all issued && inHazard x w)

/-- CTX_WAIT of a context follows from its TODs in the window. -/
def refreshWait (s : State) (t c : Nat) : State :=
  let x := s.tiles.get t
  setWait s t c (x.window.any fun w => w.ctx = c && stalledTod x w)

/-- A context becomes active at its first TOD (R63). -/
def activate (s : State) (t c : Nat) : State := updTile s t fun x => { x with ctxs := x.ctxs.upd c fun k => { k with active := true } }

/-- A TOD joins the line of its tile's sync unit. -/
def joinLine (s : State) (t : Nat) (w : TodSlot) (sem count : Nat) : State :=
  let s := updTile s t fun x => { x with line := x.line ++ [⟨sem, count, todChk w.bytes, .tod t w.uid⟩] }
  refreshWait (updTod s t w.uid fun y => { y with phase := .stalled }) t w.ctx

/-! ### What a TOD reads when it issues, and its faults during execution -/

/-- The level operand of an array TOD, which is read at issue (R76). With REUSE = 1 the block is read and the kept levels are used: R83 does
not say whether it is read at all (DESIGN CHOICE, assumption log 151). -/
def levelOps (b : Bytes) : List Operand :=
  let o := todOpc b
  if unitOf o = some .array && o ≠ 0x13 && isTQ (arrayTod b).wfmt then [⟨leAt b 28 4, 64, false⟩] else []

/-- The bytes of a buffer operand. -/
def bufData (s : State) (t : Nat) (p : Operand) : List PByte :=
  let w := opWord p.word
  loadHandle s t (handleOf s t w.handle) w.off p.size

/-- The operands that a TOD reads from buffers. -/
def bufReads (ops : List Operand) : List Operand := ops.filter fun p => !(opWord p.word).strm && p.size ≠ 0

/-- Whether a guarded read among them meets an unfilled line. -/
def anyUnfilled (s : State) (t : Nat) (ops : List Operand) : Bool :=
  (bufReads ops).any fun p => let w := opWord p.word; guardFails s t (handleOf s t w.handle) w.off p.size

/-- The memory keys that the reads touch. -/
def allKeys (s : State) (t : Nat) (ops : List Operand) : List Nat :=
  (bufReads ops).flatMap fun p => let w := opWord p.word; (physOf (handleOf s t w.handle) w.off p.size).map (tileKey t)

/-- The tile physical addresses of an output operand's bytes. -/
def outAddrs (s : State) (t : Nat) (p : Operand) : List Nat :=
  let w := opWord p.word
  physOf (handleOf s t w.handle) w.off p.size

/-- A fault during execution: the output regions hold free bytes; the blocks keep their marks and take those of the rows written before the
fault, `written` (R108). -/
def execFault (s : State) (t : Nat) (w : TodSlot) (cause : Nat) (written : List (Nat × PByte)) : State :=
  let marked := (written.filter (·.2.2)).map (·.1)
  let s := ((todOps w.bytes).filter (·.out)).foldl (fun s p =>
    let as := outAddrs s t p
    let f := takeFree s as.length
    storeTile f.2 t (as.zip (f.1.zip (as.map marked.contains)))) s
  ctxFault s t w cause

/-- What a TOD reads when it issues: its level block and its row-key table. -/
def issueReads (s : State) (t : Nat) (w : TodSlot) : List Operand := levelOps w.bytes ++ keyOps w.bytes ((s.tiles.get t).ctxs.get w.ctx).key

/-- A TOD as it runs from issue, with its level block and its row-key table. -/
def issuedTod (s : State) (t : Nat) (w : TodSlot) : TodSlot :=
  let key := ((s.tiles.get t).ctxs.get w.ctx).key
  { w with
    phase := .running
    released := w.released || todPwait w.bytes
    levels := (levelOps w.bytes).flatMap (bufData s t)
    keys := match key with | some k => if usesKey w.bytes then some ((keyOps w.bytes key).flatMap (bufData s t), k.layer) else none | none => none }

/-- A TOD issues: what it reads now goes through guard and ECC, and it runs. -/
def issueTod (s : State) (t : Nat) (w : TodSlot) : State :=
  if anyUnfilled s t (issueReads s t w) then execFault (activate s t w.ctx) t w 0x0A []
  else refreshWait (updTod (eccNote (activate s t w.ctx) (allKeys s t (issueReads s t w))) t w.uid fun _ => issuedTod s t w) t w.ctx

/-- What `go` does with the TOD numbered `uid`, if the window still holds it. -/
def goOn (go : TodSlot → State → State) (s : State) (t uid : Nat) : State := match todOf s t uid with | some w => go w s | none => s

/-! ### Completion (R61) -/

/-- SEM_ERR of a tile records its first fault (R399). -/
def semErr (x : Tile) (ovf : Bool) (sem kind die unit ch : Nat) : Tile :=
  let keep := x.semOvf || x.semUnf
  { x with
    semOvf := x.semOvf || ovf
    semUnf := x.semUnf || !ovf
    semErrSem := if keep then x.semErrSem else BitVec.ofNat 6 sem
    semErrKind := if keep then x.semErrKind else BitVec.ofNat 3 kind
    semErrDie := if keep then x.semErrDie else BitVec.ofNat 3 die
    semErrUnit := if keep then x.semErrUnit else BitVec.ofNat 5 unit
    semErrCh := if keep then x.semErrCh else BitVec.ofNat 2 ch }

/-- Whether a signal of `n` fits a semaphore (R396). -/
def semFits (x : Tile) (sem n : Nat) : Bool := (x.sems.get sem).toNat + n ≤ 0xFFFF

/-- A signal applied; SIG_SUM counts it (R486). -/
def applySig (x : Tile) (sem n : Nat) : Tile :=
  { x with sems := x.sems.upd sem fun v => v + BitVec.ofNat 16 n, sigSum := x.sigSum + BitVec.ofNat 32 n }

/-- A wait subtracts; DEC_SUM counts it (R486). -/
def applyWait (x : Tile) (sem n : Nat) : Tile :=
  { x with sems := x.sems.upd sem fun v => v - BitVec.ofNat 16 n, decSum := x.decSum + BitVec.ofNat 32 n }

/-- The report of a launch's list whose last TOD has completed (R378). -/
def reportLaunch (s : State) (t : Nat) (w : TodSlot) : State :=
  match w.lastListed, todJob s t w with
  | true, some j => if w.launch.isSome then unitDone (updKernel s j fun k => { k with launchLeft := k.launchLeft.filter (· ≠ t) }) j else s
  | _, _ => s

/-- What a TOD's completion does after its outputs are stored: post-signal, event, report; a refused post-signal faults. -/
def completeTod (s : State) (t : Nat) (w : TodSlot) : State :=
  let s := updTile s t fun x => { x with window := x.window.filter fun y => y.uid ≠ w.uid }
  let s := refreshWait s t w.ctx
  let s := if todIrq w.bytes then fire s t else s
  if todPsig w.bytes && !semFits (s.tiles.get t) (todSsem w.bytes) 1 then
    ctxFault (updTile s t fun x => semErr x true (todSsem w.bytes) 1 (t / 32) (t % 32) w.ctx) t w 0x08
  else
    let s := if todPsig w.bytes then updTile s t fun x => applySig x (todSsem w.bytes) 1 else s
    reportLaunch s t w

/-- The sequencer's step for a TOD of opcode `opc` that is its turn: a fetched one passes its checks and issues, or joins the
line of its PWAIT; a running one goes on, unless its stalled context belongs to a die stack that lends (R506). An opcode that R65 does not list is taken by whichever command meets it. -/
def runTod (opc t n : Nat) (go : TodSlot → State → State) (s : State) : Ans :=
  match todAt s t n with
  | none => .next s
  | some w =>
    if todOpc w.bytes ≠ opc && (unitOf (todOpc w.bytes)).isSome then .next s
    else if (s.tiles.get t).scrubBusy then .next s
    else if w.phase = .running then .next (if lends s (t / 32) && ((s.tiles.get t).ctxs.get w.ctx).wait then s else go w s)
    else if w.phase ≠ .fetched then .next s
    else if !issues s t w then .next (refreshWait s t w.ctx)
    else if todPwait w.bytes then .next (joinLine s t w (todPsem w.bytes) 1)
    else
      match checkTod s t w with
      | some c => .next (ctxFault (activate s t w.ctx) t w c)
      | none => .next (goOn go (issueTod s t w) t w.uid)

/-! ### The queue -/

/-- TILE_QUEUE_ENABLE (R56): Q_EN written to 1 with a handle. While Q_EN is 1 the write of QHANDLE is ignored. -/
def execTileQueueEnable (t : TileNo) (qhandle : Fin 64) (s : State) : Ans := gate (dieBlockOn s (t.val / 32)) s <|
  if (s.tiles.get t.val).qEn then .next s
  else
    let s := updTile s t.val fun x => { x with qHandle := BitVec.ofNat 6 qhandle.val }
    if queueOk s t.val qhandle.val then .next (updTile s t.val fun x => { x with qEn := true })
    else .next (recordFault s t.val 0 0x0D 0 0)

/-- The command that learns of a queue fault: the one that uses context 0, or else one that uses another context of the tile. -/
def queueJob (x : Tile) : Option JobRef :=
  match (x.ctxs.get 0).job with | some j => some j | none => (x.ctxs.find? fun c => c.2.job.isSome).bind (·.2.job)

/-- A fault of the queue is recorded against context 0 (R56, R57); its command takes the completion status (R107). -/
def queueFault (s : State) (t cause qidx : Nat) : State :=
  let j := queueJob (s.tiles.get t)
  let s := recordFault s t 0 cause 0 qidx
  match j with
  | some j => unitDone (unitFault s j (tileStatus cause) (ctxUnit s t 0 cause 0 qidx true)) j
  | none => s

/-- TILE_QUEUE_TAIL (R57): TAIL written; the slots it adds belong to no command. -/
def execTileQueueTail (t : TileNo) (tail : BitVec 9) (s : State) : Ans := gate (dieBlockOn s (t.val / 32)) s <|
  let x := s.tiles.get t.val
  if 256 < (tail - x.head).toNat then .next (queueFault s t.val 0x0B 0)
  else
    let news := (List.range (tail - x.tail).toNat).map fun i => (x.tail.toNat + i) % 256
    .next (updTile s t.val fun x => { x with
      tail := tail
      owners := news.foldl (fun m i => Tbl.set m i none) x.owners
      badReloc := news.foldl (fun m i => Tbl.set m i false) x.badReloc
      dropped := news.foldl (fun m i => Tbl.set m i false) x.dropped })

/-- A fetch fails (R56): the cause is recorded against context 0, Q_EN is cleared; the command learns the status. -/
def fetchFault (s : State) (t cause qidx : Nat) : State :=
  let x := s.tiles.get t
  let left := fun (e : Nat × Nat) => e.1 ≠ t || x.window.any fun w => w.ctx = e.2
  let s := match queueJob x with
    | some j => updKernel s j fun k => { k with feeds := k.feeds.filter fun f => f.1 ≠ t, ends := k.ends.filter left }
    | none => s
  queueFault (updTile s t fun x => { x with qEn := false }) t cause qidx

/-- A fetched TOD as it enters the window. -/
def newTod (uid : Nat) (b : Bytes) (qidx : Nat) (ctx : Nat) (bad : Bool) (job : Option JobRef) : TodSlot :=
  { uid := uid, bytes := b, qidx := qidx, ctx := ctx, listed := false, launch := none, lastListed := false, phase := .fetched
    wgot := [], agot := [], levels := [], keys := none, starved := false, outs := [], fills := [], consumed := [], report := none, released := false, bad := bad, job := job }

/-- TOD_FETCH (R56, R58): the next TOD enters the window, which holds 16 that have not issued; HEAD advances. -/
def execTodFetch (t : TileNo) (s : State) : Ans :=
  let x := s.tiles.get t.val
  if !tileUp s t.val || !x.qEn || x.scrubBusy || x.head = x.tail || 16 ≤ (x.window.filter fun w => !issued w).length then .next s
  else
    let i := x.head.toNat % 256
    let h := handleOf s t.val x.qHandle.toNat
    if !queueOk s t.val x.qHandle.toNat then .next (fetchFault s t.val 0x0D i)
    else if guardFails s t.val h (32 * i) 32 then .next (fetchFault s t.val 0x0A i)
    else
      let b := plain (loadHandle s t.val h (32 * i) 32)
      let s := eccNote s ((physOf h (32 * i) 32).map (tileKey t.val))
      let s := clearFill s t.val (consumes h (32 * i) 32)
      let c := wfld b 0 9 8
      let skip := x.dropped.get i || (x.ctxs.get c).halted
      .next (feedAll (updTile s t.val fun x => { x with
        head := x.head + 1
        nextUid := x.nextUid + 1
        dropped := x.dropped.set i false
        window := if skip then x.window else x.window ++ [newTod x.nextUid b i c (x.badReloc.get i) (x.owners.get i)] }))

/-- TOD_COMPLETE (R61): a computed TOD's outputs are stored, those in the gather buffer flushed (R120), and all are visible. -/
def execTodComplete (t : TileNo) (n : Nat) (s : State) : Ans :=
  match todAt s t.val n with
  | none => .next s
  | some w =>
    if w.phase ≠ .computed || (s.tiles.get t.val).scrubBusy then .next s
    else
      let s := setFill (storeAddrs (flushTod s t.val w.uid) t.val w.outs) t.val w.fills
      .next (completeTod (consumeFill s t.val w.consumed w.fills) t.val w)

/-- TILE_COUNTS.CNT_CLR (R104). -/
def execTileCountsCntClr (t : TileNo) (s : State) : Ans := gate (dieBlockOn s (t.val / 32)) s <|
  .next (updTile s t.val fun x => { x with collCnt := 0, nanCnt := 0, satCnt := 0 })

/-- SPAD_COUNTS.CNT_CLR (R132). -/
def execSpadCountsCntClr (t : TileNo) (s : State) : Ans := gate (dieBlockOn s (t.val / 32)) s <|
  .next (updTile s t.val fun x => { x with spadColl := 0, winReject := 0, ceCnt := 0 })

end Sys2Proof.Machine
end

