-- ==== Sys2Proof/Machine/Compute.lean ====
section
/-!
DEFINITION. The array and vector TODs (R71 to R96): how a running TOD takes its operands from buffers and stream ports,
computes, and holds its outputs until it completes.
-/

namespace Sys2Proof.Machine

/-! ### Operand reads -/

/-- Bytes taken from a stream port into what a TOD has already taken, up to `need` (R314). -/
def drawPort (x : Tile) (port : Nat) (got : List PByte) (need : Nat) : Tile × List PByte :=
  let q := x.ports.get port
  let k := min q.length (need - got.length)
  ({ x with ports := x.ports.set port (q.drop k) }, got ++ q.take k)

/-- One operand drawn from its port, if it names one. -/
def drawOp (x : Tile) (p : Operand) (got : List PByte) : Tile × List PByte :=
  if (opWord p.word).strm then drawPort x (opWord p.word).port got p.size else (x, got)

/-- Whether a stream operand still lacks bytes. -/
def lacks (p : Operand) (got : List PByte) : Bool := (opWord p.word).strm && decide (got.length < p.size)

/-- The bytes of an operand: those taken from its port, or the buffer's. -/
def opData (s : State) (t : Nat) (p : Operand) (got : List PByte) : List PByte :=
  let w := opWord p.word
  if w.strm then got else loadHandle s t (handleOf s t w.handle) w.off p.size

/-- The lines that the reads consume. -/
def allConsumed (s : State) (t : Nat) (ops : List Operand) : List Nat :=
  ((bufReads ops).flatMap fun p => let w := opWord p.word; consumes (handleOf s t w.handle) w.off p.size).eraseDups

/-- The rounding of an output element (R50, R51), from the key-table entries that the TOD read when it issued (R100). -/
def rndOf (w : TodSlot) : Nat → Nat → Rnd :=
  match wfld w.bytes 4 19 18, w.keys with
  | 1, _ => fun _ _ => .rtz
  | 2, some k =>
    let tab := plain k.1
    fun row i => .sr (roundU (BitVec.ofNat 64 (leAt tab (16 * row) 8)) k.2 (leAt tab (16 * row + 8) 4) i)
  | _, _ => fun _ _ => .rne

/-- Whether the seed or the position of a row's key-table entry is poisoned (R55). -/
def rndPoisOf (w : TodSlot) (row : Nat) : Bool := match w.keys with | some k => anyPois (pAt k.1 (16 * row) 12) | none => false

/-- The outputs of a TOD are ready and wait for TOD_COMPLETE: in the gather buffer, or, of an array TOD through a LINEAR view, in accumulator
memory (R116, R119). -/
def setOutputs (s : State) (t : Nat) (w : TodSlot) (gather : Bool) (outs : List (Nat × PByte)) (consumed : List Nat) (nan sat : Nat) : State :=
  let s := updTod s t w.uid fun y => { y with
    phase := .computed, starved := false, outs := if gather then [] else outs, fills := linesOf (outs.map (·.1))
    consumed := consumed, wgot := [], agot := [] }
  let s := refreshWait (updTile s t fun x => noteArith x w.ctx nan sat) t w.ctx
  if gather then gatherAll s t w.uid outs else s

/-- A TOD that lacks stream bytes keeps what it has taken and takes bubbles (R90). -/
def keepGot (s : State) (t : Nat) (w : TodSlot) (x : Tile) (wg ag : List PByte) : State :=
  refreshWait (updTod (updTile s t fun _ => x) t w.uid fun y => { y with wgot := wg, agot := ag, starved := true }) t w.ctx

/-! ### Array TODs -/

/-- The weight operand of an array TOD that loads weights, and its activation operand. -/
def weightOp (o : Nat) (b : Bytes) : Operand := ⟨leAt b 16 4, weightSize o (arrayTod b), false⟩
def actOp (o : Nat) (b : Bytes) : Operand := ⟨leAt b 20 4, if o = 0x13 then 0 else actSize o (arrayTod b), false⟩
def resultOp (o : Nat) (b : Bytes) : Operand := ⟨leAt b 24 4, if o = 0x13 then 0 else outSize o (arrayTod b), true⟩

/-- Everything that an array TOD reads. -/
def arrayReads (o : Nat) (b : Bytes) (key : Option RKey) : List Operand :=
  let t := arrayTod b
  (arrayOps o b).filter (fun p => !p.out) ++ keyOps b key ++ if o ≠ 0x13 && t.acc then [{ resultOp o b with out := false }] else []

/-- What it reads while it runs: all but its level block and its row-key table, which it read when it issued. -/
def arrayData (o : Nat) (b : Bytes) : List Operand :=
  let t := arrayTod b
  (if loadsW o t then [weightOp o b] else []) ++ (if o = 0x13 then [] else [actOp o b]) ++
    if o ≠ 0x13 && t.acc then [{ resultOp o b with out := false }] else []

/-- The stored column of a K-fold and logical column with the levels of its array: freshly loaded, or retained (R83). -/
def colOf (x : Tile) (a : ArrayTod) (i : ArrayIn) (kf c : Nat) : LCol :=
  if a.reuse then
    let r := fun (arr : Bool) (n : Nat) => match retOf x arr with | some r => ⟨r.cols.getD n zeroCol, r.levels⟩ | none => ⟨zeroCol, []⟩
    if a.arr = 0 then r false c else if a.arr = 1 then r true c else if c < i.wc0 then r false c else r true (c - i.wc0)
  else
    let w := weightCol a.wfmt a.k a.n i.w kf c
    ⟨{ w with pois := w.pois || levelPois a.wfmt i.levels }, plain i.levels⟩

/-- The retained weights after a TOD that loads weights (R83): kept, or discarded, in each named array. -/
def retainAll (a : ArrayTod) (wop : W32) (i : ArrayIn) (x : Tile) : Tile :=
  let r := fun (wc lo : Nat) => if a.keep then some (retainOf a wop i wc lo) else none
  let x := if a.arr = 1 then x else { x with ret0 := r i.wc0 0 }
  if a.arr = 0 then x else { x with ret1 := r i.wc1 (if a.arr = 2 then i.wc0 else 0) }

/-- The bytes of output elements, row-major. -/
def elemOut (ofmt : Nat) (es : List OutElem) : List PByte :=
  es.flatMap fun e => (leBytes (elemBytes ofmt) e.c.code).map fun b => (b, e.pois)

/-- What an array TOD reads, on tile state `x` and with the bytes taken from stream ports. -/
def arrayInput (o : Nat) (s : State) (t : Nat) (w : TodSlot) (x : Tile) (wg ag : List PByte) : ArrayIn :=
  let b := w.bytes
  let a := arrayTod b
  { w := if a.reuse then [] else opData s t (weightOp o b) wg
    a := opData s t (actOp o b) ag
    old := if a.acc then opData s t (resultOp o b) [] else []
    levels := w.levels
    wc0 := presented a.wfmt x.w0
    wc1 := presented a.wfmt x.w1
    rnd := rndOf w
    rndPois := rndPoisOf w }

/-- The output elements of MMA, MMA_T and DIST, row-major. -/
def arrayElems (o : Nat) (b : Bytes) (x : Tile) (i : ArrayIn) : List OutElem :=
  let a := arrayTod b
  let col := colOf x a i
  if o = 0x11 then transAll a i col else forwardAll (o = 0x12) a i col

/-- The output bytes of MMA, MMA_T and DIST at their tile physical addresses. -/
def arrayOuts (o : Nat) (s : State) (t : Nat) (w : TodSlot) (x : Tile) (wg ag : List PByte) : List (Nat × PByte) :=
  (outAddrs s t (resultOp o w.bytes)).zip (elemOut (arrayTod w.bytes).ofmt (arrayElems o w.bytes x (arrayInput o s t w x wg ag)))

/-- An array TOD with all its operands: MMA, MMA_T and DIST. -/
def arrayFinish (o : Nat) (s : State) (t : Nat) (w : TodSlot) (x : Tile) (wg ag : List PByte) : State :=
  let b := w.bytes
  let a := arrayTod b
  let i := arrayInput o s t w x wg ag
  let es := arrayElems o b x i
  let outs := arrayOuts o s t w x wg ag
  let x := if a.reuse then x else retainAll a (BitVec.ofNat 32 (leAt b 16 4)) i x
  let reads := arrayReads o b (x.ctxs.get w.ctx).key
  let view := (handleOf s t (opWord (leAt b 24 4)).handle).view
  let s := eccNote (updTile s t fun _ => x) (allKeys s t (arrayData o b))
  setOutputs s t w (view ≠ 0) outs (allConsumed s t reads) (es.countP (·.c.nan)) (es.countP (·.c.sat))

/-- ASHIFT with its operand (R84). -/
def shiftFinish (s : State) (t : Nat) (w : TodSlot) (x : Tile) (wg : List PByte) : State :=
  let b := w.bytes
  let a := arrayTod b
  let wd := opData s t (weightOp 0x13 b) wg
  let wop : W32 := BitVec.ofNat 32 (leAt b 16 4)
  let x := if a.arr = 1 then x else { x with ret0 := x.ret0.map fun r => shiftCols a wd r wop }
  let x := if a.arr = 0 then x else { x with ret1 := x.ret1.map fun r => shiftCols a wd r wop }
  let reads := arrayOps 0x13 b
  setOutputs (eccNote (updTile s t fun _ => x) (allKeys s t reads)) t w false [] (allConsumed s t reads) 0 0

/-- The output rounds of an array TOD that were written before an unfilled line was read: at most those before the first round whose weights
meet one (R71, R108). An MMA_T, and a TOD whose activations or old outputs meet one, has written none. -/
def roundsBefore (o : Nat) (s : State) (t : Nat) (w : TodSlot) (x : Tile) : Nat :=
  let a := arrayTod w.bytes
  let wo := opWord (weightOp o w.bytes).word
  let rest := (arrayData o w.bytes).filter fun p => p ≠ weightOp o w.bytes
  if o = 0x11 || o = 0x13 || anyUnfilled s t rest then 0
  else
    let rw := roundWidth a (presented a.wfmt x.w0) (presented a.wfmt x.w1)
    let g := groupBytes a.wfmt
    let bad := fun r => (List.range (ceilDiv a.k 128)).any fun kf =>
      let c := min a.n ((r + 1) * rw) - r * rw
      guardFails s t (handleOf s t wo.handle) (wo.off + (kf * a.n + r * rw) * g) (c * g)
    ((List.range (ceilDiv a.n rw)).takeWhile fun r => !bad r).length

/-- The outputs of an array TOD written before it met an unfilled line: those of a free number of the rounds before it. -/
def arrayWritten (o : Nat) (s : State) (t : Nat) (w : TodSlot) (x : Tile) (wg ag : List PByte) : List (Nat × PByte) :=
  let a := arrayTod w.bytes
  let n := Config.freePick s.free (roundsBefore o s t w x + 1) % (roundsBefore o s t w x + 1)
  if n = 0 then []
  else
    let rw := roundWidth a (presented a.wfmt x.w0) (presented a.wfmt x.w1)
    (arrayOuts o s t w x wg ag).zipIdx.filterMap fun p => if p.2 / elemBytes a.ofmt % a.n < n * rw then some p.1 else none

/-- A running array TOD draws its stream operands, and computes once it has them. One that loads weights and ends with SLOT_EMPTY leaves the
weights retained before as they are: R83 discards them at a load, and the load has not been made (DESIGN CHOICE, assumption log 152). -/
def arrayGo (o t : Nat) (w : TodSlot) (s : State) : State :=
  let a := arrayTod w.bytes
  let wo := weightOp o w.bytes
  let ao := actOp o w.bytes
  let loads := loadsW o a
  let r1 := if loads then drawOp (s.tiles.get t) wo w.wgot else (s.tiles.get t, w.wgot)
  let r2 := if o = 0x13 then (r1.1, w.agot) else drawOp r1.1 ao w.agot
  if (loads && lacks wo r1.2) || (o ≠ 0x13 && lacks ao r2.2) then keepGot s t w r2.1 r1.2 r2.2
  else
    let s := updTile s t fun _ => r2.1
    if anyUnfilled s t (arrayData o w.bytes) then
      execFault { s with free := s.free + 1 } t w 0x0A (arrayWritten o s t w r2.1 r1.2 r2.2)
    else if o = 0x13 then shiftFinish s t w r2.1 r1.2 else arrayFinish o s t w r2.1 r1.2 r2.2

/-- MMA (R71 to R83). -/
def execMma (t : TileNo) (w : Nat) (s : State) : Ans := runTod 0x10 t.val w (arrayGo 0x10 t.val) s

/-- MMA_T (R85). -/
def execMmaT (t : TileNo) (w : Nat) (s : State) : Ans := runTod 0x11 t.val w (arrayGo 0x11 t.val) s

/-- DIST (R86 to R88). -/
def execDist (t : TileNo) (w : Nat) (s : State) : Ans := runTod 0x12 t.val w (arrayGo 0x12 t.val) s

/-- ASHIFT (R84). -/
def execAshift (t : TileNo) (w : Nat) (s : State) : Ans := runTod 0x13 t.val w (arrayGo 0x13 t.val) s

/-! ### Vector TODs -/

/-- Operands A, B and output of a vector TOD. -/
def vecA (o : Nat) (b : Bytes) : Operand := ⟨leAt b 16 4, (vecSizes o (vecTod b)).1, false⟩
def vecB (o : Nat) (b : Bytes) : Operand := ⟨leAt b 20 4, if o = 0x26 then 0 else (vecSizes o (vecTod b)).2.1, false⟩
def vecO (o : Nat) (b : Bytes) : Operand := ⟨leAt b 24 4, (vecSizes o (vecTod b)).2.2, true⟩
def vecIdx (o : Nat) (b : Bytes) : Operand := ⟨leAt b 20 4, if o = 0x26 then (vecSizes o (vecTod b)).2.1 else 0, true⟩

/-- What a vector TOD reads while it runs, and everything that it reads. -/
def vecData (o : Nat) (b : Bytes) : List Operand := [vecA o b, vecB o b]
def vecReads (o : Nat) (b : Bytes) (key : Option RKey) : List Operand := [vecA o b, vecB o b] ++ keyOps b key

/-- The result of a vector TOD from its operands' bytes. -/
def vecResult (o : Nat) (s : State) (t : Nat) (w : TodSlot) (ag bg : List PByte) : VecOut :=
  vecAll o (vecTod w.bytes) s.free (rndOf w) (rndPoisOf w) (opData s t (vecA o w.bytes) ag) (opData s t (vecB o w.bytes) bg)

/-- The output bytes of a vector TOD at their tile physical addresses. -/
def vecOuts (o : Nat) (s : State) (t : Nat) (w : TodSlot) (ag bg : List PByte) : List (Nat × PByte) :=
  let r := vecResult o s t w ag bg
  (outAddrs s t (vecO o w.bytes)).zip r.o ++ (outAddrs s t (vecIdx o w.bytes)).zip r.b

/-- A vector TOD with all its operands. -/
def vecFinish (o : Nat) (s : State) (t : Nat) (w : TodSlot) (ag bg : List PByte) : State :=
  let v := vecTod w.bytes
  let reads := vecReads o w.bytes ((s.tiles.get t).ctxs.get w.ctx).key
  let s1 := eccNote { s with free := s.free + v.m * (v.l + v.d + 256) } (allKeys s t (vecData o w.bytes))
  setOutputs s1 t w true (vecOuts o s t w ag bg) (allConsumed s t reads) (vecResult o s t w ag bg).nans 0

/-- The rows of a vector TOD before the first that meets an unfilled line. -/
def rowsBefore (o : Nat) (s : State) (t : Nat) (w : TodSlot) : Nat :=
  let v := vecTod w.bytes
  let bad := fun (p : Operand) row =>
    let q := opWord p.word
    let z := if o = 0x21 ∧ p = vecB o w.bytes then p.size else p.size / v.m
    !q.strm && z ≠ 0 && guardFails s t (handleOf s t q.handle) (q.off + if z = p.size then 0 else row * z) z
  ((List.range v.m).takeWhile fun row => !(vecData o w.bytes).any fun p => bad p row).length

/-- The outputs of a vector TOD written before it met an unfilled line: those of a free number of the rows before it (R108). -/
def vecWritten (o : Nat) (s : State) (t : Nat) (w : TodSlot) (ag bg : List PByte) : List (Nat × PByte) :=
  let r := vecResult o s t w ag bg
  let m := (vecTod w.bytes).m
  let n := Config.freePick s.free (rowsBefore o s t w + 1) % (rowsBefore o s t w + 1)
  ((outAddrs s t (vecO o w.bytes)).zip r.o).take (n * (r.o.length / m)) ++ ((outAddrs s t (vecIdx o w.bytes)).zip r.b).take (n * (r.b.length / m))

/-- A running vector TOD draws its stream operands, and computes once it has them. -/
def vecGo (o t : Nat) (w : TodSlot) (s : State) : State :=
  let r1 := drawOp (s.tiles.get t) (vecA o w.bytes) w.agot
  let r2 := drawOp r1.1 (vecB o w.bytes) w.wgot
  if lacks (vecA o w.bytes) r1.2 || lacks (vecB o w.bytes) r2.2 then keepGot s t w r2.1 r2.2 r1.2
  else
    let s := updTile s t fun _ => r2.1
    if anyUnfilled s t (vecData o w.bytes) then execFault { s with free := s.free + 1 } t w 0x0A (vecWritten o s t w r1.2 r2.2)
    else vecFinish o s t w r1.2 r2.2

/-- SOFTMAX (R92, R94, R95). -/
def execSoftmax (t : TileNo) (w : Nat) (s : State) : Ans := runTod 0x20 t.val w (vecGo 0x20 t.val) s

/-- RMSNORM (R92, R95). -/
def execRmsnorm (t : TileNo) (w : Nat) (s : State) : Ans := runTod 0x21 t.val w (vecGo 0x21 t.val) s

/-- GLU (R92). -/
def execGlu (t : TileNo) (w : Nat) (s : State) : Ans := runTod 0x22 t.val w (vecGo 0x22 t.val) s

/-- ROPE (R92, R93). -/
def execRope (t : TileNo) (w : Nat) (s : State) : Ans := runTod 0x23 t.val w (vecGo 0x23 t.val) s

/-- QUANT (R92, R53). -/
def execQuant (t : TileNo) (w : Nat) (s : State) : Ans := runTod 0x24 t.val w (vecGo 0x24 t.val) s

/-- DEQUANT (R92). -/
def execDequant (t : TileNo) (w : Nat) (s : State) : Ans := runTod 0x25 t.val w (vecGo 0x25 t.val) s

/-- TOPK (R92, R93). -/
def execTopk (t : TileNo) (w : Nat) (s : State) : Ans := runTod 0x26 t.val w (vecGo 0x26 t.val) s

/-- EWISE (R92). -/
def execEwise (t : TileNo) (w : Nat) (s : State) : Ans := runTod 0x27 t.val w (vecGo 0x27 t.val) s

/-- CONVERT (R92, R50, R52). -/
def execConvert (t : TileNo) (w : Nat) (s : State) : Ans := runTod 0x28 t.val w (vecGo 0x28 t.val) s

end Sys2Proof.Machine
end

