-- ==== Sys2Proof/Machine/Sync.lean ====
section
/-!
DEFINITION. Sync TODs (R97 to R100, R376), the sync unit (R395 to R400), module and cascade barriers (R401 to R406, R411,
R412) and the beacon (R407 to R409).
-/

namespace Sys2Proof.Machine

/-! ### The event doorbell -/

/-- A number written to EVR_DOORBELL: a software source fires, any other is counted (R414). -/
def doorbell (s : State) (n : Nat) : State :=
  if 960 ≤ n ∧ n < 1024 then fire s n else { s with evr := { s.evr with dbIgn := satInc s.evr.dbIgn 1 } }

/-! ### NOP, EVENT, SRKEY, TASK_END -/

/-- NOP (R65) completes at issue. -/
def execTodNop (t : TileNo) (w : Nat) (s : State) : Ans := runTod 0x00 t.val w (fun x s => completeTod s t.val x) s

/-- EVENT writes its source number to EVR_DOORBELL (R99). -/
def eventGo (t : Nat) (w : TodSlot) (s : State) : State := completeTod (doorbell s (fld (syncWord w.bytes) 9 0)) t w

/-- EVENT (R99). -/
def execEvent (t : TileNo) (w : Nat) (s : State) : Ans := runTod 0x33 t.val w (eventGo t.val) s

/-- SRKEY sets its context's rounding key (R100). -/
def srkeyGo (t : Nat) (w : TodSlot) (s : State) : State :=
  completeTod (updTile s t fun x => { x with ctxs := x.ctxs.upd w.ctx fun k =>
    { k with key := some ⟨BitVec.ofNat 32 (syncWord w.bytes), wfld w.bytes 8 11 0⟩ } }) t w

/-- SRKEY (R100). -/
def execSrkey (t : TileNo) (w : Nat) (s : State) : Ans := runTod 0x36 t.val w (srkeyGo t.val) s

/-- The arithmetic flags of a context go to its command and are cleared (R105). -/
def takeFlags (s : State) (t c : Nat) (j : Option JobRef) : State :=
  let k := (s.tiles.get t).ctxs.get c
  let s := match j with
    | some j => updJob s j fun b => { b with intSat := b.intSat || k.intSat, nanCvt := b.nanCvt || k.nanCvt }
    | none => s
  updTile s t fun x => { x with ctxs := x.ctxs.upd c fun k => { k with intSat := false, nanCvt := false } }

/-- A context becomes idle (R63, R100): no key, no command; a waiting retirement may take effect. -/
def endContext (s : State) (t c : Nat) : State :=
  updTile s t fun x => settleTile { x with ctxs := x.ctxs.upd c fun k => { k with active := false, wait := false, key := none, job := none } }

/-- The running kernels that wait for a context's TASK_END. -/
def awaiting (s : State) (t c : Nat) (j : Option JobRef) : List JobRef :=
  s.cp.jobs.filterMap fun p =>
    match p.2.body with
    | .kernel k => if k.ends.contains (t, c) && (j = some p.1 || k.release) then some p.1 else none
    | _ => none

/-- TASK_END (R99, R376): the rest of its list does not issue; the context is idle and its kernels learn of it. -/
def taskEndGo (t : Nat) (w : TodSlot) (s : State) : State :=
  let j := todJob s t w
  let js := awaiting s t w.ctx j
  let s := updTile s t fun x => { x with window := x.window.filter fun y => !(y.listed && y.ctx = w.ctx && y.uid ≠ w.uid) }
  let s := completeTod s t { w with lastListed := w.listed }
  let s := endContext (takeFlags s t w.ctx j) t w.ctx
  let s := js.foldl (fun s j => updKernel s j fun k => { k with ends := k.ends.filter fun e => e ≠ (t, w.ctx) }) s
  js.foldl unitDone (handCtxs s)

/-- TASK_END (R99). -/
def execTaskEnd (t : TileNo) (w : Nat) (s : State) : Ans := runTod 0x35 t.val w (taskEndGo t.val) s

/-! ### SEM_SIGNAL, SEM_WAIT -/

/-- SEM_SIGNAL sends its count to the target tile and waits for the report (R98). -/
def semSignalGo (t : Nat) (w : TodSlot) (s : State) : State :=
  let v := syncWord w.bytes
  sendSig (updTod s t w.uid fun y => { y with phase := .reporting, report := none }) (fld v 31 24) ⟨fld v 21 16, fld v 7 0, .tod t w.uid, none⟩

/-- SEM_SIGNAL (R98). -/
def execSemSignal (t : TileNo) (w : Nat) (s : State) : Ans := runTod 0x30 t.val w (semSignalGo t.val) s

/-- SEM_SIGNAL_REPORT (R98, R399): the report returns; an overflow faults the context. -/
def execSemSignalReport (t : TileNo) (n : Nat) (s : State) : Ans :=
  match todAt s t.val n with
  | none => .next s
  | some w =>
    match w.phase, w.report with
    | .reporting, some true => .next (completeTod s t.val w)
    | .reporting, some false => .next (ctxFault s t.val w 0x08)
    | _, _ => .next s

/-- SEM_WAIT joins its tile's line (R97). -/
def semWaitGo (t : Nat) (w : TodSlot) (s : State) : State :=
  joinLine (updTod s t w.uid fun y => { y with released := true }) t w (fld (syncWord w.bytes) 21 16) (fld (syncWord w.bytes) 7 0)

/-- SEM_WAIT (R97). -/
def execSemWait (t : TileNo) (w : Nat) (s : State) : Ans := runTod 0x31 t.val w (semWaitGo t.val) s

/-! ### The sync unit (R398) -/

/-- RKIND, RDIE, RUNIT and RCH of a requester on tile `t0`'s registers. -/
def whoFields (s : State) : Requester → Nat × Nat × Nat × Nat
  | .tod t u => (1, t / 32, t % 32, match todOf s t u with | some w => w.ctx | none => 0)
  | .chan e ch => if e = 144 then (4, 0, 0, ch) else if e % 18 < 16 then (2, e / 18, e % 18, ch) else (3, e / 18, e % 18, ch)
  | .seq d _ => (5, d, 0, 0)
  | .xch d => (3, d, 16, 0)

/-- A semaphore fault recorded by the holding tile (R399); the source fires unless the requester is its own context. -/
def holderFault (s : State) (t : Nat) (ovf : Bool) (sem : Nat) (who : Requester) : State :=
  let f := whoFields s who
  let s := updTile s t fun x => semErr x ovf sem f.1 f.2.1 f.2.2.1 f.2.2.2
  match who with
  | .tod t' _ => if t' = t then s else fire s (256 + t)
  | _ => fire s (256 + t)

/-- The unit record of a requester other than a TOD with a semaphore cause (R399). -/
def whoUnit (s : State) (who : Requester) (cause : Nat) : W64 :=
  match who with
  | .chan e ch => chanUnit s e ch cause 0 0 true
  | w => let f := whoFields s w; unitRec f.1 f.2.1 f.2.2.1 f.2.2.2 cause 0 0 0 0 true

/-- One signal applied or refused, and reported (R396, R399). -/
def serveSig (s : State) (t : Nat) (g : SemSig) : State :=
  let ok := semFits (s.tiles.get t) g.sem g.count
  let s := if ok then updTile s t fun x => applySig x g.sem g.count else holderFault s t true g.sem g.who
  match g.who with
  | .tod t' u => updTod s t' u fun w => if w.phase = .reporting then { w with report := some ok } else w
  | who =>
    match ok, g.job with
    | false, some j => unitFault s j .semOverflow (whoUnit s who 0x08)
    | _, _ => s

/-- The request leaves the line. -/
def leaveLine (s : State) (t : Nat) (r : SemReq) : State := updTile s t fun x => { x with line := x.line.erase r }

/-- A wait refused with SEM_UNDERFLOW (R397, R399). -/
def refuseWait (s : State) (t : Nat) (r : SemReq) : State :=
  let s := holderFault (leaveLine s t r) t false r.sem r.who
  match r.who with
  | .tod t' u => match todOf s t' u with | some w => ctxFault s t' w 0x09 | none => s
  | .chan e ch =>
    match (chanOf s e ch).prog.find? fun d => d.phase = .waiting with
    | none => s
    | some d =>
      let u := chanUnit s e ch 0x09 (byteN d.bytes 0) d.qidx true
      let s := updChan s e ch fun c => { c with prog := c.prog.filter (· ≠ d) }
      match d.job with | some j => unitDone (unitFault s j .semUnderflow u) j | none => s
  | _ => s

/-- A wait that subtracts, and what its requester does next. -/
def grantWait (s : State) (t : Nat) (r : SemReq) : State :=
  let s := updTile (leaveLine s t r) t fun x => applyWait x r.sem r.count
  match r.who with
  | .tod t' u =>
    match todOf s t' u with
    | none => s
    | some w =>
      if todPwait w.bytes && !w.released then
        issueTod s t' w
      else completeTod s t' w
  | .chan e ch => updChan s e ch fun c => { c with prog := c.prog.map fun d => if d.phase = .waiting then { d with phase := .waited } else d }
  | _ => s

/-- Whether a line entry is the PWAIT of a TOD, which issues when it is served. -/
def pwaitTod (s : State) (r : SemReq) : Option (Nat × TodSlot) :=
  match r.who with
  | .tod t u => match todOf s t u with | some w => if todPwait w.bytes && !w.released then some (t, w) else none | none => none
  | _ => none

/-- One request of the line in its turn; `blocked` are the semaphores with an earlier wait still in line. -/
def serveWait (t : Nat) (q : State × List Nat) (r : SemReq) : State × List Nat :=
  let s := q.1
  let x := s.tiles.get t
  if !x.line.contains r then q
  else
    let held := q.2.contains r.sem || decide ((x.sems.get r.sem).toNat < r.count)
    match pwaitTod s r with
    | some (t', w) =>
      if !issues s t' w then (s, if r.checked then q.2 else r.sem :: q.2)
      else if held && !r.checked then (s, r.sem :: q.2)
      else
        match checkTod s t' w with
        | some c => (ctxFault (activate (leaveLine s t r) t' w.ctx) t' w c, q.2)
        | none => (if held then refuseWait s t r else grantWait s t r, q.2)
    | none =>
      if !held then (grantWait s t r, q.2)
      else if r.checked then (refuseWait s t r, q.2) else (s, r.sem :: q.2)

/-- Whether a signal comes from the tile itself. -/
def ownSig (t : Nat) (g : SemSig) : Bool := match g.who with | .tod t' _ => t' = t | _ => false

/-- SEM_REQUEST (R398): signals first, the tile's own before the others, then waits in arrival order. -/
def execSemRequest (t : TileNo) (s : State) : Ans :=
  let box := (s.tiles.get t.val).inbox
  let s := updTile s t.val fun x => { x with inbox := [] }
  let s := (box.filter (ownSig t.val) ++ box.filter fun g => !ownSig t.val g).foldl (fun s g => serveSig s t.val g) s
  let s := (box.filterMap (·.job)).eraseDups.foldl unitDone s
  .next ((s.tiles.get t.val).line.foldl (serveWait t.val) (s, [])).1

/-! ### QWAIT (R376) -/

/-- The listed TODs of an entry, as they enter the window behind their QWAIT. -/
def listedTods (s : State) (t : Nat) (w : TodSlot) (e : QEntry) (n : Nat) : List TodSlot :=
  let x := s.tiles.get t
  let h := handleOf s t x.qHandle.toNat
  (List.range n).map fun i =>
    { newTod (x.nextUid + i) (plain (loadHandle s t h (32 * (e.tlist + i)) 32)) ((e.tlist + i) % 256) w.ctx false w.job with
      listed := true
      launch := if e.kind = 0 then none else some e.token.toNat
      lastListed := i + 1 = n }

/-- QWAIT pops the head entry of its queue, or stalls. -/
def qwaitGo (t : Nat) (w : TodSlot) (s : State) : State :=
  let q := fld (syncWord w.bytes) 3 0
  match (s.tiles.get t).queues.get q with
  | [] => refreshWait (updTod s t w.uid fun y => { y with starved := true }) t w.ctx
  | e :: r =>
    let s := updTod (updTile s t fun x => { x with queues := x.queues.set q r }) t w.uid fun y => { y with starved := false }
    let n := if e.tcount = 0 then 256 else e.tcount
    let h := handleOf s t (s.tiles.get t).qHandle.toNat
    let s :=
      if e.bad then ctxFault s t w 0x02
      else if !h.valid || h.logical < 32 * (e.tlist + n) then ctxFault s t w 0x0D
      else if guardFails s t h (32 * e.tlist) (32 * n) then ctxFault s t w 0x0A
      else
        let l := listedTods s t w e n
        let s := clearFill s t (consumes h (32 * e.tlist) (32 * n))
        let s := updTile s t fun x => { x with
          nextUid := x.nextUid + n
          window := x.window.flatMap fun y => if y.uid = w.uid then y :: l else [y] }
        completeTod s t w
    feedAll s

/-- QWAIT (R376). -/
def execQwait (t : TileNo) (w : Nat) (s : State) : Ans := runTod 0x34 t.val w (qwaitGo t.val) s

/-! ### Barriers -/

/-- A module or cascade barrier. -/
def barOf (s : State) (casc : Bool) (b : Nat) : Barrier := if casc then s.bcn.cbar.get b else s.bcn.mbar.get b

/-- A barrier changed by `f`. -/
def updBar (s : State) (casc : Bool) (b : Nat) (f : Barrier → Barrier) : State :=
  { s with bcn := if casc then { s.bcn with cbar := s.bcn.cbar.upd b f } else { s.bcn with mbar := s.bcn.mbar.upd b f } }

/-- The placement of an entry (R402): the barrier, and whether the phase is an error. -/
def placeEntry (b : Barrier) (p : Part) : Barrier × Bool :=
  let ph := phaseOf b p
  let b' := setPhase b p (ph + 1)
  match (ph + 4 - b.round.toNat) % 4 with
  | 0 => ({ b' with cnt0 := b.cnt0 + 1, in0 := b.in0 ++ [p] }, false)
  | 1 => ({ b' with cnt1 := b.cnt1 + 1, in1 := b.in1 ++ [p] }, false)
  | 2 => ({ b' with held := b.held ++ [p] }, false)
  | _ => ({ b' with phaseErr := true }, true)

/-- The cascade time (R408). -/
def cascTime (s : State) : W64 := now s + s.bcn.offset

/-- The members of a cascade barrier: every module of the light list, this one among them. -/
def membersIn (s : State) : List Nat :=
  (List.range 512).filter fun i => i = selfModule s || (let m := s.lk.members.get i; m.valid && !m.lost && !m.standby)

/-- The root has ARRIVE for the barrier's round from every member: it sends RELEASE (R411 step 2). -/
def rootCheck (s : State) (c : Nat) : State :=
  let b := barOf s true c
  let all := (membersIn s).all fun m => b.arrived.contains (4 * m + b.round.toNat)
  if s.bcn.root && all && b.trel.isNone && !b.arrived.isEmpty then
    let t := cascTime s + BitVec.ofNat 64 s.bcn.margin.toNat
    let s := (membersIn s).foldl (fun s m =>
      if m = selfModule s then s
      else sendTo s m kindRelease (leBytes 2 m ++ leBytes 1 c ++ leBytes 1 b.round.toNat ++ leBytes 8 t.toNat)) s
    updBar s true c fun b => { b with trel := some t, arrived := b.arrived.filter fun a => a % 4 ≠ b.round.toNat }
  else s

/-- A member whose local count has reached LOCAL_EXPECT sends ARRIVE once in a round (R411 step 1). -/
def sendArrive (s : State) (c : Nat) : State :=
  let b := barOf s true c
  if b.en && !b.sentArrive && b.expect ≤ b.cnt0 then
    let s := updBar s true c fun b => { b with sentArrive := true }
    if s.bcn.root then rootCheck (updBar s true c fun b => { b with arrived := b.arrived ++ [4 * selfModule s + b.round.toNat] }) c
    else sendTo s 0 kindArrive (leBytes 2 (selfModule s) ++ leBytes 1 c ++ leBytes 1 b.round.toNat)
  else s

/-- A participant enters a barrier; a phase error is reported by source 660 (R402, R406). -/
def enterBar (s : State) (casc : Bool) (b : Nat) (p : Part) : State × Bool :=
  let r := placeEntry (barOf s casc b) p
  let s := updBar s casc b fun _ => r.1
  if r.2 then (fire s 660, true) else (if casc then sendArrive s b else s, false)

/-- An entrant is released: its TOD or its command completes (R404); that of a die stack that lends is held (R506). -/
def releasePart (s : State) (p : Part) : State :=
  match p with
  | .job j => finish s j .ok (now s)
  | .ctx t c =>
    match (s.tiles.get t).window.find? fun w => w.ctx = c && w.phase = .stalled && todOpc w.bytes = 0x32 with
    | some w => if lends s (t / 32) then updTod s t w.uid fun y => { y with released := true } else completeTod s t w
    | none => s

/-- The barrier TOD of a tile whose release is held, if there is one. -/
def heldBarrier (s : State) (t : Nat) : Option TodSlot :=
  (s.tiles.get t).window.find? fun w => w.phase = .stalled && w.released && todOpc w.bytes = 0x32

/-- The held releases of a tile, one for each context at most. -/
def freeTile (s : State) (t : Nat) : State :=
  (List.range 4).foldl (fun s _ => match heldBarrier s t with | some w => completeTod s t w | none => s) s

/-- The contexts of a die stack whose loan has been recalled go on (R506). -/
def freeLender (s : State) (d : Nat) : State :=
  if lends s d then s else ((List.range 32).map (32 * d + ·)).foldl freeTile s

/-- The same for every die stack. -/
def freeLenders (s : State) : State := (List.range 8).foldl freeLender s

/-- A barrier after its round: n advances, CNT1 moves into CNT0, held entries are placed again (R403). -/
def nextRound (b : Barrier) : Barrier :=
  { b with
    round := b.round + 1
    cnt0 := b.cnt1, in0 := b.in1
    cnt1 := b.held.length, in1 := b.held, held := []
    sentArrive := false, trel := none }

/-- A round completes and its entrants are released. -/
def completeRound (s : State) (casc : Bool) (b : Nat) : State :=
  let out := (barOf s casc b).in0
  let s := updBar s casc b nextRound
  let s := out.foldl releasePart s
  if casc then rootCheck (sendArrive s b) b else s

/-- The BARRIER TOD enters a module barrier (R99, R402). -/
def todBarrierGo (t : Nat) (w : TodSlot) (s : State) : State :=
  let r := enterBar s false (fld (syncWord w.bytes) 4 0) (.ctx t w.ctx)
  if r.2 then ctxFault r.1 t w 0x0E else refreshWait (updTod r.1 t w.uid fun y => { y with phase := .stalled, released := false }) t w.ctx

/-- BARRIER TOD (R402); one whose held release no loan holds any more goes on. -/
def execTodBarrier (t : TileNo) (w : Nat) (s : State) : Ans :=
  if !lends s (t.val / 32) && (heldBarrier s t.val).isSome then .next (freeTile s t.val) else runTod 0x32 t.val w (todBarrierGo t.val) s

/-- The checks of the BARRIER work command (R354, R358). -/
def checkBarrier (e : Bytes) : Option Status :=
  firstFail [(1 < byteN e 16 || (if byteN e 16 = 0 then 31 else 63) < byteN e 17, .lenRange)]

/-- The BARRIER work command enters its barrier and waits for the release (R404, R405). -/
def runBarrier (j : JobRef) (e : Bytes) (s : State) : State :=
  checkThen (checkBarrier e) j (fun s =>
    let casc := byteN e 16 = 1
    let b := byteN e 17
    if !(barOf s casc b).en then finish s j .notReady 0
    else
      let r := enterBar (setBody s j (.barrier casc b)) casc b (.job j)
      if r.2 then finish r.1 j .engineFault 0 else r.1) s

/-- BARRIER (R404). -/
def execBarrier (st : Stream) (s : State) : Ans := startEntry 0x0A st.val runBarrier s

/-- BARRIER_ROUND_COMPLETE (R403): CNT0 has reached EXPECT. A cascade barrier's round completes once its RELEASE is here. -/
def execBarrierRoundComplete (casc : Bool) (b : Fin 64) (s : State) : Ans :=
  let x := barOf s casc b.val
  if casc then (if x.trel.isSome then .next (completeRound s true b.val) else .next s)
  else if x.en && decide (x.expect ≤ x.cnt0) then .next (completeRound s false b.val) else .next s

/-- Whether a barrier is idle (R405). -/
def barIdle (b : Barrier) : Bool := b.cnt0 = 0 && b.cnt1 = 0 && b.in0.isEmpty && b.in1.isEmpty && b.held.isEmpty

/-- A barrier after a write of its register: W1C bits act, an accepted configuring write clears rounds, counts and phases, a
refused one sets CFG_ERR (R405). -/
def writeBar (casc : Bool) (v : W64) (b : Barrier) : Barrier × Bool :=
  let b := { b with phaseErr := b.phaseErr && !rbit v 60, cfgErr := b.cfgErr && !rbit v 59 }
  let en := rbit v 63
  let ex := rfld v 42 32
  if en = b.en && ex = b.expect then (b, false)
  else if !barIdle b || (en && (ex < (if casc then 0 else 1) || 1040 < ex)) then ({ b with cfgErr := true }, true)
  else ({ en := en, expect := ex, phaseErr := b.phaseErr, cfgErr := b.cfgErr }, false)

/-- BARRIER_CONFIG_WRITE (R405): a write of MBARb or CBARc. -/
def execBarrierConfigWrite (casc : Bool) (b : Fin 64) (v : W64) (s : State) : Ans := gate (blockOn s) s <|
  if !casc && 32 ≤ b.val then .next s
  else
    let r := writeBar casc v (barOf s casc b.val)
    let s := updBar s casc b.val fun _ => r.1
    if r.2 then .next (fire s 660) else .next (if casc then sendArrive s b.val else s)

/-! ### Cascade barriers and the beacon -/

/-- ARRIVE (R411 step 2): the timing root learns that a member has arrived for a round. -/
def execArrive (member : Fin 512) (c : Fin 64) (round : BitVec 2) (s : State) : Ans :=
  if !s.bcn.root then .next s
  else .next (rootCheck (updBar s true c.val fun b =>
    { b with arrived := if b.arrived.contains (4 * member.val + round.toNat) then b.arrived else b.arrived ++ [4 * member.val + round.toNat] }) c.val)

/-- Whether a release is acted on at receipt: the member is not aligned, or the cascade reaches beyond a copper group (R412). -/
def onReceipt (s : State) : Bool := (!s.bcn.aligned && !s.bcn.root) || (membersIn s).any fun m => m / 16 ≠ selfModule s / 16

/-- RELEASE (R411 steps 3 and 4): kept until T_rel, or acted on at once when late or when no T_rel holds. -/
def execRelease (c : Fin 64) (round : BitVec 2) (trel : W64) (s : State) : Ans :=
  let b := barOf s true c.val
  if !b.en || b.round ≠ round || b.trel.isSome then .next s
  else if onReceipt s then .next (completeRound s true c.val)
  else if decide (0 < (cascTime s - trel).toInt) then
    .next (completeRound (fire { s with bcn := { s.bcn with lateRel := satInc s.bcn.lateRel 1 } } 660) true c.val)
  else .next (updBar s true c.val fun b => { b with trel := some trel })

/-- CASCADE_RELEASE_TIME (R411 step 3): the cascade time reaches T_rel. -/
def execCascadeReleaseTime (c : Fin 64) (s : State) : Ans :=
  if (barOf s true c.val).trel.isSome then .next (completeRound s true c.val) else .next s

/-- The one-way delay and the offset error of four timestamps (R408). -/
def owDelay (t1 t2 t3 t4 : W64) : Int := ((t4 - t1).toInt - (t3 - t2).toInt).fdiv 2
def offsetError (t1 t2 t3 t4 : W64) : Int := ((t2 - t1).toInt + (t3 - t4).toInt).fdiv 2

/-- ALIGNED after a measurement (R409). -/
def alignedAfter (old : Bool) (e : Int) : Bool := if e.natAbs ≤ 1 then true else if 4 < e.natAbs then false else old

/-- BEACON_EXCHANGE (R408, R409): the first measurement after a join sets the offset, later ones slew it by one cycle at most.
The root's offset stays 0; a delay that it measures raises MARGIN (R411). -/
def execBeaconExchange (t1 t2 t3 t4 : W64) (s : State) : Ans :=
  if !s.lk.joined then .next s
  else if s.bcn.root then
    .next { s with bcn := { s.bcn with margin := BitVec.ofNat 16 (max s.bcn.margin.toNat (min 0xFFFF ((owDelay t1 t2 t3 t4).toNat + 16))) } }
  else
    match routeTo s 0 with
    | none => .next s
    | some p =>
      let e := offsetError t1 t2 t3 t4
      let step := if s.bcn.measured then (if 0 < e then 1 else if e < 0 then -1 else 0) else e
      .next { s with bcn := { s.bcn with
        upport := BitVec.ofNat 3 p
        offset := s.bcn.offset + BitVec.ofInt 64 step
        measured := true
        aligned := alignedAfter s.bcn.aligned e } }

/-- BCN_STATUS.CNT_CLR (R412). -/
def execBcnStatusCntClr (s : State) : Ans := gate (blockOn s) s <| .next { s with bcn := { s.bcn with lateRel := 0 } }

end Sys2Proof.Machine
end

