-- ==== Sys2Proof/Machine/Events.lean ====
section
/-!
DEFINITION. The event router (R413 to R425): doorbell, fire counters, enable and pending words, routing, keeper cores, host
event queues and their MSI-X vectors (R554).
-/

namespace Sys2Proof.Machine

/-- The event router changed by `f`. -/
def setEvr (s : State) (f : Evr → Evr) : State := { s with evr := f s.evr }

/-- A source changed by `f`. -/
def updSrc (s : State) (n : Nat) (f : Src → Src) : State := setEvr s fun e => { e with srcs := e.srcs.upd n f }

/-- EVR_DOORBELL (R414). -/
def execEvrDoorbell (v : W32) (s : State) : Ans := gate (blockOn s) s <| .next (doorbell s (v.toNat % 1024))

/-- A source after a write of EVR_FCLR with `k` fires in the same cycle (R415, R423). -/
def fclr (r : Src) (k : Nat) : Src :=
  fired { r with fire := 0, records := 0, merged := 0, cleared := 0, pendBefore := b2n r.pend } k

/-- EVR_FCLR (R415). A reserved source has no counter. -/
def execEvrFclr (v : W32) (fires : Nat) (s : State) : Ans :=
  if !blockOn s then .next (fireN s (v.toNat % 1024) fires)
  else if srcExists (v.toNat % 1024) then .next (updSrc s (v.toNat % 1024) fun r => fclr r fires) else .next s

/-- EVR_ENw (R422): all 32 enable bits are replaced. -/
def execEvrEnWrite (w : Fin 32) (v : W32) (s : State) : Ans := gate (blockOn s) s <|
  .next ((List.range 32).foldl (fun s i => updSrc s (32 * w.val + i) fun r => { r with en := v.getLsbD i }) s)

/-- A source after its bit of EVR_PENDw is written with `b` while hardware fires it when `hw` (R422, R423). -/
def pendWrite (r : Src) (b hw : Bool) : Src :=
  fired { r with pend := b, cleared := r.cleared + b2n (r.pend && !b) } (b2n hw)

/-- EVR_PENDw (R422): all 32 pending bits are replaced; a set in the same cycle wins and its collision is counted. -/
def execEvrPendWrite (w : Fin 32) (v : W32) (hw : W32) (s : State) : Ans :=
  if !blockOn s then .next ((List.range 32).foldl (fun s i => if hw.getLsbD i then fire s (32 * w.val + i) else s) s)
  else
  let n := (List.range 32).countP fun i => hw.getLsbD i && !v.getLsbD i && srcExists (32 * w.val + i)
  let s := (List.range 32).foldl (fun s i =>
    updSrc s (32 * w.val + i) fun r => pendWrite r (v.getLsbD i) (hw.getLsbD i && srcExists (32 * w.val + i))) s
  .next (if n = 0 then s else setEvr s fun e => { e with collCnt := satInc e.collCnt n })

/-! ### MSI-X (R417, R554) -/

/-- A message for a vector: sent, or left pending while the vector is masked. -/
def sendMsix (s : State) (v : Nat) : State :=
  if s.glb.msixOpen.get v then emit s (.msix v (s.glb.msixAddr.get v) (s.glb.msixData.get v))
  else { s with glb := { s.glb with msixPend := s.glb.msixPend.set v true } }

/-- MSIX_VECTOR_UNMASK (R554): the mask bit is cleared, and a pending message is sent. -/
def execMsixVectorUnmask (v : Fin 64) (s : State) : Ans := gate (barOn s) s <|
  let due := s.glb.msixPend.get v.val
  let s := { s with glb := { s.glb with msixOpen := s.glb.msixOpen.set v.val true, msixPend := s.glb.msixPend.set v.val false } }
  .next (if due then sendMsix s v.val else s)

/-! ### Targets -/

/-- Records in a host event queue, and its size. -/
def evqSize (q : HostEvq) : Nat := 2 ^ q.log2
def evqCount (q : HostEvq) : Nat := (q.tail + 2 * evqSize q - q.head) % (2 * evqSize q)

/-- Whether a host event queue is enabled and full. -/
def evqFull (q : HostEvq) : Bool := q.en && decide (evqSize q ≤ evqCount q)

/-- The priority E of R418. -/
def newestPrio (k : Keeper) : Nat := match k.q.getLast? with | some r => r.prio | none => k.runPrio

/-- Whether target `t` (0 to 3 the keepers, 4 the host) can accept a source now (R417, R418). -/
def accepts (s : State) (r : Src) (t : Nat) : Bool :=
  if t < 4 then
    let k := s.evr.keepers.get t
    k.en && !k.sleep && decide (r.prio.toNat < newestPrio k) && decide (k.stack.length + k.q.length < 8)
  else
    let q := s.evr.hostqs.get r.vec.toNat
    q.en && !evqFull q

/-- The targets of a source in the order of R416 step 1: after the one that last received it. -/
def targetOrder (r : Src) : List Nat :=
  let start := if r.last < 5 then r.last + 1 else 0
  ((List.range 5).map fun i => (start + i) % 5).filter fun t => r.tmask.getLsbD t

/-- Whether a source stands for routing. -/
def routable (n : Nat) (r : Src) : Bool := srcExists n && r.en && r.pend && !r.queued && !r.act

/-- Whether source `a` ranks before `b` at target `t`: higher priority, then source numbers after the last one presented there. -/
def ranks (s : State) (t a b : Nat) : Bool :=
  let pa := (s.evr.srcs.get a).prio.toNat
  let pb := (s.evr.srcs.get b).prio.toNat
  let turn := fun n => match s.evr.lastSrc.get t with | some l => (n + 1023 - l) % 1024 | none => n
  if pa ≠ pb then pa < pb else turn a < turn b

/-- One offer of the cycle's matching: a source without a target proposes to its next one, which keeps the higher-ranked. -/
def offer (s : State) : List (Nat × List Nat) × List (Nat × Nat) → List (Nat × List Nat) × List (Nat × Nat)
  | ([], held) => ([], held)
  | ((_, []) :: r, held) => (r, held)
  | ((n, t :: ts) :: r, held) =>
    match held.find? fun h => h.1 = t with
    | none => (r, (t, n) :: held)
    | some h =>
      if ranks s t n h.2 then
        let rest := (targetsLeft s h.2 t)
        ((h.2, rest) :: r, (t, n) :: held.filter fun x => x.1 ≠ t)
      else ((n, ts) :: r, held)
where
  /-- the targets of a source after `t` in its order that can accept -/
  targetsLeft (s : State) (n t : Nat) : List Nat :=
    ((targetOrder (s.evr.srcs.get n)).dropWhile (· ≠ t)).tail.filter (accepts s (s.evr.srcs.get n))

/-- The targets chosen in one KCLK cycle for the listed sources (R416). -/
def choose (s : State) (cands : List Nat) : List (Nat × Nat) :=
  let start := cands.map fun n => (n, (targetOrder (s.evr.srcs.get n)).filter (accepts s (s.evr.srcs.get n)))
  (Nat.repeat (offer s) (6 * cands.length + 6) (start, [])).2

/-- The 16 bytes of an event record. -/
def eventRecord (s : State) (n : Nat) (r : Src) (phase : Bool) : Bytes :=
  leBytes 4 (bAt phase 31 + bAt r.refire 30 + r.prio.toNat * 2 ^ 26 + r.fire.toNat * 2 ^ 10 + n) ++ [0, 0, 0, 0] ++ leBytes 8 (now s).toNat

/-- A source's record is written to a target (R416 step 3); a record for the host asserts WAKE# while the function is in D3hot (R572). -/
def present (s : State) (t n : Nat) : State :=
  let r := s.evr.srcs.get n
  let s' := updSrc s n fun r => { r with pend := false, last := t, records := r.records + 1, refire := false, deferred := false, queued := decide (t < 4) }
  let s' := setEvr s' fun e => { e with lastSrc := e.lastSrc.set t (some n) }
  if t < 4 then
    setEvr s' fun e => { e with keepers := e.keepers.upd t fun k =>
      { k with q := k.q ++ [⟨n, r.prio.toNat, r.refire, r.fire, now s⟩], tail := k.tail + 1, irq := true } }
  else
    let v := r.vec.toNat
    let q := s.evr.hostqs.get v
    let s' := hostWrite s' (rfld q.base 63 12 * 4096 + 16 * (q.tail % evqSize q)) (eventRecord s n r q.phase)
    let first := evqCount q = 0 && !q.sent
    let s' := setEvr s' fun e => { e with hostqs := e.hostqs.upd v fun q =>
      { q with tail := (q.tail + 1) % (2 * evqSize q), phase := if (q.tail + 1) % evqSize q = 0 then !q.phase else q.phase, sent := q.sent || first } }
    let s' := if s.pins.d3 then { s' with pins := { s'.pins with wake := true } } else s'
    if first then sendMsix s' v else s'

/-- A presentation that a full host queue defers is counted once (R424). -/
def noteDeferred (s : State) (n : Nat) : State :=
  let r := s.evr.srcs.get n
  if r.pend && !r.deferred && r.tmask.getLsbD 4 && evqFull (s.evr.hostqs.get r.vec.toNat) then
    setEvr (updSrc s n fun r => { r with deferred := true }) fun e => { e with qfull := satInc e.qfull 1 }
  else s

/-- One KCLK cycle of routing over the listed sources. -/
def routeCycle (s : State) (cands : List Nat) : State :=
  let s := (choose s cands).foldl (fun s p => present s p.1 p.2) s
  cands.foldl noteDeferred s

/-- EVENT_ROUTING (R416): one KCLK cycle over every source that stands for routing. -/
def execEventRouting (s : State) : Ans :=
  .next (routeCycle s ((s.evr.srcs.filter fun p => routable p.1 p.2).map (·.1)))

/-! ### Keeper cores -/

/-- KEEPER_TAKE (R419): HEAD advanced by exactly one over a queued record takes it. -/
def execKeeperTake (k : Fin 4) (head : BitVec 4) (s : State) : Ans :=
  let c := s.evr.keepers.get k.val
  match c.q with
  | [] => .next s
  | r :: rest =>
    if head ≠ c.head + 1 then .next s
    else
      let s := setEvr s fun e => { e with keepers := e.keepers.upd k.val fun c =>
        { c with head := head, q := rest, stack := (c.runPrio, r.src) :: c.stack, runPrio := r.prio, irq := !rest.isEmpty } }
      .next (updSrc s r.src fun x => { x with act := true, queued := false })

/-- EOI (R419, R420): the top of the stack is popped and its source, if it has fired again, is routed in the same cycle; any
other source is a mismatch. -/
def execEoi (k : Fin 4) (src : BitVec 10) (s : State) : Ans :=
  let c := s.evr.keepers.get k.val
  let bad := flog (setEvr s fun e => { e with keepers := e.keepers.upd k.val fun c => { c with eoiErr := true } }) { status := .eoiOrder, kind := 9 }
  match c.stack with
  | [] => .next bad
  | (p, n) :: r =>
    if n ≠ src.toNat then .next bad
    else
      let s := setEvr s fun e => { e with keepers := e.keepers.upd k.val fun c => { c with stack := r, runPrio := p } }
      let s := updSrc s n fun x => { x with act := false, refire := x.pend }
      .next (if routable n (s.evr.srcs.get n) then routeCycle s [n] else s)

/-- Whether some enabled source of a keeper's mask is pending (R421). -/
def wakes (s : State) (k : Nat) : Bool := s.evr.srcs.any fun p => srcExists p.1 && p.2.en && p.2.pend && p.2.tmask.getLsbD k

/-- KEEPER_WAKE (R421). -/
def execKeeperWake (k : Fin 4) (s : State) : Ans :=
  if (s.evr.keepers.get k.val).sleep && wakes s k.val then
    .next (setEvr s fun e => { e with keepers := e.keepers.upd k.val fun c => { c with sleep := false, en := c.savedEn } })
  else .next s

/-- KEEPER_SLEEP (R421). -/
def execKeeperSleep (k : Fin 4) (s : State) : Ans :=
  .next (setEvr s fun e => { e with keepers := e.keepers.upd k.val fun c => if c.sleep then c else { c with sleep := true, savedEn := c.en } })

/-! ### Host event queues -/

/-- HOST_EVENT_QUEUE_HEAD (R417): a HEAD not beyond TAIL is taken; a queue still not empty sends its message again. -/
def execHostEventQueueHead (v : Fin 64) (head : BitVec 13) (s : State) : Ans := gate (blockOn s) s <|
  let q := s.evr.hostqs.get v.val
  let n := 2 * evqSize q
  if !q.en || n ≤ head.toNat || evqCount q < (head.toNat + n - q.head) % n then .next s
  else
    let q' := { q with head := head.toNat, sent := decide (head.toNat ≠ q.tail) }
    let s := setEvr s fun e => { e with hostqs := e.hostqs.upd v.val fun _ => q' }
    .next (if q'.sent then sendMsix s v.val else s)

/-- The checks of R425 on an enable. -/
def evqOk (base log2 : Nat) : Bool := 6 ≤ log2 && log2 ≤ 12 && base * 4096 + 16 * 2 ^ log2 ≤ 2 ^ 64

/-- HOST_EVENT_QUEUE_ENABLE (R425): a write of EVR_HQBASEv. -/
def execHostEventQueueEnable (v : Fin 64) (value : W64) (s : State) : Ans := gate (blockOn s) s <|
  let q := s.evr.hostqs.get v.val
  if q.en then .next (setEvr s fun e => { e with hostqs := e.hostqs.upd v.val fun q => { q with en := rbit value 0 } })
  else
    let base := value &&& 0xFFFFFFFFFFFFF000
    if !rbit value 0 then .next (setEvr s fun e => { e with hostqs := e.hostqs.upd v.val fun q => { q with base := base } })
    else if evqOk (rfld base 63 12) q.log2 then
      .next (setEvr s fun e => { e with hostqs := e.hostqs.upd v.val fun q => { q with base := base, en := true, head := 0, tail := 0, phase := true, sent := false } })
    else .next (hqErr (setEvr s fun e => { e with hostqs := e.hostqs.upd v.val fun q => { q with base := base } }) fun h => { h with sqErr := true })

/-- EVR_STATUS.CNT_CLR (R424). -/
def execEvrStatusCntClr (s : State) : Ans := gate (blockOn s) s <| .next (setEvr s fun e => { e with collCnt := 0, qfull := 0, dbIgn := 0 })

end Sys2Proof.Machine
end

