-- ==== Sys2Proof/Machine/Scratch.lean ====
section
/-!
DEFINITION. Handle and window registers of the tiles and of HBM3 (R113, R114, R128, R276), and accesses and probes that
arrive through windows (R125 to R127, R257, R315).
-/

namespace Sys2Proof.Machine

/-! ### Handles -/

/-- The named bits of HANDLE_A and HANDLE_B (R12). -/
def handleAMask : W64 := 0xFFC07FFF03FF0000
def handleBMask : W64 := 0xF000FFFFFFFFFFFF

/-- Whether a descriptor names handle `h` of tile `t` in one of its address words (R312). -/
def descNames (b : Bytes) (t h : Nat) : Bool :=
  [16, 24, 44, 56].any fun o => let w := param64 b o; spaceOf w = 1 && rfld w 47 40 = t && rfld w 29 24 = h

/-- Whether a TOD that has issued or a transfer in progress names handle `h` of tile `t` (R114). -/
def handleBusy (s : State) (t h : Nat) : Bool :=
  let x := s.tiles.get t
  (x.window.any fun w => issued w && (resources w.bytes (x.ctxs.get w.ctx).key).any fun r => r.1 = h) ||
    s.engines.any fun e => e.2.chans.any fun c => c.2.prog.any fun d => descNames d.bytes t h

/-- A handle register written: an entry that fails R113 reads VALID = 0; a guarded valid one clears its fill bits (R121). -/
def applyHandle (s : State) (t h : Nat) (isA : Bool) (v : W64) : State :=
  if !isA then updTile s t fun x => { x with handles := x.handles.upd h fun p => { p with b := v &&& handleBMask } }
  else
    let p : RegPair := { (s.tiles.get t).handles.get h with a := v &&& handleAMask }
    let f := handleF p
    if f.valid && !f.ok then
      updTile s t fun x => { x with htErr := true, handles := x.handles.set h { p with a := p.a &&& 0x7FFFFFFFFFFFFFFF } }
    else
      let s := updTile s t fun x => { x with handles := x.handles.set h p }
      if f.valid && f.guard then clearFill s t f.lines else s

/-- What a write of half a handle register leaves of the other half: the newest held write of the register, or the register itself (R10, R114). -/
def handleReg (s : State) (t h : Nat) (isA : Bool) : W64 :=
  let x := s.tiles.get t
  match (x.heldHandles.filter fun w => w.1 = h && w.2.1 = isA).getLast? with
  | some w => w.2.2
  | none => if isA then (x.handles.get h).a else (x.handles.get h).b

/-- A handle write, held while the handle is in use or an earlier write of it is held (R114). -/
def writeHandle (s : State) (t h : Nat) (isA : Bool) (v : W64) : State :=
  if handleBusy s t h || (s.tiles.get t).heldHandles.any fun x => x.1 = h then
    updTile s t fun x => { x with heldHandles := x.heldHandles ++ [(h, isA, v)] }
  else applyHandle s t h isA v

/-- HANDLE_WRITE (R113). -/
def execHandleWrite (t : TileNo) (h : Fin 64) (a : W64) (s : State) : Ans := gate (dieBlockOn s (t.val / 32)) s <| .next (writeHandle s t.val h.val true a)

/-- HANDLE_WRITE_RELEASE (R114): the oldest held write of a handle takes effect once nothing names the handle. -/
def execHandleWriteRelease (t : TileNo) (h : Fin 64) (s : State) : Ans :=
  match (s.tiles.get t.val).heldHandles.find? fun x => x.1 = h.val with
  | none => .next s
  | some x =>
    if handleBusy s t.val h.val then .next s
    else .next (applyHandle (updTile s t.val fun y => { y with heldHandles := y.heldHandles.erase x }) t.val h.val x.2.1 x.2.2)

/-! ### Windows -/

/-- The named bits of WIN_A, WIN_B, HBM_WIN_A and HBM_WIN_B. -/
def winAMask : W64 := 0xE0FFFFFF00003FFF
def winBMask : W64 := 0x7FFF
def hbmWinAMask : W64 := 0xE0FFFFFF001FFFFF
def hbmWinBMask : W64 := 0x1FFFFF

/-- WIN_Aw written (R128). -/
def writeWindow (s : State) (t w : Nat) (a : W64) : State :=
  let p : RegPair := { (s.tiles.get t).wins.get w with a := a &&& winAMask }
  if rbit p.a 63 && !winOk p then
    updTile s t fun x => { x with winErr := true, wins := x.wins.set w { p with a := p.a &&& 0x7FFFFFFFFFFFFFFF } }
  else updTile s t fun x => { x with wins := x.wins.set w p }

/-- WINDOW_WRITE (R128). -/
def execWindowWrite (t : TileNo) (w : Fin 8) (a : W64) (s : State) : Ans := gate (dieBlockOn s (t.val / 32)) s <| .next (writeWindow s t.val w.val a)

/-- The check of R276: LEN at least 1 and the window below the HBM reserve, in 64 KiB units. -/
def hbmWinOk (p : RegPair) : Bool := 1 ≤ rfld p.b 20 0 && rfld p.a 20 0 + rfld p.b 20 0 ≤ 1556480

/-- An HBM window opened. -/
def openHbmWin (s : State) (d w : Nat) (p : RegPair) : State := updDie s d fun x => { x with hbmWins := x.hbmWins.set w p }

/-- An HBM window closed. -/
def closeHbmWin (s : State) (d w : Nat) : State :=
  updDie s d fun x => { x with hbmWins := x.hbmWins.upd w fun p => { p with a := p.a &&& 0x7FFFFFFFFFFFFFFF } }

/-- HBM_WINDOW_WRITE (R276). -/
def execHbmWindowWrite (d : Die) (w : Fin 16) (a : W64) (s : State) : Ans := gate (dieBlockOn s d.val) s <|
  let p : RegPair := { (s.dies.get d.val).hbmWins.get w.val with a := a &&& hbmWinAMask }
  if rbit p.a 63 && !hbmWinOk p then
    .next (updDie s d.val fun x => { x with hbmWinErr := true, hbmWins := x.hbmWins.set w.val { p with a := p.a &&& 0x7FFFFFFFFFFFFFFF } })
  else .next (updDie s d.val fun x => { x with hbmWins := x.hbmWins.set w.val p })

/-! ### Accesses through windows -/

/-- An engine's REJECT_CNT rises by one. -/
def rejectCount (s : State) (e : Nat) : State := updEngine s e fun g => { g with rejCnt := satInc g.rejCnt 1 }

/-- A refused access: answered, and its descriptor, if it is one of this module, ends with REMOTE_REJECT (R126, R315). -/
def rejectAccess (s : State) (a : Access) : State :=
  match a.origin with
  | none => emit s .winReject
  | some (e, ch) =>
    match (chanOf s e.val ch.val).prog.head? with
    | none => emit s .winReject
    | some d =>
      let s := chanFault (rejectCount s e.val) e.val ch.val d 0x0C
      match d.job with | some j => unitDone s j | none => s

/-- An accepted access at a key of module memory: a write is stored, a read is answered. -/
def serveAccess (s : State) (k : Nat) (a : Access) : State :=
  if a.write then storeClean s k (bytesAt a.data 0 a.len)
  else
    let s := eccAt s k a.len
    emit s (.winRead (plain (loadMod s k a.len)))

/-- REMOTE_ACCESS (R126): accepted as a whole by one open matching window, or rejected as a whole. An accepted access to a tile that is being
scrubbed waits until the scrub lets it in (R117). -/
def execRemoteAccess (t : TileNo) (a : Access) (s : State) : Ans :=
  if dieUp s (t.val / 32) && tileAdmits s t.val a.src.toNat a.addr a.len a.write then
    .next (if (s.tiles.get t.val).scrubBusy then updTile s t.val fun x => { x with waiting := x.waiting ++ [a] } else serveAccess s (tileKey t.val a.addr) a)
  else .next (rejectAccess (updTile s t.val fun x => { x with winReject := satInc x.winReject 1 }) a)

/-- HBM_WINDOW_ACCESS (R257): as for tile windows, in 64 KiB units. -/
def execHbmWindowAccess (d : Die) (a : Access) (s : State) : Ans :=
  if dieUp s d.val && hbmAdmits s d.val a.src.toNat a.addr a.len a.write && hbmExtent s d.val a.addr a.len then
    .next (serveAccess s (dieKey d.val a.addr) a)
  else .next (rejectAccess s a)

/-- SCRUB_DONE (R129): the scrub ends; a SCRUB command whose tiles are all done completes with their number. -/
def execScrubDone (t : TileNo) (s : State) : Ans :=
  let held := (s.tiles.get t.val).waiting
  let s := updTile s t.val fun x => { x with scrubBusy := false, waiting := [] }
  let s := feedAll (held.foldl (fun s a => serveAccess s (tileKey t.val a.addr) a) s)
  .next ((s.cp.jobs).foldl (fun s p =>
    match p.2.body with
    | .ctl (.scrubTiles ts) => if ts.all fun t => !(s.tiles.get t).scrubBusy then finish s p.1 .ok (BitVec.ofNat 64 ts.length) else s
    | _ => s) s)

end Sys2Proof.Machine
end

