-- ==== Sys2Proof/Machine/Codec.lean ====
section
/-!
DEFINITION. The codecs (chapter 09): AZC blocks compressed and expanded with the error cases of R302 and R303, and WDC
expansion (R291).
-/

namespace Sys2Proof.Machine

/-! ### AZC compression (R295 to R297) -/

/-- One group of 32 elements of `s` bytes: its mask and its non-zero elements in order. -/
def azcGroup (s : Nat) (g : Bytes) : Bytes :=
  let es := pieces s g
  let nz := es.map fun e => e.any (· ≠ 0)
  leBytes 4 (maskOf ((List.range es.length).filter fun i => nz.getD i false)) ++ (es.filter fun e => e.any (· ≠ 0)).flatten

/-- A block's 8-byte header. -/
def azcHeader (pois raw : Bool) (es size256 enc : Nat) : Bytes :=
  let low := leBytes 7 (bAt pois 55 + bAt raw 54 + es * 2 ^ 52 + size256 * 2 ^ 40 + enc * 2 ^ 16)
  low ++ [crc8 low]

/-- An encoded block; all of it carries the mark of a poisoned source. -/
def azcBlock (es : Nat) (d : List PByte) : List PByte :=
  let b := plain d
  let s := 2 ^ es
  let coded := (pieces (32 * s) b).flatMap (azcGroup s)
  let raw := decide (b.length ≤ coded.length)
  let body := if raw then b else coded
  (azcHeader (anyPois d) raw es (b.length / 256) body.length ++ body).map fun x => (x, anyPois d)

/-- A decoded stream of one row as encoded blocks in their places: slots of 4,160 bytes, or padded one after another (R299). -/
def azcEncode (packed : Bool) (es : Nat) (d : List PByte) : List (Nat × List PByte) :=
  ((pieces 4096 d).foldl (fun (r : List (Nat × List PByte) × Nat) blk =>
    let e := azcBlock es blk
    let e := e ++ List.replicate ((64 - e.length % 64) % 64) (0, anyPois blk)
    (r.1 ++ [(r.2, e)], if packed then r.2 + e.length else r.2 + 4160)) ([], 0)).1

/-- Bytes that the encoded form of `n` decoded bytes may take. -/
def azcExtent (packed : Bool) (n : Nat) : Nat :=
  if packed then n / 4096 * 4160 + (if n % 4096 = 0 then 0 else ceilDiv (n % 4096 + 8) 64 * 64) else ceilDiv n 4096 * 4160

/-! ### AZC expansion (R300 to R303) -/

/-- The elements of one group under its mask, cut where the body runs out. -/
def azcTake (s : Nat) (mask : Nat) : Nat → Nat → Bytes → Bytes × Bytes × Bool
  | 0, _, body => ([], body, false)
  | n + 1, i, body =>
    if bitN mask i then
      if body.length < s then (body, [], true)
      else
        let r := azcTake s mask n (i + 1) (body.drop s)
        (body.take s ++ r.1, r.2)
    else
      let r := azcTake s mask n (i + 1) body
      (List.replicate s 0 ++ r.1, r.2)

/-- `n` groups of a coded body: output, what remains, and whether it ran out. -/
def azcGroups (s : Nat) : Nat → Bytes → Bytes × Bytes × Bool
  | 0, body => ([], body, false)
  | n + 1, body =>
    if body.length < 4 then ([], [], true)
    else
      let g := azcTake s (leAt body 0 4) 32 0 (body.drop 4)
      if g.2.2 then g
      else
        let r := azcGroups s n g.2.1
        (g.1 ++ r.1, r.2)

/-- What the expansion of one block gives. -/
structure AzcOut where
  data : List PByte
  ovr : Bool := false
  under : Bool := false
  /-- a header fault -/
  hdr : Bool := false
  /-- encoded bytes from the block's start to the next block in a packed layout -/
  used : Nat
  deriving DecidableEq, Repr, Inhabited

/-- Bytes cut or zero-filled to `n`. -/
def fitTo (n : Nat) (b : Bytes) : Bytes := bytesAt b 0 n

/-- One block expanded to `exp` bytes; `src` starts at its header (R302). -/
def azcExpand (exp : Nat) (src : List PByte) : AzcOut :=
  let h := plain (src.take 8)
  let v := leNat h
  let es := fld v 53 52
  let sz := fld v 44 40
  let enc := fld v 28 16
  let bad := crc8 (h.take 7) ≠ h.getD 7 0 || es = 3 || sz = 0 || 16 < sz || enc < 4 || 4096 < enc
  if bad then { data := List.replicate exp (0, true), under := true, hdr := true, used := 64 }
  else
    let raw := bitN v 54
    let e := 256 * sz
    let body := plain ((src.drop 8).take enc)
    let g := azcGroups (2 ^ es) (e / 2 ^ es / 32) body
    let full := if raw then fitTo e body else fitTo e g.1
    let case2 := e ≠ exp
    let ovr := if case2 then exp < e else if raw then exp < enc else !g.2.2 && !g.2.1.isEmpty
    let under := if case2 then e < exp else if raw then enc < exp else g.2.2
    let mark := ovr || under || bitN v 55 || anyPois (src.take (8 + enc))
    { data := (fitTo exp full).map fun x => (x, mark), ovr := ovr, under := under, used := ceilDiv (8 + enc) 64 * 64 }

/-- The result of a whole AZC row. -/
structure AzcRow where
  data : List PByte := []
  overs : Nat := 0
  unders : Nat := 0
  hdrs : Nat := 0
  enc64 : Nat := 0
  deriving DecidableEq, Repr, Inhabited

/-- The row with one more block. -/
def AzcRow.add (r : AzcRow) (o : AzcOut) : AzcRow where
  data := r.data ++ o.data
  overs := r.overs + b2n o.ovr
  unders := r.unders + b2n o.under
  hdrs := r.hdrs + b2n o.hdr
  enc64 := r.enc64 + o.used / 64

/-- The blocks of a row of `n` decoded bytes; in a packed layout nothing follows a header fault (R303). -/
def azcDecode (packed : Bool) (src : List PByte) : Nat → Nat → Nat → AzcRow → AzcRow
  | 0, _, _, r => r
  | f + 1, pos, n, r =>
    if n = 0 then r
    else
      let e := min 4096 n
      if packed && 0 < r.hdrs then azcDecode packed src f pos (n - e) (r.add { data := List.replicate e (0, true), under := true, used := 0 })
      else
        let o := azcExpand e (src.drop pos)
        azcDecode packed src f (if packed then pos + o.used else pos + 4160) (n - e) (r.add o)

/-! ### WDC expansion (R291) -/

/-- One E4M3 weight: base plus level times scale in FP32, converted with RNE and saturation. -/
def wdcElem (b l s : Fp) : Byte := BitVec.ofNat 8 (convTo 2 false .rne (b.add (l.mul s))).code

/-- One group of 128 weights: base group, delta group, level block; every output byte carries the marks of what it came from. -/
def wdcGroup (fmt : Nat) (lvl base delta : List PByte) : List PByte :=
  let bb := plain base
  let db := plain delta
  let bl := (plain lvl).drop 8
  let mark := anyPois base || anyPois delta || anyPois (lvl.take 4) || (fmt = 8 && anyPois ((lvl.drop 8).take 8))
  let sc := groupScales fmt bb
  let ds := groupScales 9 db
  (List.range 128).map fun i =>
    let b := (weightElem fmt bl (groupElem fmt bb i)).mul (scaleVal fmt sc (i / 32))
    let l := decodeElem 2 (byteN (plain lvl) (groupElem 9 db i))
    (wdcElem b l (scaleVal 9 ds (i / 32)), mark)

/-- A row of `n` decoded bytes from a base and a delta stream: a group that either stream lacks is +0.0, poisoned, and a group beyond the
expected count is discarded (R301, R302). -/
def wdcRow (fmt n : Nat) (lvl base delta : List PByte) : AzcRow :=
  let want := ceilDiv n 128
  let nb := base.length / groupBytes fmt
  let nd := delta.length / 34
  let have_ := min want (min nb nd)
  { data := ((List.range have_).flatMap fun g => wdcGroup fmt lvl (pAt base (g * groupBytes fmt) (groupBytes fmt)) (pAt delta (34 * g) 34)).take n ++
      List.replicate (n - 128 * have_) (0, true)
    overs := b2n (have_ = want && (want < nb || want < nd))
    unders := b2n (have_ < want) }

/-- Base formats that WDC accepts (R282). -/
def wdcBase (fmt : Nat) : Bool := fmt = 2 || fmt = 3 || (5 ≤ fmt && fmt ≤ 8)

/-- CDC_ERR.CNT_CLR (R305). -/
def execCdcErrCntClr (d : Die) (s : State) : Ans := gate (dieBlockOn s d.val) s <|
  .next (updDie s d.val fun x => { x with cdOver := 0, cdUnder := 0, cdHdr := 0, enc64 := 0, dec64 := 0 })

end Sys2Proof.Machine
end

