-- ==== Sys2Proof/Machine/Frames.lean ====
section
/-!
DEFINITION. Frames and buoys on the arcs of a sweep pass: sending, the service channel, arrival, the receive buffer and its slots, and
the order in which a buoy is checked and forwarded (R156 to R168, R172, R174, R175).
-/

namespace Sys2Proof.Machine

/-! ### The arcs -/

/-- Bytes that a frame occupies on an arc (R156). -/
def arcLen (f : Frame) : Nat := 32 + ceilDiv f.pay.length 64 * 64

/-- A frame goes out of a die in a direction, and the arc counts its bytes (R558). -/
def sendFrame (s : State) (d : Nat) (dir : Dir) (f : Frame) : State :=
  let s := updOut s d dir fun o => { o with q := o.q ++ [f] }
  updArc s (arcOf d dir) fun a => match dir with
    | .east => { a with eastBytes := a.eastBytes + arcLen f }
    | .west => { a with westBytes := a.westBytes + arcLen f }

/-- The other direction. -/
def opposite : Dir → Dir
  | .east => .west
  | .west => .east

/-- Bytes that an item takes in the service channel's buffer (R167): the spec gives no size for a credit return or a re-request. -/
def Svc.len : Svc → Nat
  | .credit _ => 8
  | .rereq _ _ => 32
  | .resent f => arcLen f
  | .xrereq _ _ _ => 32
  | .xresent _ f => arcLen f

/-- Whether the service channel's buffer of 64 KiB has room for `n` more bytes (R167); what would need it waits. -/
def svcFits (s : State) (d : Nat) (dir : Dir) (n : Nat) : Bool :=
  decide (((outOf (s.dies.get d) dir).svc.map Svc.len).foldl (· + ·) 0 + n ≤ 65536)

/-- An item goes onto the service channel of a die's arc in a direction (R167). -/
def sendSvc (s : State) (d : Nat) (dir : Dir) (x : Svc) : State := updOut s d dir fun o => { o with svc := o.svc ++ [x] }

/-- The frame that reaches a die next in a direction: none while the service channel, which takes precedence, has an item (R167). -/
def headFrame (s : State) (d : Nat) (dir : Dir) : Option Frame :=
  (prevDie s d dir).bind fun p =>
    let o := outOf (s.dies.get p) dir
    if o.svc.isEmpty then o.q.head? else none

/-- A transfer over an arc has passed its flit CRC (R174). -/
def flitPassed (s : State) (k : Nat) : State := updArc s k fun a => { a with flitFails := 0 }

/-- That frame leaves the arc. -/
def popFrame (s : State) (d : Nat) (dir : Dir) : State :=
  match prevDie s d dir with
  | some p => flitPassed (updOut s p dir fun o => { o with q := o.q.tail }) (arcIn d dir)
  | none => s

/-- A frame as it arrives, with the bits that transfer damaged. -/
def damaged (f : Frame) (hx px : Bytes) : Frame := { f with hdr := xorBytes f.hdr hx, pay := xorBytes f.pay px }

/-- A credit returns to the die that sent a frame (R167). -/
def returnCredit (s : State) (d : Nat) (dir : Dir) (key : Nat) : State := sendSvc s d (opposite dir) (.credit key)

/-- A credit of a ledger entry is spent. -/
def spendCredit (s : State) (d : Nat) (dir : Dir) (key : Nat) : State := updRing s d dir fun r => { r with credits := r.credits.upd key (· - 1) }

/-- Credits held of a ledger entry. -/
def creditsOf (s : State) (d : Nat) (dir : Dir) (key : Nat) : Nat := (ringOf (s.dies.get d) dir).credits.get key

/-- A header fault (R175, R476): counted against the arc, the pass abandoned on every die. -/
def headFault (s : State) (d : Nat) (dir : Dir) : State := headerFault (arcEvents s (arcIn d dir) 1)

/-- Whether a frame can arrive at a die: the die is in service and does not idle prepared (R209), and the service channel has room for what
the arrival may send. -/
def mayArrive (s : State) (d : Nat) (dir : Dir) : Bool := dieUp s d && !(s.dies.get d).prepared && svcFits s d (opposite dir) 64

/-! ### The running pass -/

/-- Whether a die takes part in the running sweep pass. -/
def inSweep (s : State) (d : Nat) : Bool := s.md.pass.running && s.md.pass.mode = 1 && dieUp s d && !(s.dies.get d).passDone

/-- The layers of the running pass. -/
def passLayers (s : State) : Nat := (infoOf s s.md.pass.slot s.md.pass.gen).layers

/-- The layer that an owner's `n`-th LAYER buoy announces: descending in a backward pass (R183). -/
def layerNo (s : State) (n : Nat) : Nat := if s.md.pass.bwd then passLayers s - n else n - 1

/-- Whether a GEN buoy comes first in the pass (R159). An abandoned pass does not count as a slot's previous pass (log entry 163). -/
def needsGen (s : State) : Bool := s.md.pass.gen ≠ s.md.pass.prevGen

/-- Whether a die forwards a frame: the drop rule of R163, or the end of the line (R180). -/
def forwards (s : State) (d : Nat) (dir : Dir) (owner : Nat) : Bool :=
  match nextDie s d dir with
  | none => false
  | some n => s.md.epoch.line.isSome || n ≠ owner

/-! ### Arrival (R172, R175, R176) -/

/-- A slot of the receive buffer added. -/
def pushSlot (s : State) (d : Nat) (dir : Dir) (f : Frame) (p : RPhase) : State :=
  updRing s d dir fun r => { r with buf := r.buf ++ [⟨f, p, false⟩] }

/-- A die asks the owner for a frame again (R175); each request counts against the arc (R476). -/
def reRequest (s : State) (d : Nat) (dir : Dir) (f : Frame) : State :=
  let s := updDie s d fun x => { x with swResend := satInc x.swResend 1 }
  arcEvents (sendSvc s d (opposite dir) (.rereq (hOwner f.hdr) f.hdr)) (arcIn d dir) 1

/-- What a die has received from an owner changed by `f`. -/
def updProg (s : State) (d : Nat) (dir : Dir) (owner : Nat) (f : OwnerProg → OwnerProg) : State :=
  updRing s d dir fun r => { r with prog := r.prog.upd owner f }

/-- The runs received of an owner. -/
def noteRun (s : State) (d : Nat) (dir : Dir) (f : Frame) : State :=
  if hLast f.hdr then updProg s d dir (hOwner f.hdr) fun o => { o with runs := o.runs + 1 } else s

/-- Whether a WEIGHT frame follows the LAYER buoy of its layer (R160). -/
def afterLayer (s : State) (d : Nat) (dir : Dir) (f : Frame) : Bool :=
  let o := (ringOf (s.dies.get d) dir).prog.get (hOwner f.hdr)
  decide (0 < o.layers) && !o.ended && hLayer f.hdr = layerNo s o.layers

/-- A WEIGHT frame of the current pass is stored, or kept for a copy when its payload is damaged or its generation wrong; one whose
LAYER buoy has not come is a fault as a header fault is. -/
def storeWeight (s : State) (d : Nat) (dir : Dir) (f : Frame) : State :=
  if !afterLayer s d dir f then headFault s d dir
  else
    let s := noteRun s d dir f
    let bad := !pcrcOk f
    if hPois f.hdr || (!bad && hGen f.hdr = s.md.pass.gen) then pushSlot s d dir f .queued
    else
      let s := if bad then updDie s d fun x => { x with swPcrc := satInc x.swPcrc 1 } else s
      reRequest (pushSlot s d dir f (.kept 1)) d dir f

/-- A frame of another pass is discarded: its slot is free again (R172). R172 states this of WEIGHT frames; of buoys and GRAD frames the
spec says nothing, and the model does the same with them (log entry 164). -/
def discardFrame (s : State) (d : Nat) (dir : Dir) (f : Frame) : State :=
  returnCredit (updDie s d fun x => { x with genDrop := satInc x.genDrop 1 }) d dir (ledgerKey f.hdr)

/-! ### Buoys (R159, R160, R163) -/

/-- Whether a header is a buoy's. -/
def isBuoy (h : Bytes) : Bool := hKind h = 0xA || hKind h = 0x8 || hKind h = 0x9

/-- Whether a buoy of an owner comes in its order; the PASS_END count is the runs received. -/
def buoyOk (s : State) (o : OwnerProg) (h : Bytes) : Bool :=
  match hKind h with
  | 0xA => !o.gen && o.layers = 0 && !o.ended
  | 0x8 => !o.ended && (o.gen || !needsGen s) && hLayer h = layerNo s (o.layers + 1) && decide (o.layers < passLayers s)
  | 0x9 => !o.ended && o.layers = passLayers s && hArg h = o.runs
  | _ => false

/-- An owner's progress after its buoy. -/
def afterBuoy (o : OwnerProg) (h : Bytes) : OwnerProg :=
  match hKind h with
  | 0xA => { o with gen := true }
  | 0x8 => { o with layers := o.layers + 1 }
  | _ => { o with ended := true }

/-- The first checked buoy of a buffer before which no frame of its owner waits. -/
def nextBuoy (r : RingDir) : Option (Nat × RSlot) :=
  (r.buf.zipIdx.find? fun b => isBuoy b.1.f.hdr && b.1.phase ≠ .held &&
    !((r.buf.take b.2).any fun a => a.phase ≠ .held && a.phase ≠ .grad && hOwner a.f.hdr = hOwner b.1.f.hdr)).map fun b => (b.2, b.1)

/-- Checked buoys whose turn has come go on, each against a buoy credit, and free their slots. -/
def sendBuoys : Nat → State → Nat → Dir → State
  | 0, s, _, _ => s
  | n + 1, s, d, dir =>
    match nextBuoy (ringOf (s.dies.get d) dir) with
    | none => s
    | some (i, b) =>
      if creditsOf s d dir 64 = 0 then s
      else
        let s := updRing s d dir fun r => { r with buf := r.buf.take i ++ r.buf.drop (i + 1) }
        sendBuoys n (returnCredit (sendFrame (spendCredit s d dir 64) d dir b.f) d dir 64) d dir

/-- Every buoy that can go on from a die does. -/
def flushBuoys (s : State) (d : Nat) (dir : Dir) : State := sendBuoys ((ringOf (s.dies.get d) dir).buf.length) s d dir

/-- A buoy of the current pass is checked as it arrives; one that is dropped frees its slot at once, another keeps it until the frames of
its owner that came before it have gone on (log entry 165). -/
def storeBuoy (s : State) (d : Nat) (dir : Dir) (f : Frame) : State :=
  if !buoyOk s ((ringOf (s.dies.get d) dir).prog.get (hOwner f.hdr)) f.hdr then headFault s d dir
  else
    let s := updProg s d dir (hOwner f.hdr) fun o => afterBuoy o f.hdr
    if forwards s d dir (hOwner f.hdr) then flushBuoys (pushSlot s d dir f .queued) d dir else returnCredit s d dir 64

/-- A WEIGHT frame or buoy with a good header is treated according to its PASS (R172): one of the next pass is held. -/
def acceptFrame (s : State) (d : Nat) (dir : Dir) (f : Frame) : State :=
  let x := s.dies.get d
  if hPass f.hdr = x.pass && s.md.pass.running && !x.passDone then
    if hKind f.hdr = 1 then storeWeight s d dir f else storeBuoy s d dir f
  else if hPass f.hdr = x.pass + 1 then pushSlot s d dir f .held
  else discardFrame s d dir f

/-- A frame of the given kind arrives over the arc. -/
def frameArrives (kind : Nat) (s : State) (d : Nat) (dir : Dir) (hx px : Bytes) : State :=
  match headFrame s d dir with
  | none => s
  | some g =>
    if hKind g.hdr ≠ kind || !mayArrive s d dir then s
    else
      let f := damaged g hx px
      let s := popFrame s d dir
      if !hcrcOk f.hdr || hKind f.hdr ≠ kind then headFault s d dir else acceptFrame s d dir f

/-! ### The start of a pass -/

/-- The frames that a die holds for the pass that starts become eligible in arrival order (R172). -/
def takeHeld (s : State) (d : Nat) (dir : Dir) : State :=
  let held := ((ringOf (s.dies.get d) dir).buf.filter fun b => b.phase = .held).map (·.f)
  let s := updRing s d dir fun r => { r with buf := r.buf.filter fun b => b.phase ≠ .held }
  held.foldl (fun s f => if s.md.pass.running then acceptFrame s d dir f else s) s

end Sys2Proof.Machine
end

