-- ==== Sys2Proof/Machine/DmaCheck.lean ====
section
/-!
DEFINITION. DMA descriptors (R310), the extents that they name, and the checks that an engine makes before any byte
moves (R311 to R313, R256, R271, R298, R315).
-/

namespace Sys2Proof.Machine

/-! ### Fields of a descriptor (R310) -/

def dOpc (b : Bytes) : Nat := byteN b 0
def dFlag (b : Bytes) (n : Nat) : Bool := bitN (leAt b 0 4) n
def dIrq (b : Bytes) : Bool := dFlag b 26
def dFence (b : Bytes) : Bool := dFlag b 25
def dCache (b : Bytes) : Bool := dFlag b 24
def dCodec (b : Bytes) : Nat := wfld b 0 23 22
def dPacked (b : Bytes) : Bool := dFlag b 21
def dEs (b : Bytes) : Nat := wfld b 0 20 19
def dAord (b : Bytes) : Nat := wfld b 0 18 17
def dChk (b : Bytes) : Bool := dFlag b 16
def dFmt (b : Bytes) : Nat := wfld b 0 15 12
def dPsig (b : Bytes) : Bool := dFlag b 11
def dPwait (b : Bytes) : Bool := dFlag b 10
def dWtile (b : Bytes) : Nat := byteN b 7
def dWsem (b : Bytes) : Nat := wfld b 4 21 16
def dWcount (b : Bytes) : Nat := wfld b 4 7 0
def dStile (b : Bytes) : Nat := byteN b 11
def dSsem (b : Bytes) : Nat := wfld b 8 21 16
def dScount (b : Bytes) : Nat := wfld b 8 7 0
def dRlen (b : Bytes) : Nat := leAt b 12 4
def dSrc (b : Bytes) : W64 := param64 b 16
def dDst (b : Bytes) : W64 := param64 b 24
def dRows (b : Bytes) : Nat := wfld b 32 31 16
def dLastpos (b : Bytes) : Nat := wfld b 32 4 0
def dSpitch (b : Bytes) : Nat := leAt b 36 4
def dDpitch (b : Bytes) : Nat := leAt b 40 4
def dAux (b : Bytes) : W64 := param64 b 44
def dIcount (b : Bytes) : Nat := wfld b 52 23 0
def dLvl (b : Bytes) : W64 := param64 b 56

/-! ### Engines -/

/-- The HDE, and the two kinds of engine of a die (R330). -/
def isHde (e : Nat) : Bool := e = 144
def isDe (e : Nat) : Bool := e < 144 && e % 18 < 16

/-- The opcodes that an engine accepts (R311). -/
def opOk (e o : Nat) : Bool :=
  o = 0x01 || o = 0x04 || (!isHde e && (o = 0x02 || o = 0x03)) || (isDe e && 0x05 ≤ o && o ≤ 0x07)

/-- The chip number that an engine's accesses carry toward die `d` (R125). -/
def engChip (s : State) (e d : Nat) : Nat := if isHde e then chipOf s (entryDie s d) else chipOf s (e / 18)

/-! ### Address words (R312) -/

/-- The offset field of an address word. -/
def offOf (w : W64) : Nat :=
  match spaceOf w with
  | 0 => rfld w 47 0
  | 1 => rfld w 22 0
  | 3 => rfld w 37 0
  | 4 => rfld w 59 0
  | _ => 0

/-- The module tile of a HANDLE or PORT word. -/
def tileF (w : W64) : Nat := rfld w 47 40

/-- The handle number of a HANDLE word. -/
def handleNo (w : W64) : Nat := rfld w 29 24

/-- Whether an engine may name an operand in a word's space. -/
def spaceAllowed (e : Nat) (w : W64) (isDst : Bool) : Bool :=
  match spaceOf w with
  | 0 => true
  | 1 => !isHde e && tileF w / 32 = e / 18
  | 2 => isDst && !isHde e && tileF w / 32 = e / 18
  | 3 => isDe e || isHde e
  | 4 => isHde e
  | _ => false

/-- The host bus address of `n` bytes of the host-tier space in one OVERFLOW window (R271, R274). -/
def tierAddr (s : State) (o n : Nat) : Option Nat :=
  ((s.md.tier.map (·.2)).find? fun w => w.mapped && bitN w.use_ 2 && w.off ≤ o && o + n ≤ w.off + w.len).map fun w => w.host.toNat + (o - w.off)

/-- An extent that a descriptor names: address word, offset beyond it, bytes, and whether it is written. -/
structure Ext where
  w : W64
  lo : Nat
  n : Nat
  write : Bool
  deriving DecidableEq, Repr, Inhabited

/-- Bytes from the start of the first of `rows` rows to the end of the last. -/
def rowsSpan (rows pitch n : Nat) : Nat := (rows - 1) * pitch + n

/-- Bytes that an array-order copy writes (R318). -/
def aordSpan (b : Bytes) : Nat :=
  let e := elemBytes (dFmt b)
  let cols := dRlen b / e
  let k := if dAord b = 1 then dRows b else cols
  let other := if dAord b = 1 then cols else dRows b
  ceilDiv k 128 * other * 128 * e

/-- Groups of one row of a WDC expansion. -/
def wdcGroups (b : Bytes) : Nat := ceilDiv (dRlen b) 128

/-- Bytes of one source row of COPY. -/
def srcRow (b : Bytes) : Nat :=
  match dCodec b with
  | 2 => azcExtent (dPacked b) (dRlen b)
  | 3 => wdcGroups b * groupBytes (dFmt b)
  | _ => dRlen b

/-- Bytes of one destination row of COPY. -/
def dstRow (b : Bytes) : Nat := if dCodec b = 1 then azcExtent (dPacked b) (dRlen b) else dRlen b

/-- Committed positions that PAGEWALK delivers (R317). -/
def walkCount (b : Bytes) : Nat := 16 * (dIcount b - 1) + dLastpos b

/-- Every extent that a descriptor fixes; those of indexed records are checked as each record starts (R313, R316). -/
def extents (b : Bytes) : List Ext :=
  match dOpc b with
  | 0x01 =>
    [⟨dSrc b, 0, rowsSpan (dRows b) (dSpitch b) (srcRow b), false⟩,
      ⟨dDst b, 0, if dAord b ≠ 0 then aordSpan b else rowsSpan (dRows b) (dDpitch b) (dstRow b), true⟩] ++
      if dCodec b = 3 then [⟨dAux b, 0, dRows b * wdcGroups b * 34, false⟩, ⟨dLvl b, 0, 64, false⟩] else []
  | 0x02 => [⟨dAux b, 0, 4 * dIcount b, false⟩, ⟨dDst b, 0, rowsSpan (dIcount b) (dDpitch b) (dRlen b), true⟩]
  | 0x03 => [⟨dAux b, 0, 4 * dIcount b, false⟩, ⟨dSrc b, 0, rowsSpan (dIcount b) (dSpitch b) (dRlen b), false⟩]
  | 0x04 => [⟨dDst b, 0, rowsSpan (dRows b) (dDpitch b) (dRlen b), true⟩]
  | 0x05 =>
    [⟨dAux b, 0, rowsSpan (dIcount b) (dSpitch b) 4, false⟩, ⟨dDst b, 0, walkCount b * (dRlen b / 32), true⟩,
      ⟨dDst b, dDpitch b, walkCount b * (dRlen b / 32), true⟩]
  | 0x06 =>
    [⟨dSrc b, 0, rowsSpan (dRows b) (dSpitch b) (dRlen b), false⟩, ⟨dDst b, 0, rowsSpan (dRows b) (dDpitch b) (dRlen b), true⟩]
  | 0x07 => [⟨dSrc b, 0, rowsSpan (dRows b) (dSpitch b) (dRlen b), false⟩]
  | _ => []

/-- The address words that a descriptor uses, and which of them is a destination. -/
def usedWords (b : Bytes) : List (W64 × Bool) :=
  match dOpc b with
  | 0x01 => [(dSrc b, false), (dDst b, true)] ++ if dCodec b = 3 then [(dAux b, false), (dLvl b, false)] else []
  | 0x02 => [(dSrc b, false), (dDst b, true), (dAux b, false)]
  | 0x03 => [(dSrc b, false), (dDst b, true), (dAux b, false)]
  | 0x04 => [(dDst b, true)]
  | 0x05 => [(dDst b, true), (dAux b, false)]
  | 0x06 => [(dSrc b, false), (dDst b, true)]
  | 0x07 => [(dSrc b, false)]
  | _ => []

/-! ### Regions and paths -/

/-- The region check of a GLOBAL extent (R253, R255, R256): windows apart. -/
def globalReach (s : State) (e : Nat) (w : W64) (off n : Nat) : Bool :=
  let d := chipF w % 8
  if !isLocal s w then decide (off + n ≤ 0x17C0000000) || (spadExtent off n).isSome
  else hbmExtent s d off n || swsExtent off n || (spadExtent off n).isSome || (!isHde e && d = e / 18 && stageExtent s d off n)

/-- Whether every byte of an extent lies in its region, its handle or a mapped window (ADDR of R313). -/
def inRegion (s : State) (e : Nat) (x : Ext) : Bool :=
  let o := offOf x.w + x.lo
  match spaceOf x.w with
  | 0 => globalReach s e x.w o x.n
  | 1 => (handleOf s (tileF x.w) (handleNo x.w)).valid && decide (o + x.n ≤ (handleOf s (tileF x.w) (handleNo x.w)).logical)
  | 2 => true
  | 3 => (tierAddr s o x.n).isSome
  | 4 => decide (o + x.n ≤ 2 ^ 64) && hostMapped s o x.n x.write
  | _ => false

/-- The status of PATH_LOST for an address word, if its die or its route is gone (R313, R327). -/
def pathLost (s : State) (w : W64) : Option Status :=
  if spaceOf w ≠ 0 then none
  else if isLocal s w then
    if (s.dies.get (chipF w % 8)).st = .reset3 then some .notReady
    else if !dieUp s (chipF w % 8) then some .dieRetired else none
  else if (routeTo s (chipF w / 8)).isNone then some .linkDown else none

/-- Whether an extent lies behind windows, so that the engine probes it (R315). -/
def needsProbe (s : State) (e : Nat) (x : Ext) : Bool :=
  spaceOf x.w = 0 &&
    if isLocal s x.w then (spadExtent (offOf x.w + x.lo) x.n).isSome && (isHde e || chipF x.w % 8 ≠ e / 18) else true

/-- Whether a local target's windows admits an extent. -/
def targetAdmits (s : State) (e : Nat) (x : Ext) : Bool :=
  match spadExtent (offOf x.w + x.lo) x.n with
  | some (n, a) => tileAdmits s (32 * (chipF x.w % 8) + n) (engChip s e (chipF x.w % 8)) a x.n x.write
  | none => false

/-! ### The checks of R313 -/

/-- Whether a tile is out of service for PWAIT and PSIG. -/
def tileGone (s : State) (t : Nat) : Bool := (s.tiles.get t).retired || !dieUp s (t / 32)

/-- BAD_PARAM. A CODEC of 3 is WDC expansion (R310, R320); the reserved value 3 is that of ES and AORD. DEDUCED. -/
def dmaParam (s : State) (e : Nat) (bad : Bool) (b : Bytes) : Bool :=
  let copy := dOpc b = 0x01
  (usedWords b).any (fun p => !spaceAllowed e p.1 p.2) ||
    (copy && dCodec b = 3 && !(spaceOf (dLvl b) = 0 || spaceOf (dLvl b) = 1)) ||
    dEs b = 3 || dAord b = 3 || (!copy && (dCodec b ≠ 0 || dEs b ≠ 0 || dAord b ≠ 0)) ||
    (dAord b ≠ 0 && (dCodec b ≠ 0 || spaceOf (dDst b) ≠ 1)) ||
    (dCodec b = 3 && !(spaceOf (dDst b) = 2 || spaceOf (dDst b) = 1)) ||
    (dPwait b && tileGone s (dWtile b)) || (dPsig b && tileGone s (dStile b)) || bad || (dOpc b = 0x07 && !dCache b)

/-- BAD_FMT. -/
def dmaFmt (b : Bytes) : Bool :=
  11 ≤ dFmt b || (dAord b ≠ 0 && !(1 ≤ dFmt b && dFmt b ≤ 4)) || (dCodec b = 3 && !wdcBase (dFmt b))

/-- Opcodes whose ROWS is checked. -/
def rowsUsed (b : Bytes) : Bool := dOpc b = 0x01 || dOpc b = 0x04 || dOpc b = 0x06 || dOpc b = 0x07

/-- ZERO_LEN. -/
def dmaZero (b : Bytes) : Bool :=
  dRlen b = 0 || (rowsUsed b && dRows b = 0) || ((dOpc b = 0x02 || dOpc b = 0x03 || dOpc b = 0x05) && dIcount b = 0) ||
    (dPwait b && dWcount b = 0) || (dPsig b && dScount b = 0) || (dOpc b = 0x05 && dLastpos b = 0)

/-- LEN_OVER. -/
def dmaOver (b : Bytes) : Bool :=
  0x10000000 < dRlen b || (rowsUsed b && 2 ^ 32 < dRows b * dRlen b) || ((dOpc b = 0x02 || dOpc b = 0x03) && 2 ^ 32 < dIcount b * dRlen b) ||
    ((dOpc b = 0x01 || dOpc b = 0x04 || dOpc b = 0x06) && 1 < dRows b && dDpitch b < dRlen b) || (dOpc b = 0x05 && 16 < dLastpos b)

/-- Whether an address word breaks its alignment. -/
def wordMisaligned (w : W64) : Bool := if spaceOf w = 1 ∨ spaceOf w = 2 then rfld w 22 0 % 64 ≠ 0 else offOf w % 4 ≠ 0

/-- ALIGN_OP (R298, R318, R320). -/
def dmaAlign (b : Bytes) : Bool :=
  (usedWords b).any (fun p => wordMisaligned p.1) || dSpitch b % 4 ≠ 0 || dDpitch b % 4 ≠ 0 || dRlen b % 4 ≠ 0 ||
    ((dCodec b = 1 || dCodec b = 2) && dRlen b % 256 ≠ 0) || (dAord b ≠ 0 && dRlen b % elemBytes (dFmt b) ≠ 0) ||
    (dCodec b = 3 && offOf (dLvl b) % 64 ≠ 0)

/-- The SWS sector and the tile between which BOND moves data (R141): the own die's sector and the tile above it. -/
def bondPair (s : State) (e : Nat) (sws pad : W64) (n np : Nat) : Bool :=
  let own := fun (w : W64) => spaceOf w = 0 && isLocal s w && chipF w % 8 = e / 18
  let sector := (offF sws - swsBase) / 0x8000000
  own sws && swsExtent (offF sws) n && (offF sws - swsBase + n - 1) / 0x8000000 = sector &&
    match spaceOf pad with
    | 1 => tileF pad % 32 = sector
    | 2 => tileF pad % 32 = sector
    | _ => own pad && (match spadExtent (offF pad) np with | some (t, _) => t = sector | none => false)

/-- ADDR, with BOND's restriction to one sector and the tile above it. -/
def dmaAddr (s : State) (e : Nat) (b : Bytes) : Bool :=
  (extents b).any (fun x => !inRegion s e x) ||
    (dOpc b = 0x06 &&
      let n := rowsSpan (dRows b) (dSpitch b) (dRlen b)
      let m := rowsSpan (dRows b) (dDpitch b) (dRlen b)
      !(bondPair s e (dSrc b) (dDst b) n m || bondPair s e (dDst b) (dSrc b) m n))

/-- The first failing check of R313: its cause and completion status. -/
def checkDesc (s : State) (e : Nat) (bad : Bool) (b : Bytes) : Option (Nat × Status) :=
  firstFail [
    (!opOk e (dOpc b), (0x01, .engineFault)),
    (dmaParam s e bad b, (0x02, .engineFault)),
    (dmaFmt b, (0x03, .engineFault)),
    (dmaZero b, (0x04, .lenRange)),
    (dmaOver b, (0x05, .lenRange)),
    (dmaAlign b, (0x06, .align)),
    (dmaAddr s e b, (0x07, .addrRange)),
    ((usedWords b).any (fun p => (pathLost s p.1).isSome), (0x0D, ((usedWords b).findSome? fun p => pathLost s p.1).getD .dieRetired))]

end Sys2Proof.Machine
end

