-- ==== Sys2Proof/Machine/Dma.lean ====
section
/-!
DEFINITION. The DMA engines at work (chapter 10): fetching and running descriptors, probes, reads through the die cache,
array order and codecs, index streams and page walks, stream ports, poison, completion, and the DMA work command.
-/

namespace Sys2Proof.Machine

/-! ### Reading -/

/-- What reading an extent gives. -/
structure Rd where
  data : List PByte := []
  /-- keys of module memory read -/
  keys : List Nat := []
  /-- lines whose fill bits are cleared at completion -/
  used : List (Nat × Nat) := []
  /-- the cause that stops the descriptor after the bytes in `data` -/
  stop : Option Nat := none
  deriving DecidableEq, Repr, Inhabited

/-- Bytes before the first unfilled line of a guarded buffer. -/
def filledPrefix (s : State) (t : Nat) : List Nat → Nat
  | [] => 0
  | a :: r => if filled s t (a / 512) then filledPrefix s t r + 1 else 0

/-- Bytes of an extent of host memory whose accesses, of up to 4 KiB each, lie in regions that admit them (R337). -/
def hostPrefix (s : State) (a n : Nat) (write : Bool) : Nat :=
  min n (4096 * ((List.range (ceilDiv n 4096)).takeWhile fun i => hostMapped s (a + 4096 * i) (min 4096 (n - 4096 * i)) write).length)

/-- The bytes of an extent as an engine reads them; bytes of another module are what it answers, which nothing here fixes. -/
def readExt (s : State) (e : Nat) (x : Ext) : Rd :=
  let o := offOf x.w + x.lo
  match spaceOf x.w with
  | 0 =>
    if !isLocal s x.w then { data := (takeFree s x.n).1.map fun b => (b, false) }
    else if needsProbe s e x && !targetAdmits s e x then { stop := some 0x0C }
    else
      let k := dieKey (chipF x.w % 8) o
      { data := loadMod s k x.n, keys := (List.range x.n).map (k + ·) }
  | 1 =>
    let t := tileF x.w
    let h := handleOf s t (handleNo x.w)
    let as := physOf h o x.n
    let n := if h.guard then filledPrefix s t as else x.n
    { data := loadKeys s ((as.take n).map (tileKey t)), keys := (as.take n).map (tileKey t)
      used := if h.guard && h.consume then (linesOf (as.take n)).map fun l => (t, l) else []
      stop := if n < x.n then some 0x0B else none }
  | 3 => { data := (hostRead s ((tierAddr s o x.n).getD 0) x.n).map fun b => (b, false) }
  | 4 =>
    let n := hostPrefix s o x.n false
    { data := (hostRead s o n).map fun b => (b, false), stop := if n < x.n then some 0x0C else none }
  | _ => {}

/-! ### The die cache (R133, R136 to R139) -/

/-- The blocks of a die-cache line. -/
def lineBlocks (l : Nat) : List Nat := (List.range 8).map (8 * l + ·)

/-- A line's poison marks as its fill delivers them; `mark` says which die-local blocks the source holds poisoned. -/
def fillMarks (x : DieRegs) (mark : Nat → Bool) (l : Nat) : List Nat :=
  (lineBlocks l).filter mark ++ x.lineMarks.filter fun b => b / 8 ≠ l

/-- One cacheable line looked up: a hit, an erroneous line that is refetched, or a miss that installs it. -/
def cacheLine (mark : Nat → Bool) (x : DieRegs) (l : Nat) : DieRegs :=
  let x := { x with lookups := x.lookups + 1 }
  if x.lines.contains l then
    let bad := x.badLines.contains l
    let weak := x.weakLines.contains l
    { x with
      lines := l :: x.lines.filter (· ≠ l)
      badLines := x.badLines.filter (· ≠ l)
      lineMarks := if bad then fillMarks x mark l else x.lineMarks
      weakLines := x.weakLines.filter (· ≠ l)
      misses := if bad then x.misses + 1 else x.misses
      dcUe := if bad then satInc x.dcUe 1 else x.dcUe
      dcCe := if weak then satInc x.dcCe 1 else x.dcCe }
  else { x with misses := x.misses + 1, lines := keepWays (cacheWays x) (l :: x.lines) [], lineMarks := fillMarks x mark l }

/-- The lines of the engine's own HBM3 and SWS among the keys read. -/
def cacheable (d : Nat) (keys : List Nat) : List Nat :=
  ((keys.filter fun k => k / 2 ^ 48 = d && k % 2 ^ 48 < stageBase).map fun k => k % 2 ^ 48 / 512).eraseDups

/-- Cacheable reads of an engine look their lines up. -/
def cacheReads (s : State) (e : Nat) (cache : Bool) (keys : List Nat) : State :=
  if !cache || isHde e then s
  else
    let ls := cacheable (e / 18) keys
    if ls.isEmpty then s else updDie s (e / 18) fun x => ls.foldl (cacheLine fun b => markAt s (2 ^ 42 * (e / 18) + b)) x

/-- Whether a cacheable read of an engine finds a block in its die's cache, free of uncorrectable errors. -/
def cacheHit (s : State) (e k : Nat) : Bool :=
  let x := s.dies.get (e / 18)
  k / 2 ^ 48 = e / 18 && x.lines.contains (k % 2 ^ 48 / 512) && !x.badLines.contains (k % 2 ^ 48 / 512)

/-- Memory as an engine with cacheable reads sees it: a line in the cache answers in place of its source, with the marks of its fill
and without meeting the source's errors (R136, R139). -/
def cacheView (s : State) (e : Nat) (cache : Bool) : State :=
  let x := s.dies.get (e / 18)
  let ls := x.lines.filter fun l => !x.badLines.contains l
  if !cache || isHde e || ls.isEmpty then s
  else
    let base := 2 ^ 42 * (e / 18)
    { s with mem := { s.mem with
      pois := ls.foldl (fun p l => (lineBlocks l).foldl (fun p b => p.set (base + b) (x.lineMarks.contains b)) p) s.mem.pois
      ecc := ls.foldl (fun p l => p.clear (base + 8 * l) (base + 8 * l + 8)) s.mem.ecc } }

/-! ### What a descriptor moves -/

/-- The result of a descriptor's reads: its writes in order, each an address word, an offset beyond it, and data. -/
structure Move where
  puts : List (W64 × Nat × List PByte) := []
  keys : List Nat := []
  used : List (Nat × Nat) := []
  stop : Option Nat := none
  azc : AzcRow := {}
  /-- the record that its target's windows refuse (R126, R316) -/
  refused : Option Ext := none
  deriving DecidableEq, Repr, Inhabited

/-- A move after a further one, unless it has stopped. -/
def Move.then (a : Move) (b : Move) : Move :=
  if a.stop.isSome then a
  else { puts := a.puts ++ b.puts, keys := a.keys ++ b.keys, used := a.used ++ b.used, stop := b.stop, refused := b.refused
         azc := { data := [], overs := a.azc.overs + b.azc.overs, unders := a.azc.unders + b.azc.unders
                  hdrs := a.azc.hdrs + b.azc.hdrs, enc64 := a.azc.enc64 + b.azc.enc64 } }

/-- One read written at a destination as it is. -/
def straight (s : State) (e : Nat) (x : Ext) (dst : W64) (lo : Nat) : Move :=
  let r := readExt s e x
  { puts := if r.data.isEmpty then [] else [(dst, lo, r.data)], keys := r.keys, used := r.used, stop := r.stop }

/-- The array-order output of rows read (R318). -/
def aordData (b : Bytes) (rows : List (List PByte)) : List PByte :=
  let e := elemBytes (dFmt b)
  let cols := dRlen b / e
  let weights := dAord b = 1
  let k := if weights then dRows b else cols
  let other := if weights then cols else dRows b
  (List.range (aordSpan b)).map fun p =>
    let g := p / (128 * e)
    let kk := g / other * 128 + p % (128 * e) / e
    let o := g % other
    if kk < k then ((rows.getD (if weights then kk else o) []).getD ((if weights then o else kk) * e + p % e) (0, false)) else (0, false)

/-- The groups of the array-order output that lie wholly in the first `n` rows read (R324). -/
def aordPrefix (b : Bytes) (rows : List (List PByte)) (n : Nat) : List (W64 × Nat × List PByte) :=
  let g := 128 * elemBytes (dFmt b)
  let other := if dAord b = 1 then dRlen b / elemBytes (dFmt b) else dRows b
  let full := (List.range (aordSpan b / g)).filter fun i => if dAord b = 1 then decide (128 * (i / other) + 128 ≤ n) else decide (i % other < n)
  if full.isEmpty then [] else
    let out := aordData b rows
    full.map fun i => (dDst b, i * g, pAt out (i * g) g)

/-- Array-order COPY. -/
def aordMove (s : State) (e : Nat) (b : Bytes) : Move :=
  let rs := (List.range (dRows b)).map fun r => readExt s e ⟨dSrc b, r * dSpitch b, dRlen b, false⟩
  match indexOf (fun r => r.stop.isSome) rs with
  | some i => { puts := aordPrefix b (rs.map (·.data)) i, stop := (rs.getD i {}).stop }
  | none => { puts := [(dDst b, 0, aordData b (rs.map (·.data)))], keys := rs.flatMap (·.keys), used := rs.flatMap (·.used) }

/-- Encoded bytes that an expander reads of a row: offset and length of each block (R299, R303). -/
def azcUsed (packed : Bool) (src : List PByte) : Nat → Nat → Nat → List (Nat × Nat)
  | 0, _, _ => []
  | f + 1, pos, n =>
    if n = 0 then []
    else
      let o := azcExpand (min 4096 n) (src.drop pos)
      if packed && o.hdr then [(pos, 64)]
      else (pos, o.used) :: azcUsed packed src f (if packed then pos + o.used else pos + 4160) (n - min 4096 n)

/-- One row of COPY under its codec (R320). -/
def copyRow (s : State) (e : Nat) (b : Bytes) (r : Nat) : Move :=
  let src : Ext := ⟨dSrc b, r * dSpitch b, srcRow b, false⟩
  let lo := r * dDpitch b
  match dCodec b with
  | 0 => straight s e src (dDst b) lo
  | 1 =>
    let x := readExt s e src
    let whole := if x.stop.isSome then x.data.take (x.data.length / 4096 * 4096) else x.data
    { puts := (azcEncode (dPacked b) (dEs b) whole).map fun p => (dDst b, lo + p.1, p.2), keys := x.keys, used := x.used, stop := x.stop }
  | 2 =>
    let x := readExt s e src
    let us := azcUsed (dPacked b) x.data (dRlen b) 0 (dRlen b)
    let n := if x.stop.isSome then min (dRlen b) (4096 * us.countP fun u => decide (u.1 + u.2 ≤ x.data.length)) else dRlen b
    let a := azcDecode (dPacked b) x.data (dRlen b) 0 n {}
    { puts := if a.data.isEmpty then [] else [(dDst b, lo, a.data)], keys := us.flatMap fun u => (x.keys.drop u.1).take u.2, used := x.used
      stop := x.stop, azc := { a with data := [] } }
  | _ =>
    let x := readExt s e src
    let d := readExt s e ⟨dAux b, r * (wdcGroups b * 34), wdcGroups b * 34, false⟩
    let l := readExt s e ⟨dLvl b, 0, 64, false⟩
    let stop := [l.stop, x.stop, d.stop].findSome? id
    let have_ := if l.stop.isSome then 0 else 128 * min (x.data.length / groupBytes (dFmt b)) (d.data.length / 34)
    let w := wdcRow (dFmt b) (if stop.isSome then min (dRlen b) have_ else dRlen b) l.data x.data d.data
    { puts := if w.data.isEmpty then [] else [(dDst b, lo, w.data)]
      keys := (if r = 0 then l.keys else []) ++ x.keys ++ d.keys, used := l.used ++ x.used ++ d.used, stop := stop, azc := { w with data := [] } }

/-- COPY. -/
def copyMove (s : State) (e : Nat) (b : Bytes) : Move :=
  if dAord b ≠ 0 then aordMove s e b else (List.range (dRows b)).foldl (fun m r => m.then (copyRow s e b r)) {}

/-- The address word with its offset raised, as a record's own extent. -/
def recExt (w : W64) (idx pitch n : Nat) (write : Bool) : Ext := ⟨w, idx * pitch, n, write⟩

/-- Whether an indexed record lies in its region (R316): index-dependent offsets that leave the word's field do not. -/
def recordOk (s : State) (e : Nat) (x : Ext) : Bool := inRegion s e x && (spaceOf x.w ≠ 0 || offOf x.w + x.lo + x.n ≤ 2 ^ 48)

/-- Records of GATHER and SCATTER in index order (R316). -/
def records (s : State) (e : Nat) (b : Bytes) (gather : Bool) : List Nat → Nat → Move → Move
  | [], _, m => m
  | v :: r, i, m =>
    if m.stop.isSome then m
    else if v = 0xFFFFFFFF then
      records s e b gather r (i + 1) (if gather then m.then { puts := [(dDst b, i * dDpitch b, List.replicate (dRlen b) (0, false))] } else m)
    else
      let x := if gather then recExt (dSrc b) v (dSpitch b) (dRlen b) false else recExt (dDst b) v (dDpitch b) (dRlen b) true
      if !recordOk s e x then m.then { stop := some 0x09 }
      else if needsProbe s e x && isLocal s x.w && !targetAdmits s e x then m.then { stop := some 0x0C, refused := some x }
      else
        records s e b gather r (i + 1) (m.then
          (if gather then straight s e x (dDst b) (i * dDpitch b)
           else straight s e ⟨dSrc b, i * dSpitch b, dRlen b, false⟩ (dDst b) (v * dDpitch b)))

/-- GATHER and SCATTER, with their index stream read first. -/
def indexMove (s : State) (e : Nat) (b : Bytes) (gather : Bool) : Move :=
  let x := readExt s e ⟨dAux b, 0, 4 * dIcount b, false⟩
  let idx := (pieces 4 (plain x.data)).map leNat
  let m := records s e b gather (idx.take (x.data.length / 4)) 0 {}
  { m with keys := x.keys ++ m.keys, used := x.used ++ m.used, stop := match m.stop with | some c => some c | none => x.stop }

/-- FILL: the 32-bit pattern over each row. -/
def fillMove (b : Bytes) : Move :=
  { puts := (List.range (dRows b)).map fun r =>
      (dDst b, r * dDpitch b, (List.replicate (dRlen b / 4) (leBytes 4 (dAux b).toNat)).flatten.map fun v => (v, false)) }

/-- One page of a walk (R264, R317). -/
def walkPage (s : State) (e : Nat) (b : Bytes) (g : Nat) : Move :=
  let t := readExt s e ⟨dAux b, g * dSpitch b, 4, false⟩
  let v := leNat (plain t.data)
  let d := chipF (dAux b) % 8
  let p := dRlen b
  let n := if g + 1 = dIcount b then dLastpos b else 16
  match t.stop with
  | some c => { stop := some c }
  | none =>
    if !bitN v 31 || bitN v 30 then { keys := t.keys, stop := some 0x0A }
    else if !hbmExtent s d (pteAddrOf v) p then { keys := t.keys, stop := some 0x09 }
    else
      let k := dieKey d (pteAddrOf v)
      let at_ := fun o => loadMod s (k + o) (n * (p / 32))
      let ks := fun o => (List.range (n * (p / 32))).map (k + o + ·)
      { puts := [(dDst b, 16 * g * (p / 32), at_ 0), (dDst b, dDpitch b + 16 * g * (p / 32), at_ (16 * (p / 32)))]
        keys := t.keys ++ ks 0 ++ ks (16 * (p / 32)), used := t.used }

/-- PAGEWALK: what reaches a stream port is in ascending destination order, keys before values. -/
def walkMove (s : State) (e : Nat) (b : Bytes) : Move :=
  let m := (List.range (dIcount b)).foldl (fun m g => m.then (walkPage s e b g)) {}
  if spaceOf (dDst b) = 2 then { m with puts := sortBy (fun x y => x.2.1 ≤ y.2.1) m.puts } else m

/-- BOND and PREFETCH. -/
def bondMove (s : State) (e : Nat) (b : Bytes) : Move :=
  (List.range (dRows b)).foldl (fun m r => m.then (straight s e ⟨dSrc b, r * dSpitch b, dRlen b, false⟩ (dDst b) (r * dDpitch b))) {}

def prefetchMove (s : State) (e : Nat) (b : Bytes) : Move :=
  (List.range (dRows b)).foldl (fun m r =>
    let x := readExt s e ⟨dSrc b, r * dSpitch b, dRlen b, false⟩
    m.then { keys := x.keys, stop := x.stop }) {}

/-- What a checked descriptor moves. -/
def moveOf (s : State) (e : Nat) (b : Bytes) : Move :=
  let s := cacheView s e (dCache b && dOpc b ≠ 0x06)
  match dOpc b with
  | 0x01 => copyMove s e b
  | 0x02 => indexMove s e b true
  | 0x03 => indexMove s e b false
  | 0x04 => fillMove b
  | 0x05 => walkMove s e b
  | 0x06 => bondMove s e b
  | _ => prefetchMove s e b

/-! ### Writing -/

/-- The chip of an address word on another module is told of an access. -/
def linkAccess (s : State) (w : W64) (kind : Nat) (pay : Bytes) : State :=
  match routeTo s (chipF w / 8) with
  | some p => sendOn s p (BitVec.ofNat 12 (chipF w)) kind pay
  | none => s

/-- Data written at a destination other than a port. -/
def putData (s : State) (p : W64 × Nat × List PByte) : State :=
  let w := p.1
  let o := offOf w + p.2.1
  match spaceOf w with
  | 0 =>
    if isLocal s w then storeMod s (dieKey (chipF w % 8) o) p.2.2
    else linkAccess s w kindWrite (leBytes 8 (w + BitVec.ofNat 64 p.2.1).toNat ++ plain p.2.2)
  | 1 => storeHandle s (tileF w) (handleOf s (tileF w) (handleNo w)) o p.2.2
  | 3 => match tierAddr s o p.2.2.length with | some a => hostWrite s a (plain p.2.2) | none => s
  | 4 => hostWrite s o (plain p.2.2)
  | _ => s

/-- The windows that a local write still has to pass (R126, R315). -/
def putRejected (s : State) (e : Nat) (p : W64 × Nat × List PByte) : Bool :=
  let x : Ext := ⟨p.1, p.2.1, p.2.2.length, true⟩
  needsProbe s e x && isLocal s p.1 && !targetAdmits s e x

/-- Keys of module memory, and host addresses, that a write covers. -/
def putKeys (s : State) (p : W64 × Nat × List PByte) : List Nat × List Nat :=
  let w := p.1
  let o := offOf w + p.2.1
  let n := p.2.2.length
  match spaceOf w with
  | 0 => (if isLocal s w then (List.range n).map (dieKey (chipF w % 8) o + ·) else [], [])
  | 1 => ((physOf (handleOf s (tileF w) (handleNo w)) o n).map (tileKey (tileF w)), [])
  | 3 => ([], match tierAddr s o n with | some a => (List.range n).map (a + ·) | none => [])
  | 4 => ([], (List.range n).map (o + ·))
  | _ => ([], [])

/-- Poisoned 64-byte destination blocks of a write, and the address word of the first (R326). -/
def poisonedBlocks (p : W64 × Nat × List PByte) : List Nat :=
  let o := offOf p.1 + p.2.1
  ((p.2.2.zipIdx.filter (·.1.2)).map fun x => (o + x.2) / 64).eraseDups

/-- Bytes that a port holds at most (R314). -/
def portRoom (x : Tile) (p : Nat) : Nat := 8192 - (x.ports.get p).length

/-- Whether a write crosses a die boundary within the module: what another die has accepted stays unseen there until the descriptor
completes (R35, R309). -/
def putFar (s : State) (e : Nat) (p : W64 × Nat × List PByte) : Bool :=
  spaceOf p.1 = 0 && isLocal s p.1 && (isHde e || chipF p.1 % 8 ≠ e / 18)

/-- A write within the engine's die, to host memory or to another module is made; one to another die is kept for the completion. -/
def putNear (s : State) (e : Nat) (p : W64 × Nat × List PByte) : State := if putFar s e p then s else putData s p

/-- The writes kept for the completion: key and data. -/
def farPuts (s : State) (e : Nat) (puts : List (W64 × Nat × List PByte)) : List (Nat × List PByte) :=
  (puts.filter (putFar s e)).map fun p => (dieKey (chipF p.1 % 8) (offOf p.1 + p.2.1), p.2.2)

/-- Bytes of a write that host regions admit: all of one elsewhere. -/
def putAdmitted (s : State) (p : W64 × Nat × List PByte) : Nat :=
  if spaceOf p.1 = 4 then hostPrefix s (offOf p.1 + p.2.1) p.2.2.length true else p.2.2.length

/-- A write that meets no closed window and no withdrawn host region is accepted; the first that does stops the rest with REMOTE_REJECT. -/
def putAll (s : State) (e : Nat) : List (W64 × Nat × List PByte) → State × List (W64 × Nat × List PByte) × Option Ext
  | [] => (s, [], none)
  | p :: r =>
    let n := putAdmitted s p
    if putRejected s e p then (s, [], some ⟨p.1, p.2.1, p.2.2.length, true⟩)
    else if n < p.2.2.length then
      let q := (p.1, p.2.1, p.2.2.take n)
      (putNear s e q, [q], some ⟨p.1, p.2.1, p.2.2.length, true⟩)
    else
      let q := putAll (putNear s e p) e r
      (q.1, p :: q.2.1, q.2.2)

/-! ### The way of the data (R19, R20, R117, R328) -/

/-- What a descriptor's data takes over arcs: from a die, to a die, bytes. Reads of dies and of the host tier come to the engine's die,
or to the entry die of the HDE's path, and writes leave from there. -/
def crossings (s : State) (e : Nat) (b : Bytes) (keys : List Nat) (puts : List (W64 × Nat × List PByte)) : List (Nat × Nat × Nat) :=
  let h := hubDie s e b
  let own := fun (w : W64) (d : Nat) => spaceOf w = 0 && isLocal s w && chipF w % 8 = d
  let tier := fun (w : W64) => e ≠ 144 && spaceOf w = 3
  let sum := fun (l : List Nat) => l.foldl (· + ·) 0
  ((List.range 8).flatMap fun d =>
    [(d, h, keys.countP fun k => k / 2 ^ 48 = d), (h, d, sum ((puts.filter fun p => own p.1 d).map fun p => p.2.2.length))]) ++
    [(entryDie s h, h, sum (((extents b).filter fun x => tier x.w && !x.write).map (·.n))),
      (h, entryDie s h, sum ((puts.filter fun p => tier p.1).map fun p => p.2.2.length))]

/-- The transfers between two dies among them. -/
def arcCrossings (s : State) (e : Nat) (b : Bytes) (keys : List Nat) (puts : List (W64 × Nat × List PByte)) : List (Nat × Nat × Nat) :=
  (crossings s e b keys puts).filter fun c => c.1 ≠ c.2.1 && c.2.2 ≠ 0

/-- Tiles whose scratchpads a descriptor's data touches. -/
def movedTiles (s : State) (m : Move) : List Nat :=
  ((m.keys.filterMap lineOfKey).map (·.1) ++ m.puts.filterMap fun p =>
    match spaceOf p.1 with
    | 0 => if isLocal s p.1 then (lineOfKey (dieKey (chipF p.1 % 8) (offOf p.1 + p.2.1))).map (·.1) else none
    | 1 => some (tileF p.1)
    | _ => none).eraseDups

/-- Whether a descriptor's data can move: no scratchpad that it touches is being scrubbed (R117), and every arc that it crosses is UP,
since an arc that trains holds what is sent on it (R174). -/
def moveReady (s : State) (e : Nat) (b : Bytes) (m : Move) : Bool :=
  ((movedTiles s m).all fun t => !(s.tiles.get t).scrubBusy) && (arcCrossings s e b m.keys m.puts).all fun c => arcsUp s c.1 c.2.1

/-- The errors that a descriptor's reads meet, but for what the die cache holds. -/
def meetErrors (s : State) (e : Nat) (b : Bytes) (m : Move) : State :=
  eccNote s (m.keys.filter fun k => !(dCache b && dOpc b ≠ 0x06 && !isHde e && cacheHit s e k))

/-- Reads take their effect on the machine: die-cache lines, codec counts, free bytes of other modules. -/
def readEffects (s : State) (e : Nat) (b : Bytes) (m : Move) : State :=
  let cache := dCache b && dOpc b ≠ 0x06
  let s := cacheReads s e cache m.keys
  let far := (extents b).filter fun x => spaceOf x.w = 0 && !isLocal s x.w && !x.write
  let s := far.foldl (fun s x => { linkAccess s x.w kindRead (leBytes 8 (x.w + BitVec.ofNat 64 x.lo).toNat ++ leBytes 4 x.n) with free := s.free + x.n }) s
  if isHde e || dCodec b < 2 then s
  else updDie s (e / 18) fun x => { x with
    cdOver := satInc x.cdOver m.azc.overs
    cdUnder := satInc x.cdUnder m.azc.unders
    cdHdr := satInc x.cdHdr m.azc.hdrs
    enc64 := x.enc64 + BitVec.ofNat 32 m.azc.enc64
    dec64 := if dCodec b = 2 then x.dec64 + BitVec.ofNat 32 (dRows b * dRlen b / 64) else x.dec64 }

/-- A descriptor in progress replaced. -/
def updSlotD (s : State) (e ch : Nat) (d d' : DSlot) : State :=
  updChan s e ch fun c => { c with prog := c.prog.map fun p => if p = d then d' else p }

/-- A descriptor ends with a cause; its command may end with it. -/
def endDesc (s : State) (e ch : Nat) (d : DSlot) (cause : Nat) (x : Status) : State :=
  let s := chanFaultAs s e ch d cause x
  match d.job with
  | some j => unitDone s j
  | none => s

/-- A rejection counted at the engine and at a tile target; a withdrawn host region is no remote access (R315, R337). -/
def countReject (s : State) (e : Nat) (x : Ext) : State :=
  if spaceOf x.w ≠ 0 then s
  else
    match spadExtent (offOf x.w + x.lo) x.n with
    | some (n, _) => updTile (rejectCount s e) (32 * (chipF x.w % 8) + n) fun y => { y with winReject := satInc y.winReject 1 }
    | none => rejectCount s e

/-- A remote access of a descriptor rejected (R126, R315), or one to a withdrawn host region (R337): the record or write `at_` where the
descriptor met it, else the extent of its descriptor that no window admits. -/
def remoteReject (s : State) (e ch : Nat) (d : DSlot) (at_ : Option Ext) : State :=
  let hit := at_.or ((extents d.bytes).find? fun x => needsProbe s e x && isLocal s x.w && !targetAdmits s e x)
  endDesc (match hit with | some x => countReject s e x | none => s) e ch d 0x0C .addrRange

/-- The descriptor with what its writes leave: counts, first poisoned address, destination. -/
def slotAfter (s : State) (d : DSlot) (puts : List (W64 × Nat × List PByte)) (m : Move) : DSlot :=
  let bad := puts.filter fun p => p.2.2.any (·.2)
  { d with
    overrun := d.overrun || 0 < m.azc.overs
    underrun := d.underrun || 0 < m.azc.unders
    pois := d.pois || !bad.isEmpty
    poisAt := match d.poisAt with
      | some a => some a
      | none => bad.head?.map fun p => p.1 + BitVec.ofNat 64 (p.2.1 + ((indexOf (·.2) p.2.2).getD 0))
    written := d.written + (puts.map fun p => p.2.2.length).foldl (· + ·) 0
    dest := d.dest ++ puts.flatMap fun p => (putKeys s p).1
    hostDest := d.hostDest ++ puts.flatMap fun p => (putKeys s p).2
    consumed := d.consumed ++ m.used }

/-- The engine's POISON_CNT rises by the poisoned blocks written. -/
def countPois (s : State) (e : Nat) (puts : List (W64 × Nat × List PByte)) : State :=
  let n := (puts.map fun p => (poisonedBlocks p).length).foldl (· + ·) 0
  if n = 0 then s else updEngine s e fun g => { g with poisCnt := satInc g.poisCnt n }

/-- What crosses arcs is counted on each. -/
def crossAll (s : State) (e : Nat) (b : Bytes) (keys : List Nat) (puts : List (W64 × Nat × List PByte)) : State :=
  (arcCrossings s e b keys puts).foldl (fun s c => crossArcs s c.1 c.2.1 c.2.2) s

/-- Data delivered to a stream port as its room allows (R314); the descriptor has moved once all of it is there. -/
def movePort (s : State) (e ch : Nat) (d : DSlot) (m : Move) : State :=
  let t := tileF (dDst d.bytes)
  let p := e % 18
  let all := m.puts.flatMap (·.2.2)
  let n := min (all.length - d.written) (portRoom (s.tiles.get t) p)
  let piece := (all.drop d.written).take n
  let s := countPois (updTile s t fun x => { x with ports := x.ports.upd p fun l => l ++ piece }) e [(dDst d.bytes, d.written, piece)]
  let allDone := d.written + n = all.length
  let d' := { d with written := d.written + n, pois := d.pois || anyPois piece
                     poisAt := match d.poisAt with | some a => some a | none => if anyPois piece then some (dDst d.bytes) else none }
  if !allDone then updSlotD s e ch d { d' with phase := .probed }
  else
    let d' := { d' with overrun := 0 < m.azc.overs, underrun := 0 < m.azc.unders, consumed := m.used, phase := .moved }
    let s := crossAll (readEffects (updSlotD s e ch d d') e d.bytes m) e d.bytes m.keys []
    match m.stop with
    | some c => endDesc s e ch d' c (dmaStatus c)
    | none => s

/-- A descriptor moves its data, or waits until it can. -/
def moveDesc (s : State) (e ch : Nat) (d : DSlot) : State :=
  if !moveReady s e d.bytes (moveOf s e d.bytes) then updSlotD s e ch d { d with phase := .probed }
  else
  let s := meetErrors s e d.bytes (moveOf s e d.bytes)
  let m := moveOf s e d.bytes
  if spaceOf (dDst d.bytes) = 2 && dOpc d.bytes ≠ 0x07 then
    (if m.stop = some 0x0C then remoteReject s e ch d m.refused else movePort s e ch d m)
  else
    let r := putAll (readEffects s e d.bytes m) e m.puts
    let d' := { slotAfter s d r.2.1 m with phase := .moved, far := d.far ++ farPuts s e r.2.1 }
    let s := countPois (crossAll (updSlotD r.1 e ch d d') e d.bytes m.keys r.2.1) e r.2.1
    if r.2.2.isSome || m.stop = some 0x0C then remoteReject s e ch d' (r.2.2.or m.refused)
    else match m.stop with
      | some c => endDesc s e ch d' c (dmaStatus c)
      | none => s

/-! ### Running a channel (R307 to R309, R313, R315, R322) -/

/-- A descriptor whose wait, if any, is over: it probes its targets behind windows, or moves. -/
def afterWait (s : State) (e ch : Nat) (d : DSlot) : State :=
  if (extents d.bytes).any (needsProbe s e) then updSlotD s e ch d { d with phase := .probing } else moveDesc s e ch d

/-- A fetched descriptor: its checks, then its wait. -/
def beginDesc (s : State) (e ch : Nat) (d : DSlot) (bad : Bool) : State :=
  match checkDesc s e bad d.bytes with
  | some (c, x) => endDesc s e ch d c x
  | none =>
    if dPwait d.bytes then
      let d' := { d with phase := .waiting }
      let s := updChan s e ch fun c => { c with prog := c.prog ++ [d'] }
      updTile s (dWtile d.bytes) fun x => { x with line := x.line ++ [⟨dWsem d.bytes, dWcount d.bytes, dChk d.bytes, .chan e ch⟩] }
    else afterWait (updChan s e ch fun c => { c with prog := c.prog ++ [d] }) e ch d

/-- HEAD past the descriptors of commands that have been stopped (R389). -/
def skipCancelled : Nat → Channel → Channel
  | 0, c => c
  | n + 1, c =>
    if c.head ≠ c.tail && c.cancelled.get (c.head.toNat % 32) then
      skipCancelled n { c with head := c.head + 1, cancelled := c.cancelled.set (c.head.toNat % 32) false }
    else c

/-- Whether an engine is in service. -/
def engineUp (s : State) (e : Nat) : Bool := isHde e || dieUp s (e / 18)

/-- Whether a channel may fetch its next descriptor. -/
def mayFetch (c : Channel) : Bool :=
  c.qEn && !c.halted && decide (c.head ≠ c.tail) && decide (c.prog.length < 2) && (c.prog.all fun d => d.phase = .moved) &&
    !(dFence (c.ring.get (c.head.toNat % 32)) && !c.prog.isEmpty)

/-- Whether a transfer leaves the engine's die, by the arcs or by a tensor link. -/
def leavesDie (s : State) (e : Nat) (b : Bytes) : Bool :=
  !isHde e && (usedWords b).any fun p => spaceOf p.1 = 0 && (!isLocal s p.1 || chipF p.1 % 8 ≠ e / 18)

/-- A descriptor with PACKED set where its AZC transfer crosses the arcs or a tensor link, which always use that layout (R299). -/
def wireForm (s : State) (e : Nat) (b : Bytes) : Bytes :=
  if (dCodec b = 1 || dCodec b = 2) && !dPacked b && leavesDie s e b then leBytes 4 (leAt b 0 4 + 2 ^ 21) ++ b.drop 4 else b

/-- A descriptor as fetched. -/
def newDesc (s : State) (e : Nat) (c : Channel) (i : Nat) : DSlot where
  bytes := wireForm s e (bytesAt (c.ring.get i) 0 64)
  qidx := i
  phase := .checked
  job := c.owners.get i
  overrun := false
  underrun := false
  pois := false
  written := 0
  dest := []
  hostDest := []
  far := []
  consumed := []
  poisAt := none

/-- Whether a command of opcode `opc` takes a descriptor: its own, or one that R311 does not list for the engine. -/
def takesDesc (opc e : Nat) (b : Bytes) : Bool := dOpc b = opc || !opOk e (dOpc b)

/-- The engine's step for a descriptor of opcode `opc`: one in progress goes on, else the next one is fetched. -/
def runDesc (opc e ch : Nat) (s : State) : Ans :=
  if !engineUp s e then .next s
  else
    match (chanOf s e ch).prog.find? fun d => d.phase ≠ .moved with
    | some d =>
      if !takesDesc opc e d.bytes then .next s
      else
        match d.phase with
        | .waited => .next (afterWait s e ch d)
        | .probed => .next (moveDesc s e ch d)
        | _ => .next s
    | none =>
      let c := skipCancelled 32 (chanOf s e ch)
      if !mayFetch c then .next (updChan s e ch fun _ => c)
      else
        let i := c.head.toNat % 32
        let d := newDesc s e c i
        if !takesDesc opc e d.bytes then .next (updChan s e ch fun _ => c)
        else
          let s := updChan s e ch fun _ => { c with head := c.head + 1 }
          .next (feedAll (beginDesc s e ch d (c.badReloc.get i)))

/-- COPY, GATHER, SCATTER, FILL, PAGEWALK, BOND and PREFETCH (R311). -/
def execCopy (e : EngineNo) (ch : Chan) (s : State) : Ans := runDesc 0x01 e.val ch.val s
/-- GATHER (R316). -/
def execGather (e : EngineNo) (ch : Chan) (s : State) : Ans := runDesc 0x02 e.val ch.val s
/-- SCATTER (R316). -/
def execScatter (e : EngineNo) (ch : Chan) (s : State) : Ans := runDesc 0x03 e.val ch.val s
/-- FILL (R311). -/
def execFill (e : EngineNo) (ch : Chan) (s : State) : Ans := runDesc 0x04 e.val ch.val s
/-- PAGEWALK (R317). -/
def execPagewalk (e : EngineNo) (ch : Chan) (s : State) : Ans := runDesc 0x05 e.val ch.val s
/-- BOND (R321). -/
def execBond (e : EngineNo) (ch : Chan) (s : State) : Ans := runDesc 0x06 e.val ch.val s
/-- PREFETCH (R321). -/
def execPrefetch (e : EngineNo) (ch : Chan) (s : State) : Ans := runDesc 0x07 e.val ch.val s

/-! ### Probes (R315) -/

/-- A probe of a tile refused: the tile counts it. -/
def tileRefuses (s : State) (t : Nat) : State := updTile s t fun x => { x with winReject := satInc x.winReject 1 }

/-- The probes of a descriptor answered together. -/
def answerProbe (s : State) (e ch : Nat) (d : DSlot) (other : Bool) : State :=
  let xs := (extents d.bytes).filter (needsProbe s e)
  let refusedTiles := xs.filter fun x => isLocal s x.w && !targetAdmits s e x
  let refused := !refusedTiles.isEmpty || ((xs.any fun x => !isLocal s x.w) && !other)
  if !refused then updSlotD s e ch d { d with phase := .probed }
  else
    let s := refusedTiles.foldl (fun s x =>
      match spadExtent (offOf x.w + x.lo) x.n with
      | some (n, _) => tileRefuses s (32 * (chipF x.w % 8) + n)
      | none => s) s
    endDesc (rejectCount s e) e ch d 0x08 .addrRange

/-- PROBE (R315). -/
def execProbe (p : ProbeReq) (s : State) : Ans :=
  match p with
  | .own e ch other =>
    match (chanOf s e.val ch.val).prog.find? fun d => d.phase = .probing with
    | some d => .next (answerProbe s e.val ch.val d other)
    | none => .next s
  | .tile t src addr len write =>
    if dieUp s (t.val / 32) && tileAdmits s t.val src.toNat addr len write then .next (emit s (.probeAnswer true))
    else .next (emit (tileRefuses s t.val) (.probeAnswer false))
  | .hbm d src addr len write =>
    .next (emit s (.probeAnswer (dieUp s d.val && hbmAdmits s d.val src.toNat addr len write && hbmExtent s d.val addr len)))

/-! ### Completion (R309, R322, R326) -/

/-- What a completed descriptor leaves in its command: bytes written, codec errors, poison. -/
def noteDesc (s : State) (e : Nat) (d : DSlot) : State :=
  match d.job with
  | none =>
    if isHde e && d.pois then match d.poisAt with | some a => fire (flog s { status := .poisoned, kind := 4, addr := a }) 709 | none => s
    else s
  | some j =>
    let s := updJob s j fun b => { b with result := b.result + BitVec.ofNat 64 d.written }
    let s := if d.overrun then noteCond s j .codecOverrun else s
    let s := if d.underrun then noteCond s j .codecUnderrun else s
    if d.pois then notePoison s j (d.poisAt.getD 0) else s

/-- Whether a write on another die waits: the scratchpad that it goes to is being scrubbed (R117). -/
def farHeld (s : State) (d : DSlot) : Bool :=
  d.far.any fun p => match lineOfKey p.1 with | some l => (s.tiles.get l.1).scrubBusy | none => false

/-- DESCRIPTOR_COMPLETE: in queue order; its writes on other dies become visible, its consuming reads clear, its post-signal and event follow. -/
def execDescriptorComplete (e : EngineNo) (ch : Chan) (s : State) : Ans :=
  match (chanOf s e.val ch.val).prog with
  | [] => .next s
  | d :: r =>
    if d.phase ≠ .moved || farHeld s d then .next s
    else
      let b := d.bytes
      let s := showFar (updChan s e.val ch.val fun c => { c with prog := r }) d
      let s := d.consumed.foldl (fun s p => clearFill s p.1 [p.2]) s
      let s := noteDesc s e.val d
      let s := if dPsig b then sendSig s (dStile b) ⟨dSsem b, dScount b, .chan e.val ch.val, d.job⟩ else s
      let s := if dIrq b then fire s (engineSrc e.val) else s
      .next (match d.job with | some j => unitDone s j | none => s)

/-! ### Registers of a channel -/

/-- DMA_CHANNEL_ENABLE (R307). -/
def execDmaChannelEnable (e : EngineNo) (ch : Chan) (en : Bool) (s : State) : Ans := gate (engineBlockOn s e.val) s <|
  .next (updChan s e.val ch.val fun c => { c with qEn := en })

/-- A channel that records QUEUE_OVER. -/
def queueOver (c : Channel) : Channel :=
  { c with fault := true, fr := if c.fr.valid then c.fr else { cause := 0x10, valid := true } }

/-- DMA_CHANNEL_TAIL (R307): the slots it adds belong to no command. -/
def execDmaChannelTail (e : EngineNo) (ch : Chan) (tail : BitVec 6) (s : State) : Ans := gate (engineBlockOn s e.val) s <|
  let c := chanOf s e.val ch.val
  if 32 < (tail - c.head).toNat then .next (fire (updChan s e.val ch.val queueOver) (engineSrc e.val))
  else
    let news := (List.range (tail - c.tail).toNat).map fun i => (c.tail.toNat + i) % 32
    .next (updChan s e.val ch.val fun c => { c with
      tail := tail
      owners := news.foldl (fun m i => Tbl.set m i none) c.owners
      badReloc := news.foldl (fun m i => Tbl.set m i false) c.badReloc
      cancelled := news.foldl (fun m i => Tbl.set m i false) c.cancelled })

/-- DMA_COUNTS.CNT_CLR (R330). -/
def execDmaCountsCntClr (e : EngineNo) (s : State) : Ans := gate (engineBlockOn s e.val) s <|
  .next (updEngine s e.val fun g => { g with collCnt := 0, poisCnt := 0, rejCnt := 0 })

/-- DC_ECC.CNT_CLR (R139). -/
def execDcEccCntClr (d : Die) (s : State) : Ans := gate (dieBlockOn s d.val) s <|
  .next (updDie s d.val fun x => { x with lookups := 0, misses := 0, dcUe := 0, dcCe := 0 })

/-! ### The DMA work command (R357) -/

/-- The descriptor of a DMA command. -/
def dmaEntryDesc (e : Bytes) : Bytes :=
  leBytes 4 1 ++ List.replicate 8 0 ++ leBytes 4 (entryLen e) ++ bytesAt e 16 16 ++ [0, 0] ++ bytesAt e 40 2 ++ bytesAt e 32 8 ++ List.replicate 20 0

/-- The engine that a DMA command goes to: the HDE for host memory, else engine `de` of the destination die. -/
def dmaEngine (s : State) (e : Bytes) (de : Nat) : Nat :=
  let host := fun (w : W64) => spaceOf w = 3 || spaceOf w = 4
  let src := param64 e 16
  let dst := param64 e 24
  if host src || host dst then 144
  else if isLocal s dst then 18 * (chipF dst % 8) + de
  else 18 * (chipF src % 8) + de

/-- The spaces that a DMA command may name (R342). -/
def dmaSpace (w : W64) : Bool := spaceOf w = 0 || spaceOf w = 3 || spaceOf w = 4

/-- The checks of DMA apart from those of R313, which its engine makes. -/
def checkDmaCmd (s : State) (e : Bytes) (n : Nat) : Option Status :=
  firstFail [
    (!dmaSpace (param64 e 16) || !dmaSpace (param64 e 24), .addrRange),
    (!engineUp s n, if (s.dies.get (n / 18)).st = .reset3 then .notReady else .dieRetired)]

/-- DMA places its descriptor on the engine and completes with the bytes written. -/
def runDma (de ch : Nat) (j : JobRef) (e : Bytes) (s : State) : State :=
  let n := dmaEngine s e de
  checkThen (checkDmaCmd s e n) j (fun s =>
    updChan (setBody s j (.dma n ch)) n ch fun c => putDesc c (some j) (dmaEntryDesc e) false) s

/-- DMA (R357): it waits while the channel's ring is full. -/
def execDma (st : Stream) (de : Fin 16) (ch : Chan) (s : State) : Ans :=
  match nextEntry s st.val with
  | none => .next s
  | some e =>
    if entryOpc e.bytes = 0x03 && 32 ≤ chanQueued (chanOf s (dmaEngine s e.bytes de.val) ch.val) then .next s
    else startEntry 0x03 st.val (runDma de.val ch.val) s

end Sys2Proof.Machine
end

