-- ==== Sys2Proof/Machine/Kernel.lean ====
section
/-!
DEFINITION. Compiled kernels (KERNEL with KIND 0): the image and its checks (R356, R367, R368), relocation (R369), the
sections applied (R370) and persistent kernels (R375 to R378).
-/

namespace Sys2Proof.Machine

/-! ### The image (R367) -/

/-- The header of a kernel image. -/
structure KHead where
  format : Nat
  ltiles : Nat
  ctxmask : Nat
  release : Bool
  persist : Bool
  pid : Nat
  qid : Nat
  rqid : Nat
  argop : Nat
  nsect : Nat
  deriving DecidableEq, Repr, Inhabited

/-- The header read from an image. -/
def kHead (m : Bytes) : KHead where
  format := leAt m 0 2
  ltiles := byteN m 2
  ctxmask := byteN m 3 / 16
  release := bitN (byteN m 3) 1
  persist := bitN (byteN m 3) 0
  pid := leAt m 4 2
  qid := byteN m 6 % 16
  rqid := byteN m 7 % 16
  argop := leAt m 8 4
  nsect := leAt m 12 4

/-- A section descriptor. -/
structure KSect where
  kind : Nat
  target : Nat
  count : Nat
  off : Nat
  deriving DecidableEq, Repr, Inhabited

/-- Record bytes of a section kind. -/
def recSize (kind : Nat) : Nat := if kind = 1 then 64 else if kind ≤ 3 then 32 else 8

/-- The sections of an image. -/
def kSects (m : Bytes) : List KSect :=
  (List.range (kHead m).nsect).map fun i =>
    let b := (m.drop (64 + 16 * i)).take 16
    ⟨byteN b 0, byteN b 1, leAt b 4 4, leAt b 8 8⟩

/-- The records of a section. -/
def kRecs (m : Bytes) (x : KSect) : List Bytes := (List.range x.count).map fun i => bytesAt m (x.off + i * recSize x.kind) (recSize x.kind)

/-- The records of every section of a kind, with their targets, in image order. -/
def recsOf (m : Bytes) (kind : Nat) : List (Nat × Bytes) :=
  ((kSects m).filter fun x => x.kind = kind).flatMap fun x => (kRecs m x).map fun r => (x.target, r)

/-! ### The parameters of the command (R354, R356) -/

def kDieMask (e : Bytes) : Nat := byteN e 20
def kTileMask (e : Bytes) : Nat := leAt e 24 4
def kArg (e : Bytes) : W64 := param64 e 32
def kArgLen (e : Bytes) : Nat := leAt e 40 4

/-- The dies of DIE_MASK in service, ascending. -/
def kDies (s : State) (e : Bytes) : List Nat := (setBits 8 (kDieMask e)).filter (dieUp s)

/-- The mapped module tiles of a die: the first `lt` set bits of TILE_MASK among its tiles in service (R369). -/
def kMap (s : State) (e : Bytes) (lt d : Nat) : List Nat :=
  ((setBits 32 (kTileMask e)).map (32 * d + ·) |>.filter (tileUp s)).take lt

/-! ### The checks of R368 -/

/-- Step 4 apart from the sections' contents. -/
def kHeadBad (e m : Bytes) : Bool :=
  let h := kHead m
  h.format ≠ 1 || h.ltiles = 0 || 32 < h.ltiles || h.nsect = 0 || 4096 < h.nsect || entryLen e < 64 + 16 * h.nsect ||
    popcount 32 (kTileMask e) < h.ltiles || h.ctxmask = 0 || (h.persist && h.release) || (0 < kArgLen e && bitN h.argop 31)

/-- Step 4 for one section. -/
def kSectBad (e m : Bytes) (x : KSect) : Bool :=
  5 < x.kind || (if x.kind = 1 then 17 < x.target / 4 else (kHead m).ltiles ≤ x.target) || x.count = 0 || 0xFFFFFF < x.count ||
    entryLen e < x.off + x.count * recSize x.kind

/-- Step 4 for the TODS of a kernel that is not persistent: a context outside CTXMASK. -/
def kCtxBad (m : Bytes) : Bool :=
  !(kHead m).persist && (recsOf m 0).any fun r => !bitN (kHead m).ctxmask (wfld r.2 0 9 8)

/-- The pair of values of a HANDLES or WINDOWS record. -/
def recPair (r : Bytes) : RegPair := ⟨param64 r 8, param64 r 16⟩

/-- Step 5. -/
def kRecBad (m : Bytes) : Bool :=
  ((recsOf m 2).any fun r => 63 < byteN r.2 0 || (let h := handleF (recPair r.2); h.valid && !h.ok)) ||
    ((recsOf m 3).any fun r => 7 < byteN r.2 0 || (rbit (recPair r.2).a 63 && !winOk (recPair r.2))) ||
    (recsOf m 4).any fun r => 63 < byteN r.2 0 || leAt r.2 4 2 = 0

/-- Whether a context of CTXMASK on a mapped tile is held by an installed persistent kernel other than `pid`'s. -/
def kHeld (s : State) (tiles : List Nat) (mask : Nat) (own : Option Nat) : Bool :=
  s.cp.persists.any fun p => some p.id ≠ own && p.ctxMask &&& mask ≠ 0 && tiles.any p.tiles.contains

/-- Whether a persistent kernel is installed. -/
def installed (s : State) (id : Nat) : Bool := s.cp.persists.any fun p => p.id = id

/-- Handle `h` of a mapped tile, the `lt`-th logical one, as the image's HANDLES section leaves it. -/
def handleAfter (s : State) (m : Bytes) (t lt h : Nat) : HandleF :=
  match ((recsOf m 2).filter fun r => r.1 = lt && byteN r.2 0 = h).getLast? with
  | some r => handleF (recPair r.2)
  | none => handleOf s t h

/-- Step 10 for the argument block on one tile. -/
def kArgBad (s : State) (e m : Bytes) (t lt : Nat) : Bool :=
  let w := opWord (kHead m).argop
  let h := handleAfter s m t lt w.handle
  !h.valid || h.logical < w.off + kArgLen e

/-- Whether an image streams the weight runs of a pass: it has a RUNS section (R377). -/
def kStreams (m : Bytes) : Bool := !(recsOf m 5).isEmpty

/-- Whether an image is a backward-pass kernel (R183, R205): it streams weight runs and applies them with MMA_T. -/
def kBackward (m : Bytes) : Bool := kStreams m && (recsOf m 0).any fun r => byteN r.2 0 = 0x11

/-- The slot of a KERNEL (R354). -/
def kSlot (e : Bytes) : Nat := byteN e 17

/-- The checks of R368 on the image's contents, which start with its header. A backward-pass kernel on a slot pinned MOORED finds it busy
(R205); where among the checks that stands the spec does not say (log entry 168). -/
def checkImage (s : State) (e m : Bytes) : Option Status :=
  let h := kHead m
  let dies := kDies s e
  let tiles := dies.flatMap (kMap s e h.ltiles)
  let own := if h.persist || h.release then some h.pid else none
  firstFail [
    (kHeadBad e m || (kSects m).any (kSectBad e m) || kCtxBad m, .lenRange),
    (kRecBad m, .lenRange),
    (dies.isEmpty || dies.any (fun d => (kMap s e h.ltiles d).length < h.ltiles), .dieRetired),
    (kHeld s tiles h.ctxmask own || (kBackward m && pinOf s (s.md.slots.get (kSlot e)) = 2), .busy),
    (h.release && !installed s h.pid, .notReady),
    (h.persist && !installed s h.pid && 16 ≤ s.cp.persists.length, .busy),
    ((kSects m).any (fun x => x.off % 64 ≠ 0), .align),
    (0 < kArgLen e && (reach s (kArg e) (kArgLen e) false).isSome, (reach s (kArg e) (kArgLen e) false).getD .addrRange),
    (0 < kArgLen e && dies.any (fun d => (kMap s e h.ltiles d).zipIdx.any fun t => kArgBad s e m t.1 t.2), .addrRange)]

/-- The reach of the image: GLOBAL only (R354). -/
def imageReach (s : State) (e : Bytes) : Option Status := if spaceOf (entryAddrW e) ≠ 0 then some .addrRange else reach s (entryAddrW e) (entryLen e) false

/-- The bytes of the image. -/
def imageOf (s : State) (e : Bytes) : Bytes := plain (readWord s (entryAddrW e) (entryLen e))

/-- The checks of R368. -/
def checkKernel (s : State) (e : Bytes) : Option Status :=
  match firstFail [
    (entryLen e < 64 || 0x4000000 < entryLen e || 4096 < kArgLen e || kDieMask e = 0 || kTileMask e = 0, Status.lenRange),
    ((entryAddrW e).toNat % 4096 ≠ 0, .align),
    ((imageReach s e).isSome, (imageReach s e).getD .addrRange)] with
  | some x => some x
  | none => checkImage s e (imageOf s e)

/-! ### Relocation (R369) -/

/-- The tile field of a HANDLE or PORT word relocated, with k = 0 required. -/
def relocWord (k : KernelRun) (d : Nat) (b : Bytes) (off : Nat) : Bytes × Bool :=
  let w := param64 b off
  if spaceOf w = 1 ∨ spaceOf w = 2 then
    match (if tileF w / 32 = 0 then relocTile k d (tileF w) else none) with
    | some t => (patch b (off + 5) [BitVec.ofNat 8 t], false)
    | none => (b, true)
  else (b, false)

/-- The tile field of a wait or a signal relocated; one that names no mapped tile counts only where the field is used. -/
def relocSync (k : KernelRun) (d : Nat) (b : Bytes) (off : Nat) (used : Bool) : Bytes × Bool :=
  match relocTile k d (byteN b off) with
  | some t => (patch b off [BitVec.ofNat 8 t], false)
  | none => (b, used)

/-- A descriptor relocated for die `d`, and whether a field names no mapped tile. AUX of FILL is a pattern (R310). -/
def relocDesc (k : KernelRun) (d : Nat) (b : Bytes) : Bytes × Bool :=
  let r0 := relocSync k d b 7 (dPwait b)
  let r1 := relocSync k d r0.1 11 (dPsig b)
  let words := if dOpc b = 0x04 then [16, 24, 56] else [16, 24, 44, 56]
  words.foldl (fun r o => let x := relocWord k d r.1 o; (x.1, r.2 || x.2)) (r1.1, r0.2 || r1.2)

/-! ### The sections applied (R370) -/

/-- The mapped module tile of logical tile `lt` on die `d`. -/
def tileAt (k : KernelRun) (d lt : Nat) : Nat := (mappedTile k d lt).getD 0

/-- HANDLES of one die. -/
def applyHandles (k : KernelRun) (m : Bytes) (s : State) (d : Nat) : State :=
  (recsOf m 2).foldl (fun s r =>
    let p := recPair r.2
    writeHandle (writeHandle s (tileAt k d r.1) (byteN r.2 0) false p.b) (tileAt k d r.1) (byteN r.2 0) true p.a) s

/-- WINDOWS of one die. -/
def applyWindows (k : KernelRun) (m : Bytes) (s : State) (d : Nat) : State :=
  (recsOf m 3).foldl (fun s r =>
    let p := recPair r.2
    let t := tileAt k d r.1
    let w := byteN r.2 0 % 8
    writeWindow (updTile s t fun x => { x with wins := x.wins.upd w fun q => { q with b := p.b &&& winBMask } }) t w p.a) s

/-- SEMS of one die: each count is added as SEM_SIGNAL adds it, by the local sequencer. -/
def applySems (k : KernelRun) (j : JobRef) (m : Bytes) (s : State) (d : Nat) : State :=
  (recsOf m 4).foldl (fun s r => sendSig s (tileAt k d r.1) ⟨byteN r.2 0, leAt r.2 4 2, .seq d j, some j⟩) s

/-- RUNS of one die: the run table and RQID (R377). -/
def applyRuns (m : Bytes) (s : State) (d : Nat) : State :=
  if (recsOf m 5).isEmpty then s
  else updDie s d fun x => { x with
    rqid := (kHead m).rqid
    runTable := (recsOf m 5).foldl (fun t r => Tbl.set t (32 * byteN r.2 0 + byteN r.2 1) (some (byteN r.2 2, leAt r.2 4 4))) [] }

/-- The argument block copied to ARGOP on one tile. -/
def copyArgs (e m : Bytes) (s : State) (t lt : Nat) : State :=
  if kArgLen e = 0 then s
  else
    let w := opWord (kHead m).argop
    storeHandle s t (handleAfter s m t lt w.handle) w.off (readWord s (kArg e) (kArgLen e))

/-- The argument block copied on every mapped tile. -/
def copyAllArgs (e m : Bytes) (k : KernelRun) (s : State) : State :=
  k.dies.foldl (fun s d => ((k.tiles.filter fun t => t / 32 = d).zipIdx).foldl (fun s p => copyArgs e m s p.1 p.2) s) s

/-- The TODs of a kernel by mapped tile. -/
def kFeeds (k : KernelRun) (m : Bytes) : List (Nat × List Bytes) :=
  (k.dies.flatMap fun d => ((k.tiles.filter fun t => t / 32 = d).zipIdx).map fun p =>
    (p.1, ((recsOf m 0).filter fun r => r.1 = p.2).map (·.2))).filter fun f => !f.2.isEmpty

/-- The descriptors of a kernel, relocated. -/
def kDescs (k : KernelRun) (m : Bytes) : List (Nat × Nat × Bytes × Bool) :=
  k.dies.flatMap fun d => (recsOf m 1).map fun r =>
    let x := relocDesc k d r.2
    (18 * d + r.1 / 4, r.1 % 4, x.1, x.2)

/-- Windows that the image opens on the mapped tiles. -/
def kWins (k : KernelRun) (m : Bytes) : List (Nat × Nat) :=
  k.dies.flatMap fun d => ((recsOf m 3).filter fun r => rbit (recPair r.2).a 63).map fun r => (tileAt k d r.1, byteN r.2 0 % 8)

/-- TCOUNT and TLIST of a logical tile's TODS section (R378): the list in 32-byte units of its place in the image. -/
def launchList (m : Bytes) (lt : Nat) : Nat × Nat :=
  match (kSects m).find? fun x => x.kind = 0 && x.target = lt with
  | some x => (x.count % 256, x.off / 32 % 2 ^ 18)
  | none => (0, 0)

/-- LAUNCH or RELEASE entries for every mapped tile. -/
def launchPushes (k : KernelRun) (m : Bytes) (kind n : Nat) : List (Nat × Nat × QEntry) :=
  k.dies.flatMap fun d => ((k.tiles.filter fun t => t / 32 = d).zipIdx).map fun p =>
    let l := launchList m p.2
    (p.1, (kHead m).qid, { kind := kind, tcount := l.1, tlist := l.2, token := BitVec.ofNat 32 n, runlen := 0, bad := false })

/-- A kernel before its sections are applied. -/
def kRun (s : State) (e m : Bytes) : KernelRun :=
  let h := kHead m
  let dies := kDies s e
  let tiles := dies.flatMap (kMap s e h.ltiles)
  { dies := dies, tiles := tiles, ctxMask := h.ctxmask, feeds := [], dfeeds := [], wins := [], hbmWins := []
    ends := tiles.flatMap fun t => (setBits 4 h.ctxmask).map fun c => (t, c)
    persist := if h.persist || h.release then some h.pid else none
    launch := 0, launchLeft := [], pushes := [], release := h.release
    stream := if kStreams m then some (kSlot e) else none, back := kBackward m }

/-- The sections of an image applied to every die in the order of R370, and what is left to feed. -/
def applySections (j : JobRef) (e m : Bytes) (k : KernelRun) (s : State) : State :=
  let s := k.dies.foldl (applyHandles k m) s
  let s := k.dies.foldl (applyWindows k m) s
  let s := k.dies.foldl (applySems k j m) s
  let s := copyAllArgs e m k (k.dies.foldl (applyRuns m) s)
  updKernel s j fun q => { q with feeds := kFeeds k m, dfeeds := kDescs k m, wins := kWins k m }

/-- The launch number that a persistent kernel's next launch takes. -/
def nextLaunch (s : State) (id : Nat) : Nat := ((s.cp.persists.find? fun p => p.id = id).map (·.launches)).getD 0

/-- The launches of an installed kernel counted. -/
def countLaunch (s : State) (id : Nat) : State :=
  { s with cp := { s.cp with persists := s.cp.persists.map fun p => if p.id = id then { p with launches := p.launches + 1 } else p } }

/-- A KERNEL with PERSIST = 1 (R378): the first installs, and each launches. -/
def startPersist (j : JobRef) (e m : Bytes) (k : KernelRun) (s : State) : State :=
  let id := (kHead m).pid
  let n := nextLaunch s id
  let k := { k with ends := [], launch := n, launchLeft := k.tiles }
  let first := !installed s id
  let s := setBody s j (.kernel k)
  let s :=
    if first then
      applySections j e m k { s with cp := { s.cp with persists := s.cp.persists ++ [⟨id, k.tiles, k.ctxMask, (kHead m).qid, 0⟩] } }
    else copyAllArgs e m k s
  countLaunch (updKernel s j fun q => { q with pushes := launchPushes k m 1 n }) id

/-- A KERNEL with RELEASE = 1 (R378): it is over when the contexts of the installed kernel are idle. -/
def startRelease (j : JobRef) (m : Bytes) (k : KernelRun) (s : State) : State :=
  let id := (kHead m).pid
  let n := nextLaunch s id
  let held := (s.cp.persists.filter fun p => p.id = id).flatMap fun p =>
    p.tiles.flatMap fun t => ((setBits 4 p.ctxMask).filter fun c => ((s.tiles.get t).ctxs.get c).active).map fun c => (t, c)
  let k := { k with ends := held, launch := n, pushes := launchPushes k m 2 n }
  countLaunch (setBody s j (.kernel k)) id

/-- The running persistent commands may already be over. -/
def startKernel (j : JobRef) (e m : Bytes) (s : State) : State :=
  let k := kRun s e m
  let h := kHead m
  let s :=
    if h.persist then startPersist j e m k s
    else if h.release then startRelease j m k s
    else applySections j e m k (setBody s j (.kernel k))
  unitDone (feedAll (handCtxs s)) j

/-- What the digest record of a compiled kernel covers (R436): SHA-256 of its image and of its argument block. -/
def noteKernel (j : JobRef) (e : Bytes) (s : State) : State :=
  updJob s j fun b => { b with
    program := sha256 (imageOf s e)
    input := sha256 (if kArgLen e = 0 then [] else plain (readWord s (kArg e) (kArgLen e)))
    repro := s.pw.repro }

/-- Whether a compiled kernel that passes its checks waits: a tile that it maps is being scrubbed, and the command processor assigns it no
work (R129). -/
def kernelWaits (s : State) (e : Bytes) : Bool :=
  entryOpc e = 0x01 && byteN e 16 = 0 && (checkKernel s e).isNone && (kRun s e (imageOf s e)).tiles.any fun t => (s.tiles.get t).scrubBusy

/-- KERNEL with KIND 0: checked, then launched. -/
def runCompiled (j : JobRef) (e : Bytes) (s : State) : State :=
  checkThen (checkKernel s e) j (fun s => startKernel j e (imageOf s e) (noteKernel j e s)) s

end Sys2Proof.Machine
end

