-- ==== Sys2Proof/Machine/Sampling.lean ====
section
/-!
DEFINITION. Token trees and sampling (chapter 07): tree templates (R224 to R226), drafting (R227), ancestor masks (R228),
target distributions (R230), the generator and draws (R235, R236), and the acceptance walk (R232, R233).
-/

namespace Sys2Proof.Machine

/-! ### Templates (R225, R226) -/

/-- The tree templates: nodes per level, from level 0. -/
def templates : List (List Nat) :=
  [[1], [1, 1, 1, 1], [1, 2, 2, 1, 1, 1], [1, 3, 4, 3, 2, 2, 1], [1, 4, 7, 7, 5, 4, 2, 1, 1], [1, 6, 12, 14, 12, 9, 5, 3, 1, 1]]

/-- Nodes of a template given by its index. -/
def tmplNodes (i : Nat) : Nat := (templates.getD i []).foldl (· + ·) 0

/-- The largest template not above `n` nodes. -/
def tmplFor (n : Nat) : Nat := ((List.range 6).filter fun i => tmplNodes i ≤ n).length - 1

/-- The levels of a template within depth `d` (R226). -/
def tmplLevels (i d : Nat) : List Nat := (templates.getD i []).take (d + 1)

/-- Children that round-robin gives the `j`-th node of a level of `p` when the next level has `n` (R225). -/
def kidsOf (n p j : Nat) : Nat := if j < n ∧ 0 < p then ceilDiv (n - j) p else 0

/-! ### The generator and draws (R235, R236) -/

/-- The uniform value of a draw, from 0 inclusive to 1 exclusive. -/
def uniform (seed : W64) (c0 c1 c2 c3 : Nat) : Fp := .fin false ((philox seed c0 c1 c2 c3).headD 0 >>> 8).toNat (-24)

/-- Tokens with their probabilities. -/
abbrev Dist := List (Nat × Fp)

/-- Whether one entry of a distribution precedes another: larger first, lower token first among equals. -/
def distBefore (a b : Nat × Fp) : Bool := b.2.lt a.2 || (!a.2.lt b.2 && a.1 ≤ b.1)

/-- The tokens of nonzero probability in the order of R235. -/
def ordered (p : Dist) : Dist := sortBy distBefore (p.filter fun x => !x.2.isZero)

/-- The FP32 sum of a distribution in its order. -/
def distSum (p : Dist) : Fp := p.foldl (fun a x => a.add x.2) .zero

/-- The first token whose running sum exceeds `t`. -/
def pickAt (t : Fp) : Dist → Fp → Option Nat
  | [], _ => none
  | x :: r, c => if t.lt (c.add x.2) then some x.1 else pickAt t r (c.add x.2)

/-- A draw (R235); an empty distribution, which no pass forms, gives none. -/
def draw (p : Dist) (u : Fp) : Option Nat :=
  let o := ordered p
  match pickAt (u.mul (distSum o)) o .zero with
  | some t => some t
  | none => o.getLast?.map (·.1)

/-- The probability of a token. -/
def probOf (p : Dist) (t : Nat) : Fp := ((p.find? fun x => x.1 = t).map (·.2)).getD .zero

/-- A distribution renormalised. -/
def renorm (p : Dist) : Dist :=
  let s := distSum p
  if s.isZero then p else p.map fun x => (x.1, x.2.div s)

/-- A distribution without a token, renormalised. -/
def without (p : Dist) (t : Nat) : Dist := renorm (p.filter fun x => x.1 ≠ t)

/-- max(p - q, 0) renormalised; p unchanged when the sum is 0 (R233). -/
def residual (p q : Dist) : Dist :=
  let d := p.map fun x => (x.1, (x.2.sub (probOf q x.1)).max .zero)
  if (distSum d).isZero then p else renorm d

/-! ### Target distributions (R230) -/

/-- What R230 gives for one row: the distribution in the order of S, and whether gathering was cut. -/
structure Target where
  p : Dist
  trunc : Bool
  deriving DecidableEq, Repr, Inhabited

/-- The tokens gathered under step 5, from the threshold index of each token. -/
def gather (js : List (Nat × Nat)) (kc : Nat) : List Nat × Bool :=
  let cnt := fun j => js.countP fun x => x.2 ≤ j
  let star := ((List.range 127).find? fun j => kc ≤ cnt j).getD 126
  let all := (js.filter fun x => x.2 ≤ star).map (·.1)
  if all.length ≤ 4096 then (all, false)
  else
    let above := (js.filter fun x => x.2 < star).map (·.1)
    let at_ := (js.filter fun x => x.2 = star).map (·.1)
    (above ++ at_.take (4096 - above.length), true)

/-- The shortest prefix whose running sum reaches TOP_P, or all of it. -/
def topPrefix (topP : Fp) : Dist → Fp → Dist
  | [], _ => []
  | x :: r, c => if (c.add x.2).ge topP then [x] else x :: topPrefix topP r (c.add x.2)

/-- The token of the largest logit, the lowest number among equals. -/
def argmax (x : List W32) : Nat := ((topkRow 1 (x.map fun w => (ofF32 w, false))).head?.map (·.2)).getD 0

/-- For a row of a given length, the spans of columns that each tile holds, tiles in ascending module number. -/
abbrev Slices := Nat → List (List (Nat × Nat))

/-- Z (R230 step 7): each tile sums its slice in the order of R95, and the tile sums are added in the order of the tiles. -/
def rowSum (sl : Slices) (e : List Fp) : Fp :=
  (sl e.length).foldl (fun a t => a.add (laneReduce Fp.add .zero (t.flatMap fun p => (e.drop p.1).take p.2))) .zero

/-- The distribution of R230 with TEMP above 0. -/
def sampled (sl : Slices) (temp topP : Fp) (kc : Nat) (x : List W32) : Target :=
  let z := x.map fun w => (ofF32 w).div temp
  let m := z.foldl Fp.max (.inf true)
  let js := (z.map fun v => (convTo 2 false .rne (v.sub m)).code % 128).zipIdx.map fun p => (p.2, p.1)
  let g := gather js kc
  let s := (sortBy topkBefore (g.1.map fun i => (z.getD i .nan, i))).take (min kc g.1.length)
  let zs := rowSum sl (z.map fun v => (v.sub m).exp)
  let p := s.map fun v => (v.2, (v.1.sub m).exp.div zs)
  let kept := topPrefix topP p .zero
  let t := distSum kept
  ⟨kept.map fun v => (v.1, v.2.div t), g.2⟩

/-- The target distribution of a row (R230). -/
def targetDist (sl : Slices) (temp topP : Fp) (kc : Nat) (x : List W32) : Target :=
  if temp.isZero then ⟨[(argmax x, .one)], false⟩ else sampled sl temp topP kc x

/-! ### Drafting (R227) -/

/-- The parameters of a decode record that drafting and sampling use (R221). -/
structure Params where
  seed : W64
  temp : Fp
  topP : Fp
  kc : Nat
  deriving DecidableEq, Repr, Inhabited

/-- Children drawn in turn from a draft distribution: token, and q_j of that token. -/
def drawKids (s : Params) (pos parent : Nat) : Nat → Nat → Dist → List (Nat × Fp)
  | 0, _, _ => []
  | n + 1, j, q =>
    match draw q (uniform s.seed 2 pos parent j) with
    | none => []
    | some t => (t, probOf q t) :: drawKids s pos parent n (j + 1) (without q t)

/-- The children of a node by draft token, each with q of that token; greedy decoding takes the largest draft logits. -/
def kidsFrom (s : Params) (pos parent n : Nat) (x : List W32) (q : Dist) : List (Nat × Fp) :=
  if s.temp.isZero then (topkRow n (x.map fun w => (ofF32 w, false))).map fun p => (p.2, Fp.zero)
  else drawKids s pos parent n 0 q

/-- A tree under construction: nodes, the draft distribution of each node, and the last level as (node, place in the template's level). -/
structure Draft where
  nodes : List TNode
  qs : List (List (Nat × W32))
  last : List (Nat × Nat)
  deriving DecidableEq, Repr, Inhabited

/-- The target token of a draft token (R227). -/
def mapTok (m : List Nat) (t : Nat) : Nat := m.getD t t

/-- The draft distribution of a node: TOP_K = 256 and TOP_P = 1. -/
def draftDist (sl : Slices) (s : Params) (x : List W32) : Dist := if s.temp.isZero then [] else (sampled sl s.temp .one 256 x).p

/-- One node of a level gets its children. -/
def growNode (sl : Slices) (s : Params) (map : List Nat) (pos n p : Nat) (logits : Nat → List W32) (d : Draft) (v : Nat × Nat) : Draft :=
  let x := logits v.1
  let q := draftDist sl s x
  let kids := kidsFrom s pos v.1 (kidsOf n p v.2) x q
  let base := ((List.range v.2).map (kidsOf n p)).foldl (· + ·) 0
  { nodes := d.nodes ++ kids.zipIdx.map fun k => { token := mapTok map k.1.1, parent := some v.1, rank := k.2, q := toF32 k.1.2 }
    qs := d.qs.set v.1 (q.map fun e => (mapTok map e.1, toF32 e.2)) ++ kids.map fun _ => []
    last := d.last ++ kids.zipIdx.map fun k => (d.nodes.length + k.2, base + k.2) }

/-- The levels of a tree, one by one; `pos` is the position of the next level. -/
def growLevels (sl : Slices) (s : Params) (map : List Nat) (logits : Nat → List W32) : List Nat → Nat → Nat → Draft → Draft
  | [], _, _, d => d
  | n :: r, p, pos, d =>
    let l := d.last
    growLevels sl s map logits r n (pos + 1) (l.foldl (growNode sl s map pos n p logits) { d with last := [] })

/-- The tree of a verify pass from the root token at position `c`. -/
def buildTree (sl : Slices) (s : Params) (map : List Nat) (levels : List Nat) (root c : Nat) (logits : List (List W32)) : Draft :=
  growLevels sl s map (fun i => logits.getD i []) levels.tail 1 (c + 1) ⟨[⟨root, none, 0, 0⟩], [[]], [(0, 0)]⟩

/-- Whether a parent array keeps R224: node 0 is the root, and every other node's parent has a lower number. -/
def treeOk (t : List TNode) : Bool :=
  t.zipIdx.all fun n => match n.1.parent with | none => n.2 = 0 | some p => decide (p < n.2)

/-! ### The ancestor mask (R228) -/

/-- Depth of a node, with fuel for the depth. -/
def depthOf (t : List TNode) : Nat → Nat → Nat
  | 0, _ => 0
  | f + 1, i => match (t[i]?).bind (·.parent) with | none => 0 | some p => depthOf t f p + 1

/-- The ancestor sets of all nodes. -/
def ancSets (t : List TNode) : List Nat :=
  t.zipIdx.foldl (fun a n => a ++ [match n.1.parent with | none => 2 ^ n.2 | some p => a.getD p 0 ||| 2 ^ n.2]) []

/-- One mask row per node: `c` ones, the ancestor set, padded to a multiple of 64 bytes. -/
def maskRows (t : List TNode) (c : Nat) : List Bytes :=
  (ancSets t).map fun a =>
    let l := c + t.length
    leBytes (64 * ceilDiv l 512) (2 ^ c - 1 + a * 2 ^ c)

/-! ### The acceptance walk (R232, R233) -/

/-- The children of a node, ascending. -/
def childrenOf (t : List TNode) (n : Nat) : List Nat :=
  (t.zipIdx.filter fun x => x.1.parent = some n).map (·.2)

/-- The token of a node. -/
def tokenOf (t : List TNode) (n : Nat) : Nat := (t.getD n default).token

/-- The trial of the children of a node in sibling rank: the child moved to, or the token drawn. -/
def tryKids (s : Params) (t : List TNode) (pos : Nat) : List Nat → Nat → Dist → Dist → Nat ⊕ Nat
  | [], _, p, _ => .inr ((draw p (uniform s.seed 0 pos 0 0)).getD 0)
  | c :: r, j, p, q =>
    let x := tokenOf t c
    if ((uniform s.seed 1 pos j 0).mul (probOf q x)).lt (probOf p x) then .inl c
    else tryKids s t pos r (j + 1) (residual p q) (without q x)

/-- What the walk finds: the nodes of the accepted path from the root, the bonus token, and the nodes visited. -/
structure Walk where
  path : List Nat
  bonus : Nat
  deriving DecidableEq, Repr, Inhabited

/-- The walk from node `n` at position `pos`; the fuel is the number of nodes. -/
def walkFrom (s : Params) (t : List TNode) (qs : List (List (Nat × W32))) (dist : Nat → Target) : Nat → Nat → Nat → Walk
  | 0, n, _ => ⟨[n], 0⟩
  | f + 1, n, pos =>
    let kids := childrenOf t n
    let p := (dist n).p
    let step :=
      if s.temp.isZero then
        let a := (p.head?.map (·.1)).getD 0
        match kids.find? fun c => tokenOf t c = a with
        | some c => .inl c
        | none => .inr a
      else tryKids s t (pos + 1) kids 0 p ((qs.getD n []).map fun e => (e.1, ofF32 e.2))
    match step with
    | .inr b => ⟨[n], b⟩
    | .inl c => let w := walkFrom s t qs dist f c (pos + 1); { w with path := n :: w.path }

end Sys2Proof.Machine
end

