-- ==== Sys2Proof/Machine/Mirror.lean ====
section
/-!
DEFINITION. The decode record (R221), what a model command reports and digests (R245, R434, R436), and mirroring to the
twin partner (R463 to R465).
-/

namespace Sys2Proof.Machine

/-! ### The decode record (R221) -/

/-- The 128 bytes of a decode record. -/
def recBytes (s : State) (ra : W64) : Bytes := plain (readWord s ra 128)

/-- Fields of a decode record. -/
def recSeed (r : Bytes) : W64 := param64 r 0
def recTemp (r : Bytes) : Fp := ofF32 (BitVec.ofNat 32 (leAt r 8 4))
def recTopP (r : Bytes) : Fp := ofF32 (BitVec.ofNat 32 (leAt r 12 4))
def recTopK (r : Bytes) : Nat := wfld r 16 31 16
def recNodesMax (r : Bytes) : Nat := wfld r 16 15 8
def recFixed (r : Bytes) : Bool := bitN (leAt r 16 4) 5
def recStopN (r : Bytes) : Nat := wfld r 16 4 0
def recMaxNew (r : Bytes) : Nat := leAt r 20 4
def recCtxLimit (r : Bytes) : Nat := leAt r 24 4
def recEmitUs (r : Bytes) : Nat := leAt r 28 4
def recOutAddr (r : Bytes) : W64 := param64 r 32
def recOutCap (r : Bytes) : Nat := leAt r 40 4
def recOutPos (r : Bytes) : Nat := leAt r 44 4
def recStops (r : Bytes) : List Nat := (List.range (recStopN r)).map fun j => wfld r (48 + 4 * j) 16 0
def recCommitted (r : Bytes) : Nat := leAt r 112 4
def recRoot (r : Bytes) : Nat := wfld r 116 16 0
def recGen (r : Bytes) : BitVec 16 := BitVec.ofNat 16 (leAt r 120 2)
def recSlot (r : Bytes) : Nat := byteN r 122 % 8

/-- The context limit that a record sets under its model. -/
def ctxLimit (m : ModelInfo) (r : Bytes) : Nat := if recCtxLimit r = 0 then m.ctxMax else recCtxLimit r

/-- The parameters of sampling. -/
def recParams (r : Bytes) : Params := ⟨recSeed r, recTemp r, recTopP r, if recTopK r = 0 then 256 else recTopK r⟩

/-- Bytes of the record written. -/
def putRec (s : State) (ra : W64) (off : Nat) (b : Bytes) : State := writeWord s (ra + BitVec.ofNat 64 off) b

/-- The record bytes that INPUT of R436 covers. -/
def recInput (r : Bytes) : Bytes := bytesAt r 0 32 ++ bytesAt r 40 4 ++ bytesAt r 48 74

/-! ### What a model command digests (R431, R434, R436) -/

/-- A layer's fold after more rows, each padded to a multiple of 64 bytes. -/
def foldRows (f : LayerFold) (rows : List Bytes) : LayerFold :=
  rows.foldl (fun f r => { f with h := f.h + foldSum f.blocks (padTo 64 r), blocks := f.blocks + ceilDiv r.length 64 }) f

/-- The folds of every layer after a committed pass. -/
def foldPass (fs : List LayerFold) (outs : List (List Bytes)) : List LayerFold :=
  fs.zipIdx.map fun p => foldRows p.1 (outs.getD p.2 [])

/-- A model command's digest inputs at its start. -/
def noteModel (s : State) (j : JobRef) (slot : Nat) (g : BitVec 16) (program input : Bytes) (layers : Nat) : State :=
  updJob s j fun b => { b with
    program := program
    gendig := ((genOf s slot g).map (·.gendig)).getD []
    input := sha256 input
    folds := List.replicate layers {}
    slotGen := some (slot, g.toNat)
    repro := s.pw.repro }

/-- A committed pass of a model command: its rows folded, its mode noted; the first one says anew whether it runs reproducibly (R431). -/
def notePass (s : State) (j : JobRef) (outs : List (List Bytes)) (pois : Bool) (mode : Nat) : State :=
  updJob s j fun b => { b with
    folds := foldPass b.folds outs, rowPois := b.rowPois || pois, modes := b.modes ++ [mode], repro := if b.modes = [] then s.pw.repro else b.repro }

/-! ### Mirroring (R463, R464) -/

/-- Links and twin state changed by `f`. -/
def setLk (s : State) (f : Links → Links) : State := { s with lk := f s.lk }

/-- The log entry of a command that starts in MIRROR. -/
def mirrorLog (s : State) (e : Bytes) (ra : W64) : State :=
  if mirrors s then setLk (sendTwin s kindTwinLog (bytesAt e 0 64 ++ recBytes s ra)) fun l => { l with mirrored := l.mirrored.filter (· ≠ ra) ++ [ra] }
  else s

/-- The KV bytes of positions `lo` to `hi` - 1 of a sequence, in the order of layer, KV head, position, the draft head's layer last. -/
def kvBytes (s : State) (q : Seq) (lo hi : Nat) : Bytes :=
  let m := infoOf s q.slot q.gen
  (List.range (kvLayers m)).flatMap fun l => (List.range m.kvHeads).flatMap fun h =>
    match q.dies.find? fun p => p.2.heads.contains h with
    | none => []
    | some p =>
      let i := (indexOf (· = h) p.2.heads).getD 0
      ((List.range (hi - lo)).map (lo + ·)).flatMap fun pos =>
        let page := (pageAt s m p.1 p.2 l i (pos / 16)).getD 0
        plain (loadMod s (dieKey p.1 (page + keyOffset m (pos % 16))) (rowKv m) ++ loadMod s (dieKey p.1 (page + valOffset m (pos % 16))) (rowKv m))

/-- The committed length that the last checkpoint of a record covered. -/
def ckptDone (s : State) (ra : W64) : Nat := ((s.lk.ckDone.find? fun p => p.1 = ra).map (·.2)).getD 0

/-- A checkpoint of a sequence: the record and the positions added since the last one. -/
def sendCkpt (s : State) (q : Seq) : State :=
  let r := recBytes s q.ra
  let c := recCommitted r
  let s := sendTwin s kindTwinCkpt (leBytes 8 q.ra.toNat ++ r ++ kvBytes s q (ckptDone s q.ra) c)
  setLk s fun l => { l with ckDone := l.ckDone.filter (fun p => p.1 ≠ q.ra) ++ [(q.ra, c)], unackedCk := l.unackedCk ++ [q.ra] }

/-- The checkpoint that a commit word takes when COMMITTED reaches or passes a new multiple of 256. -/
def ckptAtCommit (s : State) (q : Seq) (c : Nat) : State :=
  if mirrors s && decide (ckptDone s q.ra / 256 < c / 256) then sendCkpt s q else s

/-- Checkpoints of a record that wait for their acknowledgement. -/
def ckptsOut (s : State) (ra : W64) : Nat := s.lk.unackedCk.countP (· = ra)

/-- A checkpoint taken for a completion, and the completion held until the partner has it. -/
def holdForTwin (s : State) (w : TwinWait) : State :=
  let s := match seqOf s w.ra with | some q => sendCkpt s q | none => s
  if ckptsOut s w.ra = 0 then releaseWait s w
  else setLk s fun l => { l with twinWaits := l.twinWaits ++ [{ w with left := ckptsOut s w.ra }] }

/-- The end of a model command (R464): held in MIRROR, written at once otherwise. -/
def finishModel (s : State) (j : JobRef) (ra : W64) (x : Status) (result : W64) : State :=
  if mirrors s then holdForTwin s { ra := ra, job := j, final := true, status := x, result := result, left := 0 } else finish s j x result

/-- An interim completion of a decode loop (R245), held likewise. -/
def interimModel (s : State) (j : JobRef) (ra : W64) (result : W64) : State :=
  let w : TwinWait := { ra := ra, job := j, final := false, status := .ok, result := result, left := 0 }
  if mirrors s then holdForTwin s w else releaseWait s w

end Sys2Proof.Machine
end

