-- ==== Sys2Proof/Machine/Prefill.lean ====
section
/-!
DEFINITION. Admission, prefill and release of sequences (R266 to R268), and KERNEL as a whole (R354, R368).
-/

namespace Sys2Proof.Machine

/-! ### What a slot serves -/

/-- The serving generation of a slot. -/
def servingGen (s : State) (slot : Nat) : Option Gen := (s.md.slots.get slot).serving.bind (genOf s slot)

/-- Whether a slot takes new work (R179, R260, R266, R488): a serving generation that is whole, and no hold. -/
def slotReady (s : State) (slot : Nat) : Bool :=
  match servingGen s slot with
  | some g => g.whole && !(s.md.slots.get slot).frozen
  | none => false

/-- The mode of a slot: 1 sweep, 2 moored. -/
def modeOf (s : State) (slot : Nat) : Nat := (s.md.slots.get slot).mode

/-- Whether a prefill, and whether a decode loop, names a record. -/
def prefills (s : State) (ra : W64) : Bool := s.cp.jobs.any fun p => match p.2.body with | .prefill r => r = ra | _ => false
def decodes (s : State) (ra : W64) : Bool := s.cp.jobs.any fun p => match p.2.body with | .decode r => r = ra | _ => false

/-- Whether a prefill or a decode loop names a record. -/
def recordBusy (s : State) (ra : W64) : Bool := prefills s ra || decodes s ra

/-- The largest number of KV heads of a sequence on any die that could hold it. -/
def mostHeads (s : State) (m : ModelInfo) (mode : Nat) : Nat :=
  ((upDies s).map fun d => (kvHeadsOn s m mode d d).length).foldl max 0

/-- Whether a sequence of `n` positions fits the empty pool of every die in service (R266). -/
def fitsEmpty (s : State) (m : ModelInfo) (slot n : Nat) : Bool :=
  (upDies s).all fun d => decide (seqFrames m (kvHeadsOn s m (modeOf s slot) d d).length n ≤ (s.md.poolSet.get (poolKey slot d)).length)

/-! ### PREFILL -/

/-- SLOT, decode record and prompt length of a PREFILL. -/
def pSlot (e : Bytes) : Nat := byteN e 17
def pRec (e : Bytes) : W64 := param64 e 32
def pLen (e : Bytes) : Nat := entryLen e / 4

/-- The tokens of a prompt. -/
def promptOf (s : State) (e : Bytes) : List Nat :=
  let b := plain (readWord s (entryAddrW e) (entryLen e))
  (List.range (pLen e)).map fun i => leAt b (4 * i) 4

/-- Whether a prompt that can be read holds a token that is not below `v`. -/
def badToken (s : State) (e : Bytes) (v : Nat) : Bool :=
  (entryAddrW e).toNat % 4 = 0 && (reach s (entryAddrW e) (entryLen e) false).isNone && (promptOf s e).any fun t => decide (v ≤ t)

/-- The model that a slot serves. -/
def servedModel (s : State) (slot : Nat) : ModelInfo := ((servingGen s slot).map (·.info)).getD default

/-- The checks of PREFILL: the ranges of R368, then R266 in its order with the record's own address checks among them. -/
def checkPrefill (s : State) (e : Bytes) : Option Status :=
  let m := servedModel s (pSlot e)
  let n := pLen e
  firstFail [
    (7 < pSlot e || entryLen e % 4 ≠ 0, .lenRange),
    (recordBusy s (pRec e) || (seqOf s (pRec e)).isSome, .busy),
    (!slotReady s (pSlot e), .notReady),
    (n = 0 || decide (m.ctxMax ≤ n) || decide (posLimit m (mostHeads s m (modeOf s (pSlot e))) ≤ n), .lenRange),
    (badToken s e m.vocab, .lenRange),
    (!fitsEmpty s m (pSlot e) (n + 1), .lenRange),
    ((entryAddrW e).toNat % 4 ≠ 0 || (pRec e).toNat % 128 ≠ 0, .align),
    ((reach s (entryAddrW e) (entryLen e) false).isSome, (reach s (entryAddrW e) (entryLen e) false).getD .addrRange),
    ((reach s (pRec e) 128 true).isSome, (reach s (pRec e) 128 true).getD .addrRange)]

/-- PREFILL joins its slot's admission queue. -/
def runPrefill (j : JobRef) (e : Bytes) (s : State) : State :=
  checkThen (checkPrefill s e) j (fun s =>
    let slot := pSlot e
    let m := servedModel s slot
    let input := plain (readWord s (entryAddrW e) (entryLen e)) ++ recInput (recBytes s (pRec e))
    let s := noteModel s j slot (((s.md.slots.get slot).serving).getD 0) m.prefillDigest input m.layers
    let s := mirrorLog (setBody s j (.prefill (pRec e))) e (pRec e)
    updSlot s slot fun x => { x with admits := x.admits ++ [⟨j, pRec e, entryAddrW e, pLen e⟩] }) s

/-! ### RELEASE -/

/-- The checks of RELEASE. -/
def checkRelease (s : State) (e : Bytes) : Option Status :=
  firstFail [
    (entryLen e ≠ 0, .lenRange),
    ((pRec e).toNat % 128 ≠ 0, .align),
    ((reach s (pRec e) 128 true).isSome, (reach s (pRec e) 128 true).getD .addrRange)]

/-- A release whose record no loop and no prefill names any more, and whose sequence is in HBM3, ends (R268); a record without a
sequence has nothing to release. -/
def tryRelease (s : State) (j : JobRef) (ra : W64) : State :=
  if recordBusy s ra || s.lk.twinWaits.any fun w => w.job = j then s
  else
    match seqOf s ra with
    | none => finish s j .ok 0
    | some q =>
      if q.parked.isSome then s
      else
        let s := if mirrors s then sendCkpt s q else s
        finishModel (putRec (dropSeq s q) ra 112 (leBytes 4 0)) j ra .ok 0

/-- RELEASE ends at once or waits. -/
def runRelease (j : JobRef) (e : Bytes) (s : State) : State :=
  checkThen (checkRelease s e) j (fun s =>
    let s := match seqOf s (pRec e) with
      | some q => updJob (noteModel s j q.slot q.gen (servedModel s q.slot).releaseDigest [] 0) j fun b => { b with input := [] }
      | none => s
    let s := setBody s j (.release (pRec e))
    let s := if (seqOf s (pRec e)).isSome then mirrorLog s e (pRec e) else s
    tryRelease s j (pRec e)) s

/-- The running releases that can end do so. -/
def releasesDue (s : State) : State :=
  s.cp.jobs.foldl (fun s p => match p.2.body with | .release ra => tryRelease s p.1 ra | _ => s) s

/-! ### KERNEL -/

/-- KERNEL by its KIND (R368). -/
def runKernel (j : JobRef) (e : Bytes) (s : State) : State :=
  match byteN e 16 with
  | 0 => runCompiled j e s
  | 1 => runPrefill j e s
  | 2 => runRelease j e s
  | _ => finish s j .lenRange 0

/-- Whether a DETACH_PREPARE drains the module: no PREFILL starts and no sequence is admitted (R469). -/
def leaving (s : State) : Bool := s.lk.twin = .detaching

/-- KERNEL (R368). -/
def execKernel (st : Stream) (s : State) : Ans :=
  match nextEntry s st.val with
  | some e =>
    if leaving s && entryOpc e.bytes = 0x01 && byteN e.bytes 16 = 1 then .next s
    else if kernelWaits s e.bytes then .next s
    else startEntry 0x01 st.val runKernel s
  | none => .next s

/-! ### Admission (R267) -/

/-- Frames that sequences hold on a die, over all slots. -/
def framesUsed (s : State) (d : Nat) : Nat :=
  ((List.range 8).map fun k => (s.md.poolSet.get (poolKey k d)).length - (poolOf s k d).length).foldl (· + ·) 0

/-- The die in service with the fewest KV bytes, the lowest index among equals. -/
def homeDie (s : State) : Nat :=
  match upDies s with
  | [] => 0
  | d :: r => r.foldl (fun b e => if framesUsed s e < framesUsed s b then e else b) d

/-- Pages, tree slots and page tables for `n` positions on every listed die, or nothing. -/
def allocAll (m : ModelInfo) (slot mode home n : Nat) : List Nat → State → Option (Tbl SeqDie × State)
  | [], s => some ([], s)
  | d :: r, s =>
    match allocSeqDie s m slot d (kvHeadsOn s m mode home d) (ceilDiv n 16) with
    | none => none
    | some (q, s1) => (allocAll m slot mode home n r s1).map fun p => (Tbl.set p.1 d q, p.2)

/-- The head of a slot's queue is admitted: pinned to the serving generation, given a home die and its pages; a slot that has
lost its serving generation refuses it. -/
def admitHead (s : State) (slot : Nat) (a : Admit) : State :=
  let pop := updSlot s slot fun x => { x with admits := x.admits.tail }
  match servingGen s slot with
  | none => finish pop a.job .notReady 0
  | some g =>
    let home := homeDie s
    match allocAll g.info slot (modeOf s slot) home (a.n + 1) (upDies s) pop with
    | none => s
    | some (ds, s1) =>
      let q : Seq := { ra := a.ra, slot := slot, gen := g.num, home := home, dies := ds, parked := none, repin := none, migrated := false
                       acc := [], tmpl := 0, sinceMove := 0, prefilling := true, filled := 0, pois := false }
      let s2 := updJob s1 a.job fun b => { b with
        gendig := g.gendig, program := g.info.prefillDigest, slotGen := some (slot, g.num.toNat), folds := List.replicate g.info.layers {} }
      addRef { s2 with md := { s2.md with seqs := s2.md.seqs ++ [q] } } slot g.num

/-- ADMISSION (R267): enabled while the slot's queue holds an admission and the slot is not in its settle stage. -/
def execAdmission (slot : Fin 8) (s : State) : Ans :=
  match (s.md.slots.get slot.val).admits with
  | [] => .next s
  | a :: _ => if (s.md.slots.get slot.val).settling || leaving s then .next s else .next (admitHead s slot.val a)

/-! ### Prefill passes -/

/-- The entries of positions `lo` to `hi` - 1 written on one die by a pass, the draft head's among them; their values are the model's own,
free here. -/
def fillDie (m : ModelInfo) (q : Seq) (lo hi : Nat) (pois : Bool) (s : State) (d : Nat) : State :=
  let x := q.dies.get d
  (List.range x.heads.length).foldl (fun s h =>
    (List.range (kvLayers m)).foldl (fun s l =>
      ((List.range (hi - lo)).map (lo + ·)).foldl (fun s p =>
        match pageAt s m d x l h (p / 16) with
        | some a => freeEntry s m d a (p % 16) pois
        | none => s) s) s) s

/-- The entries of positions `lo` to `hi` - 1 written on every die. -/
def fillSeq (s : State) (q : Seq) (lo hi : Nat) (pois : Bool) : State :=
  ((List.range 8)).foldl (fillDie (infoOf s q.slot q.gen) q lo hi pois) s

/-- The prompt length of a running prefill. -/
def prefillLen (s : State) (j : JobRef) : Nat := ((getJob s j).map fun b => pLen b.entry).getD 0

/-- A sequence reaches its token boundary: a pending re-pin takes effect (R216, R217, R242), and the command carries MIGRATED. -/
def tokenBoundary (s : State) (j : JobRef) (ra : W64) : State :=
  match seqOf s ra with
  | none => s
  | some q =>
    match q.repin with
    | none => s
    | some g =>
      let s := dropRef (addRef s q.slot g) q.slot q.gen
      updJob (updSeq s ra fun x => { x with gen := g, repin := none, migrated := true }) j fun b => { b with migrated := true }

/-- The first token of a sequence: drawn from the row of position n - 1 with its own counter (R235, R236, R267). -/
def firstToken (sl : Slices) (r : Bytes) (n : Nat) (row : LogitRow) : Nat :=
  let p := recParams r
  (draw (targetDist sl p.temp p.topP p.kc row.x).p (uniform p.seed 0 n 0 0)).getD 0

/-- The writes of the end of prefill (R267 step 5), in order. -/
def prefillWords (s : State) (q : Seq) (n tok : Nat) : State :=
  putRec (putRec s q.ra 120 (leBytes 2 q.gen.toNat ++ [BitVec.ofNat 8 q.slot])) q.ra 112 (leBytes 4 n ++ leBytes 4 (tok % 2 ^ 17))

/-- The last prefill pass commits. -/
def commitPrefill (s : State) (j : JobRef) (q : Seq) (n : Nat) (row : LogitRow) (outs : List (List Bytes)) : State :=
  let r := recBytes s q.ra
  let tok := firstToken (rowSlices s s.md.pass.mode q.home) r n row
  let s := fillSeq s q q.filled n row.pois
  let s := prefillWords s q n tok
  let s := updSeq s q.ra fun x => { x with prefilling := false, filled := n, tmpl := tmplFor (if recNodesMax r = 0 then 16 else recNodesMax r) }
  let s := updSlot s q.slot fun x => { x with lastPrefill := true }
  let s := notePass s j outs row.pois s.md.pass.mode
  let s := if row.pois then notePoison s j (q.ra + 112) else s
  let s := match seqOf s q.ra with | some y => ckptAtCommit s y n | none => s
  let s := tokenBoundary s j q.ra
  finishModel s j q.ra (rankStatus (((getJob s j).map (·.conds)).getD [])) (BitVec.ofNat 64 (n * 2 ^ 32 + tok % 2 ^ 17))

/-- PREFILL_COMMIT (R267): enabled while the prefill pass of the record runs and holds its last rows. -/
def execPrefillCommit (ra : W64) (row : LogitRow) (outs : List (List Bytes)) (s : State) : Ans :=
  match seqOf s ra, jobOfSeq s ra with
  | some q, some j =>
    if s.md.pass.running && s.md.pass.pre = some ra && q.prefilling && decide (prefillLen s j ≤ q.filled + 2048)
    then .next (commitPrefill s j q (prefillLen s j) row outs) else .next s
  | _, _ => .next s

end Sys2Proof.Machine
end

