-- ==== Sys2Proof/Machine/Loop.lean ====
section
/-!
DEFINITION. The decode loop (R223, R243 to R248), its verify passes (R226 to R229) and their commits (R238 to R242).
-/

namespace Sys2Proof.Machine

/-! ### DECODE_LOOP -/

/-- Whether a record's sampling and length fields lie in range (R221, R223). -/
def recRangeBad (r : Bytes) : Bool :=
  let t := recTemp r
  let p := recTopP r
  t.lt .zero || t = .nan || t = .inf false || !(Fp.zero.lt p) || Fp.one.lt p || decide (256 < recTopK r) || decide (64 < recNodesMax r) ||
    decide (16 < recStopN r) || (recEmitUs r ≠ 0 && (decide (recEmitUs r < 50) || decide (10000000 < recEmitUs r))) ||
    decide (recOutCap r < 65) || decide (0x01000000 < recOutCap r) || recMaxNew r = 0

/-- The generation that a record's sequence uses: its pin, or what the record says when no sequence is admitted. -/
def recGenOf (s : State) (ra : W64) : BitVec 16 :=
  match seqOf s ra with
  | some q => q.gen
  | none => recGen (recBytes s ra)

/-- The state checks of R223 after the record has been read. A sequence that a PREFILL still names has nothing committed. -/
def checkRecord (s : State) (ra : W64) : Option Status :=
  let r := recBytes s ra
  let slot := recSlot r
  let g := genOf s slot (recGenOf s ra)
  let m := (g.map (·.info)).getD default
  firstFail [
    ((s.md.slots.get slot).gens.isEmpty || recCommitted r = 0 || prefills s ra || (s.md.slots.get slot).frozen, .notReady),
    (s.lk.joined && (s.lk.pattern = 0 || (s.lk.pattern = 3 && s.pins.twinSide)), .notReady),
    (g.isNone, .genRetired),
    ((seqOf s ra).isNone || !((g.map (·.whole)).getD true), .notReady),
    (recRangeBad r, .lenRange),
    (decide (m.vocab ≤ recRoot r) || (recStops r).any fun t => decide (m.vocab ≤ t), .lenRange),
    (decide (m.ctxMax < recCtxLimit r) || decide (ctxLimit m r ≤ recCommitted r + 1), .lenRange),
    ((recOutAddr r).toNat % 4 ≠ 0, .align),
    ((reach s (recOutAddr r) (4 * recOutCap r) true).isSome, (reach s (recOutAddr r) (4 * recOutCap r) true).getD .addrRange)]

/-- The checks of DECODE_LOOP: its length, the busy check of R223, the record's own address, then the rest of R223. -/
def checkDecode (s : State) (e : Bytes) : Option Status :=
  let ra := entryAddrW e
  match firstFail [
    (entryLen e ≠ 128, .lenRange),
    (decodes s ra, .busy),
    (ra.toNat % 128 ≠ 0, .align),
    ((reach s ra 128 true).isSome, (reach s ra 128 true).getD .addrRange)] with
  | some x => some x
  | none => checkRecord s ra

/-- The template with which a loop begins: the largest within NODES_MAX, or the one that the sequence had reached. -/
def startTmpl (r : Bytes) (q : Seq) : Nat :=
  let top := tmplFor (if recNodesMax r = 0 then 16 else recNodesMax r)
  if recFixed r || q.acc.isEmpty then top else min top q.tmpl

/-- DECODE_LOOP starts: OUT_POS restarts at 0 (R248). -/
def startDecode (j : JobRef) (e : Bytes) (s : State) : State :=
  let ra := entryAddrW e
  let r := recBytes s ra
  match seqOf s ra with
  | none => finish s j .notReady 0
  | some q =>
    let s := putRec s ra 44 (leBytes 4 0)
    let s := noteModel s j q.slot q.gen (servedModel s q.slot).decodeDigest (recInput r) (infoOf s q.slot q.gen).layers
    let s := mirrorLog (setBody s j (.decode ra)) e ra
    let s := updSeq (updJob s j fun b => { b with migrated := q.migrated }) ra fun x => { x with tmpl := startTmpl r q }
    { s with md := { s.md with loops := s.md.loops ++ [{ ra := ra, job := j, lastBeacon := now s, lastOut := 0, tree := [], qs := []
                                                         running := false, mask := [], stopHit := false, poisHit := false }] } }

/-- DECODE_LOOP runs after its checks. -/
def runDecode (j : JobRef) (e : Bytes) (s : State) : State := checkThen (checkDecode s e) j (startDecode j e) s

/-- DECODE_LOOP (R244). -/
def execDecodeLoop (st : Stream) (s : State) : Ans := startEntry 0x0D st.val runDecode s

/-- The loop of a record changed by `f`. -/
def updLoop (s : State) (ra : W64) (f : DLoop → DLoop) : State :=
  { s with md := { s.md with loops := s.md.loops.map fun l => if l.ra = ra then f l else l } }

/-- The running loop of a record. -/
def loopOf (s : State) (ra : W64) : Option DLoop := s.md.loops.find? fun l => l.ra = ra

/-! ### End conditions (R246, R247) -/

/-- The templates of a pass shrunk until at most 2,048 rows remain: the largest trees take the next smaller template (R226). -/
def shrink : Nat → List Nat → List Nat
  | 0, l => l
  | f + 1, l =>
    let big := l.foldl max 0
    if 2048 < (l.map tmplNodes).foldl (· + ·) 0 ∧ 0 < big then shrink f (l.map fun t => if t = big then big - 1 else t) else l

/-- The loops that a pass of a slot and generation drives. -/
def loopsOn (s : State) (slot : Nat) (g : BitVec 16) : List (DLoop × Seq) :=
  s.md.loops.filterMap fun l =>
    match seqOf s l.ra with
    | some q => if q.slot = slot ∧ q.gen = g ∧ q.parked = none ∧ q.prefilling = false then some (l, q) else none
    | none => none

/-- The template of a sequence for a pass of these loops: shrunk in a moored pass, never in reproducible mode (R429). -/
def tmplIn (s : State) (mode : Nat) (ls : List (DLoop × Seq)) (ra : W64) (t : Nat) : Nat :=
  if mode = 2 && !s.pw.repro then
    match indexOf (fun p => p.1.ra = ra) ls with
    | some i => (shrink 8 (ls.map fun p => p.2.tmpl)).getD i t
    | none => t
  else t

/-- The depth of the tree that a sequence's next pass would use (R226). -/
def nextDepth (s : State) (m : ModelInfo) (r : Bytes) (q : Seq) : Nat :=
  let t := tmplIn s (modeOf s q.slot) (loopsOn s q.slot q.gen) q.ra q.tmpl
  min ((templates.getD t []).length - 1) (ctxLimit m r - 1 - recCommitted r)

/-- The end reason of a loop at a pass boundary, in the order of R247. -/
def endReason (s : State) (l : DLoop) (q : Seq) : Option Nat :=
  let r := recBytes s l.ra
  let m := infoOf s q.slot q.gen
  firstFail [
    (l.stopHit, 1),
    (decide (recMaxNew r ≤ recOutPos r), 2),
    (decide (ctxLimit m r ≤ recCommitted r + 1), 3),
    (decide (recOutCap r - recOutPos r < nextDepth s m r q + 1), 4),
    (l.poisHit, 5),
    ((genOf s q.slot q.gen).isNone, 8)]

/-- A loop ends: END, then its final completion with OUT_POS and END (R247); a sequence with a poisoned copy of a page
reports it (R260). -/
def endLoop (s : State) (l : DLoop) (q : Seq) (n : Nat) : State :=
  let out := recOutPos (recBytes s l.ra)
  let s := putRec (dropLoop s l.ra) l.ra 123 [BitVec.ofNat 8 n]
  let s := if n = 5 || q.pois then noteCond s l.job .poisoned else s
  let s := if n = 8 then noteCond s l.job .genRetired else s
  let s := updSeq s l.ra fun x => { x with pois := false }
  finishModel s l.job l.ra (rankStatus (((getJob s l.job).map (·.conds)).getD [])) (BitVec.ofNat 64 (n * 2 ^ 32 + out))

/-- The loops whose end condition holds end; one whose sequence has gone was ended with it. -/
def loopsDue (s : State) : State :=
  s.md.loops.foldl (fun s l =>
    match loopOf s l.ra, seqOf s l.ra with
    | some l, some q => match endReason s l q with | some n => endLoop s l q n | none => s
    | _, _ => s) s

/-! ### The verify pass (R224 to R229) -/

/-- The loops that the running pass drives. -/
def passLoops (s : State) : List (DLoop × Seq) := loopsOn s s.md.pass.slot s.md.pass.gen

/-- The template of a sequence for the running pass. -/
def passTmpl (s : State) (ra : W64) (t : Nat) : Nat := tmplIn s s.md.pass.mode (passLoops s) ra t

/-- Rows of the trees that already run in the pass. -/
def rowsRunning (s : State) : Nat := ((passLoops s).map fun p => if p.1.running then p.1.tree.length else 0).foldl (· + ·) 0

/-- The tree-slot entries of a pass written on one die, one for each node, layer and local head, the draft head's layer among them. -/
def treeEntries (m : ModelInfo) (q : Seq) (n : Nat) (s : State) (d : Nat) : State :=
  let x := q.dies.get d
  (List.range x.heads.length).foldl (fun s h =>
    (List.range (kvLayers m)).foldl (fun s l =>
      (List.range n).foldl (fun s i => freeEntry s m d (x.tree.getD ((l * x.heads.length + h) * 4 + i / 16) 0) (i % 16) false) s) s) s

/-- The mask written to the decode kernel's mask buffer of a sequence on every die that runs attention for it (R229). -/
def writeMask (s : State) (m : ModelInfo) (q : Seq) (rows : List Bytes) : State :=
  let i := (indexOf (fun p : DLoop × Seq => p.1.ra = q.ra) (passLoops s)).getD 0
  ((List.range 8).filter fun d => !(q.dies.get d).heads.isEmpty).foldl (fun s d =>
    storeClean s (dieKey d (m.maskBuf + i * m.maskStep)) rows.flatten) s

/-- A verify pass over a sequence's tree begins: its mask is written once, before its entries; a parent array that breaks R224 faults the
pass (R229). -/
def beginVerify (s : State) (l : DLoop) (q : Seq) (drafts : List (List W32)) : State :=
  let s := eccWord s (l.ra, 128)
  let r := recBytes s l.ra
  let m := infoOf s q.slot q.gen
  let c := recCommitted r
  let levels := tmplLevels (passTmpl s l.ra q.tmpl) (ctxLimit m r - 1 - c)
  let d := buildTree (rowSlices s s.md.pass.mode q.home) (recParams r) m.draftMap levels (recRoot r) c drafts
  if s.md.pass.mode = 2 ∧ 2048 < rowsRunning s + d.nodes.length then s
  else if !treeOk d.nodes then finishModel (dropLoop s l.ra) l.job l.ra .engineFault 0
  else
    let s := writeMask s m q (maskRows d.nodes c)
    let s := (List.range 8).foldl (treeEntries m q d.nodes.length) s
    updLoop s l.ra fun x => { x with tree := d.nodes, qs := d.qs, mask := maskRows d.nodes c, running := true, lastPass := some s.md.pass.num }

/-- VERIFY_PASS (R227): enabled while a pass of the sequence's slot and generation runs and the sequence has not been in it yet: between
two passes its loop checks its end conditions (R244). -/
def execVerifyPass (ra : W64) (drafts : List (List W32)) (s : State) : Ans :=
  if s.md.pass.running && s.md.pass.pre.isNone then
    match (passLoops s).find? fun p => p.1.ra = ra with
    | some (l, q) => if l.running || l.lastPass = some s.md.pass.num then .next s else .next (beginVerify s l q drafts)
    | none => .next s
  else .next s

/-! ### The commit (R238 to R243) -/

/-- A token that a pass may emit: number, whether an accepted draft token, truncation and poison of its row. -/
structure Emit where
  token : Nat
  draft : Bool
  trunc : Bool
  pois : Bool
  deriving DecidableEq, Repr, Inhabited

/-- The tokens that a walk yields, in order; a poisoned row marks its token and every later one (R231), and a cut at any node of the tree
marks every token of the pass (R230 step 5). -/
def emitsOf (t : List TNode) (dist : Nat → Target) (pois : Nat → Bool) (w : Walk) : List Emit :=
  let cut := (List.range t.length).any fun n => (dist n).trunc
  let toks := (w.path.tail.map fun n => (tokenOf t n, true)) ++ [(w.bonus, false)]
  (toks.zipIdx).map fun x =>
    { token := x.1.1, draft := x.1.2, trunc := cut, pois := (w.path.take (x.2 + 1)).any pois }

/-- The emitted tokens cut under R239. -/
def cutEmits (m : ModelInfo) (r : Bytes) (es : List Emit) : List Emit :=
  let stop := match indexOf (fun e : Emit => (recStops r).contains e.token) es with
    | some i => es.take (i + 1)
    | none => es
  (stop.take (recMaxNew r - recOutPos r)).take (ctxLimit m r - 1 - recCommitted r)

/-- A token record (R243). -/
def tokenRecord (r : Bytes) (mig : Bool) (e : Emit) : Bytes :=
  leBytes 4 (bAt mig 21 + bAt e.trunc 20 + bAt e.pois 19 + bAt ((recStops r).contains e.token) 18 + bAt e.draft 17 + e.token % 2 ^ 17)

/-- The accepted path copied into fresh pages on every die (R238 steps 1 to 3), or nothing when a pool lacks room. -/
def commitAll (m : ModelInfo) (slot c : Nat) (path : List Nat) : List (Nat × SeqDie) → State → Option (Tbl SeqDie × State)
  | [], s => some ([], s)
  | (d, q) :: r, s =>
    match commitDie s m slot d c path q with
    | none => none
    | some (q', s1) => (commitAll m slot c path r s1).map fun p => ((d, q') :: p.1, p.2)

/-- The adaptation of a sequence's template after a pass with `a` accepted draft nodes (R226). -/
def adapt (s : State) (r : Bytes) (q : Seq) (a : Nat) : Seq :=
  let acc := (a :: q.acc).take 32
  let sum := acc.foldl (· + ·) 0
  let deep := (templates.getD q.tmpl []).length - 1
  let top := tmplFor (if recNodesMax r = 0 then 16 else recNodesMax r)
  let q := { q with acc := acc, sinceMove := q.sinceMove + 1 }
  if recFixed r || s.pw.repro || q.sinceMove < 32 then q
  else if 7 * deep * acc.length ≤ 10 * sum ∧ q.tmpl < top then { q with tmpl := q.tmpl + 1, sinceMove := 0 }
  else if 100 * sum < 35 * deep * acc.length ∧ 0 < q.tmpl then { q with tmpl := q.tmpl - 1, sinceMove := 0 }
  else q

/-- ACC_MEAN in 8.8 fixed point. -/
def accMean (acc : List Nat) : Nat := if acc.isEmpty then 0 else 256 * acc.foldl (· + ·) 0 / acc.length

/-- The record after a commit: output records, OUT_POS, GEN and SLOT, the commit word, then the adaptation's report. -/
def commitWords (s : State) (q : Seq) (r : Bytes) (es : List Emit) : State :=
  let c := recCommitted r
  let s := es.zipIdx.foldl (fun s x => writeWord s (recOutAddr r + BitVec.ofNat 64 (4 * (recOutPos r + x.2))) (tokenRecord r q.migrated x.1)) s
  let s := putRec s q.ra 44 (leBytes 4 (recOutPos r + es.length))
  let s := putRec s q.ra 120 (leBytes 2 q.gen.toNat ++ [BitVec.ofNat 8 q.slot])
  let root := (es.getLast?.map (·.token)).getD (recRoot r)
  let s := putRec s q.ra 112 (leBytes 4 (c + es.length) ++ leBytes 4 (root % 2 ^ 17))
  putRec s q.ra 124 (leBytes 2 (accMean q.acc) ++ [BitVec.ofNat 8 (tmplNodes q.tmpl)])

/-- An interim completion falls due (R245). -/
def interimDue (s : State) (ra : W64) : State :=
  match loopOf s ra with
  | none => s
  | some l =>
    let r := recBytes s ra
    if recEmitUs r ≠ 0 ∧ recEmitUs r * 150 ≤ (now s - l.lastBeacon).toNat ∧ l.lastOut < recOutPos r then
      let s := interimModel s l.job ra (BitVec.ofNat 64 (recOutPos r))
      updLoop s ra fun x => { x with lastBeacon := now s, lastOut := recOutPos r }
    else s

/-- What a commit reads: table frames, the pages that the fresh ones replace, and tree slots (R258). -/
def noteCommit (s : State) (m : ModelInfo) (c : Nat) (q : Seq) : State :=
  q.dies.foldl (fun s p =>
    let x := p.2
    let hd := x.heads.length
    let old := (List.range (kvLayers m * hd)).filterMap fun i => pageAt s m p.1 x (i / hd) (i % hd) (c / 16)
    let s := x.frames.foldl (fun s a => eccAt s (dieKey p.1 a) 4096) s
    (old ++ x.tree).foldl (fun s a => eccAt s (dieKey p.1 a) (pageBytes m)) s) s

/-- The commit of a sequence's verify pass. -/
def commitVerify (s : State) (l : DLoop) (q : Seq) (rows : List LogitRow) (outs : List (List Bytes)) : State :=
  let s := eccWord s (l.ra, 128)
  let r := recBytes s l.ra
  let m := infoOf s q.slot q.gen
  let c := recCommitted r
  let p := recParams r
  let dist := fun n => targetDist (rowSlices s s.md.pass.mode q.home) p.temp p.topP p.kc ((rows.getD n default).x)
  let pois := fun n => (rows.getD n default).pois
  let w := walkFrom p l.tree l.qs dist l.tree.length 0 c
  let es := cutEmits m r (emitsOf l.tree dist pois w)
  match commitAll m q.slot c (w.path.take es.length) q.dies (noteCommit s m c q) with
  | none => s
  | some (ds, s) =>
    let q' := adapt s r { q with dies := ds } (w.path.length - 1)
    let s := commitWords (updSeq s q.ra fun _ => q') q' r es
    let s := updLoop s l.ra fun x => { x with
      tree := [], qs := [], mask := [], running := false
      stopHit := es.any fun e => (recStops r).contains e.token
      poisHit := es.any (·.pois) }
    let s := match es.zipIdx.find? fun x => x.1.pois with
      | some x => updJob s l.job fun b => { b with
          poisAddr := match b.poisAddr with | some a => some a | none => some (recOutAddr r + BitVec.ofNat 64 (4 * (recOutPos r + x.2))) }
      | none => s
    let s := notePass s l.job outs (es.any (·.pois)) s.md.pass.mode
    let s := ckptAtCommit s q' (c + es.length)
    interimDue (tokenBoundary s l.job l.ra) l.ra

/-- VERIFY_PASS_COMMIT (R238): enabled while the sequence's verify pass runs; it stays unchanged while a pool lacks the fresh
pages. -/
def execVerifyPassCommit (ra : W64) (rows : List LogitRow) (outs : List (List Bytes)) (s : State) : Ans :=
  match loopOf s ra, seqOf s ra with
  | some l, some q => if l.running && s.md.pass.running then .next (commitVerify s l q rows outs) else .next s
  | _, _ => .next s

end Sys2Proof.Machine
end

