-- ==== Sys2Proof/Machine/Power.lean ====
section
/-!
DEFINITION. Power tokens, borrowing and CCLK steps (R500 to R509, R516), with POWER_POLICY, CLOCK_PIN and TIME_TAG.
-/

namespace Sys2Proof.Machine

/-- The cap in force (R500, R509): the policy's cap less 100 W for each whole degree of the coolant inlet above 40. -/
def capInForce (p : Power) : Nat := if 400 < p.coolIn.toNat then max 1200 (p.policyCap - 100 * ((p.coolIn.toNat - 400) / 10)) else p.policyCap

/-- The cap in force set from the policy and the inlet. -/
def reCap (s : State) : State := rePool (setPw s fun p => { p with cap := capInForce p })

/-- A number held to a range. -/
def clampTo (lo hi n : Nat) : Nat := min hi (max lo n)

/-! ### Grants (R502) -/

/-- The reserve for a measured draw: 5 % more, rounded up, from 160 to 720 (R501). -/
def reserveFor (draw : Nat) : Nat := clampTo 160 720 (ceilDiv (draw * 105) 100)

/-- The tokens returned given to throttled die stacks in ascending index, up to 310 each. -/
def giveReturned (s : State) : List Nat → Nat → State
  | [], _ => s
  | d :: r, n =>
    if (tokOf s d).thr = 0 then giveReturned s r n
    else
      let g := min n (310 - (tokOf s d).held)
      giveReturned (updTok s d fun t => { t with held := t.held + g }) r (n - g)

/-- The grant that a die stack keeps of its share: one whose draw stayed `slack` below its allowance, more than 20 W, returns what its new
allowance exceeds max(120, draw + 20) by. -/
def keptGrant (t : Tok) (share slack : Nat) : Nat :=
  if 20 < slack then max 120 (share - (allowance { t with held := share } - max 120 (allowance t - slack + 20))) else share

/-- GRANT_INTERVAL (R502): the reserve and the grants afresh; nothing while grants are suspended after PWR_ALERT# (R498). -/
def execGrantInterval (reserveDraw : Nat) (slack : List Nat) (s : State) : Ans :=
  if s.pw.suspended then .next s
  else
    let rsv := reserveFor reserveDraw
    let share := clampTo 120 310 ((s.pw.cap - rsv) / max 1 (upDies s).length)
    let back := ((upDies s).map fun d => share - keptGrant (tokOf s d) share (slack.getD d 0)).foldl (· + ·) 0
    let s1 := (List.range 8).foldl (fun s d =>
      updTok s d fun t => { t with held := if dieUp s d then keptGrant t share (slack.getD d 0) else 0 }) s
    .next (rePool (giveReturned (setPw s1 fun p => { p with reserve := rsv }) (upDies s1) back))

/-! ### Throttle and borrowing (R504 to R506) -/

/-- THR one step up or down. -/
def thrUp (t : Tok) : Tok := if t.thr = 15 then t else { t with thr := t.thr + 1 }
def thrDown (t : Tok) : Tok := if t.thr = 0 then t else { t with thr := t.thr - 1 }

/-- One sample of a die stack's draw; a junction at 95 degrees or above counts as draw above the allowance (R509). -/
def sampled_ (t : Tok) (draw : BitVec 9) : Tok :=
  let t := { t with draw := draw }
  if allowance t < draw.toNat ∨ 95 ≤ t.tj.toNat then thrUp t else if draw.toNat + 10 ≤ allowance t then thrDown t else t

/-- DRAW_SAMPLE (R504). -/
def execDrawSample (d : Die) (draw : BitVec 9) (s : State) : Ans :=
  if dieUp s d.val then .next (updTok s d.val fun t => sampled_ t draw) else .next s

/-- Whether every active context of a die is stalled, none of them on a semaphore, and there is one. -/
def allStalled (s : State) (d : Nat) : Bool :=
  let act := (upTiles s d).flatMap fun t => ((List.range 4).map fun c => (s.tiles.get t).ctxs.get c).filter (·.active)
  !act.isEmpty && act.all (·.wait) && (upTiles s d).all fun t => (s.tiles.get t).line.all fun r => match r.who with | .tod _ _ => false | _ => true

/-- The throttled die stacks other than `d`, ascending. -/
def throttled (s : State) (d : Nat) : List Nat := (upDies s).filter fun e => e ≠ d && (tokOf s e).thr ≠ 0

/-- Tokens lent by `d` in equal whole shares, lower dies taking the remainder. -/
def lendTo (s : State) (d amount : Nat) (bs : List Nat) : State :=
  bs.zipIdx.foldl (fun s x =>
    let n := amount / bs.length + b2n (x.2 < amount % bs.length)
    updTok s x.1 fun t => { t with borrowed := t.borrowed + n, from_ := t.from_ ++ [(d, n)] }) s

/-- Whether borrowing is on (R506): allowed by the policy, outside reproducible mode and not after PWR_ALERT#. -/
def borrowing (s : State) : Bool := s.pw.borrow && !s.pw.repro && !s.pw.suspended

/-- LOAN (R505). -/
def execLoan (d : Die) (predictedUs : Nat) (s : State) : Ans :=
  let t := tokOf s d.val
  let bs := throttled s d.val
  if borrowing s && dieUp s d.val && allStalled s d.val && decide (50 ≤ predictedUs) && t.lent = 0 && decide (120 < t.held) && !bs.isEmpty then
    let s1 := lendTo (updTok s d.val fun t => { t with lent := t.held - 120 }) d.val (t.held - 120) bs
    .next (rePool (setPw s1 fun p => { p with loans := satInc p.loans 1 }))
  else .next s

/-- LOAN_RECALL (R506): then the contexts whose release was held go on. -/
def execLoanRecall (d : Die) (s : State) : Ans := .next (freeLender (recallLoan s d.val) d.val)

/-! ### CCLK steps (R507 to R509) -/

/-- The CCLK frequency of a step in MHz. -/
def stepMHz (n : Nat) : Nat := [1200, 960, 800, 600].getD n 600

/-- CCLK goes to a slower step at once: counted, source 702; a pinned step follows it. -/
def stepTo (s : State) (n : Nat) : State :=
  fire (setPw s fun p => { p with step := n, pinStep := if p.pinned then n else p.pinStep, stepDn := satInc p.stepDn 1 }) 702

/-- CCLK is lowered to step `n` (R508): deferred to the pass boundary in reproducible mode. -/
def lower (s : State) (n : Nat) : State :=
  if n ≤ s.pw.step then s
  else if s.pw.repro then setPw s fun p => { p with lowerPend := some (max n (p.lowerPend.getD 0)) }
  else stepTo s n

/-- CAP_LIM is set (R516). -/
def capLim (s : State) : State := fire (setPw s fun p => { p with capLim := true }) 696

/-- THERM_LIM is set. -/
def thermLim (s : State) : State := fire (setPw s fun p => { p with thermLim := true }) 697

/-- A lowering for a thermal threshold; a pinned step that follows fires source 696 (R508). -/
def lowerHot (s : State) (n : Nat) : State :=
  let t := lower s n
  if s.pw.pinned && !s.pw.repro && decide (s.pw.step < n) then fire t 696 else t

/-- Whether the other cause has called for a lowering in the same interval of 1.00 ms. -/
def bothCall (s : State) (hot : Bool) : Bool :=
  match s.pw.downFor with
  | some (h, t) => h ≠ hot && decide ((now s - t).toNat < 150000)
  | none => false

/-- CCLK falls by one step for power, or for a temperature when `hot`; by one step in all when both call for it in one interval (R508). -/
def lowerStep (s : State) (hot : Bool) (f : State → Nat → State) : State :=
  if bothCall s hot then setPw s fun p => { p with downFor := none }
  else setPw (f s (min 3 (s.pw.step + 1))) fun p => { p with downFor := some (hot, now s) }

/-- CCLK_STEP_DOWN (R508): a die stack has held THR at 8 for 1.00 ms, or at 12 for 10.0 ms while a step is pinned. THR at 8 for power sets
CAP_LIM though a pinned step stays (R516). -/
def execCclkStepDown (d : Die) (s : State) : Ans :=
  if !dieUp s d.val || decide ((tokOf s d.val).thr.toNat < 8) then .next s
  else if s.pw.pinned && decide ((tokOf s d.val).thr.toNat < 12) then .next (capLim s)
  else .next (lowerStep (capLim s) false lower)

/-- Whether the draw at the next faster step fits every allowance. -/
def fitsFaster (s : State) : Bool :=
  (upDies s).all fun d => (tokOf s d).thr = 0 &&
    decide ((tokOf s d).draw.toNat * stepMHz (s.pw.step - 1) ≤ allowance (tokOf s d) * stepMHz s.pw.step)

/-- CCLK_STEP_UP (R508). -/
def execCclkStepUp (s : State) : Ans :=
  if !s.pw.pinned && decide (0 < s.pw.step) && fitsFaster s then .next (fire (setPw s fun p => { p with step := p.step - 1, downFor := none }) 702) else .next s

/-- The junction temperature of a die noted. -/
def setTj (s : State) (d : Nat) (tj : BitVec 8) : State := updTok s d fun t => { t with tj := tj }

/-- JUNCTION_HOT (R509): THERM_LIM, and THR as for a draw above the allowance. -/
def execJunctionHot (d : Die) (tj : BitVec 8) (s : State) : Ans :=
  let s := setTj s d.val tj
  if 95 ≤ tj.toNat then .next (thermLim (updTok s d.val thrUp)) else .next s

/-- JUNCTION_HOT_HOLD (R509). -/
def execJunctionHotHold (d : Die) (s : State) : Ans :=
  if 95 ≤ (tokOf s d.val).tj.toNat then .next (lowerStep (thermLim s) true lowerHot) else .next s

/-- JUNCTION_CRITICAL (R509): step 3. -/
def execJunctionCritical (d : Die) (tj : BitVec 8) (s : State) : Ans :=
  let s := setTj s d.val tj
  if 100 ≤ tj.toNat then .next (lowerHot (thermLim s) 3) else .next s

/-- COOLANT_INLET_HIGH (R509): COOL_WARN and source 699; the cap in force is derated. -/
def execCoolantInletHigh (tenths : BitVec 12) (s : State) : Ans :=
  let s := reCap (setPw s fun p => { p with coolIn := tenths })
  if 400 < tenths.toNat then .next (fire (setPw s fun p => { p with coolWarn := true }) 699) else .next s

/-- One CLOCK_PIN takes effect (R428). -/
def applyClock (s : State) (c : Nat × Bool × JobRef) : State :=
  let n := if c.1 = 0xFF then s.pw.step else c.1
  let moved := n ≠ s.pw.step
  let s := if c.2.1 && !s.pw.repro then freeLenders (recallAll s) else s
  let s := setPw s fun p => { p with step := n, pinned := c.1 ≠ 0xFF, pinStep := if c.1 = 0xFF then p.pinStep else c.1, repro := c.2.1 }
  finish (if moved then fire s 702 else s) c.2.2 .ok 0

/-- No running command ran reproducibly any more (R431). -/
def dropRepro (s : State) : State := { s with cp := { s.cp with jobs := s.cp.jobs.map fun p => (p.1, { p.2 with repro := false }) } }

/-- The clock settings that wait for a pass boundary: a deferred lowering ends reproducible mode (R430), then CLOCK_PIN in order. -/
def clockBoundary (s : State) : State :=
  let was := s.pw.repro
  let s := match s.pw.lowerPend with
    | some n =>
      let s := setPw s fun p => { p with lowerPend := none }
      if s.pw.repro then
        let s := stepTo s (max n s.pw.step)
        fire (setPw s fun p => { p with repro := false, pinned := true, pinStep := p.step }) 701
      else s
    | none => s
  let s := s.pw.clockPend.foldl applyClock (setPw s fun p => { p with clockPend := [] })
  if was && !s.pw.repro then dropRepro s else s

/-! ### POWER_POLICY, CLOCK_PIN, TIME_TAG -/

/-- POWER_POLICY (R358, R500, R506). -/
def runPowerPolicy (j : JobRef) (e : Bytes) (s : State) : State :=
  let cap := leAt e 16 2
  checkThen (firstFail [((cap ≠ 0 && (decide (cap < 1200) || decide (3200 < cap))) || decide (2 < byteN e 18), .lenRange)]) j (fun s =>
    let s := freeLenders (recallAll s)
    let s := reCap (setPw s fun p => { p with
      policyCap := if cap = 0 then p.policyCap else cap
      borrow := if byteN e 18 = 2 then p.borrow else byteN e 18 = 1 })
    finish s j .ok (BitVec.ofNat 64 s.pw.cap)) s

/-- POWER_POLICY (R500). -/
def execPowerPolicy (st : Stream) (s : State) : Ans := startEntry 0x8A st.val runPowerPolicy s

/-- CLOCK_PIN waits for the next pass boundary (R428). -/
def runClockPin (j : JobRef) (e : Bytes) (s : State) : State :=
  let n := byteN e 16
  checkThen (firstFail [((decide (3 < n) && n ≠ 0xFF) || decide (1 < byteN e 17) || (byteN e 17 = 1 && n = 0xFF), .lenRange)]) j (fun s =>
    setPw (setBody s j (.ctl .clock)) fun p => { p with clockPend := p.clockPend ++ [(n, decide (byteN e 17 = 1), j)] }) s

/-- CLOCK_PIN (R428). -/
def execClockPin (st : Stream) (s : State) : Ans := startEntry 0x8B st.val runClockPin s

/-- TIME_TAG (R513). -/
def runTimeTag (j : JobRef) (e : Bytes) (s : State) : State :=
  finish (setPw s fun p => { p with tt := p.tt.set p.ttNext ⟨param64 e 24, now s⟩, ttNext := (p.ttNext + 1) % 16 }) j .ok (now s)

/-- TIME_TAG (R513). -/
def execTimeTag (st : Stream) (s : State) : Ans := startEntry 0x96 st.val runTimeTag s

/-- PWR_COUNTS.CNT_CLR (R516). -/
def execPwrCountsCntClr (s : State) : Ans := gate (blockOn s) s <| .next (setPw s fun p => { p with collCnt := 0, stepDn := 0, loans := 0 })

end Sys2Proof.Machine
end

