-- ==== Sys2Proof/Machine/Passes.lean ====
section
/-!
DEFINITION. Pass boundaries and launches (R171, R188, R190, R217, R218, R542), WSET_SWITCH (R216), RING_CONFIG (R135, R358),
and the ways of the die cache (R134).
-/

namespace Sys2Proof.Machine

/-- Slots, sequences and passes changed by `f`. -/
def setMd (s : State) (f : Models → Models) : State := { s with md := f s.md }

/-- The epoch machinery changed by `f`. -/
def setEpoch (s : State) (f : Epoch → Epoch) : State := setMd s fun m => { m with epoch := f m.epoch }

/-! ### The end of a pass -/

/-- A prefill pass that was not the last one has written 2,048 more positions. -/
def advancePrefill (s : State) (ra : W64) : State :=
  match seqOf s ra with
  | some q =>
    if q.prefilling then updSeq (fillSeq s q q.filled (q.filled + 2048) false) ra fun x => { x with filled := x.filled + 2048 } else s
  | none => s

/-- Whether the running prefill pass holds its sequence's last rows and has not committed. -/
def prefillOpen (s : State) : Bool :=
  match s.md.pass.pre with
  | none => false
  | some ra =>
    match seqOf s ra, jobOfSeq s ra with
    | some q, some j => q.prefilling && decide (prefillLen s j ≤ q.filled + 2048)
    | _, _ => false

/-- Whether the running pass is over on every die in service, with every row of it committed. -/
def passOver (s : State) : Bool :=
  (upDies s).all (fun d => s.md.pass.done.contains d) && !(s.md.loops.any (·.running)) && !prefillOpen s

/-- Frames freed in the pass join their pools (R265). -/
def joinFreed (s : State) (slot : Option Nat) : State :=
  let mine := fun (f : Nat × List Nat) => match slot with | some k => f.1 / 8 = k | none => true
  setMd s fun m => { m with
    pools := (m.freed.filter mine).foldl (fun p f => Tbl.set p f.1 (Tbl.get p f.1 ++ f.2)) m.pools
    freed := m.freed.filter fun f => !mine f }

/-- Usable spare rows left in the SWS bank with the fewest. -/
def spareLeft (x : DieRegs) : Nat :=
  let left := fun (r : RowFix) => 64 - (x.rowMap.countP r.sameBank) -
    x.badSpares.countP fun b => b.1 = r.upper && b.2.1 = r.sector && b.2.2.1 = r.bank && !x.rowMap.any fun q => q.sameBank r && q.spare = b.2.2.2
  ((x.rowMap.map left) ++ x.badSpares.map fun b => left ⟨b.1, b.2.1, b.2.2.1, 0, 0⟩).foldl min 64

/-- SWS_STATUS.MAPPED and SPARE_MIN after a change of the row map. -/
def showRows (x : DieRegs) : DieRegs := { x with mapped := satInc 0 x.rowMap.length, spareMin := spareLeft x }

/-- The row map of a die with its pending rows in force. -/
def activateDie (x : DieRegs) : DieRegs :=
  let h := x.hbm.mapAll fun _ c => { c with rows := c.rows ++ c.rowPend, rowPend := [] }
  if x.mapPend.isEmpty then { x with hbm := h } else showRows { x with hbm := h, rowMap := x.rowMap ++ x.mapPend, mapPend := [] }

/-- The blocks of the rows of a die that wait for their switch. -/
def pendBlocks (d : Nat) (x : DieRegs) : List Nat :=
  x.mapPend.flatMap (swsRowBlocks d) ++ x.hbm.flatMap fun c => c.2.rowPend.flatMap fun id => hbmRowBlocks d (hbmRowAddr id)

/-- Rows copied to a spare come into force (R147, R259): what was wrong with the old row is met no more. -/
def activateRows (s : State) : State :=
  let bs := s.dies.flatMap fun p => pendBlocks p.1 p.2
  { s with
    dies := s.dies.mapAll fun _ x => activateDie x
    mem := { s.mem with ecc := s.mem.ecc.filter fun e => !bs.contains e.1 } }

/-- Whether a sequence has rows in the running pass. -/
def inPass (s : State) (q : Seq) : Bool :=
  let p := s.md.pass
  match p.pre with
  | some ra => q.ra = ra
  | none => q.slot = p.slot && q.gen = p.gen && q.parked.isNone && !q.prefilling && s.md.loops.any fun l => l.ra = q.ra

/-- The running pass ends on every die (R172, R173). -/
def endPass (s : State) : State :=
  if s.md.pass.running then
    let s := setMd s fun m => { m with seqs := m.seqs.map fun q => if inPass s q then { q with lastRun := now s } else q }
    let s := match s.md.pass.pre with | some ra => advancePrefill s ra | none => s
    let slot := s.md.pass.slot
    let s := updSlot (stopPass s) slot fun x => { x with lastGen := some s.md.pass.gen }
    joinFreed (setMd s fun m => { m with pass := { m.pass with pre := none } }) (some slot)
  else joinFreed s none

/-! ### Weight-set switches (R214 to R217) -/

/-- Whether a sequence is pinned to a generation of a slot. -/
def pinnedTo (s : State) (slot : Nat) (g : BitVec 16) : Bool := s.md.seqs.any fun q => q.slot = slot && q.gen = g

/-- A sequence after a switch of its slot to `g`: pinned to `g`, its pending re-pin is cancelled; pinned to the former serving
generation, MIGRATE re-pins it at its next token boundary. -/
def repinFor (slot : Nat) (g : BitVec 16) (former : Option (BitVec 16)) (policy : Nat) (q : Seq) : Seq :=
  if q.slot ≠ slot then q
  else if q.gen = g then { q with repin := none }
  else if some q.gen = former ∧ policy = 1 then { q with repin := some g }
  else q

/-- Generation `g` becomes serving; the former one drains; re-pins of an earlier switch toward it are cancelled. -/
def serve (s : State) (slot : Nat) (g : BitVec 16) (policy : Nat) : State :=
  let former := (s.md.slots.get slot).serving
  let s := addRef s slot g
  let s := updSlot s slot fun x => { x with serving := some g, draining := former }
  let s := setMd s fun m => { m with seqs := m.seqs.map (repinFor slot g former policy) }
  match former with
  | some f => dropRef s slot f
  | none => s

/-- One switch takes effect at a pass boundary (R216, R217). -/
def applySwitch (slot : Nat) (s : State) (w : Switch) : State :=
  let x := s.md.slots.get slot
  let busy := match x.serving with | some f => pinnedTo s slot f | none => false
  if (genOf s slot w.gen).isNone then finish s w.job .genRetired 0
  else if x.serving = some w.gen then finish s w.job .ok 0
  else if w.policy = 2 && busy then finish s w.job .busy 0
  else finish (serve s slot w.gen w.policy) w.job .ok 0

/-- Whether a generation's weights are on the module: it is not in the host tier (R274), and neither is its base. -/
def atHand (s : State) (g : Gen) : Bool :=
  g.window.isNone && ((g.base.bind fun b => genOf s b.1 b.2).bind (·.window)).isNone

/-- Whether a switch can take effect: its generation is not in the host tier (R274). -/
def switchReady (s : State) (slot : Nat) (w : Switch) : Bool :=
  match genOf s slot w.gen with | some g => atHand s g | none => true

/-- The switches of a slot that can take effect do so in order; one whose generation is in the host tier waits, and those after it. -/
def slotSwitches (s : State) (slot : Nat) : State :=
  let ws := (s.md.slots.get slot).switches
  let now := ws.takeWhile (switchReady s slot)
  now.foldl (applySwitch slot) (updSlot s slot fun x => { x with switches := ws.drop now.length })

/-- Every switch that waits. -/
def switchesDue (s : State) : State := (List.range 8).foldl slotSwitches s

/-- Whether `g` follows `n` in serial-number arithmetic (R515). -/
def follows (g n : BitVec 16) : Bool := let d := (g - n).toNat; 1 ≤ d && d < 32768

/-- The checks of WSET_SWITCH before it is scheduled (R216). -/
def checkSwitch (s : State) (e : Bytes) : Option Status :=
  let x := s.md.slots.get (byteN e 16)
  let g := BitVec.ofNat 16 (leAt e 18 2)
  firstFail [
    (7 < byteN e 16 || 2 < byteN e 20, .lenRange),
    (x.gens.isEmpty, .notReady),
    (!x.issued || follows g x.newest, .notReady),
    ((genOf s (byteN e 16) g).isNone, .genRetired)]

/-- WSET_SWITCH: a generation that serves already completes at once, another waits for the pass boundary. -/
def runWsetSwitch (j : JobRef) (e : Bytes) (s : State) : State :=
  checkThen (checkSwitch s e) j (fun s =>
    let slot := byteN e 16
    let g := BitVec.ofNat 16 (leAt e 18 2)
    let x := s.md.slots.get slot
    if x.serving = some g then finish s j .ok 0
    else updSlot (setBody s j (.ctl (.switch slot))) slot fun x => { x with switches := x.switches ++ [⟨g, byteN e 20, j⟩] }) s

/-- WSET_SWITCH (R216). -/
def execWsetSwitch (st : Stream) (s : State) : Ans := startEntry 0x85 st.val runWsetSwitch s

/-! ### RING_CONFIG and the die-cache ways (R134, R135, R358) -/

/-- The 4 KiB blocks of the staging reserve beyond `n` ways that hold a byte or a mark: live staging data. -/
def liveStaging (s : State) (n d : Nat) : List Nat :=
  let keys : List Nat := s.mem.mod.map (fun c => c.1) ++ (s.mem.pois.filter fun c => c.2).map fun c => 64 * c.1
  ((keys.filter fun k => k / 2 ^ 48 = d && regionOf (s.dies.get d).stageWays (k % 2 ^ 48) = .staging && decide ((stagePlace (k % 2 ^ 48)).2 < 8 - n)).map
    (· / 4096)).eraseDups

/-- A block of staging data moved to the next tier, the staging region of the die stack's SWS (R269): to a place there that the spec
leaves open. -/
def spillBlock (d : Nat) (s : State) (b : Nat) : State :=
  let n := Config.freePick s.free 32 % 32
  let lo := residentEnd s d n
  let room := (sectorLen - lo) / 4096
  let to_ := swsBase + n * sectorLen + lo + 4096 * (Config.freePick (s.free + 1) room % max 1 room)
  let s := eccAt s (4096 * b) 4096
  storeMod { s with free := s.free + 2 } (dieKey d to_) (loadMod s (4096 * b) 4096)

/-- The staging ways of a die: before a lowering, live staging data beyond them moves on (R135). -/
def setStage (s : State) (n d : Nat) : State :=
  let s := if n < (s.dies.get d).stageWays then (liveStaging s n d).foldl (spillBlock d) s else s
  let lo := dieKey d (stageBase + n * 0x400000)
  let hi := dieKey d (stageBase + 0x1000000)
  let s := { s with mem := { s.mem with mod := Tbl.clear s.mem.mod lo hi, pois := s.mem.pois.clear (lo / 64) (hi / 64), ecc := s.mem.ecc.clear (lo / 64) (hi / 64) } }
  setWays s d fun x => { x with stageWays := n }

/-- A STAGE_LIMIT that waits takes effect on every die. -/
def stageDue (s : State) : State :=
  match s.md.stagePend with
  | none => s
  | some (n, j) =>
    let s := (List.range 8).foldl (fun s d => setStage s n d) (setMd s fun m => { m with stageLimit := n, stagePend := none })
    finish s j .ok 0

/-- The opcodes of exclusive commands (R359); RING_CONFIG is one with OP 1. -/
def isExclusive (e : Bytes) : Bool :=
  [0x8F, 0x90, 0x8D, 0x88, 0x89, 0x91].contains (entryOpc e) || (entryOpc e = 0x87 && byteN e 16 = 1)

/-- Whether another exclusive command runs. -/
def exclusiveRuns (s : State) (j : JobRef) : Bool := s.cp.jobs.any fun p => p.1 ≠ j && isExclusive p.2.entry

/-- An exclusive command that finds another one running completes with BUSY (R359). -/
def exclusively (j : JobRef) (run : State → State) (s : State) : State := if exclusiveRuns s j then finish s j .busy 0 else run s

/-- What RING_CONFIG QUERY reports: the epoch, the topology, the retired die and the stage limit, in this order (R358). -/
def ringReport (s : State) : Bytes :=
  leBytes 4 s.md.epoch.num.toNat ++ leBytes 1 (b2n s.md.epoch.line.isSome) ++ leBytes 1 (s.md.epoch.line.getD 0xFF) ++ leBytes 1 s.md.stageLimit

/-- The checks of RING_CONFIG. -/
def checkRingConfig (s : State) (e : Bytes) : Option Status :=
  let op := byteN e 16
  firstFail [
    (1 < op || (op = 0 && (decide (entryLen e < 256) || decide (4096 < entryLen e))) || (op = 1 && decide (4 < byteN e 17)), .lenRange),
    (op = 0 && (reach s (entryAddrW e) (entryLen e) true).isSome, (reach s (entryAddrW e) (entryLen e) true).getD .addrRange)]

/-- RING_CONFIG: the report at once, or the limit at the next pass boundary. -/
def runRingConfig (j : JobRef) (e : Bytes) (s : State) : State :=
  checkThen (checkRingConfig s e) j (fun s =>
    if byteN e 16 = 0 then finish (writeWord s (entryAddrW e) (bytesAt (ringReport s) 0 (entryLen e))) j .ok 0
    else exclusively j (fun s => setMd (setBody s j (.ctl .stage)) fun m => { m with stagePend := some (byteN e 17, j) }) s) s

/-- RING_CONFIG (R358). -/
def execRingConfig (st : Stream) (s : State) : Ans := startEntry 0x87 st.val runRingConfig s

/-! ### The next pass -/

/-- What a pass may run: slot, generation, and the record of a prefill pass. -/
structure Cand where
  slot : Nat
  gen : BitVec 16
  pre : Option W64
  deriving DecidableEq, Repr, Inhabited

/-- Whether a sequence of a slot may run in a pass; decode loops that a DETACH_PREPARE hands over start none (R469). -/
def seqRuns (s : State) (slot : Nat) (g : BitVec 16) (q : Seq) : Bool :=
  q.slot = slot && q.gen = g && q.parked.isNone && (q.prefilling || (!s.lk.handing && s.md.loops.any fun l => l.ra = q.ra))

/-- Whether a running kernel satisfies `p`. -/
def anyKernel (s : State) (p : KernelRun → Bool) : Bool := s.cp.jobs.any fun j => match kernelOf j.2 with | some k => p k | none => false

/-- Whether a slot runs a backward pass: a running backward-pass kernel names it (R205). -/
def runsBackward (s : State) (slot : Nat) : Bool := anyKernel s fun k => k.back && k.stream = some slot

/-- Whether a generation is what a kernel streams that a slot in sweep mode runs for itself, as fine-tuning does: the serving one (R377). -/
def streamed (s : State) (slot : Nat) (g : BitVec 16) : Bool :=
  (s.md.slots.get slot).mode = 1 && (s.md.slots.get slot).serving = some g && anyKernel s fun k => k.stream = some slot

/-- The generations of a slot with runnable rows (R218). -/
def runGens (s : State) (slot : Nat) : List (BitVec 16) :=
  ((s.md.slots.get slot).gens.filter fun g => g.whole && atHand s g && (s.md.seqs.any (seqRuns s slot g.num) || streamed s slot g.num)).map (·.num)

/-- The generation whose turn it is: passes alternate between two generations (R218). -/
def turnGen (x : Slot) (l : List (BitVec 16)) : Option (BitVec 16) :=
  match l.find? fun g => some g ≠ x.lastGen with
  | some g => some g
  | none => l.head?

/-- What a slot would run next: a prefill pass unless the last pass was one and decode rows wait (R542). -/
def slotCand (s : State) (slot : Nat) : Option Cand :=
  let x := s.md.slots.get slot
  if x.mode = 0 ∨ x.settling ∨ x.frozen then none
  else
    (turnGen x (runGens s slot)).map fun g =>
      let mine := s.md.seqs.filter (seqRuns s slot g)
      let pre := (mine.find? (·.prefilling)).map (·.ra)
      let dec := mine.any fun q => !q.prefilling
      ⟨slot, g, if dec && (x.lastPrefill || pre.isNone) then none else pre⟩

/-- The candidates of all slots. -/
def candidates (s : State) : List Cand := (List.range 8).filterMap (slotCand s)

/-- Whether passes may start: no epoch change, no takeover waiting (R466), no audit hold, no die or arc on its way back, and work goes on (R22, R168, R174, R492). -/
def mayLaunch (s : State) : Bool :=
  s.md.epoch.phase = .none && s.lk.twin ≠ .takeover && !s.flt.audBusy && s.glb.dieResets.isEmpty && !(s.arcs.any fun a => a.2.st = 1) && !stopped s

/-- A ring engine at the start of a pass: its progress starts anew; quotas change between forward and backward passes (R166). -/
def startRing (full : Option (Tbl Nat)) (r : RingDir) : RingDir := { freshRing (full.getD r.credits) with buf := r.buf }

/-- Every die at the start of a pass; what its buffers hold for it becomes eligible (R172). -/
def startDies (s : State) (turn : Bool) : State :=
  let line := s.md.epoch.line.isSome
  let p := s.md.pass
  let s := (upDies s).foldl (fun s d =>
    let full := fun dir => if turn && sweepOn s && (nextDie s d dir).isSome then some (quotas line p.bwd dir) else none
    updDie s d fun x => { x with
      east := startRing (full .east) x.east
      west := startRing (full .west) x.west
      pass := p.num, passGen := p.gen, bwd := p.bwd, passDone := false, taken := 0, xruns := [], xwaits := [], xkept := [] }) s
  if p.mode = 1 then (upDies s).foldl (fun s d => takeHeld (takeHeld s d .east) d .west) s else s

/-- Nodes of the tree that a loop's sequence may run in the pass. -/
def treeRows (s : State) (l : DLoop) (q : Seq) : Nat :=
  let r := recBytes s l.ra
  (tmplLevels (passTmpl s l.ra q.tmpl) (ctxLimit (infoOf s q.slot q.gen) r - 1 - recCommitted r)).foldl (· + ·) 0

/-- The activation rows of the running pass, and the most positions that one of its rows attends (R190, R201). -/
def passRows (s : State) : Nat × Nat :=
  match s.md.pass.pre with
  | some ra =>
    match seqOf s ra, jobOfSeq s ra with
    | some q, some j => let n := min 2048 (prefillLen s j - q.filled); (n, q.filled + n)
    | _, _ => (0, 0)
  | none =>
    let l := (passLoops s).map fun p => (treeRows s p.1 p.2, recCommitted (recBytes s p.1.ra))
    ((l.map (·.1)).foldl (· + ·) 0, (l.map fun x => x.1 + x.2).foldl max 0)

/-- Bytes of one divided head's field in a score exchange of the running pass (R201). -/
def scoreLen (s : State) : Nat := 4 * s.md.pass.rows * s.md.pass.span

/-- The destination buffers of the running pass's score exchanges, from the slot's KV pools (R197, R201); every layer uses the same ones.
None where a pool lacks room. -/
def takeScore (s : State) : Option State :=
  let p := s.md.pass
  (upDies s).foldl (fun r d => r.bind fun s =>
    let n := ceilDiv (scoreLen s * (dividedOn s (infoOf s p.slot p.gen) d).length) 4096
    if n = 0 then some s
    else (takeRuns 1 n (poolOf s p.slot d)).map fun x => setMd (setPool s p.slot d x.2) fun m => { m with pass := { m.pass with score := m.pass.score.set d x.1 } }) (some s)

/-- Whether a candidate's pass is a backward one: gradients return only in sweep (R204). -/
def Cand.bwd (c : Cand) (s : State) : Bool := runsBackward s c.slot && (s.md.slots.get c.slot).mode = 1

/-- The pass of a candidate, numbered one above the last one. -/
def passOf (s : State) (c : Cand) : Pass :=
  let x := s.md.slots.get c.slot
  { num := s.md.pass.num + 1, running := true, slot := c.slot, gen := c.gen, prevGen := x.lastGen.getD c.gen, mode := x.mode
    bwd := c.bwd s, pre := c.pre, done := [] }

/-- That pass with its rows counted, in force. -/
def withPass (s : State) (c : Cand) : State :=
  let t := setMd s fun m => { m with pass := passOf s c }
  setMd t fun m => { m with pass := { m.pass with rows := (passRows t).1, span := (passRows t).2 } }

/-- A pass starts (R171, R173). A moored pass has every destination buffer before it begins, and holds its reference from then on; one
for which a pool lacks the room does not start (log entry 166). -/
def launch (s : State) (c : Cand) : State :=
  let t := withPass s c
  let go := fun t => startDies (updSlot t c.slot fun x => { x with lastPrefill := c.pre.isSome }) (t.md.pass.bwd != s.md.pass.bwd)
  if t.md.pass.mode = 2 then (match takeScore t with | some t => go (takePassRef t) | none => s) else go t

/-- Whether a candidate can start: the turn between forward and backward passes waits until every credit is home (R166, R168). -/
def mayStart (s : State) (c : Cand) : Bool :=
  c.bwd s = s.md.pass.bwd || (quiet s && (upDies s).all fun d => (s.dies.get d).east.buf.isEmpty && (s.dies.get d).west.buf.isEmpty)

/-- The next pass: which slot's runs, where several could, the spec leaves open. -/
def launchNext (s : State) : State :=
  if !mayLaunch s then s
  else
    match (candidates s).filter (mayStart s) with
    | [] => s
    | [c] => launch s c
    | c :: r => launch { s with free := s.free + 1 } (((c :: r)[Config.freePick s.free (r.length + 1)]?).getD c)

/-- An epoch change starts where a request waits and no pass runs (R206, R207): the waiting requests are combined. -/
def proposeWaiting (s : State) : State :=
  if s.md.epoch.phase = .none ∧ s.md.epoch.waiting ≠ [] then
    setEpoch s fun e => { e with phase := .proposed, reqs := e.waiting, waiting := [], prepared := [], refused := [], committed := [], reverted := [], auditFailed := false }
  else s

/-- What takes effect at a boundary outside an epoch change: switches, the stage limit, clock settings, ends of loops and
releases; then the next pass. -/
def boundaryWork (s : State) : State :=
  if s.md.epoch.phase = .none then launchNext (releasesDue (loopsDue (clockBoundary (stageDue (switchesDue s))))) else s

/-- PASS_BOUNDARY (R217, R244): enabled while no pass runs, or the running one is over. -/
def execPassBoundary (s : State) : Ans :=
  if s.md.pass.running && !passOver s then .next s
  else .next (boundaryWork (proposeWaiting (endAbort (endCommit (seatAll (activateRows (endPass s)))))))

end Sys2Proof.Machine
end

