-- ==== Sys2Proof/Machine/Audit.lean ====
section
/-!
DEFINITION. The conservation audit (R168, R215, R423, R485 to R488): its sums, and what a failed sum does.
-/

namespace Sys2Proof.Machine

/-- One sum compared. -/
def auditSum (qty expect found : Nat) (die slot : Option Nat) : List AuditFail := if expect = found then [] else [⟨qty, expect, found, die, slot⟩]

/-- Slots of a receive buffer that hold frames of a ledger entry. -/
def occupied (r : RingDir) (key : Nat) : Nat := r.buf.countP fun b => ledgerKey b.f.hdr = key

/-- Sweep credits (QTY 1). -/
def auditCredits (s : State) : List AuditFail :=
  if sweepOn s then
    (upDies s).flatMap fun d => [Dir.east, Dir.west].flatMap fun dir =>
      match nextDie s d dir with
      | none => []
      | some n => (quotas s.md.epoch.line.isSome s.md.pass.bwd dir).flatMap fun q =>
        auditSum 1 q.2 ((ringOf (s.dies.get d) dir).credits.get q.1 + occupied (ringOf (s.dies.get n) dir) q.1) (some n) none
  else []

/-- Frames of a slot's sequences on a die, freed ones that have not joined their pool and those of a score exchange among them. -/
def framesHeld (s : State) (k d : Nat) : Nat :=
  ((s.md.seqs.filter fun q => q.slot = k).map fun q =>
    let x := q.dies.get d
    if x.heads.isEmpty then 0 else (seqDieFrames s (infoOf s q.slot q.gen) d x).length).foldl (· + ·) 0 +
    ((s.md.freed.filter fun f => f.1 = poolKey k d).map (·.2.length)).foldl (· + ·) 0 +
    (if s.md.pass.slot = k then (s.md.pass.score.get d).length else 0)

/-- Buffer bytes of the KV pools of a die (QTY 2), in frames of 4 KiB. -/
def auditPools (s : State) (d : Nat) : List AuditFail :=
  (List.range 8).flatMap fun k =>
    auditSum 2 (4096 * (s.md.poolSet.get (poolKey k d)).length) (4096 * ((poolOf s k d).length + framesHeld s k d)) (some d) none

/-- Semaphore tokens of every tile of a die (QTY 3). -/
def auditSems (s : State) (d : Nat) : List AuditFail :=
  s.tiles.flatMap fun t => if t.1 / 32 = d then auditSum 3 (t.2.sigSum - t.2.decSum).toNat (semTotal t.2 % 2 ^ 32) (some d) none else []

/-- The sums that a die takes itself (R209). -/
def dieSums (s : State) (d : Nat) : List AuditFail := auditPools s d ++ auditSems s d

/-- The references that a generation should hold (R215, R281). -/
def refsExpected (s : State) (k : Nat) (g : Gen) : Nat :=
  (s.md.seqs.countP fun q => q.slot = k && q.gen = g.num) + g.inFlight + b2n ((s.md.slots.get k).serving = some g.num) +
    ((s.md.slots.map fun x => x.2.gens.countP fun y => y.base = some (k, g.num)).foldl (· + ·) 0)

/-- Generation references (QTY 4). -/
def auditRefs (s : State) : List AuditFail :=
  s.md.slots.flatMap fun k => k.2.gens.flatMap fun g => auditSum 4 (refsExpected s k.1 g) g.refs none (some k.1)

/-- The die stack whose grant lies outside its range. -/
def badGrant (s : State) : Option Nat := (upDies s).find? fun d => (tokOf s d).held < 120 || decide (310 < (tokOf s d).held)

/-- Power tokens (QTY 5). -/
def auditPower (s : State) : List AuditFail :=
  let held := ((upDies s).map fun d => (tokOf s d).held - (tokOf s d).lent).foldl (· + ·) 0
  let lent := ((upDies s).map fun d => (tokOf s d).borrowed).foldl (· + ·) 0
  auditSum 5 s.pw.cap (s.pw.pool + held + lent) (badGrant s) none

/-- The die of an event source's unit (R413): tiles and engines, and the die sources; none for the ICD. -/
def srcDie (n : Nat) : Option Nat :=
  if n < 512 then some (n % 256 / 32) else if n < 640 then some ((n - 512) / 16) else if n < 656 then some ((n - 640) / 2) else none

/-- Event fire counts (QTY 6, R423). -/
def auditFires (s : State) : List AuditFail :=
  s.evr.srcs.flatMap fun x =>
    auditSum 6 ((x.2.records + x.2.merged + x.2.cleared + b2n x.2.pend + 65536 - x.2.pendBefore) % 65536) x.2.fire.toNat (srcDie x.1) none

/-- Every sum that fails, given what each die in service finds: credits, the dies' own sums, and the module's. -/
def auditWith (s : State) (own : Nat → List AuditFail) : List AuditFail :=
  auditCredits s ++ (upDies s).flatMap own ++ auditRefs s ++ auditPower s ++ auditFires s

/-- Every sum that fails now. -/
def auditAll (s : State) : List AuditFail := auditWith s (dieSums s)

/-- A failed sum: its record, FAIL, and the quarantine or the hold (R488). -/
def auditFailed (s : State) (x : AuditFail) : State :=
  let s := flog s { kind := 5, qty := x.qty, expect := BitVec.ofNat 64 x.expect, found := BitVec.ofNat 64 x.found, status := .conservation }
  let s := { s with flt := { s.flt with audFail := true, audQty := BitVec.ofNat 3 x.qty } }
  match x.die, x.slot with
  | some d, _ => quarantine s d
  | none, some k => updSlot s k fun y => { y with frozen := true }
  | none, none => s

/-- AUDIT_REQUEST (R487): ignored while an audit is pending or running. -/
def execAuditRequest (s : State) : Ans := gate (blockOn s) s <| .next { s with flt := { s.flt with audBusy := true } }

/-- CONSERVATION_AUDIT (R487): enabled at a quiet point between passes while an audit is requested; source 707 fires at its end. -/
def execConservationAudit (s : State) : Ans :=
  if s.flt.audBusy && !s.md.pass.running && quiet s then
    let s1 := (auditAll s).foldl auditFailed s
    .next (fire { s1 with flt := { s1.flt with audBusy := false, audits := s1.flt.audits + 1 } } 707)
  else .next s

end Sys2Proof.Machine
end

