-- ==== Sys2Proof/Machine/Governor.lean ====
section
/-!
DEFINITION. The mode governor (R202 to R205): what it gathers for a slot, its estimates of the two modes' pass times (R170, R200, R203),
and the rules by which it proposes a mode. Times are in picoseconds, rounded down at each step (log entry 169).
-/

namespace Sys2Proof.Machine

/-! ### What is gathered (R202) -/

/-- The generations of a slot whose passes are estimated together: those with runnable rows, else the serving one (R218). -/
def govGens (s : State) (k : Nat) : List Gen :=
  match (runGens s k).filterMap (genOf s k) with
  | [] => (servingGen s k).toList
  | l => l

/-- Runnable sequences of a generation: each has one row that emits a token. -/
def runnable (s : State) (k : Nat) (g : BitVec 16) : Nat := s.md.seqs.countP (seqRuns s k g)

/-- Runnable rows per die of a generation. -/
def rowsPerDie (s : State) (k : Nat) (g : BitVec 16) : Nat := ceilDiv (runnable s k g) (max 1 (upDies s).length)

/-- KV-head copies that moored mode holds of a model (R191). -/
def headCopies (s : State) (m : ModelInfo) : Nat := ((upDies s).map fun d => (kvHeadsOn s m 2 0 d).length).foldl (· + ·) 0

/-- KV bytes of a slot's live sequences on a die, from their page tables. -/
def kvOnDie (s : State) (k d : Nat) : Nat :=
  ((s.md.seqs.filter fun q => q.slot = k && q.parked.isNone).map fun q =>
    let m := infoOf s k q.gen
    (pagesOf s m d (q.dies.get d)).length * pageBytes m).foldl (· + ·) 0

/-- KV_die: the most that a die holds. -/
def kvPerDie (s : State) (k : Nat) : Nat := ((upDies s).map (kvOnDie s k)).foldl max 0

/-- HBM3 of a die that a slot's KV may take: outside weights, pools and retired pseudo-channels, and free in its own pool. -/
def freeHbm (s : State) (k d : Nat) : Nat :=
  let gone := ((List.range 4).map fun c => popcount 32 ((s.dies.get d).hbm.get c).pcRetired.toNat).foldl (· + ·) 0
  0x17C0000000 - gone * 0x30000000 - 4096 * (usedFrames s d).length + 4096 * (poolOf s k d).length

/-- The least of any die in service. -/
def freeHbmMin (s : State) (k : Nat) : Nat :=
  match (upDies s).map (freeHbm s k) with
  | [] => 0
  | a :: l => l.foldl min a

/-! ### Times -/

/-- Columns of a tensor in the home shard of a die, and groups of 128 weights of it there. -/
def shardGroups (cut : Option Nat) (d : Nat) (t : Tensor) : Nat := ((shardCols cut d t).2 - (shardCols cut d t).1) * ceilDiv t.rows 128

/-- Stored bytes of a layer's share on a die: of the weights, and of a delta generation's deltas. -/
def layerBytes (g : Gen) (d layer : Nat) : Nat × Nat :=
  g.info.tensors.zipIdx.foldl (fun r t =>
    if t.1.weight && t.1.layer = layer then
      let n := shardGroups g.cut d t.1
      (r.1 + n * groupBytes t.1.fmt, r.2 + if g.base.isSome && (deltaOf g t.2).isSome then 34 * n else 0)
    else r) (0, 0)

/-- T_w of a layer on a die (R203): 40 TB/s from SWS where resident, 3.28 TB/s otherwise; a delta generation's deltas come from HBM3 beside
a resident base. -/
def timeW (s : State) (g : Gen) (d layer : Nat) : Nat :=
  let b := match g.base with | none => g | some x => (genOf s x.1 x.2).getD default
  let n := layerBytes g d layer
  if (b.shards.get d).resident then max (n.1 / 40) (n.2 * 100 / 328) else (n.1 + n.2) * 100 / 328

/-- Operations of a die's arrays in a picosecond at step 0, by weight format (Module Architecture). -/
def arrayRate (fmt : Nat) : Nat := if groupBits fmt ≤ 4 then 5030 else if fmt = 1 then 629 else 2520

/-- Array time of `rows` rows on `n` groups of weights: fewer rows than fill a pass period take as long as those do (R79). -/
def timeOps (fmt rows n step : Nat) : Nat := 2 * max rows (if fmt = 1 then 8 else 16) * (128 * n) * 1200 / (arrayRate fmt * stepMHz step)

/-- T_c of a layer on a die. -/
def timeC (g : Gen) (d layer rows step : Nat) : Nat :=
  ((g.info.tensors.filter fun t => t.weight && t.layer = layer).map fun t => timeOps t.fmt rows (shardGroups g.cut d t) step).foldl (· + ·) 0

/-- Bytes of PLACE and of SUM fields that one die contributes to an exchange of the plan in a pass of `rows` rows (R192, R195): one slice and
one set of sums for each row, at most 1 MiB and 64 KiB. What becomes of rows beyond that the spec does not say (log entry 167). -/
def planPlace (p : XPlan) (rows : Nat) : Nat := min 0x100000 (rows * (p.cols * elemBytes p.fmt))
def planSum (p : XPlan) (rows : Nat) : Nat := min 0x10000 (rows * 4 * p.sums)

/-- Bytes of `n` payload bytes as packets. -/
def packetBytes (n : Nat) : Nat := n + 32 * ceilDiv n 4096

/-- The time of an exchange (R200): 49 cycles, 119 for each arc crossed, and the bytes on the most loaded arc direction at 16 TB/s, of which
other traffic takes a share in millionths. -/
def timeX (s : State) (n step busy : Nat) : Nat :=
  let ring := s.md.epoch.line.isNone
  (49 + (if ring then 4 else 6) * 119) * 1000000 / stepMHz step + (if ring then 4 else 6) * n * 1000000 / (16 * max 1 (1000000 - busy))

/-- T_x of a layer: its exchanges of the plan, and on the line its score exchange where a head is divided (R201). -/
def timeXs (s : State) (m : ModelInfo) (layer rows span step busy : Nat) : Nat :=
  let plan := (m.plan.filter fun p => p.layer = layer).map fun p => timeX s (packetBytes (planPlace p rows) + packetBytes (planSum p rows)) step busy
  let most := ((upDies s).map fun d => (dividedOn s m d).length).foldl max 0
  plan.foldl (· + ·) 0 + if most = 0 then 0 else timeX s (packetBytes (4 * rows * span * most)) step busy

/-- The most positions that a runnable sequence of a generation attends. -/
def spanOf (s : State) (k : Nat) (g : BitVec 16) : Nat :=
  ((s.md.seqs.filter (seqRuns s k g)).map fun q => recCommitted (recBytes s q.ra) + 64).foldl max 0

/-- The estimated time of a moored pass over `rows` rows (R203). -/
def timeMoored (s : State) (k : Nat) (g : Gen) (x : Measured) (rows : Nat) : Nat :=
  let m := g.info
  let worst := fun (f : Nat → Nat) => ((upDies s).map f).foldl max 0
  ((List.range m.layers).map fun l =>
    max (worst fun d => timeW s g d l) (worst fun d => timeC g d l rows x.stepMoored) + timeXs s m l rows (spanOf s k g.num) x.stepMoored x.arcBusy +
      x.tVec + x.tAttn * headCopies s m / max 1 m.kvHeads).foldl (· + ·) 0

/-- Bytes of a model's weights as they travel in sweep: one byte for each DELTA weight (R294). -/
def sentBytes (g : Gen) : Nat :=
  (g.info.tensors.zipIdx.map fun t =>
    if t.1.weight then t.1.cols * ceilDiv t.1.rows 128 * (if g.base.isSome && (deltaOf g t.2).isSome then 128 else groupBytes t.1.fmt) else 0).foldl (· + ·) 0

/-- The estimated time of a sweep pass (R170): array work, the larger HBM3 read of a ring engine, the most loaded arc direction, and what
cannot overlap. -/
def timeSweep (s : State) (k : Nat) (g : Gen) (x : Measured) : Nat :=
  let r := rowsPerDie s k g.num
  let ring := s.md.epoch.line.isNone
  let b := match g.base with | none => g | some y => (genOf s y.1 y.2).getD default
  let arr := ((g.info.tensors.filter (·.weight)).map fun t => timeOps t.fmt r (t.cols * ceilDiv t.rows 128) x.stepSweep).foldl (· + ·) 0
  let half := fun (d : Nat) (e : Bool) => halfLen b d e + if g.base.isSome then halfLen g d e else 0
  let hbm := ((upDies s).map fun d => if ring then max (half d true) (half d false) * 100 / 164 else (half d true + half d false) * 100 / 328).foldl max 0
  let buoys := 32 * 7 * (g.info.layers + 2)
  let pay := if ring then 7 * sentBytes g / 16 else 6 * sentBytes g / 7
  let arc := (pay * 4128 / 4096 + buoys) * 1000000 / (16 * max 1 (1000000 - x.arcBusy))
  max arr (max hbm arc) + x.tSer

/-- Tokens in a second from tokens in so many picoseconds. -/
def rateOf (tokens time : Nat) : Nat := if time = 0 then 0 else tokens * 1000000000000 / time

/-- The rates of the two modes (R203): a moored pass emits one token for each sequence, at most 2,048 rows to a pass; a sweep pass emits r
for every die. Generations that alternate share the time (R218). -/
def ratesFor (s : State) (k : Nat) (x : Measured) : Nat × Nat :=
  let gs := govGens s k
  let n := (gs.map fun g => runnable s k g.num).foldl (· + ·) 0
  let moored := (gs.map fun g =>
    let r := runnable s k g.num
    ceilDiv r 2048 * timeMoored s k g x (min r 2048)).foldl (· + ·) 0
  let sweep := (gs.map fun g => timeSweep s k g x).foldl (· + ·) 0
  (rateOf n moored, rateOf ((gs.map fun g => rowsPerDie s k g.num).foldl (· + ·) 0 * (upDies s).length) sweep)

/-- The settle time in microseconds (R213): 1.75 × KV_die ÷ 3.28 TB/s. -/
def settleTime (s : State) (k : Nat) : Nat := kvPerDie s k * 175 / 328 / 1000000

/-- Milliseconds since a slot's last epoch commit. -/
def sinceCommit (s : State) (k : Nat) : Nat := (now s - (s.md.slots.get k).lastCommit).toNat / 150000

/-- The estimates of one window. -/
def estimate (s : State) (k : Nat) (x : Measured) : Estimate where
  rowsPerDie := ((govGens s k).map fun g => rowsPerDie s k g.num).foldl (· + ·) 0
  rateMoored := (ratesFor s k x).1
  rateSweep := (ratesFor s k x).2
  rateNow := x.rateNow
  settleUs := settleTime s k
  sinceCommitMs := sinceCommit s k

/-! ### The rules (R204, R205) -/

/-- Whether an epoch change in progress or to come concerns a slot. -/
def slotRequested (s : State) (k : Nat) : Bool :=
  (s.md.epoch.reqs ++ s.md.epoch.waiting).any fun r => match r with | .mode i _ _ => i = k | _ => false

/-- A request waits for the next epoch (R206). -/
def askEpoch (s : State) (r : EpochReq) : State := setEpoch s fun e => { e with waiting := e.waiting ++ [r] }

/-- Whether the moored footprint of a slot would exceed the free HBM3 of a die stack (rule 3). -/
def tooBig (s : State) (k : Nat) : Bool :=
  let m := servedModel s k
  decide (freeHbmMin s k * m.kvHeads < kvPerDie s k * headCopies s m)

/-- The estimated rates of the current mode and of the other one. -/
def ratesOf (x : Slot) (est : Estimate) : Nat × Nat := if x.mode = 1 then (est.rateSweep, est.rateMoored) else (est.rateMoored, est.rateSweep)

/-- Beacon cycles of the dwell period of 200 ms. -/
def dwellTime : Nat := 200000 * 150

/-- Whether a slot's dwell period after an aborted proposal has passed (R205). -/
def dwelt (s : State) (x : Slot) : Bool := match x.dwell with | some t => decide (dwellTime ≤ (now s - t).toNat) | none => true

/-- Whether rule 4 proposes the other mode after `better` windows. -/
def worthMoving (x : Slot) (est : Estimate) (better : Nat) : Bool :=
  let r := ratesOf x est
  decide (4 ≤ better) && decide (200 ≤ est.sinceCommitMs) && decide (4 * r.1 * est.settleUs ≤ (r.2 - r.1) * 1000000)

/-- The mode that the governor proposes for a slot, in the order of R204; none while it waits a dwell period. -/
def proposal (s : State) (k : Nat) (x : Slot) (est : Estimate) (better : Nat) : Option Nat :=
  if pinOf s x ≠ 0 ∨ x.mode = 0 ∨ slotRequested s k ∨ s.pw.repro ∨ ¬ dwelt s x then none
  else if runsBackward s k then (if x.mode = 1 then none else some 1)
  else if x.mode = 1 ∧ tooBig s k then none
  else if est.rowsPerDie = 0 then none
  else if worthMoving x est better then some (3 - x.mode)
  else none

/-- Windows in a row in which the other mode's rate was at least 15 % better, with this one. -/
def betterNow (x : Slot) (est : Estimate) : Nat := if 115 * (ratesOf x est).1 ≤ 100 * (ratesOf x est).2 then x.better + 1 else 0

/-- GOVERNOR_EVALUATION (R204) of a slot over one window. -/
def execGovernorEvaluation (slot : Fin 8) (m : Measured) (s : State) : Ans :=
  let x := s.md.slots.get slot.val
  if (servingGen s slot.val).isNone then .next s
  else
    let est := estimate s slot.val m
    let better := betterNow x est
    let s1 := updSlot s slot.val fun y => { y with est := est, better := better }
    .next (match proposal s slot.val x est better with
      | some m => updSlot (askEpoch s1 (.mode slot.val m none)) slot.val fun y => { y with better := 0 }
      | none => s1)

end Sys2Proof.Machine
end

