-- ==== Sys2Proof/Machine/Epoch.lean ====
section
/-!
DEFINITION. Mode epochs (R206 to R212) with MODE_REQUEST (R205), the settle stage (R213), and the
heartbeat of the dies (R475).
-/

namespace Sys2Proof.Machine

/-! ### Requests -/

/-- The checks of MODE_REQUEST (R205). -/
def checkMode (s : State) (e : Bytes) : Option Status :=
  let x := s.md.slots.get (byteN e 16)
  firstFail [
    (7 < byteN e 16 || 2 < byteN e 17, .lenRange),
    (x.gens.isEmpty, .notReady),
    (byteN e 17 = 2 && runsBackward s (byteN e 16), .busy),
    (byteN e 17 = 1 && split s, .busy)]

/-- MODE_REQUEST: AUTO and a mode that the slot already runs in complete at once; another asks for an epoch. -/
def runModeRequest (j : JobRef) (e : Bytes) (s : State) : State :=
  checkThen (checkMode s e) j (fun s =>
    let k := byteN e 16
    let m := byteN e 17
    if m = 0 ∨ ((s.md.slots.get k).mode = m ∧ ¬ slotRequested s k ∧ ¬ (s.md.slots.get k).settling) then finish (updSlot s k fun x => { x with pin := m }) j .ok 0
    else askEpoch (setBody s j (.ctl (.mode k m))) (.mode k m (some j))) s

/-- MODE_REQUEST (R205). -/
def execModeRequest (st : Stream) (s : State) : Ans := startEntry 0x86 st.val runModeRequest s

/-! ### The two phases (R207 to R211) -/

/-- Whether a message carries the epoch number that a die expects: its own plus 1 (R206). -/
def expects (s : State) (d : Nat) (e : W32) : Bool := e = (s.dies.get d).epoch + 1

/-- Whether a die's receive buffers are as the epoch to come needs them: empty when it leaves sweep (R168). -/
def buffersReady (s : State) (d : Nat) : Bool :=
  !sweepOn s || ((List.range 8).any fun k => targetMode s k = 1) || ((s.dies.get d).east.buf.isEmpty && (s.dies.get d).west.buf.isEmpty)

/-- PROPOSE (R208, R209): a die in service that has completed the last pass and whose arcs are quiet records its audit sums, prepares and
idles, or refuses; a message with another epoch number is ignored (R206). -/
def execPropose (d : Die) (n : W32) (canHold : Bool) (s : State) : Ans :=
  let e := s.md.epoch
  if e.phase = .proposed && dieUp s d.val && expects s d.val n && !(s.dies.get d.val).prepared && !e.refused.contains d.val &&
      (!s.md.pass.running || s.md.pass.done.contains d.val) && quietAt s d.val && buffersReady s d.val then
    if canHold then .next (updDie s d.val fun x => { x with prepared := true, sums := dieSums s d.val })
    else .next (setEpoch s fun e => { e with refused := e.refused ++ [d.val] })
  else .next s

/-- Every die in service has sent PREPARED: the audit sums that the dies recorded and the module's own decide (R208, R487). -/
def decide_ (s : State) : State :=
  match auditWith s fun d => (s.dies.get d).sums with
  | [] => setEpoch s fun e => { e with phase := .committing, committed := [] }
  | l => l.foldl auditFailed (abortEpoch (setEpoch s fun e => { e with auditFailed := true }))

/-- PREPARED (R208) arrives; the last one is sent only after the last pass has committed every row. -/
def execPrepared (d : Die) (s : State) : Ans :=
  let e := s.md.epoch
  if e.phase = .proposed && (s.dies.get d.val).prepared && dieUp s d.val && !e.prepared.contains d.val then
    let s1 := setEpoch s fun e => { e with prepared := e.prepared ++ [d.val] }
    if (upDies s1).all fun x => s1.md.epoch.prepared.contains x then
      if s1.md.pass.running && !passOver s1 then .next s else .next (decide_ (endPass s1))
    else .next s1
  else .next s

/-- REFUSED (R208) arrives: the epoch aborts. -/
def execRefused (d : Die) (s : State) : Ans :=
  if s.md.epoch.phase = .proposed && s.md.epoch.refused.contains d.val then .next (abortEpoch s) else .next s

/-- PREPARED_DEADLINE (R208): a die in service has not answered. -/
def execPreparedDeadline (s : State) : Ans :=
  if s.md.epoch.phase = .proposed && !((upDies s).all fun x => s.md.epoch.prepared.contains x) then .next (abortEpoch s) else .next s

/-- The configuration of the epoch to come taken by one die (R210): reserve and credits, line position, slot modes. -/
def takeConfig (s : State) (d : Nat) : State :=
  let line := targetLine s
  let modes := (List.range 8).foldl (fun t k => Tbl.set t k (targetMode s k)) []
  let on := (List.range 8).any fun k => targetMode s k = 1
  let full := fun dir => if on && (nextDieAt line d dir).isSome then quotas line.isSome s.md.pass.bwd dir else []
  let renew := on ≠ ((s.dies.get d).sweepWays ≠ 0) || line ≠ s.md.epoch.line
  let s := setSweepWays s (if on then 8 else 0) d
  updDie s d fun x => { x with
    prepared := false
    sums := []
    epoch := s.md.epoch.num + 1
    line := line.isSome
    pos := match line with | some r => linePos r d | none => 0
    slotMode := modes
    east := if renew then freshRing (full .east) else x.east
    west := if renew then freshRing (full .west) else x.west }

/-- COMMIT (R210): a prepared die takes the new configuration. One with another epoch number is ignored; a repeated one gets its reply
again, which COMMITTED then brings (R206). -/
def execCommit (d : Die) (n : W32) (s : State) : Ans :=
  if s.md.epoch.phase = .committing && dieUp s d.val && (s.dies.get d.val).prepared && expects s d.val n then .next (takeConfig s d.val) else .next s

/-- COMMITTED (R210) arrives; with the last one the epoch begins. -/
def execCommitted (d : Die) (s : State) : Ans :=
  let e := s.md.epoch
  if e.phase = .committing && dieUp s d.val && (s.dies.get d.val).epoch = e.num + 1 && !(s.dies.get d.val).prepared && !e.committed.contains d.val then
    .next (endCommit (setEpoch s fun e => { e with committed := e.committed ++ [d.val] }))
  else .next s

/-- ABORT (R211): a prepared die discards its prepared state and sends REVERTED. One with another epoch number is ignored; a repeated one
gets its reply again (R206). -/
def execAbort (d : Die) (n : W32) (s : State) : Ans :=
  let x := s.dies.get d.val
  let reply := fun (s : State) => setEpoch s fun e => { e with reverted := if e.reverted.contains d.val then e.reverted else e.reverted ++ [d.val] }
  if s.md.epoch.phase = .aborting && dieUp s d.val && expects s d.val n && x.prepared then
    .next (reply (updDie s d.val fun x => { x with prepared := false, sums := [], lastAbort := some n, abortCnt := satInc x.abortCnt 1 }))
  else if s.md.epoch.phase = .aborting && dieUp s d.val && x.lastAbort = some n && expects s d.val n then .next (reply s)
  else .next s

/-- REVERTED (R211) arrives. -/
def execReverted (d : Die) (s : State) : Ans :=
  if s.md.epoch.phase = .aborting && s.md.epoch.reverted.contains d.val then
    .next (endAbort (setEpoch s fun e => { e with reverted := e.reverted.filter (· ≠ d.val) }))
  else .next s

/-- A die that missed a deadline is retired as one that has lost its heartbeat (R212, R475). -/
def lateDie (s : State) (d : Nat) : State := endCommit (endAbort (setEpoch (retireDie s d true) fun e => { e with reverted := e.reverted.filter (· ≠ d) }))

/-- COMMITTED_DEADLINE (R212). -/
def execCommittedDeadline (d : Die) (s : State) : Ans :=
  if s.md.epoch.phase = .committing && dieUp s d.val && !s.md.epoch.committed.contains d.val then .next (lateDie s d.val) else .next s

/-- REVERTED_DEADLINE (R212). -/
def execRevertedDeadline (d : Die) (s : State) : Ans :=
  if s.md.epoch.phase = .aborting && dieUp s d.val && ((s.dies.get d.val).prepared || s.md.epoch.reverted.contains d.val) then .next (lateDie s d.val)
  else .next s

/-! ### The settle stage (R213) -/

/-- The place of a KV head among a die's heads. -/
def headAt (q : SeqDie) (h : Nat) : Option Nat := indexOf (· = h) q.heads

/-- The die from which a head's pages come: the die itself where it holds them, else the first that does. -/
def headSource (s : State) (q : Seq) (d h : Nat) : Option Nat :=
  if (headAt (q.dies.get d) h).isSome then some d else (upDies s).find? fun e => (headAt (q.dies.get e) h).isSome

/-- A page copied from die `e` into a fresh one of die `d`, over the arcs between two dies (R19, R213): its address, or nothing while the
pool lacks room. -/
def fetchPage (m : ModelInfo) (slot e d a : Nat) (s : State) : Option (Nat × State) :=
  (takeRun (poolOf s slot d) (pageFrames m)).map fun p =>
    let s := eccAt s (dieKey e a) (pageBytes m)
    (p.1, crossArcs (copyPage (setPool s slot d p.2) m e a d p.1) e d (pageBytes m))

/-- The pages of the draft head's layer in the new layout, by page and local head. -/
def moveDrafts (m : ModelInfo) (old : Seq) (d : Nat) (q : SeqDie) (s : State) : Option (SeqDie × State) :=
  if old.parked.isSome then some (q, s)
  else
    let hd := q.heads.length
    ((List.range (q.groups * hd)).foldl (fun r n => r.bind fun (l, s) =>
      let head := q.heads.getD (n % hd) 0
      match headSource s old d head with
      | none => some (l ++ [0], s)
      | some e =>
        let x := old.dies.get e
        let a := x.draft.getD (n / hd * x.heads.length + (headAt x head).getD 0) 0
        if e = d then some (l ++ [a], s) else (fetchPage m old.slot e d a s).map fun p => (l ++ [p.1], p.2)) (some ([], s))).map
      fun r => ({ q with draft := r.1 }, r.2)

/-- One page table entry of the new layout: the page where it is, or copied into a fresh one; a parked page keeps its place. -/
def movePte (m : ModelInfo) (old : Seq) (d : Nat) (q : SeqDie) (g l h : Nat) (s : State) : Option State :=
  let head := q.heads.getD h 0
  let i := pteIndex m q.heads.length l h g
  match headSource s old d head with
  | none => some s
  | some e =>
    let x := old.dies.get e
    let v := readPte s e x (pteIndex m x.heads.length l ((headAt x head).getD 0) g)
    if bitN v 30 ∨ e = d then some (writePte s d q i v)
    else
      (fetchPage m old.slot e d (pteAddrOf v) s).map fun p => writePte p.2 d q i (pteOf p.1)

/-- Every entry of a die's new page table. -/
def movePtes (m : ModelInfo) (old : Seq) (d : Nat) (q : SeqDie) (s : State) : Option State :=
  (List.range (q.groups * m.layers * q.heads.length)).foldl (fun r n =>
    let hd := q.heads.length
    r.bind (movePte m old d q (n / (m.layers * hd)) (n / hd % m.layers) (n % hd))) (some s)

/-- The new part of a sequence on one die: directory, tables, tree slots unless it is parked, and its pages. -/
def relayDie (m : ModelInfo) (old : Seq) (groups mode d : Nat) (s : State) : Option (SeqDie × State) :=
  let heads := kvHeadsOn s m mode old.home d
  let hd := heads.length
  if hd = 0 then some (default, s)
  else
    match takeRun (poolOf s old.slot d) (dirFramesOf m hd) with
    | none => none
    | some (dir, r1) =>
      match takeRuns 1 (tableFrames m hd groups) r1 with
      | none => none
      | some (tabs, r2) =>
        match takeRuns (pageFrames m) (if old.parked.isSome then 0 else 4 * kvLayers m * hd) r2 with
        | none => none
        | some (tree, r3) =>
          let q : SeqDie := { dir := dir, frames := tabs, dirFrames := dirFramesOf m hd, heads := heads, groups := groups, tree := tree }
          (movePtes m old d q (writeDir (setPool s old.slot d r3) d q)).bind (moveDrafts m old d q)

/-- Every die of a sequence. -/
def relayDies (m : ModelInfo) (old : Seq) (groups mode : Nat) : List Nat → State → Option (Tbl SeqDie × State)
  | [], s => some ([], s)
  | d :: r, s =>
    match relayDie m old groups mode d s with
    | none => none
    | some (q, s1) => (relayDies m old groups mode r s1).map fun p => (Tbl.set p.1 d q, p.2)

/-- The frames of the old layout that the new one does not use, by die. -/
def freeOld (m : ModelInfo) (old : Seq) (new : Tbl SeqDie) (pages : List (Nat × List Nat)) (s : State) : State :=
  pages.foldl (fun s p =>
    let x := old.dies.get p.1
    let kept := pagesOf s m p.1 (new.get p.1)
    freeFrames s old.slot p.1 (framesOf (pageFrames m) (p.2.filter fun a => !kept.contains a) ++ framesOf (pageFrames m) x.tree ++ x.frames ++ framesOf x.dirFrames [x.dir])) s

/-- A sequence in the layout of its slot's mode, or nothing while a pool lacks room. A sequence homed on a die that is out of
service gets a new home. -/
def relaySeq (s : State) (q : Seq) : Option State :=
  let m := infoOf s q.slot q.gen
  let q := { q with home := if dieUp s q.home then q.home else homeDie s }
  let groups := (q.dies.map fun p => p.2.groups).foldl max 0
  let held := q.dies.filter fun p => !p.2.heads.isEmpty
  let pages := held.map fun p => (p.1, pagesOf s m p.1 p.2)
  match relayDies m q groups (s.md.slots.get q.slot).mode (upDies s) s with
  | none => none
  | some (ds, s1) => some (updSeq (freeOld m q ds pages s1) q.ra fun _ => { q with dies := ds })

/-- Every sequence of a slot. -/
def relaySlot (s : State) (k : Nat) : Option State :=
  (s.md.seqs.filter fun q => q.slot = k).foldl (fun r q => r.bind fun s => relaySeq s q) (some s)

/-- The MODE_REQUESTs that waited for the settle stage of a slot. -/
def settledJobs (s : State) (k : Nat) : State :=
  s.cp.jobs.foldl (fun s p =>
    match p.2.body with
    | .ctl (.mode i m) => if i = k ∧ (s.md.slots.get k).mode = m ∧ ¬ slotRequested s k then finish s p.1 .ok 0 else s
    | _ => s) s

/-- SETTLE_COMPLETE (R213): the copies are complete and the page tables name them. -/
def execSettleComplete (slot : Fin 8) (s : State) : Ans :=
  if (s.md.slots.get slot.val).settling && s.md.epoch.phase = .none then
    match relaySlot s slot.val with
    | some s1 => .next (settledJobs (updSlot s1 slot.val fun x => { x with settling := false }) slot.val)
    | none => .next s
  else .next s

/-! ### The heartbeat (R475) -/

/-- HEARTBEAT (R475): counted for a die that may send one. -/
def execHeartbeat (d : Die) (s : State) : Ans :=
  match (s.dies.get d.val).st with
  | .retired => .next s
  | .unpowered => .next s
  | _ => .next (updDie s d.val fun x => { x with hb := x.hb + 1 })

/-- HEARTBEAT_LOSS (R475): a stuck condition of a die in service retires it. -/
def execHeartbeatLoss (d : Die) (s : State) : Ans := if dieUp s d.val then .next (endCommit (endAbort (retireDie s d.val true))) else .next s

end Sys2Proof.Machine
end

