-- ==== Sys2Proof/Machine/Sweep.lean ====
section
/-!
DEFINITION. Sweep: what ring engines read and emit, delivery to tiles, forwarding, gradient return, damaged frames, and the completion of
a pass (R155 to R187); exchanges as ring engines form them (R192 to R198).
-/

namespace Sys2Proof.Machine

/-! ### What a ring engine reads (R155, R180, R294) -/

/-- The generation that holds the weights of a generation: itself, or the base of a delta generation. -/
def baseGen (s : State) (g : Gen) : Gen :=
  match g.base with
  | none => g
  | some b => (genOf s b.1 b.2).getD default

/-- The generation of the running pass. -/
def passGen (s : State) : Gen := (genOf s s.md.pass.slot s.md.pass.gen).getD default

/-- One group of 128 weights as a run carries it: its bytes there, its format, the keys of the stored group, and for a DELTA tensor the
keys of the delta group with the level block of both. -/
structure SendUnit where
  len : Nat
  fmt : Nat
  base : List Nat
  delta : List Nat
  levels : Bytes
  deriving DecidableEq, Repr, Inhabited

/-- The groups of one piece in a run; a DELTA group is expanded to E4M3 (R294). -/
def pieceUnits (b g : Gen) (d h : Nat) (x y : Nat × Piece) : List SendUnit :=
  let n := groupBytes x.2.ten.fmt
  (List.range x.2.groups).map fun j =>
    let base := shardKeys b d h (x.1 + n * j) n
    match if g.base.isNone then none else deltaOf g x.2.idx with
    | none => ⟨n, x.2.ten.fmt, base, [], []⟩
    | some t => ⟨128, x.2.ten.fmt, base, shardKeys g d h (y.1 + 34 * j) 34, bytesAt t.levels 0 8 ++ x.2.ten.levels⟩

/-- The groups of a run of the running pass in the order of R74. -/
def runUnits (s : State) (d layer seg h : Nat) : List SendUnit :=
  let g := passGen s
  let b := baseGen s g
  ((placedPieces b d layer seg h).zip (placedPieces g d layer seg h)).flatMap fun p => pieceUnits b g d h p.1 p.2

/-- Bytes of a run as sent. -/
def sendLen (l : List SendUnit) : Nat := (l.map (·.len)).foldl (· + ·) 0

/-- What a group gives, with its marks. -/
def SendUnit.bytes (s : State) (u : SendUnit) : List PByte :=
  let get := fun (ks : List Nat) => ks.flatMap fun k => loadMod s k 1
  if u.delta.isEmpty then get u.base else wdcGroup u.fmt (u.levels.map fun b => (b, false)) (get u.base) (get u.delta)

/-- The groups of a run with the place of each in it. -/
def placeUnits (l : List SendUnit) : List (Nat × SendUnit) :=
  (l.foldl (fun (r : List (Nat × SendUnit) × Nat) u => (r.1 ++ [(r.2, u)], r.2 + u.len)) ([], 0)).1

/-- A frame of a run read from HBM3: the reads meet the memory's faults. -/
def readFrame (s : State) (l : List SendUnit) (fidx : Nat) : State × List PByte :=
  let lo := 4096 * fidx
  let us := (placeUnits l).filter fun u => decide (u.1 < lo + 4096) && decide (lo < u.1 + u.2.len)
  let s := eccNote s (us.flatMap fun u => u.2.base ++ u.2.delta)
  (s, ((us.flatMap fun u => u.2.bytes s).drop (lo - ((us.head?.map (·.1)).getD 0))).take 4096)

/-- The keys that a die reads of its home shard in a moored pass: in SWS where it is resident, else in HBM3, and the deltas in HBM3 (R190,
R293). -/
def mooredKeys (s : State) (d : Nat) : List Nat :=
  let g := passGen s
  let b := baseGen s g
  let x := b.shards.get d
  ((shardUnits b d).flatMap fun u => if x.resident then (List.range u.len).map fun i => swsKey x d u.h (u.off + i) else shardKeys b d u.h u.off u.len) ++
    if g.base.isNone then [] else (shardUnits g d).flatMap fun u => shardKeys g d u.h u.off u.len

/-! ### Runs of a segment (R151, R152, R165) -/

/-- Whether an owner has a run of a column group in a segment. -/
def hasRun (s : State) (owner layer seg h : Nat) : Bool := (genPieces (baseGen s (passGen s)) owner layer seg h).any fun p => decide (0 < p.groups)

/-- The segments that the model uses, in the order of the pass (R151, R183). -/
def passOrder (s : State) : List (Nat × Nat) :=
  let m := (passGen s).info
  let l := (segOrder m).filter fun q => m.tensors.any fun t => t.weight && t.layer = q.1 && t.seg = q.2 && decide (0 < t.rows) && decide (0 < t.cols)
  if s.md.pass.bwd then l.reverse else l

/-- The segment before another in the order of the pass. -/
def prevSeg (s : State) (layer seg : Nat) : Option (Nat × Nat) := ((passOrder s).takeWhile fun q => q ≠ (layer, seg)).getLast?

/-- Whether the frames of an owner reach a die in a direction (R163, R180). -/
def reaches (s : State) (owner d : Nat) (dir : Dir) : Bool :=
  owner ≠ d && match s.md.epoch.line with
    | none => true
    | some r => match dir with | .east => decide (linePos r owner < linePos r d) | .west => decide (linePos r d < linePos r owner)

/-- Whether an own run also goes to the die's own tile with this direction's emission: in the line the two directions carry
copies of one run. -/
def ownDelivers (s : State) (d : Nat) (dir : Dir) : Bool :=
  s.md.epoch.line.isNone || dir = .east || (nextDie s d .east).isNone

/-- Whether a die has taken every frame of a segment from one direction. -/
def tookAll (s : State) (d : Nat) (dir : Dir) (layer seg : Nat) : Bool :=
  (upDies s).all fun o => !reaches s o d dir || (dirGroups s.md.epoch.line.isSome dir).all fun h =>
    !hasRun s o layer seg h || (ringOf (s.dies.get d) dir).took.contains (o, layer, seg, h)

/-- Whether a die has delivered its own runs of a segment to its tiles in one direction's groups. -/
def sentAll (s : State) (d : Nat) (dir : Dir) (layer seg : Nat) : Bool :=
  !ownDelivers s d dir || (nextDie s d dir).isNone || (dirGroups s.md.epoch.line.isSome dir).all fun h =>
    !hasRun s d layer seg h || (ringOf (s.dies.get d) dir).sent.contains (layer, seg, h)

/-- Whether a die may emit frames of a segment (R165): it has taken every frame of the preceding one, from both directions and its own
shard. -/
def segReady (s : State) (d layer seg : Nat) : Bool :=
  match prevSeg s layer seg with
  | none => true
  | some q => [Dir.east, Dir.west].all fun dir => tookAll s d dir q.1 q.2 && sentAll s d dir q.1 q.2

/-! ### Delivery to tiles (R154, R162) -/

/-- The tile that applies a column group on a die: its own, or the one that stands in for it. -/
def groupTile (s : State) (d g : Nat) (dir : Dir) : Nat := 32 * d + dirTile s d g dir

/-- The stream port of a ring engine on a tile (R66). -/
def rePort : Dir → Nat
  | .east => 16
  | .west => 17

/-- Whether a tile's port has room for a payload. -/
def portFits (s : State) (t : Nat) (dir : Dir) (n : Nat) : Bool := decide (((s.tiles.get t).ports.get (rePort dir)).length + n ≤ 8192)

/-- A payload reaches a tile's port, marked when the frame is poisoned (R177). -/
def deliver (s : State) (t : Nat) (dir : Dir) (f : Frame) : State :=
  updTile s t fun x => { x with ports := x.ports.upd (rePort dir) fun l => l ++ f.pay.map fun b => (b, hPois f.hdr) }

/-- The run entry of a frame's run (R375, R377). -/
def runEntry (x : DieRegs) (f : Frame) : QEntry :=
  let rec_ := x.runTable.get (32 * hSeg f.hdr + hGroup f.hdr)
  { kind := 0
    tcount := (rec_.map (·.1)).getD 1
    tlist := (rec_.map (·.2)).getD 0
    token := BitVec.ofNat 32 (hOwner f.hdr * 2 ^ 29 + hLayer f.hdr * 2 ^ 17 + hSeg f.hdr * 2 ^ 13 + hGroup f.hdr * 2 ^ 8)
    runlen := f.run
    bad := rec_.isNone }

/-- Whether the internal queue RQID of a tile has room. -/
def runRoom (s : State) (d t : Nat) : Bool := decide (((s.tiles.get t).queues.get (s.dies.get d).rqid).length < 16)

/-- A run entry pushed to a tile. -/
def pushRun (s : State) (d t : Nat) (f : Frame) : State := pushEntry s t (s.dies.get d).rqid (runEntry (s.dies.get d) f)

/-! ### Emission (R156 to R159, R164, R165) -/

/-- A header of the running pass (R157). -/
def mkHdr (s : State) (kind : Nat) (dir : Dir) (last pois : Bool) (owner len layer seg group fidx arg : Nat) : Bytes :=
  let p := s.md.pass
  leBytes 4 (kind * 2 ^ 28 + (match dir with | .east => 0 | .west => 2 ^ 27) + bAt last 26 + bAt pois 25 + owner * 2 ^ 19 + p.slot * 2 ^ 16 + len) ++
    leBytes 4 (p.gen.toNat * 2 ^ 16 + p.num.toNat) ++ leBytes 4 (layer * 2 ^ 20 + seg * 2 ^ 16 + group * 2 ^ 8) ++ leBytes 4 fidx ++ leBytes 4 arg ++ leBytes 4 0

/-- A frame with its CRCs. -/
def mkFrame (h pay : Bytes) (run : Nat) : Frame := ⟨sealHdr h pay, pay, run⟩

/-- A frame or packet of the running pass leaves a die; a sweep pass holds its reference from the first one (R173). -/
def emitFrame (s : State) (d : Nat) (dir : Dir) (f : Frame) : State := sendFrame (takePassRef s) d dir f

/-- The next own run of a group in the layer that a die has announced: its segment, in the order of the pass. -/
def nextOwn (s : State) (d : Nat) (dir : Dir) (g : Nat) : Option Nat :=
  let r := ringOf (s.dies.get d) dir
  let l := layerNo s r.ownLayer
  if r.ownLayer = 0 || r.ownEnd || !(dirGroups s.md.epoch.line.isSome dir).contains g then none
  else ((passOrder s).find? fun q => q.1 = l && hasRun s d l q.2 g && !r.sent.contains (l, q.2, g)).map (·.2)

/-- Whether every own run of the layer announced last has been sent in a direction. -/
def layerSent (s : State) (d : Nat) (dir : Dir) : Bool := (dirGroups s.md.epoch.line.isSome dir).all fun g => (nextOwn s d dir g).isNone

/-- Whether an own run of a group is ready to begin (R164, R165). -/
def ownReady (s : State) (d : Nat) (dir : Dir) (g : Nat) : Bool :=
  match nextOwn s d dir g with
  | some q => inSweep s d && segReady s d (layerNo s (ringOf (s.dies.get d) dir).ownLayer) q && decide (0 < creditsOf s d dir (2 * g))
  | none => false

/-- The frame in buffer slot `i`, if it is the first of its group that waits to be taken. -/
def takeable (r : RingDir) (i : Nat) : Option RSlot :=
  match r.buf[i]? with
  | none => none
  | some b =>
    if hKind b.f.hdr = 1 && b.phase = .queued && !((r.buf.take i).any fun a => hKind a.f.hdr = 1 && hGroup a.f.hdr = hGroup b.f.hdr && a.phase ≠ .held)
    then some b else none

/-- Whether a run of a group waits to be forwarded. -/
def fwdReady (s : State) (d : Nat) (dir : Dir) (g : Nat) : Bool :=
  let r := ringOf (s.dies.get d) dir
  (List.range r.buf.length).any fun i =>
    match takeable r i with
    | some b => hGroup b.f.hdr = g && hFidx b.f.hdr = 0 && forwards s d dir (hOwner b.f.hdr)
    | none => false

/-- Whether an own run of a group may begin (R164): no run of the group goes out, and after an own run one that waits to be
forwarded goes first. -/
def ownMayBegin (s : State) (d : Nat) (dir : Dir) (g : Nat) : Bool :=
  let r := ringOf (s.dies.get d) dir
  (r.outRun.get g).isNone && !(r.lastOwn.get g = some true && fwdReady s d dir g)

/-- The copy of a frame that the other ring engine has passed on. -/
def copyFor (r : RingDir) (layer seg g fidx : Nat) : Option RingCopy :=
  r.copies.find? fun c => c.layer = layer && c.seg = seg && c.group = g && c.fidx = fidx

/-- The payload of an own frame, with its mark: a copy from the die's other ring engine, or read from HBM3; in the line the other one then
gets a copy where it sends too (R180). -/
def ownPayload (s : State) (d : Nat) (dir : Dir) (layer seg g fidx : Nat) (us : List SendUnit) : State × Bytes × Bool :=
  match copyFor (ringOf (s.dies.get d) dir) layer seg g fidx with
  | some c => (updRing s d dir fun r => { r with copies := r.copies.filter fun x => x ≠ c }, c.pay, c.pois)
  | none =>
    let p := readFrame s us fidx
    let pay := plain p.2
    let other := s.md.epoch.line.isSome && (nextDie s d (opposite dir)).isSome
    let s := if other then updRing p.1 d (opposite dir) fun r => { r with copies := r.copies ++ [⟨layer, seg, g, fidx, pay, anyPois p.2⟩] } else p.1
    (s, pay, anyPois p.2)

/-- The next own WEIGHT frame of a group (R156, R164, R165, R176). -/
def emitWeight (s : State) (d : Nat) (dir : Dir) (seg g : Nat) : State :=
  let r := ringOf (s.dies.get d) dir
  let layer := layerNo s r.ownLayer
  let us := runUnits s d layer seg g
  let run := sendLen us
  let begins := (r.outRun.get g).isNone
  let fidx := if begins then 0 else r.outIdx.get g
  let len := min 4096 (run - 4096 * fidx)
  let last := run ≤ 4096 * (fidx + 1)
  let t := groupTile s d g dir
  let own := ownDelivers s d dir
  if nextOwn s d dir g ≠ some seg || !ownReady s d dir g || (if begins then !ownMayBegin s d dir g else r.outRun.get g ≠ some d) ||
      (own && (!portFits s t dir len || (begins && !runRoom s d t))) then s
  else
    let (s, pay, pois) := ownPayload s d dir layer seg g fidx us
    let f := mkFrame (mkHdr s 1 dir last pois d len layer seg g fidx 0) pay run
    let s := emitFrame (spendCredit s d dir (2 * g)) d dir f
    let s := updRing s d dir fun r => { r with
      outRun := r.outRun.set g (if last then none else some d)
      outIdx := r.outIdx.set g (if last then 0 else fidx + 1)
      lastOwn := r.lastOwn.set g (some true)
      sent := if last then r.sent ++ [(layer, seg, g)] else r.sent }
    let s := if own then deliver (if begins then pushRun s d t f else s) t dir f else s
    updDie s d fun x => { x with taken := x.taken + b2n own, swPois := if pois then satInc x.swPois 1 else x.swPois }

/-- A buoy (R159), sent against a buoy credit. -/
def emitBuoy (s : State) (d : Nat) (dir : Dir) (kind layer arg : Nat) (f : RingDir → RingDir) : State :=
  if creditsOf s d dir 64 = 0 then s
  else updRing (emitFrame (spendCredit s d dir 64) d dir (mkFrame (mkHdr s kind dir false false d 0 layer 0 0 0 arg) [] 0)) d dir f

/-! ### Gradient runs (R183, R184) -/

/-- Bytes of one gradient element. -/
def gradBytes (slot : Nat) : Nat := if Config.gradBf16 slot then 2 else 4

/-- Gradients of a run: one for each weight of its layout (R183). -/
def runWeights (s : State) (owner layer seg h : Nat) : Nat :=
  ((genPieces (baseGen s (passGen s)) owner layer seg h).map fun p => 128 * p.groups).foldl (· + ·) 0

/-- Gradients of an owner's runs before a run, in the order of the shard's layout. -/
def gradStart (s : State) (owner layer seg h : Nat) : Nat :=
  let l := segOrder (passGen s).info
  let before := ((List.range h).flatMap fun i => l.map fun q => runWeights s owner q.1 q.2 i) ++
    (l.filter fun q => decide (q.1 * 16 + q.2 < layer * 16 + seg)).map fun q => runWeights s owner q.1 q.2 h
  before.foldl (· + ·) 0

/-- Bytes of frame `fidx` of a gradient run. -/
def gradLen (s : State) (owner layer seg h fidx : Nat) : Nat := min 4096 (gradBytes s.md.pass.slot * runWeights s owner layer seg h - 4096 * fidx)

/-- The first die of the gradient chain of an owner in a direction (R184). -/
def chainHead (s : State) (owner : Nat) (dir : Dir) : Nat :=
  match s.md.epoch.line with
  | none => match dir with | .east => (owner + 1) % 8 | .west => (owner + 7) % 8
  | some r => match dir with | .east => (r + 1) % 8 | .west => (r + 7) % 8

/-- The first contribution of a gradient chain (R184), frame by frame as its weight run's layout cuts it (R156). -/
def emitGrad (s : State) (d : Nat) (dir : Dir) (layer seg g owner fidx : Nat) (pay : Bytes) (pois : Bool) : State :=
  let last := gradBytes s.md.pass.slot * runWeights s owner layer seg g ≤ 4096 * (fidx + 1)
  if !s.md.pass.bwd || chainHead s owner dir ≠ d || owner = d || pay.isEmpty || pay.length ≠ gradLen s owner layer seg g fidx ||
      creditsOf s d dir (2 * g + 1) = 0 || !(dirGroups s.md.epoch.line.isSome dir).contains g then s
  else
    let s := if pois then updDie s d fun x => { x with swPois := satInc x.swPois 1 } else s
    emitFrame (spendCredit s d dir (2 * g + 1)) d dir (mkFrame (mkHdr s 2 dir last pois owner pay.length layer seg g fidx 0) pay 0)

/-! ### Exchanges: emission and delivery (R192 to R198) -/

/-- Whether a die takes part in the running moored pass. -/
def inMoored (s : State) (d : Nat) : Bool := s.md.pass.running && s.md.pass.mode = 2 && dieUp s d && !(s.dies.get d).passDone

/-- The plan of an exchange of the running pass. -/
def planOf (s : State) (layer xid : Nat) : Option XPlan :=
  (infoOf s s.md.pass.slot s.md.pass.gen).plan.find? fun p => p.layer = layer && p.xid = xid

/-- Fields of an exchange packet's header (R194). -/
def xSrc (h : Bytes) : Nat := wfld h 0 21 19
def xSum (h : Bytes) : Bool := bitN (leAt h 0 4) 23
def xLayer (h : Bytes) : Nat := wfld h 8 31 20
def xXid (h : Bytes) : Nat := wfld h 8 19 16
def xOff (h : Bytes) : Nat := leAt h 12 4

/-- Bytes of PLACE and of SUM fields that one die contributes to an exchange of the plan in the running pass. -/
def placeLen (s : State) (p : XPlan) : Nat := planPlace p s.md.pass.rows
def sumLen (s : State) (p : XPlan) : Nat := planSum p s.md.pass.rows

/-- Whether a layer's exchange is the line's score exchange (R201): it is in no plan. -/
def isScore (s : State) (layer xid : Nat) : Bool := xid = 14 && s.md.epoch.line.isSome && decide (layer < passLayers s)

/-- What a die contributes to an exchange: bytes of PLACE and of SUM fields. -/
def contribution (s : State) (d layer xid : Nat) : Nat × Nat :=
  match planOf s layer xid with
  | some p => (placeLen s p, sumLen s p)
  | none => if isScore s layer xid then (0, scoreLen s * (dividedOn s (passGen s).info d).length) else (0, 0)

/-- An empty exchange. -/
def newXRun (layer xid : Nat) : XRun := ⟨layer, xid, [], [], false, false⟩

/-- The record of an exchange among others, changed by `f`, begun where there is none. -/
def updXL (layer xid : Nat) (f : XRun → XRun) : List XRun → List XRun
  | [] => [f (newXRun layer xid)]
  | r :: l => if r.layer = layer ∧ r.xid = xid then f r :: l else r :: updXL layer xid f l

/-- A die's record of an exchange changed by `f`. -/
def updX (s : State) (d layer xid : Nat) (f : XRun → XRun) : State :=
  updDie s d fun x => { x with xruns := updXL layer xid f x.xruns }

/-- Where the PLACE fields of die `d` of this module begin in a destination buffer, and where those of the other twin half do: in the SPLIT
pattern the slices of side B follow those of side A (R456; that place is this model's). -/
def placeAt (s : State) (p : XPlan) (d : Nat) : Nat := p.dest + (d + if split s && s.pins.twinSide then 8 else 0) * placeLen s p
def farPlace (s : State) (p : XPlan) : Nat := p.dest + (if s.pins.twinSide then 0 else 8) * placeLen s p

/-- The packet's fields reach a die's destination buffer (R196, R198): PLACE bytes are written, SUM values wait in the order of
their arrival. -/
def absorb (s : State) (d : Nat) (f : Frame) : State :=
  let h := f.hdr
  let s :=
    if xSum h then updX s d (xLayer h) (xXid h) fun r => { r with sums := r.sums ++ [(xSrc h, xOff h, f.pay)], pois := r.pois || hPois h }
    else updX s d (xLayer h) (xXid h) fun r => { r with placed := r.placed ++ [(xSrc h, xOff h)] }
  match planOf s (xLayer h) (xXid h) with
  | some p => if xSum h then s else storeMod s (dieKey d (placeAt s p (xSrc h) + xOff h)) (f.pay.map fun b => (b, hPois h))
  | none => s

/-- Whether a die's own part of an exchange is already in its record. -/
def ownAbsorbed (s : State) (d : Nat) (f : Frame) : Bool :=
  (s.dies.get d).xruns.any fun r => r.layer = xLayer f.hdr && r.xid = xXid f.hdr &&
    (if xSum f.hdr then r.sums.any fun x => x.1 = d && x.2.1 = xOff f.hdr else r.placed.contains (d, xOff f.hdr))

/-- The packet of a contribution that goes out as the `k`-th in a direction (R195): whether of SUM fields, its offset, its bytes, and
whether it is the last; PLACE fields come first, each kind at ascending offsets. -/
def packetAt (c : Nat × Nat) (k : Nat) : Option (Bool × Nat × Nat × Bool) :=
  let np := ceilDiv c.1 4096
  let ns := ceilDiv c.2 4096
  if np + ns ≤ k then none
  else if k < np then some (false, 4096 * k, min 4096 (c.1 - 4096 * k), k + 1 = np + ns)
  else some (true, 4096 * (k - np), min 4096 (c.2 - 4096 * (k - np)), k + 1 = np + ns)

/-- Packets of a contribution sent so far in a direction. -/
def packetsSent (r : RingDir) (layer xid : Nat) : Nat := ((r.xsent.find? fun x => x.1 = layer && x.2.1 = xid).map (·.2.2)).getD 0

/-- What a die has already sent of the same field, in whichever direction: both directions carry one contribution. -/
def sameSent (s : State) (d layer xid : Nat) (sum : Bool) (off : Nat) : Option Frame :=
  (s.dies.get d).xkept.find? fun f => xLayer f.hdr = layer && xXid f.hdr = xid && xSum f.hdr = sum && xOff f.hdr = off

/-- The next packet of an own contribution in a direction (R194 to R196). -/
def emitPacket (s : State) (d : Nat) (dir : Dir) (layer xid : Nat) (pay : Bytes) (pois : Bool) : State :=
  let k := packetsSent (ringOf (s.dies.get d) dir) layer xid
  match packetAt (contribution s d layer xid) k with
  | none => s
  | some (sum, off, len, last) =>
    let p := match sameSent s d layer xid sum off with | some f => (f.pay, hPois f.hdr) | none => (pay, pois)
    if p.1.length ≠ len then s
    else
      let w := leAt (mkHdr s 4 dir last p.2 d len layer 0 0 off 0) 0 4
      let h := leBytes 4 (w + bAt sum 23) ++ bytesAt (mkHdr s 4 dir last p.2 d len layer xid 0 off 0) 4 20
      let f := mkFrame h p.1 0
      let s := if ownAbsorbed s d f then s else absorb s d f
      let s := updRing s d dir fun r => { r with xsent := (r.xsent.filter fun x => !(x.1 = layer && x.2.1 = xid)) ++ [(layer, xid, k + 1)] }
      emitFrame (updDie s d fun x => { x with xkept := x.xkept ++ [f] }) d dir f

/-- FRAME_EMIT (R156, R159, R165, R184, R194): the own runs of a layer follow its LAYER buoy and precede the next one, and PASS_END
follows the last. -/
def execFrameEmit (d : Die) (dir : Dir) (f : Emission) (s : State) : Ans :=
  let r := ringOf (s.dies.get d.val) dir
  if (nextDie s d.val dir).isNone then .next s
  else
    match f with
    | .packet layer xid pay pois => if inMoored s d.val then .next (emitPacket s d.val dir layer.toNat xid.toNat pay pois) else .next s
    | .weight seg g => if inSweep s d.val then .next (emitWeight s d.val dir seg.toNat g.val) else .next s
    | .grad layer seg g owner fidx pay pois =>
      if inSweep s d.val then .next (emitGrad s d.val dir layer.toNat seg.toNat g.val owner.val fidx pay pois) else .next s
    | .genBuoy =>
      if inSweep s d.val && needsGen s && !r.ownGen && r.ownLayer = 0 then
        .next (emitBuoy s d.val dir 0xA 0 s.md.pass.prevGen.toNat fun r => { r with ownGen := true })
      else .next s
    | .layerBuoy =>
      if inSweep s d.val && (r.ownGen || !needsGen s) && decide (r.ownLayer < passLayers s) && layerSent s d.val dir && !r.ownEnd then
        .next (emitBuoy s d.val dir 0x8 (layerNo s (r.ownLayer + 1)) 0 fun r => { r with ownLayer := r.ownLayer + 1 })
      else .next s
    | .passEnd =>
      if inSweep s d.val && r.ownLayer = passLayers s && layerSent s d.val dir && !r.ownEnd then
        .next (emitBuoy s d.val dir 0x9 0 r.sent.length fun r => { r with ownEnd := true })
      else .next s

/-! ### Arrival and taking (R162 to R164, R172) -/

/-- FRAME_ARRIVAL (R172, R175): a WEIGHT frame, or one whose KIND the ring does not know. -/
def execFrameArrival (d : Die) (dir : Dir) (hx px : Bytes) (s : State) : Ans := .next (frameArrives 1 s d.val dir hx px)

/-- Whether a group's outbound stream admits a frame of another owner (R164): it goes on with its run, or a run begins whose turn it is. -/
def mayForward (s : State) (d : Nat) (dir : Dir) (f : Frame) : Bool :=
  let r := ringOf (s.dies.get d) dir
  let g := hGroup f.hdr
  match r.outRun.get g with
  | none => hFidx f.hdr = 0 && !(r.lastOwn.get g = some false && ownReady s d dir g)
  | some o => o = hOwner f.hdr && hFidx f.hdr ≠ 0

/-- A frame is taken by its tile, forwarded or dropped, and its slot freed. -/
def takeFrame (s : State) (d : Nat) (dir : Dir) (i : Nat) (b : RSlot) : State :=
  let h := b.f.hdr
  let g := hGroup h
  let s := deliver s (groupTile s d g dir) dir b.f
  let s := updRing s d dir fun r => { r with
    buf := r.buf.take i ++ r.buf.drop (i + 1)
    took := if hLast h then r.took ++ [(hOwner h, hLayer h, hSeg h, g)] else r.took }
  let s := returnCredit (updDie s d fun x => { x with taken := x.taken + 1 }) d dir (2 * g)
  let s :=
    if forwards s d dir (hOwner h) then
      updRing (sendFrame (spendCredit s d dir (2 * g)) d dir b.f) d dir fun r => { r with
        outRun := r.outRun.set g (if hLast h then none else some (hOwner h)), lastOwn := r.lastOwn.set g (some false) }
    else s
  flushBuoys s d dir

/-- FRAME_TAKE (R162 to R164): enabled once the run's entry has been pushed, the tile's port has room, no own run of the group is in
progress, and the frame can go on. -/
def execFrameTake (d : Die) (dir : Dir) (i : Nat) (s : State) : Ans :=
  let r := ringOf (s.dies.get d.val) dir
  match takeable r i with
  | none => .next s
  | some b =>
    let g := hGroup b.f.hdr
    let t := groupTile s d.val g dir
    let go := !forwards s d.val dir (hOwner b.f.hdr) || (mayForward s d.val dir b.f && 0 < creditsOf s d.val dir (2 * g))
    if inSweep s d.val && (hFidx b.f.hdr ≠ 0 || b.pushed) && portFits s t dir b.f.pay.length && r.outRun.get g ≠ some d.val && go &&
        svcFits s d.val (opposite dir) 16 then .next (takeFrame s d.val dir i b)
    else .next s

/-- RUN_ENTRY_PUSH (R377): the entry of the run that begins in slot `i`, while the tile's queue has room. -/
def execRunEntryPush (d : Die) (dir : Dir) (i : Nat) (s : State) : Ans :=
  match takeable (ringOf (s.dies.get d.val) dir) i with
  | none => .next s
  | some b =>
    let t := groupTile s d.val (hGroup b.f.hdr) dir
    if hFidx b.f.hdr = 0 && !b.pushed && runRoom s d.val t then
      .next (updRing (pushRun s d.val t b.f) d.val dir fun r => { r with buf := modAt (fun x => { x with pushed := true }) r.buf i })
    else .next s

/-! ### Buoys (R159, R160) -/

/-- GEN_BUOY (R159). -/
def execGenBuoy (d : Die) (dir : Dir) (hx : Bytes) (s : State) : Ans := .next (frameArrives 0xA s d.val dir hx [])

/-- LAYER_BUOY (R160). -/
def execLayerBuoy (d : Die) (dir : Dir) (hx : Bytes) (s : State) : Ans := .next (frameArrives 0x8 s d.val dir hx [])

/-- PASS_END_BUOY (R160). -/
def execPassEndBuoy (d : Die) (dir : Dir) (hx : Bytes) (s : State) : Ans := .next (frameArrives 0x9 s d.val dir hx [])

/-! ### Gradient return (R184 to R186) -/

/-- One FP32 sum of two little-endian elements. -/
def addF32 (a b : Bytes) : Bytes := leBytes 4 (toF32 ((ofF32 (BitVec.ofNat 32 (leNat a))).add (ofF32 (BitVec.ofNat 32 (leNat b))))).toNat

/-- One BF16 sum: converted to FP32, added, rounded back (R50). -/
def addBF16 (a b : Bytes) : Bytes :=
  leBytes 2 (convTo 1 false .rne ((decodeIeee fmtBF16 (leNat a)).add (decodeIeee fmtBF16 (leNat b)))).code

/-- Elementwise sums of two payloads of one format (R185). -/
def addGrads (bf : Bool) (a b : Bytes) : Bytes :=
  let n := if bf then 2 else 4
  let f := if bf then addBF16 else addF32
  ((pieces n a).zip (pieces n b)).flatMap fun p => f p.1 p.2

/-- Chains that end at an owner for one group: one in the ring, one from each side in the line. -/
def chainsOf (s : State) (d : Nat) : Nat :=
  if s.md.epoch.line.isNone then 1 else b2n (nextDie s d .east).isSome + b2n (nextDie s d .west).isSome

/-- The total of a gradient frame written to the slot's gradient buffer in the owner's HBM3, in the layout of the weights (R183, R184). -/
def storeGrad (s : State) (d : Nat) (h pay : Bytes) (pois : Bool) : State :=
  let a := Config.gradPlace (hSlot h) d + gradBytes (hSlot h) * gradStart s d (hLayer h) (hSeg h) (hGroup h) + 4096 * hFidx h
  pay.zipIdx.foldl (fun s b => storeMod s (dieKey d ((a + b.2) % 0x17C0000000)) [(b.1, pois)]) s

/-- The owner's gradient after a chain has ended: in the line the first side's sum waits for the other; its own contribution is
added last (R184). -/
def ownGrad (s : State) (d : Nat) (f : Frame) (own : Bytes) (ownPois : Bool) : State :=
  let slot := hSlot f.hdr
  let key := bytesAt f.hdr 4 12
  let bf := Config.gradBf16 slot
  let mine := fun (g : Nat × Bytes × Bytes × Bool) => g.1 = slot && g.2.1 = key
  let pois := hPois f.hdr
  if chainsOf s d < 2 then storeGrad s d f.hdr (addGrads bf f.pay own) (pois || ownPois)
  else
    match (s.dies.get d).grads.find? mine with
    | none => updDie s d fun x => { x with grads := x.grads ++ [(slot, key, f.pay, pois)] }
    | some g =>
      storeGrad (updDie s d fun x => { x with grads := x.grads.filter fun g => !mine g }) d f.hdr (addGrads bf (addGrads bf g.2.2.1 f.pay) own)
        (pois || ownPois || g.2.2.2)

/-- A die adds its contribution to a gradient frame: the owner keeps the total, another die sends the sum on. -/
def addOwn (s : State) (d : Nat) (dir : Dir) (f : Frame) (own : Bytes) (ownPois : Bool) : State :=
  if hOwner f.hdr = d then ownGrad s d f own ownPois
  else
    let pay := addGrads (Config.gradBf16 (hSlot f.hdr)) f.pay own
    let h := withFlag f.hdr 25 (hPois f.hdr || ownPois)
    let s := if ownPois && !hPois f.hdr then updDie s d fun x => { x with swPois := satInc x.swPois 1 } else s
    sendFrame (spendCredit s d dir (2 * hGroup f.hdr + 1)) d dir (mkFrame h pay f.run)

/-- Whether a gradient frame can go on from a die with its contribution. -/
def gradCanGo (s : State) (d : Nat) (dir : Dir) (f : Frame) (own : Bytes) : Bool :=
  own.length = f.pay.length && (hOwner f.hdr = d || decide (0 < creditsOf s d dir (2 * hGroup f.hdr + 1)))

/-- A gradient frame as received: a payload CRC that fails marks it poisoned (R186). -/
def checkedGrad (s : State) (d : Nat) (f : Frame) : Frame × State :=
  if hPois f.hdr || pcrcOk f then (f, s)
  else (poisoned_ f, updDie s d fun x => { x with swPcrc := satInc x.swPcrc 1, swPois := satInc x.swPois 1 })

/-- The first held gradient frame of a buffer. -/
def heldGrad (r : RingDir) : Option (Nat × RSlot) := (r.buf.zipIdx.find? fun b => b.1.phase = .grad).map fun b => (b.2, b.1)

/-- A gradient frame that arrives: a header that fails its CRC, or another KIND than was sent, is a header fault (R158, R175); one of
another pass is discarded (log entry 164); any other waits in a GRAD slot for the die's contribution. -/
def gradArrives (s : State) (d : Nat) (dir : Dir) (hx px : Bytes) : State :=
  match headFrame s d dir with
  | none => s
  | some g =>
    if hKind g.hdr ≠ 2 || !mayArrive s d dir then s
    else
      let f := damaged g hx px
      let s := popFrame s d dir
      if !hcrcOk f.hdr || hKind f.hdr ≠ 2 then headFault s d dir
      else if hPass f.hdr ≠ (s.dies.get d).pass || !s.md.pass.running then discardFrame s d dir f
      else
        let c := checkedGrad s d f
        updRing c.2 d dir fun r => { r with buf := r.buf ++ [⟨c.1, .grad, false⟩] }

/-- The frame held longest gets the die's contribution, if it can go on. -/
def giveGrad (s : State) (d : Nat) (dir : Dir) (own : Bytes) (ownPois : Bool) : State :=
  match heldGrad (ringOf (s.dies.get d) dir) with
  | some (i, b) =>
    if gradCanGo s d dir b.f own && svcFits s d (opposite dir) 16 then
      let s := updRing s d dir fun r => { r with buf := r.buf.take i ++ r.buf.drop (i + 1) }
      addOwn (returnCredit s d dir (2 * hGroup b.f.hdr + 1)) d dir b.f own ownPois
    else s
  | none => s

/-- GRAD_FRAME (R185): without a contribution the arriving frame is held in its slot; with one, the frame held longest, else the one
that arrives, gets it. -/
def execGradFrame (d : Die) (dir : Dir) (hx px : Bytes) (own : Option Bytes) (ownPois : Bool) (s : State) : Ans :=
  let s1 := if own.isSome && (heldGrad (ringOf (s.dies.get d.val) dir)).isSome then s else gradArrives s d.val dir hx px
  .next (match own with
    | some o => giveGrad s1 d.val dir o ownPois
    | none => s1)

/-! ### The service channel (R167, R175, R176) -/

/-- The first item on the service channel from a die. -/
def headSvc (s : State) (d : Nat) (dir : Dir) : Option Svc := (outOf (s.dies.get d) dir).svc.head?

/-- That item leaves it. -/
def popSvc (s : State) (d : Nat) (dir : Dir) : State := flitPassed (updOut s d dir fun o => { o with svc := o.svc.tail }) (arcOf d dir)

/-- The item that the service channel brings to die `d` against the direction of the frames: from the next die. -/
def svcBack (s : State) (d : Nat) (dir : Dir) : Option (Nat × Svc) :=
  (nextDie s d dir).bind fun n => (headSvc s n (opposite dir)).map fun x => (n, x)

/-- The item that the service channel brings to die `d` in the direction of the frames: from the die before it. -/
def svcOn (s : State) (d : Nat) (dir : Dir) : Option (Nat × Svc) :=
  (prevDie s d dir).bind fun p => (headSvc s p dir).map fun x => (p, x)

/-- CREDIT_RETURN (R167): a credit for frames that die `d` sends in direction `dir` comes back from the next die; a buoy that waited for
one goes on. -/
def execCreditReturn (d : Die) (dir : Dir) (s : State) : Ans :=
  match svcBack s d.val dir with
  | some (n, .credit key) =>
    .next (flushBuoys (updRing (popSvc s n (opposite dir)) d.val dir fun r => { r with credits := r.credits.upd key (· + 1) }) d.val dir)
  | _ => .next s

/-- A frame as its owner sends it again: re-read from the home shard, RESENT = 1, and POIS = 1 where the read fails (R175, R176). -/
def resendFrame (s : State) (d : Nat) (h : Bytes) : State × Frame :=
  let p := s.md.pass
  let us := runUnits s d (hLayer h) (hSeg h) (hGroup h)
  let r := readFrame s us (hFidx h)
  let bad := anyPois r.2
  let h1 := patch h 4 (leBytes 4 (p.gen.toNat * 2 ^ 16 + p.num.toNat))
  let h2 := withFlag (withFlag h1 24 true) 25 bad
  (if bad then updDie r.1 d fun x => { x with swPois := satInc x.swPois 1 } else r.1, mkFrame h2 (plain r.2) (sendLen us))

/-- RE_REQUEST (R175): a re-request reaches a die on its way against the frames' direction: the owner answers with the frame, any other
die passes it on. -/
def execReRequest (d : Die) (dir : Dir) (s : State) : Ans :=
  match svcBack s d.val dir with
  | some (n, .rereq o h) =>
    if o = d.val then
      let r := resendFrame (popSvc s n (opposite dir)) d.val h
      if svcFits s d.val dir (arcLen r.2) then .next (sendSvc r.1 d.val dir (.resent r.2)) else .next s
    else if svcFits s d.val (opposite dir) 32 then .next (sendSvc (popSvc s n (opposite dir)) d.val (opposite dir) (.rereq o h))
    else .next s
  | _ => .next s

/-- The kept slot that a copy belongs to. -/
def keptFor (r : RingDir) (h : Bytes) : Option Nat :=
  indexOf (fun b : RSlot => (match b.phase with | .kept _ => true | _ => false) && hOwner b.f.hdr = hOwner h && hLayer b.f.hdr = hLayer h &&
    hSeg b.f.hdr = hSeg h && hGroup b.f.hdr = hGroup h && hFidx b.f.hdr = hFidx h) r.buf

/-- A slot of the receive buffer changed by `f`. -/
def updRSlot (s : State) (d : Nat) (dir : Dir) (i : Nat) (f : RSlot → RSlot) : State := updRing s d dir fun r => { r with buf := modAt f r.buf i }

/-- An attempt for kept slot `i` has failed: another request, or after the fourth the last copy is poisoned and goes on (R176). -/
def failAttempt (s : State) (d : Nat) (dir : Dir) (i : Nat) : State :=
  match (ringOf (s.dies.get d) dir).buf[i]? with
  | some b =>
    match b.phase with
    | .kept n =>
      if n < 4 then reRequest (updRSlot s d dir i fun x => { x with phase := .kept (n + 1) }) d dir b.f
      else updDie (updRSlot s d dir i fun x => { x with f := poisoned_ x.f, phase := .queued }) d fun x => { x with swPois := satInc x.swPois 1 }
    | _ => s
  | none => s

/-- A copy reaches the die that keeps a slot for it: a good one fills it; a bad one is a failed attempt and, its header being good, the
last copy received. -/
def fillKept (s : State) (d : Nat) (dir : Dir) (i : Nat) (f : Frame) : State :=
  let put := fun (s : State) (p : RPhase → RPhase) => updRSlot s d dir i fun x => { x with f := { f with run := x.f.run }, phase := p x.phase }
  if hcrcOk f.hdr && (hPois f.hdr || pcrcOk f) then put s fun _ => .queued
  else if hcrcOk f.hdr then failAttempt (put (updDie s d fun x => { x with swPcrc := satInc x.swPcrc 1 }) id) d dir i
  else failAttempt s d dir i

/-- RESENT_COPY (R175): a copy reaches a die in the frames' direction: the one that keeps its slot checks it, any other relays it without
taking it. -/
def execResentCopy (d : Die) (dir : Dir) (hx px : Bytes) (s : State) : Ans :=
  match svcOn s d.val dir with
  | some (p, .resent g) =>
    match keptFor (ringOf (s.dies.get d.val) dir) g.hdr with
    | some i => .next (fillKept (popSvc s p dir) d.val dir i (damaged g hx px))
    | none =>
      if !forwards s d.val dir (hOwner g.hdr) then .next (popSvc s p dir)
      else if svcFits s d.val dir (arcLen g) then .next (sendSvc (popSvc s p dir) d.val dir (.resent (damaged g hx px)))
      else .next s
  | _ => .next s

/-- RE_REQUEST_TIMEOUT (R176). -/
def execReRequestTimeout (d : Die) (dir : Dir) (i : Nat) (s : State) : Ans := .next (failAttempt s d.val dir i)

/-! ### The end of a pass (R172) -/

/-- Whether a die has taken every frame of a sweep pass and checked every other owner's PASS_END in each direction. -/
def sweepDone (s : State) (d : Nat) : Bool :=
  [Dir.east, Dir.west].all fun dir =>
    let r := ringOf (s.dies.get d) dir
    ((nextDie s d dir).isNone || r.ownEnd) && (r.buf.all fun b => b.phase = .held) &&
      ((upDies s).all fun o => o = d ||
        (match s.md.epoch.line with
          | none => (r.prog.get o).ended
          | some q => (match dir with | .east => decide (linePos q d < linePos q o) | .west => decide (linePos q o < linePos q d)) || (r.prog.get o).ended))

/-- Whether every exchange of the plan is complete on a die, and every score exchange that it has a part in (R201). -/
def mooredDone (s : State) (d : Nat) : Bool :=
  let m := passGen s
  let done := fun (l x : Nat) => (s.dies.get d).xruns.any fun r => r.layer = l && r.xid = x && r.complete
  (m.info.plan.all fun p => done p.layer p.xid) && ((dividedOn s m.info d).isEmpty || (List.range m.info.layers).all fun l => done l 14)

/-- PASS_COMPLETE (R172, R207): a die has taken every frame of a sweep pass, or applied its home shard to every row of a moored one (R190).
The pass's reference goes with the last die (R173); the first die's report of the last pass before a waiting epoch sends PROPOSE. -/
def execPassComplete (d : Die) (s : State) : Ans :=
  if s.md.pass.running && dieUp s d.val && !(s.dies.get d.val).passDone && (if s.md.pass.mode = 1 then sweepDone s d.val else mooredDone s d.val) then
    let s := if s.md.pass.mode = 2 then eccNote s (mooredKeys s d.val) else s
    let s := updDie s d.val fun x => { x with passDone := true }
    let s := setMd s fun m => { m with pass := { m.pass with done := m.pass.done ++ [d.val] } }
    .next (proposeWaiting (if (upDies s).all fun e => s.md.pass.done.contains e then endPassRef s else s))
  else .next s

/-- SWP_STATUS.CNT_CLR (R187). -/
def execSwpStatusCntClr (d : Die) (s : State) : Ans := gate (dieBlockOn s d.val) s <|
  .next (updDie s d.val fun x => { x with swPcrc := 0, swResend := 0, swPois := 0, genDrop := 0 })

end Sys2Proof.Machine
end

