-- ==== Sys2Proof/Machine/Exchange.lean ====
section
/-!
DEFINITION. Exchanges of moored passes: arrival of packets, completion, and damaged packets (R194 to R201).
-/

namespace Sys2Proof.Machine

/-- Whether a die forwards an exchange packet: three or four dies on in the ring, to the ends of the line (R196). -/
def xForwards (s : State) (d : Nat) (dir : Dir) (src : Nat) : Bool :=
  (nextDie s d dir).isSome && (s.md.epoch.line.isSome ||
    match dir with | .east => d ≠ (src + 4) % 8 | .west => d ≠ (src + 5) % 8)

/-- A die asks the source for a packet again (R199). -/
def xReRequest (s : State) (d : Nat) (dir : Dir) (h : Bytes) : State :=
  let s := updDie s d fun x => { x with xResend := satInc x.xResend 1 }
  arcEvents (sendSvc s d (opposite dir) (.xrereq (xSrc h) d h)) (arcIn d dir) 1

/-- Whether two packets carry the same part of the same exchange. -/
def sameField (a b : Bytes) : Bool := xSrc a = xSrc b && xSum a = xSum b && xLayer a = xLayer b && xXid a = xXid b && xOff a = xOff b

/-- A packet is written where its payload is whole or poisoned, else asked for again. -/
def takePacket (s : State) (d : Nat) (dir : Dir) (f : Frame) : State :=
  if hPois f.hdr || pcrcOk f then absorb s d f
  else
    let s := updDie s d fun x => { x with xPcrc := satInc x.xPcrc 1, xwaits := x.xwaits ++ [⟨f.hdr, 1, f⟩] }
    xReRequest s d dir f.hdr

/-- The direction of a packet. -/
def xDir (h : Bytes) : Dir := if bitN (leAt h 0 4) 27 then .west else .east

/-- An attempt for a packet has failed: another request, or after the fourth the last copy is written with POIS = 1 (R199). -/
def xFail (s : State) (d i : Nat) : State :=
  match (s.dies.get d).xwaits[i]? with
  | none => s
  | some w =>
    if w.attempts < 4 then
      xReRequest (updDie s d fun x => { x with xwaits := modAt (fun y => { y with attempts := y.attempts + 1 }) x.xwaits i }) d (xDir w.hdr) w.hdr
    else
      let s := updDie s d fun x => { x with xwaits := x.xwaits.take i ++ x.xwaits.drop (i + 1), xPois := satInc x.xPois 1 }
      absorb s d (poisoned_ w.last)

/-- A resent copy reaches the die that asked for it. -/
def xCopy (s : State) (d : Nat) (f : Frame) (orig : Bytes) : State :=
  match indexOf (fun w : XWait => sameField w.hdr orig) (s.dies.get d).xwaits with
  | none => s
  | some i =>
    if hcrcOk f.hdr && (hPois f.hdr || pcrcOk f) then
      absorb (updDie s d fun x => { x with xwaits := x.xwaits.take i ++ x.xwaits.drop (i + 1) }) d f
    else
      let keep := hcrcOk f.hdr
      let s := updDie s d fun x => { x with
        xPcrc := if keep then satInc x.xPcrc 1 else x.xPcrc
        xwaits := if keep then modAt (fun y => { y with last := f }) x.xwaits i else x.xwaits }
      xFail s d i

/-- A packet arrives over the arc: accepted only in a moored pass (R194, R158), written and forwarded. -/
def packetArrives (s : State) (d : Nat) (dir : Dir) (hx px : Bytes) : State :=
  match headFrame s d dir with
  | none => s
  | some g =>
    if hKind g.hdr ≠ 4 || !mayArrive s d dir then s
    else
      let f := damaged g hx px
      let s := popFrame s d dir
      if !hcrcOk f.hdr || hKind f.hdr ≠ 4 || (s.md.pass.running && s.md.pass.mode = 1) then headFault s d dir
      else if hPass f.hdr ≠ (s.dies.get d).pass || !s.md.pass.running then s
      else
        let s := takePacket s d dir f
        if xForwards s d dir (xSrc f.hdr) then sendFrame s d dir f else s

/-- EXCHANGE_PACKET (R196, R199): a packet arrives, or a resent copy on the service channel, which takes precedence: the die that asked for
it checks it, any other relays it without writing it. -/
def execExchangePacket (d : Die) (dir : Dir) (hx px : Bytes) (s : State) : Ans :=
  match svcOn s d.val dir with
  | some (p, .xresent r g) =>
    if r = d.val then .next (xCopy (popSvc s p dir) d.val (damaged g hx px) g.hdr)
    else if (nextDie s d.val dir).isSome && svcFits s d.val dir (arcLen g) then
      .next (sendSvc (popSvc s p dir) d.val dir (.xresent r (damaged g hx px)))
    else .next s
  | _ => .next (packetArrives s d.val dir hx px)

/-! ### Completion (R198) -/

/-- Whether a die holds every part of `n` bytes that another die contributes. -/
def allParts (n : Nat) (has : Nat → Bool) : Bool := (List.range (ceilDiv n 4096)).all fun i => has (4096 * i)

/-- Whether every other die's contribution is there, and the die's own sums. -/
def xWhole (s : State) (d : Nat) (p : XPlan) (r : XRun) : Bool :=
  (upDies s).all (fun e => e = d || allParts (placeLen s p) fun o => r.placed.contains (e, o)) &&
    (upDies s).all fun e => allParts (sumLen s p) fun o => r.sums.any fun x => x.1 = e && x.2.1 = o

/-- The contributions of one offset in the order in which they are added: the die's own first and then as they arrived, or
ascending in reproducible mode (R198). -/
def sumOrder (repro : Bool) (d : Nat) (l : List (Nat × Bytes)) : List Bytes :=
  if repro then (sortBy (fun a b => decide (a.1 ≤ b.1)) l).map (·.2)
  else ((l.filter fun x => x.1 = d) ++ l.filter fun x => x.1 ≠ d).map (·.2)

/-- The FP32 sums of payloads added in a list's order. -/
def sumPayloads : List Bytes → Bytes
  | [] => []
  | a :: r => r.foldl (addGrads false) a

/-- The sums of an exchange written to its destination; a poisoned field marks the whole sum. -/
def writeSums (s : State) (d : Nat) (p : XPlan) (r : XRun) : State :=
  (List.range (ceilDiv (sumLen s p) 4096)).foldl (fun s i =>
    let parts := (r.sums.filter fun x => x.2.1 = 4096 * i).map fun x => (x.1, x.2.2)
    storeMod s (dieKey d (p.sumDest + 4096 * i)) ((sumPayloads (sumOrder s.pw.repro d parts)).map fun b => (b, r.pois))) s

/-- Bytes that another module determines are written to a die's HBM3, with whatever poison they bring. -/
def storeFar (s : State) (d off n : Nat) : State :=
  let r := takeFree s n
  storeMod { r.2 with free := r.2.free + 1 } (dieKey d off) (r.1.map fun b => (b, Config.freePick r.2.free 2 = 1))

/-- In the SPLIT pattern an exchange that is complete on the ring crosses the twin port (R456): what the ring has goes out from the
first die, and the other half's part enters every die's buffers. The other module's values are free here. -/
def crossTwin (s : State) (d : Nat) (p : XPlan) (r : XRun) : State :=
  if !split s then s
  else
    let own := loadMod s (dieKey d (placeAt s p 0)) (8 * placeLen s p) ++ loadMod s (dieKey d p.sumDest) (sumLen s p)
    let s := if (upDies s).head? = some d then sendTwin s kindSplit (leBytes 2 r.layer ++ leBytes 2 r.xid ++ leBytes 1 (b2n (own.any (·.2))) ++ leBytes 3 0 ++ own.map (·.1)) else s
    storeFar (storeFar s d (farPlace s p) (8 * placeLen s p)) d p.sumDest (sumLen s p)

/-- An exchange is complete on a die: sums written, the plan's semaphores signalled. -/
def completeX (s : State) (d : Nat) (p : XPlan) (r : XRun) : State :=
  let s := updX (crossTwin (writeSums s d p r) d p r) d r.layer r.xid fun y => { y with complete := true }
  p.sems.foldl (fun s g => sendSig s (32 * d + g.1) ⟨g.2.1, g.2.2, .xch d, none⟩) s

/-! ### The score exchange (R201) -/

/-- The dies that share a divided head. -/
def headDies (s : State) (m : ModelInfo) (q : Nat) : List Nat := (upDies s).filter fun d => headInShard s.md.epoch.line m d q

/-- Where a divided head's field begins in a die's contribution, and in its buffer: one field for each of its divided heads, ascending. -/
def fieldAt (s : State) (m : ModelInfo) (d q : Nat) : Nat := scoreLen s * (indexOf (· = q) (dividedOn s m d)).getD 0

/-- The bytes of a die's contribution as far as they have come, in the order of their offsets. -/
def sumBytes (r : XRun) (e : Nat) : Bytes :=
  ((sortBy (fun a b : Nat × Bytes => decide (a.1 ≤ b.1)) ((r.sums.filter fun x => x.1 = e).map fun x => x.2)).map (·.2)).flatten

/-- Whether every contribution to a die's divided heads has come whole. -/
def scoreWhole (s : State) (m : ModelInfo) (d : Nat) (r : XRun) : Bool :=
  ((dividedOn s m d).flatMap (headDies s m)).all fun e => allParts (scoreLen s * (dividedOn s m e).length) fun o => r.sums.any fun x => x.1 = e && x.2.1 = o

/-- The summed scores of a die's divided heads written to its buffer: only the dies that share a head contribute to its field. -/
def writeScore (s : State) (m : ModelInfo) (d : Nat) (r : XRun) : State :=
  (dividedOn s m d).foldl (fun s q =>
    let parts := (headDies s m q).map fun e => (e, bytesAt (sumBytes r e) (fieldAt s m e q) (scoreLen s))
    let sum := sumPayloads (sumOrder s.pw.repro d parts)
    sum.zipIdx.foldl (fun s b =>
      let o := fieldAt s m d q + b.2
      storeMod s (dieKey d ((s.md.pass.score.get d).getD (o / 4096) 0 + o % 4096)) [(b.1, r.pois)]) s) s

/-- EXCHANGE_COMPLETE (R198, R201). -/
def execExchangeComplete (d : Die) (layer : BitVec 12) (xid : BitVec 4) (s : State) : Ans :=
  match (s.dies.get d.val).xruns.find? fun r => r.layer = layer.toNat && r.xid = xid.toNat with
  | none => .next s
  | some r =>
    if r.complete || !s.md.pass.running then .next s
    else
      let m := (passGen s).info
      match planOf s layer.toNat xid.toNat with
      | some p => if xWhole s d.val p r then .next (completeX s d.val p r) else .next s
      | none =>
        if isScore s layer.toNat xid.toNat && scoreWhole s m d.val r then
          .next (updX (writeScore s m d.val r) d.val layer.toNat xid.toNat fun y => { y with complete := true })
        else .next s

/-! ### Damaged packets (R199) -/

/-- EXCHANGE_RE_REQUEST (R199): a re-request reaches a die on its way to the source, which resends what it keeps of the pass; any other die
passes it on. -/
def execExchangeReRequest (d : Die) (dir : Dir) (s : State) : Ans :=
  match svcBack s d.val dir with
  | some (n, .xrereq o r h) =>
    let t := popSvc s n (opposite dir)
    if o ≠ d.val then
      if svcFits s d.val (opposite dir) 32 then .next (sendSvc t d.val (opposite dir) (.xrereq o r h)) else .next s
    else
      match (s.dies.get d.val).xkept.find? fun f => sameField f.hdr h with
      | some f =>
        if svcFits s d.val dir (arcLen f) then .next (sendSvc t d.val dir (.xresent r (mkFrame (withFlag f.hdr 24 true) f.pay 0))) else .next s
      | none => .next t
  | _ => .next s

/-- EXCHANGE_RESEND_TIMEOUT (R199). -/
def execExchangeResendTimeout (d : Die) (i : Nat) (s : State) : Ans := .next (xFail s d.val i)

/-- MODE_STATUS.CNT_CLR (R220). -/
def execModeStatusCntClr (d : Die) (s : State) : Ans := gate (dieBlockOn s d.val) s <| .next (updDie s d.val fun x => { x with xPcrc := 0, xResend := 0, xPois := 0, abortCnt := 0 })

/-- ARC_FLIT_NAK (R174): a failed flit is replayed; the ninth failure in a row retrains the arc. -/
def execArcFlitNak (k : Fin 8) (s : State) : Ans :=
  let n := (s.arcs.get k.val).flitFails + 1
  if n ≤ 8 then .next (arcEvents (updArc s k.val fun a => { a with flitFails := n, replay := satInc a.replay 1 }) k.val 1)
  else .next (retrainArc s k.val 0)

/-- ARC_RETRAIN_DONE (R476): the arc is up again; a pass that it carried was abandoned and runs again. -/
def execArcRetrainDone (k : Fin 8) (s : State) : Ans :=
  if (s.arcs.get k.val).st = 1 then .next (fire (updArc s k.val fun a => { a with st := 2 }) (688 + k.val)) else .next s

/-- ARC_STATUSk.CNT_CLR (R558). -/
def execArcStatusCntClr (k : Fin 8) (s : State) : Ans := gate (blockOn s) s <|
  .next (updArc s k.val fun a => { a with replay := 0, retrain := 0, eastBytes := 0, westBytes := 0 })

end Sys2Proof.Machine
end

