-- ==== Sys2Proof/Machine/Graph.lean ====
section
/-!
DEFINITION. Stored graphs: images (R379), GRAPH_STORE (R380), GRAPH_PATCH (R381, R382), launches and their nodes on this
module and for other modules (R383, R384).
-/

namespace Sys2Proof.Machine

/-! ### Images (R379) -/

/-- Fields of the header of a graph image. -/
def gNodes (m : Bytes) : Nat := leAt m 2 2
def gEdges (m : Bytes) : Nat := leAt m 4 4
def gArgMax (m : Bytes) : Nat := leAt m 8 4

/-- The record of node `i`. -/
def nodeRec (m : Bytes) (i : Nat) : Bytes := bytesAt m (64 + 80 * i) 80

/-- The records of all nodes. -/
def nodeRecs (m : Bytes) : List Bytes := (List.range (gNodes m)).map (nodeRec m)

/-- The edges, as pairs of FROM and TO. -/
def edgesOf (m : Bytes) : List (Nat × Nat) :=
  (List.range (gEdges m)).map fun j => (leAt m (64 + 80 * gNodes m + 4 * j) 2, leAt m (64 + 80 * gNodes m + 4 * j + 2) 2)

/-- Fields of a node record. -/
def nLocal (n : Bytes) : Bool := bitN (leAt n 0 2) 15
def nModule (n : Bytes) : Nat := fld (leAt n 0 2) 8 0
def nArgSrc (n : Bytes) : Nat := leAt n 2 2
def nArgDst (n : Bytes) : Nat := byteN n 4
def nArgLen (n : Bytes) : Nat := byteN n 5
def nEntry (n : Bytes) : Bytes := bytesAt n 16 64

/-- A node record that R379 does not allow. -/
def nodeBad (argMax : Nat) (n : Bytes) : Bool :=
  decide (nArgDst n < 16) || decide (63 < nArgDst n) || decide (48 < nArgLen n) || decide (64 < nArgDst n + nArgLen n) ||
    decide (argMax < nArgSrc n + nArgLen n) || fld (leAt n 0 2) 14 9 ≠ 0 || (nLocal n && nModule n ≠ 0)

/-- R380 step 1. -/
def imageBad (m : Bytes) : Bool :=
  decide (m.length < 64) || leAt m 0 2 ≠ 1 || gNodes m = 0 || decide (4096 < gNodes m) || decide (16384 < gEdges m) || decide (4096 < gArgMax m) ||
    m.length ≠ 64 + 80 * gNodes m + 4 * gEdges m || (nodeRecs m).any (nodeBad (gArgMax m)) ||
    (edgesOf m).any fun e => decide (gNodes m ≤ e.1) || decide (gNodes m ≤ e.2) || e.1 = e.2

/-- The opcodes that a node may have (R380 step 2). -/
def nodeOpcodes : List Nat := [0x00, 0x01, 0x03, 0x0A, 0x0B, 0x0C, 0x0D]

/-- Nodes without remaining predecessors are removed until none is left to remove; the fuel is the number of nodes. -/
def peel (es : List (Nat × Nat)) : Nat → List Nat → List Nat
  | 0, l => l
  | f + 1, l =>
    let l' := l.filter fun n => es.any fun e => e.2 = n && l.contains e.1
    if l'.length = l.length then l else peel es f l'

/-- Whether the edges hold a cycle (R380 step 3). -/
def cyclic (m : Bytes) : Bool := !(peel (edgesOf m) (gNodes m) (List.range (gNodes m))).isEmpty

/-- R380 steps 1 to 3. -/
def checkGImage (m : Bytes) : Option Status :=
  firstFail [
    (imageBad m, .lenRange),
    ((nodeRecs m).any (fun n => !nodeOpcodes.contains (entryOpc (nEntry n))), .badOpcode),
    (cyclic m, .lenRange)]

/-! ### GRAPH_STORE and GRAPH_PATCH -/

/-- A stored graph. -/
def graphOf (s : State) (id : Nat) : GraphObj := s.cp.graphs.get id

/-- A version of a stored graph; 0 is the newest. -/
def versionOf (s : State) (id n : Nat) : Option GVersion :=
  let l := (graphOf s id).versions
  if n = 0 then l.getLast? else l.find? fun v => v.num = n

/-- A version of a stored graph by its number alone, as a patch names it. -/
def exactVersion (s : State) (id n : Nat) : Option GVersion := (graphOf s id).versions.find? fun v => v.num = n

/-- The graphs changed. -/
def setGraph (s : State) (id : Nat) (g : GraphObj) : State := { s with cp := { s.cp with graphs := s.cp.graphs.set id g } }

/-- The lowest free GRAPH_ID. -/
def freeGraph (s : State) : Option Nat := (List.range 256).find? fun i => (graphOf s i).versions.isEmpty

/-- The checks of GRAPH_STORE that come before its image is read. -/
def checkStoreHead (s : State) (e : Bytes) : Option Status :=
  firstFail [
    (decide (entryLen e < 64) || decide (0x1000000 < entryLen e), .lenRange),
    ((reach s (entryAddrW e) (entryLen e) false).isSome, (reach s (entryAddrW e) (entryLen e) false).getD .addrRange)]

/-- The bytes that a control command names with ADDR and LEN. -/
def dataOf (s : State) (e : Bytes) : Bytes := plain (readWord s (entryAddrW e) (entryLen e))

/-- GRAPH_STORE stores its image as version 1 of the lowest free graph. -/
def runGraphStore (j : JobRef) (e : Bytes) (s : State) : State :=
  checkThen (checkStoreHead s e) j (fun s =>
    let m := dataOf s e
    checkThen (checkGImage m) j (fun s =>
      match freeGraph s with
      | none => finish s j .busy 0
      | some id => finish (setGraph s id { versions := [⟨1, m, sha256 m⟩] }) j .ok (BitVec.ofNat 64 (id + 0x10000))) s) s

/-- GRAPH_STORE (R380). -/
def execGraphStore (st : Stream) (s : State) : Ans := startEntry 0x92 st.val runGraphStore s

/-- An image taken apart: header, node records, edges. -/
structure GParts where
  hdr : Bytes
  nodes : List Bytes
  edges : List (Nat × Nat)
  deriving DecidableEq, Repr

/-- The parts of an image. -/
def partsOf (m : Bytes) : GParts := ⟨bytesAt m 0 64, nodeRecs m, edgesOf m⟩

/-- The image of parts. -/
def imageFrom (p : GParts) : Bytes :=
  patch p.hdr 2 (leBytes 2 p.nodes.length ++ leBytes 4 p.edges.length) ++ p.nodes.flatten ++
    p.edges.flatMap fun e => leBytes 2 e.1 ++ leBytes 2 e.2

/-- The patch records from an offset on: head and data; nothing where one passes the end. -/
def patchRecs (b : Bytes) : Nat → Nat → Option (List (Bytes × Bytes))
  | 0, _ => some []
  | n + 1, o =>
    let len := byteN b (o + 1)
    let next := o + 8 + ceilDiv len 8 * 8
    if b.length < next then none else (patchRecs b n next).map fun l => (bytesAt b o 8, bytesAt b (o + 8) len) :: l

/-- One patch record applied. -/
def patchOne (p : GParts) (r : Bytes × Bytes) : Option GParts :=
  let a := leAt r.1 2 2
  let c := leAt r.1 4 2
  let off := byteN r.1 6
  match byteN r.1 0 with
  | 0 =>
    if a < p.nodes.length ∧ 1 ≤ r.2.length ∧ r.2.length ≤ 64 ∧ off + r.2.length ≤ 80 then
      some { p with nodes := modAt (fun n => patch n off r.2) p.nodes a }
    else none
  | 1 => some { p with edges := p.edges ++ [(a, c)] }
  | 2 => if p.edges.contains (a, c) then some { p with edges := p.edges.erase (a, c) } else none
  | 3 => if r.2.length = 80 then some { p with nodes := p.nodes ++ [r.2] } else none
  | _ => none

/-- Every patch record applied in order. -/
def patchAll (p : GParts) (l : List (Bytes × Bytes)) : Option GParts := l.foldl (fun q r => q.bind fun q => patchOne q r) (some p)

/-- The versions with one more: a 17th frees the oldest that no launch holds; none is stored while every one is held. -/
def addVersion (held : List Nat) (l : List GVersion) (v : GVersion) : Option (List GVersion) :=
  if l.length < 16 then some (l ++ [v])
  else
    match l.find? fun x => !held.contains x.num with
    | none => none
    | some x => some (l.erase x ++ [v])

/-- GRAPH_ID and BASE_VERSION of a patch; both commands have GRAPH_ID at the same place. -/
def gId (e : Bytes) : Nat := leAt e 16 2
def gVer (e : Bytes) : Nat := leAt e 18 2

/-- The checks of GRAPH_PATCH that come before its patch is read. -/
def checkPatchHead (s : State) (e : Bytes) : Option Status :=
  firstFail [
    (decide (entryLen e < 64) || decide (0x100000 < entryLen e), .lenRange),
    ((exactVersion s (gId e) (gVer e)).isNone, .notReady),
    ((graphOf s (gId e)).building, .busy),
    ((reach s (entryAddrW e) (entryLen e) false).isSome, (reach s (entryAddrW e) (entryLen e) false).getD .addrRange)]

/-- The records of a patch, when its header and its records are in range. -/
def patchOf (b : Bytes) : Option (List (Bytes × Bytes)) :=
  if leAt b 0 2 ≠ 1 || leAt b 2 2 = 0 || decide (4096 < leAt b 2 2) then none else patchRecs b (leAt b 2 2) 64

/-- Whether a patch is a deletion: DELETE as its only record. -/
def isDelete (l : List (Bytes × Bytes)) : Bool := match l with | [r] => byteN r.1 0 = 4 | _ => false

/-- A checked new version is stored as the newest. -/
def storeVersion (j : JobRef) (id : Nat) (m : Bytes) (s : State) : State :=
  let g := graphOf s id
  let n := ((g.versions.getLast?).map (·.num)).getD 0 + 1
  if 0xFFFF < n then finish s j .lenRange 0
  else
    match addVersion (heldVersions s id) g.versions ⟨n, m, sha256 m⟩ with
    | none => finish s j .busy 0
    | some l => finish (setGraph s id { g with versions := l }) j .ok (BitVec.ofNat 64 n)

/-- A graph is deleted once no launch holds any of its versions; until then other patches find it busy. -/
def deleteGraph (j : JobRef) (id : Nat) (s : State) : State :=
  deletesDue (setGraph (setBody s j (.ctl (.graphDelete id))) id { graphOf s id with building := true })

/-- GRAPH_PATCH builds a new version from a stored one, or deletes the graph. -/
def runGraphPatch (j : JobRef) (e : Bytes) (s : State) : State :=
  checkThen (checkPatchHead s e) j (fun s =>
    match patchOf (dataOf s e), exactVersion s (gId e) (gVer e) with
    | some l, some v =>
      if isDelete l then deleteGraph j (gId e) s
      else
        match patchAll (partsOf v.image) l with
        | none => finish s j .lenRange 0
        | some p => checkThen (checkGImage (imageFrom p)) j (storeVersion j (gId e) (imageFrom p)) s
    | _, _ => finish s j .lenRange 0) s

/-- GRAPH_PATCH (R381). -/
def execGraphPatch (st : Stream) (s : State) : Ans := startEntry 0x93 st.val runGraphPatch s

/-! ### Launches (R383) -/

/-- A node's ENTRY with its arguments copied in; STREAM and TAG are the launch's, DIG is ignored (R380). -/
def nodeEntry (head : Nat) (args n : Bytes) : Bytes :=
  let e := patch (nEntry n) (nArgDst n) (bytesAt args (nArgSrc n) (nArgLen n))
  let w := leAt e 0 4
  patch e 0 (leBytes 4 (fld head 31 16 * 2 ^ 16 + bAt (bitN w 14) 14 + fld head 11 8 * 2 ^ 8 + fld w 7 0))

/-- The nodes of a launch as module `here` sees them, `launcher` being the module that launches. -/
def launchNodes (m args : Bytes) (head launcher here : Nat) : List GNode :=
  (nodeRecs m).zipIdx.map fun p =>
    let on := if nLocal p.1 then launcher else nModule p.1
    { module := if on = here then none else some on
      entry := nodeEntry head args p.1
      preds := ((edgesOf m).filter fun e => e.2 = p.2).map (·.1)
      phase := .waiting }

/-- The checks of one node's entry under R343, its opcode being one of R380. -/
def checkNode (s : State) (e : Bytes) : Option Status :=
  match entryOpc e with
  | 0x01 => if byteN e 16 = 0 then checkKernel s e else if byteN e 16 = 1 then checkPrefill s e else if byteN e 16 = 2 then checkRelease s e else some .lenRange
  | 0x03 => checkDmaCmd s e (dmaEngine s e 0)
  | 0x0A => checkBarrier e
  | 0x0B => checkTimestamp s e
  | 0x0C => checkDigest s e
  | 0x0D => checkDecode s e
  | 0x00 => none
  | _ => some .badOpcode

/-- The first failing check among the nodes of this module. -/
def checkNodes (s : State) (l : List GNode) : Option Status :=
  (l.filter fun n => n.module.isNone).findSome? fun n => checkNode s n.entry

/-- The other modules that a launch names. -/
def launchModules (l : List GNode) : List Nat := (l.filterMap (·.module)).eraseDups

/-- The checks of GRAPH (R383 steps 1 and 3). -/
def checkGraph (s : State) (e : Bytes) : Option Status :=
  match versionOf s (gId e) (gVer e) with
  | none => if 4096 < entryLen e then some .lenRange else some .notReady
  | some v =>
    match firstFail [
      (decide (4096 < entryLen e) || entryLen e ≠ gArgMax v.image, Status.lenRange),
      (entryLen e ≠ 0 && (reach s (entryAddrW e) (entryLen e) false).isSome, (reach s (entryAddrW e) (entryLen e) false).getD .addrRange)] with
    | some x => some x
    | none =>
      let l := launchNodes v.image (dataOf s e) (leAt e 0 4) (selfModule s) (selfModule s)
      match checkNodes s l with
      | some x => some x
      | none => if (launchModules l).any fun m => (routeTo s m).isNone then some .notReady else none

/-- GRAPH launches: other modules are told, and nodes start by GRAPH_NODE_START. -/
def runGraph (j : JobRef) (e : Bytes) (s : State) : State :=
  checkThen (checkGraph s e) j (fun s =>
    match versionOf s (gId e) (gVer e) with
    | none => finish s j .notReady 0
    | some v =>
      let args := dataOf s e
      let l := launchNodes v.image args (leAt e 0 4) (selfModule s) (selfModule s)
      let s := updJob s j fun b => { b with program := v.digest, input := sha256 args, repro := s.pw.repro }
      let s := setBody s j (.graph { id := gId e, version := v.num, nodes := l, failed := [], firstFail := none, asked := launchModules l })
      (launchModules l).foldl (fun s m => sendTo s m kindLaunch (leBytes 2 (gId e) ++ leBytes 2 v.num ++ v.digest ++ leBytes 4 (leAt e 0 4) ++ args)) s) s

/-- GRAPH (R383). -/
def execGraph (st : Stream) (s : State) : Ans := startEntry 0x02 st.val runGraph s

/-! ### Nodes -/

/-- Whether node `n` of a launch may start: it waits here, its predecessors have completed with OK, fewer than 64 run. -/
def nodeReady (l : List GNode) (n : Nat) : Bool :=
  match l[n]? with
  | none => false
  | some x =>
    x.module.isNone && x.phase = .waiting && decide ((l.countP fun y => y.phase = .running) < 64) &&
      x.preds.all fun p => match l[p]? with | some y => y.phase = .done .ok | none => false

/-- A node's entry run as the command it is. -/
def runNode (j : JobRef) (e : Bytes) (de ch : Nat) (s : State) : State :=
  match entryOpc e with
  | 0x00 => runNop j e s
  | 0x01 => runKernel j e s
  | 0x03 => runDma de ch j e s
  | 0x0A => runBarrier j e s
  | 0x0B => runTimestamp j e s
  | 0x0C => runDigest j e s
  | _ => runDecode j e s

/-- Whether a node has to wait: a DMA node finds its channel's ring full, a kernel maps a tile that is being scrubbed. -/
def nodeBlocked (s : State) (e : Bytes) (de ch : Nat) : Bool :=
  (entryOpc e = 0x03 && decide (32 ≤ chanQueued (chanOf s (dmaEngine s e de) ch))) || kernelWaits s e

/-- The node `n` of a list now runs. -/
def markRunning (l : List GNode) (n : Nat) : List GNode := modAt (fun x => { x with phase := .running }) l n

/-- A node starts as job `j`, or is rejected once two dies are out of service (R22); where its ENTRY lies in the HBM reserve the spec
leaves open. -/
def startNode (j : JobRef) (b : Job) (e : Bytes) (de ch : Nat) (s : State) : State :=
  let a := takeFree s 8
  checkThen (if stopped s then some .dieRetired else none) j (runNode j e de ch) (putJob (noteReads a.2 e) j { b with entry := e, entryAddr := BitVec.ofNat 64 (leNat a.1), start := now s, body := .begun })

/-- A job with nothing noted yet. -/
def bareJob (e : Bytes) : Job := { entry := e, sqIdx := 0, entryAddr := 0, depth := 0, frames := [], start := 0, body := .begun }

/-- A node of the graph that runs in a stream starts. -/
def startOwn (s : State) (st n de ch : Nat) : State :=
  match getJob s (.stream st) with
  | none => s
  | some b =>
    match b.body with
    | .graph g =>
      let e := ((g.nodes[n]?).map (·.entry)).getD []
      if nodeReady g.nodes n && g.failed.isEmpty && g.asked.isEmpty && !nodeBlocked s e de ch then
        let s := putJob s (.stream st) { b with body := .graph { g with nodes := markRunning g.nodes n } }
        startNode (.node st n) { bareJob e with sqIdx := b.sqIdx, depth := b.depth, frames := b.frames } e de ch s
      else s
    | _ => s

/-- A node run here for launch `k` of another module starts. -/
def startRemote (s : State) (k n de ch : Nat) : State :=
  match s.cp.remotes.get k with
  | none => s
  | some l =>
    let e := ((l.nodes[n]?).map (·.entry)).getD []
    if l.go && !l.halted && nodeReady l.nodes n && !nodeBlocked s e de ch then
      let s := { s with cp := { s.cp with remotes := s.cp.remotes.set k (some { l with nodes := markRunning l.nodes n }) } }
      startNode (.remote k n) (bareJob e) e de ch s
    else s

/-- GRAPH_NODE_START (R383 step 4); nodes from 4,096 on are those of launches of other modules, 4,096 for each launch. -/
def execGraphNodeStart (st : Stream) (node : Nat) (de : Fin 16) (ch : Chan) (s : State) : Ans :=
  if node < 4096 then .next (startOwn s st.val node de.val ch.val)
  else .next (startRemote s (node / 4096 - 1) (node % 4096) de.val ch.val)

/-! ### Launches of other modules -/

/-- The number that a launch of another module takes. -/
def freeRemote (s : State) : Nat := ((List.range (s.cp.remotes.length + 1)).find? fun k => (s.cp.remotes.get k).isNone).getD 0

/-- The answer to a launch: its checks here, all in order or the first that fails. -/
def answerLaunch (s : State) (src : Nat) (head : W32) (id version : BitVec 16) (x : Status) : State :=
  sendTo s src kindToken (tokenBytes src (rfld (head.setWidth 64) 11 8) id.toNat version.toNat 0xFFFF x {})

/-- GRAPH_LAUNCH_MESSAGE (R383 step 3): this module checks its own nodes of a graph that it holds with an equal digest, and answers; no node
of the launch runs before every module has found its checks in order. -/
def execGraphLaunchMessage (src : Fin 512) (head : W32) (id version : BitVec 16) (digest args : Bytes) (s : State) : Ans :=
  let refuse := fun (x : Status) => .next (answerLaunch s src.val head id version x)
  if stopped s then refuse .dieRetired
  else match versionOf s id.toNat version.toNat with
  | none => refuse .notReady
  | some v =>
    if v.digest ≠ digest then refuse .notReady
    else if args.length ≠ gArgMax v.image then refuse .lenRange
    else
      let l := launchNodes v.image args head.toNat src.val (selfModule s)
      match checkNodes s l with
      | some x => refuse x
      | none =>
        let r : RemoteLaunch := { src := src.val, st := rfld (head.setWidth 64) 11 8, id := id.toNat, version := v.num, nodes := l }
        .next (answerLaunch { s with cp := { s.cp with remotes := s.cp.remotes.set (freeRemote s) (some r) } } src.val head id version .ok)

/-- The node whose completion a token reports: FROM of an edge; numbers from E on stand for the nodes themselves. -/
def tokenNode (s : State) (id version edge : Nat) : Nat :=
  match versionOf s id version with
  | none => 0
  | some v => if h : edge < (edgesOf v.image).length then ((edgesOf v.image)[edge]).1 else edge - gEdges v.image

/-- Whether a node is one of module `src` that has not been reported yet. -/
def awaits (l : List GNode) (src n : Nat) : Bool := match l[n]? with | some x => x.module = some src && x.phase = .waiting | none => false

/-- The completion of a node that ran on another module, written here (R384). -/
def farCompletion (s : State) (st n : Nat) (b : Job) (g : GraphRun) (x : Status) (r : NodeReport) : State :=
  let e := ((g.nodes[n]?).map (·.entry)).getD []
  postInner s st { bareJob e with sqIdx := b.sqIdx, depth := b.depth, frames := b.frames, start := r.start, intSat := r.flags.getLsbD 0
                                  nanCvt := r.flags.getLsbD 1, resumed := r.flags.getLsbD 2, migrated := r.flags.getLsbD 3 } x 0xFFFFFFFF r.result

/-- A launch after a change: over, or going on. -/
def settleOwn (s : State) (st : Nat) (b : Job) (g : GraphRun) : State :=
  let s := putJob s (.stream st) { b with body := .graph g }
  if graphOver g then finishGraph s st { b with body := .graph g } g else s

/-- A node of another module has ended: its completion, its mark, and after the first failure the end of further starts. -/
def tokenOwn (s : State) (st : Nat) (b : Job) (g : GraphRun) (n : Nat) (x : Status) (r : NodeReport) : State :=
  let s := farCompletion s st n b g x r
  let g' := graphMark g n x
  let h := if x = .ok then (s, g') else haltFar s st g'
  settleOwn h.1 st b h.2

/-- An answer to a launch: nodes start once every module has found its checks in order, and a failed check ends the launch (R383). -/
def answerOwn (s : State) (st : Nat) (b : Job) (g : GraphRun) (src : Nat) (x : Status) : State :=
  if !g.asked.contains src then s
  else if x ≠ .ok then finish s (.stream st) x 0
  else
    let g' := { g with asked := g.asked.erase src }
    let s := putJob s (.stream st) { b with body := .graph g' }
    if g'.asked.isEmpty then tellFar s st g' (farModules g'.nodes) .ok else s

/-- The launch of a graph that runs in a stream. -/
def ownLaunch (s : State) (st id : Nat) : Option (Job × GraphRun) :=
  match getJob s (.stream st) with
  | none => none
  | some b =>
    match b.body with
    | .graph g => if g.id = id then some (b, g) else none
    | _ => none

/-- The launch that another module sent here. -/
def remoteLaunch (s : State) (launcher st id : Nat) : Option (Nat × RemoteLaunch) :=
  s.cp.remotes.findSome? fun p =>
    match p.2 with
    | none => none
    | some l => if l.src = launcher ∧ l.st = st ∧ l.id = id then some (p.1, l) else none

/-- A token as a message brings it: between the modules of a launch, or for a node that has ended. -/
def takeToken (s : State) (src launcher st id version n : Nat) (x : Status) (r : NodeReport) : State :=
  if launcher = selfModule s then
    match ownLaunch s st id with
    | none => s
    | some (b, g) =>
      if n = 0xFFFF then answerOwn s st b g src x
      else if n = 0xFFFD then settleOwn s st b { g with stopping := g.stopping.erase src }
      else if awaits g.nodes src n then tokenOwn s st b g n x r
      else s
  else
    match remoteLaunch s launcher st id with
    | none => if n = 0xFFFE && x ≠ .ok then sendTo s launcher kindToken (tokenBytes launcher st id version 0xFFFD .ok {}) else s
    | some (k, l) =>
      if n = 0xFFFE then (if x = .ok then settleRemote s k { l with go := true } else settleRemote s k { l with halted := true })
      else if awaits l.nodes src n then settleRemote s k { l with nodes := modAt (fun q => { q with phase := .done x }) l.nodes n }
      else s

/-- COMPLETION_TOKEN (R383): an edge between modules is satisfied. -/
def execCompletionToken (src launcher : Fin 512) (st : Stream) (id : BitVec 16) (edge : Nat) (rep : NodeReport) (s : State) : Ans :=
  let version := if launcher.val = selfModule s then (ownLaunch s st.val id.toNat).map (·.2.version) else (remoteLaunch s launcher.val st.val id.toNat).map (·.2.version)
  match version with
  | some v => .next (takeToken s src.val launcher.val st.val id.toNat v (tokenNode s id.toNat v edge) .ok rep)
  | none => .next s

end Sys2Proof.Machine
end

