-- ==== Sys2Proof/Machine/Reset.lean ====
section
/-!
DEFINITION. Image verification (R522, R523), start-up (R519 to R521), the four reset levels (R491, R492, R552, R553), the fatal
faults (R489, R490) and power-down (R499).
-/

namespace Sys2Proof.Machine

/-! ### Parts of the state -/

/-- The global registers, the pins, the boot state and the fault state changed by `f`. -/
def setGlb (s : State) (f : Glb → Glb) : State := { s with glb := f s.glb }
def setPins (s : State) (f : Pins → Pins) : State := { s with pins := f s.pins }
def setBoot (s : State) (f : Boot → Boot) : State := { s with boot := f s.boot }
def setFlt (s : State) (f : Faults → Faults) : State := { s with flt := f s.flt }

/-- Whether the hot-swap switch is closed: the module is powered. -/
def powered (s : State) : Bool := s.pins.hotSwap

/-- Whether flash can be written: PWR_ALERT# is not asserted (R495, R537). -/
def flashOpen (s : State) : Bool := !s.pins.alert

/-! ### Images (R522, R523) -/

/-- The bytes of an image; the empty one stands for the image that the flash holds from manufacture. -/
def imageBytes (b : Bytes) : Bytes := if b.isEmpty then Config.factoryImage else b

/-- Fields of an image header. -/
def imgSvn (m : Bytes) : Nat := byteN m 6
def imgLen (m : Bytes) : Nat := leAt m 16 4

/-- The trailer of an image. -/
def imgTrailer (m : Bytes) : Bytes := bytesAt m (imgLen m - 5360) 5360

/-- The signed message. -/
def imgMessage (m : Bytes) : Bytes := bytesAt m 0 (imgLen m - 5360)

/-- The firmware digest. -/
def fwDigest (m : Bytes) : Bytes := sha256 (imgMessage m)

/-- The lowest SVN accepted: the fuses as they stand. -/
def svnFloor (s : State) : Nat := max Config.fusedSvnMin.toNat s.boot.svnMin.toNat

/-- R523 check 2. -/
def imgHeaderOk (m : Bytes) : Bool :=
  leAt m 0 4 = 0x48534F52 && leAt m 4 2 = 1 && decide (5617 ≤ imgLen m) && decide (imgLen m ≤ 62914560) && decide (imgLen m ≤ m.length) &&
    decide (leAt m 12 2 ≤ Config.romVer.toNat)

/-- R523 checks 3 to 6. -/
def imgSigned (s : State) (m : Bytes) : Bool :=
  let t := imgTrailer m
  Config.fwKeyHashes.contains (sha256 (bytesAt t 0 1984)) && decide (svnFloor s ≤ imgSvn m) &&
    Config.ed25519Verifies (bytesAt t 0 32) (imgMessage m) (bytesAt t 1984 64) &&
    Config.mldsaVerifies (bytesAt t 32 1952) (imgMessage m) (bytesAt t 2048 3309)

/-- R523 checks 2 to 6; the image from manufacture passes. -/
def imageOk (s : State) (m : Bytes) : Bool := m.isEmpty || (imgHeaderOk m && imgSigned s m)

/-- The module waits in recovery (R526) with a cause. -/
def enterRecovery (s : State) (cause : Nat) : State :=
  { setBoot s fun b => { b with recovery := true, recCause := cause, running := [] } with
    glb := { s.glb with state := 2 }
    hq := { s.hq with ready := false }
    dies := (List.range 8).foldl (fun t d => Tbl.upd t d fun x => { x with st := if x.st = DieState.retired then DieState.retired else DieState.unpowered }) s.dies }

/-- Stage 3: the boot ROM starts the committed image, or waits in recovery. -/
def romStage (s : State) : State :=
  if 3 ≤ s.flt.bootFaults then enterRecovery s 3
  else if !s.boot.committed then enterRecovery s 1
  else if !imageOk s s.boot.image then enterRecovery s 2
  else setBoot s fun b => { b with recovery := false, recCause := 0, recErr := 0, running := b.image, stage := 3 }

/-! ### What every level that reaches the module clears -/

/-- A running command ends without a completion: what it held is released as after a kill. -/
def dropJob (s : State) (p : JobRef × Job) : State :=
  let s := delJob (releaseKilled s p.1 p.2 .timeout) p.1
  match p.2.body with
  | .graph g => g.ran.foldl killTile s
  | _ => s

/-- Every command ends without a completion (R491). -/
def killWork (s : State) : State :=
  let s := s.cp.jobs.foldl dropJob s
  let s := (s.cp.remotes.flatMap fun r => match r.2 with | some l => l.ran | none => []).foldl killTile s
  let s := s.cp.persists.foldl (fun s p => endPersist s p.id) s
  { s with
    cp := { s.cp with jobs := [], streams := [], remotes := [], persists := [], graphs := s.cp.graphs.mapAll fun _ g => { g with building := false } }
    lk := { s.lk with twinWaits := [], pairJob := none, joining := false } }

/-- The registers and the sequencer of a tile after a reset that keeps its harvest (R104, R132, R395, R486). -/
def resetTile (x : Tile) : Tile :=
  let z := zeroSems x
  { w0 := x.w0, w1 := x.w1, retired := x.retired || x.retirePend, byp0 := x.byp0, byp1 := x.byp1, sigSum := z.sigSum, decSum := z.decSum }

/-- The destinations of the descriptors in progress of an engine, whose contents its reset leaves undefined (R327). -/
def scrambleEngine (s : State) (e : Nat) : State :=
  (List.range 4).foldl (fun s ch => (chanOf s e ch).prog.foldl scrambleDest s) s

/-- A die's window after function-level or warm reset: counts and transient state are gone, what reports kept state stays. -/
def resetDie (x : DieRegs) : DieRegs :=
  { st := if x.st = .reset3 then (if x.quar then .quarantined else .inService) else x.st
    quar := x.quar, stageWays := x.stageWays, lines := x.lines, badLines := x.badLines, weakLines := x.weakLines, lineMarks := x.lineMarks
    spareMin := x.spareMin, mapped := x.mapped, swsUe := x.swsUe, swsCe := x.swsCe
    mapPend := x.mapPend, rowMap := x.rowMap, badSpares := x.badSpares, swsFails := x.swsFails
    abortCnt := x.abortCnt
    hbm := x.hbm, grads := x.grads, lastQuar := x.lastQuar }

/-- The scratchpads of every tile scrubbed. -/
def scrubAll (m : Memories) : Memories :=
  { m with
    mod := m.mod.filter fun c => (lineOfKey c.1).isNone
    pois := m.pois.filter fun c => (lineOfKey (64 * c.1)).isNone
    ecc := m.ecc.filter fun c => (lineOfKey (64 * c.1)).isNone
    fill := [] }

/-- A model slot after function-level or warm reset: its generations and modes stay, its queues and its session are gone; a
generation held in a window of the host tier has lost its bytes. -/
def resetSlot (x : Slot) : Slot :=
  { x with session := none, admits := [], switches := [], gens := x.gens.map fun g => { g with window := none, whole := g.whole && g.window.isNone } }

/-- Slots, sequences and passes after function-level or warm reset: a commit that has begun stands, parked sequences are released,
topology changes still wait. -/
def resetModels (s : State) : State :=
  let s := if s.md.epoch.phase = .committing then s.md.epoch.reqs.foldl applyReq s else s
  let s := joinFreed (abandonPass s) none
  let s := (s.md.seqs.filter fun q => q.parked.isSome).foldl dropSeq s
  setMd s fun m =>
    let e := m.epoch
    let wait := (if e.phase = .committing then [] else e.reqs.filter (·.topology)) ++ e.waiting.filter (·.topology)
    { m with
      slots := m.slots.mapAll fun _ x => resetSlot x
      loops := [], pass := {}, tier := [], stagePend := none, freed := []
      epoch := { line := e.line, waiting := wait } }

/-- Power and clocks after function-level or warm reset: cap, BORROW and the time-tag ring stay. -/
def resetPower (p : Power) : Power :=
  { p with
    reserve := 0, pool := 0, capLim := false, thermLim := false, inputWarn := false, coolWarn := false
    collCnt := 0, stepDn := 0, loans := 0, step := 0, pinStep := 0, pinned := false, repro := false, clockPend := [], lowerPend := none, downFor := none
    toks := p.toks.mapAll fun _ t => { tj := t.tj } }

/-- The global, MSI-X, aperture and debug registers after function-level or warm reset (R554, R560). -/
def resetGlb (g : Glb) : Glb :=
  { g with
    apErr := false, accErr := false, collCnt := 0, accBad := 0, rstIgn := 0, dieResets := [], dieResetQ := []
    msixAddr := [], msixData := [], msixOpen := [], msixPend := [], apSegs := []
    dbgAddr := 0, dbgFrom := 0, dbgBusy := false, dbgErr := 0, dbgData := [], dbgPois := 0 }

/-- Effects that function-level and warm reset share. -/
def resetCommon (s : State) : State :=
  let s := resetModels (killWork s)
  let s := (s.engines.map (·.1)).foldl scrambleEngine s
  { s with
    tiles := s.tiles.mapAll fun _ x => resetTile x
    engines := []
    dies := s.dies.mapAll fun _ x => resetDie x
    hq := {}
    cp := { s.cp with capOvf := false, deadlocks := 0 }
    bcn := { s.bcn with mbar := [], cbar := [] }
    evr := { s.evr with hostqs := [], collCnt := 0, qfull := 0, dbIgn := 0 }
    pw := resetPower s.pw
    glb := resetGlb s.glb
    boot := { s.boot with chal := [], secOp := none, secRes := 0, recOp := none } }

/-- A record of the cause of a reset that begins (R551, R553). -/
def noteReset (s : State) (level src fatal : Nat) : State :=
  setGlb s fun g => { g with rcLevel := level, rcSource := src, rcFatal := BitVec.ofNat 8 fatal }

/-- A fog message of a module that serves: none is sent in recovery (R526). -/
def fogOut (s : State) (cause : Nat) : State := if s.boot.recovery then s else sendFog s cause

/-- The fog message of a joined module that begins a warm or cold reset (R489). -/
def fogIfJoined (s : State) (cause : Nat) : State := if s.lk.joined then fogOut s cause else s

/-! ### The levels -/

/-- Function-level reset. -/
def resetLevel1 (s : State) (src : Nat) : State :=
  let busy := s.glb.dieResets
  let q := s.glb.dieResetQ
  let s := resetCommon (noteReset s 1 src 0)
  { s with
    dies := s.dies.mapAll fun d x => if busy.contains d then { x with st := .reset3 } else x
    boot := { s.boot with stage := 0 }
    glb := { s.glb with state := 0, reset := some ⟨1, 0, src⟩, dieResets := busy, dieResetQ := q } }

/-- The links of a module that drops them: every link but a retired one goes DOWN, ports, policy and pairing are gone, the
counts and the member table stay (R472, R491). -/
def dropLinks (s : State) : State :=
  let gone := (List.range 24).filter fun n => (s.lk.links.get n).st ≠ 0 && (s.lk.links.get n).st ≠ 5
  let s := { s with lk := {
    links := s.lk.links.mapAll fun _ l =>
      { st := if l.st = 5 then 5 else 0, lg0Ret := l.lg0Ret, lg1Ret := l.lg1Ret, retrain := l.retrain, replayCnt := l.replayCnt, crcCnt := l.crcCnt, fecCnt := l.fecCnt }
    members := s.lk.members, fogSeen := s.lk.fogSeen } }
  gone.foldl (fun s n => fire s (664 + n)) s

/-- Warm reset: Rosha restarts, the links drop, weights and KV stay. -/
def resetLevel2 (s : State) (src fatal : Nat) (fog : Bool) : State :=
  let s := if fog then fogIfJoined s 0x07 else s
  let s := dropLinks (resetCommon (noteReset s 2 src fatal))
  romStage { s with
    mem := scrubAll s.mem
    bcn := { local_ := s.bcn.local_ }
    evr := { s.evr with keepers := [], lastSrc := [], srcs := s.evr.srcs.mapAll fun _ r => { r with act := false, queued := false, refire := false, deferred := false } }
    boot := { s.boot with stage := 2 }
    glb := { s.glb with state := 0, reset := some ⟨2, 0, src⟩ } }

/-- What cold reset leaves of the fault state: flash records and policies (R478, R480, R493). -/
def coldFaults (f : Faults) : Faults :=
  { flash := f.flash, policies := f.stored, stored := f.stored, retired := f.retired, rowMaps := f.rowMaps, bootFaults := f.bootFaults }

/-- The row-map records of a kind for a die (R147, R259). -/
def rowsOf (f : Faults) (kind d : Nat) : List (W64 × Nat) := f.rowMaps.filter fun r => rfld r.1 63 56 = kind && rfld r.1 2 0 = d

/-- The row that an SWS record names, with its spare. -/
def recordRow (r : W64 × Nat) : RowFix := { swsRow (swsRowAddr r.1) with spare := r.2 }

/-- What an HBM3 stack's records leave of it: the rows in force, and the entries of the remap table among them (R259). -/
def coldStack (f : Faults) (d c : Nat) : HbmStat :=
  let l := (rowsOf f 5 d).filter fun r => rfld r.1 4 3 = c
  { remap := l.countP (·.2 = 1), rows := l.map (·.1) }

/-- What cold reset leaves of a die: what its flash records say (R149, R480). -/
def coldDie (f : Faults) (d : Nat) (x : DieRegs) : DieRegs :=
  showRows { st := if f.retired.contains (dieChan d) then .retired else .starting
             rowMap := (rowsOf f 6 d).map recordRow
             hbm := (List.range 4).foldl (fun t c => Tbl.set t c (coldStack f d c)) [], lastQuar := x.lastQuar }

/-- What cold reset leaves of the boot state: flash, fuses and keys. -/
def coldBoot (b : Boot) : Boot :=
  { bootEpoch := b.bootEpoch, image := b.image, committed := b.committed, svnMin := b.svnMin, keys := b.keys, chalCount := b.chalCount, selfTest := b.selfTest, stage := 2 }

/-- Every field at its Reset value but for what survives every level. -/
def coldState (s : State) : State :=
  { State.reset with
    pending := s.pending
    mem := { host := s.mem.host }
    dies := (List.range 8).foldl (fun t d => Tbl.set t d (coldDie s.flt d (s.dies.get d))) []
    bcn := { local_ := s.bcn.local_ }
    lk := { links := (List.range 24).foldl (fun t n => if s.flt.retired.contains (dieChan (n / 3)) then Tbl.set t n { st := 5 } else t) [] }
    flt := coldFaults s.flt
    pw := { tt := s.pw.tt, ttNext := s.pw.ttNext, lock := s.pw.lock, alert := s.pw.alert, suspended := s.pw.suspended, vin := s.pw.vin, iin := s.pw.iin, pin := s.pw.pin, coolIn := s.pw.coolIn, coolOut := s.pw.coolOut }
    boot := coldBoot s.boot
    glb := { rcLevel := s.glb.rcLevel, rcSource := s.glb.rcSource, rcFatal := s.glb.rcFatal, reset := s.glb.reset }
    pins := { s.pins with d3 := false, wake := false }
    out := s.out
    free := s.free }

/-- Cold reset: the module is cleared; while the root PLL is unlocked it is held there, otherwise start-up runs (R510). -/
def resetLevel4 (s : State) (src fatal : Nat) (fog : Bool) : State :=
  let s := if fog then fogIfJoined s 0x08 else s
  let s := (s.engines.map (·.1)).foldl scrambleEngine (noteReset s 4 src fatal)
  let s := setGlb (coldState s) fun g => { g with reset := some ⟨4, 0, src⟩ }
  if s.pins.pllHold then s else romStage s

/-- A reset of level 1, 2 or 4 is ignored while one of equal or higher rank is in progress (R552). -/
def resetRefused (s : State) (level : Nat) : Bool :=
  !powered s || (match s.glb.reset with | some r => decide (level ≤ r.level) | none => false)

/-! ### Level 3 -/

/-- The commands with units on a die end with NOT_READY, killed. -/
def killOnDie (s : State) (d : Nat) : State :=
  ((s.cp.jobs.map (·.1)).filter (unitsOn s d)).foldl (fun s j => finish s j .notReady 0 true) s

/-- The window, tiles and engines of a die at their reset values; HBM3 keeps its contents, the die cache is empty. -/
def clearDie (s : State) (d : Nat) : State :=
  let s := recallAll s
  let s := ((List.range 18).map (18 * d + ·)).foldl scrambleEngine s
  let ts := (List.range 32).map (32 * d + ·)
  rePool { s with
    mem := ts.foldl scrubMem s.mem
    tiles := ts.foldl (fun m t => Tbl.upd m t resetTile) s.tiles
    engines := s.engines.filter fun e => e.1 = 144 || e.1 / 18 ≠ d
    dies := Tbl.upd s.dies d fun x => { resetDie x with st := .reset3, lines := [], badLines := [], weakLines := [], lineMarks := [] } }

/-- A die's reset begins: no pass runs while it lasts (R492). -/
def startDieReset (s : State) (d src : Nat) : State :=
  let s := noteReset (killOnDie s d) 3 src 0
  let s := clearDie (abandonPass (abortEpoch s)) d
  setGlb s fun g => { g with dieResets := g.dieResets ++ [d], dieResetQ := g.dieResetQ.filter (· ≠ d) }

/-- The next die reset that waits, in ascending index, begins when none is in progress. -/
def nextDieReset (s : State) (src : Nat) : State :=
  if !s.glb.dieResets.isEmpty || s.glb.reset.isSome then s
  else
    match sortBy (fun a b => decide (a ≤ b)) s.glb.dieResetQ with
    | [] => s
    | d :: _ => startDieReset s d src

/-- A request of level 3 (R552): ignored under a higher level, for a retired die and for a die already in reset; otherwise it
begins, or waits for the reset in progress. -/
def resetLevel3 (s : State) (d src : Nat) : State :=
  let higher := match s.glb.reset with | some r => decide (2 ≤ r.level) | none => false
  if !powered s || higher || (s.dies.get d).st = .retired || s.glb.dieResets.contains d || s.glb.dieResetQ.contains d then s
  else nextDieReset (setGlb s fun g => { g with dieResetQ := g.dieResetQ ++ [d] }) src

/-- The RESET commands that wait for a die end. -/
def endDieJobs (s : State) (d : Nat) (x : Status) : State :=
  s.cp.jobs.foldl (fun s p => match p.2.body with | .ctl (.dieReset e) => if e = d then finish s p.1 x 0 else s | _ => s) s

/-! ### What the tests find (R102, R146, R148, R149, R491, R521) -/

/-- Retired tiles, bypassed columns, failed dies. -/
def applyTest (s : State) (t : SelfTest) : State :=
  let s := t.retiredTiles.foldl (fun s n => retireTile s n.val true 0) s
  let s := t.bypassed.foldl (fun s b => bypassColumn s b.1.val b.2.1 b.2.2.val) s
  t.failedDies.foldl (fun s d => retireDie s d.val true) s

/-- An SWS row that the start-up test fails, mapped out at once; a bank without a usable spare row retires the die (R148). Its record is
written where flash can be. -/
def startRow (d : Nat) (s : State) (r : RowFix) : State :=
  match nextSpare (s.dies.get d) r with
  | none => retireDie s d true
  | some n =>
    let s := updDie (logStuck s (r.chan d) 2) d fun x => { x with rowMap := x.rowMap ++ [{ r with spare := n }] }
    if flashOpen s then persistRow s (r.chan d) n else s

/-- The row test of a die's SWS (R149): failing spares become unusable, and failing rows are mapped out, rows whose spare failed among
them. -/
def testRows (t : SelfTest) (s : State) (d : Nat) : State :=
  let key := fun (r : SwsRow) => (bAt r.upper 0, r.sector.val, r.bank.val, r.row.val)
  let mine := fun (l : List (Die × SwsRow)) => (l.filter fun p => p.1.val = d).map fun p => key p.2
  let s := updDie s d fun x => { x with badSpares := (x.badSpares ++ mine t.badSpares).eraseDups }
  let x := s.dies.get d
  let spoilt := fun (q : RowFix) => x.badSpares.contains (q.upper, q.sector, q.bank, q.spare)
  let found := ((mine t.swsRows).map fun k => (⟨k.1, k.2.1, k.2.2.1, k.2.2.2, 0⟩ : RowFix)).filter fun r => !x.rowMap.any r.same
  let s := updDie s d fun x => { x with rowMap := x.rowMap.filter fun q => !spoilt q }
  updDie ((x.rowMap.filter spoilt ++ found).foldl (startRow d) s) d showRows

/-- The findings that concern one die. -/
def testOf (t : SelfTest) (d : Nat) : SelfTest :=
  { failedDies := t.failedDies.filter fun e => e.val = d
    retiredTiles := t.retiredTiles.filter fun n => n.val / 32 = d
    bypassed := t.bypassed.filter fun b => b.1.val / 32 = d
    swsRows := t.swsRows.filter fun r => r.1.val = d
    badSpares := t.badSpares.filter fun r => r.1.val = d }

/-- Two sets of findings taken together. -/
def joinTest (a b : SelfTest) : SelfTest :=
  { failedDies := (a.failedDies ++ b.failedDies).eraseDups
    retiredTiles := (a.retiredTiles ++ b.retiredTiles).eraseDups
    bypassed := (a.bypassed ++ b.bypassed).eraseDups
    swsRows := (a.swsRows ++ b.swsRows).eraseDups
    badSpares := (a.badSpares ++ b.badSpares).eraseDups }

/-- A die's SWS after its tests: resident slices are loaded from their backing copies (R143, R491); what was written elsewhere in SWS is
free bytes. -/
def reloadSws (s : State) (d : Nat) : State :=
  let own := fun k => k / 2 ^ 48 = d && decide (swsBase ≤ k % 2 ^ 48) && decide (k % 2 ^ 48 < swsBase + 32 * sectorLen) && !doubled s d (k % 2 ^ 48)
  let ks := (s.mem.mod.map (·.1)).filter own
  let f := takeFree s ks.length
  let s := storeKeys f.2 ks f.1
  (allGens s).foldl (fun s p => if (p.2.shards.get d).resident then fillSws s p.2 d else s) s

/-- DIE_RESET_COMPLETE (R492): the die asks for its topology epoch, or is retired. -/
def execDieResetComplete (d : Die) (t : SelfTest) (s : State) : Ans :=
  if !s.glb.dieResets.contains d.val then .next s
  else
    let s := setGlb s fun g => { g with dieResets := g.dieResets.filter (· ≠ d.val) }
    let s := testRows (testOf t d.val) (applyTest s (testOf t d.val)) d.val
    let s := if (s.dies.get d.val).st ≠ .retired then setMd (reloadSws s d.val) fun m => { m with epoch := { m.epoch with waiting := m.epoch.waiting ++ [.rejoin d.val] } }
      else endDieJobs s d.val .dieRetired
    .next (nextDieReset s s.glb.rcSource)

/-! ### READY -/

/-- The self-test findings applied (R149, R521). -/
def applySelfTest (s : State) : State :=
  let t := s.boot.selfTest
  (List.range 8).foldl (testRows t) (applyTest s t)

/-- The committed retirement records of tiles and pseudo-channels applied (R480). -/
def applyRetired (s : State) (c : W64) : State :=
  match rfld c 63 56 with
  | 4 => updDie s (rfld c 2 0) fun x => { x with hbm := x.hbm.upd (rfld c 4 3) fun h => { h with pcRetired := h.pcRetired ||| (1#32 <<< rfld c 9 5) } }
  | 8 => updTile s (32 * rfld c 2 0 + rfld c 7 3) fun x => { x with retired := true }
  | _ => s

/-- The arcs trained: UP between two dies in service, retired otherwise (R18, R519 stage 8). -/
def trainArcs (s : State) : State :=
  (List.range 8).foldl (fun s k =>
    let st := if dieUp s k && dieUp s ((k + 1) % 8) then 2 else 3
    if (s.arcs.get k).st = st then s else fire (updArc s k fun a => { a with st := st }) (688 + k)) s

/-- The topology chosen from the dies in service: the ring, or the line without the one die that is out. -/
def chooseTopology (s : State) : State :=
  let line := match outDies s with | [d] => some d | _ => none
  let s := setEpoch s fun e => { e with line := line, waiting := e.waiting.filter fun r => !r.topology }
  (upDies s).foldl (fun s d => updDie s d fun x => { x with line := line.isSome, pos := match line with | some r => linePos r d | none => 0 }) s

/-- A die that has no retirement record enters service. -/
def startDie (x : DieRegs) : DieRegs := { x with st := if x.st = .retired then .retired else .inService }

/-- Full start-up: every die that has no retirement record enters service, records and findings apply. -/
def fullStart (s : State) : State :=
  let s := { s with
    dies := (List.range 8).foldl (fun t d => Tbl.upd t d startDie) s.dies
    glb := { s.glb with state := 1 } }
  chooseTopology (trainArcs (applySelfTest (s.flt.retired.foldl applyRetired s)))

/-- Audit sums initialised (R519 stage 10): credits and power tokens; every die stack holds the least grant until the next interval. -/
def startSums (s : State) : State :=
  rePool (setPw ((upDies s).foldl holdConfig (clearRings s)) fun p => { p with toks := (upDies s).foldl (fun t d => Tbl.upd t d fun x => { x with held := 120 }) p.toks })

/-- Stage 10: the boot-fault count is cleared, and the fuses follow the running image (R525). -/
def lastStage (s : State) : State :=
  let svn := if s.boot.running.isEmpty then 0 else imgSvn s.boot.running
  setBoot (setFlt s fun f => { f with bootFaults := 0 }) fun b => { b with svnMin := BitVec.ofNat 8 (max b.svnMin.toNat svn) }

/-- MODULE_READY (R519): start-up or recovery after a reset of level 1, 2 or 4 finishes. What start-up's tests find adds to what the same
hardware showed before; a warm reset tests the arrays only (R491). -/
def execModuleReady (t : SelfTest) (s : State) : Ans :=
  if !powered s || s.pins.pllHold || s.boot.recovery || s.hq.ready || s.glb.state = 4 then .next s
  else
    let level := match s.glb.reset with | some r => r.level | none => 4
    let src := match s.glb.reset with | some r => r.src | none => 0
    let s := match level with
      | 4 => fullStart (setBoot s fun b => { b with selfTest := joinTest b.selfTest t })
      | 2 => applyTest s t
      | _ => s
    let s := startSums (if level = 1 then s else lastStage s)
    .next (nextDieReset { s with
      boot := { s.boot with stage := 10 }
      hq := { s.hq with ready := true }
      pw := { s.pw with lock := true }
      glb := { s.glb with state := if stopped s then 3 else 1, reset := none } } src)

/-! ### Who asks for a reset -/

/-- RESET_CAUSE.SOURCE and FATAL of a request. -/
def sourceCode : ResetSource → Nat × Nat
  | .powerOn => (0, 0)
  | .perst => (1, 0)
  | .pcieFlr => (2, 0)
  | .command => (3, 0)
  | .glbReset => (4, 0)
  | .faultNotReady => (5, 0)
  | .pllLoss => (6, 0)
  | .fatal c => (7, c.toNat)

/-- A GLB_RESET write that is not accepted (R552). -/
def countIgnored (s : State) : State := setGlb s fun g => { g with rstIgn := satInc g.rstIgn 1 }

/-- Whether a GLB_RESET write of a level is not accepted: levels 1 to 3 while READY is 0. -/
def glbRefuses (s : State) (src : ResetSource) : Bool := src = .glbReset && !s.hq.ready

/-- FUNCTION_LEVEL_RESET (R491). -/
def execFunctionLevelReset (src : ResetSource) (s : State) : Ans :=
  if glbRefuses s src then .next (countIgnored s) else if resetRefused s 1 then .next s else .next (resetLevel1 s (sourceCode src).1)

/-- WARM_RESET (R491). -/
def execWarmReset (src : ResetSource) (s : State) : Ans :=
  if glbRefuses s src then .next (countIgnored s)
  else if resetRefused s 2 then .next s
  else .next (resetLevel2 s (sourceCode src).1 (sourceCode src).2 true)

/-- DIE_RESET (R491). -/
def execDieReset (d : Die) (src : ResetSource) (s : State) : Ans :=
  if glbRefuses s src || (src = .glbReset && (s.dies.get d.val).st = .retired) then .next (countIgnored s)
  else .next (resetLevel3 s d.val (sourceCode src).1)

/-- A fault while READY is 0 (R391) is logged and counted in flash before the cold reset. -/
def noteBootFault (s : State) (src : ResetSource) : State :=
  if src = .faultNotReady then
    setFlt (flog s { kind := 10 }) fun f => { f with bootFaults := if flashOpen s then f.bootFaults + 1 else f.bootFaults }
  else s

/-- COLD_RESET (R491); a fault counts as one while READY is 0 only. -/
def execColdReset (src : ResetSource) (s : State) : Ans :=
  if resetRefused s 4 && src ≠ .faultNotReady then .next s
  else if !powered s || (src = .faultNotReady && s.hq.ready) then .next s
  else .next (resetLevel4 (noteBootFault s src) (sourceCode src).1 (sourceCode src).2 (src ≠ .pllLoss))

/-- The checks of RESET (R358). -/
def checkReset (e : Bytes) : Option Status :=
  if byteN e 16 = 0 || decide (4 < byteN e 16) || (byteN e 16 = 3 && decide (7 < byteN e 17)) then some .lenRange else none

/-- RESET (R363): levels 1, 2 and 4 complete with OK before they begin. -/
def runReset (j : JobRef) (e : Bytes) (s : State) : State :=
  checkThen (checkReset e) j (exclusively j fun s =>
    match byteN e 16 with
    | 1 => let t := finish s j .ok 0; if resetRefused t 1 then t else resetLevel1 t 3
    | 2 => let t := finish s j .ok 0; if resetRefused t 2 then t else resetLevel2 t 3 0 true
    | 3 =>
      if (s.dies.get (byteN e 17)).st = .retired then finish s j .dieRetired 0
      else resetLevel3 (setBody s j (.ctl (.dieReset (byteN e 17)))) (byteN e 17) 3
    | _ => let t := finish s j .ok 0; if resetRefused t 4 then t else resetLevel4 t 3 0 true) s

/-- RESET (R363). -/
def execReset (st : Stream) (s : State) : Ans := startEntry 0x90 st.val runReset s

/-! ### Power-down and fatal faults -/

/-- A die without power. -/
def offDie (f : Faults) (d : Nat) (x : DieRegs) : DieRegs :=
  { coldDie f d x with st := if f.retired.contains (dieChan d) then .retired else .unpowered }

/-- The module without power: only flash, fuses and what lies outside it remain. -/
def offState (s : State) : State :=
  { coldState s with
    bcn := {}
    pw := {}
    dies := (List.range 8).foldl (fun t d => Tbl.set t d (offDie s.flt d (s.dies.get d))) []
    glb := { rcLevel := s.glb.rcLevel, rcSource := s.glb.rcSource, rcFatal := s.glb.rcFatal, state := 4 }
    boot := { coldBoot s.boot with stage := 0 }
    pins := { s.pins with hotSwap := false, pwrgd := false, pllHold := false, alert := false, d3 := false, wake := false, i3cAddr := [], i3cIndex := 0, ip := 0 } }

/-- Power-down (R499): the hot-swap controller closes again only after PWR_EN has been deasserted. -/
def powerDown (s : State) : State :=
  let s := offState s
  setPins s fun p => { p with needPwrEn := p.pwrEn }

/-- A fatal fault (R489): the fog message with its cause, then the state that the table gives. -/
def fatal (s : State) (cause : Nat) : State :=
  match cause with
  | 1 => resetLevel4 (fogOut s 1) 7 1 false
  | 2 => resetLevel4 (fogOut s 2) 7 2 false
  | 3 => powerDown (fogOut s 3)
  | 4 => powerDown (fogOut s 4)
  | 5 => setGlb (fogOut s 5) fun g => { g with state := if g.state = 1 then 3 else g.state }
  | 6 => powerDown (fogOut s 6)
  | 7 => resetLevel2 (fogOut s 7) 7 7 false
  | 8 => resetLevel4 (fogOut s 8) 7 8 false
  | _ => s

/-- FATAL_FAULT (R489). -/
def execFatalFault (cause : BitVec 8) (s : State) : Ans := if powered s then .next (fatal s cause.toNat) else .next s

/-- KEEPER_WATCHDOG (R489): all four keeper cores miss their watchdog. -/
def execKeeperWatchdog (s : State) : Ans := if powered s then .next (fatal s 2) else .next s

/-- SPINE_LOSS (R490): the link logic of a die that has lost the control spine sends the fog message on its own links. -/
def execSpineLoss (d : Die) (s : State) : Ans :=
  if dieUp s d.val && [3 * d.val, 3 * d.val + 1, 3 * d.val + 2].any fun n => (s.lk.links.get n).port.isSome then .next (emit s (.fog (ownFog s 1)))
  else .next s

end Sys2Proof.Machine
end

