-- ==== Sys2Proof/Machine/View.lean ====
section
/-!
DEFINITION. What a host read of BAR0 returns: the value of every register by its field map (R9 to R12, R104, R132, R187, R220,
R275, R305, R330, R334, R393, R412, R424, R472, R486, R493, R516, R537, R551 to R564), and the block decode (R546, R548, R549).
TELEMETRY, IDENTIFY, ATTEST and the management ports take the values from here. WO and RSVD bits read zero.
-/

namespace Sys2Proof.Machine

/-! ### Assembling a register -/

/-- A register's value from its fields: value and lowest bit. -/
def fields (l : List (Nat × Nat)) : Nat := l.foldl (fun a f => a + f.1 * 2 ^ f.2) 0

/-- A bit for each of the first `n` numbers. -/
def bitsOf (n : Nat) (f : Nat → Bool) : Nat := maskOf ((List.range n).filter f)

/-- Two 32-bit registers in one 8-byte slot. -/
def pairOf (f : Nat → Nat) (i : Nat) : Nat := f (2 * i) + f (2 * i + 1) * 2 ^ 32

/-- Bytes `o` to `o` + 7 of stored bytes as a register. -/
def bytesSlot (b : Bytes) (o : Nat) : Nat := leAt b o 8

/-! ### Global registers (R551, R554, R560) -/

/-- The four FW_VER bytes of the running image: zero before stage 3 and in recovery. -/
def fwVer (s : State) : Bytes :=
  if s.boot.recovery || s.boot.stage < 3 then [0, 0, 0, 0] else bytesAt (imageBytes s.boot.running) 8 4

/-- SVN of the running image. -/
def fwSvn (s : State) : Nat := if s.boot.recovery || s.boot.stage < 3 then 0 else imgSvn (imageBytes s.boot.running)

/-- Active tiles (R23). -/
def activeTiles (s : State) : Nat := ((List.range 256).filter (tileUp s)).length

/-- The quarantined dies. -/
def quarMask (s : State) : Nat := bitsOf 8 fun d => (s.dies.get d).quar

def glbId : Nat := fields [(0x384D5854, 32), (0x08A0, 16), (Config.icdStep.toNat, 8), (Config.qdStep.toNat, 0)]

def glbVer (s : State) : Nat := fields [(beNat (fwVer s), 32), (Config.romVer.toNat, 16), (fwSvn s, 8), (svnFloor s, 0)]

def glbCaps : Nat :=
  fields [(24, 40), (8, 36), (8, 32), (16, 24), (18, 16), (255, 8), (1, 7), (1, 6), (1, 5), (1, 4), (1, 3), (b2n Config.debugDisable, 2), (1, 1)]

def glbStatus (s : State) : Nat :=
  fields [(s.glb.state, 61), (s.boot.stage, 57), (b2n s.hq.ready, 56), (bitsOf 8 (dieUp s), 48), (quarMask s, 40),
    (maskOf s.glb.dieResets, 32), (activeTiles s, 23), (b2n s.glb.apErr, 1), (b2n s.glb.accErr, 0)]

def resetCause (s : State) : Nat := fields [(s.glb.rcLevel, 28), (s.glb.rcSource, 24), (s.glb.rcFatal.toNat, 0)]

def glbCounts (s : State) : Nat := fields [(s.glb.collCnt.toNat, 48), (s.glb.accBad.toNat, 16), (s.glb.rstIgn.toNat, 0)]

/-- The MSI-X table: address, then data and vector control. -/
def msixSlot (s : State) (o : Nat) : Nat :=
  let v := o / 16
  if o % 16 = 0 then (s.glb.msixAddr.get v).toNat else fields [((s.glb.msixData.get v).toNat, 0), (b2n (!s.glb.msixOpen.get v), 32)]

def recStatus (s : State) : Nat :=
  fields [(b2n s.boot.recovery, 31), (b2n s.boot.recOp.isSome, 30), (s.boot.recErr, 27), (s.boot.recCause, 24), (s.boot.pages.length, 0)]

def secStatus (s : State) : Nat :=
  fields [(b2n s.boot.secOp.isSome, 63), (b2n s.boot.keysLock, 62), (b2n s.boot.debugOpen, 61), (b2n Config.debugDisable, 60), (s.boot.secRes, 56),
    (bitsOf 16 fun i => !(s.boot.keys.get i).isEmpty, 0)]

/-! ### Engines (R330) -/

/-- Whether a channel of an engine is stalled: a descriptor waits for a semaphore, for its probe, or for room in its stream port. -/
def chanWaits (s : State) (e : Nat) (c : Channel) : Bool :=
  c.prog.any fun p => p.phase = .waiting || p.phase = .probing ||
    (p.phase = .probed && spaceOf (dDst p.bytes) = 2 && dOpc p.bytes ≠ 0x07 && portRoom (s.tiles.get (tileF (dDst p.bytes))) (e % 18) = 0)

def dmaStatReg (s : State) (e : Nat) (g : Engine) : Nat :=
  fields [(bitsOf 4 fun c => !(g.chans.get c).prog.isEmpty, 28), (bitsOf 4 fun c => chanWaits s e (g.chans.get c), 24), (bitsOf 4 fun c => (g.chans.get c).fault, 20)]

/-- A fault register: TILE_FAULTc or DMA_FAULTch. -/
def faultReg (f : UnitFault) : Nat := fields [(f.cause.toNat, 32), (f.opc.toNat, 24), (f.qidx.toNat, 16), (b2n f.valid, 0)]

/-- One 8-byte slot of an engine block. -/
def engineSlot (s : State) (e : Nat) (g : Engine) (o : Nat) : Nat :=
  if o = 0x00 then dmaStatReg s e g
  else if o = 0x08 then fields [(g.collCnt.toNat, 48), (g.poisCnt.toNat, 16), (g.rejCnt.toNat, 0)]
  else if 0x10 ≤ o ∧ o < 0x30 then
    let c := g.chans.get ((o - 0x10) / 8)
    fields [(b2n c.qEn, 40), (c.tail.toNat, 16), (c.head.toNat, 0)]
  else if 0x40 ≤ o ∧ o < 0x60 then faultReg (g.chans.get ((o - 0x40) / 8)).fr
  else if 0x2000 ≤ o then bytesSlot ((g.chans.get ((o - 0x2000) / 0x800)).ring.get ((o - 0x2000) % 0x800 / 64)) (o % 64)
  else 0

/-! ### Command processor and host queue (R334, R393) -/

def cpStatus (s : State) : Nat :=
  fields [(bitsOf 16 fun st => (getJob s (.stream st)).isSome, 48), (bitsOf 16 fun st => (blockedOn s st).isSome, 32), (b2n s.cp.capOvf, 17), (s.cp.deadlocks.toNat, 0)]

def cpSlot (s : State) (o : Nat) : Nat :=
  if o = 0x00 then cpStatus s
  else if o = 0x08 then fields [(s.cp.collCnt.toNat, 48), (s.cp.capHead.toNat, 16), (s.cp.capSeq.toNat % 65536, 0)]
  else if o = 0x10 then s.cp.wdog.toNat
  else 0

def hqStatus (s : State) : Nat :=
  let h := s.hq
  fields [(b2n h.ready, 63), (b2n h.idle, 62), (b2n h.sqErr, 61), (b2n h.cqErr, 60), (b2n h.fetchErr, 59), (b2n h.fenceErr, 58), (b2n h.regionErr, 57),
    (h.cqTail, 36), (h.sqHead, 0)]

def hqSlot (s : State) (o : Nat) : Nat :=
  let h := s.hq
  if o = 0x00 then fields [(b2n h.kscrub, 1), (b2n h.en, 0)]
  else if o = 0x08 then hqStatus s
  else if o = 0x10 then h.sqBase.toNat
  else if o = 0x18 then h.cqBase.toNat
  else if o = 0x20 then fields [(h.cqLog2, 8), (h.sqLog2, 0)]
  else if o = 0x28 then h.digBase.toNat + h.dlog
  else if o = 0x30 then fields [(h.collCnt.toNat, 48), (h.interimDrop.toNat, 16), (h.wdFired.toNat, 0)]
  else if 0x800 ≤ o ∧ o < 0xC00 then
    let r := h.regions.get ((o - 0x800) / 16)
    if o % 16 = 0 then r.a.toNat else r.b.toNat
  else if 0x1000 ≤ o ∧ o < 0x2000 then
    let f := h.fences.get ((o - 0x1000) / 16)
    if o % 16 = 0 then fields [(b2n f.hostSig, 31), (f.owner.toNat, 0)] else f.value.toNat
  else 0

/-! ### Global block -/

def glbSlot (s : State) (o : Nat) : Nat :=
  if o = 0x00 then glbId
  else if o = 0x08 then glbVer s
  else if o = 0x10 then glbCaps
  else if o = 0x18 then glbStatus s
  else if o = 0x28 then resetCause s
  else if o = 0x30 then glbCounts s
  else if 0x1000 ≤ o ∧ o < 0x1200 then (s.glb.apSegs.get ((o - 0x1000) / 8)).toNat
  else if 0x2000 ≤ o ∧ o < 0x2400 then msixSlot s (o - 0x2000)
  else if o = 0x3000 then bitsOf 64 s.glb.msixPend.get
  else if o = 0x4008 then recStatus s
  else if o = 0x4108 then secStatus s
  else if 0x4110 ≤ o ∧ o < 0x4130 then bytesSlot s.boot.chal (o - 0x4110)
  else if 0x5000 ≤ o ∧ o < 0x6000 then leNat (Mem.readN s.boot.recData (o - 0x5000) 8)
  else if 0x6000 ≤ o ∧ o < 0x8000 then leNat (Mem.readN s.boot.secStage (o - 0x6000) 8)
  else if 0x8000 ≤ o ∧ o < 0xC000 then engineSlot s 144 (s.engines.get 144) (o - 0x8000)
  else if 0xC000 ≤ o ∧ o < 0xC020 then cpSlot s (o - 0xC000)
  else if 0xD000 ≤ o ∧ o < 0x11000 then bytesSlot (s.cp.ring.get ((o - 0xD000) / 256)) (o % 256)
  else 0

/-! ### Event router, power, fault log, audit, beacon (R412, R424, R493, R516) -/

/-- EVR_SRCs. -/
def evrSrc (r : Src) : Nat := fields [(r.fire.toNat, 16), (r.vec.toNat, 10), (r.tmask.toNat, 5), (r.prio.toNat, 0)]

/-- A word of source bits. -/
def srcWord (s : State) (f : Src → Bool) (w : Nat) : Nat := bitsOf 32 fun i => f (s.evr.srcs.get (32 * w + i))

def kctl (k : Keeper) : Nat :=
  fields [(b2n k.en, 31), (b2n k.sleep, 30), (b2n k.eoiErr, 29), (k.runPrio, 24), (k.stack.length, 20), (k.tail.toNat, 4), (k.head.toNat, 0)]

def ktop (k : Keeper) : Nat :=
  match k.stack with
  | [] => 0
  | (p, n) :: _ => fields [(1, 31), (p % 16, 10), (n, 0)]

def evrSlot (s : State) (o : Nat) : Nat :=
  let e := s.evr
  if o = 0x08 then fields [(e.collCnt.toNat, 48), (e.qfull.toNat, 16), (e.dbIgn.toNat, 0)]
  else if 0x1000 ≤ o ∧ o < 0x1080 then pairOf (srcWord s (·.en)) ((o - 0x1000) / 8)
  else if 0x1100 ≤ o ∧ o < 0x1180 then pairOf (srcWord s (·.pend)) ((o - 0x1100) / 8)
  else if 0x1200 ≤ o ∧ o < 0x1280 then pairOf (srcWord s (·.act)) ((o - 0x1200) / 8)
  else if 0x2000 ≤ o ∧ o < 0x3000 then pairOf (fun n => evrSrc (e.srcs.get n)) ((o - 0x2000) / 8)
  else if 0x3000 ≤ o ∧ o < 0x3100 then
    let k := e.keepers.get ((o - 0x3000) / 0x40)
    if o % 0x40 = 0 then kctl k else if o % 0x40 = 0x10 then ktop k else 0
  else if 0x4000 ≤ o ∧ o < 0x4400 then
    let q := e.hostqs.get ((o - 0x4000) / 16)
    if o % 16 = 0 then q.base.toNat + b2n q.en else fields [(q.tail, 48), (q.head, 32), (q.log2, 0)]
  else 0

def pwrStatus (s : State) : Nat :=
  let p := s.pw
  fields [(p.cap, 52), (p.reserve, 40), (p.pool, 28), (b2n p.borrow, 21), (b2n p.alert, 20), (b2n p.capLim, 19), (b2n p.thermLim, 18), (b2n p.inputWarn, 17), (b2n p.coolWarn, 16)]

def pwrInput (s : State) : Nat := fields [(s.pw.vin.toNat, 48), (s.pw.iin.toNat, 32), (s.pw.pin.toNat, 20)]

/-- The highest junction temperature of the dies in service. -/
def tjMax (s : State) : Nat := ((upDies s).map fun d => (tokOf s d).tj.toNat).foldl max 0

def therm (s : State) : Nat := fields [(s.pw.coolIn.toNat, 52), (s.pw.coolOut.toNat, 40), (tjMax s, 32)]

def pwrCounts (s : State) : Nat := fields [(s.pw.collCnt.toNat, 48), (s.pw.stepDn.toNat, 16), (s.pw.loans.toNat, 0)]

def clkStatus (s : State) : Nat :=
  let p := s.pw
  fields [(b2n p.lock, 31), (p.step, 29), (p.pinStep, 27), (b2n p.pinned, 26), (b2n p.repro, 25), (p.ttNext, 16)]

/-- TOK_d: HELD reads 0 for a die out of service. -/
def tokReg (s : State) (d : Nat) : Nat :=
  let t := tokOf s d
  fields [(if dieUp s d then t.held else 0, 55), (t.lent, 46), (t.borrowed, 37), (t.draw.toNat, 28), (t.tj.toNat, 20), (t.thr.toNat, 16)]

def pwrSlot (s : State) (o : Nat) : Nat :=
  if o = 0x00 then pwrStatus s
  else if o = 0x08 then pwrInput s
  else if o = 0x10 then therm s
  else if o = 0x18 then pwrCounts s
  else if o = 0x20 then clkStatus s
  else if 0x100 ≤ o ∧ o < 0x140 then tokReg s ((o - 0x100) / 8)
  else if 0x400 ≤ o ∧ o < 0x500 then
    let t := s.pw.tt.get ((o - 0x400) / 16)
    if o % 16 = 0 then t.a.toNat else t.b.toNat
  else 0

def flogSlot (s : State) (o : Nat) : Nat :=
  if o = 0 then fields [(s.flt.collCnt.toNat, 48), (b2n s.flt.ovf, 32), (s.flt.logHead.toNat, 16), (s.flt.logSeq.toNat % 65536, 0)]
  else if 0x1000 ≤ o ∧ o < 0x11000 then bytesSlot (s.flt.ring.get ((o - 0x1000) / 64)) (o % 64)
  else 0

def audStatus (s : State) : Nat :=
  fields [(b2n s.flt.audBusy, 63), (b2n s.flt.audFail, 62), (s.flt.audQty.toNat, 59), (quarMask s, 40), (s.flt.audits.toNat, 0)]

def barReg (b : Barrier) : Nat :=
  fields [(b2n b.en, 63), (b.round.toNat, 61), (b2n b.phaseErr, 60), (b2n b.cfgErr, 59), (b.expect, 32), (b.cnt1, 16), (b.cnt0, 0)]

def bcnSlot (s : State) (o : Nat) : Nat :=
  let b := s.bcn
  if o = 0x00 then b.local_.toNat
  else if o = 0x08 then (b.local_ + b.offset).toNat
  else if o = 0x10 then b.offset.toNat
  else if o = 0x18 then fields [(b2n b.aligned, 63), (b2n b.root, 62), (b.upport.toNat, 56), (b.margin.toNat, 32), (b.lateRel.toNat, 16)]
  else if 0x1000 ≤ o ∧ o < 0x1100 then barReg (b.mbar.get ((o - 0x1000) / 8))
  else if 0x2000 ≤ o ∧ o < 0x2200 then barReg (b.cbar.get ((o - 0x2000) / 8))
  else 0

/-! ### Die windows (R104, R132, R187, R220, R275, R305, R556) -/

/-- One 8-byte slot of a tile block. -/
def tileSlot (x : Tile) (o : Nat) : Nat :=
  if o = 0x00 then if x.retired then 1 else fields [(x.w1, 16), (x.w0, 8)]
  else if o = 0x08 then
    fields [(bitsOf 4 fun c => (x.ctxs.get c).active, 28), (bitsOf 4 fun c => (x.ctxs.get c).wait, 24), (bitsOf 4 fun c => (x.ctxs.get c).fault, 16),
      (bitsOf 4 fun c => (x.ctxs.get c).nanCvt, 12), (bitsOf 4 fun c => (x.ctxs.get c).intSat, 8)]
  else if o = 0x10 then fields [(x.collCnt.toNat, 48), (x.nanCnt.toNat, 16), (x.satCnt.toNat, 0)]
  else if o = 0x18 then fields [(b2n x.qEn, 40), (x.qHandle.toNat, 32), (x.tail.toNat, 16), (x.head.toNat, 0)]
  else if 0x40 ≤ o ∧ o < 0x60 then faultReg (x.ctxs.get ((o - 0x40) / 8)).fr
  else if o = 0x100 then fields [(b2n x.scrubBusy, 31), (b2n x.winErr, 17), (b2n x.htErr, 16)]
  else if o = 0x108 then fields [(x.spadColl.toNat, 48), (x.winReject.toNat, 16), (x.ceCnt.toNat, 0)]
  else if 0x400 ≤ o ∧ o < 0x800 then
    let h := x.handles.get ((o - 0x400) / 16)
    if o % 16 = 0 then h.a.toNat else h.b.toNat
  else if 0x800 ≤ o ∧ o < 0x880 then
    let w := x.wins.get ((o - 0x800) / 16)
    if o % 16 = 0 then w.a.toNat else w.b.toNat
  else if 0xC00 ≤ o ∧ o < 0xD00 then pairOf (fun n => (x.sems.get n).toNat) ((o - 0xC00) / 8)
  else if o = 0xD00 then
    fields [(b2n x.semOvf, 63), (b2n x.semUnf, 62), (x.semErrSem.toNat, 50), (x.semErrKind.toNat, 47), (x.semErrDie.toNat, 44), (x.semErrUnit.toNat, 39),
      (x.semErrCh.toNat, 37), (x.semColl.toNat, 0)]
  else if o = 0xD08 then fields [(x.sigSum.toNat, 32), (x.decSum.toNat, 0)]
  else 0

/-- DIE_STATUS.STATE. -/
def dieCode : DieState → Nat
  | .starting => 0
  | .inService => 1
  | .reset3 => 2
  | .quarantined => 3
  | .retired => 4
  | .unpowered => 5

/-- Bypassed columns of the arrays of a die. -/
def bypCols (s : State) (d : Nat) : Nat :=
  ((List.range 32).map fun n => let x := s.tiles.get (32 * d + n); popcount 128 x.byp0.toNat + popcount 128 x.byp1.toNat).foldl (· + ·) 0

def dieStatus (s : State) (d : Nat) : Nat :=
  fields [(dieCode (s.dies.get d).st, 61), (bypCols s d, 48), ((upTiles s d).length, 42), ((s.dies.get d).hb.toNat, 16)]

/-- SWP_CRED_E or SWP_CRED_W: credits held and slots occupied. -/
def credReg (r : RingDir) : Nat :=
  let grad := fun k => k % 2 = 1 && decide (k < 64)
  let held := fun g => ((r.credits.filter fun p => grad p.1 = g).map (·.2)).foldl (· + ·) 0
  let occ := fun g => r.buf.countP fun b => grad (ledgerKey b.f.hdr) = g
  fields [(held false, 39), (occ false, 26), (held true, 13), (occ true, 0)]

def swpStatus (x : DieRegs) : Nat :=
  fields [(b2n (x.slotMode.any fun p => p.2 = 1), 31), (b2n x.line, 30), (x.pos, 27), (b2n x.bwd, 26), (x.pass.toNat, 0)]

/-- MODE_STATUS: STATE is 2 while some slot is in its settle stage, a reset having set it to 0 apart. -/
def modeStatus (s : State) (x : DieRegs) : Nat :=
  fields [(x.epoch.toNat, 32), (if x.prepared then 1 else if x.settle && s.md.slots.any (·.2.settling) then 2 else 0, 30),
    (((List.range 8).map fun k => x.slotMode.get k * 4 ^ k).foldl (· + ·) 0, 0)]

/-- One 8-byte slot of a die window outside its engines and tiles. -/
def dieSlot (s : State) (d o : Nat) : Nat :=
  let x := s.dies.get d
  if o = 0x10000 then fields [(x.sweepWays, 8), (x.stageWays, 0)]
  else if o = 0x10008 then fields [(x.lookups.toNat, 32), (x.misses.toNat, 0)]
  else if o = 0x10010 then fields [(x.dcUe.toNat, 16), (x.dcCe.toNat, 0)]
  else if o = 0x11000 then fields [(x.spareMin, 48), (x.mapped.toNat, 32), (x.swsUe.toNat, 16), (x.swsCe.toNat, 0)]
  else if o = 0x11008 then x.res8m
  else if o = 0x12000 then swpStatus x
  else if o = 0x12008 then credReg x.east
  else if o = 0x12010 then credReg x.west
  else if o = 0x12018 then fields [(x.swPcrc.toNat, 48), (x.swResend.toNat, 32), (x.swPois.toNat, 16), (x.genDrop.toNat, 0)]
  else if o = 0x13000 then modeStatus s x
  else if o = 0x13008 then fields [(x.xPcrc.toNat, 48), (x.xResend.toNat, 32), (x.xPois.toNat, 16), (x.abortCnt.toNat, 0)]
  else if 0x14000 ≤ o ∧ o < 0x14020 then
    let h := x.hbm.get ((o - 0x14000) / 8)
    fields [(h.ce.toNat, 48), (h.ue.toNat, 32), (h.pcRetired.toNat, 0)]
  else if o = 0x14020 then fields [(b2n x.hbmWinErr, 31), ((x.hbm.map (·.2.remap)).foldl (· + ·) 0, 0)]
  else if 0x14100 ≤ o ∧ o < 0x14200 then
    let w := x.hbmWins.get ((o - 0x14100) / 16)
    if o % 16 = 0 then w.a.toNat else w.b.toNat
  else if o = 0x15000 then fields [(x.cdOver.toNat, 48), (x.cdUnder.toNat, 32), (x.cdHdr.toNat, 16)]
  else if o = 0x15008 then fields [(x.enc64.toNat, 32), (x.dec64.toNat, 0)]
  else if 0x20000 ≤ o ∧ o < 0x68000 then engineSlot s (18 * d + (o - 0x20000) / 0x4000) (s.engines.get (18 * d + (o - 0x20000) / 0x4000)) ((o - 0x20000) % 0x4000)
  else if 0x80000 ≤ o ∧ o < 0xA0000 then tileSlot (s.tiles.get (32 * d + (o - 0x80000) / 0x1000)) (o % 0x1000)
  else 0

/-- Whether the window of a die can be read: the die is in service or quarantined; DIE_STATUS always can. -/
def dieWindow (s : State) (d o : Nat) : Nat :=
  if o = 0 then dieStatus s d
  else if (dieUp s d || (s.dies.get d).st = .quarantined) && s.hq.ready then dieSlot s d o else 0

/-! ### Links and arcs (R472, R558) -/

/-- Whether a port is the twin port. -/
def isTwinPort (s : State) (p : Nat) : Bool := match s.lk.ports.get p with | some q => q.twin | none => false

def tlStatus (l : Link) : Nat :=
  fields [(l.st, 61), (l.hold, 59), (b2n l.lg1Ret, 58), (b2n l.lg0Ret, 57), (b2n l.port.isSome, 56), (l.port.getD 0, 53), (l.vmaj, 40), (l.vmin, 32), (l.retrain.toNat, 16)]

def tlPeer (s : State) (l : Link) : Nat :=
  match l.peer with
  | none => 0
  | some p =>
    fields [(1, 63), (b2n p.switch, 62), (b2n ((l.port.map (isTwinPort s)).getD false), 61), (b2n p.standby, 60), (b2n p.side, 59), (p.group, 54), (p.module, 50), (p.link, 45),
      ((crc32c p.serial).toNat, 0)]

def portStatus (s : State) (p : Nat) : Nat :=
  match s.lk.ports.get p with
  | none => 0
  | some q => fields [(b2n !(portLinks s p).isEmpty, 63), (b2n q.twin, 62), (b2n q.switch, 61), (q.group, 51), (q.module, 47), (maskOf (portLinks s p), 0)]

/-- Members that are known and not lost. -/
def liveMembers (s : State) : List Nat := (s.lk.members.filter fun m => m.2.valid && !m.2.lost).map (·.1)

def cscStatus (s : State) : Nat :=
  let l := s.lk
  fields [(b2n l.joined, 63), (b2n l.wiring, 62), (l.pattern, 60), (b2n (s.pins.casc = 0), 59), (b2n s.pins.standby, 58), (b2n l.switchedIn, 57), (l.role, 53),
    (s.pins.group.toNat, 48), (s.pins.casc.toNat, 44), (2, 32), (1, 24), ((portsUp s).length, 16), ((liveMembers s).length, 0)]

def twinCode : TwinState → Nat
  | .unpaired => 0
  | .pairing => 1
  | .mirror => 2
  | .isolated => 3
  | .takeover => 4
  | .detaching => 5
  | .detached => 6

def twinStatus (s : State) : Nat :=
  fields [(twinCode s.lk.twin, 61), (b2n ((portsUp s).contains 7 && isTwinPort s 7), 60), (b2n s.pins.twinSide, 59), (s.cp.jobs.countP (fun p => match p.1 with | .adopted _ => true | _ => false), 32), (s.lk.unackedCk.length, 16),
    (s.lk.mirrored.length, 0)]

def memberReg (m : Member) : Nat :=
  fields [(b2n m.valid, 63), (b2n m.lost, 62), (b2n m.standby, 61), (b2n m.side, 60), (b2n m.alias_, 59), (m.amod, 55), (m.hops, 51), (m.port, 48), (m.pattern, 46), (m.sercrc.toNat, 0)]

def tlSlot (s : State) (o : Nat) : Nat :=
  if o < 0x600 then
    let l := s.lk.links.get (o / 0x40)
    if o % 0x40 = 0 then tlStatus l
    else if o % 0x40 = 8 then tlPeer s l
    else if o % 0x40 = 0x10 then fields [(l.replayCnt.toNat, 48), (l.crcCnt.toNat, 32), (l.fecCnt.toNat, 16)]
    else 0
  else if 0x800 ≤ o ∧ o < 0x880 then if o % 16 = 0 then portStatus s ((o - 0x800) / 16) else 0
  else if o = 0xC00 then cscStatus s
  else if o = 0xC08 then twinStatus s
  else if 0x10000 ≤ o ∧ o < 0x11000 then memberReg (s.lk.members.get ((o - 0x10000) / 8))
  else 0

def arcStatus (a : Arc) : Nat := fields [(a.st, 62), (a.replay.toNat, 16), (a.retrain.toNat, 0)]

def arcSlot (s : State) (o : Nat) : Nat :=
  let a := s.arcs.get (o / 0x40)
  if o % 0x40 = 0 then arcStatus a
  else if o % 0x40 = 8 then fields [(a.eastBytes / 4096 % 2 ^ 32, 32), (a.westBytes / 4096 % 2 ^ 32, 0)]
  else 0

/-! ### Debug block (R563) -/

/-- Half of the bypass mask of an array: all ones for a retired tile. -/
def bypSlot (s : State) (o : Nat) : Nat :=
  let x := s.tiles.get (o / 32)
  let m := if x.retired then BitVec.allOnes 128 else if o / 16 % 2 = 1 then x.byp1 else x.byp0
  m.toNat / 2 ^ (o % 16 * 8) % 2 ^ 64

def dbgSlot (s : State) (o : Nat) : Nat :=
  let g := s.glb
  if !s.boot.debugOpen then 0
  else if o = 0 then fields [(1, 63), (b2n g.dbgBusy, 62), (b2n (g.dbgPois ≠ 0), 61), (g.dbgErr, 58)]
  else if o = 8 then g.dbgAddr.toNat
  else if o = 0x10 then g.dbgPois.toNat
  else if 0x1000 ≤ o ∧ o < 0x2000 then bytesSlot g.dbgData (o - 0x1000)
  else if 0x2000 ≤ o ∧ o < 0x4000 then bypSlot s (o - 0x2000)
  else 0

/-! ### Block decode (R546, R548, R549) -/

/-- The 8 bytes of BAR0 at an offset that is a multiple of 8. -/
def bar0Slot (s : State) (o : Nat) : Nat :=
  let ready := fun v => if s.hq.ready then v else 0
  if !barOn s then 0
  else if o < 0x100000 then glbSlot s o
  else if o < 0x112000 then ready (hqSlot s (o - 0x100000))
  else if 0x200000 ≤ o ∧ o < 0x204400 then ready (evrSlot s (o - 0x200000))
  else if 0x400000 ≤ o ∧ o < 0x400500 then ready (pwrSlot s (o - 0x400000))
  else if 0x500000 ≤ o ∧ o < 0x511000 then ready (flogSlot s (o - 0x500000))
  else if o = 0x600008 then ready (audStatus s)
  else if 0x700000 ≤ o ∧ o < 0x702200 then ready (bcnSlot s (o - 0x700000))
  else if 0x1000000 ≤ o ∧ o < 0x2000000 then dieWindow s ((o - 0x1000000) / 0x200000) (o % 0x200000)
  else if 0x2000000 ≤ o ∧ o < 0x2011000 then ready (tlSlot s (o - 0x2000000))
  else if 0x2020000 ≤ o ∧ o < 0x2020200 then ready (arcSlot s (o - 0x2020000))
  else if 0x3000000 ≤ o ∧ o < 0x3004000 then dbgSlot s (o - 0x3000000)
  else 0

/-- What an aligned 32-bit or 64-bit host read of BAR0 returns (R10, R546). -/
def bar0Read (s : State) (o : Nat) (wide : Bool) : Nat :=
  if wide then bar0Slot s o else bar0Slot s (o / 8 * 8) / 2 ^ (o % 8 * 8) % 2 ^ 32

end Sys2Proof.Machine
end

