-- ==== Sys2Proof/Machine/Control.lean ====
section
/-!
DEFINITION. Control commands that report, that act on channels and tiles, and that update the firmware: IDENTIFY (R361), ATTEST (R531),
TELEMETRY (R362, R493, R517, R555), SCRUB (R130), RETIRE (R471, R480), FAULT_POLICY (R478), FW_UPDATE (R529); KILL (R389) and
the watchdog (R388).
-/

namespace Sys2Proof.Machine

/-! ### Replies -/

/-- The checks of a command with a reply buffer of `lo` to `hi` bytes and one more condition on its values (R343, R344). -/
def checkReply (s : State) (e : Bytes) (lo hi : Nat) (bad : Bool) : Option Status :=
  firstFail [
    (bad || decide (entryLen e < lo) || decide (hi < entryLen e), .lenRange),
    ((reach s (entryAddrW e) (entryLen e) true).isSome, (reach s (entryAddrW e) (entryLen e) true).getD .addrRange)]

/-- A reply goes to ADDR, and its length is the result. -/
def reply (j : JobRef) (e : Bytes) (b : Bytes) (s : State) : State := finish (writeWord s (entryAddrW e) b) j .ok (BitVec.ofNat 64 b.length)

/-- ASCII text padded with zeros to `n` bytes. -/
def ascii (n : Nat) (t : String) : Bytes := bytesAt (t.toList.map fun c => BitVec.ofNat 8 c.toNat) 0 n

/-! ### IDENTIFY -/

/-- The effective width of array `a` of a tile: 0 when the tile is retired. -/
def arrayWidth (x : Tile) (a : Nat) : Nat := if x.retired then 0 else if a = 0 then x.w0 else x.w1

/-- The 4,096 bytes of IDENTIFY (R361). -/
def identifyBytes (s : State) : Bytes :=
  bytesAt (ascii 16 "TXM-8A-768" ++ bytesAt Config.serial 0 16 ++ fwVer s ++ leBytes 2 Config.romVer.toNat ++
    leBytes 1 (s.pins.casc.toNat + bAt s.pins.twinSide 4 + bAt s.pins.standby 5) ++ leBytes 1 s.pins.group.toNat ++
    leBytes 1 (bitsOf 8 (dieUp s)) ++ [0] ++ leBytes 2 (activeTiles s) ++ leBytes 4 s.boot.bootEpoch.toNat ++ leBytes 8 glbCaps ++ leBytes 8 0 ++
    leBytes 32 (bitsOf 256 fun t => (s.tiles.get t).retired) ++
    (List.range 512).flatMap fun i => leBytes 1 (arrayWidth (s.tiles.get (i / 2)) (i % 2))) 0 4096

/-- IDENTIFY writes its structure. -/
def runIdentify (j : JobRef) (e : Bytes) (s : State) : State :=
  checkThen (checkReply s e 4096 65536 false) j (reply j e (identifyBytes s)) s

/-- IDENTIFY (R361). -/
def execIdentify (st : Stream) (s : State) : Ans := startEntry 0x80 st.val runIdentify s

/-! ### ATTEST -/

/-- GENDIG of a generation of a slot, zero when absent. -/
def gendigOf (s : State) (k : Nat) (g : Option (BitVec 16)) : Bytes :=
  match g with
  | none => List.replicate 32 0
  | some n => bytesAt (((genOf s k n).map (·.gendig)).getD []) 0 32

/-- KEY_ID of a publisher key, zero for an empty index (R532). -/
def keyId (s : State) (i : Nat) : Bytes := if (s.boot.keys.get i).isEmpty then List.replicate 32 0 else sha256 (s.boot.keys.get i)

/-- Whether the committed image differs from the running one. -/
def updatePending (s : State) : Bool := s.boot.committed && imageBytes s.boot.image ≠ imageBytes s.boot.running

/-- SHA-256 of the configuration record. -/
def cfgDigest (s : State) : Bytes :=
  bytesAt (Config.cfgDigest s.boot.keys (s.flt.stored.filterMap fun p => p.2.map fun q => (p.1, q.n, q.w, q.action))) 0 32

/-- Bytes 0 to 1,175 of the report, which both signatures cover (R531). -/
def attestSigned (s : State) (nonce : Bytes) (certLen : Nat) : Bytes :=
  leBytes 2 1 ++ [0, 0] ++ leBytes 4 8192 ++ leBytes 4 certLen ++ leBytes 4 s.boot.bootEpoch.toNat ++ leBytes 8 (now s).toNat ++ nonce ++
    bytesAt Config.serial 0 16 ++ fwVer s ++ leBytes 2 Config.romVer.toNat ++ leBytes 1 (fwSvn s) ++ leBytes 1 (svnFloor s) ++
    leBytes 1 (b2n s.boot.debugOpen + bAt s.boot.keysLock 1 + bAt s.pw.repro 2 + bAt (updatePending s) 3) ++ List.replicate 7 0 ++
    bytesAt (fwDigest (imageBytes s.boot.running)) 0 32 ++ cfgDigest s ++
    (List.range 8).flatMap (fun k => gendigOf s k (s.md.slots.get k).serving ++ gendigOf s k (s.md.slots.get k).draining) ++
    (List.range 16).flatMap (keyId s)

/-- The report, with the certificates when they fit in `len` bytes. -/
def attestBytes (s : State) (nonce : Bytes) (len : Nat) : Bytes :=
  let certs := if 8192 + Config.certs.length ≤ len then Config.certs else []
  let m := attestSigned s nonce certs.length
  bytesAt (m ++ bytesAt Config.idEdKey 0 32 ++ bytesAt Config.idMlKey 0 1952 ++ bytesAt (Config.idEdSign m) 0 64 ++ bytesAt (Config.idMlSign m) 0 3309) 0 8192 ++ certs

/-- ATTEST writes its report. -/
def runAttest (j : JobRef) (e : Bytes) (s : State) : State :=
  checkThen (checkReply s e 8192 65536 false) j (reply j e (attestBytes s (bytesAt e 16 32) (entryLen e))) s

/-- ATTEST (R531). -/
def execAttest (st : Stream) (s : State) : Ans := startEntry 0x81 st.val runAttest s

/-! ### TELEMETRY -/

/-- Page 0 (R555). -/
def telPage0 (s : State) : Bytes :=
  leBytes 8 glbId ++ leBytes 8 (glbVer s) ++ leBytes 8 glbCaps ++ leBytes 8 (glbStatus s) ++ leBytes 4 (resetCause s) ++ leBytes 4 s.boot.bootEpoch.toNat ++
    leBytes 8 (now s).toNat ++ leBytes 8 (hqStatus s) ++ leBytes 8 (cpStatus s) ++ leBytes 8 (audStatus s) ++ leBytes 8 (pwrStatus s) ++ leBytes 8 (cscStatus s) ++
    leBytes 8 (twinStatus s) ++ List.replicate 32 0 ++ (List.range 8).flatMap (fun d => leBytes 8 (dieStatus s d)) ++
    (List.range 8).flatMap fun k => leBytes 8 (arcStatus (s.arcs.get k))

/-- KV bytes that the sequences of a slot hold in HBM3. -/
def slotKv (s : State) (k : Nat) : Nat :=
  ((s.md.seqs.filter fun q => q.slot = k && q.parked.isNone).map fun q =>
    let m := infoOf s k q.gen
    (q.dies.map fun p => (pagesOf s m p.1 p.2).length * pageBytes m).foldl (· + ·) 0).foldl (· + ·) 0

/-- The record of a slot (R362). -/
def slotRecord (s : State) (k : Nat) : Bytes :=
  let x := s.md.slots.get k
  let base := (x.gens.filterMap (·.base)).head?
  let st := if !x.gens.isEmpty then 2 else if x.session.isSome then 1 else 0
  bytesAt (leBytes 1 (st + x.mode * 4 + pinOf s x * 16 + bAt base.isSome 6) ++ leBytes 1 (match base with | some b => b.1 | none => 0xFF) ++
    leBytes 2 ((x.serving.map (·.toNat)).getD 0) ++ leBytes 2 ((x.draining.map (·.toNat)).getD 0) ++ leBytes 1 (b2n x.draining.isSome) ++ [0] ++
    leBytes 4 x.est.rowsPerDie ++ leBytes 4 x.est.rateMoored ++ leBytes 4 x.est.rateSweep ++ leBytes 4 x.est.settleUs ++ leBytes 4 x.est.rateNow ++
    leBytes 4 (s.md.seqs.countP fun q => q.slot = k) ++ leBytes 8 ((x.gens.map (·.stored)).foldl (· + ·) 0) ++ leBytes 8 (slotKv s k) ++
    leBytes 4 (min (sinceCommit s k) 0xFFFFFFFF)) 0 64

/-- Page 1. -/
def telPage1 (s : State) : Bytes := (List.range 8).flatMap (slotRecord s)

/-- Page 2 (R517). -/
def telPage2 (s : State) : Bytes :=
  leBytes 8 (pwrStatus s) ++ leBytes 8 (pwrInput s) ++ leBytes 8 (therm s) ++ leBytes 8 (pwrCounts s) ++ leBytes 4 (clkStatus s) ++ List.replicate 28 0 ++
    (List.range 8).flatMap fun d => leBytes 8 (tokReg s d)

/-- The summary of page 3 (R493); `newest` is the newest SEQ. -/
def faultSummary (s : State) (newest : Bytes) : Bytes :=
  bytesAt (newest ++ [0, 0, 0, 0] ++ leBytes 1 (bitsOf 8 (dieUp s)) ++ leBytes 1 (quarMask s) ++
    leBytes 2 ((List.range 256).countP fun t => (s.tiles.get t).retired) ++ leBytes 2 (((List.range 8).map (bypCols s)).foldl (· + ·) 0) ++
    leBytes 2 (((List.range 8).map fun d => ((List.range 4).map fun c => popcount 32 ((s.dies.get d).hbm.get c).pcRetired.toNat).foldl (· + ·) 0).foldl (· + ·) 0) ++
    leBytes 4 s.flt.rowMaps.length ++ leBytes 4 (bitsOf 24 fun n => (s.lk.links.get n).st = 5)) 0 64

/-- Page 3: the summary and the flash records, newest first; the newest SEQ is open before the first record. -/
def telPage3 (s : State) (len : Nat) : Bytes × State :=
  let f := if s.flt.ring.isEmpty then takeFree s 4 else (leBytes 4 (s.flt.logSeq - 1).toNat, s)
  (faultSummary s f.1 ++ (s.flt.flash.take ((len - 64) / 64)).flatten, f.2)

/-- TELEMETRY writes its page. -/
def runTelemetry (j : JobRef) (e : Bytes) (s : State) : State :=
  checkThen (checkReply s e 64 65536 (3 < byteN e 16)) j (fun s =>
    match byteN e 16 with
    | 0 => reply j e ((telPage0 s).take (entryLen e)) s
    | 1 => reply j e ((telPage1 s).take (entryLen e)) s
    | 2 => reply j e ((telPage2 s).take (entryLen e)) s
    | _ => reply j e (telPage3 s (entryLen e)).1 (telPage3 s (entryLen e)).2) s

/-- TELEMETRY (R362). -/
def execTelemetry (st : Stream) (s : State) : Ans := startEntry 0x8C st.val runTelemetry s

/-! ### SCRUB -/

/-- The tiles in service that a die mask and a tile mask name. -/
def maskTiles (s : State) (dm tm : Nat) : List Nat := (setBits 8 dm).flatMap fun d => ((setBits 32 tm).map (32 * d + ·)).filter (tileUp s)

/-- SCRUB switches kill scrubbing, or scrubs its tiles and completes when the last scrub ends. -/
def runScrub (j : JobRef) (e : Bytes) (s : State) : State :=
  checkThen (firstFail [(2 < byteN e 16, .lenRange)]) j (fun s =>
    match byteN e 16 with
    | 0 =>
      let ts := maskTiles s (leAt e 20 4) (leAt e 24 4)
      if ts.isEmpty then finish s j .ok 0 else ts.foldl scrubTile (setBody s j (.ctl (.scrubTiles ts)))
    | n => finish (setHq s fun h => { h with kscrub := decide (n = 2) }) j .ok 0) s

/-- SCRUB (R130). -/
def execScrub (st : Stream) (s : State) : Ans := startEntry 0x8E st.val runScrub s

/-! ### RETIRE and FAULT_POLICY -/

/-- The bits that a channel identifier of a kind may use (R471). -/
def chanBits (kind : Nat) : Nat :=
  match kind with
  | 1 => 6
  | 2 => 5
  | 3 => 3
  | 4 => 10
  | 5 => 30
  | 6 => 22
  | 7 => 16
  | 8 => 8
  | 9 => 3
  | _ => 0

/-- Whether a channel identifier is one of R471. -/
def chanOk (c : W64) : Bool :=
  let k := rfld c 63 56
  1 ≤ k && k ≤ 9 && decide (rfld c 55 0 < 2 ^ chanBits k) && (if k = 1 ∨ k = 2 then rfld c 4 0 < 24 else if k = 5 then rfld c 11 10 < 3 else true)

/-- A channel is taken out of service (R480). -/
def retireChannel (s : State) (c : W64) : State :=
  match rfld c 63 56 with
  | 1 => retireLane s (rfld c 4 0) (rbit c 5) false
  | 2 => retireLink s (rfld c 4 0) 0
  | 3 => retireArc s (rfld c 2 0) 0
  | 4 => retirePc s (rfld c 2 0) (rfld c 4 3) (rfld c 9 5) 0 false
  | 5 => mapOutHbm s (rfld c 2 0) (hbmRowAddr c) false 0
  | 6 => mapOutSws s (rfld c 2 0) (swsRowAddr c) false
  | 7 => bypassColumn s (32 * rfld c 2 0 + rfld c 7 3) (rbit c 8) (rfld c 15 9)
  | 8 => retireTile s (32 * rfld c 2 0 + rfld c 7 3) false 0
  | _ => retireDie s (rfld c 2 0) false

/-- RETIRE takes its channel out of service and completes. -/
def runRetire (j : JobRef) (e : Bytes) (s : State) : State :=
  checkThen (firstFail [(!chanOk (param64 e 16), .lenRange)]) j (exclusively j fun s => finish (retireChannel s (param64 e 16)) j .ok 0) s

/-- RETIRE (R471). -/
def execRetire (st : Stream) (s : State) : Ans := startEntry 0x8D st.val runRetire s

/-- The action other than NONE that a bucket's policy may have (R477); none where the row is fixed or there is no bucket. -/
def allowedAction (kind b : Nat) : Option Nat := (defaultPolicy kind b).map (·.action)

/-- The check of FAULT_POLICY (R478). -/
def policyBad (e : Bytes) : Bool :=
  let c := param64 e 16
  let a := byteN e 32
  let n := leAt e 24 4
  rfld c 55 0 ≠ 0 || fld a 6 3 ≠ 0 || n = 0 || decide (65535 < n) || decide (2592000 < leAt e 28 4) ||
    (match allowedAction (rfld c 63 56) (fld a 7 7) with
     | none => true
     | some x => fld a 2 0 ≠ 0 && fld a 2 0 ≠ x)

/-- The buckets of a kind after a new window; each channel's level stays (R478). -/
def keepLevels (s : State) (kind b w : Nat) : List (W64 × Nat × Bucket) :=
  s.flt.buckets.map fun p => if rfld p.1 63 56 = kind && p.2.1 = b
    then (p.1, b, rewindow p.2.2 (((policyOf s kind b).map (·.w)).getD 0) w (now s).toNat) else p

/-- FAULT_POLICY sets one bucket's policy and, unless PWR_ALERT# is asserted (R495), the configuration record. -/
def runFaultPolicy (j : JobRef) (e : Bytes) (s : State) : State :=
  checkThen (firstFail [(policyBad e, .lenRange)]) j (fun s =>
    let a := byteN e 32
    let kind := rfld (param64 e 16) 63 56
    let p := s.flt.policies.set (2 * kind + fld a 7 7) (some ⟨leAt e 24 4, leAt e 28 4, fld a 2 0⟩)
    finish (setFlt s fun f => { f with policies := p, stored := if flashOpen s then p else f.stored
                                       buckets := keepLevels s kind (fld a 7 7) (leAt e 28 4) }) j .ok 0) s

/-- FAULT_POLICY (R478). -/
def execFaultPolicy (st : Stream) (s : State) : Ans := startEntry 0x97 st.val runFaultPolicy s

/-! ### FW_UPDATE -/

/-- The checks of FW_UPDATE on its entry. -/
def checkFwUpdate (s : State) (e : Bytes) : Option Status :=
  firstFail [
    (decide (entryLen e < 4096) || decide (62914560 < entryLen e) || entryLen e % 4096 ≠ 0, .lenRange),
    ((reach s (entryAddrW e) (entryLen e) false).isSome, (reach s (entryAddrW e) (entryLen e) false).getD .addrRange)]

/-- The verification of the copy (R529 step 3). -/
def checkFwImage (s : State) (m : Bytes) : Option Status :=
  firstFail [(!imgHeaderOk m || ceilDiv (imgLen m) 4096 * 4096 ≠ m.length, .lenRange), (!imgSigned s m, .sigFail)]

/-- FW_UPDATE verifies its image, programs it and commits it last; PWR_ALERT# stops the programming with no image committed. -/
def runFwUpdate (alertStops : Bool) (j : JobRef) (e : Bytes) (s : State) : State :=
  checkThen (checkFwUpdate s e) j (exclusively j fun s =>
    let m := dataOf s e
    checkThen (checkFwImage s m) j (fun s =>
      if !flashOpen s then finish s j .notReady 0
      else if alertStops then finish (setBoot s fun b => { b with image := m, committed := false }) j .notReady 0
      else finish (setBoot s fun b => { b with image := m, committed := true }) j .ok 0) s) s

/-- FW_UPDATE (R529). -/
def execFwUpdate (st : Stream) (alertStops : Bool) (s : State) : Ans := startEntry 0x8F st.val (runFwUpdate alertStops) s

/-! ### KILL and the watchdog -/

/-- The running work command of a stream is killed (R389): the entry that runs, or the CALL whose frame is between entries. -/
def killStream (s : State) (st : Nat) : State :=
  match getJob s (.stream st) with
  | some b => if entryOpc b.entry < 0x80 then finish s (.stream st) .timeout 0 true else s
  | none =>
    match (s.cp.streams.get st).frames with
    | [] => s
    | f :: _ =>
      let s := updStream (capture s (.stream st) f.job .timeout true) st fun q => { q with polling := false }
      endCalls .timeout st (s.cp.streams.get st).frames s

/-- KILL (R389). -/
def execKill (st : Stream) (s : State) : Ans := gate (barOn s) s <| .next (killStream s st.val)

/-- The opcodes that the watchdog covers: KERNEL, GRAPH, DMA, BARRIER, DIGEST and DECODE_LOOP. -/
def watched : List Nat := [0x01, 0x02, 0x03, 0x0A, 0x0C, 0x0D]

/-- WATCHDOG_EXPIRY (R388): a covered command has made no progress for LIMIT ms; a LIMIT of 0 disables it, and a decode loop that a die
reset holds is not timed (R492). -/
def execWatchdogExpiry (st : Stream) (s : State) : Ans :=
  match getJob s (.stream st.val) with
  | some b => if s.cp.wdog ≠ 0 && watched.contains (entryOpc b.entry) && !(entryOpc b.entry = 0x0D && !s.glb.dieResets.isEmpty) then .next (finish s (.stream st.val) .timeout 0 true) else .next s
  | none => .next s

end Sys2Proof.Machine
end

