-- ==== Sys2Proof/Machine/Bundle.lean ====
section
/-!
DEFINITION. Bundle loads (R360, R457, R483, R533, R534) and DELTA_LOAD (R280 to R289).
-/

namespace Sys2Proof.Machine

/-! ### The manifest (R533) -/

/-- Body and trailer of a signed manifest. -/
def manBody (m : Bytes) : Bytes := m.take (m.length - 3416)
def manTrailer (m : Bytes) : Bytes := bytesAt m (m.length - 3416) 3416

/-- A plan or a KV format that a load refuses (R192, R195, R261). -/
def modelBad (m : ModelInfo) : Bool :=
  (m.plan.any fun x => decide (0x100000 < x.cols * elemBytes x.fmt) || decide (0x10000 < 4 * x.sums) || x.xid = 14 || decide (15 < x.xid)) ||
    !([64, 128, 256].contains m.headDim && [1, 2, 3].contains m.kvFmt)

/-- The manifest checks of BUNDLE_BEGIN. -/
def manifestBad (m : Bytes) (total : Nat) : Bool :=
  let b := manBody m
  decide (m.length < 3416 + 24) || leAt b 0 4 ≠ 0x46504550 || leAt b 4 2 ≠ 1 || leAt b 8 8 ≠ total ||
    leAt b 16 4 ≠ ceilDiv total 0x4000000 || decide (b.length < leAt b 20 4 + 32 * leAt b 16 4) || Config.manifestBody b ≠ b.length ||
    modelBad (Config.manifestModel b)

/-- The publisher key that a manifest's KEY_ID names, from the key table (R532, R534). -/
def manKey (s : State) (m : Bytes) : Option Bytes :=
  ((List.range 16).map fun i => s.boot.keys.get i).find? fun k => !k.isEmpty && sha256 k = bytesAt (manTrailer m) 0 32

/-- Whether both signatures over the body verify under that key. -/
def manSigned (s : State) (m : Bytes) : Bool :=
  match manKey s m with
  | none => false
  | some k =>
    Config.ed25519Verifies (bytesAt k 0 32) (manBody m) (bytesAt (manTrailer m) 32 64) &&
      Config.mldsaVerifies (bytesAt k 32 1952) (manBody m) (bytesAt (manTrailer m) 96 3309)

/-- Whether every 64 MiB piece has its digest. -/
def manDigests (m data : Bytes) : Bool :=
  ((pieces 0x4000000 data).zipIdx).all fun p => sha256 p.1 = bytesAt (manBody m) (leAt (manBody m) 20 4 + 32 * p.2) 32

/-! ### Sessions -/

/-- Whether bundle commands are the group master's alone here (R456, R457). -/
def patternShares (s : State) : Bool := s.lk.joined && s.lk.pattern ≠ 2

/-- Whether this module turns bundle commands away. -/
def notMaster (s : State) : Bool := patternShares s && s.pins.casc ≠ 0

/-- The members of the group, but for this module, that have a role: live, and no standby that is not switched in (R453, R458). -/
def roleMembers (s : State) : List Nat :=
  (liveMembers s).filter fun i => i / 16 = s.pins.group.toNat && i ≠ selfModule s &&
    (!(s.lk.members.get i).standby || s.lk.members.any fun p => p.1 / 16 = i / 16 && p.2.alias_ && p.2.amod = i % 16)

/-- The slot whose open session has a number. -/
def sessionSlot (s : State) (n : Nat) : Option Nat :=
  (List.range 8).find? fun k => match (s.md.slots.get k).session with | some x => x.num.toNat = n | none => false

/-- An open session. -/
def sessionOf (s : State) (k : Nat) : Option Session := (s.md.slots.get k).session

/-- The session of a slot set. -/
def setSession (s : State) (k : Nat) (x : Option Session) : State := updSlot s k fun y => { y with session := x }

/-- Bytes accepted so far. -/
def Session.have_ (x : Session) : Nat := (x.chunks.map (·.2.length)).foldl (· + ·) 0

/-- The bytes of a complete session. -/
def Session.data (x : Session) : Bytes := (sortBy (fun a b : Nat × Bytes => decide (a.1 ≤ b.1)) x.chunks).flatMap (·.2)

/-- Whether a span overlaps an accepted chunk or passes the end. -/
def Session.clash (x : Session) (off n : Nat) : Bool :=
  decide (x.total < off + n) || x.chunks.any fun c => decide (c.1 < off + n) && decide (off < c.1 + c.2.length)

/-- What a member verifies of a complete load (R457 step 2, R534). -/
def verdict (s : State) (x : Session) : MemberResult :=
  if !manSigned s x.manifest then .sigFail else if !manDigests x.manifest x.data then .digestMismatch else .ready

/-- The header of a message of a cascade load: part, slot, manifest length, TOTAL and offset. The form is this model's. -/
def loadHead (part slot mlen total off : Nat) : Bytes :=
  leBytes 1 part ++ leBytes 1 slot ++ leBytes 2 0 ++ leBytes 4 mlen ++ leBytes 8 total ++ leBytes 8 off ++ leBytes 8 0

/-- Bytes of a load sent to every member with a role, at most 4,064 to a message. -/
def sendLoad (s : State) (part slot mlen total off : Nat) (data : Bytes) : State :=
  (roleMembers s).foldl (fun s m => ((pieces 4064 data).zipIdx).foldl (fun s p =>
    sendTo s m kindBundle (loadHead part slot mlen total (off + 4064 * p.2) ++ p.1)) s) s

/-! ### Generations -/

/-- The frames of a new pool on a die: those that Rosha picks, once each, outside weights, other pools and the reserve (R252, R262). -/
def poolFrames (s : State) (k g d : Nat) : List Nat :=
  (Config.kvFrames k g d).eraseDups.filter fun a => mayHold s d a && !(usedFrames s d).contains a

/-- A slot that held no generation takes its first: it is moored on every die (R220), and Rosha gives it its KV pools from what the
weights leave (R262). -/
def openSlot (s : State) (k : Nat) (g : Nat) : State :=
  let mine := fun (i : Nat) => i / 8 = k
  let s := { s with md := { s.md with
    pools := s.md.pools.filter fun p => !mine p.1
    poolSet := s.md.poolSet.filter fun p => !mine p.1
    freed := s.md.freed.filter fun p => !mine p.1 } }
  (List.range 8).foldl (fun s d =>
      let l := poolFrames s k g d
      let s := updDie (setPool s k d l) d fun x => if x.st = .inService then { x with slotMode := x.slotMode.set k 2 } else x
      { s with md := { s.md with poolSet := s.md.poolSet.set (poolKey k d) l } })
    (updSlot s k fun x => { x with mode := 2 })

/-- A generation's directory entry is written: it is live and not serving (R214, R360). Its shards lie in HBM3 (R144), its level tables
in the scratchpads (R173), and where they fit its shards lie in SWS too (R143, R219). -/
def addGen (s : State) (k : Nat) (g : Gen) : State :=
  let first := (s.md.slots.get k).gens.isEmpty
  let r := layGen s g
  let s := updSlot r.1 k fun x => { x with gens := x.gens ++ [r.2], newest := g.num, issued := true }
  seatAll (placeLevels (if first then openSlot s k g.num.toNat else s) k r.2)

/-- Weight bytes of a tensor as stored. -/
def weightLen (t : Tensor) : Nat := if t.weight then ceilDiv t.rows 128 * t.cols * groupBytes t.fmt else 0

/-- Weight bytes of the layers for which `p` holds. -/
def layersLen (m : ModelInfo) (p : Nat → Bool) : Nat := ((m.tensors.filter fun t => p t.layer).map weightLen).foldl (· + ·) 0

/-- CASC_IDs of the members of the group that are stages of a PIPE cascade, ascending (R456): those that are no standby and live or replaced
by one, and this module's role. -/
def stages (s : State) : List Nat :=
  let others := (s.lk.members.filter fun p => p.1 / 16 = s.pins.group.toNat && p.1 ≠ selfModule s && p.2.valid && !p.2.standby && (!p.2.lost || p.2.alias_)).map (·.1 % 16)
  (sortBy (fun a b => decide (a ≤ b)) (others ++ [s.lk.role])).eraseDups

/-- The stage of a layer among `n`: a boundary stands where whole layers come nearest to an equal part of the weight bytes (R456). -/
def stageOf (m : ModelInfo) (n l : Nat) : Nat :=
  min (n - 1) (n * (2 * layersLen m (fun k => decide (k < l)) + layersLen m (· = l)) / (2 * max 1 (layersLen m fun _ => true)))

/-- A model as this module's role in its cascade's pattern holds it (R456): its stage's layers, its half of the columns, or all. -/
def roleInfo (s : State) (m : ModelInfo) : ModelInfo :=
  if s.lk.joined && s.lk.pattern = 0 then
    let k := (indexOf (· = s.lk.role) (stages s)).getD 0
    { m with tensors := m.tensors.map fun t => if stageOf m (stages s).length t.layer = k then t else { t with part := some (0, 0) } }
  else if split s then
    { m with side := some s.pins.twinSide, tensors := m.tensors.map fun t => { t with part := some (keepOf (some s.pins.twinSide) t.cols) } }
  else m

/-- The generation of a verified bundle. -/
def bundleGen (s : State) (n : BitVec 16) (x : Session) : Gen where
  num := n
  info := roleInfo s (Config.manifestModel (manBody x.manifest))
  gendig := sha256 x.manifest
  refs := 0
  inFlight := 0
  base := none
  window := none
  whole := true
  stored := x.total
  bytes := x.data
  delta := []

/-- The generation that a manifest would restore: a live one of the slot with that GENDIG, not whole, and no delta (R483). -/
def restoredBy (s : State) (k : Nat) (m : Bytes) : Option Gen :=
  (s.md.slots.get k).gens.find? fun g => !g.whole && g.base.isNone && g.gendig = sha256 m

/-! ### BUNDLE_BEGIN, BUNDLE_CHUNK, BUNDLE_COMMIT -/

/-- SLOT and TOTAL of BUNDLE_BEGIN. -/
def bSlot (e : Bytes) : Nat := byteN e 16
def bTotal (e : Bytes) : Nat := leAt e 24 8

/-- The checks of BUNDLE_BEGIN in the order of R343. -/
def checkBegin (s : State) (e : Bytes) : Option Status :=
  let r := reach s (entryAddrW e) (entryLen e) false
  let m := dataOf s e
  firstFail [
    (decide (entryLen e < 64) || decide (0x1000000 < entryLen e) || decide (7 < bSlot e) || bTotal e = 0 || decide (2 ^ 40 < bTotal e), .lenRange),
    (r.isNone && manifestBad m (bTotal e), .lenRange),
    (notMaster s || (sessionOf s (bSlot e)).isSome, .busy),
    (decide (2 ≤ (s.md.slots.get (bSlot e)).gens.length) && !(r.isNone && (restoredBy s (bSlot e) m).isSome), .busy),
    (r.isSome, r.getD .addrRange)]

/-- BUNDLE_BEGIN opens a session and answers its number. -/
def runBundleBegin (j : JobRef) (e : Bytes) (s : State) : State :=
  checkThen (checkBegin s e) j (fun s =>
    let n := s.md.nextSession
    let m := dataOf s e
    let x : Session := { num := n, manifest := m, mlen := m.length, total := bTotal e, chunks := []
                         restores := (restoredBy s (bSlot e) m).map (·.num), reports := [] }
    let t := setSession { s with md := { s.md with nextSession := n + 1 } } (bSlot e) (some x)
    let t := if patternShares s && x.restores.isNone then sendLoad t 0 (bSlot e) m.length x.total 0 m else t
    finish t j .ok (BitVec.ofNat 64 n.toNat)) s

/-- BUNDLE_BEGIN (R360). -/
def execBundleBegin (st : Stream) (s : State) : Ans := startEntry 0x82 st.val runBundleBegin s

/-- SESSION and OFFSET. -/
def bSession (e : Bytes) : Nat := leAt e 16 2
def bOffset (e : Bytes) : Nat := leAt e 24 8

/-- The checks of BUNDLE_CHUNK. -/
def checkChunk (s : State) (e : Bytes) : Option Status :=
  let x := (sessionSlot s (bSession e)).bind (sessionOf s)
  let n := entryLen e
  firstFail [
    (n = 0 || decide (0x4000000 < n) || bOffset e % 4096 ≠ 0, .lenRange),
    (match x with | some x => (n % 4096 ≠ 0 && bOffset e + n ≠ x.total) | none => false, .lenRange),
    (notMaster s, .busy),
    (x.isNone, .notReady),
    (match x with | some x => x.clash (bOffset e) n | none => false, .addrRange),
    ((reach s (entryAddrW e) n false).isSome, (reach s (entryAddrW e) n false).getD .addrRange)]

/-- BUNDLE_CHUNK stores its bytes. -/
def runBundleChunk (j : JobRef) (e : Bytes) (s : State) : State :=
  checkThen (checkChunk s e) j (fun s =>
    match sessionSlot s (bSession e) with
    | none => finish s j .notReady 0
    | some k =>
      match sessionOf s k with
      | none => finish s j .notReady 0
      | some x =>
        let b := dataOf s e
        let t := setSession s k (some { x with chunks := x.chunks ++ [(bOffset e, b)] })
        let t := if patternShares s && x.restores.isNone then sendLoad t 1 k x.mlen x.total (bOffset e) b else t
        finish t j .ok (BitVec.ofNat 64 b.length)) s

/-- BUNDLE_CHUNK (R360). -/
def execBundleChunk (st : Stream) (s : State) : Ans := startEntry 0x83 st.val runBundleChunk s

/-- The command's session closes and it ends with a status. -/
def failLoad (s : State) (k : Nat) (j : JobRef) (x : Status) : State := finish (setSession s k none) j x 0

/-- A verified load is committed: a restoring load makes its generation whole, any other creates a generation. -/
def commitLoad (s : State) (k : Nat) (j : JobRef) (x : Session) : State :=
  match x.restores with
  | some g =>
    let r := match genOf s k g with | some y => restoreGen s y | none => (s, default)
    finish (setSession (seatAll (updGen r.1 k g fun _ => r.2)) k none) j .ok (BitVec.ofNat 64 g.toNat)
  | none =>
    let n := (s.md.slots.get k).newest + 1
    let s := if patternShares s then (roleMembers s).foldl (fun s m =>
      sendTo s m kindMemberCommit (leBytes 1 k ++ leBytes 2 n.toNat ++ sha256 x.manifest)) s else s
    finish (setSession (addGen s k (bundleGen s n x)) k none) j .ok (BitVec.ofNat 64 n.toNat)

/-- The status that a member's report gives a load. -/
def reportStatus : MemberResult → Option Status
  | .ready => none
  | .sigFail => some .sigFail
  | .digestMismatch => some .digestMismatch
  | .lost => some .linkDown

/-- A verified load goes on: a member's failure ends it, and it is committed once every member with a role is ready (R457). -/
def settleLoad (s : State) (k : Nat) (j : JobRef) (x : Session) : State :=
  match x.reports.findSome? fun r => reportStatus r.2 with
  | some st => failLoad s k j st
  | none => if (roleMembers s).all fun m => x.reports.any (·.1 = m) then commitLoad s k j x else setBody s j (.ctl (.bundle k))

/-- BUNDLE_COMMIT verifies a complete load and commits it. -/
def runBundleCommit (j : JobRef) (e : Bytes) (s : State) : State :=
  if notMaster s then finish s j .busy 0
  else
    match sessionSlot s (bSession e) with
    | none => finish s j .notReady 0
    | some k =>
      match sessionOf s k with
      | none => finish s j .notReady 0
      | some x =>
        if x.have_ < x.total then finish s j .notReady 0
        else
          match reportStatus (verdict s x) with
          | some st => failLoad s k j st
          | none => if patternShares s && x.restores.isNone then settleLoad s k j x else commitLoad s k j x

/-- BUNDLE_COMMIT (R360, R534). -/
def execBundleCommit (st : Stream) (s : State) : Ans := startEntry 0x84 st.val runBundleCommit s

/-- The command that waits for the members of a slot's load. -/
def waitingLoad (s : State) (k : Nat) : Option JobRef :=
  (s.cp.jobs.find? fun p => match p.2.body with | .ctl (.bundle n) => n = k | _ => false).map (·.1)

/-- A report on a member's part is noted, and the waiting BUNDLE_COMMIT looks at it. -/
def noteReport (s : State) (k m : Nat) (r : MemberResult) : State :=
  match sessionOf s k with
  | none => s
  | some x =>
    let x := { x with reports := x.reports.filter (·.1 ≠ m) ++ [(m, r)] }
    let s := setSession s k (some x)
    match waitingLoad s k with
    | some j => settleLoad s k j x
    | none => s

/-- BUNDLE_MEMBER_REPORT (R457): enabled on the group master, for a load of the slot in progress. -/
def execBundleMemberReport (member : Fin 16) (slot : Fin 8) (r : MemberResult) (s : State) : Ans :=
  if patternShares s && !notMaster s then .next (noteReport s slot.val (16 * s.pins.group.toNat + member.val) r) else .next s

/-- A member that is lost fails every load of its master in progress (R457). -/
def memberLostLoads (s : State) (m : Nat) : State :=
  if patternShares s && !notMaster s && m / 16 = s.pins.group.toNat then (List.range 8).foldl (fun s k => noteReport s k m .lost) s else s

/-! ### A member's part -/

/-- The session in which a member gathers a load. -/
def memberSession (s : State) (k mlen total : Nat) : Session :=
  match sessionOf s k with
  | some x => x
  | none => { num := 0, manifest := [], mlen := mlen, total := total, chunks := [], restores := none, reports := [] }

/-- The lowest closed HBM window of a die. -/
def closedWin (s : State) (d : Nat) : Option Nat := (List.range 16).find? fun w => !rbit ((s.dies.get d).hbmWins.get w).a 63

/-- A receiving module opens an HBM window of every die in service for what its master sends, where and how long R257 does not say: writes
from the master's dies alone. -/
def openLoadWins (s : State) (x : Session) : State × Session :=
  (upDies s).foldl (fun (r : State × Session) d =>
    match closedWin r.1 d with
    | none => r
    | some w =>
      let base := Config.freePick r.1.free 1556480 % 1556480
      let len := 1 + Config.freePick (r.1.free + 1) (1556480 - base) % (1556480 - base)
      let a := BitVec.ofNat 64 (2 ^ 63 + 2 ^ 62 + 0xFF8 * 2 ^ 44 + 128 * r.1.pins.group.toNat * 2 ^ 32 + base)
      (openHbmWin { r.1 with free := r.1.free + 2 } d w { a := a, b := BitVec.ofNat 64 len }, { r.2 with wins := r.2.wins ++ [(d, w)] })) (s, x)

/-- The windows opened for a load close. -/
def closeLoadWins (s : State) (x : Session) : State := x.wins.foldl (fun s p => closeHbmWin s p.1 p.2) s

/-- A message of a load reaches a member; when the load is complete, the member verifies it and reports to the master. -/
def takeLoad (s : State) (b : Bytes) : State :=
  let k := byteN b 1 % 8
  let off := leAt b 16 8
  let data := b.drop 32
  let first := byteN b 0 = 0 && off = 0
  let s := match sessionOf s k with | some y => if first then closeLoadWins s y else s | none => s
  let x : Session := if first then
      { num := 0, manifest := [], mlen := leAt b 4 4, total := leAt b 8 8, chunks := [], restores := none, reports := [] }
    else memberSession s k (leAt b 4 4) (leAt b 8 8)
  let r := if first || (sessionOf s k).isNone then openLoadWins s x else (s, x)
  let s := r.1
  let x := r.2
  let x := if byteN b 0 = 0 then { x with manifest := x.manifest ++ data } else if x.clash off data.length then x else { x with chunks := x.chunks ++ [(off, data)] }
  let s := setSession s k (some x)
  if x.manifest.length = x.mlen && x.have_ = x.total then
    sendTo s (16 * s.pins.group.toNat) kindMemberReport (leBytes 1 k ++ leBytes 1 (match verdict s x with | .ready => 0 | .sigFail => 1 | .digestMismatch => 2 | .lost => 3))
  else s

/-- COMMIT reaches a member: it writes its own directory entry for the load that it holds. -/
def memberCommit (s : State) (k : Nat) (g : BitVec 16) (gendig : Bytes) : State :=
  match sessionOf s k with
  | some x =>
    if sha256 x.manifest ≠ gendig then s
    else
      let s := closeLoadWins s x
      if 2 ≤ (s.md.slots.get k).gens.length then setSession s k none
      else setSession (addGen s k (bundleGen s g x)) k none
  | none => s

/-- BUNDLE_MEMBER_COMMIT (R457 step 3): enabled on a member of a sharing pattern that is not the group master. -/
def execBundleMemberCommit (slot : Fin 8) (gen : BitVec 16) (gendig : Bytes) (s : State) : Ans :=
  if notMaster s then .next (memberCommit s slot.val gen gendig) else .next s

/-! ### DELTA_LOAD -/

/-- Fields of DELTA_LOAD. -/
def dTarget (e : Bytes) : Nat := byteN e 16
def dBase (e : Bytes) : Nat := byteN e 17
def dBaseGen (e : Bytes) : BitVec 16 := BitVec.ofNat 16 (leAt e 18 2)
def dSource (e : Bytes) : W64 := param64 e 24
def dSourceLen (e : Bytes) : Nat := leAt e 32 8

/-- A record of the source manifest: base tensor index, source format, offset. -/
structure SrcTensor where
  idx : Nat
  fmt : Nat
  off : Nat
  deriving DecidableEq, Repr, Inhabited

/-- The records of a source manifest. -/
def srcTensors (b : Bytes) : List SrcTensor := (pieces 16 b).map fun r => ⟨leAt r 0 4, byteN r 4, leAt r 8 8⟩

/-- A record whose tensor does not lie in the source as its base tensor's shape asks, or whose base format breaks R282. -/
def tensorBad (m : ModelInfo) (srcLen : Nat) (t : SrcTensor) : Bool :=
  match m.tensors[t.idx]? with
  | none => true
  | some x => decide (srcLen < t.off + x.elements * elemBytes t.fmt) || (x.weight && !([2, 3, 5, 6, 7, 8].contains x.fmt))

/-- The most bytes that a load of these tensors stores. -/
def deltaMost (m : ModelInfo) (l : List SrcTensor) : Nat :=
  (l.map fun t => match m.tensors[t.idx]? with
    | some x => if x.weight then 34 * ceilDiv x.elements 128 else ceilDiv x.elements 128 * groupBytes x.fmt
    | none => 0).foldl (· + ·) 0

/-- A delta generation with every listed weight tensor stored as DELTA, to measure what a load may take. -/
def deltaProbe (s : State) (m : ModelInfo) (b : Nat × BitVec 16) (l : List SrcTensor) : Gen where
  num := 0
  info := m
  gendig := []
  refs := 0
  inFlight := 0
  base := some b
  window := none
  whole := true
  stored := 0
  bytes := []
  delta := l.map fun t => ⟨t.idx, .delta, [], []⟩
  cut := s.md.epoch.line

/-- Whether every die has the frames for its shard of such a generation (R286). -/
def deltaFits (s : State) (m : ModelInfo) (b : Nat × BitVec 16) (l : List SrcTensor) : Bool :=
  let g := deltaProbe s m b l
  (cutDies g.cut).all fun d => dieOut s d || ((takeShard s g d).shards.get d).ok

/-- The checks of DELTA_LOAD in the order of R286. -/
def checkDelta (s : State) (e : Bytes) : Option Status :=
  let r := reach s (entryAddrW e) (entryLen e) false
  let l := if r.isNone then srcTensors (dataOf s e) else []
  let g := genOf s (dBase e) (dBaseGen e)
  let m := (g.map (·.info)).getD default
  let b := s.md.slots.get (dBase e)
  let x := s.md.slots.get (dTarget e)
  firstFail [
    (7 < dTarget e || 7 < dBase e || dTarget e = dBase e || dSourceLen e = 0 || decide (1000000000000 < dSourceLen e) || entryLen e % 16 ≠ 0 ||
      entryLen e = 0 || decide (65535 < entryLen e / 16) || l.any (fun t => decide (3 < t.fmt)), .lenRange),
    (b.gens.isEmpty || (g.isNone && (!b.issued || follows (dBaseGen e) b.newest)), .notReady),
    (g.isNone, .genRetired),
    (b.gens.any (·.base.isSome) || l.any (tensorBad m (dSourceLen e)), .lenRange),
    (x.gens.any (fun y => y.base ≠ some (dBase e, dBaseGen e)) || decide (2 ≤ x.gens.length) || x.session.isSome, .busy),
    ((dSource e).toNat % 4096 ≠ 0 || l.any (fun t => t.off % 4096 ≠ 0), .align),
    (r.isSome, r.getD .addrRange),
    ((reach s (dSource e) (dSourceLen e) false).isSome, (reach s (dSource e) (dSourceLen e) false).getD .addrRange),
    (!deltaFits s m (dBase e, dBaseGen e) l || !Config.loadFits s.free (deltaMost m l), .lenRange)]

/-- The value of element `i` of a base tensor, decoded to FP32. -/
def baseElem (g : Gen) (t : Tensor) (i : Nat) : Fp :=
  if isScaled t.fmt then
    let b := bytesAt g.bytes (t.off + i / 128 * groupBytes t.fmt) (groupBytes t.fmt)
    round32 ((weightElem t.fmt t.levels (groupElem t.fmt b (i % 128))).mul (scaleVal t.fmt (groupScales t.fmt b) (i % 128 / 32)))
  else round32 (decodeElem t.fmt (leAt g.bytes (t.off + i * elemBytes t.fmt) (elemBytes t.fmt)))

/-- The values of a source tensor of `n` elements. -/
def srcElems (src : Bytes) (t : SrcTensor) (n : Nat) : List Fp :=
  (pieces (elemBytes t.fmt) (bytesAt src t.off (n * elemBytes t.fmt))).map fun b => decodeElem t.fmt (leNat b)

/-- Whether a value is finite. -/
def isFin : Fp → Bool
  | .fin _ _ _ => true
  | _ => false

/-- The smallest FP16 code that is not below a magnitude, at most 65,504 (R287). -/
def fp16Up : Fp → Nat
  | .fin _ m e =>
    let c := convFp fmtFP16 0x7BFF true false .rtz (.fin false m e)
    let c' := if (decodeIeee fmtFP16 c).lt (.fin false m e) then c + 1 else c
    min c' 0x7BFF
  | _ => 0x7BFF

/-- The scale of a group of differences. -/
def groupScale (d : List Fp) : Nat :=
  if d.all isFin then fp16Up (d.foldl (fun a x => a.max x.abs) .zero) else (Config.deltaScale (d.map toF32)).toNat

/-- d / s in FP32. -/
def quot (d sc : Fp) : Fp := round32 (d.div sc)

/-- The bin of a difference. -/
def binOf (d sc : Fp) : Nat :=
  match round32 ((round32 ((quot d sc).add .one)).mul (.fin false 128 0)) with
  | .fin false m e => min 255 (roundAt .rtz m e 0)
  | .fin true 0 _ => 0
  | _ => Config.deltaBin (toF32 d) (toF32 sc) % 256

/-- The index of the nearest level, the lower one among equals. -/
def nearest (lv : List Fp) (x : Fp) : Nat :=
  ((List.range lv.length).foldl (fun a i =>
    if (round32 (x.sub (lv.getD i .zero))).abs.lt (round32 (x.sub (lv.getD a .zero))).abs then i else a) 0)

/-- The centre of bin `k`. -/
def binCentre (k : Nat) : Fp := .fin (decide (k < 128)) (if k < 128 then 255 - 2 * k else 2 * k - 255) (-8)

/-- One round of the level iteration over the histogram. -/
def levelStep (hist : List Nat) (lv : List Fp) : List Fp :=
  let pick := (List.range 256).map fun k => nearest lv (binCentre k)
  (List.range 4).map fun i =>
    let ks := (List.range 256).filter fun k => pick.getD k 0 = i
    let n : Nat := (ks.map fun k => hist.getD k 0).foldl (· + ·) 0
    if n = 0 then lv.getD i .zero
    else
      round32 ((ks.foldl (fun a k => round32 (a.add (round32 ((round32 (.ofInt (hist.getD k 0 : Nat))).mul (binCentre k))))) .zero).div (round32 (.ofInt n)))

/-- The level table of a DELTA tensor from its groups of differences and their scales (R287). -/
def levelTable (gs : List (List Fp × Nat)) : Bytes :=
  let bins := (gs.filter fun g => g.2 ≠ 0).flatMap fun g => g.1.map fun d => binOf d (decodeIeee fmtFP16 g.2)
  let hist := (List.range 256).map fun k => bins.count k
  (Nat.repeat (levelStep hist) 8 [.fin true 3 (-2), .fin true 1 (-2), .fin false 1 (-2), .fin false 3 (-2)]).map fun x =>
    BitVec.ofNat 8 (convTo 2 false .rne x).code

/-- Element codes of `b` bits each, packed as R41 lays them out. -/
def packCodes (b n : Nat) (l : List Nat) : Bytes := leBytes n ((l.zipIdx).foldl (fun a p => a + p.1 * 2 ^ (b * p.2)) 0)

/-- A group of differences encoded in TQ2 (R288). -/
def encodeDelta (levels : Bytes) (g : List Fp × Nat) : Bytes :=
  let lv := levels.map fun b => decodeE4M3 b.toNat
  let sc := decodeIeee fmtFP16 g.2
  packCodes 2 32 (if g.2 = 0 then [] else g.1.map fun d =>
    match d with
    | .fin _ _ _ => nearest lv (quot d sc)
    | _ => Config.deltaIndex (toF32 d) (toF32 sc) % 4) ++ leBytes 2 g.2

/-- A group of values converted whole to an MX format: four blocks of 32 with their scales (R53). -/
def encodeMx (fmt : Nat) (xs : List Fp) : Bytes :=
  let bl := (List.range 4).map fun j => quantBlock fmt (List.replicate 32 .rne) ((List.range 32).map fun i => xs.getD (32 * j + i) .zero)
  packCodes (groupBits fmt) (16 * groupBits fmt) (bl.flatMap (·.1)) ++ bl.map fun b => BitVec.ofNat 8 b.2

/-- A tensor converted whole to its base format under RNE and SAT (R288). -/
def encodeFull (fmt : Nat) (xs : List Fp) : Bytes :=
  if isTQ fmt then Config.fullLevels (xs.map toF32)
  else if isScaled fmt then (pieces 128 xs).flatMap (encodeMx fmt)
  else xs.flatMap fun x => leBytes (elemBytes fmt) (convTo fmt false .rne x).code

/-- One tensor of the source, classified and encoded (R287, R288). -/
def deltaTensor (g : Gen) (src : Bytes) (t : SrcTensor) : DTensor :=
  let x := g.info.tensors.getD t.idx default
  let v := srcElems src t x.elements
  let d := (v.zipIdx).map fun p => round32 (p.1.sub (baseElem g x p.2))
  if d.all Fp.isZero then ⟨t.idx, .shared, [], []⟩
  else if x.weight then
    let gs := (pieces 128 d).map fun l => (l, groupScale l)
    let lv := levelTable gs
    ⟨t.idx, .delta, lv, gs.flatMap (encodeDelta lv)⟩
  else ⟨t.idx, .full, [], encodeFull x.fmt v⟩

/-- Bytes that a delta generation stores: its shards, runs padded to whole blocks, and its FULL tensors. -/
def deltaStored (g : Gen) : Nat :=
  ((cutDies g.cut).map fun d => halfLen g d true + halfLen g d false).foldl (· + ·) 0 +
    (g.delta.map fun t => if t.kind = .full then t.data.length else 0).foldl (· + ·) 0

/-- The new generation of a delta slot. -/
def deltaRec (s : State) (e : Bytes) (g : Gen) (src : Bytes) (ts : List DTensor) : Gen where
  num := (s.md.slots.get (dTarget e)).newest + 1
  info := g.info
  gendig := sha256 (g.gendig ++ sha256 src)
  refs := 0
  inFlight := 0
  base := some (dBase e, dBaseGen e)
  window := none
  whole := true
  stored := 0
  bytes := []
  delta := ts
  cut := s.md.epoch.line

/-- That generation with the bytes it takes. -/
def deltaGen (s : State) (e : Bytes) (g : Gen) (src : Bytes) (ts : List DTensor) : Gen :=
  let n := deltaRec s e g src ts
  { n with stored := deltaStored n }

/-- RESULT of DELTA_LOAD. -/
def deltaResult (g : Gen) : W64 :=
  let n (k : DKind) := g.delta.countP fun t => t.kind = k
  BitVec.ofNat 64 (n .delta + n .shared * 2 ^ 16 + n .full * 2 ^ 32 + ceilDiv g.stored 0x4000000 * 2 ^ 48)

/-- Whether a listed tensor of a source holds an element that is not finite. -/
def anyNonFinite (g : Gen) (src : Bytes) (l : List SrcTensor) : Bool :=
  l.any fun t => (srcElems src t (g.info.tensors.getD t.idx default).elements).any fun x => !isFin x

/-- What host software writes into the source between the two passes, if anything: offset in the source and bytes. -/
def rewriteSource (s : State) (e : Bytes) (w : Option (Nat × Bytes)) : State :=
  match w with
  | some (o, b) => if o + b.length ≤ dSourceLen e then writeWord s (dSource e + BitVec.ofNat 64 o) b else s
  | none => s

/-- DELTA_LOAD builds a delta generation, unless its source is poisoned or not finite in either pass, or the digests of the passes differ. -/
def runDeltaLoad (w : Option (Nat × Bytes)) (j : JobRef) (e : Bytes) (s : State) : State :=
  checkThen (checkDelta s e) j (fun s =>
    let s := { s with free := s.free + 1 }
    match genOf s (dBase e) (dBaseGen e) with
    | none => finish s j .genRetired 0
    | some g =>
      let l := srcTensors (dataOf s e)
      let p := readWord s (dSource e) (dSourceLen e)
      let src := plain p
      if anyPois p || anyNonFinite g src l then finish s j .poisoned 0
      else
        let s := rewriteSource s e w
        let p2 := readWord s (dSource e) (dSourceLen e)
        if anyPois p2 || anyNonFinite g (plain p2) l then finish s j .poisoned 0
        else if sha256 src ≠ sha256 (plain p2) then finish s j .digestMismatch 0
        else
        let n := deltaGen s e g src (l.map (deltaTensor g src))
        finish (addGen (addRef s (dBase e) (dBaseGen e)) (dTarget e) n) j .ok (deltaResult n)) s

/-- DELTA_LOAD (R286 to R289). -/
def execDeltaLoad (st : Stream) (w : Option (Nat × Bytes)) (s : State) : Ans := startEntry 0x94 st.val (runDeltaLoad w) s

end Sys2Proof.Machine
end

