-- ==== Sys2Proof/Machine/Twin.lean ====
section
/-!
DEFINITION. Twins: pairing, mirroring as the partner sees it, takeover, isolation and detaching (R461 to R470).
-/

namespace Sys2Proof.Machine

/-- Whether the twin port is UP (R461). -/
def twinUp (s : State) : Bool := isTwinPort s 7 && !(portLinks s 7).isEmpty

/-- The SERIAL at the far end of the twin port. -/
def twinSerial (s : State) : Bytes := match s.lk.ports.get 7 with | some q => q.serial | none => []

/-! ### Pairing (R462) -/

/-- The pair enters MIRROR, and the TWIN_PAIR that waits for it completes. -/
def enterMirror (s : State) : State :=
  let s := setLk s fun l => { l with twin := .mirror, partner := twinSerial s }
  match s.lk.pairJob with
  | some j => finish (setLk s fun l => { l with pairJob := none }) j .ok 0
  | none => s

/-- PAIRING: a full checkpoint of every live sequence in HBM3; without one the pair is in MIRROR at once. -/
def startPairing (s : State) : State :=
  let s := setLk s fun l => { l with twin := .pairing, partnerPair := false, mirror := [], log := [], ckDone := [], unackedCk := [], mirrored := [] }
  let live := s.md.seqs.filter fun q => q.parked.isNone
  let s := live.foldl sendCkpt s
  let s := setLk s fun l => { l with mirrored := live.map (·.ra) }
  if s.lk.unackedCk.isEmpty then enterMirror s else s

/-- The twin port has come back: an isolated pair returns to MIRROR through PAIRING (R468). -/
def twinBack (s : State) : State :=
  if s.lk.twin = .isolated && twinUp s && twinSerial s = s.lk.partner then startPairing s else s

/-- The partner has issued TWIN_PAIR: pairing goes on when this side waits for it. -/
def partnerIssued (s : State) : State :=
  match s.lk.pairJob, s.lk.twin with
  | some _, .unpaired => startPairing s
  | some _, .isolated => startPairing s
  | _, _ => setLk s fun l => { l with partnerPair := true }

/-- The checks of TWIN_PAIR with ACTION 0, in the order of R462. -/
def checkPair (s : State) (p : PartnerReport) : Option Status :=
  firstFail [
    (!s.lk.joined || !twinUp s, .notReady),
    (s.lk.pattern = 3 || s.lk.twin = .detaching || s.lk.twin = .takeover, .busy),
    (!p.verifies, .sigFail),
    (!p.digestsAgree, .digestMismatch)]

/-- ACTION 0: at once in MIRROR; else the checks, and the partner's own TWIN_PAIR. -/
def pairMirror (j : JobRef) (p : PartnerReport) (s : State) : State :=
  if s.lk.twin = .mirror then finish s j .ok 0
  else
    checkThen (checkPair s p) j (fun s =>
      let s := sendTwin (setLk (setBody s j (.ctl .pair)) fun l => { l with pairJob := some j }) kindTwinPair [1]
      if s.lk.twin = .pairing then s else if s.lk.partnerPair then startPairing s else s) s

/-! ### Takeover (R466, R467) -/

/-- A checkpointed part of a sequence written into its pages, on every die that holds the head. -/
def putPart (m : ModelInfo) (q : Seq) (s : State) (p : Nat × Nat × Bytes) : State :=
  let n := p.2.1 - p.1
  q.dies.foldl (fun s d =>
    (d.2.heads.zipIdx).foldl (fun s h =>
      (List.range (kvLayers m)).foldl (fun s l =>
        (List.range n).foldl (fun s k =>
          let pos := p.1 + k
          let page := (pageAt s m d.1 d.2 l h.2 (pos / 16)).getD 0
          let o := ((l * m.kvHeads + h.1) * n + k) * (2 * rowKv m)
          storeClean (storeClean s (dieKey d.1 (page + keyOffset m (pos % 16))) (bytesAt p.2.2 o (rowKv m)))
            (dieKey d.1 (page + valOffset m (pos % 16))) (bytesAt p.2.2 (o + rowKv m) (rowKv m))) s) s) s) s

/-- The partner's sequence of a record becomes one of this module's: its record as of its last checkpoint, its pages from the mirror
pool; nothing where its generation is not live here or its pages find no room. -/
def adoptSeq (s : State) (x : MirrorSeq) : Option State :=
  let slot := recSlot x.record
  let c := recCommitted x.record
  match genOf s slot (recGen x.record) with
  | none => none
  | some g =>
    let home := homeDie s
    match allocAll g.info slot (modeOf s slot) home (c + 1) (upDies s) s with
    | none => none
    | some (ds, s1) =>
      let q : Seq := { ra := x.ra, slot := slot, gen := g.num, home := home, dies := ds, parked := none, repin := none, migrated := false
                       acc := [], tmpl := 0, sinceMove := 0, prefilling := false, filled := c, pois := false }
      let s2 := addRef { s1 with md := { s1.md with seqs := s1.md.seqs ++ [q] } } slot g.num
      let s3 := x.parts.foldl (putPart g.info q) s2
      some (if (reach s3 x.ra 128 true).isNone then writeWord s3 x.ra x.record else s3)

/-- Whether a record shows that the loop it drives is over: an end reason that the log entry's record does not have, or the same one whose
condition holds (R247). -/
def endShown (s : State) (was r : Bytes) : Bool :=
  let e := byteN r 123 % 16
  let last := leNat (plain (readWord s (recOutAddr r + BitVec.ofNat 64 (4 * (recOutPos r - 1))) 4)) % 2 ^ 17
  e ≠ 0 && (e ≠ byteN was 123 % 16 ||
    (match e with
     | 1 => decide (0 < recOutPos r) && (recStops r).contains last
     | 2 => recOutPos r = recMaxNew r
     | 3 => recCtxLimit r ≠ 0 && decide (recCtxLimit r ≤ recCommitted r + 1)
     | 4 => decide (recOutCap r < recOutPos r + 65)
     | _ => true))

/-- The status of an end reason (R247). -/
def endStatus (e : Nat) : Status := if e = 5 then .poisoned else if e = 6 then .dieRetired else if e = 8 then .genRetired else .ok

/-- The record that a mirrored command names. -/
def namedRecord (e : Bytes) : W64 := if entryOpc e = 0x0D then entryAddrW e else pRec e

/-- A number for the next adopted command. -/
def freeAdopted (s : State) : Nat :=
  ((List.range (s.cp.jobs.length + 1)).find? fun k => (getJob s (.adopted k)).isNone).getD 0

/-- A loop that goes on from its checkpoint keeps the output position that it had (R466). -/
def keepOut (s : State) (ra : W64) (out : Nat) : State :=
  { putRec s ra 44 (leBytes 4 out) with md := { s.md with loops := s.md.loops.map fun l => if l.ra = ra then { l with lastOut := out } else l } }

/-- A PREFILL that had not finished goes to the head of its slot's admission queue. -/
def admitFirst (s : State) (j : JobRef) : State :=
  { s with md := { s.md with slots := s.md.slots.mapAll fun _ x =>
    { x with admits := x.admits.filter (fun a => a.job = j) ++ x.admits.filter fun a => a.job ≠ j } } }

/-- One log entry adopted. -/
def adoptOne (s : State) (l : TwinLog) : State :=
  let e := l.entry
  let ra := namedRecord e
  let j := JobRef.adopted (freeAdopted s)
  let repro := s.pw.repro && Config.freePick s.free 2 = 1
  let s := { putJob s j { bareJob e with start := now s, resumed := !repro } with free := s.free + 1 }
  let gone := fun (x : MirrorSeq) => (genOf s (recSlot x.record) (recGen x.record)).isNone
  match s.lk.mirror.find? fun x => x.ra = ra with
  | none => if entryOpc e = 0x0D then finish s j .genRetired 0 else admitFirst (runKernel j e s) j
  | some x =>
    if gone x then finish s j .genRetired 0
    else
      match (if (seqOf s ra).isSome then some s else adoptSeq s x) with
      | none => finish s j .notReady 0
      | some t =>
        if entryOpc e = 0x0D then
          if endShown t l.record x.record then
            finish t j (endStatus (byteN x.record 123 % 16)) (BitVec.ofNat 64 (byteN x.record 123 % 16 * 2 ^ 32 + recOutPos x.record))
          else keepOut (runDecode j e t) ra (recOutPos x.record)
        else if byteN e 16 = 1 then finish t j .ok (BitVec.ofNat 64 (recCommitted x.record * 2 ^ 32 + recRoot x.record))
        else runKernel j e t

/-- The partner's commands are adopted in log order, and the pair is no more. -/
def adoptAll (s : State) : State :=
  let l := s.lk.log
  let s := l.foldl adoptOne { s with lk := { s.lk with twin := .unpaired } }
  setLk s fun k => { k with log := [], mirror := [], mirrored := [], ckDone := [], partner := [], partnerPair := false, handing := false }

/-- A side takes over: no further twin traffic, the link events of the twin port, and the partner's commands once the passes already
started are over. -/
def takeOver (s : State) : State :=
  let j := s.lk.pairJob
  let s := flushWaits (setLk s fun l => { l with twin := .takeover, pairJob := none })
  let s := (portLinks s 7).foldl (fun s n => fire s (664 + n)) s
  match j with
  | some j => finish s j .twinLost 0
  | none => s

/-- The pass in flight when TAKEOVER began is over. -/
def takeoverDue (s : State) : State := if s.lk.twin = .takeover && !s.md.pass.running then adoptAll s else s

/-- The pair ends on this side without adoption (R468). -/
def unpair (s : State) : State :=
  flushWaits (setLk s fun l => { l with twin := .unpaired, log := [], mirror := [], mirrored := [], ckDone := [], partner := [], partnerPair := false })

/-- ACTION 1: in ISOLATED the partner's sequences are adopted, in MIRROR both sides unpair, otherwise nothing happens. -/
def pairDown (j : JobRef) (s : State) : State :=
  match s.lk.twin with
  | .isolated => finish (takeoverDue (takeOver s)) j .ok 0
  | .mirror => finish (unpair (sendTwin s kindTwinEnd [0])) j .ok 0
  | .pairing => finish (unpair (sendTwin s kindTwinEnd [0])) j .ok 0
  | .takeover => finish s j .busy 0
  | .detaching => finish s j .busy 0
  | _ => finish s j .ok 0

/-- TWIN_PAIR by its ACTION. -/
def runTwinPair (p : PartnerReport) (j : JobRef) (e : Bytes) (s : State) : State :=
  match byteN e 16 with
  | 0 => exclusively j (pairMirror j p) s
  | 1 => exclusively j (pairDown j) s
  | _ => finish s j .lenRange 0

/-- TWIN_PAIR (R462, R468). -/
def execTwinPair (st : Stream) (p : PartnerReport) (s : State) : Ans := startEntry 0x89 st.val (runTwinPair p) s

/-- TWIN_PAIR_TIMEOUT (R462): enabled while a TWIN_PAIR waits for the partner's. -/
def execTwinPairTimeout (s : State) : Ans :=
  match s.lk.pairJob with
  | some j =>
    if s.lk.twin = .pairing || s.lk.twin = .detaching then .next s
    else .next (finish (setLk s fun l => { l with pairJob := none }) j .timeout 0)
  | none => .next s

/-! ### What the partner sends (R463, R464) -/

/-- Whether twin traffic is accepted. -/
def twinListens (s : State) : Bool := s.lk.twin = .mirror || s.lk.twin = .pairing || s.lk.twin = .detaching

/-- TWIN_LOG_ENTRY (R463). -/
def execTwinLogEntry (entry record : Bytes) (s : State) : Ans :=
  if twinListens s then .next (setLk s fun l => { l with log := l.log ++ [⟨bytesAt entry 0 64, bytesAt record 0 128, none⟩] }) else .next s

/-- A checkpoint added to the mirror pool: it covers the positions from the last one's COMMITTED to its own. -/
def poolWith (l : List MirrorSeq) (c : Checkpoint) : List MirrorSeq :=
  let hi := recCommitted c.record
  match l.find? fun x => x.ra = c.recAddr with
  | none => l ++ [⟨c.recAddr, bytesAt c.record 0 128, [(0, hi, c.kv)]⟩]
  | some x => l.map fun y => if y.ra = c.recAddr then ⟨y.ra, bytesAt c.record 0 128, y.parts ++ [(recCommitted x.record, hi, c.kv)]⟩ else y

/-- TWIN_CHECKPOINT (R463): stored and acknowledged when its commit word arrived, ignored otherwise. -/
def execTwinCheckpoint (c : Checkpoint) (s : State) : Ans :=
  if twinListens s && c.committed then
    .next (sendTwin (setLk s fun l => { l with
      mirror := poolWith l.mirror c
      log := l.log.map fun x => if namedRecord x.entry = c.recAddr then { x with ckpt := some c } else x }) kindTwinAck (leBytes 8 c.recAddr.toNat))
  else .next s

/-- A waiting completion with one acknowledgement less to wait for. -/
def ackWait (ra : W64) (w : TwinWait) : TwinWait := if w.ra = ra then { w with left := w.left - 1 } else w

/-- One checkpoint of a record is acknowledged: the completions that waited for it alone are written; PAIRING may be over. -/
def ackCkpt (s : State) (ra : W64) : State :=
  if s.lk.unackedCk.contains ra then
    let ws := s.lk.twinWaits.map (ackWait ra)
    let s := setLk s fun l => { l with unackedCk := l.unackedCk.erase ra, twinWaits := ws.filter fun w => w.left ≠ 0 }
    let s := (ws.filter fun w => w.left = 0).foldl releaseWait s
    let s := releasesDue s
    if s.lk.twin = .pairing && s.lk.unackedCk.isEmpty then enterMirror s else s
  else s

/-- CHECKPOINT_ACK (R464). -/
def execCheckpointAck (ra : W64) (s : State) : Ans := if twinListens s then .next (ackCkpt s ra) else .next s

/-- The first log entry with a tag dropped; a RELEASE's takes its sequence out of the mirror pool. -/
def dropLog (l : Links) (tag : BitVec 16) : Links :=
  match l.log.find? fun x => entryTag x.entry = tag.toNat with
  | none => l
  | some x =>
    { l with
      log := l.log.erase x
      mirror := if entryOpc x.entry = 0x01 && byteN x.entry 16 = 2 then l.mirror.filter fun y => y.ra ≠ namedRecord x.entry else l.mirror }

/-- WRITTEN_NOTICE (R464): the partner has written the final completion of a mirrored command. -/
def execWrittenNotice (tag : BitVec 16) (s : State) : Ans := if twinListens s then .next (setLk s fun l => dropLog l tag) else .next s

/-! ### Detaching (R469) -/

/-- Whether a command is one that a draining module need not see to its end: the DETACH_PREPARE itself, an admission not yet made, a loop
that it hands over. -/
def drainSkips (s : State) (p : JobRef × Job) : Bool :=
  match p.2.body with
  | .ctl .detach => true
  | .decode _ => s.lk.handing
  | .prefill ra => (seqOf s ra).isNone
  | _ => false

/-- Whether the drain is over. -/
def drained (s : State) : Bool := !s.md.pass.running && s.lk.twinWaits.isEmpty && s.cp.jobs.all (drainSkips s)

/-- One command handed over: its sequence's checkpoint goes to the partner, and the command ends without a completion. -/
def handOver (s : State) (p : JobRef × Job) : State :=
  match p.2.body with
  | .decode ra =>
    let s := match seqOf s ra with | some q => dropSeq (sendCkpt s q) q | none => s
    delJob (dropLoop s ra) p.1
  | .prefill _ => delJob (dropAdmit s p.1) p.1
  | _ => s

/-- One admission that a module without a partner will not make: it ends with NOT_READY. -/
def turnAway (s : State) (p : JobRef × Job) : State :=
  match p.2.body with
  | .prefill _ => finish (dropAdmit s p.1) p.1 .notReady 0
  | _ => s

/-- The drained module hands over, holds its links down and completes. -/
def detach (s : State) (j : JobRef) : State :=
  let js := s.cp.jobs
  let s := if s.lk.handing then sendTwin (js.foldl handOver s) kindTwinEnd [1] else js.foldl turnAway s
  let s := setLk s fun l => { l with twin := .detached, handing := false, log := [], mirror := [], mirrored := [], unackedCk := [], ckDone := [], pairJob := none }
  let s := (List.range 24).foldl (fun s n => if (s.lk.links.get n).st = 5 then s else linkTo s n 0) s
  finish s j .ok 0

/-- The DETACH_PREPARE that drains the module goes on when it can. -/
def detachDue (s : State) : State :=
  match s.lk.pairJob with
  | some j => if s.lk.twin = .detaching && drained s then detach s j else s
  | none => s

/-- DETACH_PREPARE begins to drain. -/
def runDetach (j : JobRef) (_e : Bytes) (s : State) : State :=
  exclusively j (fun s =>
    detachDue (setLk (setBody s j (.ctl .detach)) fun l => { l with handing := l.twin = .mirror, twin := .detaching, pairJob := some j })) s

/-- DETACH_PREPARE (R469). -/
def execDetachPrepare (st : Stream) (s : State) : Ans := startEntry 0x91 st.val runDetach s

/-- The block's own time, on an empty queue: the beacon counts, and what waits for a pass boundary goes on. -/
def tick (s : State) : State := detachDue (takeoverDue (idle s))

end Sys2Proof.Machine
end

