-- ==== Sys2Proof/Machine/Links.lean ====
section
/-!
DEFINITION. Tensor links (R441, R442, R448), logical ports and messages (R443 to R445), discovery (R446 to R451), the light list
(R452), cascades (R453 to R459) and the fog signal (R460).
-/

namespace Sys2Proof.Machine

/-! ### Characteristic frames (R446, R447) -/

/-- The expected-peer entry of a link in the expected light list (R454), 0 without one. -/
def expectedOf (s : State) (n : Nat) : Nat := leAt s.lk.expected (16 + 4 * n) 4

/-- The first 60 bytes of the frame that a link sends. -/
def frameBody (s : State) (n : Nat) : Bytes :=
  let l := s.lk.links.get n
  let x := expectedOf s n
  let byte := fun (v : Nat) => BitVec.ofNat 8 v
  [byte 2, byte 1, byte s.pins.group.toNat, byte (bAt s.pins.standby 6 + bAt s.pins.twinSide 5 + s.pins.casc.toNat), byte (n / 3 * 32 + n),
    byte (bAt s.lk.wiring 4 + bAt l.heard 3 + l.port.getD 0), byte (if bitN x 31 then 128 + fld x 4 0 else 0),
    byte (if bitN x 31 then fld x 28 24 else 0), byte (if bitN x 31 then fld x 19 16 else 0)] ++
    List.replicate 7 0 ++ ownSerial ++ List.replicate 28 0

/-- The frame that a link sends: 64 bytes with the CRC-32C of the first 60. -/
def frameOf (s : State) (n : Nat) : Bytes := frameBody s n ++ leBytes 4 (crc32c (frameBody s n)).toNat

/-- Whether a frame is valid. -/
def frameOk (f : Bytes) : Bool := f.length = 64 && leAt f 60 4 = (crc32c (f.take 60)).toNat

/-- What a valid frame says of its sender. -/
def framePeer (f : Bytes) : Peer where
  serial := bytesAt f 16 16
  group := byteN f 2 % 32
  module := byteN f 3 % 16
  link := byteN f 4 % 32
  switch := bitN (byteN f 3) 7
  standby := bitN (byteN f 3) 6
  side := bitN (byteN f 3) 5
  vmaj := byteN f 0
  vmin := byteN f 1

/-- HEARD of a frame. -/
def frameHeard (f : Bytes) : Bool := bitN (byteN f 5) 3

/-- Whether two frames have one peer identity: SERIAL, GROUP, MODULE and LINK. -/
def samePeer (a b : Peer) : Bool := a.serial = b.serial && a.group = b.group && a.module = b.module && a.link = b.link

/-- Whether a link sends and takes characteristic frames. -/
def linkTalks (s : State) (n : Nat) : Bool := [2, 3, 4].contains (s.lk.links.get n).st

/-- CHARACTERISTIC_FRAME_SEND (R447). -/
def execCharacteristicFrameSend (n : LinkNo) (s : State) : Ans :=
  if linkTalks s n.val then .next (emit s (.charFrame n.val (frameOf s n.val))) else .next s

/-! ### Admission (R443, R449, R450) -/

/-- Whether a link with this peer belongs to the twin port (R461). -/
def twinLink (s : State) (n : Nat) (p : Peer) : Bool := (n = 0 || n = 12) && p.link = n && !p.switch && p.side ≠ s.pins.twinSide

/-- A port in service that serves a peer: the twin port for the links that form it, one of the others for any other link. -/
def portOfPeer (s : State) (n : Nat) (p : Peer) : Option Nat :=
  (List.range 8).find? fun k => match s.lk.ports.get k with | some q => q.serial = p.serial && q.twin = twinLink s n p | none => false

/-- The port of R443 for a link; none where it would need one more than there are. -/
def choosePort (s : State) (n : Nat) (p : Peer) : Option Nat :=
  match portOfPeer s n p with
  | some k => some k
  | none =>
    if twinLink s n p then (if (s.lk.ports.get 7).isNone then some 7 else none)
    else (List.range 8).find? fun k => (s.lk.ports.get k).isNone && (k ≠ 7 || !isTwinPort s 7)

/-- R449: 0 when a link's peer passes every check, else the hold cause, 1 VERSION_MISMATCH or 2 PORT_MISWIRED. -/
def holdCause (s : State) (n : Nat) (p : Peer) : Nat :=
  let x := expectedOf s n
  if p.vmaj ≠ 2 || 2 < p.vmin then 1
  else if p.serial = ownSerial || (!p.switch && p.group = s.pins.group.toNat && p.module = s.pins.casc.toNat) then 2
  else if s.lk.wiring && !(bitN x 31 && fld x 28 24 = p.group && fld x 19 16 = p.module && fld x 4 0 = p.link) then 2
  else if (choosePort s n p).isNone then 2 else 0

/-- A link that passed goes UP into its port. -/
def linkUp (s : State) (n : Nat) (p : Peer) : State :=
  match choosePort s n p with
  | none => s
  | some k =>
    let q := (s.lk.ports.get k).getD { serial := p.serial, group := p.group, module := p.module, switch := p.switch, twin := twinLink s n p }
    let s := { s with lk := { s.lk with ports := s.lk.ports.set k (some q) } }
    let s := updLink s n fun l => { l with port := some k, peer := some p, hold := 0, vmaj := 2, vmin := min 1 p.vmin }
    twinBack (setLinkState s n 3)

/-- A link that is checked: UP, or HELD with its cause. -/
def admitLink (s : State) (n : Nat) (p : Peer) : State :=
  match holdCause s n p with
  | 0 => linkUp s n p
  | c => setLinkState (updLink s n fun l => { l with hold := c, peer := some p }) n 4

/-- A frame in DISCOVER: three in a row of one peer identity with HEARD lead to the checks. -/
def discover (s : State) (n : Nat) (p : Peer) (heard : Bool) : State :=
  let l := s.lk.links.get n
  let same := match l.cand with | some c => samePeer c p | none => false
  let k := if !heard then 0 else if same then l.consec + 1 else 1
  let s := updLink s n fun l => { l with cand := some p, consec := k }
  if 3 ≤ k then admitLink s n p else s

/-- A frame of an UP link: another peer identity takes it out of its port at once and back to DISCOVER (R451). -/
def frameUp (s : State) (n : Nat) (p : Peer) (heard : Bool) : State :=
  match (s.lk.links.get n).peer with
  | some q =>
    if samePeer q p then updLink s n fun l => { l with peer := some p }
    else discover (updLink (linkTo s n 2) n fun l => { l with heard := true }) n p heard
  | none => s

/-- CHARACTERISTIC_FRAME (R446 to R451): a frame whose CRC fails is discarded. -/
def execCharacteristicFrame (n : LinkNo) (f : Bytes) (s : State) : Ans :=
  if !linkTalks s n.val || !frameOk f then .next s
  else
    let p := framePeer f
    let s := updLink s n.val fun l => { l with heard := true }
    .next (match (s.lk.links.get n.val).st with
      | 2 => discover s n.val p (frameHeard f)
      | 3 => frameUp s n.val p (frameHeard f)
      | _ => admitLink s n.val p)

/-! ### Link states (R441, R442, R448, R451) -/

/-- LINK_SIGNAL_DETECT (R448): enabled on a DOWN link of a module that has not detached. -/
def execLinkSignalDetect (n : LinkNo) (s : State) : Ans :=
  if (s.lk.links.get n.val).st = 0 && s.lk.twin ≠ .detached && !dieOut s (n.val / 3) then .next (setLinkState s n.val 1) else .next s

/-- LINK_TRAINED (R442, R448, R475): a lane group that failed is retired; with one left the link goes to DISCOVER. -/
def execLinkTrained (n : LinkNo) (lg0 lg1 : Bool) (s : State) : Ans :=
  if (s.lk.links.get n.val).st ≠ 1 then .next s
  else
    let s := if lg0 then s else retireLane s n.val false true
    let s := if lg1 then s else retireLane s n.val true true
    .next (if (s.lk.links.get n.val).st = 5 then s else linkTo s n.val 2)

/-- LINK_TRAIN_TIMEOUT (R448). -/
def execLinkTrainTimeout (n : LinkNo) (s : State) : Ans := if (s.lk.links.get n.val).st = 1 then .next (linkTo s n.val 0) else .next s

/-- LINK_SILENCE_TIMEOUT (R447, R451): DISCOVER and UP return to TRAIN; HELD stays, and nothing is heard. -/
def execLinkSilenceTimeout (n : LinkNo) (s : State) : Ans :=
  match (s.lk.links.get n.val).st with
  | 2 => .next (linkTo s n.val 1)
  | 3 => .next (linkTo s n.val 1)
  | 4 => .next (updLink s n.val fun l => { l with heard := false })
  | _ => .next s

/-- LINK_SIGNAL_LOSS (R444, R448). -/
def execLinkSignalLoss (n : LinkNo) (s : State) : Ans := if linkTalks s n.val then .next (linkTo s n.val 1) else .next s

/-- FLIT_NAK (R442): a failed flit is replayed; its ninth failure retrains the link. -/
def execFlitNak (n : LinkNo) (s : State) : Ans :=
  if !linkTalks s n.val then .next s
  else
    let s := updLink s n.val fun l => { l with crcCnt := satInc l.crcCnt 1, flitFails := l.flitFails + 1 }
    if (s.lk.links.get n.val).flitFails ≤ 8 then .next (linkEvents (updLink s n.val fun l => { l with replayCnt := satInc l.replayCnt 1 }) n.val 1)
    else .next (retrainLink s n.val 0)

/-- TL_ERRn.CNT_CLR (R472). -/
def execTlErrCntClr (n : LinkNo) (s : State) : Ans :=
  gate (blockOn s) s <| .next (updLink s n.val fun l => { l with replayCnt := 0, crcCnt := 0, fecCnt := 0 })

/-! ### Members (R452, R455, R458) -/

/-- Whether member messages flow. -/
def talksMembers (s : State) : Bool := s.lk.joined || s.lk.joining

/-- This module's own entry. -/
def ownMember (s : State) : Member where
  valid := true
  standby := s.pins.standby
  side := s.pins.twinSide
  pattern := s.lk.pattern
  sercrc := crc32c ownSerial
  heartbeat := s.lk.heartbeat

/-- One entry of a member message. The form is this model's. -/
def memberRow (p : Nat × Member) : Bytes :=
  leBytes 2 p.1 ++ leBytes 1 p.2.hops ++ leBytes 1 (bAt p.2.standby 0 + bAt p.2.side 1 + p.2.pattern * 4) ++ leBytes 8 p.2.heartbeat ++ leBytes 4 p.2.sercrc.toNat

/-- The chip number to which a message for the far end of a port goes. -/
def portChip (s : State) (k : Nat) : BitVec 12 := match s.lk.ports.get k with | some q => BitVec.ofNat 12 (8 * (16 * q.group + q.module)) | none => 0

/-- MEMBER_MESSAGE_SEND (R452): the module's heartbeat advances and its table goes out on every UP port. -/
def execMemberMessageSend (s : State) : Ans :=
  if !talksMembers s then .next s
  else
    let s := { s with lk := { s.lk with heartbeat := s.lk.heartbeat + 1 } }
    let s := updMember s (selfModule s) fun _ => ownMember s
    let b := (s.lk.members.filter fun p => p.2.valid && !p.2.lost).flatMap memberRow
    .next ((portsUp s).foldl (fun s k => sendOn s k (portChip s k) kindMember b) s)

/-- The SERIAL of the switch at a port's far end, if there is one. -/
def switchAt (s : State) (k : Nat) : Option Nat :=
  match s.lk.ports.get k with
  | some q => if q.switch then some (leNat q.serial) else none
  | none => none

/-- Whether port `k` is preferred to port `old` toward another group because both lead to switches: the lowest SERIAL wins (R459). -/
def switchRank (s : State) (i k old : Nat) : Option Bool :=
  if i / 16 = selfModule s / 16 then none
  else
    match switchAt s k, switchAt s old with
    | some a, some b => if a < b then some true else if b < a then some false else none
    | _, _ => none

/-- A received entry merged: the newer heartbeat, and the route with the fewest hops, or the one that `rank` prefers; more than 15
hops form no route. -/
def mergeMember (rank : Option Bool) (k : Nat) (r : MemberRow) (e : Member) : Member :=
  let newer := !e.valid || decide (e.heartbeat < r.heartbeat)
  let hops := r.hops + 1
  if 15 < hops then (if newer && e.valid then { e with heartbeat := r.heartbeat } else e)
  else
    let e1 := if newer then { e with valid := true, lost := false, standby := r.standby, side := r.side, pattern := r.pattern.toNat, sercrc := r.sercrc
                                     heartbeat := r.heartbeat, alias_ := if e.lost then false else e.alias_ } else e
    if !e.valid || (e.lost && newer) || e.port = k || rank.getD (decide (hops < e.hops)) then { e1 with hops := hops, port := k } else e1

/-- MEMBER_MESSAGE (R452): on an UP port of a module that has joined or is joining. -/
def execMemberMessage (p : Fin 8) (rows : List MemberRow) (s : State) : Ans :=
  if !talksMembers s || (portLinks s p.val).isEmpty then .next s
  else .next (rows.foldl (fun s r => if r.i.val = selfModule s then s else updMember s r.i.val fun e => mergeMember (switchRank s r.i.val p.val e.port) p.val r e) s)

/-! ### Messages (R444, R455) -/

/-- The acknowledgement of everything up to a sequence number on a port. -/
def sendAck (s : State) (k : Nat) (seq : BitVec 16) : State :=
  emit s (.link k { seq := seq, control := true, src := BitVec.ofNat 12 (chipBase s), dst := BitVec.ofNat 12 (chipBase s), kind := kindAck, payload := [] })

/-- Whether sequence number `a` is at or before `b` in serial-number arithmetic. -/
def seqUpTo (a b : BitVec 16) : Bool := (b - a).toNat < 0x8000

/-- Whether a message's destination is this module: its own chips, or those of the member whose role it serves (R458). -/
def forUs (s : State) (m : Msg) : Bool :=
  m.dst.toNat / 8 = selfModule s || (s.lk.switchedIn && m.dst.toNat / 8 = s.pins.group.toNat * 16 + s.lk.role)

/-- A message for another module goes on toward it, whole and with its source (R455). -/
def relay (s : State) (m : Msg) : State :=
  match routeTo s (m.dst.toNat / 8) with
  | none => s
  | some p => postMsg s p m

/-- The state that a command answers, or the one before it. -/
def after (s : State) : Ans → State
  | .next t => t
  | _ => s

/-- A remote read or write that arrives for an address of this module: at a tile's windows or at a die's HBM windows (R126, R257). -/
def remoteAccess (s : State) (m : Msg) (write : Bool) : State :=
  let w := param64 m.payload 0
  let data := m.payload.drop 8
  let a : Access := { src := m.src, addr := offOf w, len := if write then data.length else leAt data 0 4, write := write, data := if write then data else [], origin := none }
  match spadExtent (offOf w) a.len with
  | some (n, o) => after s (execRemoteAccess (Fin.ofNat 256 (32 * (chipF w % 8) + n)) { a with addr := o } s)
  | none => after s (execHbmWindowAccess (Fin.ofNat 8 (chipF w % 8)) a s)

/-- The entries of a member message. -/
def memberRows (b : Bytes) : List MemberRow :=
  (pieces 16 b).map fun r =>
    { i := Fin.ofNat 512 (leAt r 0 2), heartbeat := leAt r 4 8, hops := byteN r 2, standby := bitN (byteN r 3) 0, side := bitN (byteN r 3) 1
      pattern := BitVec.ofNat 2 (byteN r 3 / 4), sercrc := BitVec.ofNat 32 (leAt r 12 4) }

/-- The result that a member's report carries. -/
def memberResult : Nat → MemberResult
  | 0 => .ready
  | 1 => .sigFail
  | 2 => .digestMismatch
  | _ => .lost

/-- A message taken in its turn on port `k` (R33): what it carries takes effect. The forms of the payloads are this model's. -/
def deliverMsg (k : Nat) (s : State) (m : Msg) : State :=
  let b := m.payload
  if !forUs s m then relay s m
  else if m.kind = kindBundle then (if notMaster s then takeLoad s b else s)
  else if m.kind = kindTwinPair then partnerIssued s
  else if m.kind = kindTwinEnd && twinListens s then
    (if byteN b 0 = 0 then unpair s else takeoverDue (takeOver s))
  else if m.kind = kindToken then takeToken s (m.src.toNat / 8) (leAt b 0 2) (byteN b 2) (leAt b 4 2) (leAt b 6 2) (leAt b 8 2) (statusOf (leAt b 10 2))
    ⟨param64 b 16, param64 b 24, BitVec.ofNat 4 (byteN b 3)⟩
  else if m.kind = kindArrive then after s (execArrive (Fin.ofNat 512 (leAt b 0 2)) (Fin.ofNat 64 (byteN b 2)) (BitVec.ofNat 2 (byteN b 3)) s)
  else if m.kind = kindRelease then after s (execRelease (Fin.ofNat 64 (byteN b 2)) (BitVec.ofNat 2 (byteN b 3)) (param64 b 4) s)
  else if m.kind = kindWrite then remoteAccess s m true
  else if m.kind = kindRead then remoteAccess s m false
  else if m.kind = kindTwinLog then after s (execTwinLogEntry (bytesAt b 0 64) (bytesAt b 64 128) s)
  else if m.kind = kindTwinCkpt then after s (execTwinCheckpoint ⟨param64 b 0, bytesAt b 8 128, b.drop 136, true⟩ s)
  else if m.kind = kindTwinWritten then after s (execWrittenNotice (BitVec.ofNat 16 (leAt b 0 2)) s)
  else if m.kind = kindTwinAck then after s (execCheckpointAck (param64 b 0) s)
  else if m.kind = kindLaunch then
    after s (execGraphLaunchMessage (Fin.ofNat 512 (m.src.toNat / 8)) (BitVec.ofNat 32 (leAt b 36 4)) (BitVec.ofNat 16 (leAt b 0 2))
      (BitVec.ofNat 16 (leAt b 2 2)) (bytesAt b 4 32) (b.drop 40) s)
  else if m.kind = kindMember then after s (execMemberMessage (Fin.ofNat 8 k) (memberRows b) s)
  else if m.kind = kindMemberReport then
    after s (execBundleMemberReport (Fin.ofNat 16 (m.src.toNat / 8)) (Fin.ofNat 8 (byteN b 0)) (memberResult (byteN b 1)) s)
  else if m.kind = kindMemberCommit then
    after s (execBundleMemberCommit (Fin.ofNat 8 (byteN b 0)) (BitVec.ofNat 16 (leAt b 1 2)) (bytesAt b 3 32) s)
  else s

/-- The port's next messages, as far as they have come. -/
def deliverRun (k : Nat) : Nat → State → State
  | 0, s => s
  | f + 1, s =>
    match s.lk.ports.get k with
    | none => s
    | some q =>
      match q.early.find? fun m => m.seq = q.nextSeq with
      | none => s
      | some m =>
        let q' := { q with nextSeq := q.nextSeq + 1, early := q.early.filter fun x => x.seq ≠ q.nextSeq }
        deliverRun k f (deliverMsg k { s with lk := { s.lk with ports := s.lk.ports.set k (some q') } } m)

/-- An acknowledgement: the sender no longer keeps what it covers, and what waits for its credits goes out (R444, R445). -/
def takeAck (s : State) (k : Nat) (q : Port) (seq : BitVec 16) : State :=
  sendHeld k q.held.length { s with lk := { s.lk with ports := s.lk.ports.set k (some { q with unacked := q.unacked.filter fun u => !seqUpTo u.2.seq seq }) } }

/-- A message on a port: what was delivered before is discarded, the rest is delivered in sequence and acknowledged. -/
def takeMsg (s : State) (k : Nat) (q : Port) (m : Msg) : State :=
  let old := seqUpTo m.seq (q.nextSeq - 1) || q.early.any fun x => x.seq = m.seq
  let early := if old then q.early else q.early ++ [m]
  let s := deliverRun k early.length { s with lk := { s.lk with ports := s.lk.ports.set k (some { q with early := early }) } }
  match s.lk.ports.get k with
  | some q => sendAck s k (q.nextSeq - 1)
  | none => s

/-- MESSAGE (R444): on an UP link. -/
def execMessage (n : LinkNo) (m : Msg) (s : State) : Ans :=
  match (s.lk.links.get n.val).port with
  | none => .next s
  | some k =>
    let s := updLink s n.val fun l => { l with flitFails := 0 }
    match s.lk.ports.get k with
    | none => .next s
    | some q => .next (if m.kind = kindAck then takeAck s k q m.seq else takeMsg s k q m)

/-! ### Lost members and standbys (R452, R458) -/

/-- The standby of lowest CASC_ID in a group that is live and not yet switched in. -/
def freeStandby (s : State) (group : Nat) : Option Nat :=
  (List.range 16).find? fun n =>
    let e := s.lk.members.get (16 * group + n)
    (if 16 * group + n = selfModule s then s.pins.standby && !s.lk.switchedIn else e.valid && !e.lost && e.standby) &&
      !(s.lk.members.any fun p => p.1 / 16 = group && p.2.alias_ && p.2.amod = n)

/-- The standby of the lost member's group is switched in (R458). -/
def switchIn (s : State) (i : Nat) : State :=
  if (s.lk.members.get i).standby then s
  else
    match freeStandby s (i / 16) with
    | none => s
    | some n =>
      let s := updMember s i fun e => { e with alias_ := true, amod := n }
      if 16 * (i / 16) + n = selfModule s then { s with lk := { s.lk with switchedIn := true, role := i % 16 } } else s

/-- A member is LOST (R452, R460): what needs it ends with LINK_DOWN, its loads fail, and the standby is switched in. -/
def markLost (s : State) (i : Nat) : State :=
  let e := s.lk.members.get i
  if i = selfModule s || !e.valid || e.lost then s
  else
    let s := updMember s i fun e => { e with lost := true }
    let s := endRemote (endTransfers s (fun c => c / 8 = i) .linkDown) fun m => m = i
    switchIn (memberLostLoads s i) i

/-- MEMBER_HEARTBEAT_TIMEOUT (R452). -/
def execMemberHeartbeatTimeout (i : Fin 512) (s : State) : Ans := if talksMembers s then .next (markLost s i.val) else .next s

/-- FOG_MESSAGE (R460, R466, R490): a repeat is discarded; else it is relayed once on every other UP port, logged, fires source 708,
marks its source LOST, and a partner's starts the takeover. -/
def takeFog (s : State) (p : Nat) (f : Fog) : State :=
  let key := (f.group.toNat, f.module.toNat, f.bootEpoch)
  let i := 16 * f.group.toNat + f.module.toNat
  if s.lk.fogSeen.contains key || i = selfModule s then s
  else
    let partner := (s.lk.twin = .mirror || s.lk.twin = .pairing || s.lk.twin = .detaching) && crc32c (twinSerial s) = f.sercrc
    let s := { s with lk := { s.lk with fogSeen := s.lk.fogSeen ++ [key] } }
    let s := ((portsUp s).filter (· ≠ p)).foldl (fun s _ => emit s (.fog f)) s
    let s := fire (flog s { kind := 7, cause := f.cause.toNat, expect := BitVec.ofNat 64 (f.group.toNat * 256 + f.module.toNat) }) 708
    let s := if partner then takeOver s else s
    takeoverDue (markLost s i)

/-- FOG_MESSAGE: on an UP port. -/
def execFogMessage (p : Fin 8) (f : Fog) (s : State) : Ans := if (portLinks s p.val).isEmpty then .next s else .next (takeFog s p.val f)

/-! ### CASCADE_JOIN (R454) -/

/-- WIRING and PATTERN. -/
def jWiring (e : Bytes) : Nat := byteN e 16
def jPattern (e : Bytes) : Nat := byteN e 17

/-- The checks of CASCADE_JOIN. -/
def checkJoin (s : State) (e : Bytes) : Option Status :=
  let n := entryLen e
  let r := reach s (entryAddrW e) n false
  firstFail [
    ((n ≠ 0 && n ≠ 112) || 1 < jWiring e || 3 < jPattern e || (n = 112 && r.isNone && leAt (dataOf s e) 0 2 ≠ 1) || (jWiring e = 1 && n = 0), .lenRange),
    (s.lk.joined && jPattern e ≠ s.lk.pattern && (List.range 8).any (fun k => !(s.md.slots.get k).gens.isEmpty), .busy),
    ((liveMembers s).any (fun i => i ≠ selfModule s && (s.lk.members.get i).pattern ≠ jPattern e), .busy),
    (n ≠ 0 && r.isSome, r.getD .addrRange)]

/-- One link evaluated again under R449 after a new policy. -/
def recheckLink (s : State) (n : Nat) : State :=
  let l := s.lk.links.get n
  match l.peer with
  | none => s
  | some p =>
    if l.st = 4 then admitLink s n p
    else if l.st = 3 then
      match holdCause s n p with
      | 0 => s
      | c => setLinkState (updLink (leavePort s n) n fun l => { l with hold := c }) n 4
    else s

/-- The timing root is the module of group 0 and CASC_ID 0 (R408, R453); a module that joins measures its offset anew (R409). -/
def startBeacon (s : State) : State :=
  { s with bcn := { s.bcn with root := s.pins.group = 0 && s.pins.casc = 0, offset := 0, measured := false, aligned := s.pins.group = 0 && s.pins.casc = 0 } }

/-- CASCADE_JOIN takes its policy, evaluates every link again and waits for the light list to settle. -/
def runJoin (j : JobRef) (e : Bytes) (s : State) : State :=
  exclusively j (checkThen (checkJoin s e) j (fun s =>
    let x := if entryLen e = 0 then [] else bytesAt (dataOf s e) 0 112
    let s := setLk (setBody s j (.ctl .join)) fun l => { l with
      joining := true, wiring := jWiring e = 1, pattern := jPattern e, expected := x
      role := if s.pins.standby && !l.switchedIn then l.role else if l.switchedIn then l.role else s.pins.casc.toNat }
    let s := updMember s (selfModule s) fun _ => ownMember s
    (List.range 24).foldl recheckLink (startBeacon s))) s

/-- CASCADE_JOIN (R454). -/
def execCascadeJoin (st : Stream) (s : State) : Ans := startEntry 0x88 st.val runJoin s

/-- The status of a settled join. -/
def joinStatus (s : State) : Status :=
  let held := fun c => (List.range 24).any fun n => (s.lk.links.get n).st = 4 && (s.lk.links.get n).hold = c
  if held 1 then .versionMismatch else if held 2 then .portMiswired else if (portsUp s).isEmpty then .linkDown else .ok

/-- CASCADE_JOIN_SETTLED (R454): the light list has not changed for 100 ms, or 5.00 s have passed. -/
def execCascadeJoinSettled (s : State) : Ans :=
  match s.cp.jobs.find? fun p => match p.2.body with | .ctl .join => true | _ => false with
  | none => .next s
  | some p => .next (finish (setLk s fun l => { l with joining := false, joined := true }) p.1 (joinStatus s) (BitVec.ofNat 64 (portsUp s).length))

end Sys2Proof.Machine
end

