-- ==== Sys2Proof/Machine/PowerIn.lean ====
section
/-!
DEFINITION. The 52 V input, PWR_ALERT#, the root PLL and the sideband pins (R496 to R499, R509, R510, R569 to R572).
-/

namespace Sys2Proof.Machine

/-! ### PWR_ALERT# (R498) -/

/-- What the module does on PWR_ALERT#: every allowance falls to 120 tokens, loans are recalled, ALERT is set, source 700 fires. -/
def alertOn (s : State) : State :=
  let s := freeLenders (recallAll s)
  let s := setPw s fun p => { p with toks := (upDies s).foldl (fun t d => Tbl.upd t d fun x => { x with held := min x.held 120 }) p.toks
                                     suspended := true, alert := true }
  fire (rePool s) 700

/-- PWR_ALERT_ASSERT (R498). -/
def execPwrAlertAssert (s : State) : Ans :=
  if !powered s then .next (setPins s fun p => { p with alert := true })
  else if s.pins.alert then .next s
  else .next (alertOn (setPins s fun p => { p with alert := true }))

/-- PWR_ALERT_DEASSERT (R498), with the input at 46 V or more. -/
def execPwrAlertDeassert (s : State) : Ans :=
  if !powered s then .next (setPins s fun p => { p with alert := false })
  else if !s.pins.alert then .next s
  else .next (fire (setPw (setPins s fun p => { p with alert := false }) fun p => { p with alert := false }) 700)

/-- GRANT_RESUME (R498): enabled 10.0 ms after PWR_ALERT# deasserted. -/
def execGrantResume (s : State) : Ans := if s.pins.alert then .next s else .next (setPw s fun p => { p with suspended := false })

/-! ### The input (R496, R497) -/

/-- INPUT_LOW (R496): 42 V to below 46 V for 100 µs acts as PWR_ALERT# with the input below 46 V. -/
def execInputLow (s : State) : Ans := if powered s then .next (fatal (alertOn s) 3) else .next s

/-- INPUT_BELOW_46V (R498): enabled while PWR_ALERT# is asserted. -/
def execInputBelow46V (s : State) : Ans := if powered s && s.pins.alert then .next (fatal s 3) else .next s

/-- INPUT_HIGH (R496, R516): INPUT_WARN is set and source 698 fires. -/
def execInputHigh (s : State) : Ans := if powered s then .next (fire (setPw s fun p => { p with inputWarn := true }) 698) else .next s

/-- The hot-swap switch opens: the module is unpowered, and no message leaves it. -/
def switchOpen (s : State) : State := offState s

/-- INPUT_UNDERVOLTAGE (R496). -/
def execInputUndervoltage (s : State) : Ans := if powered s then .next (switchOpen s) else .next s

/-- INPUT_OVERVOLTAGE (R496). -/
def execInputOvervoltage (s : State) : Ans := if powered s then .next (switchOpen s) else .next s

/-- OVERCURRENT (R497): a hot-swap controller fault. -/
def execOvercurrent (s : State) : Ans := if powered s then .next (fatal s 6) else .next s

/-- THERMAL_TRIP (R509): a junction at 105 degrees or above. -/
def execThermalTrip (d : Die) (tj : BitVec 8) (s : State) : Ans :=
  if powered s && dieUp s d.val && decide (105 ≤ tj.toNat) then .next (fatal (thermLim (setTj s d.val tj)) 4) else .next s

/-! ### Power-on and power-off (R569, R571) -/

/-- The boot epoch after a power-on (R512). -/
def nextEpoch (e : W32) : W32 := if e = 0xFFFFFFFF then e else e + 1

/-- The module as its stages 1 and 2 leave it: everything at its Reset value but for flash, fuses and what lies outside the module; PERST#
is asserted. -/
def powerUp (t : SelfTest) (s : State) : State :=
  let off := offState s
  { off with
    pw := { lock := true, alert := s.pins.alert, suspended := s.pins.alert }
    dies := (List.range 8).foldl (fun m d => Tbl.set m d (coldDie off.flt d (off.dies.get d))) []
    boot := { off.boot with bootEpoch := nextEpoch s.boot.bootEpoch, selfTest := t, stage := 2 }
    glb := { rcLevel := 4, rcSource := 0, rcFatal := 0, reset := some ⟨4, 0, 0⟩ }
    pins := { off.pins with hotSwap := true, pwrgd := true, pwrEn := true, perst := true, perstSeen := false, alert := s.pins.alert, needPwrEn := false } }

/-- POWER_ON (R569): PWR_EN asserts; after a power-down only once it has been deasserted (R499, R571). -/
def execPowerOn (t : SelfTest) (s : State) : Ans :=
  if powered s || (s.pins.pwrEn && s.pins.needPwrEn) then .next s else .next (romStage (powerUp t s))

/-- PWR_EN_DEASSERT (R571): as on PWR_ALERT#, with the fog message of a module that is not detached, then the power-down. -/
def execPwrEnDeassert (s : State) : Ans :=
  if !powered s then .next (setPins s fun p => { p with pwrEn := false, needPwrEn := false })
  else
    let s := alertOn (setPins s fun p => { p with pwrEn := false })
    .next (powerDown (if s.lk.twin = .detached then s else fogOut s 3))

/-! ### The root PLL (R510) -/

/-- PLL_LOCK_LOSS: the module holds itself in cold reset; no fog message is sent. -/
def execPllLockLoss (s : State) : Ans :=
  if !powered s || s.pins.pllHold then .next s
  else .next (resetLevel4 (setPw (setPins s fun p => { p with pllHold := true }) fun p => { p with lock := false }) 6 0 false)

/-- PLL_RELOCK: start-up runs. -/
def execPllRelock (s : State) : Ans :=
  if !powered s || !s.pins.pllHold then .next s
  else .next (romStage (setPw (setPins s fun p => { p with pllHold := false }) fun p => { p with lock := true }))

/-! ### PERST# (R570, R572) -/

/-- PERST_ASSERT for more than 10 µs: a level-4 reset once PERST# has been deasserted since power-on; none during the hold-up of
PWR_ALERT#, nor beside a cold reset in progress (R552). -/
def execPerstAssert (s : State) : Ans :=
  let t := setPins s fun p => { p with perst := true }
  if !powered s || s.pins.perst || !s.pins.perstSeen || s.pins.alert || resetRefused s 4 then .next t else .next (resetLevel4 t 1 0 true)

/-- PERST_DEASSERT: the endpoint leaves reset. -/
def execPerstDeassert (s : State) : Ans := .next (setPins s fun p => { p with perst := false, perstSeen := p.perstSeen || p.hotSwap })

end Sys2Proof.Machine
end

