-- ==== Sys2Proof/Machine/Boot.lean ====
section
/-!
DEFINITION. Recovery over PCIe and over the management port (R526 to R528), publisher keys (R532), the debug lock (R536) and the
recovery and security registers (R537).
-/

namespace Sys2Proof.Machine

/-! ### The image region in flash (R518, R527) -/

/-- Bytes written at an offset of the image region; what lies between its end and them is erased. -/
def overlay (m : Bytes) (off : Nat) (d : Bytes) : Bytes :=
  let m := m ++ List.replicate (off - m.length) 0xFF
  m.take off ++ d ++ m.drop (off + d.length)

/-- The image region with the 64 KiB erase sector of a page erased, unless a page of it has been programmed since. -/
def eraseSector (b : Boot) (page : Nat) : Bytes :=
  let m := imageBytes b.image
  if b.pages.any fun p => p.1 / 16 = page / 16 then m else overlay m (page / 16 * 65536) (List.replicate 65536 0xFF)

/-- A page programmed: the first one since recovery was entered erases the commit sector, and its source owns recovery. -/
def writePage (b : Boot) (page : Nat) (owner : RecOwner) (data : Bytes) : Boot :=
  { b with
    image := overlay (eraseSector b page) (4096 * page) (bytesAt data 0 4096)
    committed := false
    pages := b.pages ++ [(page, bytesAt data 0 4096)]
    recOwner := owner
    recErr := 0 }

/-- The error of a PROGRAM, 0 for none (REC_STATUS.ERR). -/
def programErr (s : State) (page : Nat) (owner : RecOwner) : Nat :=
  if !flashOpen s then 2
  else if s.boot.recOwner ≠ .none ∧ s.boot.recOwner ≠ owner then 4
  else if 15360 ≤ page ∨ s.boot.pages.any (fun p => p.1 = page) then 1
  else 0

/-- PROGRAM's effect at its end. -/
def programPage (s : State) (page : Nat) (owner : RecOwner) (data : Bytes) : State :=
  match programErr s page owner with
  | 0 => setBoot s fun b => writePage b page owner data
  | e => setBoot s fun b => { b with recErr := e }

/-- The programmed pages forgotten: pages then write from a fresh erase, and no source owns recovery. -/
def forgetPages (s : State) (err : Nat) : State :=
  setBoot s fun b => { b with pages := [], recOwner := .none, recErr := err, tftpOn := false, tftp := [], tftpPage := 0 }

/-- The image cut at its own length. -/
def cutImage (m : Bytes) : Bytes := if m.isEmpty then m else m.take (imgLen m)

/-- FINISH's effect at its end: an image that passes R523 checks 2 to 6 is committed, the boot-fault count is cleared and a cold
start follows. -/
def finishImage (s : State) : State :=
  if !flashOpen s then setBoot s fun b => { b with recErr := 2 }
  else if !imageOk s s.boot.image then forgetPages s 3
  else
    let s := setBoot (forgetPages s 0) fun b => { b with image := cutImage b.image, committed := true }
    resetLevel4 (setFlt s fun f => { f with bootFaults := 0 }) 0 0 false

/-! ### REC_CTRL (R527, R537) -/

/-- A write of REC_CTRL: ignored outside recovery and while BUSY is 1. -/
def recWrite (op : RecOp) (s : State) : Ans :=
  gate (barOn s && s.boot.recovery && s.boot.recOp.isNone) s (.next (setBoot s fun b => { b with recOp := some op }))

/-- PROGRAM (R527): the page stands in REC_DATA. -/
def execProgram (page : BitVec 14) (s : State) : Ans := recWrite (.program page.toNat false (Mem.readN s.boot.recData 0 4096)) s

/-- FINISH (R527). -/
def execFinish (s : State) : Ans := recWrite .finish s

/-- RECOVERY_ABORT (R527). -/
def execRecoveryAbort (s : State) : Ans := recWrite .abort s

/-- A recovery operation applied. -/
def applyRec (s : State) : RecOp → State
  | .program page mgmt data => programPage s page (if mgmt then .mgmt else .pcie) data
  | .finish => finishImage s
  | .abort => forgetPages s 0

/-- REC_OPERATION_DONE (R527): BUSY clears. -/
def execRecOperationDone (s : State) : Ans :=
  match s.boot.recOp with
  | none => .next s
  | some op => .next (applyRec (setBoot s fun b => { b with recOp := none }) op)

/-! ### The management port in recovery (R528) -/

/-- Kinds of what the management port sends: an ARP reply, an ICMP echo reply, a UDP datagram, a TFTP error and a TFTP acknowledgement. -/
def mgmtArp : Nat := 0
def mgmtEcho : Nat := 1
def mgmtUdp : Nat := 2
def mgmtTftpErr : Nat := 3
def mgmtTftpAck : Nat := 4

/-- Whether the module is in service, or has stopped all but control commands. -/
def inService (s : State) : Bool := powered s && !s.boot.recovery && (s.glb.state = 1 || s.glb.state = 3)

/-- Whether the management port runs: in recovery and in service (R575). -/
def mgmtUp (s : State) : Bool := inService s || (powered s && s.boot.recovery)

/-- Whether the management port answers: it runs and has an IPv4 address. -/
def mgmtOn (s : State) : Bool := mgmtUp s && s.pins.ip ≠ 0

/-- DHCP_LEASE (R528, R575). -/
def execDhcpLease (addr : W32) (s : State) : Ans := if mgmtUp s then .next (setPins s fun p => { p with ip := addr }) else .next s

/-- DHCP_LEASE_TIMEOUT (R528): without a lease the port takes a link-local address. -/
def execDhcpLeaseTimeout (s : State) : Ans :=
  if mgmtUp s && s.pins.ip = 0 then .next (setPins s fun p => { p with ip := Config.linkLocal }) else .next s

/-- The file name "rosha". -/
def roshaName : Bytes := [0x72, 0x6F, 0x73, 0x68, 0x61]

/-- A TFTP error leaves the management port. -/
def tftpError (s : State) (code : Nat) : State := emit s (.mgmt mgmtTftpErr (beBytes 2 code))

/-- TFTP_WRITE_REQUEST (R528): accepted for "rosha" with blocks of up to 1,428 bytes, refused while PCIe owns recovery. -/
def execTftpWriteRequest (name : Bytes) (blksize : Nat) (s : State) : Ans :=
  if !mgmtOn s || !s.boot.recovery then .next s
  else if s.boot.recOwner = .pcie then .next (tftpError s 2)
  else if name ≠ roshaName then .next (tftpError s 1)
  else
    let s := setBoot s fun b => { b with tftpOn := true, tftp := [], tftpPage := 0 }
    .next (emit s (.mgmt mgmtTftpAck (beBytes 2 (min blksize 1428))))

/-- The full pages among the received bytes programmed in order. -/
def programFull (s : State) (ps : List Bytes) : State :=
  ps.foldl (fun s d =>
    if d.length = 4096 then setBoot (programPage s s.boot.tftpPage .mgmt d) fun b => { b with tftpPage := b.tftpPage + 1 }
    else setBoot s fun b => { b with tftp := d }) (setBoot s fun b => { b with tftp := [] })

/-- Received bytes padded to whole pages with erased bytes. -/
def padPage (b : Bytes) : Bytes := b ++ List.replicate ((4096 - b.length % 4096) % 4096) 0xFF

/-- TFTP_DATA (R528): the bytes are programmed as pages, and the end of the transfer acts as FINISH. -/
def execTftpData (data : Bytes) (last : Bool) (s : State) : Ans :=
  if !mgmtOn s || !s.boot.recovery || !s.boot.tftpOn then .next s
  else if s.boot.recOwner = .pcie then .next (tftpError (setBoot s fun b => { b with tftpOn := false, tftp := [] }) 2)
  else
    let all := s.boot.tftp ++ data
    let s := emit s (.mgmt mgmtTftpAck [])
    if last then .next (finishImage (programFull s (pieces 4096 (padPage all)))) else .next (programFull s (pieces 4096 all))

/-! ### SEC_CTRL (R532, R536, R537) -/

/-- A write of SEC_CTRL: ignored while BUSY is 1. -/
def secWrite (s : State) (a : Ans) : Ans := gate (barOn s && s.boot.secOp.isNone) s a

/-- A security operation that ends at SEC_OPERATION_DONE. -/
def startSec (s : State) (op : SecOp) : Ans := .next (setBoot s fun b => { b with secOp := some op })

/-- The staged publisher key: its Ed25519 and its ML-DSA-65 key. -/
def stagedKey (s : State) : Bytes := Mem.readN s.boot.secStage 0 1984

/-- Whether a KEY_ID is enrolled at some index. -/
def enrolled (s : State) (id : Bytes) : Bool := (List.range 16).any fun i => !(s.boot.keys.get i).isEmpty && sha256 (s.boot.keys.get i) = id

/-- The RES code of ENROL's checks, if one fails. -/
def enrolCheck (s : State) (i : Nat) (key : Bytes) : Option Nat :=
  firstFail [(s.boot.keysLock, 2), (!(s.boot.keys.get i).isEmpty, 1), (enrolled s (sha256 key), 3),
    (!(Config.edKeyDecodes (bytesAt key 0 32) && Config.mlKeyDecodes (bytesAt key 32 1952)), 4), (!flashOpen s, 8)]

/-- The RES code of REVOKE's checks, if one fails. -/
def revokeCheck (s : State) (i : Nat) : Option Nat :=
  firstFail [(s.boot.keysLock, 2), ((s.boot.keys.get i).isEmpty, 1), (!flashOpen s, 8)]

/-- ENROL (R532). -/
def execEnrol (index : Fin 16) (s : State) : Ans := secWrite s <|
  match enrolCheck s index.val (stagedKey s) with
  | some r => startSec s (.result r)
  | none => startSec s (.enrol index.val (stagedKey s))

/-- REVOKE (R532). -/
def execRevoke (index : Fin 16) (s : State) : Ans := secWrite s <|
  match revokeCheck s index.val with
  | some r => startSec s (.result r)
  | none => startSec s (.revoke index.val)

/-- A security operation applied: the configuration record is written commit last, unless PWR_ALERT# is asserted by then. -/
def applySec (s : State) : SecOp → State
  | .result r => setBoot s fun b => { b with secRes := r }
  | .enrol i key => setBoot s fun b => if flashOpen s then { b with keys := b.keys.set i key, secRes := 0 } else { b with secRes := 8 }
  | .revoke i => setBoot s fun b => if flashOpen s then { b with keys := b.keys.set i [], secRes := 0 } else { b with secRes := 8 }

/-- SEC_OPERATION_DONE (R532): RES is written and BUSY clears. -/
def execSecOperationDone (s : State) : Ans :=
  match s.boot.secOp with
  | none => .next s
  | some op => .next (applySec (setBoot s fun b => { b with secOp := none }) op)

/-- KEYS_LOCK (R537). -/
def execKeysLock (s : State) : Ans := secWrite s (.next (setBoot s fun b => { b with keysLock := true, secRes := 0 }))

/-- CHALLENGE (R536): 32 fresh bytes, in place of any older challenge. -/
def execChallenge (s : State) : Ans :=
  secWrite s (.next (setBoot s fun b => { b with chal := bytesAt (Config.challenge b.chalCount) 0 32, chalCount := b.chalCount + 1, secRes := 0 }))

/-- What a debug key pair signs. -/
def debugMessage (s : State) : Bytes := s.boot.chal ++ ownSerial ++ leBytes 4 s.boot.bootEpoch.toNat

/-- Whether the staged debug keys and signatures pass (R536); they stand in the layout of the image trailer. -/
def debugSigned (s : State) : Bool :=
  let t := Mem.readN s.boot.secStage 0 5360
  sha256 (bytesAt t 0 1984) = Config.debugKeyHash && Config.ed25519Verifies (bytesAt t 0 32) (debugMessage s) (bytesAt t 1984 64) &&
    Config.mldsaVerifies (bytesAt t 32 1952) (debugMessage s) (bytesAt t 2048 3309)

/-- The RES code of DEBUG_UNLOCK. -/
def unlockResult (s : State) : Nat :=
  (firstFail [(Config.debugDisable, 6), (s.boot.chal.isEmpty, 7), (!debugSigned s, 5)]).getD 0

/-- DEBUG_UNLOCK (R536): the challenge serves one attempt. -/
def execDebugUnlock (s : State) : Ans :=
  secWrite s (.next (setBoot s fun b => { b with chal := [], secRes := unlockResult s, debugOpen := b.debugOpen || unlockResult s = 0 }))

/-- DEBUG_LOCK (R536, R563): DBG_DATA and DBG_POIS are cleared. -/
def execDebugLock (s : State) : Ans :=
  secWrite s (.next (setGlb (setBoot s fun b => { b with debugOpen := false, secRes := 0 }) fun g => { g with dbgData := [], dbgPois := 0 }))

end Sys2Proof.Machine
end

