-- ==== Sys2Proof/Machine/Mgmt.lean ====
section
/-!
DEFINITION. The power state of the PCI Express function (R544, R572), and the telemetry of the management port and of the I3C target
(R575, R576).
-/

namespace Sys2Proof.Machine

/-! ### D0 and D3hot (R544, R572) -/

/-- Whether some enabled host event queue is not empty. -/
def evqWaiting (s : State) : Bool := s.evr.hostqs.any fun p => p.2.en && evqCount p.2 ≠ 0

/-- POWER_STATE_CHANGE (R544): WAKE# is asserted in D3hot while an enabled host event queue is not empty, and released in D0. -/
def execPowerStateChange (d3 : Bool) (s : State) : Ans :=
  gate (powered s && !s.pins.perst) s (.next (setPins s fun p => { p with d3 := d3, wake := d3 && (p.wake || evqWaiting s) }))

/-! ### The telemetry index (R576) -/

/-- The 104 bytes of the telemetry index. -/
def telemetryIndex (s : State) : Bytes :=
  leBytes 8 (glbStatus s) ++ leBytes 8 (pwrInput s) ++ leBytes 8 (therm s) ++ leBytes 8 (pwrStatus s) ++ leBytes 4 s.boot.bootEpoch.toNat ++
    leBytes 4 (resetCause s) ++ (List.range 8).flatMap fun d => leBytes 8 (dieStatus s d)

/-- `n` bytes of the index from `i` on; bytes beyond 0x67 are zero. -/
def telemetryAt (s : State) (i n : Nat) : Bytes := bytesAt (telemetryIndex s) i n

/-! ### The management port (R575) -/

/-- UDP_TELEMETRY_REQUEST (R575): a 1-byte datagram is answered with the bytes from its index through 0x67; every other one is discarded. -/
def execUdpTelemetryRequest (datagram : Bytes) (s : State) : Ans :=
  match datagram with
  | [i] => if mgmtOn s && inService s then .next (emit s (.mgmt mgmtUdp ((telemetryIndex s).drop i.toNat))) else .next s
  | _ => .next s

/-- ARP_REQUEST (R575): answered with the fused MAC address. -/
def execArpRequest (s : State) : Ans := if mgmtOn s && inService s then .next (emit s (.mgmt mgmtArp (bytesAt Config.mac 0 6))) else .next s

/-- ICMP_ECHO_REQUEST (R575): answered with its data. -/
def execIcmpEchoRequest (data : Bytes) (s : State) : Ans := if mgmtOn s && inService s then .next (emit s (.mgmt mgmtEcho data)) else .next s

/-! ### The I3C target (R576) -/

/-- Whether the target answers on a bus: PWRGD is released and the bus has given it an address. -/
def i3cOn (s : State) (bus : Nat) : Bool := s.pins.pwrgd && s.pins.i3cAddr.get bus ≠ 0

/-- I3C_ADDRESS_ASSIGNMENT (R576): by SETDASA or ENTDAA. -/
def execI3cAddressAssignment (bus : Fin 2) (addr : BitVec 7) (s : State) : Ans :=
  gate s.pins.pwrgd s (.next (setPins s fun p => { p with i3cAddr := p.i3cAddr.set bus.val addr }))

/-- I3C_PRIVATE_WRITE (R576): one byte sets the index, any other write is ignored. -/
def execI3cPrivateWrite (bus : Fin 2) (data : Bytes) (s : State) : Ans :=
  match data with
  | [i] => gate (i3cOn s bus.val) s (.next (setPins s fun p => { p with i3cIndex := i.toNat }))
  | _ => .next s

/-- I3C_PRIVATE_READ (R576). -/
def execI3cPrivateRead (bus : Fin 2) (len : Nat) (s : State) : Ans :=
  gate (i3cOn s bus.val) s (.next (emit s (.i3c bus.val (telemetryAt s s.pins.i3cIndex len))))

end Sys2Proof.Machine
end

