-- ==== Sys2Proof/Machine/Aperture.lean ====
section
/-!
DEFINITION. The BAR4 aperture (R560 to R562), refused BAR0 accesses (R545), the counts of the global block (R551) and the debug block
(R563, R564).
-/

namespace Sys2Proof.Machine

/-! ### Segments (R560, R562) -/

/-- The named bits of AP_SEGs. -/
def apSegMask : W64 := 0xE007FFFFFFFFFFFF

/-- Z: the bytes of one segment. -/
def segSize (s : State) : Nat := 2 ^ s.glb.bar4Log2 / 64

/-- The checks of R560 on a valid segment. -/
def segOk (s : State) (v : W64) : Bool :=
  let o := rfld v 47 0
  let e := o + segSize s
  dieUp s (rfld v 50 48) && o % segSize s = 0 && (decide (e ≤ 0x17C0000000) || (decide (swsBase ≤ o) && decide (e ≤ swsBase + 0x100000000)))

/-- AP_SEG_WRITE (R560): a valid segment that fails a check reads VALID = 0, and AP_ERR is set. -/
def execApSegWrite (seg : Fin 64) (v : W64) (s : State) : Ans :=
  let w := v &&& apSegMask
  gate (barOn s) s <|
    if rbit w 63 && !segOk s w then
      .next (setGlb s fun g => { g with apErr := true, apSegs := g.apSegs.set seg.val (w &&& 0x7FFFFFFFFFFFFFFF) })
    else .next (setGlb s fun g => { g with apSegs := g.apSegs.set seg.val w })

/-- BAR4_RESIZE (R562): 1 GiB to 64 GiB; a change of size clears VALID in every segment. -/
def execBar4Resize (log2 : Fin 64) (s : State) : Ans :=
  if !powered s || s.pins.perst || log2.val < 30 || 36 < log2.val || log2.val = s.glb.bar4Log2 then .next s
  else .next (setGlb s fun g => { g with bar4Log2 := log2.val, apSegs := g.apSegs.mapAll fun _ v => v &&& 0x7FFFFFFFFFFFFFFF })

/-! ### Accesses (R545, R561) -/

/-- A refused access is counted, and ACC_ERR is set. -/
def accRefused (s : State) : State := setGlb s fun g => { g with accBad := satInc g.accBad 1, accErr := true }

/-- The parts of an access that fall in single segments: segment, offset in it, bytes. -/
def segParts (s : State) (off len : Nat) : List (Nat × Nat × Nat) :=
  let z := segSize s
  if len = 0 then []
  else
    ((List.range ((off + len - 1) / z - off / z + 1)).map fun i =>
      let g := off / z + i
      let lo := max off (g * z)
      (g, lo - g * z, min (off + len) ((g + 1) * z) - lo)).filter fun p => decide (p.1 < 64)

/-- The key of module memory that an access of a segment reaches, if its segment admits it (R561). -/
def segKey (s : State) (seg off : Nat) (write : Bool) : Option Nat :=
  let v := s.glb.apSegs.get seg
  if rbit v 63 && (if write then rbit v 62 else rbit v 61) && dieUp s (rfld v 50 48) then some (dieKey (rfld v 50 48) (rfld v 47 0 + off)) else none

/-- A POISON record for each poisoned block of a read. -/
def readPoison (s : State) (k n : Nat) : State :=
  ((List.range ((k + n - 1) / 64 - k / 64 + 1)).map (k / 64 + ·)).foldl (fun s b =>
    if markAt s b then flog s { status := .poisoned, kind := 4, addr := globalWord s (64 * b / 2 ^ 48) (64 * b % 2 ^ 48) } else s) s

/-- The data of an aperture access on its way over the arcs between its die and the entry die of its host-data path (R20). -/
def apertureCross (s : State) (k n : Nat) (write : Bool) : State :=
  let d := k / 2 ^ 48
  if write then crossArcs s (entryDie s d) d n else crossArcs s d (entryDie s d) n

/-- The key that one part of an access reaches: its segment admits it, and no frame of it lies in a retired pseudo-channel (R260). -/
def partKey (s : State) (p : Nat × Nat × Nat) (write : Bool) : Option Nat :=
  (segKey s p.1 p.2.1 write).filter fun k => !(decide (k % 2 ^ 48 < 0x1800000000) && pcGone s (k / 2 ^ 48) (k % 2 ^ 48) p.2.2)

/-- One part of a BAR4 read: the state after it and the bytes read so far. -/
def readPart (a : State × Bytes) (p : Nat × Nat × Nat) : State × Bytes :=
  match partKey a.1 p false with
  | none => (accRefused a.1, a.2 ++ List.replicate p.2.2 0)
  | some k =>
    let s := eccAt a.1 k p.2.2
    (apertureCross (readPoison s k p.2.2) k p.2.2 false, a.2 ++ plain (loadMod s k p.2.2))

/-- BAR4_READ (R561). -/
def execBar4Read (off len : Nat) (s : State) : Ans :=
  gate (barOn s) s <|
    let a := (segParts s off len).foldl readPart (s, [])
    .next (emit a.1 (.pcieRead a.2))

/-- One part of a BAR4 write. -/
def writePart (a : State × Bytes) (p : Nat × Nat × Nat) : State × Bytes :=
  match partKey a.1 p true with
  | none => (accRefused a.1, a.2.drop p.2.2)
  | some k => (apertureCross (storeClean a.1 k (a.2.take p.2.2)) k p.2.2 true, a.2.drop p.2.2)

/-- BAR4_WRITE (R561). -/
def execBar4Write (off : Nat) (data : Bytes) (s : State) : Ans :=
  gate (barOn s) s (.next ((segParts s off data.length).foldl writePart (s, data)).1)

/-- Whether BAR0 serves an access: 32 or 64 bits, aligned to its width (R545). -/
def properAccess (off width : Nat) : Bool := (width = 4 || width = 8) && off % width = 0

/-- BAR0_IMPROPER_ACCESS (R545): a read returns zero, a write is ignored. -/
def execBar0ImproperAccess (write : Bool) (off width : Nat) (s : State) : Ans :=
  if !barOn s || properAccess off width then .next s
  else .next (if write then accRefused s else emit (accRefused s) (.pcieRead (List.replicate width 0)))

/-- GLB_COUNTS.CNT_CLR (R551). -/
def execGlbCountsCntClr (s : State) : Ans := gate (barOn s) s (.next (setGlb s fun g => { g with collCnt := 0, accBad := 0, rstIgn := 0 }))

/-! ### The debug block (R563, R564) -/

/-- Whether a debug fetch reaches a die: in service, or quarantined with its frozen contents. -/
def debugReach (s : State) (a : W64) : Bool :=
  let d := chipF a % 8
  (dieUp s d || (s.dies.get d).st = .quarantined) && regionOf (s.dies.get d).stageWays (offF a) ≠ .none

/-- DBG_STATUS.ERR of a write of DBG_ADDR. -/
def debugCheck (s : State) (a : W64) : Nat :=
  (firstFail [(s.glb.dbgBusy, 3), (spaceOf a ≠ 0 || !isLocal s a || offF a % 4096 ≠ 0, 1), (!debugReach s a, 2)]).getD 0

/-- DEBUG_FETCH (R564): a write of DBG_ADDR. -/
def execDebugFetch (a : W64) (s : State) : Ans :=
  gate (barOn s && s.boot.debugOpen) s <|
    match debugCheck s a with
    | 0 => .next (setGlb s fun g => { g with dbgAddr := a, dbgFrom := a, dbgBusy := true, dbgErr := 0 })
    | e => .next (setGlb s fun g => { g with dbgAddr := a, dbgErr := e })

/-- Whether the running fetch waits for a scrub of the tile whose scratchpad it reads. -/
def debugWaits (s : State) : Bool :=
  match lineOfKey (keyOf s.glb.dbgFrom) with | some (t, _) => (s.tiles.get t).scrubBusy | none => false

/-- DEBUG_FETCH_DONE (R564): bytes as stored and poison marks by block; a fetch that ends with debug locked leaves both clear. -/
def execDebugFetchDone (s : State) : Ans :=
  if !s.glb.dbgBusy || debugWaits s then .next s
  else if !s.boot.debugOpen then .next (setGlb s fun g => { g with dbgBusy := false })
  else
    let k := keyOf s.glb.dbgFrom
    .next (setGlb s fun g => { g with
      dbgBusy := false
      dbgData := plain (loadMod s k 4096)
      dbgPois := BitVec.ofNat 64 (bitsOf 64 fun j => markAt s (k / 64 + j)) })

end Sys2Proof.Machine
end

