-- ==== Sys2Proof/Machine/Registers.lean ====
section
/-!
DEFINITION. A host write of BAR0: which register its offset and halves reach, and what the access codes do there (R10 to R13, R545,
R546, R548, and the field maps that View reads). A register with a command of its own acts as that command.
-/

namespace Sys2Proof.Machine

/-! ### The written halves (R10, R546) -/

/-- A write of one or both halves of an 8-byte slot: what it carries for each bit, and the W1C bits that hardware sets in that cycle. -/
structure RegWr where
  lo : Bool
  hi : Bool
  v : W64
  hw : W64
  deriving DecidableEq, Repr

/-- The bits of the slot that a write reaches. -/
def regMask (w : RegWr) : W64 := (if w.lo then 0xFFFFFFFF else 0) ||| (if w.hi then 0xFFFFFFFF00000000 else 0)

/-- The value of a 64-bit RW register after a write of one or both halves. -/
def regMerge (old : W64) (w : RegWr) : W64 := (old &&& ~~~(regMask w)) ||| (w.v &&& regMask w)

/-- A write as it reaches its slot: the bits of an unwritten half are zero, so that its W1C and WO fields do not act. -/
def regWr (off : Nat) (wide : Bool) (v hw : W64) : RegWr :=
  let hi := !wide && off % 8 = 4
  let sh := fun (x : W64) => if wide then x else if hi then BitVec.ofNat 64 (x.toNat % 2 ^ 32 * 2 ^ 32) else BitVec.ofNat 64 (x.toNat % 2 ^ 32)
  { lo := wide || !hi, hi := wide || hi, v := sh v, hw := sh hw }

/-- The lower and the upper 32 bits that a write carries. -/
def wLo (w : RegWr) : W32 := BitVec.ofNat 32 (rfld w.v 31 0)
def wHi (w : RegWr) : W32 := BitVec.ofNat 32 (rfld w.v 63 32)
def hwLo (w : RegWr) : W32 := BitVec.ofNat 32 (rfld w.hw 31 0)
def hwHi (w : RegWr) : W32 := BitVec.ofNat 32 (rfld w.hw 63 32)

/-- A W1C flag at bit `n` after the write (R11, R13). -/
def flagAfter (old : Bool) (w : RegWr) (n : Nat) : Bool := w1c old (rbit w.v n) (rbit w.hw n)

/-- The collisions of the W1C bits at the listed places. -/
def collAt (w : RegWr) (ns : List Nat) : Nat := collisions (ns.map fun n => (rbit w.v n, rbit w.hw n))

/-- One write, then another: the lower half of a 64-bit access acts first (R546). -/
def andThen (a : Ans) (f : State → Ans) : Ans :=
  match a with
  | .next s => f s
  | x => x

/-- A write of two 32-bit registers in one slot. -/
def twoHalves (w : RegWr) (lo hi : State → Ans) (s : State) : Ans :=
  andThen (if w.lo then lo s else .next s) fun s => if w.hi then hi s else .next s

/-- An action that a WO bit names. -/
def onBit (w : RegWr) (n : Nat) (s : State) (a : Ans) : Ans := if rbit w.v n then a else .next s

/-- Stored bytes after a write of one or both halves of the slot at `o`. -/
def bytesWr (b : Bytes) (o : Nat) (w : RegWr) : Bytes :=
  let b := if w.lo then patch b o (leBytes 4 (wLo w).toNat) else b
  if w.hi then patch b (o + 4) (leBytes 4 (wHi w).toNat) else b

/-- A byte buffer after a write of one or both halves of the slot at `o`. -/
def memWr (m : Mem) (o : Nat) (w : RegWr) : Mem :=
  let m := if w.lo then Mem.writeN m o (leBytes 4 (wLo w).toNat) else m
  if w.hi then Mem.writeN m (o + 4) (leBytes 4 (wHi w).toNat) else m

/-! ### Engine blocks (R330) -/

/-- A unit fault register once its FAULT bit is cleared. -/
def unitCleared (f : UnitFault) (flag : Bool) : UnitFault := if flag then f else { f with valid := false }

/-- DMA_STATUS: clearing a FAULT bit clears VALID of its DMA_FAULTch. -/
def writeDmaStatus (s : State) (e : Nat) (w : RegWr) : State :=
  let s := (List.range 4).foldl (fun s ch => updChan s e ch fun c =>
    let f := flagAfter c.fault w (20 + ch)
    { c with fault := f, fr := unitCleared c.fr f }) s
  updEngine s e fun g => { g with collCnt := satInc g.collCnt (collAt w [20, 21, 22, 23]) }

/-- A slot of a descriptor ring. -/
def writeRing (s : State) (e ch o : Nat) (w : RegWr) : State :=
  updChan s e ch fun c => { c with ring := c.ring.upd (o / 64) fun b => bytesWr (bytesAt b 0 64) (o % 64) w }

/-- A write in the block of an engine. -/
def writeEngine (e : EngineNo) (o : Nat) (w : RegWr) (s : State) : Ans :=
  gate (engineBlockOn s e.val) s <|
    if o = 0x00 then .next (writeDmaStatus s e.val w)
    else if o = 0x08 then onBit w 32 s (execDmaCountsCntClr e s)
    else if 0x10 ≤ o ∧ o < 0x30 then
      let ch : Chan := Fin.ofNat 4 ((o - 0x10) / 8)
      twoHalves w (execDmaChannelTail e ch (BitVec.ofNat 6 (rfld w.v 21 16))) (execDmaChannelEnable e ch (rbit w.v 40)) s
    else if 0x2000 ≤ o then .next (writeRing s e.val ((o - 0x2000) / 0x800) ((o - 0x2000) % 0x800) w)
    else .next s

/-! ### The global block (R550, R551, R554, R560, R393, R537) -/

/-- GLB_STATUS. -/
def writeGlbStatus (s : State) (w : RegWr) : State :=
  setGlb s fun g => { g with apErr := flagAfter g.apErr w 1, accErr := flagAfter g.accErr w 0, collCnt := satInc g.collCnt (collAt w [0, 1]) }

/-- GLB_RESET (R552). -/
def writeGlbReset (w : RegWr) (s : State) : Ans :=
  if rfld w.v 31 24 ≠ 0x5A then .next (countIgnored s)
  else match rfld w.v 2 0 with
    | 1 => execFunctionLevelReset .glbReset s
    | 2 => execWarmReset .glbReset s
    | 3 => execDieReset (Fin.ofNat 8 (rfld w.v 6 4)) .glbReset s
    | 4 => execColdReset .glbReset s
    | _ => .next (countIgnored s)

/-- The MSI-X table: address, data, and the mask bit of the vector control. -/
def writeMsix (o : Nat) (w : RegWr) (s : State) : Ans :=
  let v := o / 16
  if o % 16 = 0 then .next (setGlb s fun g => { g with msixAddr := g.msixAddr.upd v fun a => regMerge a w })
  else twoHalves w (fun s => .next (setGlb s fun g => { g with msixData := g.msixData.set v (wLo w) }))
    (fun s => if rbit w.v 32 then .next (setGlb s fun g => { g with msixOpen := g.msixOpen.set v false }) else execMsixVectorUnmask (Fin.ofNat 64 v) s) s

/-- REC_CTRL (R537). -/
def writeRecCtrl (w : RegWr) (s : State) : Ans :=
  match rfld w.v 31 30 with
  | 1 => execProgram (BitVec.ofNat 14 (rfld w.v 13 0)) s
  | 2 => execFinish s
  | 3 => execRecoveryAbort s
  | _ => .next s

/-- SEC_CTRL (R537). -/
def writeSecCtrl (w : RegWr) (s : State) : Ans :=
  let i : Fin 16 := Fin.ofNat 16 (rfld w.v 11 8)
  match rfld w.v 2 0 with
  | 1 => execEnrol i s
  | 2 => execRevoke i s
  | 3 => execKeysLock s
  | 4 => execChallenge s
  | 5 => execDebugUnlock s
  | 6 => execDebugLock s
  | _ => .next s

/-- CP_STATUS. -/
def writeCpStatus (s : State) (w : RegWr) : State :=
  { s with cp := { s.cp with capOvf := flagAfter s.cp.capOvf w 17, collCnt := satInc s.cp.collCnt (collAt w [17]) } }

/-- CP_KILL: the streams of the mask, ascending. -/
def writeCpKill (w : RegWr) (s : State) : Ans :=
  (setBits 16 (rfld w.v 15 0)).foldl (fun a st => andThen a (execKill (Fin.ofNat 16 st))) (.next s)

/-- A write in the command processor's registers. -/
def writeCp (o : Nat) (w : RegWr) (s : State) : Ans :=
  if o = 0x00 then .next (writeCpStatus s w)
  else if o = 0x08 then
    twoHalves w (fun s => .next { s with cp := { s.cp with capHead := BitVec.ofNat 16 (rfld w.v 31 16) } }) (fun s => onBit w 32 s (execCpCapCntClr s)) s
  else if o = 0x10 ∧ w.lo then .next { s with cp := { s.cp with wdog := BitVec.ofNat 16 (rfld w.v 15 0) } }
  else if o = 0x18 ∧ w.lo then writeCpKill w s
  else .next s

/-- A write in the global block. -/
def writeGlobal (o : Nat) (w : RegWr) (s : State) : Ans :=
  if o = 0x18 then .next (writeGlbStatus s w)
  else if o = 0x20 ∧ w.lo then writeGlbReset w s
  else if o = 0x30 then onBit w 32 s (execGlbCountsCntClr s)
  else if 0x1000 ≤ o ∧ o < 0x1200 then
    let i := (o - 0x1000) / 8
    execApSegWrite (Fin.ofNat 64 i) (regMerge (s.glb.apSegs.get i) w) s
  else if 0x2000 ≤ o ∧ o < 0x2400 then writeMsix (o - 0x2000) w s
  else if o = 0x4000 ∧ w.lo then writeRecCtrl w s
  else if o = 0x4100 ∧ w.lo then writeSecCtrl w s
  else if 0x5000 ≤ o ∧ o < 0x6000 then .next (setBoot s fun b => { b with recData := memWr b.recData (o - 0x5000) w })
  else if 0x6000 ≤ o ∧ o < 0x8000 then .next (setBoot s fun b => { b with secStage := memWr b.secStage (o - 0x6000) w })
  else if 0x8000 ≤ o ∧ o < 0xC000 then writeEngine (Fin.ofNat 145 144) (o - 0x8000) w s
  else if 0xC000 ≤ o ∧ o < 0xC020 then writeCp (o - 0xC000) w s
  else .next s

/-! ### The host-queue block (R334, R335, R337, R350) -/

/-- HQ_STATUS. -/
def writeHqStatus (s : State) (w : RegWr) : State :=
  setHq s fun h => { h with
    sqErr := flagAfter h.sqErr w 61, cqErr := flagAfter h.cqErr w 60, fetchErr := flagAfter h.fetchErr w 59
    fenceErr := flagAfter h.fenceErr w 58, regionErr := flagAfter h.regionErr w 57
    collCnt := satInc h.collCnt (collAt w [57, 58, 59, 60, 61]) }

/-- Ring bases, sizes and the digest ring, taken only while EN is 0. -/
def writeHqSetup (o : Nat) (w : RegWr) (h : HostQ) : HostQ :=
  if h.en then h
  else if o = 0x10 then { h with sqBase := regMerge h.sqBase w &&& 0xFFFFFFFFFFFFF000 }
  else if o = 0x18 then { h with cqBase := regMerge h.cqBase w &&& 0xFFFFFFFFFFFFF000 }
  else if o = 0x20 ∧ w.lo then { h with cqLog2 := rfld w.v 12 8, sqLog2 := rfld w.v 4 0 }
  else if o = 0x28 then { h with digBase := regMerge h.digBase w &&& 0xFFFFFFFFFFFFF000, dlog := if w.lo then rfld w.v 3 0 else h.dlog }
  else h

/-- A write in the host-queue block. -/
def writeHqBlock (o : Nat) (w : RegWr) (s : State) : Ans :=
  if o = 0x00 ∧ w.lo then (if rbit w.v 0 then execQueueEnable s else execQueueDisable s)
  else if o = 0x08 then .next (writeHqStatus s w)
  else if 0x10 ≤ o ∧ o < 0x30 then .next (setHq s (writeHqSetup o w))
  else if o = 0x30 then onBit w 32 s (execHqCountsCntClr s)
  else if 0x800 ≤ o ∧ o < 0xC00 then
    let r := (o - 0x800) / 16
    if o % 16 = 0 then execHostRegionWrite (Fin.ofNat 64 r) (regMerge (s.hq.regions.get r).a w) s
    else .next (setHq s fun h => { h with regions := h.regions.upd r fun p => { p with b := regMerge p.b w &&& 0xFFFFFFFF } })
  else if 0x1000 ≤ o ∧ o < 0x2000 then
    let f := (o - 0x1000) / 16
    if o % 16 = 0 then (if w.lo then execFenceRegisterWrite (Fin.ofNat 256 f) false w.v s else .next s)
    else execFenceRegisterWrite (Fin.ofNat 256 f) true (regMerge (s.hq.fences.get f).value w) s
  else .next s

/-! ### Event router, power, fault log, audit, beacon (R412, R424, R493, R516) -/

/-- EVR_SRCs. -/
def writeSrc (n : Nat) (v : W32) (s : State) : Ans :=
  .next (updSrc s n fun r => { r with vec := v.extractLsb' 10 6, tmask := v.extractLsb' 5 5, prio := v.extractLsb' 0 4 })

/-- EVR_KCTLk: EN and EOI_ERR, then HEAD as a take. -/
def writeKctl (k : Fin 4) (w : RegWr) (s : State) : Ans :=
  let s := setEvr s fun e => { e with
    keepers := e.keepers.upd k.val fun c => { c with en := rbit w.v 31, eoiErr := flagAfter c.eoiErr w 29 }
    collCnt := satInc e.collCnt (collAt w [29]) }
  execKeeperTake k (BitVec.ofNat 4 (rfld w.v 3 0)) s

/-- EVR_HQv: LOG2 while the queue is disabled, HEAD, the driver's advance, while it is enabled (R417, R425). -/
def writeEvq (v : Nat) (w : RegWr) (s : State) : Ans :=
  let s := if w.lo then setEvr s fun e => { e with hostqs := e.hostqs.upd v fun q => if q.en then q else { q with log2 := rfld w.v 3 0 } } else s
  if w.hi then execHostEventQueueHead (Fin.ofNat 64 v) (BitVec.ofNat 13 (rfld w.v 44 32)) s else .next s

/-- A write in the event router's block. -/
def writeEvrBlock (o : Nat) (w : RegWr) (s : State) : Ans :=
  if o = 0x00 then twoHalves w (execEvrDoorbell (wLo w)) (execEvrFclr (wHi w) 0) s
  else if o = 0x08 then onBit w 32 s (execEvrStatusCntClr s)
  else if 0x1000 ≤ o ∧ o < 0x1080 then
    let i := (o - 0x1000) / 4
    twoHalves w (execEvrEnWrite (Fin.ofNat 32 i) (wLo w)) (execEvrEnWrite (Fin.ofNat 32 (i + 1)) (wHi w)) s
  else if 0x1100 ≤ o ∧ o < 0x1180 then
    let i := (o - 0x1100) / 4
    twoHalves w (execEvrPendWrite (Fin.ofNat 32 i) (wLo w) (hwLo w)) (execEvrPendWrite (Fin.ofNat 32 (i + 1)) (wHi w) (hwHi w)) s
  else if 0x2000 ≤ o ∧ o < 0x3000 then
    let n := (o - 0x2000) / 4
    twoHalves w (writeSrc n (wLo w)) (writeSrc (n + 1) (wHi w)) s
  else if 0x3000 ≤ o ∧ o < 0x3100 ∧ w.lo then
    let k : Fin 4 := Fin.ofNat 4 ((o - 0x3000) / 0x40)
    if o % 0x40 = 0 then writeKctl k w s
    else if o % 0x40 = 8 then execEoi k (BitVec.ofNat 10 (rfld w.v 9 0)) s
    else .next s
  else if 0x4000 ≤ o ∧ o < 0x4400 then
    let v := (o - 0x4000) / 16
    if o % 16 = 0 then
      let q := s.evr.hostqs.get v
      execHostEventQueueEnable (Fin.ofNat 64 v) (regMerge (q.base + BitVec.ofNat 64 (b2n q.en)) w) s
    else writeEvq v w s
  else .next s

/-- PWR_STATUS. -/
def writePwrStatus (s : State) (w : RegWr) : State :=
  setPw s fun p => { p with
    capLim := flagAfter p.capLim w 19, thermLim := flagAfter p.thermLim w 18, inputWarn := flagAfter p.inputWarn w 17, coolWarn := flagAfter p.coolWarn w 16
    collCnt := satInc p.collCnt (collAt w [16, 17, 18, 19]) }

/-- FLOG_STATUS. -/
def writeFlog (s : State) (w : RegWr) : State :=
  setFlt s fun f => { f with
    ovf := flagAfter f.ovf w 32
    collCnt := satInc f.collCnt (collAt w [32])
    logHead := if w.lo then BitVec.ofNat 16 (rfld w.v 31 16) else f.logHead }

/-- MBARb and CBARc: every field that a write reaches lies in the upper half. -/
def writeBarReg (casc : Bool) (b : Nat) (w : RegWr) (s : State) : Ans :=
  if !w.hi then .next s
  else andThen (execBarrierConfigWrite casc (Fin.ofNat 64 b) w.v s) fun s =>
    .next (updBar s casc b fun x => { x with phaseErr := x.phaseErr || rbit w.hw 60, cfgErr := x.cfgErr || rbit w.hw 59 })

/-- A write in the beacon block. -/
def writeBcnBlock (o : Nat) (w : RegWr) (s : State) : Ans :=
  if o = 0x18 then onBit w 0 s (execBcnStatusCntClr s)
  else if 0x1000 ≤ o ∧ o < 0x1100 then writeBarReg false ((o - 0x1000) / 8) w s
  else if 0x2000 ≤ o ∧ o < 0x2200 then writeBarReg true ((o - 0x2000) / 8) w s
  else .next s

/-! ### Die windows (R104, R132, R187, R220, R275, R305, R556) -/

/-- One context's flags after a write of TILE_STATUS. -/
def ctxFlags (w : RegWr) (c : Nat) (k : Ctx) : Ctx :=
  let f := flagAfter k.fault w (16 + c)
  { k with fault := f, nanCvt := flagAfter k.nanCvt w (12 + c), intSat := flagAfter k.intSat w (8 + c), fr := unitCleared k.fr f }

/-- TILE_STATUS: clearing a FAULT bit clears VALID of its TILE_FAULTc. -/
def writeTileStatus (w : RegWr) (x : Tile) : Tile :=
  { x with
    ctxs := (List.range 4).foldl (fun m c => Tbl.upd m c (ctxFlags w c)) x.ctxs
    collCnt := satInc x.collCnt (collAt w [8, 9, 10, 11, 12, 13, 14, 15, 16, 17, 18, 19]) }

/-- SPAD_STATUS. -/
def writeSpadStatus (w : RegWr) (x : Tile) : Tile :=
  { x with winErr := flagAfter x.winErr w 17, htErr := flagAfter x.htErr w 16, spadColl := satInc x.spadColl (collAt w [16, 17]) }

/-- SEM_ERR. -/
def writeSemErr (w : RegWr) (x : Tile) : Tile :=
  { x with semOvf := flagAfter x.semOvf w 63, semUnf := flagAfter x.semUnf w 62, semColl := satInc x.semColl (collAt w [62, 63]) }

/-- The upper half of TILE_QUEUE: Q_EN and, while it is 0, QHANDLE. -/
def writeQueueHi (t : TileNo) (w : RegWr) (s : State) : Ans :=
  if rbit w.v 40 then execTileQueueEnable t (Fin.ofNat 64 (rfld w.v 37 32)) s
  else .next (updTile s t.val fun x => { x with qEn := false, qHandle := if x.qEn then x.qHandle else BitVec.ofNat 6 (rfld w.v 37 32) })

/-- A write in the block of a tile. -/
def writeTile (t : TileNo) (o : Nat) (w : RegWr) (s : State) : Ans :=
  let x := s.tiles.get t.val
  if o = 0x08 then .next (updTile s t.val (writeTileStatus w))
  else if o = 0x10 then onBit w 32 s (execTileCountsCntClr t s)
  else if o = 0x18 then twoHalves w (execTileQueueTail t (BitVec.ofNat 9 (rfld w.v 24 16))) (writeQueueHi t w) s
  else if o = 0x100 then .next (updTile s t.val (writeSpadStatus w))
  else if o = 0x108 then onBit w 32 s (execSpadCountsCntClr t s)
  else if 0x400 ≤ o ∧ o < 0x800 then
    let h := (o - 0x400) / 16
    if o % 16 = 0 then execHandleWrite t (Fin.ofNat 64 h) (regMerge (handleReg s t.val h true) w) s
    else .next (writeHandle s t.val h false (regMerge (handleReg s t.val h false) w))
  else if 0x800 ≤ o ∧ o < 0x880 then
    let n := (o - 0x800) / 16
    if o % 16 = 0 then execWindowWrite t (Fin.ofNat 8 n) (regMerge (x.wins.get n).a w) s
    else .next (updTile s t.val fun x => { x with wins := x.wins.upd n fun p => { p with b := regMerge p.b w &&& winBMask } })
  else if o = 0xD00 then .next (updTile s t.val (writeSemErr w))
  else .next s

/-- A write in a die window. -/
def writeDie (d : Die) (o : Nat) (w : RegWr) (s : State) : Ans :=
  gate (dieBlockOn s d.val) s <|
    if o = 0x10010 then onBit w 32 s (execDcEccCntClr d s)
    else if o = 0x12000 then onBit w 16 s (execSwpStatusCntClr d s)
    else if o = 0x13000 then onBit w 16 s (execModeStatusCntClr d s)
    else if o = 0x14020 then .next (updDie s d.val fun x => { x with hbmWinErr := flagAfter x.hbmWinErr w 31 })
    else if 0x14100 ≤ o ∧ o < 0x14200 then
      let n := (o - 0x14100) / 16
      if o % 16 = 0 then execHbmWindowWrite d (Fin.ofNat 16 n) (regMerge ((s.dies.get d.val).hbmWins.get n).a w) s
      else .next (updDie s d.val fun x => { x with hbmWins := x.hbmWins.upd n fun p => { p with b := regMerge p.b w &&& hbmWinBMask } })
    else if o = 0x15000 then onBit w 0 s (execCdcErrCntClr d s)
    else if 0x20000 ≤ o ∧ o < 0x68000 then writeEngine (Fin.ofNat 145 (18 * d.val + (o - 0x20000) / 0x4000)) ((o - 0x20000) % 0x4000) w s
    else if 0x80000 ≤ o ∧ o < 0xA0000 then writeTile (Fin.ofNat 256 (32 * d.val + (o - 0x80000) / 0x1000)) (o % 0x1000) w s
    else .next s

/-! ### Block decode (R546, R548, R549) -/

/-- A write in the blocks that answer only while READY is 1. -/
def writeReady (o : Nat) (w : RegWr) (s : State) : Ans :=
  if 0x200000 ≤ o ∧ o < 0x204400 then writeEvrBlock (o - 0x200000) w s
  else if o = 0x400000 then .next (writePwrStatus s w)
  else if o = 0x400018 then onBit w 32 s (execPwrCountsCntClr s)
  else if o = 0x500000 then .next (writeFlog s w)
  else if o = 0x600000 then onBit w 0 s (execAuditRequest s)
  else if o = 0x600008 then .next (setFlt s fun f => { f with audFail := flagAfter f.audFail w 62 })
  else if 0x700000 ≤ o ∧ o < 0x702200 then writeBcnBlock (o - 0x700000) w s
  else if 0x1000000 ≤ o ∧ o < 0x2000000 then writeDie (Fin.ofNat 8 ((o - 0x1000000) / 0x200000)) (o % 0x200000) w s
  else if 0x2000000 ≤ o ∧ o < 0x2000600 ∧ o % 0x40 = 0x10 then onBit w 0 s (execTlErrCntClr (Fin.ofNat 24 ((o - 0x2000000) / 0x40)) s)
  else if 0x2020000 ≤ o ∧ o < 0x2020200 ∧ o % 0x40 = 0 then onBit w 32 s (execArcStatusCntClr (Fin.ofNat 8 ((o - 0x2020000) / 0x40)) s)
  else .next s

/-- A write of the 8-byte slot at an offset. -/
def writeSlot (o : Nat) (w : RegWr) (s : State) : Ans :=
  if o < 0x100000 then writeGlobal o w s
  else if o = 0x100000 then writeHqBlock 0 w s
  else if 0x100000 ≤ o ∧ o < 0x112000 then gate (blockOn s) s (writeHqBlock (o - 0x100000) w s)
  else if o = 0x3000008 then execDebugFetch (regMerge s.glb.dbgAddr w) s
  else gate (blockOn s) s (writeReady o w s)

/-- REGISTER_WRITE (R11, R545): an aligned host write of 32 or 64 bits to BAR0. -/
def execRegisterWrite (off : Nat) (wide : Bool) (v : W64) (hw : W64) (s : State) : Ans :=
  if !barOn s || 0x4000000 ≤ off then .next s
  else if off % (if wide then 8 else 4) ≠ 0 then .next (accRefused s)
  else writeSlot (off / 8 * 8) (regWr off wide v hw) s

end Sys2Proof.Machine
end

