-- ==== Sys2Proof/Machine/Tier.lean ====
section
/-!
DEFINITION. The host tier (R271 to R274): HOST_TIER_MAP, parking and recall of sequences, and generations moved to a window.
-/

namespace Sys2Proof.Machine

/-- A host-tier window. -/
def tierWin (s : State) (w : Nat) : TierWin := s.md.tier.get w

/-- A host-tier window set. -/
def setTier (s : State) (w : Nat) (x : TierWin) : State := setMd s fun m => { m with tier := m.tier.set w x }

/-- 2 MiB and the size of the host-tier space. -/
def mib2 : Nat := 0x200000
def tierSpace : Nat := 0x4000000000

/-- Whether a descriptor in progress names a byte of a window in the HOST_TIER space: the window's live overflow. -/
def overflowLive (s : State) (x : TierWin) : Bool :=
  let hit := fun (w : W64) => spaceOf w = 3 && decide (x.off ≤ rfld w 37 0) && decide (rfld w 37 0 < x.off + x.len)
  s.engines.any fun g => (List.range 4).any fun c => (g.2.chans.get c).prog.any fun d => hit (param64 d.bytes 16) || hit (param64 d.bytes 24)

/-- Whether a window holds parked pages, a generation or live overflow (R271). -/
def windowHeld (s : State) (w : Nat) : Bool :=
  (s.md.seqs.any fun q => (q.parked.map (·.1)) = some w) ||
    (s.md.slots.any fun k => k.2.gens.any fun g => g.window = some w) || overflowLive s (tierWin s w)

/-- Whether a range overlaps a mapped window other than `w`. -/
def tierOverlaps (s : State) (w off len : Nat) : Bool :=
  s.md.tier.any fun p => p.1 ≠ w && p.2.mapped && decide (off < p.2.off + p.2.len) && decide (p.2.off < off + len)

/-- The checks of HOST_TIER_MAP in the order of R271. -/
def checkTierMap (s : State) (e : Bytes) : Option Status :=
  let w := byteN e 16
  let len := (param64 e 24).toNat
  let off := (param64 e 32).toNat
  let h := hostF (entryAddrW e)
  firstFail [
    (decide (64 ≤ w) || byteN e 17 = 0 || decide (8 ≤ byteN e 17) || decide (tierSpace < len), .lenRange),
    (h % mib2 ≠ 0 || len % mib2 ≠ 0 || off % mib2 ≠ 0, .align),
    (decide (tierSpace < off + len) || tierOverlaps s w off len || (len ≠ 0 && spaceOf (entryAddrW e) ≠ 4), .addrRange),
    (if len = 0 then windowHeld s w else (tierWin s w).mapped, .busy)]

/-- HOST_TIER_MAP maps or unmaps a window. -/
def runTierMap (j : JobRef) (e : Bytes) (s : State) : State :=
  checkThen (checkTierMap s e) j (fun s =>
    let len := (param64 e 24).toNat
    let x : TierWin := if len = 0 then {} else
      { mapped := true, host := BitVec.ofNat 64 (hostF (entryAddrW e)), len := len, off := (param64 e 32).toNat, use_ := byteN e 17 }
    finish (setTier s (byteN e 16) x) j .ok 0) s

/-- HOST_TIER_MAP (R271). -/
def execHostTierMap (st : Stream) (s : State) : Ans := startEntry 0x95 st.val runTierMap s

/-! ### Parking and recall (R273) -/

/-- Bytes that the pages of a sequence take in a window. -/
def parkBytes (s : State) (q : Seq) : Nat :=
  let m := infoOf s q.slot q.gen
  (q.dies.map fun p => p.2.groups * kvLayers m * p.2.heads.length * pageBytes m).foldl (· + ·) 0

/-- The extents, in the host-tier space, of the sequences parked in a window. -/
def parkedExtents (s : State) (w : Nat) : List (Nat × Nat) :=
  s.md.seqs.filterMap fun q => match q.parked with | some p => if p.1 = w then some (p.2, p.2 + parkBytes s q) else none | none => none

/-- The lowest place for `n` bytes in a window. -/
def parkPlace (s : State) (w n : Nat) : Option Nat :=
  let x := tierWin s w
  let ex := parkedExtents s w
  ((sortBy (fun a b => decide (a ≤ b)) (x.off :: ex.map fun e => ceilDiv e.2 16384 * 16384)).find? fun o =>
    decide (o + n ≤ x.off + x.len) && ex.all fun e => decide (o + n ≤ e.1) || decide (e.2 ≤ o))

/-- The host bus address of an offset of the host-tier space in a window. -/
def tierHost (x : TierWin) (o : Nat) : Nat := x.host.toNat + (o - x.off)

/-- A page copied to the window at offset `o`. -/
def parkPage (m : ModelInfo) (x : TierWin) (d a o : Nat) (s : State) : State :=
  let s := eccAt s (dieKey d a) (pageBytes m)
  hostWrite s (tierHost x o) (plain (loadMod s (dieKey d a) (pageBytes m)))

/-- The pages of one die copied to the window from offset `o` on, the draft head's last, their entries rewritten, their frames and tree
slots freed. -/
def parkDie (m : ModelInfo) (x : TierWin) (slot : Nat) (r : State × Nat) (p : Nat × SeqDie) : State × Nat :=
  let n := p.2.groups * m.layers * p.2.heads.length
  let pages := pagesOf r.1 m p.1 p.2
  let s := pages.zipIdx.foldl (fun s a =>
    let o := r.2 + a.2 * pageBytes m
    let s := parkPage m x p.1 a.1 o s
    if a.2 < n then writePte s p.1 p.2 a.2 (2 ^ 31 + 2 ^ 30 + o / 2048) else s) r.1
  (freeFrames s slot p.1 (framesOf (pageFrames m) (pages ++ p.2.tree)), r.2 + pages.length * pageBytes m)

/-- A sequence parked in a window. -/
def parkSeq (s : State) (q : Seq) (w o : Nat) : State :=
  let m := infoOf s q.slot q.gen
  let s := (q.dies.foldl (parkDie m (tierWin s w) q.slot) (s, o)).1
  updSeq s q.ra fun x => { x with parked := some (w, o), dies := x.dies.map fun p => (p.1, { p.2 with tree := [], draft := [] }) }

/-- Fresh pages and tree slots for one die and the parked pages copied back, or nothing while the pool lacks room. -/
def recallDie (m : ModelInfo) (x : TierWin) (slot d : Nat) (q : SeqDie) (s : State) (o : Nat) : Option (SeqDie × State × Nat) :=
  let hd := q.heads.length
  let n := q.groups * m.layers * hd
  match takeRuns (pageFrames m) (4 * kvLayers m * hd) (poolOf s slot d) with
  | none => none
  | some (tree, r1) =>
    match takeRuns (pageFrames m) (q.groups * kvLayers m * hd) r1 with
    | none => none
    | some (pages, r2) =>
      let s := (pages.zipIdx).foldl (fun s p =>
        let s := storeClean s (dieKey d p.1) (hostRead s (tierHost x (o + p.2 * pageBytes m)) (pageBytes m))
        if p.2 < n then writePte s d q p.2 (pteOf p.1) else s) (setPool s slot d r2)
      some ({ q with tree := tree, draft := pages.drop n }, s, o + pages.length * pageBytes m)

/-- Every die of a sequence. -/
def recallDies (m : ModelInfo) (x : TierWin) (slot : Nat) : List (Nat × SeqDie) → State → Nat → Option (Tbl SeqDie × State)
  | [], s, _ => some ([], s)
  | (d, q) :: r, s, o =>
    match recallDie m x slot d q s o with
    | none => none
    | some (q', s', o') => (recallDies m x slot r s' o').map fun p => ((d, q') :: p.1, p.2)

/-- Whether a running command names a record: a loop, a prefill or a release. -/
def recordNamed (s : State) (ra : W64) : Bool :=
  recordBusy s ra || s.cp.jobs.any fun p => match p.2.body with | .release r => r = ra | _ => false

/-- A sequence recalled, where the pools have room. -/
def recallSeq (s : State) (q : Seq) : Option State :=
  match q.parked with
  | none => none
  | some (w, o) => (recallDies (infoOf s q.slot q.gen) (tierWin s w) q.slot q.dies s o).map fun r =>
      releasesDue (updSeq r.2 q.ra fun x => { x with parked := none, dies := r.1 })

/-- RECALL (R273): enabled while a command names the parked sequence; it waits while a pool lacks room. -/
def execRecallSequence (ra : W64) (s : State) : Ans :=
  match seqOf s ra with
  | none => .next s
  | some q =>
    if recordNamed s ra then .next ((recallSeq s q).getD s) else .next s

/-- Whether a sequence may be parked: no running loop, prefill or release names it (R273). -/
def mayPark (s : State) (q : Seq) : Bool := q.parked.isNone && !recordNamed s q.ra

/-- PARK (R273): enabled while an admission waits, the window takes KV and has room, no recall could go first, and no sequence that may
be parked has waited longer since its last pass. -/
def execPark (ra : W64) (w : Fin 64) (s : State) : Ans :=
  match seqOf s ra with
  | none => .next s
  | some q =>
    let waits := s.md.slots.any fun k => !k.2.admits.isEmpty
    let recalls := s.md.seqs.any fun r => recordNamed s r.ra && (recallSeq s r).isSome
    let oldest := s.md.seqs.all fun r => !mayPark s r || decide (q.lastRun.toNat ≤ r.lastRun.toNat)
    if waits && mayPark s q && !recalls && oldest && (tierWin s w.val).mapped && bitN (tierWin s w.val).use_ 0 then
      match parkPlace s w.val (parkBytes s q) with
      | some o => .next (parkSeq s q w.val o)
      | none => .next s
    else .next s

/-! ### Generations in the host tier (R274) -/

/-- Whether a runnable sequence pins a generation. -/
def runnablePin (s : State) (slot : Nat) (g : BitVec 16) : Bool := s.md.seqs.any (seqRuns s slot g)

/-- Bytes of a tensor's groups as a generation was loaded with them: a delta generation's own data (R283). -/
def tensorLen (g : Gen) (i : Nat) : Nat :=
  let t := g.info.tensors.getD i default
  if g.base.isSome then ((deltaOf g i).map (·.data.length)).getD 0
  else if t.weight then ceilDiv t.rows 128 * t.cols * groupBytes t.fmt else 0

/-- Where a tensor begins in the image of a generation that a window holds: tensors in the directory's order, groups in R74's. -/
def imageStart (g : Gen) (i : Nat) : Nat := ((List.range i).map (tensorLen g)).foldl (· + ·) 0

/-- Bytes of the image. -/
def imageLen (g : Gen) : Nat := imageStart g g.info.tensors.length

/-- A generation's groups copied from HBM3 to a window. -/
def copyOut (s : State) (g : Gen) (x : TierWin) : State :=
  (cutDies g.cut).foldl (fun s d => (shardUnits g d).foldl (fun s u =>
    match u.grp with
    | none => s
    | some j =>
      let ks := shardKeys g d u.h u.off u.len
      let s := eccNote s ks
      hostWrite s (x.host.toNat + imageStart g u.idx + u.len * j) (ks.map (Mem.read s.mem.mod))) s) s

/-- A group's bytes in the image that a window holds; one that pads a block has scale +0.0. -/
def imageBytesOf (s : State) (g : Gen) (x : TierWin) (u : Unit_) : Bytes :=
  match u.grp with
  | none => List.replicate u.len 0
  | some j => hostRead s (x.host.toNat + imageStart g u.idx + u.len * j) u.len

/-- Whether every shard of a generation that the topology in force asks for has its frames. -/
def placed (g : Gen) : Bool := (cutDies g.cut).all fun d => (g.shards.get d).ok

/-- GENERATION_PARK (R274): a live generation that neither serves nor is pinned by a runnable sequence goes to an empty GEN window
that holds it, and its HBM3 frames are free; or it comes back, cut for the topology in force, once HBM3 has the frames. -/
def execGenerationPark (slot : Fin 8) (gen : BitVec 16) (w : Fin 64) (back : Bool) (s : State) : Ans :=
  match genOf s slot.val gen with
  | none => .next s
  | some g =>
    if back then
      if g.window ≠ some w.val then .next s
      else
        let r := layWith s { g with window := none } (imageBytesOf s g (tierWin s w.val))
        .next (if placed r.2 then updGen r.1 slot.val gen fun _ => r.2 else s)
    else
      let x := tierWin s w.val
      if g.window.isNone && (s.md.slots.get slot.val).serving ≠ some gen && !runnablePin s slot.val gen && g.inFlight = 0 &&
          x.mapped && bitN x.use_ 1 && !windowHeld s w.val && decide (imageLen g ≤ x.len) && placed g
      then .next (updGen (unseat (copyOut s g x) slot.val g) slot.val gen fun y => { y with window := some w.val, shards := [] }) else .next s

end Sys2Proof.Machine
end

