-- ==== Sys2Proof/Machine/Dispatch.lean ====
section
/-!
DEFINITION. The one dispatch from commands to their meanings: one arm for each constructor of Instr.
-/

namespace Sys2Proof.Machine

/-- The effect of command `i` on everything but the queue. -/
def exec (i : Instr) (s : State) : Host.Outcome State Fault Refusal :=
  match i with
  | .queueEnable => Sys2Proof.Machine.execQueueEnable s
  | .queueDisable => Sys2Proof.Machine.execQueueDisable s
  | .queueIdle => Sys2Proof.Machine.execQueueIdle s
  | .hostRegionWrite r a => Sys2Proof.Machine.execHostRegionWrite r a s
  | .fenceRegisterWrite f val v => Sys2Proof.Machine.execFenceRegisterWrite f val v s
  | .sqDoorbell v => Sys2Proof.Machine.execSqDoorbell v s
  | .cqDoorbell v => Sys2Proof.Machine.execCqDoorbell v s
  | .fenceDoorbell f single64 v => Sys2Proof.Machine.execFenceDoorbell f single64 v s
  | .sqFetch pcieOk => Sys2Proof.Machine.execSqFetch pcieOk s
  | .completionWrite st => Sys2Proof.Machine.execCompletionWrite st s
  | .nop st => Sys2Proof.Machine.execNop st s
  | .kernel st => Sys2Proof.Machine.execKernel st s
  | .graph st => Sys2Proof.Machine.execGraph st s
  | .graphNodeStart st node de ch => Sys2Proof.Machine.execGraphNodeStart st node de ch s
  | .graphLaunchMessage src head id version digest args => Sys2Proof.Machine.execGraphLaunchMessage src head id version digest args s
  | .completionToken src launcher st id edge rep => Sys2Proof.Machine.execCompletionToken src launcher st id edge rep s
  | .dma st de ch => Sys2Proof.Machine.execDma st de ch s
  | .signal st => Sys2Proof.Machine.execSignal st s
  | .wait st => Sys2Proof.Machine.execWait st s
  | .waitTimeout st => Sys2Proof.Machine.execWaitTimeout st s
  | .branch st => Sys2Proof.Machine.execBranch st s
  | .branchPollDelay st => Sys2Proof.Machine.execBranchPollDelay st s
  | .loop st => Sys2Proof.Machine.execLoop st s
  | .call st => Sys2Proof.Machine.execCall st s
  | .ret st => Sys2Proof.Machine.execRet st s
  | .barrier st => Sys2Proof.Machine.execBarrier st s
  | .timestamp st => Sys2Proof.Machine.execTimestamp st s
  | .digest st => Sys2Proof.Machine.execDigest st s
  | .decodeLoop st => Sys2Proof.Machine.execDecodeLoop st s
  | .identify st => Sys2Proof.Machine.execIdentify st s
  | .attest st => Sys2Proof.Machine.execAttest st s
  | .bundleBegin st => Sys2Proof.Machine.execBundleBegin st s
  | .bundleChunk st => Sys2Proof.Machine.execBundleChunk st s
  | .bundleCommit st => Sys2Proof.Machine.execBundleCommit st s
  | .bundleMemberReport member slot result => Sys2Proof.Machine.execBundleMemberReport member slot result s
  | .bundleMemberCommit slot gen gendig => Sys2Proof.Machine.execBundleMemberCommit slot gen gendig s
  | .wsetSwitch st => Sys2Proof.Machine.execWsetSwitch st s
  | .modeRequest st => Sys2Proof.Machine.execModeRequest st s
  | .ringConfig st => Sys2Proof.Machine.execRingConfig st s
  | .cascadeJoin st => Sys2Proof.Machine.execCascadeJoin st s
  | .cascadeJoinSettled => Sys2Proof.Machine.execCascadeJoinSettled s
  | .twinPair st p => Sys2Proof.Machine.execTwinPair st p s
  | .twinPairTimeout => Sys2Proof.Machine.execTwinPairTimeout s
  | .powerPolicy st => Sys2Proof.Machine.execPowerPolicy st s
  | .clockPin st => Sys2Proof.Machine.execClockPin st s
  | .telemetry st => Sys2Proof.Machine.execTelemetry st s
  | .retire st => Sys2Proof.Machine.execRetire st s
  | .scrub st => Sys2Proof.Machine.execScrub st s
  | .scrubDone t => Sys2Proof.Machine.execScrubDone t s
  | .fwUpdate st alertStops => Sys2Proof.Machine.execFwUpdate st alertStops s
  | .reset st => Sys2Proof.Machine.execReset st s
  | .detachPrepare st => Sys2Proof.Machine.execDetachPrepare st s
  | .graphStore st => Sys2Proof.Machine.execGraphStore st s
  | .graphPatch st => Sys2Proof.Machine.execGraphPatch st s
  | .deltaLoad st wrote => Sys2Proof.Machine.execDeltaLoad st wrote s
  | .hostTierMap st => Sys2Proof.Machine.execHostTierMap st s
  | .timeTag st => Sys2Proof.Machine.execTimeTag st s
  | .faultPolicy st => Sys2Proof.Machine.execFaultPolicy st s
  | .tileQueueEnable t qhandle => Sys2Proof.Machine.execTileQueueEnable t qhandle s
  | .tileQueueTail t tail => Sys2Proof.Machine.execTileQueueTail t tail s
  | .todFetch t => Sys2Proof.Machine.execTodFetch t s
  | .todNop t w => Sys2Proof.Machine.execTodNop t w s
  | .mma t w => Sys2Proof.Machine.execMma t w s
  | .mmaT t w => Sys2Proof.Machine.execMmaT t w s
  | .dist t w => Sys2Proof.Machine.execDist t w s
  | .ashift t w => Sys2Proof.Machine.execAshift t w s
  | .softmax t w => Sys2Proof.Machine.execSoftmax t w s
  | .rmsnorm t w => Sys2Proof.Machine.execRmsnorm t w s
  | .glu t w => Sys2Proof.Machine.execGlu t w s
  | .rope t w => Sys2Proof.Machine.execRope t w s
  | .quant t w => Sys2Proof.Machine.execQuant t w s
  | .dequant t w => Sys2Proof.Machine.execDequant t w s
  | .topk t w => Sys2Proof.Machine.execTopk t w s
  | .ewise t w => Sys2Proof.Machine.execEwise t w s
  | .convert t w => Sys2Proof.Machine.execConvert t w s
  | .semSignal t w => Sys2Proof.Machine.execSemSignal t w s
  | .semWait t w => Sys2Proof.Machine.execSemWait t w s
  | .todBarrier t w => Sys2Proof.Machine.execTodBarrier t w s
  | .event t w => Sys2Proof.Machine.execEvent t w s
  | .qwait t w => Sys2Proof.Machine.execQwait t w s
  | .taskEnd t w => Sys2Proof.Machine.execTaskEnd t w s
  | .srkey t w => Sys2Proof.Machine.execSrkey t w s
  | .todComplete t w => Sys2Proof.Machine.execTodComplete t w s
  | .semRequest t => Sys2Proof.Machine.execSemRequest t s
  | .semSignalReport t w => Sys2Proof.Machine.execSemSignalReport t w s
  | .handleWrite t h a => Sys2Proof.Machine.execHandleWrite t h a s
  | .handleWriteRelease t h => Sys2Proof.Machine.execHandleWriteRelease t h s
  | .windowWrite t w a => Sys2Proof.Machine.execWindowWrite t w a s
  | .remoteAccess t a => Sys2Proof.Machine.execRemoteAccess t a s
  | .probe p => Sys2Proof.Machine.execProbe p s
  | .hbmWindowWrite d w a => Sys2Proof.Machine.execHbmWindowWrite d w a s
  | .hbmWindowAccess d a => Sys2Proof.Machine.execHbmWindowAccess d a s
  | .dmaChannelEnable e ch en => Sys2Proof.Machine.execDmaChannelEnable e ch en s
  | .dmaChannelTail e ch tail => Sys2Proof.Machine.execDmaChannelTail e ch tail s
  | .copy e ch => Sys2Proof.Machine.execCopy e ch s
  | .gather e ch => Sys2Proof.Machine.execGather e ch s
  | .scatter e ch => Sys2Proof.Machine.execScatter e ch s
  | .fill e ch => Sys2Proof.Machine.execFill e ch s
  | .pagewalk e ch => Sys2Proof.Machine.execPagewalk e ch s
  | .bond e ch => Sys2Proof.Machine.execBond e ch s
  | .prefetch e ch => Sys2Proof.Machine.execPrefetch e ch s
  | .descriptorComplete e ch => Sys2Proof.Machine.execDescriptorComplete e ch s
  | .passBoundary => Sys2Proof.Machine.execPassBoundary s
  | .verifyPass ra drafts => Sys2Proof.Machine.execVerifyPass ra drafts s
  | .verifyPassCommit ra rows outs => Sys2Proof.Machine.execVerifyPassCommit ra rows outs s
  | .admission slot => Sys2Proof.Machine.execAdmission slot s
  | .prefillCommit ra row outs => Sys2Proof.Machine.execPrefillCommit ra row outs s
  | .park ra w => Sys2Proof.Machine.execPark ra w s
  | .recallSequence ra => Sys2Proof.Machine.execRecallSequence ra s
  | .generationPark slot gen w back => Sys2Proof.Machine.execGenerationPark slot gen w back s
  | .frameEmit d dir f => Sys2Proof.Machine.execFrameEmit d dir f s
  | .frameArrival d dir hx px => Sys2Proof.Machine.execFrameArrival d dir hx px s
  | .frameTake d dir idx => Sys2Proof.Machine.execFrameTake d dir idx s
  | .runEntryPush d dir idx => Sys2Proof.Machine.execRunEntryPush d dir idx s
  | .genBuoy d dir hx => Sys2Proof.Machine.execGenBuoy d dir hx s
  | .layerBuoy d dir hx => Sys2Proof.Machine.execLayerBuoy d dir hx s
  | .passEndBuoy d dir hx => Sys2Proof.Machine.execPassEndBuoy d dir hx s
  | .gradFrame d dir hx px own ownPois => Sys2Proof.Machine.execGradFrame d dir hx px own ownPois s
  | .creditReturn d dir => Sys2Proof.Machine.execCreditReturn d dir s
  | .reRequest d dir => Sys2Proof.Machine.execReRequest d dir s
  | .resentCopy d dir hx px => Sys2Proof.Machine.execResentCopy d dir hx px s
  | .reRequestTimeout d dir idx => Sys2Proof.Machine.execReRequestTimeout d dir idx s
  | .passComplete d => Sys2Proof.Machine.execPassComplete d s
  | .exchangePacket d dir hx px => Sys2Proof.Machine.execExchangePacket d dir hx px s
  | .exchangeComplete d layer xid => Sys2Proof.Machine.execExchangeComplete d layer xid s
  | .exchangeReRequest d dir => Sys2Proof.Machine.execExchangeReRequest d dir s
  | .exchangeResendTimeout d idx => Sys2Proof.Machine.execExchangeResendTimeout d idx s
  | .governorEvaluation slot m => Sys2Proof.Machine.execGovernorEvaluation slot m s
  | .propose d e canHold => Sys2Proof.Machine.execPropose d e canHold s
  | .prepared d => Sys2Proof.Machine.execPrepared d s
  | .refused d => Sys2Proof.Machine.execRefused d s
  | .commit d e => Sys2Proof.Machine.execCommit d e s
  | .committed d => Sys2Proof.Machine.execCommitted d s
  | .settleComplete slot => Sys2Proof.Machine.execSettleComplete slot s
  | .abort d e => Sys2Proof.Machine.execAbort d e s
  | .reverted d => Sys2Proof.Machine.execReverted d s
  | .preparedDeadline => Sys2Proof.Machine.execPreparedDeadline s
  | .committedDeadline d => Sys2Proof.Machine.execCommittedDeadline d s
  | .revertedDeadline d => Sys2Proof.Machine.execRevertedDeadline d s
  | .heartbeatLoss d => Sys2Proof.Machine.execHeartbeatLoss d s
  | .arcFlitNak k => Sys2Proof.Machine.execArcFlitNak k s
  | .arcRetrainDone k => Sys2Proof.Machine.execArcRetrainDone k s
  | .auditRequest => Sys2Proof.Machine.execAuditRequest s
  | .conservationAudit => Sys2Proof.Machine.execConservationAudit s
  | .kill st => Sys2Proof.Machine.execKill st s
  | .watchdogExpiry st => Sys2Proof.Machine.execWatchdogExpiry st s
  | .barrierConfigWrite casc b v => Sys2Proof.Machine.execBarrierConfigWrite casc b v s
  | .barrierRoundComplete casc b => Sys2Proof.Machine.execBarrierRoundComplete casc b s
  | .beaconExchange t1 t2 t3 t4 => Sys2Proof.Machine.execBeaconExchange t1 t2 t3 t4 s
  | .arrive member c round => Sys2Proof.Machine.execArrive member c round s
  | .release c round trel => Sys2Proof.Machine.execRelease c round trel s
  | .cascadeReleaseTime c => Sys2Proof.Machine.execCascadeReleaseTime c s
  | .evrDoorbell v => Sys2Proof.Machine.execEvrDoorbell v s
  | .evrFclr v fires => Sys2Proof.Machine.execEvrFclr v fires s
  | .evrEnWrite w v => Sys2Proof.Machine.execEvrEnWrite w v s
  | .evrPendWrite w v hw => Sys2Proof.Machine.execEvrPendWrite w v hw s
  | .eventRouting => Sys2Proof.Machine.execEventRouting s
  | .keeperTake k head => Sys2Proof.Machine.execKeeperTake k head s
  | .eoi k src => Sys2Proof.Machine.execEoi k src s
  | .keeperWake k => Sys2Proof.Machine.execKeeperWake k s
  | .keeperSleep k => Sys2Proof.Machine.execKeeperSleep k s
  | .hostEventQueueHead v head => Sys2Proof.Machine.execHostEventQueueHead v head s
  | .hostEventQueueEnable v value => Sys2Proof.Machine.execHostEventQueueEnable v value s
  | .msixVectorUnmask v => Sys2Proof.Machine.execMsixVectorUnmask v s
  | .linkSignalDetect n => Sys2Proof.Machine.execLinkSignalDetect n s
  | .linkTrained n lg0 lg1 => Sys2Proof.Machine.execLinkTrained n lg0 lg1 s
  | .linkTrainTimeout n => Sys2Proof.Machine.execLinkTrainTimeout n s
  | .characteristicFrame n frame => Sys2Proof.Machine.execCharacteristicFrame n frame s
  | .characteristicFrameSend n => Sys2Proof.Machine.execCharacteristicFrameSend n s
  | .linkSilenceTimeout n => Sys2Proof.Machine.execLinkSilenceTimeout n s
  | .linkSignalLoss n => Sys2Proof.Machine.execLinkSignalLoss n s
  | .flitNak n => Sys2Proof.Machine.execFlitNak n s
  | .message n m => Sys2Proof.Machine.execMessage n m s
  | .memberMessageSend => Sys2Proof.Machine.execMemberMessageSend s
  | .memberMessage p rows => Sys2Proof.Machine.execMemberMessage p rows s
  | .memberHeartbeatTimeout idx => Sys2Proof.Machine.execMemberHeartbeatTimeout idx s
  | .fogMessage p f => Sys2Proof.Machine.execFogMessage p f s
  | .twinLogEntry entry record => Sys2Proof.Machine.execTwinLogEntry entry record s
  | .twinCheckpoint c => Sys2Proof.Machine.execTwinCheckpoint c s
  | .checkpointAck ra => Sys2Proof.Machine.execCheckpointAck ra s
  | .writtenNotice tag => Sys2Proof.Machine.execWrittenNotice tag s
  | .fatalFault cause => Sys2Proof.Machine.execFatalFault cause s
  | .keeperWatchdog => Sys2Proof.Machine.execKeeperWatchdog s
  | .spineLoss d => Sys2Proof.Machine.execSpineLoss d s
  | .powerOn t => Sys2Proof.Machine.execPowerOn t s
  | .pwrEnDeassert => Sys2Proof.Machine.execPwrEnDeassert s
  | .pwrAlertAssert => Sys2Proof.Machine.execPwrAlertAssert s
  | .pwrAlertDeassert => Sys2Proof.Machine.execPwrAlertDeassert s
  | .grantResume => Sys2Proof.Machine.execGrantResume s
  | .inputUndervoltage => Sys2Proof.Machine.execInputUndervoltage s
  | .inputLow => Sys2Proof.Machine.execInputLow s
  | .inputHigh => Sys2Proof.Machine.execInputHigh s
  | .inputOvervoltage => Sys2Proof.Machine.execInputOvervoltage s
  | .overcurrent => Sys2Proof.Machine.execOvercurrent s
  | .grantInterval reserveDraw slack => Sys2Proof.Machine.execGrantInterval reserveDraw slack s
  | .drawSample d draw => Sys2Proof.Machine.execDrawSample d draw s
  | .loan d predictedUs => Sys2Proof.Machine.execLoan d predictedUs s
  | .loanRecall d => Sys2Proof.Machine.execLoanRecall d s
  | .cclkStepDown d => Sys2Proof.Machine.execCclkStepDown d s
  | .cclkStepUp => Sys2Proof.Machine.execCclkStepUp s
  | .junctionHot d tj => Sys2Proof.Machine.execJunctionHot d tj s
  | .junctionHotHold d => Sys2Proof.Machine.execJunctionHotHold d s
  | .junctionCritical d tj => Sys2Proof.Machine.execJunctionCritical d tj s
  | .thermalTrip d tj => Sys2Proof.Machine.execThermalTrip d tj s
  | .coolantInletHigh tenths => Sys2Proof.Machine.execCoolantInletHigh tenths s
  | .pllLockLoss => Sys2Proof.Machine.execPllLockLoss s
  | .pllRelock => Sys2Proof.Machine.execPllRelock s
  | .perstAssert => Sys2Proof.Machine.execPerstAssert s
  | .perstDeassert => Sys2Proof.Machine.execPerstDeassert s
  | .functionLevelReset src => Sys2Proof.Machine.execFunctionLevelReset src s
  | .warmReset src => Sys2Proof.Machine.execWarmReset src s
  | .dieReset d src => Sys2Proof.Machine.execDieReset d src s
  | .dieResetComplete d t => Sys2Proof.Machine.execDieResetComplete d t s
  | .coldReset src => Sys2Proof.Machine.execColdReset src s
  | .program page => Sys2Proof.Machine.execProgram page s
  | .finish => Sys2Proof.Machine.execFinish s
  | .recoveryAbort => Sys2Proof.Machine.execRecoveryAbort s
  | .tftpWriteRequest name blksize => Sys2Proof.Machine.execTftpWriteRequest name blksize s
  | .dhcpLeaseTimeout => Sys2Proof.Machine.execDhcpLeaseTimeout s
  | .enrol index => Sys2Proof.Machine.execEnrol index s
  | .revoke index => Sys2Proof.Machine.execRevoke index s
  | .keysLock => Sys2Proof.Machine.execKeysLock s
  | .challenge => Sys2Proof.Machine.execChallenge s
  | .debugUnlock => Sys2Proof.Machine.execDebugUnlock s
  | .debugLock => Sys2Proof.Machine.execDebugLock s
  | .debugFetch a => Sys2Proof.Machine.execDebugFetch a s
  | .debugFetchDone => Sys2Proof.Machine.execDebugFetchDone s
  | .apSegWrite seg v => Sys2Proof.Machine.execApSegWrite seg v s
  | .bar4Read off len => Sys2Proof.Machine.execBar4Read off len s
  | .bar4Write off data => Sys2Proof.Machine.execBar4Write off data s
  | .bar4Resize log2 => Sys2Proof.Machine.execBar4Resize log2 s
  | .bar0ImproperAccess write off width => Sys2Proof.Machine.execBar0ImproperAccess write off width s
  | .powerStateChange d3 => Sys2Proof.Machine.execPowerStateChange d3 s
  | .udpTelemetryRequest datagram => Sys2Proof.Machine.execUdpTelemetryRequest datagram s
  | .arpRequest => Sys2Proof.Machine.execArpRequest s
  | .icmpEchoRequest data => Sys2Proof.Machine.execIcmpEchoRequest data s
  | .i3cPrivateWrite bus data => Sys2Proof.Machine.execI3cPrivateWrite bus data s
  | .i3cPrivateRead bus len => Sys2Proof.Machine.execI3cPrivateRead bus len s
  | .i3cAddressAssignment bus addr => Sys2Proof.Machine.execI3cAddressAssignment bus addr s
  | .tileCountsCntClr t => Sys2Proof.Machine.execTileCountsCntClr t s
  | .spadCountsCntClr t => Sys2Proof.Machine.execSpadCountsCntClr t s
  | .dcEccCntClr d => Sys2Proof.Machine.execDcEccCntClr d s
  | .swpStatusCntClr d => Sys2Proof.Machine.execSwpStatusCntClr d s
  | .modeStatusCntClr d => Sys2Proof.Machine.execModeStatusCntClr d s
  | .cdcErrCntClr d => Sys2Proof.Machine.execCdcErrCntClr d s
  | .dmaCountsCntClr e => Sys2Proof.Machine.execDmaCountsCntClr e s
  | .hqCountsCntClr => Sys2Proof.Machine.execHqCountsCntClr s
  | .cpCapCntClr => Sys2Proof.Machine.execCpCapCntClr s
  | .evrStatusCntClr => Sys2Proof.Machine.execEvrStatusCntClr s
  | .bcnStatusCntClr => Sys2Proof.Machine.execBcnStatusCntClr s
  | .tlErrCntClr n => Sys2Proof.Machine.execTlErrCntClr n s
  | .pwrCountsCntClr => Sys2Proof.Machine.execPwrCountsCntClr s
  | .glbCountsCntClr => Sys2Proof.Machine.execGlbCountsCntClr s
  | .arcStatusCntClr k => Sys2Proof.Machine.execArcStatusCntClr k s
  | .registerWrite off wide v hw => Sys2Proof.Machine.execRegisterWrite off wide v hw s
  | .heartbeat d => Sys2Proof.Machine.execHeartbeat d s
  | .recOperationDone => Sys2Proof.Machine.execRecOperationDone s
  | .secOperationDone => Sys2Proof.Machine.execSecOperationDone s
  | .moduleReady t => Sys2Proof.Machine.execModuleReady t s
  | .inputBelow46V => Sys2Proof.Machine.execInputBelow46V s
  | .dhcpLease addr => Sys2Proof.Machine.execDhcpLease addr s
  | .tftpData data last => Sys2Proof.Machine.execTftpData data last s

end Sys2Proof.Machine
end

