-- ==== Sys2Proof/Safety.lean ====
section
/-!
DEFINITION. What a safe step is, and the conditions in whose terms the statements speak of the block's commands.
-/

namespace Sys2Proof.Machine

/-- The block goes on: its next step is neither a fault nor a refusal. -/
def Safe (s : State) : Prop := ∃ t, step s = .next t

/-- The memories, poison marks, fill bits and physical faults are in canonical form. -/
def MemoryOk (s : State) : Prop :=
  Memory.wf s.mem.host = true ∧ Memory.wf s.mem.mod = true ∧ Tbl.wf s.mem.pois = true ∧ Tbl.wf s.mem.fill = true ∧ Tbl.wf s.mem.ecc = true

/-- Stream `st` is free and its next entry `e`, of opcode `opc`, can be read and may run where it stands. -/
def StartsEntry (s : State) (st : Stream) (opc : Nat) (e : NextEntry) : Prop :=
  nextEntry s st.val = some e ∧ e.fault = none ∧ entryOpc e.bytes = opc ∧ opcodeCheck s opc e.depth = none

/-- The same, and `o` is the state in which the command runs: its entry has left the pending queue, and its reads have met the physical
faults of what they read. -/
def Enters (s : State) (st : Stream) (opc : Nat) (e : NextEntry) (o : State) : Prop := StartsEntry s st opc e ∧ o = entered s st.val e

/-- TOD `w` in position `n` of the window of tile `t` has its turn: fetched, of opcode `opc`, without a wait before it, free to
issue, and passing every check of R70. -/
def TodReady (s : State) (t n opc : Nat) (w : TodSlot) : Prop :=
  todAt s t n = some w ∧ todOpc w.bytes = opc ∧ w.phase = .fetched ∧ issues s t w = true ∧ todPwait w.bytes = false ∧ checkTod s t w = none

/-- Every operand of a TOD lies in a scratchpad buffer, and no guarded one holds an unfilled line. -/
def BuffersReady (s : State) (t : Nat) (ops : List Operand) : Prop :=
  (ops.all fun p => !(opWord p.word).strm) = true ∧ anyUnfilled s t ops = false

/-- The state in which descriptor `d` has just been fetched into channel `ch` of engine `e` and passed its checks. -/
def descTaken (s : State) (e ch : Nat) (d : DSlot) : State :=
  updChan (updChan s e ch fun c => { c with head := c.head + 1 }) e ch fun c => { c with prog := c.prog ++ [d] }

/-- Channel `ch` of engine `e`, with nothing in progress, fetches descriptor `d` of opcode `opc` next. -/
def FetchesDesc (s : State) (e ch opc : Nat) (d : DSlot) : Prop :=
  engineUp s e = true ∧ (chanOf s e ch).prog = [] ∧ mayFetch (chanOf s e ch) = true ∧
    (chanOf s e ch).cancelled.get ((chanOf s e ch).head.toNat % 32) = false ∧
    d = newDesc s e (chanOf s e ch) ((chanOf s e ch).head.toNat % 32) ∧ dOpc d.bytes = opc

/-- The checks of R313 on that descriptor, on the state in which HEAD has advanced. -/
def descCheck (s : State) (e ch : Nat) (d : DSlot) : Option (Nat × Status) :=
  checkDesc (updChan s e ch fun c => { c with head := c.head + 1 }) e ((chanOf s e ch).badReloc.get ((chanOf s e ch).head.toNat % 32)) d.bytes

end Sys2Proof.Machine
end

