-- ==== Sys2Proof/Certificates/Slice0/Obligations.lean ====
section
/-!
DEFINITION. The statements for the provers: one proposition for each entry of OBLIGATIONS.json, grouped by the part of the
block that it speaks of.
-/

open Sys2Proof Sys2Proof.Machine

set_option linter.unusedVariables false

/-- A step of a state with command `c` at the front of its queue is `exec` of `c` on the state with the queue's rest. With an empty
queue a step answers the tick of the state: the local beacon of a powered module without a twin takeover or detach in progress counts
one and nothing else changes; an unpowered module stays as it is. That the waiting commands stand in a queue is the model's form of a
block, and that a step of an empty queue stands for one BCLK cycle is the model's choice (assumption log 2). -/
def Obligations.StepRunsFrontCommand : Prop :=
  (∀ (c : Instr) (s : State), step { s with pending := c :: s.pending } = exec c s) ∧
  (∀ s : State, s.pending = [] → step s = .next (tick s)) ∧
  (∀ s : State, s.pending = [] → s.lk.twin ≠ .takeover → s.lk.twin ≠ .detaching → s.pins.hotSwap = true →
    step s = .next { s with bcn := { s.bcn with local_ := s.bcn.local_ + 1 } }) ∧
  (∀ s : State, s.pending = [] → s.lk.twin ≠ .takeover → s.lk.twin ≠ .detaching → s.pins.hotSwap = false → step s = .next s)

/-- For every state whose memories are in canonical form (addresses strictly rising, no entry equal to what an unlisted address
reads as), a step that answers a next state answers one whose memories are in that form. -/
def Obligations.EveryStepKeepsMemoryCanonical : Prop :=
  ∀ s t : State, MemoryOk s → step s = .next t → MemoryOk t

/-- After cold reset the host queue is disabled and not ready with kill scrubbing on, the watchdog limit is 1,000 ms, every array is
128 columns wide, every event source has priority 15 and is disabled, the power cap is 3,000 W with borrowing on, RESET_CAUSE says
level 4, the beacon reads 0, BAR4 is 64 GiB, and no command runs or waits. The memories are in the canonical form that every step
keeps, and list no byte, no mark and no fill bit. -/
def Obligations.ResetLeavesSpecifiedValues : Prop :=
  MemoryOk State.reset ∧ State.reset.mem = {} ∧
  State.reset.hq.en = false ∧ State.reset.hq.ready = false ∧ State.reset.hq.kscrub = true ∧ State.reset.hq.idle = true ∧
  State.reset.cp.wdog = 1000 ∧ State.reset.cp.jobs = [] ∧ State.reset.pending = [] ∧
  (∀ t, (State.reset.tiles.get t).w0 = 128 ∧ (State.reset.tiles.get t).w1 = 128 ∧ (State.reset.tiles.get t).sems = []) ∧
  (∀ n, (State.reset.evr.srcs.get n).prio = 15 ∧ (State.reset.evr.srcs.get n).en = false ∧ (State.reset.evr.srcs.get n).pend = false) ∧
  (∀ k, (State.reset.evr.keepers.get k).runPrio = 16) ∧
  State.reset.pw.policyCap = 3000 ∧ State.reset.pw.borrow = true ∧ State.reset.glb.rcLevel = 4 ∧ State.reset.bcn.local_ = 0 ∧
  State.reset.glb.bar4Log2 = 36

/-- An enable with READY = 1 and sizes in range sets EN with the counters 0 and the phase 1; one with READY = 0 or a size out of range
leaves EN at 0 and sets SQ_ERR (source 658 fires); a disable clears EN, so that nothing is fetched any more; and once every fetched
command has written its completions IDLE is set. A TAIL below twice the SQ size that leaves at most one SQ of entries is taken; any
other is refused with SQ_ERR. A HEAD below twice the CQ size that does not pass CQ_TAIL is taken; any other is refused with CQ_ERR.
With EN = 0 the doorbells are ignored. -/
def Obligations.HostQueueEnablesAndTakesDoorbells : Prop :=
  (∀ s : State, barOn s = true → s.hq.en = false → s.hq.ready = true → 6 ≤ s.hq.sqLog2 → s.hq.sqLog2 ≤ 16 → 6 ≤ s.hq.cqLog2 →
    s.hq.cqLog2 ≤ 18 → s.hq.dlog ≤ 10 →
    exec .queueEnable s = .next { s with hq := { s.hq with
      en := true, idle := false, fetchStop := false, sqHead := 0, sqTail := 0, cqTail := 0, cqHead := 0, phase := true } }) ∧
  (∀ s : State, barOn s = true → s.hq.en = false →
    (s.hq.ready = false ∨ s.hq.sqLog2 < 6 ∨ 16 < s.hq.sqLog2 ∨ s.hq.cqLog2 < 6 ∨ 18 < s.hq.cqLog2 ∨ 10 < s.hq.dlog) →
    exec .queueEnable s = .next (fire { s with hq := { s.hq with sqErr := true } } 658)) ∧
  (∀ s : State, barOn s = true → exec .queueDisable s = .next { s with hq := { s.hq with en := false } }) ∧
  (∀ (s : State) (ok : Bool), s.hq.en = false → exec (.sqFetch ok) s = .next s) ∧
  (∀ s : State, s.hq.en = false → (∀ st, st < 16 → streamEmpty s st = true) →
    exec .queueIdle s = .next { s with hq := { s.hq with idle := true } }) ∧
  (∀ (s : State) (v : W64), barOn s = true → s.hq.en = true → rfld v 16 0 < 2 * 2 ^ s.hq.sqLog2 →
    (rfld v 16 0 + 2 * 2 ^ s.hq.sqLog2 - s.hq.sqHead) % (2 * 2 ^ s.hq.sqLog2) ≤ 2 ^ s.hq.sqLog2 →
    exec (.sqDoorbell v) s = .next { s with hq := { s.hq with sqTail := rfld v 16 0 } }) ∧
  (∀ (s : State) (v : W64), barOn s = true → s.hq.en = true →
    (2 * 2 ^ s.hq.sqLog2 ≤ rfld v 16 0 ∨
      2 ^ s.hq.sqLog2 < (rfld v 16 0 + 2 * 2 ^ s.hq.sqLog2 - s.hq.sqHead) % (2 * 2 ^ s.hq.sqLog2)) →
    exec (.sqDoorbell v) s = .next (fire { s with hq := { s.hq with sqErr := true } } 658)) ∧
  (∀ (s : State) (v : W64), barOn s = true → s.hq.en = true → rfld v 18 0 < 2 * 2 ^ s.hq.cqLog2 →
    (rfld v 18 0 + 2 * 2 ^ s.hq.cqLog2 - s.hq.cqHead) % (2 * 2 ^ s.hq.cqLog2) ≤
      (s.hq.cqTail + 2 * 2 ^ s.hq.cqLog2 - s.hq.cqHead) % (2 * 2 ^ s.hq.cqLog2) →
    exec (.cqDoorbell v) s = .next { s with hq := { s.hq with cqHead := rfld v 18 0 } }) ∧
  (∀ (s : State) (v : W64), barOn s = true → s.hq.en = true →
    (2 * 2 ^ s.hq.cqLog2 ≤ rfld v 18 0 ∨
      (s.hq.cqTail + 2 * 2 ^ s.hq.cqLog2 - s.hq.cqHead) % (2 * 2 ^ s.hq.cqLog2) <
        (rfld v 18 0 + 2 * 2 ^ s.hq.cqLog2 - s.hq.cqHead) % (2 * 2 ^ s.hq.cqLog2)) →
    exec (.cqDoorbell v) s = .next (fire { s with hq := { s.hq with cqErr := true } } 658)) ∧
  (∀ (s : State) (v : W64) (f : Fin 256) (one : Bool), s.hq.en = false →
    exec (.sqDoorbell v) s = .next s ∧ exec (.cqDoorbell v) s = .next s ∧ exec (.fenceDoorbell f one v) s = .next s)

/-- A region whose PAGES is at least 1 and whose extent ends by 2^64 becomes valid with the value written; one that fails reads
VALID = 0 and sets REGION_ERR. A fence register is written while no fetched command names the fence, else ignored with FENCE_ERR. -/
def Obligations.RegionsAndFencesAreWritten : Prop :=
  (∀ (s : State) (r : Fin 64) (a : W64), blockOn s = true → a.getLsbD 0 = true →
    1 ≤ rfld (s.hq.regions.get r.val).b 31 0 → rfld a 63 12 * 4096 + rfld (s.hq.regions.get r.val).b 31 0 * 4096 ≤ 2 ^ 64 →
    ∃ t, exec (.hostRegionWrite r a) s = .next t ∧ t.hq.regionErr = s.hq.regionErr ∧
      t.hq.regions.get r.val = { a := a &&& 0xFFFFFFFFFFFFF007, b := (s.hq.regions.get r.val).b } ∧
      (∀ q, q ≠ r.val → t.hq.regions.get q = s.hq.regions.get q) ∧ t.mem = s.mem ∧ t.hq.fences = s.hq.fences) ∧
  (∀ (s : State) (r : Fin 64) (a : W64), blockOn s = true → a.getLsbD 0 = true →
    (rfld (s.hq.regions.get r.val).b 31 0 = 0 ∨ 2 ^ 64 < rfld a 63 12 * 4096 + rfld (s.hq.regions.get r.val).b 31 0 * 4096) →
    ∃ t, exec (.hostRegionWrite r a) s = .next t ∧ t.hq.regionErr = true ∧ (t.hq.regions.get r.val).a.getLsbD 0 = false ∧ t.mem = s.mem) ∧
  (∀ (s : State) (f : Fin 256) (val : Bool) (v : W64), blockOn s = true → fenceNamed s f.val = false →
    ∃ t, exec (.fenceRegisterWrite f val v) s = .next t ∧
      t.hq.fences.get f.val = (if val then { s.hq.fences.get f.val with value := v }
        else { s.hq.fences.get f.val with hostSig := v.getLsbD 31, owner := v.setWidth 4 }) ∧
      (∀ g, g ≠ f.val → t.hq.fences.get g = s.hq.fences.get g) ∧ t.mem = s.mem) ∧
  (∀ (s : State) (f : Fin 256) (val : Bool) (v : W64), blockOn s = true → fenceNamed s f.val = true →
    exec (.fenceRegisterWrite f val v) s = .next (fire { s with hq := { s.hq with fenceErr := true } } 658))

/-- R353: with the queues enabled, a write to doorbell 256 + f is accepted when fence f is host-signalable, the write is one 64-bit access
and the written value is greater than the fence's value: the fence takes the value and the commands that wait for it are looked at, and
with no command running nothing else changes. A write that fails any of the three conditions leaves the fence and sets FENCE_ERR. Of two
accepted writes the second is checked against the value that the first left: it is accepted when its value is greater than the first
write's, and refused when it is not. -/
def Obligations.FenceDoorbellAdmitsLargerValues : Prop :=
  (∀ (s : State) (f : Fin 256) (v : W64), barOn s = true → s.hq.en = true → (s.hq.fences.get f.val).hostSig = true →
    (s.hq.fences.get f.val).value < v →
    ∃ t, exec (.fenceDoorbell f true v) s = .next (wakeWaits t f.val) ∧ t.hq.fences.get f.val = { s.hq.fences.get f.val with value := v } ∧
      (∀ g, g ≠ f.val → t.hq.fences.get g = s.hq.fences.get g) ∧ t.hq.fenceErr = s.hq.fenceErr ∧ t.cp = s.cp ∧ t.mem = s.mem ∧ t.evr = s.evr) ∧
  (∀ (s : State) (f : Fin 256) (one : Bool) (v : W64), barOn s = true → s.hq.en = true →
    ((s.hq.fences.get f.val).hostSig = false ∨ one = false ∨ v ≤ (s.hq.fences.get f.val).value) →
    exec (.fenceDoorbell f one v) s = .next (fire { s with hq := { s.hq with fenceErr := true } } 658)) ∧
  (∀ (s : State) (f : Fin 256) (v w : W64), barOn s = true → s.hq.en = true → (s.hq.fences.get f.val).hostSig = true →
    (s.hq.fences.get f.val).value < v → (∀ st : Nat, getJob s (.stream st) = none) → v < w →
    ∃ t u, exec (.fenceDoorbell f true v) s = .next t ∧ (t.hq.fences.get f.val).value = v ∧ t.mem = s.mem ∧ t.cp = s.cp ∧
      exec (.fenceDoorbell f true w) t = .next u ∧ (u.hq.fences.get f.val).value = w ∧
      (∀ g, g ≠ f.val → u.hq.fences.get g = s.hq.fences.get g) ∧ u.mem = s.mem ∧ u.cp = s.cp ∧ u.hq.fenceErr = s.hq.fenceErr) ∧
  (∀ (s : State) (f : Fin 256) (v w : W64), barOn s = true → s.hq.en = true → (s.hq.fences.get f.val).hostSig = true →
    (s.hq.fences.get f.val).value < v → (∀ st : Nat, getJob s (.stream st) = none) → w ≤ v →
    ∃ t u, exec (.fenceDoorbell f true v) s = .next t ∧ exec (.fenceDoorbell f true w) t = .next u ∧
      (u.hq.fences.get f.val).value = v ∧ u.hq.fenceErr = true ∧ u.mem = s.mem ∧ u.cp = s.cp)

/-- The entry at SQ_HEAD goes to the end of its stream's pending queue when that holds fewer than 256 entries, and SQ_HEAD advances modulo
twice the SQ size; with a full pending queue nothing changes; a failed PCIe read sets FETCH_ERR, fires source 658 and stops fetching. A held
completion is written once the CQ has room. -/
def Obligations.EntriesAreFetchedInOrder : Prop :=
  (∀ s : State, s.hq.en = true → s.hq.fetchStop = false → s.hq.sqHead ≠ s.hq.sqTail →
    (s.cp.streams.get (entryStream (hostRead s (sqEntryAddr s s.hq.sqHead) 64))).pending.length < 256 →
    ∃ t, exec (.sqFetch true) s = .next t ∧ t.hq.sqHead = (s.hq.sqHead + 1) % (2 * 2 ^ s.hq.sqLog2) ∧ t.mem = s.mem ∧ t.tiles = s.tiles ∧
      (t.cp.streams.get (entryStream (hostRead s (sqEntryAddr s s.hq.sqHead) 64))).pending =
        (s.cp.streams.get (entryStream (hostRead s (sqEntryAddr s s.hq.sqHead) 64))).pending ++
          [⟨hostRead s (sqEntryAddr s s.hq.sqHead) 64, s.hq.sqHead⟩] ∧
      ∀ st, st ≠ entryStream (hostRead s (sqEntryAddr s s.hq.sqHead) 64) → t.cp.streams.get st = s.cp.streams.get st) ∧
  (∀ s : State, s.hq.en = true → s.hq.fetchStop = false → s.hq.sqHead ≠ s.hq.sqTail →
    256 ≤ (s.cp.streams.get (entryStream (hostRead s (sqEntryAddr s s.hq.sqHead) 64))).pending.length →
    exec (.sqFetch true) s = .next s) ∧
  (∀ s : State, s.hq.en = true → s.hq.fetchStop = false → s.hq.sqHead ≠ s.hq.sqTail →
    exec (.sqFetch false) s = .next (fire { s with hq := { s.hq with fetchErr := true, fetchStop := true } } 658)) ∧
  (∀ (s : State) (st : Stream) (c : HeldC) (r : List HeldC), (s.cp.streams.get st.val).held = c :: r → cqFull s = false →
    ∃ t, exec (.completionWrite st) s = .next t ∧ (t.cp.streams.get st.val).held = r ∧ t.hq.cqTail = nextCount (cqSize s) s.hq.cqTail ∧
      t.mem.mod = s.mem.mod ∧
      ((c.twin = false ∨ mirrors s = false) →
        t.mem.host = Mem.writeN s.mem.host (rfld s.hq.cqBase 63 12 * 4096 + 32 * (s.hq.cqTail % cqSize s)) (cqeBytes s st.val c)))

/-- An entry that a free stream starts and that passes its checks has its effect: NOP completes with OK and RESULT 0; SIGNAL raises its
fence (every satisfied WAIT completes with it) and completes with the new value; TIMESTAMP writes the 8 bytes of the local beacon and
completes with it. A SIGNAL that does not raise its fence completes with LEN_RANGE. A WAIT whose fence has reached its target completes at
once with the value it observed; one on a fence that its own stream owns completes with DEADLOCK and is counted; any other that closes no cycle leaves
the stream waiting, and one that closes a cycle completes every WAIT of the cycle with DEADLOCK. A WAIT on a host-signalable fence that
times out completes with TIMEOUT and is counted. -/
def Obligations.CommandsWithoutDataComplete : Prop :=
  (∀ (s o : State) (st : Stream) (e : NextEntry), Enters s st 0x00 e o →
    exec (.nop st) s = .next (finish o (.stream st.val) .ok 0)) ∧
  (∀ (s o : State) (st : Stream) (e : NextEntry), Enters s st 0x04 e o → (o.hq.fences.get (byteN e.bytes 16)).value < param64 e.bytes 24 →
    (o.hq.fences.get (byteN e.bytes 16)).hostSig = false → (o.hq.fences.get (byteN e.bytes 16)).owner.toNat = st.val →
    exec (.signal st) s = .next (finish (raiseFence o (byteN e.bytes 16) (param64 e.bytes 24))
      (.stream st.val) .ok (param64 e.bytes 24))) ∧
  (∀ (s o : State) (st : Stream) (e : NextEntry), Enters s st 0x04 e o → param64 e.bytes 24 ≤ (o.hq.fences.get (byteN e.bytes 16)).value →
    exec (.signal st) s = .next (finish o (.stream st.val) .lenRange 0)) ∧
  (∀ (s o : State) (st : Stream) (e : NextEntry), Enters s st 0x05 e o → param64 e.bytes 24 ≤ (o.hq.fences.get (byteN e.bytes 16)).value →
    exec (.wait st) s = .next (finish o (.stream st.val) .ok (o.hq.fences.get (byteN e.bytes 16)).value)) ∧
  (∀ (s o : State) (st : Stream) (e : NextEntry), Enters s st 0x05 e o → (o.hq.fences.get (byteN e.bytes 16)).value < param64 e.bytes 24 →
    (o.hq.fences.get (byteN e.bytes 16)).hostSig = false → (o.hq.fences.get (byteN e.bytes 16)).owner.toNat = st.val →
    exec (.wait st) s = .next (finish (countCycle o) (.stream st.val) .deadlock (o.hq.fences.get (byteN e.bytes 16)).value)) ∧
  (∀ (s o : State) (st : Stream) (e : NextEntry), Enters s st 0x05 e o → (o.hq.fences.get (byteN e.bytes 16)).value < param64 e.bytes 24 →
    ((o.hq.fences.get (byteN e.bytes 16)).hostSig = true ∨ (o.hq.fences.get (byteN e.bytes 16)).owner.toNat ≠ st.val) →
    exec (.wait st) s = .next (
      match fenceCycle (setBody o (.stream st.val) (.wait (byteN e.bytes 16) (param64 e.bytes 24))) st.val 16 st.val [] with
      | none => setBody o (.stream st.val) (.wait (byteN e.bytes 16) (param64 e.bytes 24))
      | some l => failCycle (setBody o (.stream st.val) (.wait (byteN e.bytes 16) (param64 e.bytes 24))) l)) ∧
  (∀ (s : State) (st : Stream) (b : Job) (f : Nat) (v : W64), getJob s (.stream st.val) = some b → b.body = .wait f v →
    (s.hq.fences.get f).hostSig = true →
    exec (.waitTimeout st) s = .next (finish { s with hq := { s.hq with wdFired := satInc s.hq.wdFired 1 } } (.stream st.val) .timeout
      (s.hq.fences.get f).value)) ∧
  (∀ (s o : State) (st : Stream) (e : NextEntry), Enters s st 0x0B e o → checkTimestamp o e.bytes = none →
    exec (.timestamp st) s = .next (finish (writeWord o (entryAddrW e.bytes) (leBytes 8 (now o).toNat)) (.stream st.val)
      .ok (now o)))

/-- A NOP outside a command buffer, without DIG, on a stream for which nothing runs, with room in the CQ: its 32-byte completion entry
with status OK is written at CQ_TAIL, CQ_TAIL advances modulo twice the CQ size and the phase inverts past the last slot, the entry leaves
the pending queue, the stream is free again, and neither module memory nor the fences, the decode loops or the power settings change. -/
def Obligations.NopCompletionEntry : Prop :=
  ∀ (s : State) (st : Stream) (e : NextEntry), StartsEntry s st 0x00 e → e.depth = 0 → (s.cp.streams.get st.val).frames = [] →
    cqFull s = false → entryDig e.bytes = false → chansOf s (.stream st.val) = [] → ctxsOf s (.stream st.val) = [] →
    (∀ p ∈ s.cp.jobs, ∀ id, p.2.body ≠ .ctl (.graphDelete id)) →
    ∃ t, exec (.nop st) s = .next t ∧
      t.mem.host = Mem.writeN s.mem.host (rfld s.hq.cqBase 63 12 * 4096 + 32 * (s.hq.cqTail % cqSize s))
        (cqeBytes s st.val (heldOf (newJob s e) .ok 0xFFFFFFFF 0)) ∧
      t.mem.mod = s.mem.mod ∧ t.mem.pois = s.mem.pois ∧ t.mem.fill = s.mem.fill ∧
      t.hq.cqTail = nextCount (cqSize s) s.hq.cqTail ∧
      t.hq.phase = (if (s.hq.cqTail + 1) % cqSize s = 0 then !s.hq.phase else s.hq.phase) ∧
      t.hq.fences = s.hq.fences ∧ t.hq.regions = s.hq.regions ∧ t.hq.digSerial = s.hq.digSerial ∧
      (t.cp.streams.get st.val).pending = (s.cp.streams.get st.val).pending.tail ∧ getJob t (.stream st.val) = none ∧
      t.md = s.md ∧ t.pw = s.pw

/-- A taken BRANCH goes on at its TARGET and waits first when that does not lie forward, and the loops whose body it leaves are no longer
active; one not taken goes on at the next entry. The wait of a taken backward branch ends. LOOP jumps back while its counter stands above
0 and otherwise falls through. CALL opens a frame over its buffer and completes when the frame ends. RETURN ends the innermost frame. -/
def Obligations.BranchLoopCallReturn : Prop :=
  (∀ (s o : State) (st : Stream) (e : NextEntry) (f : CFrame) (r : List CFrame), Enters s st 0x06 e o →
    (o.cp.streams.get st.val).frames = f :: r → checkBranch o f e.bytes = none →
    taken (byteN e.bytes 24) (BitVec.ofNat 64 (leNat (plain (readWord o (param64 e.bytes 16) 8))) &&& param64 e.bytes 40) (param64 e.bytes 32) = true →
    f.idx < leAt e.bytes 48 4 →
    exec (.branch st) s = .next (finishJump (updTop o st.val fun f => leaveLoops f (leAt e.bytes 48 4)) st.val (leAt e.bytes 48 4))) ∧
  (∀ (s o : State) (st : Stream) (e : NextEntry) (f : CFrame) (r : List CFrame), Enters s st 0x06 e o →
    (o.cp.streams.get st.val).frames = f :: r → checkBranch o f e.bytes = none →
    taken (byteN e.bytes 24) (BitVec.ofNat 64 (leNat (plain (readWord o (param64 e.bytes 16) 8))) &&& param64 e.bytes 40) (param64 e.bytes 32) = true →
    leAt e.bytes 48 4 ≤ f.idx →
    exec (.branch st) s = .next (finishJump (updStream (updTop o st.val fun f => leaveLoops f (leAt e.bytes 48 4)) st.val
      fun q => { q with polling := true }) st.val (leAt e.bytes 48 4))) ∧
  (∀ (s o : State) (st : Stream) (e : NextEntry) (f : CFrame) (r : List CFrame), Enters s st 0x06 e o →
    (o.cp.streams.get st.val).frames = f :: r → checkBranch o f e.bytes = none →
    taken (byteN e.bytes 24) (BitVec.ofNat 64 (leNat (plain (readWord o (param64 e.bytes 16) 8))) &&& param64 e.bytes 40) (param64 e.bytes 32) = false →
    exec (.branch st) s = .next (finish o (.stream st.val) .ok 0)) ∧
  (∀ (s : State) (st : Stream), (s.cp.streams.get st.val).polling = true →
    ∃ t, exec (.branchPollDelay st) s = .next t ∧
      t.cp.streams.get st.val = { s.cp.streams.get st.val with polling := false } ∧
      (∀ q, q ≠ st.val → t.cp.streams.get q = s.cp.streams.get q) ∧ t.mem = s.mem ∧ t.hq = s.hq ∧ t.tiles = s.tiles ∧ t.md = s.md) ∧
  (∀ (s o : State) (st : Stream) (e : NextEntry) (f : CFrame) (r : List CFrame), Enters s st 0x07 e o →
    (o.cp.streams.get st.val).frames = f :: r → checkLoop f e.bytes = none →
    exec (.loop st) s = .next (finishJump (updTop o st.val fun _ => (loopStep f (leAt e.bytes 16 4) (leAt e.bytes 20 4)).1)
      st.val (loopStep f (leAt e.bytes 16 4) (leAt e.bytes 20 4)).2)) ∧
  (∀ (f : CFrame) (count target : Nat) (l : LoopCtr), f.loops.find? (fun l => l.at_ = f.idx) = some l →
    (loopStep f count target).2 = if 0 < l.ctr then target else f.idx + 1) ∧
  (∀ (f : CFrame) (count target : Nat), f.loops.find? (fun l => l.at_ = f.idx) = none →
    (loopStep f count target).2 = if 1 < count then target else f.idx + 1) ∧
  (∀ (s o : State) (st : Stream) (e : NextEntry), Enters s st 0x08 e o → getJob o (.stream st.val) = some (newJob s e) → checkCall o e.depth e.bytes = none →
    ∃ t, exec (.call st) s = .next t ∧
      (t.cp.streams.get st.val).frames =
        ⟨entryAddrW e.bytes, entryLen e.bytes / 64, 0, [], newJob s e⟩ :: (o.cp.streams.get st.val).frames ∧
      getJob t (.stream st.val) = none ∧ t.mem = o.mem ∧ t.hq = o.hq ∧ t.tiles = o.tiles ∧ t.md = o.md) ∧
  (∀ (s o : State) (st : Stream) (e : NextEntry) (f : CFrame) (r : List CFrame), Enters s st 0x09 e o →
    (o.cp.streams.get st.val).frames = f :: r →
    exec (.ret st) s = .next (finishJump o st.val f.entries))

/-- DIGEST of unpoisoned data in MODE 0 ends with the SHA-256 of its bytes as its digest and status OK; in MODE 1 it notes DIGEST_MISMATCH
exactly when that digest differs from the 32 bytes of its entry. IDENTIFY and ATTEST write their structure at ADDR and complete with its
length; TELEMETRY writes its page cut to LEN. TIME_TAG stores its tag with the local beacon in the next of the 16 slots. -/
def Obligations.ReportsAreWritten : Prop :=
  (∀ (s o : State) (st : Stream) (e : NextEntry), Enters s st 0x0C e o → checkDigest o e.bytes = none →
    anyPois (readWord o (entryAddrW e.bytes) (entryLen e.bytes)) = false →
    exec (.digest st) s = .next (finishRanked (updJob o (.stream st.val) fun b => { b with
      digest := some (sha256 (plain (readWord o (entryAddrW e.bytes) (entryLen e.bytes))))
      rowPois := false
      conds := b.conds ++ (if byteN e.bytes 16 = 1 ∧ sha256 (plain (readWord o (entryAddrW e.bytes) (entryLen e.bytes))) ≠ bytesAt e.bytes 24 32
        then [.digestMismatch] else []) }) (.stream st.val) 0)) ∧
  (∀ (s o : State) (st : Stream) (e : NextEntry), Enters s st 0x80 e o → checkReply o e.bytes 4096 65536 false = none →
    exec (.identify st) s = .next (finish (writeWord o (entryAddrW e.bytes) (identifyBytes o)) (.stream st.val) .ok 4096)) ∧
  (∀ s : State, (identifyBytes s).length = 4096) ∧
  (∀ (s o : State) (st : Stream) (e : NextEntry), Enters s st 0x81 e o → checkReply o e.bytes 8192 65536 false = none →
    exec (.attest st) s = .next (reply (.stream st.val) e.bytes (attestBytes o (bytesAt e.bytes 16 32) (entryLen e.bytes))
      o)) ∧
  (∀ (s : State) (nonce : Bytes) (len : Nat), nonce.length = 32 →
    bytesAt (attestBytes s nonce len) 24 32 = nonce ∧
    (attestBytes s nonce len).length = if 8192 + Config.certs.length ≤ len then 8192 + Config.certs.length else 8192) ∧
  (∀ (s o : State) (st : Stream) (e : NextEntry), Enters s st 0x8C e o → checkReply o e.bytes 64 65536 false = none →
    byteN e.bytes 16 = 0 →
    exec (.telemetry st) s = .next (reply (.stream st.val) e.bytes ((telPage0 o).take (entryLen e.bytes)) o)) ∧
  (∀ (s o : State) (st : Stream) (e : NextEntry), Enters s st 0x96 e o →
    exec (.timeTag st) s = .next (finish { o with pw := { o.pw with
      tt := o.pw.tt.set o.pw.ttNext ⟨param64 e.bytes 24, now o⟩, ttNext := (o.pw.ttNext + 1) % 16 } } (.stream st.val) .ok (now o)))

/-- A KERNEL with KIND 0 that passes the checks of R368 notes the digests of its image and argument block and launches the kernel. One with
KIND 1 that passes its checks becomes the last admission of its slot's queue. One with KIND 2 for a record without a sequence, which
nothing names, completes with OK. A KIND above 2 completes with LEN_RANGE. A kernel that maps a tile under a scrub, and a prefill while the
module drains for a DETACH_PREPARE, wait. -/
def Obligations.KernelCommandsStart : Prop :=
  (∀ (s o : State) (st : Stream) (e : NextEntry), Enters s st 0x01 e o → byteN e.bytes 16 = 0 → kernelWaits s e.bytes = false →
    checkKernel o e.bytes = none →
    exec (.kernel st) s = .next (startKernel (.stream st.val) e.bytes (imageOf o e.bytes)
      (noteKernel (.stream st.val) e.bytes o))) ∧
  (∀ (s o : State) (st : Stream) (e : NextEntry), Enters s st 0x01 e o → getJob o (.stream st.val) = some (newJob s e) → byteN e.bytes 16 = 1 →
    leaving s = false → checkPrefill o e.bytes = none →
    ∃ t b, exec (.kernel st) s = .next t ∧ getJob t (.stream st.val) = some b ∧ b.body = .prefill (pRec e.bytes) ∧ t.mem = o.mem ∧
      (t.md.slots.get (pSlot e.bytes)).admits = (o.md.slots.get (pSlot e.bytes)).admits ++
        [⟨.stream st.val, pRec e.bytes, entryAddrW e.bytes, pLen e.bytes⟩] ∧
      (∀ k, k ≠ pSlot e.bytes → t.md.slots.get k = o.md.slots.get k) ∧ t.md.seqs = o.md.seqs) ∧
  (∀ (s o : State) (st : Stream) (e : NextEntry), Enters s st 0x01 e o → byteN e.bytes 16 = 2 → checkRelease o e.bytes = none →
    seqOf o (pRec e.bytes) = none → recordBusy (setBody o (.stream st.val) (.release (pRec e.bytes))) (pRec e.bytes) = false →
    o.lk.twinWaits = [] →
    exec (.kernel st) s = .next (finish (setBody o (.stream st.val) (.release (pRec e.bytes))) (.stream st.val) .ok 0)) ∧
  (∀ (s o : State) (st : Stream) (e : NextEntry), Enters s st 0x01 e o → 2 < byteN e.bytes 16 →
    exec (.kernel st) s = .next (finish o (.stream st.val) .lenRange 0)) ∧
  (∀ (s : State) (st : Stream) (e : NextEntry), nextEntry s st.val = some e →
    (kernelWaits s e.bytes = true ∨ (leaving s = true ∧ entryOpc e.bytes = 0x01 ∧ byteN e.bytes 16 = 1)) → exec (.kernel st) s = .next s)

/-- A GRAPH that passes its checks holds its version with every node waiting, and tells the other modules that it names. A node whose
predecessors have completed with OK starts as the command that its entry is, while fewer than 64 run and none has failed; one that is not
ready does not start. A launch message for a graph held here with an equal digest whose nodes pass their checks is held as a launch of
the other module; one for a graph that is not held, or with another digest, is answered with NOT_READY, and any one while two dies are out of
service with DIE_RETIRED. No node of such a launch runs before every
module has found its checks in order, and none after one has failed. A completion token marks the node that it reports, whose own completion
is written on the launching module; the last good answer starts the nodes everywhere and a bad one ends the launch. -/
def Obligations.GraphLaunches : Prop :=
  (∀ (s o : State) (st : Stream) (e : NextEntry) (v : GVersion), Enters s st 0x02 e o → getJob o (.stream st.val) = some (newJob s e) → checkGraph o e.bytes = none →
    versionOf o (gId e.bytes) (gVer e.bytes) = some v →
    launchModules (launchNodes v.image (dataOf o e.bytes) (leAt e.bytes 0 4) (selfModule o) (selfModule o)) = [] →
    ∃ t b, exec (.graph st) s = .next t ∧ getJob t (.stream st.val) = some b ∧
      b.body = .graph { id := gId e.bytes, version := v.num, failed := [], firstFail := none
                        nodes := launchNodes v.image (dataOf o e.bytes) (leAt e.bytes 0 4) (selfModule o) (selfModule o) } ∧
      b.program = v.digest ∧ b.input = sha256 (dataOf o e.bytes) ∧ t.mem = o.mem ∧ t.tiles = o.tiles ∧ t.lk = o.lk) ∧
  (∀ (m args : Bytes) (h l k : Nat), ∀ n ∈ launchNodes m args h l k, n.phase = .waiting) ∧
  (∀ (s : State) (st : Stream) (n : Nat) (de : Fin 16) (ch : Chan) (b : Job) (g : GraphRun) (x : GNode), n < 4096 →
    getJob s (.stream st.val) = some b → b.body = .graph g → g.nodes[n]? = some x → nodeReady g.nodes n = true → g.failed = [] → g.asked = [] →
    nodeBlocked s x.entry de.val ch.val = false →
    exec (.graphNodeStart st n de ch) s = .next (startNode (.node st.val n) { bareJob x.entry with sqIdx := b.sqIdx, depth := b.depth, frames := b.frames }
      x.entry de.val ch.val (putJob s (.stream st.val) { b with body := .graph { g with nodes := markRunning g.nodes n } }))) ∧
  (∀ (s : State) (st : Stream) (n : Nat) (de : Fin 16) (ch : Chan) (b : Job) (g : GraphRun), n < 4096 →
    getJob s (.stream st.val) = some b → b.body = .graph g → (nodeReady g.nodes n = false ∨ g.failed ≠ [] ∨ g.asked ≠ []) →
    exec (.graphNodeStart st n de ch) s = .next s) ∧
  (∀ (s : State) (src : Fin 512) (h : W32) (id ver : BitVec 16) (args : Bytes) (v : GVersion), stopped s = false →
    versionOf s id.toNat ver.toNat = some v → args.length = gArgMax v.image →
    checkNodes s (launchNodes v.image args h.toNat src.val (selfModule s)) = none →
    ∃ r, exec (.graphLaunchMessage src h id ver v.digest args) s =
        .next (answerLaunch { s with cp := { s.cp with remotes := s.cp.remotes.set (freeRemote s) (some r) } } src.val h id ver .ok) ∧
      r = ⟨src.val, rfld (h.setWidth 64) 11 8, id.toNat, v.num, launchNodes v.image args h.toNat src.val (selfModule s), [], false, false⟩) ∧
  (∀ (s : State) (src : Fin 512) (h : W32) (id ver : BitVec 16) (digest args : Bytes), stopped s = true →
    exec (.graphLaunchMessage src h id ver digest args) s = .next (answerLaunch s src.val h id ver .dieRetired)) ∧
  (∀ (s : State) (src : Fin 512) (h : W32) (id ver : BitVec 16) (digest args : Bytes), stopped s = false →
    (∀ v, versionOf s id.toNat ver.toNat = some v → v.digest ≠ digest) →
    exec (.graphLaunchMessage src h id ver digest args) s = .next (answerLaunch s src.val h id ver .notReady)) ∧
  (∀ (s : State) (st k n : Nat) (de ch : Nat) (l : RemoteLaunch), s.cp.remotes.get k = some l → (l.go = false ∨ l.halted = true) →
    startRemote s k n de ch = s) ∧
  (∀ (s : State) (src launcher : Fin 512) (st : Stream) (id : BitVec 16) (edge : Nat) (r : NodeReport) (b : Job) (g : GraphRun),
    launcher.val = selfModule s → ownLaunch s st.val id.toNat = some (b, g) → awaits g.nodes src.val (tokenNode s id.toNat g.version edge) = true →
    tokenNode s id.toNat g.version edge < 4096 →
    exec (.completionToken src launcher st id edge r) s =
      .next (settleOwn (farCompletion s st.val (tokenNode s id.toNat g.version edge) b g .ok r) st.val b
        (graphMark g (tokenNode s id.toNat g.version edge) .ok))) ∧
  (∀ (s : State) (st src : Nat) (b : Job) (g : GraphRun) (x : Status), g.asked = [src] →
    answerOwn s st b g src x = if x = .ok
      then tellFar (putJob s (.stream st) { b with body := .graph { g with asked := [] } }) st { g with asked := [] } (farModules g.nodes) .ok
      else finish s (.stream st) x 0) ∧
  (∀ (s : State) (st n : Nat) (b : Job) (g : GraphRun) (x : Status) (r : NodeReport), x ≠ .ok → g.failed = [] →
    tokenOwn s st b g n x r = settleOwn (tellFar (farCompletion s st n b g x r) st (graphMark g n x) (farModules (graphMark g n x).nodes) .busy) st b
      { graphMark g n x with stopping := farModules (graphMark g n x).nodes })

/-- A DMA whose channel has room puts its descriptor at the TAIL of the channel, owned by the command; while the ring is full the command
waits. A DECODE_LOOP that passes its checks is a running loop of its record, with OUT_POS restarted at 0. A BARRIER on an enabled barrier
that takes its entry waits there, and one on a disabled barrier completes with NOT_READY. -/
def Obligations.DmaDecodeLoopAndBarrierStart : Prop :=
  (∀ (s o : State) (st : Stream) (de : Fin 16) (ch : Chan) (e : NextEntry), Enters s st 0x03 e o → getJob o (.stream st.val) = some (newJob s e) →
    chanQueued (chanOf s (dmaEngine s e.bytes de.val) ch.val) < 32 → checkDmaCmd o e.bytes (dmaEngine o e.bytes de.val) = none →
    ∃ t b, exec (.dma st de ch) s = .next t ∧ getJob t (.stream st.val) = some b ∧ b.body = .dma (dmaEngine o e.bytes de.val) ch.val ∧
      chanOf t (dmaEngine o e.bytes de.val) ch.val =
        putDesc (chanOf o (dmaEngine o e.bytes de.val) ch.val) (some (.stream st.val)) (dmaEntryDesc e.bytes) false ∧ t.mem = o.mem ∧ t.hq = o.hq) ∧
  (∀ (s : State) (st : Stream) (de : Fin 16) (ch : Chan) (e : NextEntry), nextEntry s st.val = some e → entryOpc e.bytes = 0x03 →
    32 ≤ chanQueued (chanOf s (dmaEngine s e.bytes de.val) ch.val) → exec (.dma st de ch) s = .next s) ∧
  (∀ (s o : State) (st : Stream) (e : NextEntry) (q : Seq), Enters s st 0x0D e o → getJob o (.stream st.val) = some (newJob s e) → checkDecode o e.bytes = none →
    seqOf o (entryAddrW e.bytes) = some q → mirrors o = false →
    ∃ t b, exec (.decodeLoop st) s = .next t ∧ getJob t (.stream st.val) = some b ∧ b.body = .decode (entryAddrW e.bytes) ∧
      t.mem = (putRec o (entryAddrW e.bytes) 44 (leBytes 4 0)).mem ∧
      ∃ l, t.md.loops = o.md.loops ++ [l] ∧ l.ra = entryAddrW e.bytes ∧ l.job = .stream st.val ∧ l.running = false ∧ l.lastBeacon = now o) ∧
  (∀ (s o : State) (st : Stream) (e : NextEntry), Enters s st 0x0A e o → getJob o (.stream st.val) = some (newJob s e) → byteN e.bytes 16 = 0 → byteN e.bytes 17 < 32 →
    (barOf o false (byteN e.bytes 17)).en = true → (placeEntry (barOf o false (byteN e.bytes 17)) (.job (.stream st.val))).2 = false →
    ∃ t b, exec (.barrier st) s = .next t ∧ getJob t (.stream st.val) = some b ∧ b.body = .barrier false (byteN e.bytes 17) ∧
      barOf t false (byteN e.bytes 17) = (placeEntry (barOf o false (byteN e.bytes 17)) (.job (.stream st.val))).1 ∧ t.mem = o.mem ∧ t.tiles = o.tiles) ∧
  (∀ (s o : State) (st : Stream) (e : NextEntry), Enters s st 0x0A e o → byteN e.bytes 16 ≤ 1 →
    byteN e.bytes 17 ≤ (if byteN e.bytes 16 = 0 then 31 else 63) → (barOf o (decide (byteN e.bytes 16 = 1)) (byteN e.bytes 17)).en = false →
    exec (.barrier st) s = .next (finish o (.stream st.val) .notReady 0))

/-- SCRUB OP 1 and 2 switch kill scrubbing off and on; OP 0 with no tile in service completes at once, and with tiles waits for their
scrubs; the end of a tile's scrub clears the tile's scrub mark, serves the remote accesses that it kept waiting and completes the SCRUB that
waited for it alone. FAULT_POLICY sets its
bucket's policy. HOST_TIER_MAP sets its window. POWER_POLICY sets cap and borrowing and answers the cap in force. CLOCK_PIN waits for the
pass boundary. RETIRE takes its channel out of service and completes, or completes with BUSY beside another exclusive command.
RING_CONFIG with OP 0 writes its report. WSET_SWITCH to the generation that serves completes at once, and to another joins the slot's
switches. -/
def Obligations.SettingsCommandsComplete : Prop :=
  (∀ (s o : State) (st : Stream) (e : NextEntry), Enters s st 0x8E e o → (byteN e.bytes 16 = 1 ∨ byteN e.bytes 16 = 2) →
    exec (.scrub st) s = .next (finish { o with hq := { o.hq with kscrub := decide (byteN e.bytes 16 = 2) } } (.stream st.val) .ok 0)) ∧
  (∀ (s o : State) (st : Stream) (e : NextEntry), Enters s st 0x8E e o → byteN e.bytes 16 = 0 →
    exec (.scrub st) s = .next (
      if maskTiles o (leAt e.bytes 20 4) (leAt e.bytes 24 4) = [] then finish o (.stream st.val) .ok 0
      else (maskTiles o (leAt e.bytes 20 4) (leAt e.bytes 24 4)).foldl scrubTile (setBody o (.stream st.val)
        (.ctl (.scrubTiles (maskTiles o (leAt e.bytes 20 4) (leAt e.bytes 24 4))))))) ∧
  (∀ (s : State) (t : TileNo), s.cp.jobs = [] → s.mem.ecc = [] →
    exec (.scrubDone t) s = .next ((s.tiles.get t.val).waiting.foldl (fun s a => serveAccess s (tileKey t.val a.addr) a)
      (updTile s t.val fun x => { x with scrubBusy := false, waiting := [] }))) ∧
  (∀ (s : State) (t : TileNo) (j : JobRef) (b : Job), s.cp.jobs = [(j, b)] → b.body = .ctl (.scrubTiles [t.val]) → (s.tiles.get t.val).waiting = [] →
    exec (.scrubDone t) s = .next (finish (updTile s t.val fun x => { x with scrubBusy := false, waiting := [] }) j .ok 1)) ∧
  (∀ (s o : State) (st : Stream) (e : NextEntry), Enters s st 0x97 e o → policyBad e.bytes = false →
    ∃ f : Faults, exec (.faultPolicy st) s = .next (finish { o with flt := f } (.stream st.val) .ok 0) ∧
      f.policies.get (2 * rfld (param64 e.bytes 16) 63 56 + fld (byteN e.bytes 32) 7 7) =
        some ⟨leAt e.bytes 24 4, leAt e.bytes 28 4, fld (byteN e.bytes 32) 2 0⟩ ∧
      (∀ k, k ≠ 2 * rfld (param64 e.bytes 16) 63 56 + fld (byteN e.bytes 32) 7 7 → f.policies.get k = o.flt.policies.get k) ∧
      f.ring = o.flt.ring ∧ f.flash = o.flt.flash) ∧
  (∀ (s o : State) (st : Stream) (e : NextEntry), Enters s st 0x95 e o → checkTierMap o e.bytes = none →
    (param64 e.bytes 24).toNat ≠ 0 →
    exec (.hostTierMap st) s = .next (finish (setTier o (byteN e.bytes 16)
      { mapped := true, host := BitVec.ofNat 64 (hostF (entryAddrW e.bytes)), len := (param64 e.bytes 24).toNat
        off := (param64 e.bytes 32).toNat, use_ := byteN e.bytes 17 }) (.stream st.val) .ok 0)) ∧
  (∀ (s o : State) (st : Stream) (e : NextEntry), Enters s st 0x8A e o → 1200 ≤ leAt e.bytes 16 2 → leAt e.bytes 16 2 ≤ 3200 → byteN e.bytes 18 ≤ 2 →
    ∃ t, exec (.powerPolicy st) s = .next (finish t (.stream st.val) .ok (BitVec.ofNat 64 t.pw.cap)) ∧
      t.pw.policyCap = leAt e.bytes 16 2 ∧ (byteN e.bytes 18 ≠ 2 → t.pw.borrow = decide (byteN e.bytes 18 = 1)) ∧
      (t.pw.coolIn.toNat ≤ 400 → t.pw.cap = leAt e.bytes 16 2)) ∧
  (∀ (s o : State) (st : Stream) (e : NextEntry), Enters s st 0x8B e o → getJob o (.stream st.val) = some (newJob s e) → (byteN e.bytes 16 ≤ 3 ∧ byteN e.bytes 17 ≤ 1) ∨ (byteN e.bytes 16 = 0xFF ∧ byteN e.bytes 17 = 0) →
    ∃ t b, exec (.clockPin st) s = .next t ∧ getJob t (.stream st.val) = some b ∧ b.body = .ctl .clock ∧
      t.pw.clockPend = o.pw.clockPend ++ [(byteN e.bytes 16, decide (byteN e.bytes 17 = 1), .stream st.val)] ∧
      t.pw.step = o.pw.step ∧ t.pw.repro = o.pw.repro ∧ t.mem = o.mem) ∧
  (∀ (s o : State) (st : Stream) (e : NextEntry), Enters s st 0x8D e o → chanOk (param64 e.bytes 16) = true →
    exclusiveRuns o (.stream st.val) = false →
    exec (.retire st) s = .next (finish (retireChannel o (param64 e.bytes 16)) (.stream st.val) .ok 0)) ∧
  (∀ (s o : State) (st : Stream) (e : NextEntry), Enters s st 0x8D e o → chanOk (param64 e.bytes 16) = true →
    exclusiveRuns o (.stream st.val) = true →
    exec (.retire st) s = .next (finish o (.stream st.val) .busy 0)) ∧
  (∀ (s o : State) (st : Stream) (e : NextEntry), Enters s st 0x87 e o → checkRingConfig o e.bytes = none → byteN e.bytes 16 = 0 →
    exec (.ringConfig st) s = .next (finish (writeWord o (entryAddrW e.bytes) (bytesAt (ringReport o) 0 (entryLen e.bytes)))
      (.stream st.val) .ok 0)) ∧
  (∀ (s o : State) (st : Stream) (e : NextEntry), Enters s st 0x85 e o → checkSwitch o e.bytes = none →
    (o.md.slots.get (byteN e.bytes 16)).serving = some (BitVec.ofNat 16 (leAt e.bytes 18 2)) →
    exec (.wsetSwitch st) s = .next (finish o (.stream st.val) .ok 0)) ∧
  (∀ (s o : State) (st : Stream) (e : NextEntry), Enters s st 0x85 e o → checkSwitch o e.bytes = none →
    (o.md.slots.get (byteN e.bytes 16)).serving ≠ some (BitVec.ofNat 16 (leAt e.bytes 18 2)) →
    ∃ t, exec (.wsetSwitch st) s = .next t ∧ t.mem = o.mem ∧
      (t.md.slots.get (byteN e.bytes 16)).serving = (o.md.slots.get (byteN e.bytes 16)).serving ∧
      (t.md.slots.get (byteN e.bytes 16)).switches = (o.md.slots.get (byteN e.bytes 16)).switches ++
        [⟨BitVec.ofNat 16 (leAt e.bytes 18 2), byteN e.bytes 20, .stream st.val⟩])

/-- GRAPH_STORE of a valid image stores it with its SHA-256 as version 1 of the lowest free graph. GRAPH_PATCH of a stored version, whose
records apply to a valid image, stores the new version. FW_UPDATE of a verified image commits it while the flash is open. RESET level 1
completes with OK and then resets the compute complex; level 0 or above 4 completes with LEN_RANGE. DETACH_PREPARE begins to drain.
MODE_REQUEST for AUTO, or for the mode that the slot runs in, completes at once; for another it asks for a mode epoch. -/
def Obligations.UpdatesAndResetsByCommand : Prop :=
  (∀ (s o : State) (st : Stream) (e : NextEntry) (id : Nat), Enters s st 0x92 e o → checkStoreHead o e.bytes = none →
    checkGImage (dataOf o e.bytes) = none → freeGraph o = some id →
    exec (.graphStore st) s = .next (finish (setGraph o id
      { versions := [⟨1, dataOf o e.bytes, sha256 (dataOf o e.bytes)⟩] }) (.stream st.val) .ok (BitVec.ofNat 64 (id + 0x10000)))) ∧
  (∀ (s o : State) (st : Stream) (e : NextEntry) (l : List (Bytes × Bytes)) (v : GVersion) (p : GParts), Enters s st 0x93 e o →
    checkPatchHead o e.bytes = none → patchOf (dataOf o e.bytes) = some l → exactVersion o (gId e.bytes) (gVer e.bytes) = some v →
    isDelete l = false → patchAll (partsOf v.image) l = some p → checkGImage (imageFrom p) = none →
    exec (.graphPatch st) s = .next (storeVersion (.stream st.val) (gId e.bytes) (imageFrom p) o)) ∧
  (∀ (s o : State) (st : Stream) (e : NextEntry), Enters s st 0x8F e o → checkFwUpdate o e.bytes = none →
    exclusiveRuns o (.stream st.val) = false → checkFwImage o (dataOf o e.bytes) = none → flashOpen o = true →
    exec (.fwUpdate st false) s = .next (finish { o with boot := { o.boot with image := dataOf o e.bytes, committed := true } }
      (.stream st.val) .ok 0) ∧
    exec (.fwUpdate st true) s = .next (finish { o with boot := { o.boot with image := dataOf o e.bytes, committed := false } }
      (.stream st.val) .notReady 0)) ∧
  (∀ (s o : State) (st : Stream) (e : NextEntry), Enters s st 0x90 e o → byteN e.bytes 16 = 1 →
    exclusiveRuns o (.stream st.val) = false → resetRefused (finish o (.stream st.val) .ok 0) 1 = false →
    exec (.reset st) s = .next (resetLevel1 (finish o (.stream st.val) .ok 0) 3)) ∧
  (∀ (s o : State) (st : Stream) (e : NextEntry), Enters s st 0x90 e o → (byteN e.bytes 16 = 0 ∨ 4 < byteN e.bytes 16) →
    exec (.reset st) s = .next (finish o (.stream st.val) .lenRange 0)) ∧
  (∀ (s o : State) (st : Stream) (e : NextEntry), Enters s st 0x91 e o → getJob o (.stream st.val) = some (newJob s e) → exclusiveRuns o (.stream st.val) = false →
    o.md.pass.running = true →
    ∃ t b, exec (.detachPrepare st) s = .next t ∧ getJob t (.stream st.val) = some b ∧ b.body = .ctl .detach ∧ t.lk.twin = .detaching ∧
      t.lk.handing = decide (o.lk.twin = .mirror) ∧ t.mem = o.mem) ∧
  (∀ (s o : State) (st : Stream) (e : NextEntry), Enters s st 0x86 e o → checkMode o e.bytes = none → byteN e.bytes 17 = 0 →
    exec (.modeRequest st) s = .next (finish (updSlot o (byteN e.bytes 16) fun x => { x with pin := 0 }) (.stream st.val) .ok 0)) ∧
  (∀ (s o : State) (st : Stream) (e : NextEntry), Enters s st 0x86 e o → checkMode o e.bytes = none →
    (o.md.slots.get (byteN e.bytes 16)).mode = byteN e.bytes 17 → slotRequested o (byteN e.bytes 16) = false →
    (o.md.slots.get (byteN e.bytes 16)).settling = false →
    exec (.modeRequest st) s = .next (finish (updSlot o (byteN e.bytes 16) fun x => { x with pin := byteN e.bytes 17 }) (.stream st.val) .ok 0)) ∧
  (∀ (s o : State) (st : Stream) (e : NextEntry), Enters s st 0x86 e o → checkMode o e.bytes = none → byteN e.bytes 17 ≠ 0 →
    ((o.md.slots.get (byteN e.bytes 16)).mode ≠ byteN e.bytes 17 ∨ slotRequested o (byteN e.bytes 16) = true) →
    exec (.modeRequest st) s = .next (askEpoch (setBody o (.stream st.val) (.ctl (.mode (byteN e.bytes 16) (byteN e.bytes 17))))
      (.mode (byteN e.bytes 16) (byteN e.bytes 17) (some (.stream st.val)))))

/-- A CASCADE_JOIN that passes its checks takes the wiring, the pattern and the expectations of its entry and waits for the light list to
settle (with no link UP or HELD to check again, nothing in memory changes); when it has, the module is joined and the command completes with the ports in service. A TWIN_PAIR of ACTION 0 completes at once in
MIRROR, and one of ACTION 1 outside a pair completes with nothing changed; one that fails a check completes with its status. A TWIN_PAIR
that waits for the partner's times out. -/
def Obligations.CascadeJoinAndTwinPair : Prop :=
  (∀ (s o : State) (st : Stream) (e : NextEntry), Enters s st 0x88 e o → getJob o (.stream st.val) = some (newJob s e) → exclusiveRuns o (.stream st.val) = false →
    checkJoin o e.bytes = none →
    ∃ t, exec (.cascadeJoin st) s = .next t ∧ t.lk.joining = true ∧
      t.lk.pattern = jPattern e.bytes ∧ t.lk.wiring = decide (jWiring e.bytes = 1) ∧
      ((∀ n, n < 24 → (o.lk.links.get n).st ≠ 3 ∧ (o.lk.links.get n).st ≠ 4) →
        ∃ b, getJob t (.stream st.val) = some b ∧ b.body = .ctl .join ∧ t.mem = o.mem)) ∧
  (∀ (s : State) (p : JobRef × Job), (s.cp.jobs.find? fun p => match p.2.body with | .ctl .join => true | _ => false) = some p →
    exec .cascadeJoinSettled s = .next (finish { s with lk := { s.lk with joining := false, joined := true } } p.1 (joinStatus s)
      (BitVec.ofNat 64 (portsUp s).length))) ∧
  (∀ (s o : State) (st : Stream) (p : PartnerReport) (e : NextEntry), Enters s st 0x89 e o → byteN e.bytes 16 = 0 →
    exclusiveRuns o (.stream st.val) = false → o.lk.twin = .mirror →
    exec (.twinPair st p) s = .next (finish o (.stream st.val) .ok 0)) ∧
  (∀ (s o : State) (st : Stream) (p : PartnerReport) (e : NextEntry), Enters s st 0x89 e o → getJob o (.stream st.val) = some (newJob s e) → byteN e.bytes 16 = 0 →
    exclusiveRuns o (.stream st.val) = false → o.lk.twin = .unpaired → checkPair o p = none → o.lk.partnerPair = false →
    ∃ t b, exec (.twinPair st p) s = .next t ∧ getJob t (.stream st.val) = some b ∧ b.body = .ctl .pair ∧
      t.lk.pairJob = some (.stream st.val) ∧ t.lk.twin = .unpaired ∧ t.mem = o.mem) ∧
  (∀ (s o : State) (st : Stream) (p : PartnerReport) (e : NextEntry) (x : Status), Enters s st 0x89 e o → byteN e.bytes 16 = 0 →
    exclusiveRuns o (.stream st.val) = false → o.lk.twin = .unpaired → checkPair o p = some x →
    exec (.twinPair st p) s = .next (finish o (.stream st.val) x 0)) ∧
  (∀ (s o : State) (st : Stream) (p : PartnerReport) (e : NextEntry), Enters s st 0x89 e o → byteN e.bytes 16 = 1 →
    exclusiveRuns o (.stream st.val) = false → o.lk.twin = .unpaired →
    exec (.twinPair st p) s = .next (finish o (.stream st.val) .ok 0)) ∧
  (∀ (s : State) (j : JobRef), s.lk.pairJob = some j → s.lk.twin = .unpaired →
    exec .twinPairTimeout s = .next (finish { s with lk := { s.lk with pairJob := none } } j .timeout 0))

/-- BUNDLE_BEGIN opens the next session in its slot and answers its number; BUNDLE_CHUNK adds its bytes at its offset; BUNDLE_COMMIT of a
complete session whose signature and digests verify adds a generation numbered one above the newest and answers it, and one of a session
that does not verify, or is not complete, ends with its status. On a member of a cascade load a matching COMMIT adds the generation that the
master numbered, unless two live there already, and the master notes a member's report. A slot's first generation puts the slot in moored mode. DELTA_LOAD of a clean source adds a delta generation to its target, and one whose source is rewritten between its two passes so that the
digests differ ends with DIGEST_MISMATCH and adds none. (These clauses
are of a module outside a sharing pattern, but for the member's.) -/
def Obligations.BundleAndDeltaLoads : Prop :=
  (∀ (s o : State) (st : Stream) (e : NextEntry), Enters s st 0x82 e o → checkBegin o e.bytes = none → patternShares o = false →
    ∃ t x, exec (.bundleBegin st) s = .next (finish t (.stream st.val) .ok (BitVec.ofNat 64 o.md.nextSession.toNat)) ∧
      sessionOf t (bSlot e.bytes) = some x ∧ x.num = o.md.nextSession ∧ x.manifest = dataOf o e.bytes ∧ x.total = bTotal e.bytes ∧ x.chunks = [] ∧
      t.md.nextSession = o.md.nextSession + 1 ∧ t.mem = o.mem ∧ (∀ k, k ≠ bSlot e.bytes → t.md.slots.get k = o.md.slots.get k)) ∧
  (∀ (s o : State) (st : Stream) (e : NextEntry) (k : Nat) (x : Session), Enters s st 0x83 e o → checkChunk o e.bytes = none →
    patternShares o = false → sessionSlot o (bSession e.bytes) = some k → sessionOf o k = some x →
    exec (.bundleChunk st) s = .next (finish (setSession o k
      (some { x with chunks := x.chunks ++ [(bOffset e.bytes, dataOf o e.bytes)] })) (.stream st.val) .ok (BitVec.ofNat 64 (dataOf o e.bytes).length))) ∧
  (∀ (s o : State) (st : Stream) (e : NextEntry) (k : Nat) (x : Session), Enters s st 0x84 e o → notMaster o = false → patternShares o = false →
    sessionSlot o (bSession e.bytes) = some k → sessionOf o k = some x → x.total ≤ x.have_ → verdict o x = .ready → x.restores = none →
    exec (.bundleCommit st) s = .next (finish (setSession (addGen o k (bundleGen o ((o.md.slots.get k).newest + 1) x)) k none)
      (.stream st.val) .ok (BitVec.ofNat 64 ((o.md.slots.get k).newest + 1).toNat))) ∧
  (∀ (s o : State) (st : Stream) (e : NextEntry) (k : Nat) (x : Session), Enters s st 0x84 e o → notMaster o = false →
    sessionSlot o (bSession e.bytes) = some k → sessionOf o k = some x →
    (x.have_ < x.total → exec (.bundleCommit st) s = .next (finish o (.stream st.val) .notReady 0)) ∧
    (x.total ≤ x.have_ → verdict o x = .sigFail →
      exec (.bundleCommit st) s = .next (finish (setSession o k none) (.stream st.val) .sigFail 0)) ∧
    (x.total ≤ x.have_ → verdict o x = .digestMismatch →
      exec (.bundleCommit st) s = .next (finish (setSession o k none) (.stream st.val) .digestMismatch 0))) ∧
  (∀ (s : State) (m : Fin 16) (k : Fin 8) (r : MemberResult) (x : Session), patternShares s = true → notMaster s = false →
    sessionOf s k.val = some x → waitingLoad s k.val = none →
    ∃ t y, exec (.bundleMemberReport m k r) s = .next t ∧ sessionOf t k.val = some y ∧
      y.reports = x.reports.filter (fun p => p.1 ≠ 16 * s.pins.group.toNat + m.val) ++ [(16 * s.pins.group.toNat + m.val, r)] ∧
      y.chunks = x.chunks ∧ t.mem = s.mem ∧ t.cp = s.cp) ∧
  (∀ (s : State) (k : Fin 8) (g : BitVec 16) (x : Session), notMaster s = true → sessionOf s k.val = some x →
    exec (.bundleMemberCommit k g (sha256 x.manifest)) s = .next (setSession
      (if (s.md.slots.get k.val).gens.length < 2 then addGen (closeLoadWins s x) k.val (bundleGen (closeLoadWins s x) g x) else closeLoadWins s x) k.val none)) ∧
  (∀ (s : State) (k : Nat) (g : Gen),
    ((addGen s k g).md.slots.get k).gens.map (fun x => (x.num, x.info, x.gendig, x.refs, x.base, x.bytes, x.delta)) =
      ((s.md.slots.get k).gens ++ [g]).map (fun x => (x.num, x.info, x.gendig, x.refs, x.base, x.bytes, x.delta)) ∧
    ((addGen s k g).md.slots.get k).newest = g.num ∧ ((addGen s k g).md.slots.get k).serving = (s.md.slots.get k).serving ∧
    ((s.md.slots.get k).gens = [] → ((addGen s k g).md.slots.get k).mode = 2)) ∧
  (∀ (s o : State) (st : Stream) (e : NextEntry) (g : Gen), Enters s st 0x94 e o → checkDelta o e.bytes = none →
    genOf o (dBase e.bytes) (dBaseGen e.bytes) = some g → anyPois (readWord o (dSource e.bytes) (dSourceLen e.bytes)) = false →
    anyNonFinite g (plain (readWord o (dSource e.bytes) (dSourceLen e.bytes))) (srcTensors (dataOf o e.bytes)) = false →
    ∃ t n, exec (.deltaLoad st none) s = .next (finish t (.stream st.val) .ok (deltaResult n)) ∧ n.base = some (dBase e.bytes, dBaseGen e.bytes) ∧
      n.num = (o.md.slots.get (dTarget e.bytes)).newest + 1 ∧
      n.delta = (srcTensors (dataOf o e.bytes)).map (deltaTensor g (plain (readWord o (dSource e.bytes) (dSourceLen e.bytes)))) ∧
      ((t.md.slots.get (dTarget e.bytes)).gens.map fun x => (x.num, x.base, x.bytes, x.delta)) =
        ((o.md.slots.get (dTarget e.bytes)).gens ++ [n]).map (fun x => (x.num, x.base, x.bytes, x.delta))) ∧
  (∀ (s o : State) (st : Stream) (e : NextEntry) (g : Gen) (w : Option (Nat × Bytes)), Enters s st 0x94 e o → checkDelta o e.bytes = none →
    genOf o (dBase e.bytes) (dBaseGen e.bytes) = some g → anyPois (readWord o (dSource e.bytes) (dSourceLen e.bytes)) = false →
    anyNonFinite g (plain (readWord o (dSource e.bytes) (dSourceLen e.bytes))) (srcTensors (dataOf o e.bytes)) = false →
    anyPois (readWord (rewriteSource { o with free := o.free + 1 } e.bytes w) (dSource e.bytes) (dSourceLen e.bytes)) = false →
    anyNonFinite g (plain (readWord (rewriteSource { o with free := o.free + 1 } e.bytes w) (dSource e.bytes) (dSourceLen e.bytes))) (srcTensors (dataOf o e.bytes)) = false →
    sha256 (plain (readWord o (dSource e.bytes) (dSourceLen e.bytes))) ≠
      sha256 (plain (readWord (rewriteSource { o with free := o.free + 1 } e.bytes w) (dSource e.bytes) (dSourceLen e.bytes))) →
    exec (.deltaLoad st w) s = .next (finish (rewriteSource { o with free := o.free + 1 } e.bytes w) (.stream st.val) .digestMismatch 0))

/-- An enable with a handle whose buffer is mapped and large enough sets Q_EN and the handle; with any other handle it records cause 0x0D
and Q_EN stays 0. A TAIL that leaves at most 256 TODs queued is taken, and one that would leave more is refused with cause 0x0B. A fetch by
an enabled tile with room in its window takes the 32 bytes at HEAD into the last place of the window and advances HEAD. Memory and the other
tiles stay as they are. -/
def Obligations.TileQueueSupplies : Prop :=
  (∀ (s : State) (t : TileNo) (h : Fin 64), dieBlockOn s (t.val / 32) = true → (s.tiles.get t.val).qEn = false → queueOk s t.val h.val = true →
    ∃ u, exec (.tileQueueEnable t h) s = .next u ∧
      u.tiles.get t.val = { s.tiles.get t.val with qHandle := BitVec.ofNat 6 h.val, qEn := true } ∧
      (∀ v, v ≠ t.val → u.tiles.get v = s.tiles.get v) ∧ u.mem = s.mem ∧ u.cp = s.cp ∧ u.evr = s.evr) ∧
  (∀ (s : State) (t : TileNo) (h : Fin 64), dieBlockOn s (t.val / 32) = true → (s.tiles.get t.val).qEn = false → queueOk s t.val h.val = false →
    ∃ u, exec (.tileQueueEnable t h) s = .next u ∧ (u.tiles.get t.val).qEn = false ∧
      (u.tiles.get t.val).ctxs.get 0 = faultCtx ((s.tiles.get t.val).ctxs.get 0) 0x0D 0 0 ∧ u.mem = s.mem) ∧
  (∀ (s : State) (t : TileNo) (tail : BitVec 9), dieBlockOn s (t.val / 32) = true → (tail - (s.tiles.get t.val).head).toNat ≤ 256 →
    ∃ u, exec (.tileQueueTail t tail) s = .next u ∧ (u.tiles.get t.val).tail = tail ∧ (u.tiles.get t.val).head = (s.tiles.get t.val).head ∧
      (u.tiles.get t.val).window = (s.tiles.get t.val).window ∧ (∀ v, v ≠ t.val → u.tiles.get v = s.tiles.get v) ∧ u.mem = s.mem) ∧
  (∀ (s : State) (t : TileNo) (tail : BitVec 9), dieBlockOn s (t.val / 32) = true → 256 < (tail - (s.tiles.get t.val).head).toNat →
    exec (.tileQueueTail t tail) s = .next (queueFault s t.val 0x0B 0) ∧
    (s.cp.jobs = [] → ((queueFault s t.val 0x0B 0).tiles.get t.val).tail = (s.tiles.get t.val).tail ∧
      ((queueFault s t.val 0x0B 0).tiles.get t.val).ctxs.get 0 = faultCtx ((s.tiles.get t.val).ctxs.get 0) 0x0B 0 0 ∧
      (queueFault s t.val 0x0B 0).mem = s.mem)) ∧
  (∀ (s : State) (t : TileNo), tileUp s t.val = true → (s.tiles.get t.val).qEn = true → (s.tiles.get t.val).scrubBusy = false →
    (s.tiles.get t.val).head ≠ (s.tiles.get t.val).tail → ((s.tiles.get t.val).window.filter fun w => !issued w).length < 16 →
    queueOk s t.val (s.tiles.get t.val).qHandle.toNat = true → (handleOf s t.val (s.tiles.get t.val).qHandle.toNat).guard = false →
    (s.tiles.get t.val).dropped.get ((s.tiles.get t.val).head.toNat % 256) = false → (∀ c, ((s.tiles.get t.val).ctxs.get c).halted = false) →
    s.mem.ecc = [] → s.cp.jobs = [] →
    ∃ u w, exec (.todFetch t) s = .next u ∧ (u.tiles.get t.val).window = (s.tiles.get t.val).window ++ [w] ∧
      (u.tiles.get t.val).head = (s.tiles.get t.val).head + 1 ∧ w.phase = .fetched ∧ w.ctx = wfld w.bytes 0 9 8 ∧
      w.bytes = plain (loadHandle s t.val (handleOf s t.val (s.tiles.get t.val).qHandle.toNat) (32 * ((s.tiles.get t.val).head.toNat % 256)) 32) ∧
      (∀ v, v ≠ t.val → u.tiles.get v = s.tiles.get v) ∧ u.mem.mod = s.mem.mod ∧ u.mem.pois = s.mem.pois ∧ u.mem.host = s.mem.host)

/-- An MMA, MMA_T or DIST whose turn it is, whose operands lie in buffers and which meets no unfilled line reads its level block and its
row-key table as it issues, and computes its outputs from the weights, activations, old results and levels that its operand words name.
Through a LINEAR view it holds them until TOD_COMPLETE, and no byte of memory changes; through any other they pass into the gather buffer. A
run with REUSE leaves the retained weights as they are. ASHIFT shifts the retained weights. No other tile, no semaphore, handle, window or
port of the tile, no model and no running command changes. -/
def Obligations.ArrayTodsCompute : Prop :=
  (∀ p ∈ [(0x10, Instr.mma), (0x11, Instr.mmaT), (0x12, Instr.dist)], ∀ (s : State) (t : TileNo) (n : Nat) (w : TodSlot),
    TodReady s t.val n p.1 w → BuffersReady s t.val (arrayReads p.1 w.bytes ((s.tiles.get t.val).ctxs.get w.ctx).key) → s.mem.ecc = [] →
    ∃ v x, todOf v t.val w.uid = some x ∧ x.phase = .computed ∧ v.mem = s.mem ∧ (∀ k, k ≠ t.val → v.tiles.get k = s.tiles.get k) ∧
      x.fills = linesOf ((arrayOuts p.1 s t.val (issuedTod s t.val w) (s.tiles.get t.val) w.wgot w.agot).map (·.1)) ∧
      (v.tiles.get t.val).sems = (s.tiles.get t.val).sems ∧ (v.tiles.get t.val).handles = (s.tiles.get t.val).handles ∧
      (v.tiles.get t.val).wins = (s.tiles.get t.val).wins ∧ (v.tiles.get t.val).ports = (s.tiles.get t.val).ports ∧
      (v.tiles.get t.val).gather = (s.tiles.get t.val).gather ∧
      ((arrayTod w.bytes).reuse = true → (v.tiles.get t.val).ret0 = (s.tiles.get t.val).ret0 ∧ (v.tiles.get t.val).ret1 = (s.tiles.get t.val).ret1) ∧
      v.md = s.md ∧ v.hq = s.hq ∧ v.cp = s.cp ∧ v.dies = s.dies ∧
      if (handleOf s t.val (opWord (leAt w.bytes 24 4)).handle).view = 0
      then exec (p.2 t n) s = .next v ∧ x.outs = arrayOuts p.1 s t.val (issuedTod s t.val w) (s.tiles.get t.val) w.wgot w.agot
      else x.outs = [] ∧ exec (p.2 t n) s = .next (gatherAll v t.val w.uid
        (arrayOuts p.1 s t.val (issuedTod s t.val w) (s.tiles.get t.val) w.wgot w.agot))) ∧
  (∀ (s : State) (t : Nat) (w : TodSlot), (issuedTod s t w).levels = (levelOps w.bytes).flatMap (bufData s t)) ∧
  (∀ (s : State) (t : TileNo) (n : Nat) (w : TodSlot), TodReady s t.val n 0x13 w →
    BuffersReady s t.val (arrayReads 0x13 w.bytes ((s.tiles.get t.val).ctxs.get w.ctx).key) → s.mem.ecc = [] →
    ∃ u x, exec (.ashift t n) s = .next u ∧ todOf u t.val w.uid = some x ∧ x.phase = .computed ∧ x.outs = [] ∧ u.mem = s.mem ∧
      (u.tiles.get t.val).ret0 = (if (arrayTod w.bytes).arr = 1 then (s.tiles.get t.val).ret0
        else (s.tiles.get t.val).ret0.map fun r => shiftCols (arrayTod w.bytes) (opData s t.val (weightOp 0x13 w.bytes) w.wgot) r
          (BitVec.ofNat 32 (leAt w.bytes 16 4))) ∧
      (u.tiles.get t.val).ret1 = (if (arrayTod w.bytes).arr = 0 then (s.tiles.get t.val).ret1
        else (s.tiles.get t.val).ret1.map fun r => shiftCols (arrayTod w.bytes) (opData s t.val (weightOp 0x13 w.bytes) w.wgot) r
          (BitVec.ofNat 32 (leAt w.bytes 16 4))) ∧
      (∀ v, v ≠ t.val → u.tiles.get v = s.tiles.get v) ∧ u.md = s.md ∧ u.hq = s.hq ∧ u.cp = s.cp)

/-- A SOFTMAX, RMSNORM, GLU, ROPE, QUANT, DEQUANT, TOPK, EWISE or CONVERT whose turn it is, whose operands lie in buffers and which meets no
unfilled line computes every row of its output from its operands' bytes, and its output passes into the gather buffer, from which entries
are written to memory as others need their room. No other tile, no retained weight, semaphore, handle, window or port of the tile, no model
and no running command changes; on its way through the gather buffer output changes module memory and that buffer alone. -/
def Obligations.VectorTodsCompute : Prop :=
  (∀ p ∈ [(0x20, Instr.softmax), (0x21, Instr.rmsnorm), (0x22, Instr.glu), (0x23, Instr.rope), (0x24, Instr.quant), (0x25, Instr.dequant),
      (0x26, Instr.topk), (0x27, Instr.ewise), (0x28, Instr.convert)], ∀ (s : State) (t : TileNo) (n : Nat) (w : TodSlot),
    TodReady s t.val n p.1 w → BuffersReady s t.val (vecReads p.1 w.bytes ((s.tiles.get t.val).ctxs.get w.ctx).key) → s.mem.ecc = [] →
    ∃ v x, exec (p.2 t n) s = .next (gatherAll v t.val w.uid (vecOuts p.1 s t.val (issuedTod s t.val w) w.agot w.wgot)) ∧
      todOf v t.val w.uid = some x ∧ x.phase = .computed ∧ x.outs = [] ∧
      x.fills = linesOf ((vecOuts p.1 s t.val (issuedTod s t.val w) w.agot w.wgot).map (·.1)) ∧
      v.mem = s.mem ∧ (∀ k, k ≠ t.val → v.tiles.get k = s.tiles.get k) ∧
      (v.tiles.get t.val).sems = (s.tiles.get t.val).sems ∧ (v.tiles.get t.val).handles = (s.tiles.get t.val).handles ∧
      (v.tiles.get t.val).wins = (s.tiles.get t.val).wins ∧ (v.tiles.get t.val).ports = (s.tiles.get t.val).ports ∧
      (v.tiles.get t.val).gather = (s.tiles.get t.val).gather ∧
      (v.tiles.get t.val).ret0 = (s.tiles.get t.val).ret0 ∧ (v.tiles.get t.val).ret1 = (s.tiles.get t.val).ret1 ∧
      v.md = s.md ∧ v.hq = s.hq ∧ v.cp = s.cp ∧ v.dies = s.dies) ∧
  (∀ (s : State) (t uid : Nat) (outs : List (Nat × PByte)), (∀ k, k ≠ t → (gatherAll s t uid outs).tiles.get k = s.tiles.get k) ∧
    { (gatherAll s t uid outs).tiles.get t with gather := [] } = { s.tiles.get t with gather := [] } ∧
    (gatherAll s t uid outs).mem.host = s.mem.host ∧ (gatherAll s t uid outs).mem.fill = s.mem.fill ∧ (gatherAll s t uid outs).md = s.md ∧
    (gatherAll s t uid outs).cp = s.cp ∧ (gatherAll s t uid outs).hq = s.hq ∧ (gatherAll s t uid outs).dies = s.dies)

/-- A vector operation whose operand A is a stream and whose port holds too few bytes takes them all, keeps running and waits. An MMA, MMA_T or
DIST with REUSE whose activation operand is a stream does the same. -/
def Obligations.StreamOperandsAreDrawn : Prop :=
  (∀ p ∈ [(0x20, Instr.softmax), (0x21, Instr.rmsnorm), (0x22, Instr.glu), (0x23, Instr.rope), (0x24, Instr.quant), (0x25, Instr.dequant),
      (0x26, Instr.topk), (0x27, Instr.ewise), (0x28, Instr.convert)], ∀ (s : State) (t : TileNo) (n : Nat) (w : TodSlot),
    TodReady s t.val n p.1 w → anyUnfilled s t.val (issueReads s t.val w) = false → s.mem.ecc = [] →
    (opWord (vecA p.1 w.bytes).word).strm = true → (opWord (vecB p.1 w.bytes).word).strm = false →
    w.agot.length + ((s.tiles.get t.val).ports.get (opWord (vecA p.1 w.bytes).word).port).length < (vecA p.1 w.bytes).size →
    ∃ u x, exec (p.2 t n) s = .next u ∧ todOf u t.val w.uid = some x ∧ x.phase = .running ∧
      x.agot = w.agot ++ (s.tiles.get t.val).ports.get (opWord (vecA p.1 w.bytes).word).port ∧
      (u.tiles.get t.val).ports.get (opWord (vecA p.1 w.bytes).word).port = [] ∧ ((u.tiles.get t.val).ctxs.get w.ctx).wait = true ∧
      u.mem = s.mem ∧ u.cp = s.cp) ∧
  (∀ p ∈ [(0x10, Instr.mma), (0x11, Instr.mmaT), (0x12, Instr.dist)], ∀ (s : State) (t : TileNo) (n : Nat) (w : TodSlot),
    TodReady s t.val n p.1 w → anyUnfilled s t.val (issueReads s t.val w) = false → s.mem.ecc = [] →
    loadsW p.1 (arrayTod w.bytes) = false → (opWord (actOp p.1 w.bytes).word).strm = true →
    w.agot.length + ((s.tiles.get t.val).ports.get (opWord (actOp p.1 w.bytes).word).port).length < (actOp p.1 w.bytes).size →
    ∃ u x, exec (p.2 t n) s = .next u ∧ todOf u t.val w.uid = some x ∧ x.phase = .running ∧
      x.agot = w.agot ++ (s.tiles.get t.val).ports.get (opWord (actOp p.1 w.bytes).word).port ∧
      (u.tiles.get t.val).ports.get (opWord (actOp p.1 w.bytes).word).port = [] ∧ ((u.tiles.get t.val).ctxs.get w.ctx).wait = true ∧
      u.mem = s.mem ∧ u.cp = s.cp)

/-- For each of the 20 TOD commands: a TOD of its opcode whose turn it is and which fails the checks with a cause faults its context with that
cause. A TOD of an opcode that R65 does not list is faulted with cause 0x01 by any of them. With no command running, the fault records the
cause in the context, halts it, takes its TODs out of the window and fires the tile's source. -/
def Obligations.TodsFaultTheirContext : Prop :=
  (∀ p ∈ [(0x00, Instr.todNop), (0x10, Instr.mma), (0x11, Instr.mmaT), (0x12, Instr.dist), (0x13, Instr.ashift), (0x20, Instr.softmax),
      (0x21, Instr.rmsnorm), (0x22, Instr.glu), (0x23, Instr.rope), (0x24, Instr.quant), (0x25, Instr.dequant), (0x26, Instr.topk),
      (0x27, Instr.ewise), (0x28, Instr.convert), (0x30, Instr.semSignal), (0x31, Instr.semWait), (0x33, Instr.event), (0x34, Instr.qwait),
      (0x35, Instr.taskEnd), (0x36, Instr.srkey)], ∀ (s : State) (t : TileNo) (n c : Nat) (w : TodSlot),
    todAt s t.val n = some w → (todOpc w.bytes = p.1 ∨ unitOf (todOpc w.bytes) = none) → w.phase = .fetched → issues s t.val w = true →
    todPwait w.bytes = false → checkTod s t.val w = some c →
    exec (p.2 t n) s = .next (ctxFault (activate s t.val w.ctx) t.val w c)) ∧
  (∀ (s : State) (t : Nat) (w : TodSlot), unitOf (todOpc w.bytes) = none → checkTod s t w = some 0x01) ∧
  (∀ (s : State) (t c : Nat) (w : TodSlot), s.cp.jobs = [] → s.cp.persists = [] →
    ((ctxFault s t w c).tiles.get t).ctxs.get w.ctx =
      { faultCtx ((s.tiles.get t).ctxs.get w.ctx) c (byteN w.bytes 0) w.qidx with halted := true, wait := false } ∧
    ((ctxFault s t w c).tiles.get t).window = (s.tiles.get t).window.filter (fun y => y.ctx ≠ w.ctx) ∧
    (ctxFault s t w c).evr = (fire s (256 + t)).evr ∧ (ctxFault s t w c).mem = s.mem ∧
    ∀ v, v ≠ t → (ctxFault s t w c).tiles.get v = s.tiles.get v)

/-- Their turns: NOP leaves the window with nothing else changed; EVENT fires its source; SRKEY sets its context's key; TASK_END makes its context
idle, with no key and no command, and takes the rest of its list out of the window; SEM_SIGNAL sends its count to the sync unit of its target
and waits for the report, on which it completes or faults its context with cause 0x08. TOD_COMPLETE stores the outputs of a
computed TOD, flushes the gather buffer's entries that hold some, and sets the fill bits of their lines, unless a scrub of the tile is in
progress. -/
def Obligations.TodsWithoutOperandsComplete : Prop :=
  (∀ (s : State) (t : TileNo) (n : Nat) (w : TodSlot), TodReady s t.val n 0x00 w → todPsig w.bytes = false → todIrq w.bytes = false → w.lastListed = false →
    ∃ u, exec (.todNop t n) s = .next u ∧ (u.tiles.get t.val).window = (s.tiles.get t.val).window.filter (fun y => y.uid ≠ w.uid) ∧
      u.mem = s.mem ∧ (u.tiles.get t.val).sems = (s.tiles.get t.val).sems ∧ (∀ v, v ≠ t.val → u.tiles.get v = s.tiles.get v) ∧ u.evr = s.evr ∧ u.cp = s.cp) ∧
  (∀ (s : State) (t : TileNo) (n : Nat) (w : TodSlot), TodReady s t.val n 0x33 w → todPsig w.bytes = false → todIrq w.bytes = false → w.lastListed = false →
    ∃ u, exec (.event t n) s = .next u ∧ u.evr = (fire s (fld (syncWord w.bytes) 9 0)).evr ∧
      (u.tiles.get t.val).window = (s.tiles.get t.val).window.filter (fun y => y.uid ≠ w.uid) ∧ u.mem = s.mem ∧ u.cp = s.cp) ∧
  (∀ (s : State) (t : TileNo) (n : Nat) (w : TodSlot), TodReady s t.val n 0x36 w → todPsig w.bytes = false → todIrq w.bytes = false → w.lastListed = false →
    ∃ u, exec (.srkey t n) s = .next u ∧
      ((u.tiles.get t.val).ctxs.get w.ctx).key = some ⟨BitVec.ofNat 32 (syncWord w.bytes), wfld w.bytes 8 11 0⟩ ∧
      (∀ c, c ≠ w.ctx → (u.tiles.get t.val).ctxs.get c = (s.tiles.get t.val).ctxs.get c) ∧ u.mem = s.mem ∧ u.evr = s.evr ∧ u.cp = s.cp) ∧
  (∀ (s : State) (t : TileNo) (n : Nat) (w : TodSlot), TodReady s t.val n 0x35 w → todPsig w.bytes = false → todIrq w.bytes = false → s.cp.jobs = [] →
    ∃ u, exec (.taskEnd t n) s = .next u ∧ ((u.tiles.get t.val).ctxs.get w.ctx).active = false ∧ ((u.tiles.get t.val).ctxs.get w.ctx).key = none ∧
      ((u.tiles.get t.val).ctxs.get w.ctx).job = none ∧
      (u.tiles.get t.val).window = (s.tiles.get t.val).window.filter (fun y => y.uid ≠ w.uid && !(y.listed && y.ctx = w.ctx)) ∧ u.mem = s.mem) ∧
  (∀ (s : State) (t : TileNo) (n : Nat) (w : TodSlot), TodReady s t.val n 0x30 w →
    ∃ u x, exec (.semSignal t n) s = .next u ∧ todOf u t.val w.uid = some x ∧ x.phase = .reporting ∧ x.report = none ∧
      (u.tiles.get (fld (syncWord w.bytes) 31 24)).inbox = (s.tiles.get (fld (syncWord w.bytes) 31 24)).inbox ++
        [⟨fld (syncWord w.bytes) 21 16, fld (syncWord w.bytes) 7 0, .tod t.val w.uid, none⟩] ∧ u.mem = s.mem ∧ u.evr = s.evr ∧ u.cp = s.cp) ∧
  (∀ (s : State) (t : TileNo) (n : Nat) (w : TodSlot), todAt s t.val n = some w → w.phase = .reporting →
    (w.report = some true → exec (.semSignalReport t n) s = .next (completeTod s t.val w)) ∧
    (w.report = some false → exec (.semSignalReport t n) s = .next (ctxFault s t.val w 0x08)) ∧
    (w.report = none → exec (.semSignalReport t n) s = .next s)) ∧
  (∀ (s : State) (t : TileNo) (n : Nat) (w : TodSlot), todAt s t.val n = some w → w.phase = .computed → (s.tiles.get t.val).scrubBusy = true →
    exec (.todComplete t n) s = .next s) ∧
  (∀ (s : State) (t : TileNo) (n : Nat) (w : TodSlot), todAt s t.val n = some w → w.phase = .computed → (s.tiles.get t.val).scrubBusy = false →
    todPsig w.bytes = false → todIrq w.bytes = false → w.lastListed = false → w.consumed = [] →
    ∃ u, exec (.todComplete t n) s = .next u ∧ u.mem = (setFill (storeAddrs (flushTod s t.val w.uid) t.val w.outs) t.val w.fills).mem ∧
      (u.tiles.get t.val).window = (s.tiles.get t.val).window.filter (fun y => y.uid ≠ w.uid) ∧
      (u.tiles.get t.val).sems = (s.tiles.get t.val).sems ∧ u.evr = s.evr ∧ u.cp = s.cp ∧ (∀ v, v ≠ t.val → u.tiles.get v = s.tiles.get v))

/-- R396: a signal whose sum with the semaphore is at most 0xFFFF adds its count; one whose sum passes 0xFFFF changes no semaphore and raises
SEM_OVERFLOW, which the tile that holds the semaphore records in SEM_OVF. The first two clauses say so of SEM_REQUEST with that signal alone
at the tile, whoever sent it; the last two of each signal that the sync unit serves, also one on behalf of a running command, whose
requester's record is made after the semaphores have been left as they were. -/
def Obligations.SignalIsAppliedWholeOrNotAtAll : Prop :=
  (∀ (s : State) (t : TileNo) (g : SemSig), (s.tiles.get t.val).inbox = [g] → (s.tiles.get t.val).line = [] → g.job = none →
    ((s.tiles.get t.val).sems.get g.sem).toNat + g.count ≤ 0xFFFF →
    ∃ u, exec (.semRequest t) s = .next u ∧
      ((u.tiles.get t.val).sems.get g.sem).toNat = ((s.tiles.get t.val).sems.get g.sem).toNat + g.count ∧
      (∀ k, k ≠ g.sem → (u.tiles.get t.val).sems.get k = (s.tiles.get t.val).sems.get k) ∧
      (u.tiles.get t.val).semOvf = (s.tiles.get t.val).semOvf ∧ u.mem = s.mem ∧ u.evr = s.evr ∧ u.cp = s.cp) ∧
  (∀ (s : State) (t : TileNo) (g : SemSig), (s.tiles.get t.val).inbox = [g] → (s.tiles.get t.val).line = [] → g.job = none →
    0xFFFF < ((s.tiles.get t.val).sems.get g.sem).toNat + g.count →
    ∃ u, exec (.semRequest t) s = .next u ∧ (u.tiles.get t.val).sems = (s.tiles.get t.val).sems ∧ (u.tiles.get t.val).semOvf = true ∧
      u.mem = s.mem ∧ u.cp = s.cp) ∧
  (∀ (s : State) (t : TileNo) (g : SemSig), ((s.tiles.get t.val).sems.get g.sem).toNat + g.count ≤ 0xFFFF →
    (((serveSig s t.val g).tiles.get t.val).sems.get g.sem).toNat = ((s.tiles.get t.val).sems.get g.sem).toNat + g.count ∧
    (∀ k, k ≠ g.sem → ((serveSig s t.val g).tiles.get t.val).sems.get k = (s.tiles.get t.val).sems.get k)) ∧
  (∀ (s : State) (t : TileNo) (g : SemSig), 0xFFFF < ((s.tiles.get t.val).sems.get g.sem).toNat + g.count →
    ∃ v : State, (v.tiles.get t.val).sems = (s.tiles.get t.val).sems ∧ (v.tiles.get t.val).semOvf = true ∧
      (serveSig s t.val g = v ∨ ∃ j, g.job = some j ∧ serveSig s t.val g = unitFault v j .semOverflow (whoUnit v g.who 0x08)))

/-- SEM_WAIT joins the end of its tile's line. The sync unit applies a signal that fits to its semaphore, and SIG_SUM counts it; a signal that
does not fit changes no semaphore and marks SEM_OVF; a wait whose semaphore has reached its count subtracts it and completes; a wait that is
not checked stays in line otherwise, and a checked one is refused. QWAIT on an empty queue waits. A BARRIER TOD stalls at its barrier, whose count
rises. -/
def Obligations.SyncUnitServes : Prop :=
  (∀ (s : State) (t : TileNo) (n : Nat) (w : TodSlot), TodReady s t.val n 0x31 w →
    ∃ u x, exec (.semWait t n) s = .next u ∧ todOf u t.val w.uid = some x ∧ x.phase = .stalled ∧
      (u.tiles.get t.val).line = (s.tiles.get t.val).line ++
        [⟨fld (syncWord w.bytes) 21 16, fld (syncWord w.bytes) 7 0, todChk w.bytes, .tod t.val w.uid⟩] ∧ u.mem = s.mem ∧ u.evr = s.evr) ∧
  (∀ (s : State) (t : TileNo) (sem c d : Nat) (j : JobRef), (s.tiles.get t.val).inbox = [⟨sem, c, .seq d j, none⟩] → (s.tiles.get t.val).line = [] →
    ((s.tiles.get t.val).sems.get sem).toNat + c ≤ 0xFFFF →
    ∃ u, exec (.semRequest t) s = .next u ∧ (u.tiles.get t.val).sems.get sem = (s.tiles.get t.val).sems.get sem + BitVec.ofNat 16 c ∧
      (∀ k, k ≠ sem → (u.tiles.get t.val).sems.get k = (s.tiles.get t.val).sems.get k) ∧
      (u.tiles.get t.val).sigSum = (s.tiles.get t.val).sigSum + BitVec.ofNat 32 c ∧ (u.tiles.get t.val).inbox = [] ∧
      (∀ v, v ≠ t.val → u.tiles.get v = s.tiles.get v) ∧ u.mem = s.mem ∧ u.evr = s.evr) ∧
  (∀ (s : State) (t : TileNo) (sem c d : Nat) (j : JobRef), (s.tiles.get t.val).inbox = [⟨sem, c, .seq d j, none⟩] → (s.tiles.get t.val).line = [] →
    0xFFFF < ((s.tiles.get t.val).sems.get sem).toNat + c →
    ∃ u, exec (.semRequest t) s = .next u ∧ (u.tiles.get t.val).sems = (s.tiles.get t.val).sems ∧ (u.tiles.get t.val).semOvf = true ∧
      (u.tiles.get t.val).sigSum = (s.tiles.get t.val).sigSum ∧ u.evr = (fire s (256 + t.val)).evr ∧ u.mem = s.mem) ∧
  (∀ (s : State) (t : TileNo) (r : SemReq) (w : TodSlot) (uid : Nat), (s.tiles.get t.val).inbox = [] → (s.tiles.get t.val).line = [r] →
    r.who = .tod t.val uid → todOf s t.val uid = some w → todPwait w.bytes = false → r.count ≤ ((s.tiles.get t.val).sems.get r.sem).toNat →
    ∃ v : State, exec (.semRequest t) s = .next (completeTod v t.val w) ∧
      (v.tiles.get t.val).sems.get r.sem = (s.tiles.get t.val).sems.get r.sem - BitVec.ofNat 16 r.count ∧
      (v.tiles.get t.val).decSum = (s.tiles.get t.val).decSum + BitVec.ofNat 32 r.count ∧ (v.tiles.get t.val).line = [] ∧ v.mem = s.mem) ∧
  (∀ (s : State) (t : TileNo) (r : SemReq) (w : TodSlot) (uid : Nat), (s.tiles.get t.val).inbox = [] → (s.tiles.get t.val).line = [r] →
    r.who = .tod t.val uid → todOf s t.val uid = some w → todPwait w.bytes = false → ((s.tiles.get t.val).sems.get r.sem).toNat < r.count → r.checked = false →
    ∃ u, exec (.semRequest t) s = .next u ∧ u.tiles.get t.val = s.tiles.get t.val ∧ u.mem = s.mem ∧ u.evr = s.evr) ∧
  (∀ (s : State) (t : TileNo) (n : Nat) (w : TodSlot), TodReady s t.val n 0x34 w → (s.tiles.get t.val).queues.get (fld (syncWord w.bytes) 3 0) = [] →
    ∃ u, exec (.qwait t n) s = .next u ∧ ((u.tiles.get t.val).ctxs.get w.ctx).wait = true ∧ u.mem = s.mem ∧
      (u.tiles.get t.val).queues = (s.tiles.get t.val).queues) ∧
  (∀ (s : State) (t : TileNo) (n : Nat) (w : TodSlot) (e : QEntry) (r : List QEntry), TodReady s t.val n 0x34 w →
    (s.tiles.get t.val).queues.get (fld (syncWord w.bytes) 3 0) = e :: r → e.bad = false → e.tcount = 1 →
    (handleOf s t.val (s.tiles.get t.val).qHandle.toNat).valid = true → (handleOf s t.val (s.tiles.get t.val).qHandle.toNat).guard = false →
    32 * (e.tlist + 1) ≤ (handleOf s t.val (s.tiles.get t.val).qHandle.toNat).logical → s.cp.jobs = [] → todPsig w.bytes = false → todIrq w.bytes = false →
    w.lastListed = false → (s.tiles.get t.val).nextUid ≠ w.uid →
    ∃ u x, exec (.qwait t n) s = .next u ∧ x ∈ (u.tiles.get t.val).window ∧ x.listed = true ∧ x.ctx = w.ctx ∧ x.phase = .fetched ∧
      x.bytes = plain (loadHandle s t.val (handleOf s t.val (s.tiles.get t.val).qHandle.toNat) (32 * e.tlist) 32) ∧
      (u.tiles.get t.val).queues.get (fld (syncWord w.bytes) 3 0) = r ∧ u.mem.mod = s.mem.mod) ∧
  (∀ (s : State) (t : TileNo) (n : Nat) (w : TodSlot), TodReady s t.val n 0x32 w → (lends s (t.val / 32) = true ∨ heldBarrier s t.val = none) →
    (placeEntry (barOf s false (fld (syncWord w.bytes) 4 0)) (.ctx t.val w.ctx)).2 = false →
    ∃ u x, exec (.todBarrier t n) s = .next u ∧ todOf u t.val w.uid = some x ∧ x.phase = .stalled ∧
      barOf u false (fld (syncWord w.bytes) 4 0) = (placeEntry (barOf s false (fld (syncWord w.bytes) 4 0)) (.ctx t.val w.ctx)).1 ∧ u.mem = s.mem)

/-- A handle that nothing uses takes its write: an entry that passes the checks is stored, one that is valid and fails reads VALID = 0 and marks
HT_ERR. A handle that is in use, or of which an earlier write is held, holds the write; a held write is released once nothing names the handle. A window register takes its write, and one that is
valid and fails its check reads VALID = 0 with its error marked; no other window, no memory byte and no other tile or die changes. -/
def Obligations.HandleAndWindowRegisters : Prop :=
  (∀ (s : State) (t : TileNo) (h : Fin 64) (v : W64), dieBlockOn s (t.val / 32) = true → handleBusy s t.val h.val = false →
    (s.tiles.get t.val).heldHandles = [] →
    ∃ u, exec (.handleWrite t h v) s = .next u ∧
      (((handleF { (s.tiles.get t.val).handles.get h.val with a := v &&& handleAMask }).valid = false ∨
          (handleF { (s.tiles.get t.val).handles.get h.val with a := v &&& handleAMask }).ok = true) →
        (u.tiles.get t.val).handles.get h.val = { (s.tiles.get t.val).handles.get h.val with a := v &&& handleAMask } ∧
        (u.tiles.get t.val).htErr = (s.tiles.get t.val).htErr) ∧
      ((handleF { (s.tiles.get t.val).handles.get h.val with a := v &&& handleAMask }).valid = true →
        (handleF { (s.tiles.get t.val).handles.get h.val with a := v &&& handleAMask }).ok = false →
        (u.tiles.get t.val).htErr = true ∧ (handleOf u t.val h.val).valid = false) ∧
      (∀ k, k ≠ h.val → (u.tiles.get t.val).handles.get k = (s.tiles.get t.val).handles.get k) ∧
      (∀ w, w ≠ t.val → u.tiles.get w = s.tiles.get w) ∧ u.mem.mod = s.mem.mod ∧ u.mem.pois = s.mem.pois ∧ u.mem.host = s.mem.host) ∧
  (∀ (s : State) (t : TileNo) (h : Fin 64) (v : W64), dieBlockOn s (t.val / 32) = true → handleBusy s t.val h.val = true →
    ∃ u, exec (.handleWrite t h v) s = .next u ∧ (u.tiles.get t.val).heldHandles = (s.tiles.get t.val).heldHandles ++ [(h.val, true, v)] ∧
      (u.tiles.get t.val).handles = (s.tiles.get t.val).handles ∧ u.mem = s.mem) ∧
  (∀ (s : State) (t : TileNo) (h : Fin 64) (v : W64) (w : Nat × Bool × W64), dieBlockOn s (t.val / 32) = true →
    w ∈ (s.tiles.get t.val).heldHandles → w.1 = h.val →
    exec (.handleWrite t h v) s = .next (updTile s t.val fun x => { x with heldHandles := x.heldHandles ++ [(h.val, true, v)] })) ∧
  (∀ (s : State) (t : TileNo) (h : Fin 64) (b : Bool) (v : W64), (s.tiles.get t.val).heldHandles = [(h.val, b, v)] → handleBusy s t.val h.val = false →
    exec (.handleWriteRelease t h) s = .next (applyHandle (updTile s t.val fun y => { y with heldHandles := [] }) t.val h.val b v)) ∧
  (∀ (s : State) (t : TileNo) (w : Fin 8) (v : W64), dieBlockOn s (t.val / 32) = true →
    ∃ u, exec (.windowWrite t w v) s = .next u ∧
      (((v &&& winAMask).getLsbD 63 = false ∨ winOk { (s.tiles.get t.val).wins.get w.val with a := v &&& winAMask } = true) →
        (u.tiles.get t.val).wins.get w.val = { (s.tiles.get t.val).wins.get w.val with a := v &&& winAMask } ∧
        (u.tiles.get t.val).winErr = (s.tiles.get t.val).winErr) ∧
      ((v &&& winAMask).getLsbD 63 = true → winOk { (s.tiles.get t.val).wins.get w.val with a := v &&& winAMask } = false →
        ((u.tiles.get t.val).wins.get w.val).a.getLsbD 63 = false ∧ (u.tiles.get t.val).winErr = true) ∧
      (∀ k, k ≠ w.val → (u.tiles.get t.val).wins.get k = (s.tiles.get t.val).wins.get k) ∧ u.mem = s.mem ∧
      ∀ k, k ≠ t.val → u.tiles.get k = s.tiles.get k) ∧
  (∀ (s : State) (d : Die) (w : Fin 16) (v : W64), dieBlockOn s d.val = true →
    ∃ u, exec (.hbmWindowWrite d w v) s = .next u ∧
      (((v &&& hbmWinAMask).getLsbD 63 = false ∨ hbmWinOk { (s.dies.get d.val).hbmWins.get w.val with a := v &&& hbmWinAMask } = true) →
        (u.dies.get d.val).hbmWins.get w.val = { (s.dies.get d.val).hbmWins.get w.val with a := v &&& hbmWinAMask }) ∧
      ((v &&& hbmWinAMask).getLsbD 63 = true → hbmWinOk { (s.dies.get d.val).hbmWins.get w.val with a := v &&& hbmWinAMask } = false →
        ((u.dies.get d.val).hbmWins.get w.val).a.getLsbD 63 = false ∧ (u.dies.get d.val).hbmWinErr = true) ∧
      (∀ k, k ≠ w.val → (u.dies.get d.val).hbmWins.get k = (s.dies.get d.val).hbmWins.get k) ∧ u.mem = s.mem ∧ u.tiles = s.tiles ∧
      ∀ k, k ≠ d.val → u.dies.get k = s.dies.get k)

/-- A write from outside that an open window admits stores its bytes, or waits while its tile is being scrubbed; one that no window admits changes no byte of memory and is answered, and
a tile counts it. A probe is answered with what the windows admit and changes no memory; the answer to an engine's own probe moves its
descriptor on, or ends it with cause WIN_PROBE. -/
def Obligations.RemoteAccessesThroughWindows : Prop :=
  (∀ (s : State) (t : TileNo) (a : Access), (s.tiles.get t.val).scrubBusy = false → dieUp s (t.val / 32) = true →
    tileAdmits s t.val a.src.toNat a.addr a.len a.write = true → a.write = true →
    exec (.remoteAccess t a) s = .next (storeClean s (tileKey t.val a.addr) (bytesAt a.data 0 a.len))) ∧
  (∀ (s : State) (t : TileNo) (a : Access), (s.tiles.get t.val).scrubBusy = false → dieUp s (t.val / 32) = true →
    tileAdmits s t.val a.src.toNat a.addr a.len a.write = true → a.write = false → s.mem.ecc = [] →
    exec (.remoteAccess t a) s = .next (emit s (.winRead (plain (loadMod s (tileKey t.val a.addr) a.len))))) ∧
  (∀ (s : State) (t : TileNo) (a : Access), (s.tiles.get t.val).scrubBusy = true → dieUp s (t.val / 32) = true →
    tileAdmits s t.val a.src.toNat a.addr a.len a.write = true →
    exec (.remoteAccess t a) s = .next (updTile s t.val fun x => { x with waiting := x.waiting ++ [a] })) ∧
  (∀ (s : State) (t : TileNo) (a : Access), (dieUp s (t.val / 32) = false ∨ tileAdmits s t.val a.src.toNat a.addr a.len a.write = false) →
    a.origin = none →
    ∃ u, exec (.remoteAccess t a) s = .next u ∧ u.mem = s.mem ∧ u.out = s.out ++ [.winReject] ∧
      (u.tiles.get t.val).winReject = satInc (s.tiles.get t.val).winReject 1 ∧ (∀ k, k ≠ t.val → u.tiles.get k = s.tiles.get k)) ∧
  (∀ (s : State) (d : Die) (a : Access), dieUp s d.val = true → hbmAdmits s d.val a.src.toNat a.addr a.len a.write = true →
    hbmExtent s d.val a.addr a.len = true → a.write = true →
    exec (.hbmWindowAccess d a) s = .next (storeClean s (dieKey d.val a.addr) (bytesAt a.data 0 a.len))) ∧
  (∀ (s : State) (d : Die) (a : Access), (dieUp s d.val = false ∨ hbmAdmits s d.val a.src.toNat a.addr a.len a.write = false ∨
      hbmExtent s d.val a.addr a.len = false) → a.origin = none →
    exec (.hbmWindowAccess d a) s = .next (emit s .winReject)) ∧
  (∀ (s : State) (t : TileNo) (src : BitVec 12) (addr len : Nat) (write : Bool), dieUp s (t.val / 32) = true →
    tileAdmits s t.val src.toNat addr len write = true → exec (.probe (.tile t src addr len write)) s = .next (emit s (.probeAnswer true))) ∧
  (∀ (s : State) (t : TileNo) (src : BitVec 12) (addr len : Nat) (write : Bool),
    (dieUp s (t.val / 32) = false ∨ tileAdmits s t.val src.toNat addr len write = false) →
    ∃ u, exec (.probe (.tile t src addr len write)) s = .next u ∧ u.out = s.out ++ [.probeAnswer false] ∧ u.mem = s.mem ∧
      (u.tiles.get t.val).winReject = satInc (s.tiles.get t.val).winReject 1) ∧
  (∀ (s : State) (d : Die) (src : BitVec 12) (addr len : Nat) (write : Bool),
    exec (.probe (.hbm d src addr len write)) s =
      .next (emit s (.probeAnswer (dieUp s d.val && hbmAdmits s d.val src.toNat addr len write && hbmExtent s d.val addr len)))) ∧
  (∀ (s : State) (e : EngineNo) (ch : Chan) (d : DSlot), (chanOf s e.val ch.val).prog = [d] → d.phase = .probing →
    (∀ x ∈ extents d.bytes, needsProbe s e.val x = true → isLocal s x.w = true → targetAdmits s e.val x = true) →
    ∃ u, exec (.probe (.own e ch true)) s = .next u ∧ (chanOf u e.val ch.val).prog = [{ d with phase := .probed }] ∧ u.mem = s.mem ∧ u.tiles = s.tiles)

/-- A channel takes its Q_EN. A TAIL that leaves at most 32 descriptors queued is taken; one that would leave more is ignored, records
QUEUE_OVER and fires the engine's source. A descriptor that has moved completes in queue order: it leaves the channel, its writes on other dies
become visible, its post-signal goes to its tile, and its event fires; it waits while a scratchpad that it writes there is being scrubbed. -/
def Obligations.DmaChannelRegisters : Prop :=
  (∀ (s : State) (e : EngineNo) (ch : Chan) (en : Bool), engineBlockOn s e.val = true →
    ∃ u, exec (.dmaChannelEnable e ch en) s = .next u ∧ chanOf u e.val ch.val = { chanOf s e.val ch.val with qEn := en } ∧
      (∀ c, c ≠ ch.val → chanOf u e.val c = chanOf s e.val c) ∧ (∀ k, k ≠ e.val → u.engines.get k = s.engines.get k) ∧ u.mem = s.mem ∧ u.tiles = s.tiles) ∧
  (∀ (s : State) (e : EngineNo) (ch : Chan) (tail : BitVec 6), engineBlockOn s e.val = true → (tail - (chanOf s e.val ch.val).head).toNat ≤ 32 →
    ∃ u, exec (.dmaChannelTail e ch tail) s = .next u ∧ (chanOf u e.val ch.val).tail = tail ∧
      (chanOf u e.val ch.val).head = (chanOf s e.val ch.val).head ∧ (chanOf u e.val ch.val).prog = (chanOf s e.val ch.val).prog ∧
      (chanOf u e.val ch.val).ring = (chanOf s e.val ch.val).ring ∧ u.mem = s.mem ∧ u.evr = s.evr) ∧
  (∀ (s : State) (e : EngineNo) (ch : Chan) (tail : BitVec 6), engineBlockOn s e.val = true → 32 < (tail - (chanOf s e.val ch.val).head).toNat →
    ∃ u, exec (.dmaChannelTail e ch tail) s = .next u ∧ (chanOf u e.val ch.val).tail = (chanOf s e.val ch.val).tail ∧
      (chanOf u e.val ch.val).fault = true ∧ ((chanOf s e.val ch.val).fr.valid = false → (chanOf u e.val ch.val).fr.cause = 0x10) ∧
      ((chanOf s e.val ch.val).fr.valid = true → (chanOf u e.val ch.val).fr = (chanOf s e.val ch.val).fr) ∧
      u.evr = (fire s (engineSrc e.val)).evr ∧ u.mem = s.mem) ∧
  (∀ (s : State) (e : EngineNo) (ch : Chan) (d : DSlot) (r : List DSlot), (chanOf s e.val ch.val).prog = d :: r → d.phase = .moved → d.job = none →
    farHeld s d = false → d.consumed = [] → d.pois = false →
    ∃ u, exec (.descriptorComplete e ch) s = .next u ∧ (chanOf u e.val ch.val).prog = r ∧ u.mem = (d.far.foldl (fun s p => storeMod s p.1 p.2) s).mem ∧
      (dPsig d.bytes = true → (u.tiles.get (dStile d.bytes)).inbox = (s.tiles.get (dStile d.bytes)).inbox ++
        [⟨dSsem d.bytes, dScount d.bytes, .chan e.val ch.val, none⟩]) ∧
      (dPsig d.bytes = false → u.tiles = s.tiles) ∧ (dIrq d.bytes = true → u.evr = (fire s (engineSrc e.val)).evr) ∧
      (dIrq d.bytes = false → u.evr = s.evr)) ∧
  (∀ (s : State) (e : EngineNo) (ch : Chan) (d : DSlot) (r : List DSlot), (chanOf s e.val ch.val).prog = d :: r →
    (d.phase ≠ .moved ∨ farHeld s d = true) →
    exec (.descriptorComplete e ch) s = .next s)

/-- A channel with nothing in progress that fetches a descriptor of one of the seven opcodes: one that fails a check of R313 faults its
channel with that cause and moves nothing; one with PWAIT waits in the line of its tile; any other without targets behind windows waits
until its data can move, and then writes exactly what its reads give, at its destinations in order, but for what another die of the module is
to hold, which it keeps, and waits for its completion; nothing else of module or host memory changes.
PREFETCH writes nothing. -/
def Obligations.DescriptorsMoveTheirData : Prop :=
  (∀ p ∈ [(0x01, Instr.copy), (0x02, Instr.gather), (0x03, Instr.scatter), (0x04, Instr.fill), (0x05, Instr.pagewalk), (0x06, Instr.bond),
      (0x07, Instr.prefetch)], ∀ (s : State) (e : EngineNo) (ch : Chan) (d : DSlot), FetchesDesc s e.val ch.val p.1 d → s.cp.jobs = [] →
    (∀ c x, descCheck s e.val ch.val d = some (c, x) → d.job = none →
      ∃ u, exec (p.2 e ch) s = .next u ∧ (chanOf u e.val ch.val).halted = true ∧ (chanOf u e.val ch.val).fault = true ∧
        (chanOf u e.val ch.val).prog = [] ∧ u.mem = s.mem ∧ u.evr = (fire s (engineSrc e.val)).evr) ∧
    (descCheck s e.val ch.val d = none → dPwait d.bytes = true →
      ∃ u, exec (p.2 e ch) s = .next u ∧ (chanOf u e.val ch.val).prog = [{ d with phase := .waiting }] ∧
        (u.tiles.get (dWtile d.bytes)).line = (s.tiles.get (dWtile d.bytes)).line ++
          [⟨dWsem d.bytes, dWcount d.bytes, dChk d.bytes, .chan e.val ch.val⟩] ∧ u.mem = s.mem) ∧
    (descCheck s e.val ch.val d = none → dPwait d.bytes = false → (extents d.bytes).any (needsProbe s e.val) = true →
      ∃ u, exec (p.2 e ch) s = .next u ∧ (chanOf u e.val ch.val).prog = [{ d with phase := .probing }] ∧ u.mem = s.mem ∧ u.tiles = s.tiles) ∧
    (descCheck s e.val ch.val d = none → dPwait d.bytes = false → (extents d.bytes).any (needsProbe s e.val) = false →
      moveReady (descTaken s e.val ch.val d) e.val d.bytes (moveOf (descTaken s e.val ch.val d) e.val d.bytes) = false →
      ∃ u, exec (p.2 e ch) s = .next u ∧ (chanOf u e.val ch.val).prog = [{ d with phase := .probed }] ∧ u.mem = s.mem ∧ u.tiles = s.tiles) ∧
    (descCheck s e.val ch.val d = none → dPwait d.bytes = false → (extents d.bytes).any (needsProbe s e.val) = false →
      (spaceOf (dDst d.bytes) ≠ 2 ∨ p.1 = 0x07) → s.mem.ecc = [] → ∀ o m, o = descTaken s e.val ch.val d → m = moveOf o e.val d.bytes →
      m.stop = none → moveReady o e.val d.bytes m = true →
      (∀ q ∈ m.puts, needsProbe s e.val ⟨q.1, q.2.1, q.2.2.length, true⟩ = false) →
      ∃ u x, exec (p.2 e ch) s = .next u ∧ (chanOf u e.val ch.val).prog = [x] ∧ x.phase = .moved ∧ x.bytes = d.bytes ∧
        x.far = farPuts o e.val m.puts ∧
        (chanOf u e.val ch.val).head = (chanOf s e.val ch.val).head + 1 ∧
        u.mem = (m.puts.foldl (fun z q => putNear z e.val q) (readEffects o e.val d.bytes m)).mem)) ∧
  (∀ (s : State) (e : Nat) (b : Bytes), dOpc b = 0x07 → (moveOf s e b).puts = []) ∧
  (∀ (s : State) (e : Nat) (b : Bytes), dOpc b = 0x04 → (moveOf s e b).puts = (List.range (dRows b)).map fun r =>
    (dDst b, r * dDpitch b, (List.replicate (dRlen b / 4) (leBytes 4 (dAux b).toNat)).flatten.map fun v => (v, false)))

/-- While the running pass is not over, PASS_BOUNDARY changes nothing. At a boundary outside an epoch change where passes may start, one slot
has rows to run and no die holds a frame for its pass, that pass starts: its number is one above the last one's, with the slot's generation and
mode; a moored pass whose score buffers find no room does not start, which is the model's choice (log entry 166). Where no pass may start, none does. -/
def Obligations.PassesBeginAndEnd : Prop :=
  (∀ s : State, s.md.pass.running = true → passOver s = false → exec .passBoundary s = .next s) ∧
  (∀ (s b : State) (c : Cand), s.md.pass.running = false → s.md.epoch.phase = .none → s.md.epoch.waiting = [] →
    b = releasesDue (loopsDue (clockBoundary (stageDue (switchesDue (proposeWaiting (endAbort (endCommit (seatAll (activateRows (endPass s)))))))))) →
    (proposeWaiting (endAbort (endCommit (seatAll (activateRows (endPass s)))))).md.epoch.phase = .none → mayLaunch b = true →
    (candidates b).filter (mayStart b) = [c] →
    (∀ d ∈ upDies b, ∀ x ∈ (b.dies.get d).east.buf ++ (b.dies.get d).west.buf, x.phase ≠ .held) →
    ((b.md.slots.get c.slot).mode ≠ 2 ∨ (takeScore (withPass b c)).isSome = true →
      ∃ u, exec .passBoundary s = .next u ∧ u.md.pass.running = true ∧ u.md.pass.num = b.md.pass.num + 1 ∧ u.md.pass.slot = c.slot ∧
        u.md.pass.gen = c.gen ∧ u.md.pass.pre = c.pre ∧ u.md.pass.mode = (b.md.slots.get c.slot).mode ∧ u.mem = b.mem ∧ u.md.seqs = b.md.seqs) ∧
    ((b.md.slots.get c.slot).mode = 2 → takeScore (withPass b c) = none → exec .passBoundary s = .next b)) ∧
  (∀ (s b : State), s.md.pass.running = false → s.md.epoch.phase = .none → s.md.epoch.waiting = [] →
    b = releasesDue (loopsDue (clockBoundary (stageDue (switchesDue (proposeWaiting (endAbort (endCommit (seatAll (activateRows (endPass s)))))))))) →
    (proposeWaiting (endAbort (endCommit (seatAll (activateRows (endPass s)))))).md.epoch.phase = .none →
    mayLaunch b = false ∨ (candidates b).filter (mayStart b) = [] → exec .passBoundary s = .next b)

/-- VERIFY_PASS for a sequence that the running pass holds and that has not been in it builds its tree from its template and the drafts, with the tree's mask, and host
memory stays as it is. VERIFY_PASS_COMMIT walks the tree with the target's rows, cuts what is emitted under R239, and copies the accepted
path: the loop's tree is empty again, the sequence has its new pages and remembers how many drafts were accepted. While a pool lacks room for
the copies, nothing changes. -/
def Obligations.VerifyPassesRunAndCommit : Prop :=
  (∀ (s : State) (ra : W64) (drafts : List (List W32)) (l : DLoop) (q : Seq) (d : Draft), s.mem.ecc = [] → s.md.pass.running = true → s.md.pass.pre = none →
    (passLoops s).find? (fun p => p.1.ra = ra) = some (l, q) → l.running = false →
    l.lastPass ≠ some s.md.pass.num → d = buildTree (rowSlices s s.md.pass.mode q.home) (recParams (recBytes s l.ra)) (infoOf s q.slot q.gen).draftMap
      (tmplLevels (passTmpl s l.ra q.tmpl) (ctxLimit (infoOf s q.slot q.gen) (recBytes s l.ra) - 1 - recCommitted (recBytes s l.ra)))
      (recRoot (recBytes s l.ra)) (recCommitted (recBytes s l.ra)) drafts →
    (s.md.pass.mode = 2 → 2048 < rowsRunning s + d.nodes.length → exec (.verifyPass ra drafts) s = .next s) ∧
    ((s.md.pass.mode ≠ 2 ∨ rowsRunning s + d.nodes.length ≤ 2048) → treeOk d.nodes = true →
      ∃ u x, exec (.verifyPass ra drafts) s = .next u ∧ loopOf u ra = some x ∧ x.running = true ∧ x.tree = d.nodes ∧ x.qs = d.qs ∧ x.lastPass = some s.md.pass.num ∧
      x.mask = maskRows d.nodes (recCommitted (recBytes s l.ra)) ∧ u.mem.host = s.mem.host ∧ u.md.seqs = s.md.seqs ∧ u.cp = s.cp)) ∧
  (∀ (s : State) (ra : W64) (rows : List LogitRow) (outs : List (List Bytes)) (l : DLoop) (q : Seq) (sl : Slices) (w : Walk) (es : List Emit),
    s.mem.ecc = [] → sl = rowSlices s s.md.pass.mode q.home → loopOf s ra = some l → seqOf s ra = some q → l.running = true → s.md.pass.running = true →
    w = walkFrom (recParams (recBytes s ra)) l.tree l.qs (fun n => targetDist sl (recParams (recBytes s ra)).temp (recParams (recBytes s ra)).topP
      (recParams (recBytes s ra)).kc ((rows.getD n default).x)) l.tree.length 0 (recCommitted (recBytes s ra)) →
    es = cutEmits (infoOf s q.slot q.gen) (recBytes s ra) (emitsOf l.tree (fun n => targetDist sl (recParams (recBytes s ra)).temp
      (recParams (recBytes s ra)).topP (recParams (recBytes s ra)).kc ((rows.getD n default).x)) (fun n => (rows.getD n default).pois) w) →
    (commitAll (infoOf s q.slot q.gen) q.slot (recCommitted (recBytes s ra)) (w.path.take es.length) q.dies s = none →
      exec (.verifyPassCommit ra rows outs) s = .next s) ∧
    (∀ ds s1, commitAll (infoOf s q.slot q.gen) q.slot (recCommitted (recBytes s ra)) (w.path.take es.length) q.dies s = some (ds, s1) →
      s1.md.seqs = s.md.seqs → s1.md.loops = s.md.loops →
      ∃ u x y, exec (.verifyPassCommit ra rows outs) s = .next u ∧ loopOf u ra = some x ∧ x.running = false ∧ x.tree = [] ∧
        x.stopHit = es.any (fun e => (recStops (recBytes s ra)).contains e.token) ∧ seqOf u ra = some y ∧ y.dies = ds ∧
        y.acc = ((w.path.length - 1) :: q.acc).take 32)) ∧
  (∀ (s : State) (ra : W64) (rows : List LogitRow) (outs : List (List Bytes)), s.md.pass.running = false →
    exec (.verifyPassCommit ra rows outs) s = .next s)

/-- The first admission of a slot's queue becomes a sequence of the serving generation with its pages on every die in service, unless a pool
lacks room, when it waits; a slot without a serving generation answers NOT_READY. The last prefill pass leaves a sequence that is no longer in
prefill, with every position filled. Of the sequences that no command names, the one whose last pass lies longest back is parked in a window
with room where an admission waits and no recall could go first, and comes back when a command names it. A generation that nothing runs goes
to an empty GEN window that holds it, its frames freed, and comes back, cut for the topology in force, once HBM3 has the frames. -/
def Obligations.SequencesAreAdmittedAndParked : Prop :=
  (∀ (s s1 : State) (k : Fin 8) (a : Admit) (r : List Admit) (g : Gen) (ds : Tbl SeqDie), (s.md.slots.get k.val).admits = a :: r →
    (s.md.slots.get k.val).settling = false → leaving s = false → servingGen s k.val = some g →
    allocAll g.info k.val (modeOf s k.val) (homeDie s) (a.n + 1) (upDies s) (updSlot s k.val fun x => { x with admits := x.admits.tail }) = some (ds, s1) →
    ∃ u q, exec (.admission k) s = .next u ∧ u.md.seqs = s1.md.seqs ++ [q] ∧ q.ra = a.ra ∧ q.slot = k.val ∧ q.gen = g.num ∧ q.dies = ds ∧
      q.prefilling = true ∧ q.filled = 0 ∧ q.parked = none ∧ u.mem = s1.mem) ∧
  (∀ (s : State) (k : Fin 8) (a : Admit) (r : List Admit) (g : Gen), (s.md.slots.get k.val).admits = a :: r → servingGen s k.val = some g →
    allocAll g.info k.val (modeOf s k.val) (homeDie s) (a.n + 1) (upDies s) (updSlot s k.val fun x => { x with admits := x.admits.tail }) = none →
    exec (.admission k) s = .next s) ∧
  (∀ (s : State) (k : Fin 8) (a : Admit) (r : List Admit), (s.md.slots.get k.val).admits = a :: r → (s.md.slots.get k.val).settling = false →
    leaving s = false → servingGen s k.val = none →
    exec (.admission k) s = .next (finish (updSlot s k.val fun x => { x with admits := x.admits.tail }) a.job .notReady 0)) ∧
  (∀ (s : State) (ra : W64) (row : LogitRow) (outs : List (List Bytes)) (q : Seq) (j : JobRef), seqOf s ra = some q → jobOfSeq s ra = some j →
    s.md.pass.running = true → s.md.pass.pre = some ra → q.prefilling = true → prefillLen s j ≤ q.filled + 2048 → mirrors s = false →
    ∃ v y, exec (.prefillCommit ra row outs) s =
        .next (finish v j (rankStatus (((getJob v j).map (·.conds)).getD [])) (BitVec.ofNat 64 (prefillLen s j * 2 ^ 32 +
          firstToken (rowSlices s s.md.pass.mode q.home) (recBytes s ra) (prefillLen s j) row % 2 ^ 17))) ∧
      seqOf v ra = some y ∧ y.prefilling = false ∧ y.filled = prefillLen s j ∧ (v.md.slots.get q.slot).lastPrefill = true) ∧
  (∀ (s : State) (ra : W64) (w : Fin 64) (q : Seq) (o : Nat), s.mem.ecc = [] → seqOf s ra = some q → (s.md.slots.any fun k => !k.2.admits.isEmpty) = true →
    q.parked = none → recordNamed s ra = false → (∀ r ∈ s.md.seqs, recordNamed s r.ra = true → recallSeq s r = none) →
    (∀ r ∈ s.md.seqs, r.parked = none → recordNamed s r.ra = false → q.lastRun.toNat ≤ r.lastRun.toNat) → (tierWin s w.val).mapped = true → bitN (tierWin s w.val).use_ 0 = true →
    parkPlace s w.val (parkBytes s q) = some o →
    ∃ u y, exec (.park ra w) s = .next u ∧ seqOf u ra = some y ∧ y.parked = some (w.val, o) ∧ y.gen = q.gen ∧ u.cp = s.cp) ∧
  (∀ (s s1 : State) (ra : W64) (q : Seq) (w o : Nat) (ds : Tbl SeqDie), seqOf s ra = some q → q.parked = some (w, o) → recordNamed s ra = true →
    recallDies (infoOf s q.slot q.gen) (tierWin s w) q.slot q.dies s o = some (ds, s1) →
    exec (.recallSequence ra) s = .next (releasesDue (updSeq s1 ra fun x => { x with parked := none, dies := ds }))) ∧
  (∀ (s : State) (ra : W64) (q : Seq) (w o : Nat), seqOf s ra = some q → q.parked = some (w, o) → recordNamed s ra = false →
    exec (.recallSequence ra) s = .next s) ∧
  (∀ (s : State) (ra : W64) (w : Fin 64) (q r : Seq), seqOf s ra = some q → r ∈ s.md.seqs → r.parked = none → recordNamed s r.ra = false →
    r.lastRun.toNat < q.lastRun.toNat → exec (.park ra w) s = .next s) ∧
  (∀ (s : State) (k : Fin 8) (n : BitVec 16) (w : Fin 64) (g : Gen), s.mem.ecc = [] → genOf s k.val n = some g → g.window = none →
    (s.md.slots.get k.val).serving ≠ some n → runnablePin s k.val n = false → g.inFlight = 0 → (tierWin s w.val).mapped = true →
    bitN (tierWin s w.val).use_ 1 = true → windowHeld s w.val = false → imageLen g ≤ (tierWin s w.val).len → placed g = true →
    ∃ u y, exec (.generationPark k n w false) s = .next u ∧ genOf u k.val n = some y ∧ y.window = some w.val ∧ y.bytes = g.bytes ∧ y.shards = [] ∧
      u.mem = (copyOut s g (tierWin s w.val)).mem) ∧
  (∀ (s : State) (k : Fin 8) (n : BitVec 16) (w : Fin 64) (g : Gen) (r : State × Gen), genOf s k.val n = some g → g.window = some w.val →
    r = layWith s { g with window := none } (imageBytesOf s g (tierWin s w.val)) →
    (placed r.2 = true → ∃ u y, exec (.generationPark k n w true) s = .next u ∧ genOf u k.val n = some y ∧ y.window = none ∧ y.bytes = g.bytes ∧
      y.cut = s.md.epoch.line ∧ u.mem = r.1.mem) ∧
    (placed r.2 = false → exec (.generationPark k n w true) s = .next s))

/-- The governor notes a slot's estimates and counts windows in which the other mode is at least 15 % faster; a pinned slot asks for no epoch.
A message with another epoch number than a die expects is ignored. PROPOSE makes a die whose arcs are quiet prepared, with its audit sums
recorded, or one that cannot hold the configuration refused. PREPARED of a die that is not the last is noted; when with the last one the audit
sums agree, the commit begins. REFUSED and a passed PREPARED deadline abort. COMMIT gives a prepared die its next epoch; a COMMITTED that
is not the last is noted. ABORT makes a prepared die unprepared and counts the revert; a repeated one gets its reply again. A die that misses a later deadline is retired. A settle
stage whose copies fit ends. -/
def Obligations.EpochChangesInTwoPhases : Prop :=
  (∀ (s : State) (k : Fin 8) (x : Measured), (servingGen s k.val).isSome = true → pinOf s (s.md.slots.get k.val) ≠ 0 →
    ∃ u, exec (.governorEvaluation k x) s = .next u ∧ (u.md.slots.get k.val).est = estimate s k.val x ∧
      (u.md.slots.get k.val).better = betterNow (s.md.slots.get k.val) (estimate s k.val x) ∧ u.md.epoch = s.md.epoch ∧
      (u.md.slots.get k.val).mode = (s.md.slots.get k.val).mode ∧ u.mem = s.mem) ∧
  (∀ (s : State) (k : Fin 8) (x : Measured) (m : Nat), (servingGen s k.val).isSome = true →
    proposal s k.val (s.md.slots.get k.val) (estimate s k.val x) (betterNow (s.md.slots.get k.val) (estimate s k.val x)) = some m →
    ∃ u, exec (.governorEvaluation k x) s = .next u ∧ u.md.epoch.waiting = s.md.epoch.waiting ++ [.mode k.val m none] ∧
      (u.md.slots.get k.val).better = 0 ∧ u.mem = s.mem) ∧
  (∀ (y : Slot) (e : Estimate), (115 * (ratesOf y e).1 ≤ 100 * (ratesOf y e).2 → betterNow y e = y.better + 1) ∧
    (100 * (ratesOf y e).2 < 115 * (ratesOf y e).1 → betterNow y e = 0)) ∧
  (∀ (s : State) (d : Die) (n : W32) (ok : Bool), s.md.epoch.phase = .proposed → dieUp s d.val = true → expects s d.val n = true →
    (s.dies.get d.val).prepared = false → d.val ∉ s.md.epoch.refused → (s.md.pass.running = false ∨ d.val ∈ s.md.pass.done) →
    quietAt s d.val = true → buffersReady s d.val = true →
    ∃ u, exec (.propose d n ok) s = .next u ∧ (u.dies.get d.val).prepared = ok ∧ (ok = true → (u.dies.get d.val).sums = dieSums s d.val) ∧
      u.md.epoch.refused = (if ok then s.md.epoch.refused else s.md.epoch.refused ++ [d.val]) ∧ (∀ e, e ≠ d.val → u.dies.get e = s.dies.get e) ∧
      u.mem = s.mem ∧ u.tiles = s.tiles) ∧
  (∀ (s : State) (d : Die) (n : W32) (ok : Bool), n ≠ (s.dies.get d.val).epoch + 1 →
    exec (.propose d n ok) s = .next s ∧ exec (.commit d n) s = .next s ∧ exec (.abort d n) s = .next s) ∧
  (∀ (s : State) (d : Die), s.md.epoch.phase = .proposed → dieUp s d.val = true → (s.dies.get d.val).prepared = true → d.val ∉ s.md.epoch.prepared →
    (∃ e, e < 8 ∧ dieUp s e = true ∧ e ≠ d.val ∧ e ∉ s.md.epoch.prepared) →
    ∃ u, exec (.prepared d) s = .next u ∧ u.md.epoch = { s.md.epoch with prepared := s.md.epoch.prepared ++ [d.val] } ∧ u.dies = s.dies ∧ u.mem = s.mem) ∧
  (∀ (s : State) (d : Die), s.md.epoch.phase = .proposed → dieUp s d.val = true → (s.dies.get d.val).prepared = true → d.val ∉ s.md.epoch.prepared →
    (∀ e, e < 8 → dieUp s e = true → e = d.val ∨ e ∈ s.md.epoch.prepared) → s.md.pass.running = false → s.md.freed = [] → auditWith (joinFreed (setEpoch s fun e =>
      { e with prepared := e.prepared ++ [d.val] }) none) (fun x => (s.dies.get x).sums) = [] →
    ∃ u, exec (.prepared d) s = .next u ∧ u.md.epoch.phase = .committing ∧ u.md.epoch.committed = [] ∧ u.md.epoch.num = s.md.epoch.num ∧ u.mem = s.mem) ∧
  (∀ (s : State) (d : Die), s.md.epoch.phase = .proposed → d.val ∈ s.md.epoch.refused → exec (.refused d) s = .next (abortEpoch s)) ∧
  (∀ s : State, s.md.epoch.phase = .proposed → (∃ e, e < 8 ∧ dieUp s e = true ∧ e ∉ s.md.epoch.prepared) →
    exec .preparedDeadline s = .next (abortEpoch s)) ∧
  (∀ (s : State) (e : Nat), s.md.epoch.phase = .proposed → e < 8 → dieUp s e = true → (s.dies.get e).prepared = true →
    (abortEpoch s).md.epoch.phase = .aborting ∧ (abortEpoch s).md.epoch.num = s.md.epoch.num ∧ (abortEpoch s).dies = s.dies) ∧
  (∀ (s : State) (d : Die) (n : W32), s.md.epoch.phase = .committing → dieUp s d.val = true → (s.dies.get d.val).prepared = true →
    expects s d.val n = true → ∃ u, exec (.commit d n) s = .next u ∧ (u.dies.get d.val).prepared = false ∧ (u.dies.get d.val).epoch = s.md.epoch.num + 1 ∧
      (u.dies.get d.val).line = (targetLine s).isSome ∧ (∀ e, e ≠ d.val → u.dies.get e = s.dies.get e) ∧ u.md = s.md ∧ u.mem = s.mem) ∧
  (∀ (s : State) (d : Die), s.md.epoch.phase = .committing → dieUp s d.val = true → (s.dies.get d.val).prepared = false →
    (s.dies.get d.val).epoch = s.md.epoch.num + 1 → d.val ∉ s.md.epoch.committed → (∃ e, e < 8 ∧ dieUp s e = true ∧ e ≠ d.val ∧ e ∉ s.md.epoch.committed) →
    ∃ u, exec (.committed d) s = .next u ∧ u.md.epoch = { s.md.epoch with committed := s.md.epoch.committed ++ [d.val] } ∧ u.dies = s.dies) ∧
  (∀ (s : State) (d : Die), s.md.epoch.phase = .committing → dieUp s d.val = true → (s.dies.get d.val).prepared = false →
    (s.dies.get d.val).epoch = s.md.epoch.num + 1 → d.val ∉ s.md.epoch.committed → (∀ e, e < 8 → dieUp s e = true → e = d.val ∨ e ∈ s.md.epoch.committed) →
    s.md.epoch.reqs = [] →
    ∃ u, exec (.committed d) s = .next u ∧ u.md.epoch.num = s.md.epoch.num + 1 ∧ u.md.epoch.phase = .none ∧ u.md.seqs = s.md.seqs ∧
      (∀ e, (u.dies.get e).epoch = (s.dies.get e).epoch)) ∧
  (∀ (s : State) (d : Die) (n : W32), s.md.epoch.phase = .aborting → dieUp s d.val = true → (s.dies.get d.val).prepared = true →
    expects s d.val n = true → d.val ∉ s.md.epoch.reverted → ∃ u, exec (.abort d n) s = .next u ∧ (u.dies.get d.val).prepared = false ∧ (u.dies.get d.val).abortCnt = satInc (s.dies.get d.val).abortCnt 1 ∧
      (u.dies.get d.val).epoch = (s.dies.get d.val).epoch ∧ u.md.epoch.reverted = s.md.epoch.reverted ++ [d.val] ∧ (u.dies.get d.val).lastAbort = some n ∧
      (∀ e, e ≠ d.val → u.dies.get e = s.dies.get e)) ∧
  (∀ (s : State) (d : Die) (n : W32), s.md.epoch.phase = .aborting → dieUp s d.val = true → (s.dies.get d.val).prepared = false →
    expects s d.val n = true → (s.dies.get d.val).lastAbort = some n → d.val ∉ s.md.epoch.reverted →
    exec (.abort d n) s = .next (setEpoch s fun e => { e with reverted := e.reverted ++ [d.val] })) ∧
  (∀ (s : State) (d : Die), s.md.epoch.phase = .aborting → s.md.epoch.reverted = [d.val] → (∀ e, dieUp s e = true → (s.dies.get e).prepared = false) →
    s.md.epoch.reqs = [] → ∃ u, exec (.reverted d) s = .next u ∧ u.md.epoch.phase = .none ∧ u.md.epoch.num = s.md.epoch.num ∧ u.md.epoch.reverted = []) ∧
  (∀ (s : State) (d : Die), s.md.epoch.phase = .committing → dieUp s d.val = true → d.val ∉ s.md.epoch.committed →
    exec (.committedDeadline d) s = .next (lateDie s d.val)) ∧
  (∀ (s : State) (d : Die), s.md.epoch.phase = .aborting → dieUp s d.val = true → ((s.dies.get d.val).prepared = true ∨ d.val ∈ s.md.epoch.reverted) →
    exec (.revertedDeadline d) s = .next (lateDie s d.val)) ∧
  (∀ (s : State) (k : Fin 8), (s.md.slots.get k.val).settling = true → s.md.epoch.phase = .none → (∀ q ∈ s.md.seqs, q.slot ≠ k.val) → s.cp.jobs = [] →
    ∃ u, exec (.settleComplete k) s = .next u ∧ (u.md.slots.get k.val).settling = false ∧ u.mem = s.mem ∧ u.md.seqs = s.md.seqs) ∧
  (∀ (s s1 : State) (k : Fin 8), (s.md.slots.get k.val).settling = true → s.md.epoch.phase = .none → relaySlot s k.val = some s1 →
    exec (.settleComplete k) s = .next (settledJobs (updSlot s1 k.val fun x => { x with settling := false }) k.val))

/-- A heartbeat is counted for a die that may send one, and the loss of a die's heartbeat retires it. A failed flit on an arc is counted and
replayed, and the ninth in a row retrains the arc, which is up again when its retraining is done. AUDIT_REQUEST makes an audit pending; at a quiet
point between passes the audit runs: with every sum right it is counted and source 707 fires, and a failed sum sets FAIL. -/
def Obligations.HeartbeatsArcsAndTheAudit : Prop :=
  (∀ (s : State) (d : Die), (s.dies.get d.val).st ≠ .retired → (s.dies.get d.val).st ≠ .unpowered →
    ∃ u, exec (.heartbeat d) s = .next u ∧ u.dies.get d.val = { s.dies.get d.val with hb := (s.dies.get d.val).hb + 1 } ∧
      (∀ e, e ≠ d.val → u.dies.get e = s.dies.get e) ∧ u.mem = s.mem ∧ u.tiles = s.tiles) ∧
  (∀ (s : State) (d : Die), dieUp s d.val = true → exec (.heartbeatLoss d) s = .next (endCommit (endAbort (retireDie s d.val true)))) ∧
  (∀ (s : State) (d : Die), dieUp s d.val = false → exec (.heartbeatLoss d) s = .next s) ∧
  (∀ (s : State) (k : Fin 8), (s.arcs.get k.val).flitFails < 8 →
    ∃ v, exec (.arcFlitNak k) s = .next (arcEvents v k.val 1) ∧ (v.arcs.get k.val).flitFails = (s.arcs.get k.val).flitFails + 1 ∧
      (v.arcs.get k.val).replay = satInc (s.arcs.get k.val).replay 1 ∧ (v.arcs.get k.val).st = (s.arcs.get k.val).st ∧ v.mem = s.mem) ∧
  (∀ (s : State) (k : Fin 8), 8 ≤ (s.arcs.get k.val).flitFails → exec (.arcFlitNak k) s = .next (retrainArc s k.val 0)) ∧
  (∀ (s : State) (k : Fin 8), (s.arcs.get k.val).st = 1 →
    ∃ u, exec (.arcRetrainDone k) s = .next u ∧ (u.arcs.get k.val).st = 2 ∧ (∀ n, n ≠ k.val → u.arcs.get n = s.arcs.get n) ∧
      u.evr = (fire s (688 + k.val)).evr ∧ u.mem = s.mem) ∧
  (∀ s : State, blockOn s = true → exec .auditRequest s = .next { s with flt := { s.flt with audBusy := true } }) ∧
  (∀ s : State, s.flt.audBusy = true → s.md.pass.running = false → quiet s = true → auditAll s = [] →
    exec .conservationAudit s = .next (fire { s with flt := { s.flt with audBusy := false, audits := s.flt.audits + 1 } } 707)) ∧
  (∀ (s : State) (x : AuditFail), s.flt.audBusy = true → s.md.pass.running = false → quiet s = true → auditAll s = [x] → x.die = none →
    ∃ u, exec .conservationAudit s = .next u ∧ u.flt.audFail = true ∧ u.flt.audQty = BitVec.ofNat 3 x.qty ∧ u.flt.audBusy = false ∧
      (∀ k, x.slot = some k → (u.md.slots.get k).frozen = true)) ∧
  (∀ (s : State) (d : Die), (s.dies.get d.val).st ≠ .retired → dieOut s d.val = true →
    ((retireDie s d.val true).dies.get d.val).st = .retired)

/-- KILL ends the running work command of its stream with TIMEOUT and a capture, and leaves a control command and an idle stream alone. The
watchdog ends a covered command likewise, unless its limit is 0. -/
def Obligations.KillAndWatchdog : Prop :=
  (∀ (s : State) (st : Stream) (b : Job), barOn s = true → getJob s (.stream st.val) = some b → entryOpc b.entry < 0x80 →
    exec (.kill st) s = .next (finish s (.stream st.val) .timeout 0 true)) ∧
  (∀ (s : State) (st : Stream) (b : Job), barOn s = true → getJob s (.stream st.val) = some b → 0x80 ≤ entryOpc b.entry →
    exec (.kill st) s = .next s) ∧
  (∀ (s : State) (st : Stream), barOn s = true → getJob s (.stream st.val) = none → (s.cp.streams.get st.val).frames = [] →
    exec (.kill st) s = .next s) ∧
  (∀ (s : State) (st : Stream) (b : Job), getJob s (.stream st.val) = some b → s.cp.wdog ≠ 0 → entryOpc b.entry ∈ watched →
    (entryOpc b.entry ≠ 0x0D ∨ s.glb.dieResets = []) →
    exec (.watchdogExpiry st) s = .next (finish s (.stream st.val) .timeout 0 true)) ∧
  (∀ (s : State) (st : Stream) (b : Job), getJob s (.stream st.val) = some b → (s.cp.wdog = 0 ∨ entryOpc b.entry ∉ watched ∨ (entryOpc b.entry = 0x0D ∧ s.glb.dieResets ≠ [])) →
    exec (.watchdogExpiry st) s = .next s) ∧
  (∀ (s : State) (j : JobRef) (b : Job), (releaseFor s j b .timeout true).cp.capSeq = s.cp.capSeq + 1)

/-- An accepted configuring write of an idle MBAR sets EN and EXPECT and clears n, the counts and the phases; a refused one sets CFG_ERR and
changes nothing else of the barrier, and source 660 fires; a write of the values held only acts on its W1C bits. A barrier whose CNT0 has reached
EXPECT completes its round: n advances, the new counts are as R403 says, and a waiting BARRIER command completes with OK. The timing root notes
an ARRIVE and, when it was the last, sets T_rel to its cascade time plus MARGIN. A member keeps a RELEASE until T_rel, acts at once on a late one,
which it counts, and on one that no T_rel holds for; it acts when its cascade time reaches T_rel. -/
def Obligations.BarriersRoundsAndRelease : Prop :=
  (∀ (s : State) (b : Fin 64) (v : W64), blockOn s = true → b.val < 32 → barIdle (s.bcn.mbar.get b.val) = true →
    (rbit v 63 ≠ (s.bcn.mbar.get b.val).en ∨ rfld v 42 32 ≠ (s.bcn.mbar.get b.val).expect) →
    (rbit v 63 = true → 1 ≤ rfld v 42 32 ∧ rfld v 42 32 ≤ 1040) →
    exec (.barrierConfigWrite false b v) s = .next { s with bcn := { s.bcn with mbar := (s.bcn.mbar.set b.val
      { en := rbit v 63, expect := rfld v 42 32, phaseErr := (s.bcn.mbar.get b.val).phaseErr && !rbit v 60,
        cfgErr := (s.bcn.mbar.get b.val).cfgErr && !rbit v 59 }) } }) ∧
  (∀ (s : State) (b : Fin 64) (v : W64), blockOn s = true → b.val < 32 →
    (rbit v 63 ≠ (s.bcn.mbar.get b.val).en ∨ rfld v 42 32 ≠ (s.bcn.mbar.get b.val).expect) →
    (barIdle (s.bcn.mbar.get b.val) = false ∨ (rbit v 63 = true ∧ (rfld v 42 32 = 0 ∨ 1040 < rfld v 42 32))) →
    exec (.barrierConfigWrite false b v) s = .next (fire { s with bcn := { s.bcn with mbar := s.bcn.mbar.upd b.val fun x =>
      { x with phaseErr := x.phaseErr && !rbit v 60, cfgErr := true } } } 660)) ∧
  (∀ (s : State) (b : Fin 64) (v : W64), blockOn s = true → b.val < 32 → rbit v 63 = (s.bcn.mbar.get b.val).en →
    rfld v 42 32 = (s.bcn.mbar.get b.val).expect →
    exec (.barrierConfigWrite false b v) s = .next { s with bcn := { s.bcn with mbar := s.bcn.mbar.upd b.val fun x =>
      { x with phaseErr := x.phaseErr && !rbit v 60, cfgErr := x.cfgErr && !rbit v 59 } } }) ∧
  (∀ (s : State) (b : Fin 64) (v : W64), blockOn s = true → barIdle (s.bcn.cbar.get b.val) = true → (s.bcn.cbar.get b.val).en = true →
    rbit v 63 = false →
    exec (.barrierConfigWrite true b v) s = .next { s with bcn := { s.bcn with cbar := (s.bcn.cbar.set b.val
      { en := false, expect := rfld v 42 32, phaseErr := (s.bcn.cbar.get b.val).phaseErr && !rbit v 60,
        cfgErr := (s.bcn.cbar.get b.val).cfgErr && !rbit v 59 }) } }) ∧
  (∀ (s : State) (b : Fin 64) (x : Barrier), x = s.bcn.mbar.get b.val → x.en = true → x.expect ≤ x.cnt0 → x.in0 = [] →
    exec (.barrierRoundComplete false b) s = .next { s with bcn := { s.bcn with mbar := s.bcn.mbar.set b.val { x with
      round := x.round + 1, cnt0 := x.cnt1, in0 := x.in1, cnt1 := x.held.length, in1 := x.held, held := [], sentArrive := false, trel := none } } }) ∧
  (∀ (s : State) (b : Fin 64) (j : JobRef), (s.bcn.mbar.get b.val).en = true → (s.bcn.mbar.get b.val).expect ≤ (s.bcn.mbar.get b.val).cnt0 →
    (s.bcn.mbar.get b.val).in0 = [.job j] →
    exec (.barrierRoundComplete false b) s = .next (finish (updBar s false b.val nextRound) j .ok (now s))) ∧
  (∀ (s : State) (b : Fin 64), (s.bcn.mbar.get b.val).cnt0 < (s.bcn.mbar.get b.val).expect →
    exec (.barrierRoundComplete false b) s = .next s) ∧
  (∀ (s : State) (m : Fin 512) (c : Fin 64) (n : BitVec 2), s.bcn.root = true → (s.bcn.cbar.get c.val).round = n →
    (s.bcn.cbar.get c.val).arrived = [] → (∃ k ∈ membersIn s, k ≠ m.val) →
    exec (.arrive m c n) s = .next { s with bcn := { s.bcn with cbar := s.bcn.cbar.upd c.val fun b => { b with arrived := [4 * m.val + n.toNat] } } }) ∧
  (∀ (s : State) (m : Fin 512) (c : Fin 64) (n : BitVec 2), s.bcn.root = true → (s.bcn.cbar.get c.val).round = n →
    (s.bcn.cbar.get c.val).trel = none → (∀ k ∈ membersIn s, k = m.val ∨ 4 * k + n.toNat ∈ (s.bcn.cbar.get c.val).arrived) →
    ∃ u, exec (.arrive m c n) s = .next u ∧ (u.bcn.cbar.get c.val).trel = some (cascTime s + BitVec.ofNat 64 s.bcn.margin.toNat) ∧
      (u.bcn.cbar.get c.val).round = n ∧ u.mem = s.mem ∧ u.cp = s.cp ∧ u.tiles = s.tiles) ∧
  (∀ (s : State) (c : Fin 64) (n : BitVec 2) (t : W64), (s.bcn.cbar.get c.val).en = true → (s.bcn.cbar.get c.val).round = n →
    (s.bcn.cbar.get c.val).trel = none → onReceipt s = false → (cascTime s - t).toInt ≤ 0 →
    exec (.release c n t) s = .next (updBar s true c.val fun b => { b with trel := some t })) ∧
  (∀ (s : State) (c : Fin 64) (n : BitVec 2) (t : W64), (s.bcn.cbar.get c.val).en = true → (s.bcn.cbar.get c.val).round = n →
    (s.bcn.cbar.get c.val).trel = none → onReceipt s = false → 0 < (cascTime s - t).toInt →
    exec (.release c n t) s =
      .next (completeRound (fire { s with bcn := { s.bcn with lateRel := satInc s.bcn.lateRel 1 } } 660) true c.val)) ∧
  (∀ (s : State) (c : Fin 64) (n : BitVec 2) (t : W64), (s.bcn.cbar.get c.val).en = true → (s.bcn.cbar.get c.val).round = n →
    (s.bcn.cbar.get c.val).trel = none → s.bcn.aligned = false → s.bcn.root = false →
    exec (.release c n t) s = .next (completeRound s true c.val)) ∧
  (∀ (s : State) (c : Fin 64) (t : W64), (s.bcn.cbar.get c.val).trel = some t → (s.bcn.cbar.get c.val).in0 = [] → s.bcn.root = false →
    (s.bcn.cbar.get c.val).cnt1 < (s.bcn.cbar.get c.val).expect →
    exec (.cascadeReleaseTime c) s = .next (updBar s true c.val nextRound)) ∧
  (∀ (s : State) (c : Fin 64), (s.bcn.cbar.get c.val).trel = none → exec (.cascadeReleaseTime c) s = .next s)

/-- The root's offset stays as it is, and MARGIN covers the largest delay it has measured plus 16. Any other member of the cascade with a route to
the root steps its offset at its first measurement and afterwards moves it by one cycle at most; ALIGNED follows the error's bounds. A module in
no cascade measures nothing. Whatever the measurements, the local beacon and the barriers are not touched. -/
def Obligations.CascadeTimeIsMeasured : Prop :=
  (∀ (s : State) (a b c d : W64), s.lk.joined = true → s.bcn.root = true →
    ∃ u, exec (.beaconExchange a b c d) s = .next u ∧ u.bcn.offset = s.bcn.offset ∧ s.bcn.margin.toNat ≤ u.bcn.margin.toNat ∧
      (owDelay a b c d ≤ 0xFFEF → owDelay a b c d + 16 ≤ u.bcn.margin.toNat) ∧ u = { s with bcn := { s.bcn with margin := u.bcn.margin } }) ∧
  (∀ (s : State) (a b c d : W64) (p : Nat), s.lk.joined = true → s.bcn.root = false → routeTo s 0 = some p → s.bcn.measured = false →
    ∃ u, exec (.beaconExchange a b c d) s = .next u ∧ u.bcn.offset = s.bcn.offset + BitVec.ofInt 64 (offsetError a b c d) ∧
      u.bcn.measured = true ∧ u.bcn.upport = BitVec.ofNat 3 p ∧ u.bcn.local_ = s.bcn.local_ ∧ u.bcn.mbar = s.bcn.mbar ∧ u.bcn.cbar = s.bcn.cbar ∧
      u.mem = s.mem) ∧
  (∀ (s : State) (a b c d : W64) (p : Nat), s.lk.joined = true → s.bcn.root = false → routeTo s 0 = some p → s.bcn.measured = true →
    ∃ u, exec (.beaconExchange a b c d) s = .next u ∧
      (0 < offsetError a b c d → u.bcn.offset = s.bcn.offset + 1) ∧ (offsetError a b c d < 0 → u.bcn.offset = s.bcn.offset - 1) ∧
      (offsetError a b c d = 0 → u.bcn.offset = s.bcn.offset) ∧
      ((offsetError a b c d).natAbs ≤ 1 → u.bcn.aligned = true) ∧ (4 < (offsetError a b c d).natAbs → u.bcn.aligned = false) ∧
      (1 < (offsetError a b c d).natAbs → (offsetError a b c d).natAbs ≤ 4 → u.bcn.aligned = s.bcn.aligned) ∧
      u.bcn.local_ = s.bcn.local_ ∧ u.bcn.mbar = s.bcn.mbar ∧ u.bcn.cbar = s.bcn.cbar ∧ u.mem = s.mem) ∧
  (∀ (s : State) (a b c d : W64), s.lk.joined = false → exec (.beaconExchange a b c d) s = .next s)

/-- A doorbell of 960 to 1023 fires its source and any other value is counted in DB_IGN. EVR_FCLR leaves the counter at the fires of its cycle.
EVR_ENw replaces the 32 enable bits and EVR_PENDw the 32 pending bits of its sources, where a set of the same cycle wins; every other source keeps
its state. A message that was pending for a vector is sent when the vector is unmasked. -/
def Obligations.EventRouterWords : Prop :=
  (∀ (s : State) (v : W32), blockOn s = true → 960 ≤ v.toNat % 1024 →
    exec (.evrDoorbell v) s = .next { s with evr := { s.evr with srcs := s.evr.srcs.upd (v.toNat % 1024) fun r =>
      { r with fire := r.fire + 1, merged := r.merged + (if r.pend then 1 else 0), pend := true } } }) ∧
  (∀ (s : State) (v : W32), blockOn s = true → v.toNat % 1024 < 960 →
    exec (.evrDoorbell v) s = .next { s with evr := { s.evr with dbIgn := satInc s.evr.dbIgn 1 } }) ∧
  (∀ (s : State) (v : W32) (k : Nat), blockOn s = true → srcExists (v.toNat % 1024) = true →
    ∃ u, exec (.evrFclr v k) s = .next u ∧ (u.evr.srcs.get (v.toNat % 1024)).fire = BitVec.ofNat 16 k ∧
      (u.evr.srcs.get (v.toNat % 1024)).pend = ((s.evr.srcs.get (v.toNat % 1024)).pend || decide (0 < k)) ∧
      (∀ n, n ≠ v.toNat % 1024 → u.evr.srcs.get n = s.evr.srcs.get n) ∧ u.evr.keepers = s.evr.keepers ∧ u.evr.hostqs = s.evr.hostqs ∧ u.mem = s.mem) ∧
  (∀ (s : State) (w : Fin 32) (v : W32), blockOn s = true →
    ∃ u, exec (.evrEnWrite w v) s = .next u ∧
      (∀ i, i < 32 → u.evr.srcs.get (32 * w.val + i) = { s.evr.srcs.get (32 * w.val + i) with en := v.getLsbD i }) ∧
      (∀ n, n / 32 ≠ w.val → u.evr.srcs.get n = s.evr.srcs.get n) ∧ u = { s with evr := { s.evr with srcs := u.evr.srcs } }) ∧
  (∀ (s : State) (w : Fin 32) (v hw : W32), blockOn s = true →
    ∃ u, exec (.evrPendWrite w v hw) s = .next u ∧
      (∀ i, i < 32 → (u.evr.srcs.get (32 * w.val + i)).pend = (v.getLsbD i || (hw.getLsbD i && srcExists (32 * w.val + i))) ∧
        (u.evr.srcs.get (32 * w.val + i)).fire =
          (s.evr.srcs.get (32 * w.val + i)).fire + (if hw.getLsbD i && srcExists (32 * w.val + i) then 1 else 0) ∧
        (u.evr.srcs.get (32 * w.val + i)).en = (s.evr.srcs.get (32 * w.val + i)).en) ∧
      (∀ n, n / 32 ≠ w.val → u.evr.srcs.get n = s.evr.srcs.get n) ∧ u.evr.keepers = s.evr.keepers ∧ u.mem = s.mem) ∧
  (∀ (s : State) (v : Fin 64), barOn s = true → s.glb.msixPend.get v.val = true →
    ∃ u, exec (.msixVectorUnmask v) s = .next u ∧ u.out = s.out ++ [.msix v.val (s.glb.msixAddr.get v.val) (s.glb.msixData.get v.val)] ∧
      u.glb.msixOpen.get v.val = true ∧ u.glb.msixPend.get v.val = false ∧ (∀ n, n ≠ v.val → u.glb.msixOpen.get n = s.glb.msixOpen.get n)) ∧
  (∀ (s : State) (v : Fin 64), barOn s = true → s.glb.msixPend.get v.val = false →
    ∃ u, exec (.msixVectorUnmask v) s = .next u ∧ u.out = s.out ∧ u.glb.msixOpen.get v.val = true ∧ u.mem = s.mem)

/-- One source that stands for routing and whose only target is a keeper that accepts is written to that keeper's queue; one whose only target is
the host queue VEC is written as a 16-byte record at that queue's TAIL, with a message for the vector if the queue was empty and no message is out.
Where nothing stands for routing, nothing changes. A keeper takes the record in front by advancing HEAD by one; any other HEAD changes nothing. An
EOI of the source on top of the stack restores RUNPRIO and clears ACT, and any other sets EOI_ERR and is logged. A sleeping keeper wakes for an
enabled pending source of its mask, with the EN that it had. A HEAD within TAIL is taken by a host queue, and an enable with its checks right
starts the queue empty; a wrong size leaves it disabled. -/
def Obligations.EventsReachTheirTargets : Prop :=
  (∀ s : State, (s.evr.srcs.filter fun p => routable p.1 p.2) = [] → exec .eventRouting s = .next s) ∧
  (∀ (s : State) (n k : Nat) (r : Src), (s.evr.srcs.filter fun p => routable p.1 p.2) = [(n, r)] → s.evr.srcs.get n = r → k < 4 →
    r.tmask = BitVec.ofNat 5 (2 ^ k) → accepts s r k = true →
    ∃ u, exec .eventRouting s = .next u ∧
      (u.evr.keepers.get k).q = (s.evr.keepers.get k).q ++ [⟨n, r.prio.toNat, r.refire, r.fire, now s⟩] ∧
      (u.evr.keepers.get k).tail = (s.evr.keepers.get k).tail + 1 ∧ (u.evr.srcs.get n).pend = false ∧ (u.evr.srcs.get n).queued = true ∧
      (u.evr.srcs.get n).last = k ∧ (u.evr.srcs.get n).fire = r.fire ∧ (∀ m, m ≠ n → u.evr.srcs.get m = s.evr.srcs.get m) ∧
      (∀ m, m ≠ k → u.evr.keepers.get m = s.evr.keepers.get m) ∧ u.mem = s.mem ∧ u.out = s.out) ∧
  (∀ (s : State) (n : Nat) (r : Src) (q : HostEvq), (s.evr.srcs.filter fun p => routable p.1 p.2) = [(n, r)] → s.evr.srcs.get n = r →
    r.tmask = 16 → q = s.evr.hostqs.get r.vec.toNat → q.en = true → evqFull q = false → s.pins.d3 = false →
    ∃ u, exec .eventRouting s = .next u ∧
      u.mem = (hostWrite s (rfld q.base 63 12 * 4096 + 16 * (q.tail % evqSize q)) (eventRecord s n r q.phase)).mem ∧
      (u.evr.hostqs.get r.vec.toNat).tail = (q.tail + 1) % (2 * evqSize q) ∧ (u.evr.hostqs.get r.vec.toNat).head = q.head ∧
      (u.evr.srcs.get n).pend = false ∧ (u.evr.srcs.get n).queued = false ∧ (∀ m, m ≠ n → u.evr.srcs.get m = s.evr.srcs.get m) ∧
      (evqCount q = 0 → q.sent = false → s.glb.msixOpen.get r.vec.toNat = true →
        u.out = s.out ++ [.msix r.vec.toNat (s.glb.msixAddr.get r.vec.toNat) (s.glb.msixData.get r.vec.toNat)]) ∧
      (q.sent = true → u.out = s.out)) ∧
  (∀ (s : State) (k : Fin 4) (r : KRec) (l : List KRec), (s.evr.keepers.get k.val).q = r :: l →
    ∃ u, exec (.keeperTake k ((s.evr.keepers.get k.val).head + 1)) s = .next u ∧ (u.evr.keepers.get k.val).q = l ∧
      (u.evr.keepers.get k.val).stack = ((s.evr.keepers.get k.val).runPrio, r.src) :: (s.evr.keepers.get k.val).stack ∧
      (u.evr.keepers.get k.val).runPrio = r.prio ∧ (u.evr.keepers.get k.val).head = (s.evr.keepers.get k.val).head + 1 ∧
      (u.evr.srcs.get r.src).act = true ∧ (∀ m, m ≠ r.src → u.evr.srcs.get m = s.evr.srcs.get m) ∧
      (∀ m, m ≠ k.val → u.evr.keepers.get m = s.evr.keepers.get m) ∧ u.mem = s.mem) ∧
  (∀ (s : State) (k : Fin 4) (h : BitVec 4), h ≠ (s.evr.keepers.get k.val).head + 1 → exec (.keeperTake k h) s = .next s) ∧
  (∀ (s : State) (k : Fin 4) (h : BitVec 4), (s.evr.keepers.get k.val).q = [] → exec (.keeperTake k h) s = .next s) ∧
  (∀ (s : State) (k : Fin 4) (src : BitVec 10) (p : Nat) (l : List (Nat × Nat)), (s.evr.keepers.get k.val).stack = (p, src.toNat) :: l →
    (s.evr.srcs.get src.toNat).pend = false →
    ∃ u, exec (.eoi k src) s = .next u ∧ (u.evr.keepers.get k.val).stack = l ∧ (u.evr.keepers.get k.val).runPrio = p ∧
      (u.evr.srcs.get src.toNat).act = false ∧ (∀ m, m ≠ src.toNat → u.evr.srcs.get m = s.evr.srcs.get m) ∧ u.flt = s.flt ∧ u.mem = s.mem) ∧
  (∀ (s : State) (k : Fin 4) (src : BitVec 10), (∀ p n l, (s.evr.keepers.get k.val).stack = (p, n) :: l → n ≠ src.toNat) →
    ∃ u, exec (.eoi k src) s = .next u ∧ (u.evr.keepers.get k.val).eoiErr = true ∧
      (u.evr.keepers.get k.val).stack = (s.evr.keepers.get k.val).stack ∧ u.flt.logSeq = s.flt.logSeq + 1 ∧ u.mem = s.mem) ∧
  (∀ (s : State) (k : Fin 4), (s.evr.keepers.get k.val).sleep = true → wakes s k.val = true →
    ∃ u, exec (.keeperWake k) s = .next u ∧
      u.evr.keepers.get k.val = { s.evr.keepers.get k.val with sleep := false, en := (s.evr.keepers.get k.val).savedEn } ∧ u.evr.srcs = s.evr.srcs) ∧
  (∀ (s : State) (k : Fin 4), wakes s k.val = false → exec (.keeperWake k) s = .next s) ∧
  (∀ (s : State) (k : Fin 4), (s.evr.keepers.get k.val).sleep = false →
    ∃ u, exec (.keeperSleep k) s = .next u ∧
      u.evr.keepers.get k.val = { s.evr.keepers.get k.val with sleep := true, savedEn := (s.evr.keepers.get k.val).en } ∧ u.evr.srcs = s.evr.srcs) ∧
  (∀ (s : State) (v : Fin 64) (h : BitVec 13) (q : HostEvq), blockOn s = true → q = s.evr.hostqs.get v.val → q.en = true →
    h.toNat = q.tail → q.tail < 2 * evqSize q → q.head < 2 * evqSize q →
    exec (.hostEventQueueHead v h) s = .next { s with evr := { s.evr with hostqs := s.evr.hostqs.upd v.val fun x => { x with head := q.tail, sent := false } } }) ∧
  (∀ (s : State) (v : Fin 64) (h : BitVec 13), (s.evr.hostqs.get v.val).en = false → exec (.hostEventQueueHead v h) s = .next s) ∧
  (∀ (s : State) (v : Fin 64) (w : W64), blockOn s = true → (s.evr.hostqs.get v.val).en = false → rbit w 0 = true →
    evqOk (rfld (w &&& 0xFFFFFFFFFFFFF000) 63 12) (s.evr.hostqs.get v.val).log2 = true →
    exec (.hostEventQueueEnable v w) s = .next { s with evr := { s.evr with hostqs := s.evr.hostqs.upd v.val fun q =>
      { q with base := w &&& 0xFFFFFFFFFFFFF000, en := true, head := 0, tail := 0, phase := true, sent := false } } }) ∧
  (∀ (s : State) (v : Fin 64) (w : W64), blockOn s = true → (s.evr.hostqs.get v.val).en = false → rbit w 0 = true →
    ((s.evr.hostqs.get v.val).log2 < 6 ∨ 12 < (s.evr.hostqs.get v.val).log2) →
    ∃ u, exec (.hostEventQueueEnable v w) s = .next u ∧ (u.evr.hostqs.get v.val).en = false ∧ u.hq.sqErr = true)

/-- A buoy goes out in its order against a buoy credit, the first frame of an own run with what the ring engine reads against a WEIGHT credit,
and the first contribution of a gradient chain against a GRAD credit; in a direction without a next die nothing goes out. A WEIGHT frame of the
running pass that arrives whole after its LAYER buoy is stored, one before it abandons the pass; one with a damaged payload keeps its slot and is
asked for again; one of the next pass is held; one of another pass is counted and its credit returns; a damaged header abandons the pass. The
entry of a run goes to the tile of its group, once; its frames then go to the tile's port, free their slot, return their credit, and go on where
the die forwards them; buoys that waited for them follow. CREDIT_RETURN adds the credit that stands in front of the service channel. -/
def Obligations.FramesTravelTheRing : Prop :=
  (∀ (s : State) (d : Die) (dir : Dir) (f : Emission), nextDie s d.val dir = none → exec (.frameEmit d dir f) s = .next s) ∧
  (∀ (s : State) (d : Die) (dir : Dir) (n : Nat), nextDie s d.val dir = some n → inSweep s d.val = true → needsGen s = true →
    (ringOf (s.dies.get d.val) dir).ownGen = false → (ringOf (s.dies.get d.val) dir).ownLayer = 0 → creditsOf s d.val dir 64 ≠ 0 →
    ∃ u, exec (.frameEmit d dir .genBuoy) s = .next u ∧ (outOf (u.dies.get d.val) dir).q = (outOf (s.dies.get d.val) dir).q ++
        [mkFrame (mkHdr s 0xA dir false false d.val 0 0 0 0 0 s.md.pass.prevGen.toNat) [] 0] ∧
      (ringOf (u.dies.get d.val) dir).ownGen = true ∧ creditsOf u d.val dir 64 = creditsOf s d.val dir 64 - 1 ∧
      (∀ e, e ≠ d.val → u.dies.get e = s.dies.get e) ∧ u.mem = s.mem ∧ u.tiles = s.tiles ∧ u.md = (takePassRef s).md) ∧
  (∀ (s : State) (d : Die) (dir : Dir) (n : Nat), nextDie s d.val dir = some n → inSweep s d.val = true →
    (needsGen s = false ∨ (ringOf (s.dies.get d.val) dir).ownGen = true) → (ringOf (s.dies.get d.val) dir).ownLayer < passLayers s →
    layerSent s d.val dir = true → (ringOf (s.dies.get d.val) dir).ownEnd = false → creditsOf s d.val dir 64 ≠ 0 →
    ∃ u, exec (.frameEmit d dir .layerBuoy) s = .next u ∧ (outOf (u.dies.get d.val) dir).q = (outOf (s.dies.get d.val) dir).q ++
        [mkFrame (mkHdr s 0x8 dir false false d.val 0 (layerNo s ((ringOf (s.dies.get d.val) dir).ownLayer + 1)) 0 0 0 0) [] 0] ∧
      (ringOf (u.dies.get d.val) dir).ownLayer = (ringOf (s.dies.get d.val) dir).ownLayer + 1 ∧
      (∀ e, e ≠ d.val → u.dies.get e = s.dies.get e) ∧ u.mem = s.mem ∧ u.md = (takePassRef s).md) ∧
  (∀ (s : State) (d : Die) (dir : Dir) (n : Nat), nextDie s d.val dir = some n → inSweep s d.val = true →
    (ringOf (s.dies.get d.val) dir).ownLayer = passLayers s → layerSent s d.val dir = true → (ringOf (s.dies.get d.val) dir).ownEnd = false →
    creditsOf s d.val dir 64 ≠ 0 →
    ∃ u, exec (.frameEmit d dir .passEnd) s = .next u ∧ (outOf (u.dies.get d.val) dir).q = (outOf (s.dies.get d.val) dir).q ++
        [mkFrame (mkHdr s 0x9 dir false false d.val 0 0 0 0 0 (ringOf (s.dies.get d.val) dir).sent.length) [] 0] ∧
      (ringOf (u.dies.get d.val) dir).ownEnd = true ∧ (∀ e, e ≠ d.val → u.dies.get e = s.dies.get e) ∧ u.mem = s.mem) ∧
  (∀ (s : State) (d : Die) (dir : Dir) (seg : BitVec 4) (g : Fin 32) (n t layer : Nat) (us : List SendUnit) (p : List PByte), s.mem.ecc = [] →
    nextDie s d.val dir = some n → inSweep s d.val = true → nextOwn s d.val dir g.val = some seg.toNat → ownReady s d.val dir g.val = true →
    (ringOf (s.dies.get d.val) dir).outRun.get g.val = none → ownMayBegin s d.val dir g.val = true →
    layer = layerNo s (ringOf (s.dies.get d.val) dir).ownLayer → us = runUnits s d.val layer seg.toNat g.val → t = groupTile s d.val g.val dir →
    (ownDelivers s d.val dir = false ∨ (portFits s t dir (min 4096 (sendLen us)) = true ∧ runRoom s d.val t = true)) →
    copyFor (ringOf (s.dies.get d.val) dir) layer seg.toNat g.val 0 = none → p = (readFrame s us 0).2 →
    ∃ u, exec (.frameEmit d dir (.weight seg g)) s = .next u ∧ (outOf (u.dies.get d.val) dir).q = (outOf (s.dies.get d.val) dir).q ++
        [mkFrame (mkHdr s 1 dir (decide (sendLen us ≤ 4096)) (anyPois p) d.val (min 4096 (sendLen us)) layer seg.toNat g.val 0 0) (plain p) (sendLen us)] ∧
      creditsOf u d.val dir (2 * g.val) = creditsOf s d.val dir (2 * g.val) - 1 ∧
      (ownDelivers s d.val dir = true → (u.tiles.get t).ports.get (rePort dir) = (s.tiles.get t).ports.get (rePort dir) ++
        (plain p).map fun x => (x, hPois (mkHdr s 1 dir (decide (sendLen us ≤ 4096)) (anyPois p) d.val (min 4096 (sendLen us)) layer seg.toNat g.val 0 0))) ∧
      (∀ k, k ≠ t → u.tiles.get k = s.tiles.get k) ∧ (∀ e, e ≠ d.val → u.dies.get e = s.dies.get e) ∧ u.mem = s.mem ∧ u.md = (takePassRef s).md) ∧
  (∀ (s : State) (d owner : Die) (dir : Dir) (layer : BitVec 12) (seg : BitVec 4) (g : Fin 32) (fidx : Nat) (pois : Bool) (pay : Bytes) (n : Nat),
    nextDie s d.val dir = some n → inSweep s d.val = true → s.md.pass.bwd = true → chainHead s owner.val dir = d.val → owner ≠ d → pay ≠ [] →
    pay.length = gradLen s owner.val layer.toNat seg.toNat g.val fidx → creditsOf s d.val dir (2 * g.val + 1) ≠ 0 →
    g.val ∈ dirGroups s.md.epoch.line.isSome dir →
    ∃ u, exec (.frameEmit d dir (.grad layer seg g owner fidx pay pois)) s = .next u ∧ (outOf (u.dies.get d.val) dir).q =
        (outOf (s.dies.get d.val) dir).q ++ [mkFrame (mkHdr s 2 dir
          (decide (gradBytes s.md.pass.slot * runWeights s owner.val layer.toNat seg.toNat g.val ≤ 4096 * (fidx + 1))) pois owner.val pay.length
          layer.toNat seg.toNat g.val fidx 0) pay 0] ∧
      creditsOf u d.val dir (2 * g.val + 1) = creditsOf s d.val dir (2 * g.val + 1) - 1 ∧ u.mem = s.mem ∧ u.tiles = s.tiles ∧ u.md = (takePassRef s).md) ∧
  (∀ (s : State) (d : Die) (dir : Dir) (hx px : Bytes) (p : Nat) (g f : Frame), prevDie s d.val dir = some p →
    headFrame s d.val dir = some g → hKind g.hdr = 1 → mayArrive s d.val dir = true → f = damaged g hx px → hcrcOk f.hdr = true →
    hKind f.hdr = 1 → hPass f.hdr = (s.dies.get d.val).pass → s.md.pass.running = true → (s.dies.get d.val).passDone = false →
    (afterLayer s d.val dir f = true → pcrcOk f = true → hGen f.hdr = s.md.pass.gen →
      ∃ u, exec (.frameArrival d dir hx px) s = .next u ∧
        (ringOf (u.dies.get d.val) dir).buf = (ringOf (s.dies.get d.val) dir).buf ++ [⟨f, .queued, false⟩] ∧
        (outOf (u.dies.get p) dir).q = (outOf (s.dies.get p) dir).q.tail ∧ u.mem = s.mem ∧ u.tiles = s.tiles ∧ u.md = s.md) ∧
    (afterLayer s d.val dir f = true → pcrcOk f = false → hPois f.hdr = false →
      ∃ v, exec (.frameArrival d dir hx px) s = .next (arcEvents v (arcIn d.val dir) 1) ∧
        (ringOf (v.dies.get d.val) dir).buf = (ringOf (s.dies.get d.val) dir).buf ++ [⟨f, .kept 1, false⟩] ∧
        (outOf (v.dies.get d.val) (opposite dir)).svc = (outOf (s.dies.get d.val) (opposite dir)).svc ++ [.rereq (hOwner f.hdr) f.hdr] ∧
        (v.dies.get d.val).swPcrc = satInc (s.dies.get d.val).swPcrc 1 ∧ (v.dies.get d.val).swResend = satInc (s.dies.get d.val).swResend 1 ∧
        v.mem = s.mem ∧ v.md = s.md) ∧
    (afterLayer s d.val dir f = false → exec (.frameArrival d dir hx px) s = .next (headFault (popFrame s d.val dir) d.val dir))) ∧
  (∀ (s : State) (d : Die) (dir : Dir) (hx px : Bytes) (g f : Frame),
    headFrame s d.val dir = some g → hKind g.hdr = 1 → mayArrive s d.val dir = true → f = damaged g hx px → hcrcOk f.hdr = true →
    hKind f.hdr = 1 →
    (hPass f.hdr = (s.dies.get d.val).pass + 1 → ∃ u, exec (.frameArrival d dir hx px) s = .next u ∧
        (ringOf (u.dies.get d.val) dir).buf = (ringOf (s.dies.get d.val) dir).buf ++ [⟨f, .held, false⟩] ∧ u.md = s.md) ∧
    (hPass f.hdr ≠ (s.dies.get d.val).pass → hPass f.hdr ≠ (s.dies.get d.val).pass + 1 → ∃ u, exec (.frameArrival d dir hx px) s = .next u ∧
        (u.dies.get d.val).genDrop = satInc (s.dies.get d.val).genDrop 1 ∧ (ringOf (u.dies.get d.val) dir) = (ringOf (s.dies.get d.val) dir) ∧
        (outOf (u.dies.get d.val) (opposite dir)).svc = (outOf (s.dies.get d.val) (opposite dir)).svc ++ [.credit (ledgerKey f.hdr)] ∧ u.md = s.md)) ∧
  (∀ (s : State) (d : Die) (dir : Dir) (hx px : Bytes) (g f : Frame), headFrame s d.val dir = some g → hKind g.hdr = 1 → mayArrive s d.val dir = true →
    f = damaged g hx px → (hcrcOk f.hdr = false ∨ hKind f.hdr ≠ 1) →
    exec (.frameArrival d dir hx px) s = .next (headFault (popFrame s d.val dir) d.val dir)) ∧
  (∀ (s : State) (d : Die) (dir : Dir) (i t : Nat) (b : RSlot), takeable (ringOf (s.dies.get d.val) dir) i = some b → hFidx b.f.hdr = 0 →
    t = groupTile s d.val (hGroup b.f.hdr) dir → b.pushed = false → runRoom s d.val t = true →
    ∃ u, exec (.runEntryPush d dir i) s = .next u ∧
      (ringOf (u.dies.get d.val) dir).buf = modAt (fun x => { x with pushed := true }) (ringOf (s.dies.get d.val) dir).buf i ∧
      u.tiles = (pushRun s d.val t b.f).tiles ∧ u.md = s.md ∧ u.mem = s.mem) ∧
  (∀ (s : State) (d : Die) (dir : Dir) (i t : Nat) (b : RSlot), takeable (ringOf (s.dies.get d.val) dir) i = some b → inSweep s d.val = true →
    (hFidx b.f.hdr ≠ 0 ∨ b.pushed = true) → t = groupTile s d.val (hGroup b.f.hdr) dir → portFits s t dir b.f.pay.length = true →
    (ringOf (s.dies.get d.val) dir).outRun.get (hGroup b.f.hdr) ≠ some d.val → svcFits s d.val (opposite dir) 16 = true →
    (forwards s d.val dir (hOwner b.f.hdr) = false → ∃ v, exec (.frameTake d dir i) s = .next (flushBuoys v d.val dir) ∧
      (v.tiles.get t).ports.get (rePort dir) = (s.tiles.get t).ports.get (rePort dir) ++ b.f.pay.map (fun x => (x, hPois b.f.hdr)) ∧
      (ringOf (v.dies.get d.val) dir).buf = (ringOf (s.dies.get d.val) dir).buf.take i ++ (ringOf (s.dies.get d.val) dir).buf.drop (i + 1) ∧
      (v.dies.get d.val).taken = (s.dies.get d.val).taken + 1 ∧ (outOf (v.dies.get d.val) dir).q = (outOf (s.dies.get d.val) dir).q ∧
      (outOf (v.dies.get d.val) (opposite dir)).svc = (outOf (s.dies.get d.val) (opposite dir)).svc ++ [.credit (2 * hGroup b.f.hdr)] ∧
      (∀ k, k ≠ t → v.tiles.get k = s.tiles.get k) ∧ v.mem = s.mem ∧ v.md = s.md) ∧
    (forwards s d.val dir (hOwner b.f.hdr) = true → mayForward s d.val dir b.f = true →
      creditsOf s d.val dir (2 * hGroup b.f.hdr) ≠ 0 → ∃ v, exec (.frameTake d dir i) s = .next (flushBuoys v d.val dir) ∧
      (outOf (v.dies.get d.val) dir).q = (outOf (s.dies.get d.val) dir).q ++ [b.f] ∧
      creditsOf v d.val dir (2 * hGroup b.f.hdr) = creditsOf s d.val dir (2 * hGroup b.f.hdr) - 1 ∧
      (ringOf (v.dies.get d.val) dir).outRun.get (hGroup b.f.hdr) = (if hLast b.f.hdr then none else some (hOwner b.f.hdr)) ∧
      (∀ k, k ≠ t → v.tiles.get k = s.tiles.get k) ∧ v.mem = s.mem ∧ v.md = s.md)) ∧
  (∀ (s : State) (d : Die) (dir : Dir) (n key : Nat), svcBack s d.val dir = some (n, .credit key) →
    ∃ v, exec (.creditReturn d dir) s = .next (flushBuoys v d.val dir) ∧ creditsOf v d.val dir key = creditsOf s d.val dir key + 1 ∧
      (outOf (v.dies.get n) (opposite dir)).svc = (outOf (s.dies.get n) (opposite dir)).svc.tail ∧
      (∀ k, k ≠ key → creditsOf v d.val dir k = creditsOf s d.val dir k) ∧
      (∀ e, e ≠ d.val → e ≠ n → v.dies.get e = s.dies.get e) ∧ v.mem = s.mem ∧ v.tiles = s.tiles ∧ v.md = s.md)

/-- A buoy of the running pass in its owner's order advances the owner's progress and returns its credit where the die drops it; where the die
forwards it, it keeps its slot until it can go on against a buoy credit; out of order, or with a damaged header, the pass is abandoned, and one of
the next pass is held. A gradient frame without the die's contribution is held, marked poisoned if its payload is damaged; with it, the sum goes on
with a GRAD credit, and the owner in the ring writes the total to the slot's gradient buffer. -/
def Obligations.BuoysAndGradientsPass : Prop :=
  (∀ (s : State) (kind : Nat) (c : Instr) (d : Die) (dir : Dir) (hx : Bytes) (p : Nat) (g f : Frame),
    ((kind = 0xA ∧ c = .genBuoy d dir hx) ∨ (kind = 0x8 ∧ c = .layerBuoy d dir hx) ∨ (kind = 0x9 ∧ c = .passEndBuoy d dir hx)) →
    prevDie s d.val dir = some p → headFrame s d.val dir = some g → hKind g.hdr = kind → mayArrive s d.val dir = true → f = damaged g hx [] →
    ((hcrcOk f.hdr = false ∨ hKind f.hdr ≠ kind) → exec c s = .next (headFault (popFrame s d.val dir) d.val dir)) ∧
    (hcrcOk f.hdr = true → hKind f.hdr = kind → hPass f.hdr = (s.dies.get d.val).pass + 1 → ∃ u, exec c s = .next u ∧
      (ringOf (u.dies.get d.val) dir).buf = (ringOf (s.dies.get d.val) dir).buf ++ [⟨f, .held, false⟩] ∧
      (outOf (u.dies.get p) dir).q = (outOf (s.dies.get p) dir).q.tail ∧ u.mem = s.mem ∧ u.md = s.md) ∧
    (hcrcOk f.hdr = true → hKind f.hdr = kind → hPass f.hdr = (s.dies.get d.val).pass → s.md.pass.running = true →
      (s.dies.get d.val).passDone = false → buoyOk s ((ringOf (s.dies.get d.val) dir).prog.get (hOwner f.hdr)) f.hdr = false →
      exec c s = .next (headFault (popFrame s d.val dir) d.val dir)) ∧
    (hcrcOk f.hdr = true → hKind f.hdr = kind → hPass f.hdr = (s.dies.get d.val).pass → s.md.pass.running = true →
      (s.dies.get d.val).passDone = false → buoyOk s ((ringOf (s.dies.get d.val) dir).prog.get (hOwner f.hdr)) f.hdr = true →
      (forwards s d.val dir (hOwner f.hdr) = false → ∃ u, exec c s = .next u ∧
        (ringOf (u.dies.get d.val) dir).prog.get (hOwner f.hdr) = afterBuoy ((ringOf (s.dies.get d.val) dir).prog.get (hOwner f.hdr)) f.hdr ∧
        (outOf (u.dies.get p) dir).q = (outOf (s.dies.get p) dir).q.tail ∧
        (outOf (u.dies.get d.val) (opposite dir)).svc = (outOf (s.dies.get d.val) (opposite dir)).svc ++ [.credit 64] ∧
        u.mem = s.mem ∧ u.tiles = s.tiles ∧ u.md = s.md) ∧
      (forwards s d.val dir (hOwner f.hdr) = true → ∃ v, exec c s = .next (flushBuoys v d.val dir) ∧
        (ringOf (v.dies.get d.val) dir).buf = (ringOf (s.dies.get d.val) dir).buf ++ [⟨f, .queued, false⟩] ∧
        (ringOf (v.dies.get d.val) dir).prog.get (hOwner f.hdr) = afterBuoy ((ringOf (s.dies.get d.val) dir).prog.get (hOwner f.hdr)) f.hdr ∧
        (outOf (v.dies.get p) dir).q = (outOf (s.dies.get p) dir).q.tail ∧ v.mem = s.mem ∧ v.tiles = s.tiles ∧ v.md = s.md ∧
        (creditsOf s d.val dir 64 = 0 → flushBuoys v d.val dir = v) ∧
        (creditsOf s d.val dir 64 ≠ 0 → (ringOf (s.dies.get d.val) dir).buf = [] → ∃ u, exec c s = .next u ∧
          (outOf (u.dies.get d.val) dir).q = (outOf (s.dies.get d.val) dir).q ++ [f] ∧ (ringOf (u.dies.get d.val) dir).buf = [] ∧
          creditsOf u d.val dir 64 = creditsOf s d.val dir 64 - 1 ∧ u.mem = s.mem ∧ u.tiles = s.tiles ∧ u.md = s.md)))) ∧
  (∀ (s : State) (d : Die) (dir : Dir) (hx px : Bytes) (pois : Bool) (p : Nat) (g f : Frame), prevDie s d.val dir = some p →
    headFrame s d.val dir = some g → hKind g.hdr = 2 → mayArrive s d.val dir = true → f = damaged g hx px →
    ((hcrcOk f.hdr = false ∨ hKind f.hdr ≠ 2) → exec (.gradFrame d dir hx px none pois) s = .next (headFault (popFrame s d.val dir) d.val dir)) ∧
    (hcrcOk f.hdr = true → hKind f.hdr = 2 → hPass f.hdr = (s.dies.get d.val).pass → s.md.pass.running = true →
      ∃ u, exec (.gradFrame d dir hx px none pois) s = .next u ∧ (ringOf (u.dies.get d.val) dir).buf = (ringOf (s.dies.get d.val) dir).buf ++
          [⟨if hPois f.hdr || pcrcOk f then f else poisoned_ f, .grad, false⟩] ∧
        (outOf (u.dies.get p) dir).q = (outOf (s.dies.get p) dir).q.tail ∧ u.mem = s.mem ∧ u.md = s.md)) ∧
  (∀ (s : State) (d : Die) (dir : Dir) (hx px own : Bytes) (pois : Bool) (i : Nat) (b : RSlot), heldGrad (ringOf (s.dies.get d.val) dir) = some (i, b) →
    (own.length ≠ b.f.pay.length → exec (.gradFrame d dir hx px (some own) pois) s = .next s) ∧
    (hOwner b.f.hdr ≠ d.val → creditsOf s d.val dir (2 * hGroup b.f.hdr + 1) = 0 → exec (.gradFrame d dir hx px (some own) pois) s = .next s) ∧
    (own.length = b.f.pay.length → svcFits s d.val (opposite dir) 16 = true →
      (hOwner b.f.hdr ≠ d.val → creditsOf s d.val dir (2 * hGroup b.f.hdr + 1) ≠ 0 → ∃ u, exec (.gradFrame d dir hx px (some own) pois) s = .next u ∧
        (ringOf (u.dies.get d.val) dir).buf = (ringOf (s.dies.get d.val) dir).buf.take i ++ (ringOf (s.dies.get d.val) dir).buf.drop (i + 1) ∧
        (outOf (u.dies.get d.val) dir).q = (outOf (s.dies.get d.val) dir).q ++ [mkFrame (withFlag b.f.hdr 25 (hPois b.f.hdr || pois))
          (addGrads (Config.gradBf16 (hSlot b.f.hdr)) b.f.pay own) b.f.run] ∧ u.mem = s.mem ∧ u.md = s.md) ∧
      (hOwner b.f.hdr = d.val → s.md.epoch.line = none → ∃ u, exec (.gradFrame d dir hx px (some own) pois) s = .next u ∧
        u.mem = (storeGrad s d.val b.f.hdr (addGrads (Config.gradBf16 (hSlot b.f.hdr)) b.f.pay own) (hPois b.f.hdr || pois)).mem ∧
        (outOf (u.dies.get d.val) dir).q = (outOf (s.dies.get d.val) dir).q ∧ u.md = s.md)))

/-- A request that reaches the owner is answered with a copy read again from its shard, which carries RESENT, POIS where the read fails, and the
running pass; any other die passes it on. A good copy fills the kept slot, and a die that keeps no slot for it relays it. A failed attempt asks
again, at most four times; after that the last copy goes on as poisoned and is counted. An exchange packet that is asked for again is resent from
what the source keeps, and after the fourth failed attempt the last copy is absorbed as poisoned. -/
def Obligations.DamagedFramesAreAskedForAgain : Prop :=
  (∀ (s : State) (d : Die) (dir : Dir) (n : Nat) (h : Bytes) (us : List SendUnit) (p : List PByte) (f : Frame), s.mem.ecc = [] →
    svcBack s d.val dir = some (n, .rereq d.val h) → us = runUnits s d.val (hLayer h) (hSeg h) (hGroup h) → p = (readFrame s us (hFidx h)).2 →
    f = mkFrame (withFlag (withFlag (patch h 4 (leBytes 4 (s.md.pass.gen.toNat * 2 ^ 16 + s.md.pass.num.toNat))) 24 true) 25 (anyPois p))
      (plain p) (sendLen us) → svcFits s d.val dir (arcLen f) = true →
    ∃ u, exec (.reRequest d dir) s = .next u ∧ (outOf (u.dies.get n) (opposite dir)).svc = (outOf (s.dies.get n) (opposite dir)).svc.tail ∧
      (outOf (u.dies.get d.val) dir).svc = (outOf (s.dies.get d.val) dir).svc ++ [.resent f] ∧
      (u.dies.get d.val).swPois = (if anyPois p then satInc (s.dies.get d.val).swPois 1 else (s.dies.get d.val).swPois) ∧ u.mem = s.mem ∧ u.md = s.md) ∧
  (∀ (s : State) (d : Die) (dir : Dir) (n o : Nat) (h : Bytes), svcBack s d.val dir = some (n, .rereq o h) → o ≠ d.val →
    svcFits s d.val (opposite dir) 32 = true →
    ∃ u, exec (.reRequest d dir) s = .next u ∧ (outOf (u.dies.get n) (opposite dir)).svc = (outOf (s.dies.get n) (opposite dir)).svc.tail ∧
      (outOf (u.dies.get d.val) (opposite dir)).svc = (outOf (s.dies.get d.val) (opposite dir)).svc ++ [.rereq o h] ∧ u.mem = s.mem ∧ u.md = s.md) ∧
  (∀ (s : State) (d : Die) (dir : Dir) (hx px : Bytes) (g f : Frame) (p : Nat), svcOn s d.val dir = some (p, .resent g) → f = damaged g hx px →
    (∀ i b, keptFor (ringOf (s.dies.get d.val) dir) g.hdr = some i → (ringOf (s.dies.get d.val) dir).buf[i]? = some b →
      hcrcOk f.hdr = true → (hPois f.hdr = true ∨ pcrcOk f = true) →
      ∃ u, exec (.resentCopy d dir hx px) s = .next u ∧ (outOf (u.dies.get p) dir).svc = (outOf (s.dies.get p) dir).svc.tail ∧
        (ringOf (u.dies.get d.val) dir).buf[i]? = some { b with f := { f with run := b.f.run }, phase := .queued } ∧ u.mem = s.mem ∧ u.md = s.md) ∧
    (keptFor (ringOf (s.dies.get d.val) dir) g.hdr = none → forwards s d.val dir (hOwner g.hdr) = true → svcFits s d.val dir (arcLen g) = true →
      ∃ u, exec (.resentCopy d dir hx px) s = .next u ∧ (outOf (u.dies.get p) dir).svc = (outOf (s.dies.get p) dir).svc.tail ∧
        (outOf (u.dies.get d.val) dir).svc = (outOf (s.dies.get d.val) dir).svc ++ [.resent f] ∧ u.mem = s.mem ∧ u.tiles = s.tiles ∧ u.md = s.md)) ∧
  (∀ (s : State) (d : Die) (dir : Dir) (i n : Nat) (b : RSlot), (ringOf (s.dies.get d.val) dir).buf[i]? = some b → b.phase = .kept n →
    (n < 4 → ∃ v, exec (.reRequestTimeout d dir i) s = .next (arcEvents v (arcIn d.val dir) 1) ∧
      (ringOf (v.dies.get d.val) dir).buf[i]? = some { b with phase := .kept (n + 1) } ∧
      (outOf (v.dies.get d.val) (opposite dir)).svc = (outOf (s.dies.get d.val) (opposite dir)).svc ++ [.rereq (hOwner b.f.hdr) b.f.hdr] ∧
      (v.dies.get d.val).swResend = satInc (s.dies.get d.val).swResend 1 ∧ v.mem = s.mem) ∧
    (4 ≤ n → ∃ u, exec (.reRequestTimeout d dir i) s = .next u ∧
      (ringOf (u.dies.get d.val) dir).buf[i]? = some { b with f := poisoned_ b.f, phase := .queued } ∧
      (u.dies.get d.val).swPois = satInc (s.dies.get d.val).swPois 1 ∧ u.arcs = s.arcs ∧ u.mem = s.mem)) ∧
  (∀ (s : State) (d : Die) (dir : Dir) (h : Bytes) (g : Frame) (r n : Nat), svcBack s d.val dir = some (n, .xrereq d.val r h) →
    (s.dies.get d.val).xkept.find? (fun f => sameField f.hdr h) = some g → svcFits s d.val dir (arcLen g) = true →
    ∃ u, exec (.exchangeReRequest d dir) s = .next u ∧ (outOf (u.dies.get n) (opposite dir)).svc = (outOf (s.dies.get n) (opposite dir)).svc.tail ∧
      (outOf (u.dies.get d.val) dir).svc = (outOf (s.dies.get d.val) dir).svc ++ [.xresent r (mkFrame (withFlag g.hdr 24 true) g.pay 0)] ∧
      u.mem = s.mem ∧ u.md = s.md) ∧
  (∀ (s : State) (d : Die) (dir : Dir) (h : Bytes) (o r n : Nat), svcBack s d.val dir = some (n, .xrereq o r h) → o ≠ d.val →
    svcFits s d.val (opposite dir) 32 = true →
    ∃ u, exec (.exchangeReRequest d dir) s = .next u ∧ (outOf (u.dies.get n) (opposite dir)).svc = (outOf (s.dies.get n) (opposite dir)).svc.tail ∧
      (outOf (u.dies.get d.val) (opposite dir)).svc = (outOf (s.dies.get d.val) (opposite dir)).svc ++ [.xrereq o r h] ∧ u.mem = s.mem ∧ u.md = s.md) ∧
  (∀ (s : State) (d : Die) (i : Nat) (w : XWait), (s.dies.get d.val).xwaits[i]? = some w →
    (w.attempts < 4 → ∃ v, exec (.exchangeResendTimeout d i) s = .next (arcEvents v (arcIn d.val (xDir w.hdr)) 1) ∧
      (v.dies.get d.val).xwaits[i]? = some { w with attempts := w.attempts + 1 } ∧ (v.dies.get d.val).xResend = satInc (s.dies.get d.val).xResend 1 ∧
      v.mem = s.mem) ∧
    (4 ≤ w.attempts → ∃ v, exec (.exchangeResendTimeout d i) s = .next (absorb v d.val (poisoned_ w.last)) ∧
      (v.dies.get d.val).xwaits = (s.dies.get d.val).xwaits.take i ++ (s.dies.get d.val).xwaits.drop (i + 1) ∧
      (v.dies.get d.val).xPois = satInc (s.dies.get d.val).xPois 1 ∧ v.mem = s.mem)) ∧
  (∀ (s : State) (d : Die) (dir : Dir) (i : Nat), (ringOf (s.dies.get d.val) dir).buf[i]? = none → exec (.reRequestTimeout d dir i) s = .next s) ∧
  (∀ (s : State) (d : Die) (i : Nat), (s.dies.get d.val).xwaits[i]? = none → exec (.exchangeResendTimeout d i) s = .next s)

/-- The next packet of an own contribution, PLACE before SUM fields and each at ascending offsets, goes out, is kept, and counts as the die's own
part; both directions carry the same bytes. A whole packet of the running moored pass is absorbed (a PLACE payload is written to its destination, a
SUM payload waits) and goes on where the die forwards it. An exchange with every part present writes its sums (in the SPLIT pattern the twin half's part too) and signals its semaphores; one with a
part missing stays; a score exchange writes the summed scores of the die's divided heads. A die that has every frame, or every exchange, of the pass
reports it once, and with the last die's report the pass gives back its reference; a die that has not reports nothing. -/
def Obligations.ExchangesAndPassesComplete : Prop :=
  (∀ (s : State) (d : Die) (dir : Dir) (layer : BitVec 12) (xid : BitVec 4) (sum last pois : Bool) (off len : Nat) (pay : Bytes) (n : Nat),
    s.md.pass.slot < 8 → nextDie s d.val dir = some n → inMoored s d.val = true →
    packetAt (contribution s d.val layer.toNat xid.toNat) (packetsSent (ringOf (s.dies.get d.val) dir) layer.toNat xid.toNat) = some (sum, off, len, last) →
    (sameSent s d.val layer.toNat xid.toNat sum off = none → pay.length = len →
      ∃ u f, exec (.frameEmit d dir (.packet layer xid pay pois)) s = .next u ∧ f.pay = pay ∧ hKind f.hdr = 4 ∧ xSrc f.hdr = d.val ∧
        xSum f.hdr = sum ∧ hLast f.hdr = last ∧ hPois f.hdr = pois ∧
        (outOf (u.dies.get d.val) dir).q = (outOf (s.dies.get d.val) dir).q ++ [f] ∧ (u.dies.get d.val).xkept = (s.dies.get d.val).xkept ++ [f] ∧
        u.mem.host = s.mem.host ∧ u.md = (takePassRef s).md) ∧
    (∀ g, sameSent s d.val layer.toNat xid.toNat sum off = some g → g.pay.length = len →
      ∃ u f, exec (.frameEmit d dir (.packet layer xid pay pois)) s = .next u ∧ f.pay = g.pay ∧
        (outOf (u.dies.get d.val) dir).q = (outOf (s.dies.get d.val) dir).q ++ [f] ∧ u.mem.host = s.mem.host ∧ u.md = (takePassRef s).md)) ∧
  (∀ (s : State) (d : Die) (dir : Dir) (layer : BitVec 12) (xid : BitVec 4) (pois : Bool) (pay : Bytes),
    packetAt (contribution s d.val layer.toNat xid.toNat) (packetsSent (ringOf (s.dies.get d.val) dir) layer.toNat xid.toNat) = none →
    exec (.frameEmit d dir (.packet layer xid pay pois)) s = .next s) ∧
  (∀ (s : State) (d : Die) (dir : Dir) (hx px : Bytes) (g f : Frame) (p : Nat), prevDie s d.val dir = some p → headFrame s d.val dir = some g →
    hKind g.hdr = 4 → mayArrive s d.val dir = true → f = damaged g hx px → hcrcOk f.hdr = true →
    hKind f.hdr = 4 → s.md.pass.running = true → s.md.pass.mode ≠ 1 → hPass f.hdr = (s.dies.get d.val).pass → (hPois f.hdr = true ∨ pcrcOk f = true) →
    ∃ v, (outOf (v.dies.get p) dir).q = (outOf (s.dies.get p) dir).q.tail ∧ v.mem = s.mem ∧ v.md = s.md ∧
      (xForwards s d.val dir (xSrc f.hdr) = false → exec (.exchangePacket d dir hx px) s = .next (absorb v d.val f)) ∧
      (xForwards s d.val dir (xSrc f.hdr) = true → exec (.exchangePacket d dir hx px) s = .next (sendFrame (absorb v d.val f) d.val dir f))) ∧
  (∀ (s : State) (d : Nat) (f : Frame) (p : XPlan), planOf s (xLayer f.hdr) (xXid f.hdr) = some p → xSum f.hdr = false →
    (absorb s d f).mem = (storeMod s (dieKey d (placeAt s p (xSrc f.hdr) + xOff f.hdr)) (f.pay.map fun b => (b, hPois f.hdr))).mem) ∧
  (∀ (s : State) (d : Die) (dir : Dir) (hx px : Bytes) (g f : Frame), headFrame s d.val dir = some g → hKind g.hdr = 4 →
    mayArrive s d.val dir = true → f = damaged g hx px →
    (hcrcOk f.hdr = false ∨ hKind f.hdr ≠ 4 ∨ (s.md.pass.running = true ∧ s.md.pass.mode = 1)) →
    exec (.exchangePacket d dir hx px) s = .next (headFault (popFrame s d.val dir) d.val dir)) ∧
  (∀ (s : State) (d : Die) (layer : BitVec 12) (xid : BitVec 4) (r : XRun),
    (s.dies.get d.val).xruns.find? (fun r => r.layer = layer.toNat && r.xid = xid.toNat) = some r → r.complete = false → s.md.pass.running = true →
    (∀ p, planOf s layer.toNat xid.toNat = some p →
      (xWhole s d.val p r = false → exec (.exchangeComplete d layer xid) s = .next s) ∧
      (xWhole s d.val p r = true → ∃ u x, exec (.exchangeComplete d layer xid) s = .next u ∧ u.mem = (crossTwin (writeSums s d.val p r) d.val p r).mem ∧
        (split s = false → u.mem = (writeSums s d.val p r).mem) ∧
        (u.dies.get d.val).xruns.find? (fun r => r.layer = layer.toNat && r.xid = xid.toNat) = some x ∧ x.complete = true ∧ u.md = s.md ∧ u.cp = s.cp)) ∧
    (planOf s layer.toNat xid.toNat = none → isScore s layer.toNat xid.toNat = true → scoreWhole s (passGen s).info d.val r = true →
      ∃ u x, exec (.exchangeComplete d layer xid) s = .next u ∧ u.mem = (writeScore s (passGen s).info d.val r).mem ∧
        (u.dies.get d.val).xruns.find? (fun r => r.layer = layer.toNat && r.xid = xid.toNat) = some x ∧ x.complete = true ∧ u.md = s.md)) ∧
  (∀ (s : State) (d : Die), s.mem.ecc = [] → s.md.pass.running = true → dieUp s d.val = true → (s.dies.get d.val).passDone = false →
    (if s.md.pass.mode = 1 then sweepDone s d.val else mooredDone s d.val) = true → s.md.epoch.waiting = [] →
    ∃ u, exec (.passComplete d) s = .next u ∧ (u.dies.get d.val).passDone = true ∧
      ((∃ e, e < 8 ∧ dieUp s e = true ∧ e ≠ d.val ∧ e ∉ s.md.pass.done) → u.md = { s.md with pass := { s.md.pass with done := s.md.pass.done ++ [d.val] } }) ∧
      ((∀ e, e < 8 → dieUp s e = true → e = d.val ∨ e ∈ s.md.pass.done) →
        u.md = (endPassRef { s with md := { s.md with pass := { s.md.pass with done := s.md.pass.done ++ [d.val] } } }).md) ∧
      (∀ e, e ≠ d.val → u.dies.get e = s.dies.get e) ∧ u.mem = s.mem) ∧
  (∀ (s : State) (d : Die), (s.md.pass.running = false ∨ (if s.md.pass.mode = 1 then sweepDone s d.val else mooredDone s d.val) = false) →
    exec (.passComplete d) s = .next s)

/-- Signal takes a DOWN link of a die that is not out of service to TRAIN, training with both lane groups takes it to DISCOVER and a timeout back to DOWN; a silence or a loss of signal
takes a link without a port from DISCOVER or HELD as R448 says; every state change fires source 664 + n. A talking link sends its frame; one that
does not talk sends and takes none, and a frame with a wrong CRC is discarded. In DISCOVER a first frame of a peer is remembered, and the third in a row
with HEARD leads to the checks: a link that fails one is HELD with its cause, and one that passes is UP in its port. A failed flit is counted and
replayed, and the ninth failure retrains the link. -/
def Obligations.LinksTrainAndAreAdmitted : Prop :=
  (∀ (s : State) (n : LinkNo), (s.lk.links.get n.val).st = 0 → s.lk.twin ≠ .detached → dieOut s (n.val / 3) = false →
    exec (.linkSignalDetect n) s = .next (fire (updLink s n.val fun l => { l with st := 1 }) (664 + n.val))) ∧
  (∀ (s : State) (n : LinkNo), ((s.lk.links.get n.val).st ≠ 0 ∨ s.lk.twin = .detached ∨ dieOut s (n.val / 3) = true) →
    exec (.linkSignalDetect n) s = .next s) ∧
  (∀ (s : State) (n : LinkNo), (s.lk.links.get n.val).st = 1 → (s.lk.links.get n.val).port = none →
    exec (.linkTrained n true true) s = .next (fire (updLink s n.val fun l =>
      { l with cand := none, consec := 0, heard := false, hold := 0, st := 2 }) (664 + n.val))) ∧
  (∀ (s : State) (n : LinkNo), (s.lk.links.get n.val).st = 1 → (s.lk.links.get n.val).port = none →
    exec (.linkTrainTimeout n) s = .next (fire (updLink s n.val fun l =>
      { l with cand := none, consec := 0, heard := false, hold := 0, st := 0 }) (664 + n.val))) ∧
  (∀ (s : State) (n : LinkNo), (s.lk.links.get n.val).st = 2 → (s.lk.links.get n.val).port = none →
    exec (.linkSilenceTimeout n) s = .next (fire (updLink s n.val fun l =>
      { l with cand := none, consec := 0, heard := false, hold := 0, st := 1 }) (664 + n.val)) ∧
    exec (.linkSignalLoss n) s = exec (.linkSilenceTimeout n) s) ∧
  (∀ (s : State) (n : LinkNo), (s.lk.links.get n.val).st = 3 →
    exec (.linkSilenceTimeout n) s = .next (linkTo s n.val 1) ∧ exec (.linkSignalLoss n) s = .next (linkTo s n.val 1)) ∧
  (∀ (s : State) (n : LinkNo), (s.lk.links.get n.val).st = 4 →
    exec (.linkSilenceTimeout n) s = .next (updLink s n.val fun l => { l with heard := false })) ∧
  (∀ (s : State) (n : LinkNo), linkTalks s n.val = true → exec (.characteristicFrameSend n) s = .next (emit s (.charFrame n.val (frameOf s n.val)))) ∧
  (∀ (s : State) (n : LinkNo) (f : Bytes), (linkTalks s n.val = false ∨ frameOk f = false) → exec (.characteristicFrame n f) s = .next s) ∧
  (∀ (s : State) (n : LinkNo) (f : Bytes), (s.lk.links.get n.val).st = 2 → frameOk f = true → (s.lk.links.get n.val).cand = none →
    exec (.characteristicFrame n f) s = .next (updLink s n.val fun l =>
      { l with heard := true, cand := some (framePeer f), consec := if frameHeard f then 1 else 0 })) ∧
  (∀ (s : State) (n : LinkNo) (f : Bytes) (c : Peer) (w : State), (s.lk.links.get n.val).st = 2 → frameOk f = true →
    (s.lk.links.get n.val).cand = some c → samePeer c (framePeer f) = true → frameHeard f = true → 2 ≤ (s.lk.links.get n.val).consec →
    w = updLink s n.val (fun l => { l with heard := true, cand := some (framePeer f), consec := l.consec + 1 }) →
    (holdCause w n.val (framePeer f) ≠ 0 → ∃ u, exec (.characteristicFrame n f) s = .next u ∧ (u.lk.links.get n.val).st = 4 ∧
      (u.lk.links.get n.val).hold = holdCause w n.val (framePeer f) ∧ u.lk.ports = s.lk.ports ∧ (∀ k, k ≠ n.val → u.lk.links.get k = s.lk.links.get k) ∧
      u.mem = s.mem) ∧
    (∀ k, holdCause w n.val (framePeer f) = 0 → choosePort w n.val (framePeer f) = some k → s.lk.twin ≠ .isolated →
      ∃ u, exec (.characteristicFrame n f) s = .next u ∧ (u.lk.links.get n.val).st = 3 ∧ (u.lk.links.get n.val).port = some k ∧
        (u.lk.links.get n.val).vmin = min 1 (framePeer f).vmin ∧ (u.lk.ports.get k).isSome = true ∧
        (∀ m, m ≠ n.val → u.lk.links.get m = s.lk.links.get m) ∧ u.mem = s.mem)) ∧
  (∀ (s : State) (n : LinkNo) (f : Bytes) (q : Peer), (s.lk.links.get n.val).st = 3 → frameOk f = true → (s.lk.links.get n.val).peer = some q →
    samePeer q (framePeer f) = true →
    exec (.characteristicFrame n f) s = .next (updLink s n.val fun l => { l with heard := true, peer := some (framePeer f) })) ∧
  (∀ (s : State) (n : LinkNo), linkTalks s n.val = true → (s.lk.links.get n.val).flitFails < 8 →
    exec (.flitNak n) s = .next (linkEvents (updLink s n.val fun l =>
      { l with crcCnt := satInc l.crcCnt 1, flitFails := l.flitFails + 1, replayCnt := satInc l.replayCnt 1 }) n.val 1)) ∧
  (∀ (s : State) (n : LinkNo), linkTalks s n.val = true → 8 ≤ (s.lk.links.get n.val).flitFails →
    exec (.flitNak n) s = .next (retrainLink (updLink s n.val fun l => { l with crcCnt := satInc l.crcCnt 1, flitFails := l.flitFails + 1 }) n.val 0)) ∧
  (∀ (s : State) (n : LinkNo), linkTalks s n.val = false → exec (.flitNak n) s = .next s)

/-- A message whose class has 64 messages unacknowledged on a port waits there. One that comes in its turn on an UP link takes effect and is
acknowledged; one that was delivered before is only acknowledged, and an
acknowledgement lets the sender forget what it covers. A module that has joined sends its table with its heartbeat advanced; it takes a newer
heartbeat and a shorter route from a received row, and never its own row. A member whose heartbeat has stopped is marked LOST. A fog message is
taken once: logged, source 708 fires, and its source is LOST; a repeat changes nothing. -/
def Obligations.MessagesMembersAndFog : Prop :=
  (∀ (s : State) (p : Nat) (dst : BitVec 12) (kind : Nat) (pay : Bytes) (q : Port), s.lk.ports.get p = some q →
    64 ≤ (q.unacked.countP fun u => u.2.control = controlKind kind) →
    ∃ m, sendMsg s p dst kind pay = { s with lk := { s.lk with ports := s.lk.ports.set p (some { q with held := q.held ++ [m] }) } } ∧
      m.kind = kind ∧ m.dst = dst ∧ m.payload = pay) ∧
  (∀ (s : State) (n : LinkNo) (m : Msg) (k : Nat) (q : Port), (s.lk.links.get n.val).port = some k → s.lk.ports.get k = some q →
    (m.kind = kindAck → q.held = [] → ∃ u, exec (.message n m) s = .next u ∧
      u.lk.ports.get k = some { q with unacked := q.unacked.filter fun u => !seqUpTo u.2.seq m.seq } ∧ u.out = s.out ∧ u.mem = s.mem) ∧
    (m.kind ≠ kindAck → seqUpTo m.seq (q.nextSeq - 1) = true → q.early = [] →
      ∃ u, exec (.message n m) s = .next u ∧ u.lk.ports.get k = some q ∧ u.mem = s.mem ∧ u.cp = s.cp ∧
        u.out = s.out ++ [.link k { seq := q.nextSeq - 1, control := true, src := BitVec.ofNat 12 (chipBase s), dst := BitVec.ofNat 12 (chipBase s),
                                    kind := kindAck, payload := [] }]) ∧
    (m.kind ≠ kindAck → m.seq = q.nextSeq → q.early = [] → ∃ v, v.lk.ports.get k = some { q with nextSeq := q.nextSeq + 1 } ∧
      (∀ i, i ≠ k → v.lk.ports.get i = s.lk.ports.get i) ∧ v.mem = s.mem ∧ v.cp = s.cp ∧ v.md = s.md ∧ v.tiles = s.tiles ∧ v.out = s.out ∧
      ∀ w z, w = deliverMsg k v m → w.lk.ports.get k = some z →
        exec (.message n m) s = .next (emit w (.link k
          { seq := z.nextSeq - 1, control := true, src := BitVec.ofNat 12 (chipBase w), dst := BitVec.ofNat 12 (chipBase w), kind := kindAck,
            payload := [] })))) ∧
  (∀ (s : State) (n : LinkNo) (m : Msg), (s.lk.links.get n.val).port = none → exec (.message n m) s = .next s) ∧
  (∀ s : State, s.lk.joined = true → ∃ u, exec .memberMessageSend s = .next u ∧ u.lk.heartbeat = s.lk.heartbeat + 1 ∧
    (u.lk.members.get (selfModule s)).heartbeat = s.lk.heartbeat + 1 ∧ (u.lk.members.get (selfModule s)).valid = true ∧
    (∀ i, i ≠ selfModule s → u.lk.members.get i = s.lk.members.get i) ∧ u.lk.links = s.lk.links ∧ u.mem = s.mem) ∧
  (∀ s : State, s.lk.joined = false → s.lk.joining = false → exec .memberMessageSend s = .next s) ∧
  (∀ (s : State) (p : Fin 8) (r : MemberRow), s.lk.joined = true → portLinks s p.val ≠ [] → r.i.val ≠ selfModule s →
    ∃ u, exec (.memberMessage p [r]) s = .next u ∧ (∀ i, i ≠ r.i.val → u.lk.members.get i = s.lk.members.get i) ∧ u.mem = s.mem ∧
      (r.hops < 15 → (s.lk.members.get r.i.val).valid = false → (u.lk.members.get r.i.val).valid = true ∧ (u.lk.members.get r.i.val).port = p.val ∧
        (u.lk.members.get r.i.val).hops = r.hops + 1 ∧ (u.lk.members.get r.i.val).heartbeat = r.heartbeat) ∧
      ((s.lk.members.get r.i.val).heartbeat < r.heartbeat → (s.lk.members.get r.i.val).valid = true → (u.lk.members.get r.i.val).heartbeat = r.heartbeat) ∧
      (15 ≤ r.hops → (s.lk.members.get r.i.val).valid = false → u.lk.members.get r.i.val = s.lk.members.get r.i.val)) ∧
  (∀ (s : State) (p : Fin 8) (r : MemberRow), r.i.val = selfModule s → exec (.memberMessage p [r]) s = .next s) ∧
  (∀ (s : State) (i : Fin 512), talksMembers s = true → i.val ≠ selfModule s → (s.lk.members.get i.val).valid = true →
    (s.lk.members.get i.val).lost = false → exec (.memberHeartbeatTimeout i) s = .next (switchIn (memberLostLoads (endRemote (endTransfers
      (updMember s i.val fun e => { e with lost := true }) (fun c => c / 8 = i.val) .linkDown) fun m => m = i.val) i.val) i.val)) ∧
  (∀ (s : State) (i : Fin 512), (s.lk.members.get i.val).valid = false → exec (.memberHeartbeatTimeout i) s = .next s) ∧
  (∀ (s : State) (p : Fin 8) (f : Fog), portLinks s p.val ≠ [] → (f.group.toNat, f.module.toNat, f.bootEpoch) ∈ s.lk.fogSeen →
    exec (.fogMessage p f) s = .next s) ∧
  (∀ (s : State) (p : Fin 8) (f : Fog), portLinks s p.val ≠ [] → (f.group.toNat, f.module.toNat, f.bootEpoch) ∉ s.lk.fogSeen →
    16 * f.group.toNat + f.module.toNat ≠ selfModule s → s.lk.twin = .unpaired → (s.lk.members.get (16 * f.group.toNat + f.module.toNat)).valid = false →
    ∃ u, exec (.fogMessage p f) s = .next u ∧ u.lk.fogSeen = s.lk.fogSeen ++ [(f.group.toNat, f.module.toNat, f.bootEpoch)] ∧
      u.flt.logSeq = s.flt.logSeq + 1 ∧ (u.evr.srcs.get 708).pend = true ∧ u.out = s.out ++ ((portsUp s).filter (· ≠ p.val)).map (fun _ => .fog f) ∧ u.mem = s.mem)

/-- In MIRROR, PAIRING and DETACHING a log entry of the partner is kept in order, a checkpoint whose commit word arrived is stored and acknowledged, an
acknowledgement ends the wait of its record, and a written notice drops the command's log entry. A checkpoint without its commit word, and all twin
traffic outside those states, changes nothing. -/
def Obligations.TwinTrafficIsKept : Prop :=
  (∀ (s : State) (e r : Bytes), twinListens s = true →
    exec (.twinLogEntry e r) s = .next { s with lk := { s.lk with log := s.lk.log ++ [⟨bytesAt e 0 64, bytesAt r 0 128, none⟩] } }) ∧
  (∀ (s : State) (c : Checkpoint), twinListens s = true → c.committed = true →
    ∃ u, exec (.twinCheckpoint c) s = .next u ∧ u.lk.mirror = poolWith s.lk.mirror c ∧ u.lk.twin = s.lk.twin ∧ u.mem = s.mem ∧ u.cp = s.cp ∧
      (∀ x ∈ u.lk.log, namedRecord x.entry = c.recAddr → x.ckpt = some c) ∧ u.lk.log.map (·.entry) = s.lk.log.map (·.entry)) ∧
  (∀ (s : State) (c : Checkpoint), c.committed = false → exec (.twinCheckpoint c) s = .next s) ∧
  (∀ (s : State) (ra : W64), twinListens s = true → s.lk.unackedCk.contains ra = false → exec (.checkpointAck ra) s = .next s) ∧
  (∀ (s : State) (ra : W64) (r : List W64), s.lk.twin = .mirror → s.lk.unackedCk = ra :: r → s.lk.twinWaits = [] → s.cp.jobs = [] →
    exec (.checkpointAck ra) s = .next { s with lk := { s.lk with unackedCk := r } }) ∧
  (∀ (s : State) (tag : BitVec 16) (x : TwinLog), twinListens s = true → s.lk.log.find? (fun y => entryTag y.entry = tag.toNat) = some x →
    entryOpc x.entry ≠ 0x01 → exec (.writtenNotice tag) s = .next { s with lk := { s.lk with log := s.lk.log.erase x } }) ∧
  (∀ (s : State) (tag : BitVec 16) (x : TwinLog), twinListens s = true → s.lk.log.find? (fun y => entryTag y.entry = tag.toNat) = some x →
    entryOpc x.entry = 0x01 → byteN x.entry 16 = 2 →
    exec (.writtenNotice tag) s = .next { s with lk := { s.lk with log := s.lk.log.erase x,
                                                                   mirror := s.lk.mirror.filter fun y => y.ra ≠ namedRecord x.entry } }) ∧
  (∀ (s : State) (tag : BitVec 16) (ra : W64) (c : Checkpoint) (e r : Bytes), twinListens s = false →
    exec (.writtenNotice tag) s = .next s ∧ exec (.checkpointAck ra) s = .next s ∧ exec (.twinCheckpoint c) s = .next s ∧
    exec (.twinLogEntry e r) s = .next s)

/-- On PWR_ALERT# every die stack falls to 120 tokens at most, ALERT is set, grants are suspended and source 700 fires; its end clears ALERT and fires
700 again, and grants resume later. An input above 56 V sets INPUT_WARN; one that opens the switch, and each fatal power fault, leaves the module
unpowered with only flash, fuses and host memory as they were, after the fog message where the fault is fatal. POWER_ON of an unpowered module whose
PWR_EN need not toggle starts it with the next boot epoch, everything else at its reset value; PWR_EN_DEASSERT of a powered one ends with the power
off. Pin events of an unpowered module only move pins. -/
def Obligations.InputAlertAndPowerPins : Prop :=
  (∀ s : State, s.pins.hotSwap = true → s.pins.alert = false →
    exec .pwrAlertAssert s = .next (alertOn { s with pins := { s.pins with alert := true } })) ∧
  (∀ s : State, (alertOn s).pw.alert = true ∧ (alertOn s).pw.suspended = true ∧ ((alertOn s).evr.srcs.get 700).pend = true ∧
    (∀ d, d < 8 → dieUp (alertOn s) d = true → (tokOf (alertOn s) d).held ≤ 120)) ∧
  (∀ s : State, s.pins.hotSwap = true → s.pins.alert = true → exec .pwrAlertAssert s = .next s) ∧
  (∀ s : State, s.pins.hotSwap = true → s.pins.alert = true → exec .pwrAlertDeassert s = .next (fire { s with
    pins := { s.pins with alert := false }, pw := { s.pw with alert := false } } 700)) ∧
  (∀ s : State, s.pins.hotSwap = false → exec .pwrAlertAssert s = .next { s with pins := { s.pins with alert := true } } ∧
    exec .pwrAlertDeassert s = .next { s with pins := { s.pins with alert := false } } ∧ exec .inputHigh s = .next s ∧
    exec .inputLow s = .next s ∧ exec .overcurrent s = .next s ∧
    exec .pwrEnDeassert s = .next { s with pins := { s.pins with pwrEn := false, needPwrEn := false } }) ∧
  (∀ s : State, s.pins.alert = false → exec .grantResume s = .next { s with pw := { s.pw with suspended := false } }) ∧
  (∀ s : State, s.pins.alert = true → exec .grantResume s = .next s) ∧
  (∀ s : State, s.pins.hotSwap = true → exec .inputHigh s = .next (fire { s with pw := { s.pw with inputWarn := true } } 698)) ∧
  (∀ s : State, s.pins.hotSwap = true → exec .inputUndervoltage s = .next (offState s) ∧ exec .inputOvervoltage s = .next (offState s) ∧
    exec .inputLow s = .next (fatal (alertOn s) 3) ∧ exec .overcurrent s = .next (fatal s 6) ∧
    (s.pins.alert = true → exec .inputBelow46V s = .next (fatal s 3)) ∧ (s.pins.alert = false → exec .inputBelow46V s = .next s)) ∧
  (∀ (s : State) (d : Die) (t : BitVec 8), s.pins.hotSwap = true → dieUp s d.val = true → 105 ≤ t.toNat →
    exec (.thermalTrip d t) s = .next (fatal (thermLim (setTj s d.val t)) 4)) ∧
  (∀ (s : State) (d : Die) (t : BitVec 8), t.toNat < 105 → exec (.thermalTrip d t) s = .next s) ∧
  (∀ s : State, (offState s).pins.hotSwap = false ∧ (offState s).pins.pwrgd = false ∧ (offState s).mem = { host := s.mem.host } ∧
    (offState s).cp.jobs = [] ∧ (offState s).hq.ready = false ∧ (offState s).boot.image = s.boot.image ∧ (offState s).flt.retired = s.flt.retired ∧
    (offState s).bcn.local_ = 0 ∧ (offState s).out = s.out ∧ (offState s).pending = s.pending) ∧
  (∀ (s : State) (c : Nat), (c = 3 ∨ c = 4 ∨ c = 6) → s.boot.recovery = false → portsUp s ≠ [] →
    (fatal s c).pins.hotSwap = false ∧ (fatal s c).pins.needPwrEn = s.pins.pwrEn ∧ (fatal s c).out = s.out ++ [.fog (ownFog s c)] ∧
    (fatal s c).mem = { host := s.mem.host }) ∧
  (∀ (s : State) (t : SelfTest), s.pins.hotSwap = false → (s.pins.pwrEn && s.pins.needPwrEn) = false → s.flt.bootFaults < 3 → s.boot.committed = true →
    s.boot.image = [] → ∃ u, exec (.powerOn t) s = .next u ∧ u.pins.hotSwap = true ∧ u.pins.pwrEn = true ∧ u.pins.perst = true ∧
      u.boot.bootEpoch = nextEpoch s.boot.bootEpoch ∧ u.boot.stage = 3 ∧ u.boot.recovery = false ∧ u.boot.selfTest = t ∧ u.glb.rcLevel = 4 ∧
      u.glb.rcSource = 0 ∧ u.hq.ready = false ∧ u.mem = { host := s.mem.host } ∧ u.pw.policyCap = 3000) ∧
  (∀ (s : State) (t : SelfTest), s.pins.hotSwap = true → exec (.powerOn t) s = .next s) ∧
  (∀ (s : State) (a : State), s.pins.hotSwap = true → a = alertOn { s with pins := { s.pins with pwrEn := false } } →
    exec .pwrEnDeassert s = .next (powerDown (if a.lk.twin = .detached then a else fogOut a 3)))

/-- A grant interval sets the reserve and gives each die stack in service from 120 to 310 tokens, the equal share where none returns any; with grants
suspended it changes nothing. A sample moves THR by one step at most, up for a draw above the allowance or a hot junction, down for one 10 W or more
below. A loan lends HELD − 120 tokens, as many as the throttled die stacks borrow, and is counted; where a condition of R505 fails nothing is lent. A
recall ends it. -/
def Obligations.TokensAreGrantedAndLent : Prop :=
  (∀ (s : State) (r : Nat) (l : List Nat), s.pw.suspended = false → ∃ u, exec (.grantInterval r l) s = .next u ∧ u.pw.reserve = reserveFor r ∧
    160 ≤ u.pw.reserve ∧ u.pw.reserve ≤ 720 ∧ (∀ d, d < 8 → dieUp s d = true → 120 ≤ (tokOf u d).held ∧ (tokOf u d).held ≤ 310) ∧
    (∀ d, d < 8 → dieUp s d = false → (tokOf u d).held = 0) ∧
    (l = [] → ∀ d, d < 8 → dieUp s d = true → (tokOf u d).held = clampTo 120 310 ((s.pw.cap - reserveFor r) / max 1 (upDies s).length)) ∧
    u.pw.cap = s.pw.cap ∧ u.pw.pool = s.pw.cap - heldSum u ∧ u.dies = s.dies ∧ u.tiles = s.tiles ∧ u.mem = s.mem) ∧
  (∀ (s : State) (r : Nat) (l : List Nat), s.pw.suspended = true → exec (.grantInterval r l) s = .next s) ∧
  (∀ (s : State) (d : Die) (w : BitVec 9), dieUp s d.val = true → ∃ u, exec (.drawSample d w) s = .next u ∧ (tokOf u d.val).draw = w ∧
    (tokOf u d.val).held = (tokOf s d.val).held ∧
    ((allowance (tokOf s d.val) < w.toNat ∨ 95 ≤ (tokOf s d.val).tj.toNat) →
      (tokOf u d.val).thr.toNat = min 15 ((tokOf s d.val).thr.toNat + 1)) ∧
    ((tokOf s d.val).tj.toNat < 95 → w.toNat + 10 ≤ allowance (tokOf s d.val) → (tokOf u d.val).thr.toNat = (tokOf s d.val).thr.toNat - 1) ∧
    ((tokOf s d.val).tj.toNat < 95 → w.toNat ≤ allowance (tokOf s d.val) → allowance (tokOf s d.val) < w.toNat + 10 →
      (tokOf u d.val).thr = (tokOf s d.val).thr) ∧
    (∀ e, e ≠ d.val → tokOf u e = tokOf s e) ∧ u.mem = s.mem ∧ u.tiles = s.tiles ∧ u.pw.step = s.pw.step) ∧
  (∀ (s : State) (d : Die) (us : Nat), borrowing s = true → dieUp s d.val = true → allStalled s d.val = true → 50 ≤ us → (tokOf s d.val).lent = 0 →
    120 < (tokOf s d.val).held → throttled s d.val ≠ [] →
    ∃ u, exec (.loan d us) s = .next u ∧ (tokOf u d.val).lent = (tokOf s d.val).held - 120 ∧ (tokOf u d.val).held = (tokOf s d.val).held ∧
      ((List.range 8).map fun e => (tokOf u e).borrowed).sum = ((List.range 8).map fun e => (tokOf s e).borrowed).sum + ((tokOf s d.val).held - 120) ∧
      u.pw.loans = satInc s.pw.loans 1 ∧ (∀ e, e ∉ throttled s d.val → e ≠ d.val → tokOf u e = tokOf s e) ∧ u.mem = s.mem ∧ u.tiles = s.tiles) ∧
  (∀ (s : State) (d : Die) (us : Nat), (borrowing s = false ∨ allStalled s d.val = false ∨ us < 50 ∨ throttled s d.val = []) →
    exec (.loan d us) s = .next s) ∧
  (∀ (s : State) (d : Die), exec (.loanRecall d) s = .next (freeLender (recallLoan s d.val) d.val)) ∧
  (∀ (s : State) (d : Nat), (tokOf (recallLoan s d) d).lent = 0)

/-- A die stack that holds THR lowers CCLK by one step, counted, with CAP_LIM and sources 696 and 702; when nothing throttles and every draw fits, CCLK
rises by one. A junction at 95 degrees sets THERM_LIM and raises THR, one that stays there lowers CCLK by a step, unless power has lowered it in the same interval, and one at 100 lowers it to step 3. A
warm coolant inlet sets COOL_WARN and derates the cap. Loss of the PLL's lock puts the module into cold reset with source 6 and no fog message, and
its return runs start-up. PERST# moves its pin, and where it may reset does so. -/
def Obligations.ClockStepsAndThermalLimits : Prop :=
  (∀ (s : State) (d : Die), dieUp s d.val = true → 8 ≤ (tokOf s d.val).thr.toNat → s.pw.pinned = false → s.pw.repro = false → s.pw.step < 3 → bothCall s false = false →
    ∃ u, exec (.cclkStepDown d) s = .next u ∧
      u.pw = { s.pw with capLim := true, step := s.pw.step + 1, stepDn := satInc s.pw.stepDn 1, downFor := some (false, now s) } ∧
      (u.evr.srcs.get 696).pend = true ∧ (u.evr.srcs.get 702).pend = true ∧ u.mem = s.mem ∧ u.tiles = s.tiles) ∧
  (∀ (s : State) (d : Die), (tokOf s d.val).thr.toNat < 8 → exec (.cclkStepDown d) s = .next s) ∧
  (∀ s : State, s.pw.pinned = false → 0 < s.pw.step → fitsFaster s = true →
    exec .cclkStepUp s = .next (fire { s with pw := { s.pw with step := s.pw.step - 1, downFor := none } } 702)) ∧
  (∀ s : State, (s.pw.pinned = true ∨ s.pw.step = 0 ∨ fitsFaster s = false) → exec .cclkStepUp s = .next s) ∧
  (∀ (s : State) (d : Die) (t : BitVec 8), 95 ≤ t.toNat → ∃ u, exec (.junctionHot d t) s = .next u ∧ u.pw.thermLim = true ∧ (tokOf u d.val).tj = t ∧
    (tokOf u d.val).thr.toNat = min 15 ((tokOf s d.val).thr.toNat + 1) ∧ (u.evr.srcs.get 697).pend = true ∧ u.pw.step = s.pw.step ∧ u.mem = s.mem) ∧
  (∀ (s : State) (d : Die), 95 ≤ (tokOf s d.val).tj.toNat → s.pw.repro = false → s.pw.pinned = false → s.pw.step < 3 → bothCall s true = false →
    ∃ u, exec (.junctionHotHold d) s = .next u ∧
      u.pw = { s.pw with thermLim := true, step := s.pw.step + 1, stepDn := satInc s.pw.stepDn 1, downFor := some (true, now s) } ∧ u.mem = s.mem) ∧
  (∀ (s : State) (d : Die), 95 ≤ (tokOf s d.val).tj.toNat → bothCall s true = true → ∃ u, exec (.junctionHotHold d) s = .next u ∧
    u.pw = { s.pw with thermLim := true, downFor := none } ∧ u.mem = s.mem) ∧
  (∀ (s : State) (d : Die) (t : BitVec 8), 100 ≤ t.toNat → s.pw.repro = false → ∃ u, exec (.junctionCritical d t) s = .next u ∧
    u.pw.step = max 3 s.pw.step ∧ u.pw.thermLim = true ∧ (tokOf u d.val).tj = t ∧ u.mem = s.mem) ∧
  (∀ (s : State) (d : Die) (t : BitVec 8), 100 ≤ t.toNat → s.pw.repro = true → ∃ u, exec (.junctionCritical d t) s = .next u ∧
    u.pw.step = s.pw.step ∧ u.pw.thermLim = true ∧ (s.pw.step < 3 → ∃ n, u.pw.lowerPend = some n ∧ 3 ≤ n)) ∧
  (∀ (s : State) (t : BitVec 12), 400 < t.toNat → ∃ u, exec (.coolantInletHigh t) s = .next u ∧ u.pw.coolIn = t ∧ u.pw.coolWarn = true ∧
    u.pw.cap = max 1200 (s.pw.policyCap - 100 * ((t.toNat - 400) / 10)) ∧ (u.evr.srcs.get 699).pend = true ∧ u.mem = s.mem) ∧
  (∀ (s : State) (t : BitVec 12), t.toNat ≤ 400 → ∃ u, exec (.coolantInletHigh t) s = .next u ∧ u.pw.cap = s.pw.policyCap ∧ u.pw.coolWarn = s.pw.coolWarn) ∧
  (∀ s : State, s.pins.hotSwap = true → s.pins.pllHold = false → s.engines = [] → ∃ u, exec .pllLockLoss s = .next u ∧ u.pins.pllHold = true ∧
    u.pw.lock = false ∧ u.glb.rcLevel = 4 ∧ u.glb.rcSource = 6 ∧ u.hq.ready = false ∧ u.cp.jobs = [] ∧ u.bcn.local_ = s.bcn.local_ ∧ u.out = s.out ∧
    u.mem = { host := s.mem.host }) ∧
  (∀ s : State, s.pins.hotSwap = true → s.pins.pllHold = true → s.flt.bootFaults < 3 → s.boot.committed = true → s.boot.image = [] →
    ∃ u, exec .pllRelock s = .next u ∧ u.pins.pllHold = false ∧ u.pw.lock = true ∧ u.boot.stage = 3 ∧ u.mem = s.mem) ∧
  (∀ s : State, s.pins.hotSwap = true → s.pins.perst = false → s.pins.perstSeen = true → s.pins.alert = false → resetRefused s 4 = false →
    exec .perstAssert s = .next (resetLevel4 { s with pins := { s.pins with perst := true } } 1 0 true)) ∧
  (∀ s : State, (s.pins.perst = true ∨ s.pins.perstSeen = false ∨ s.pins.alert = true) →
    exec .perstAssert s = .next { s with pins := { s.pins with perst := true } }) ∧
  (∀ s : State, exec .perstDeassert s = .next { s with pins := { s.pins with perst := false, perstSeen := s.pins.perstSeen || s.pins.hotSwap } })

/-- A function-level reset leaves no command running, the host queue and the engines at their reset values and the block not ready; in a quiet
module memory and the policy's cap stay. A warm reset also scrubs the scratchpads and drops the links. A cold reset leaves module memory, commands
and queues at their reset values and keeps host memory, the beacon, the boot epoch and the flash records; its cause is in RESET_CAUSE. A die reset
takes the die out of service, or waits for the one in progress; the die that has passed its self-test waits for its topology epoch, and one that
failed it is retired. A request
that a reset of equal or higher rank outranks is ignored, and a GLB_RESET write of level 1 to 3 while READY is 0 is counted. -/
def Obligations.ResetsKeepAndClear : Prop :=
  (∀ (s : State) (src : ResetSource), glbRefuses s src = false → resetRefused s 1 = false →
    exec (.functionLevelReset src) s = .next (resetLevel1 s (sourceCode src).1)) ∧
  (∀ (s : State) (src : ResetSource), glbRefuses s src = false → resetRefused s 2 = false →
    exec (.warmReset src) s = .next (resetLevel2 s (sourceCode src).1 (sourceCode src).2 true)) ∧
  (∀ (s : State) (src : ResetSource), src ≠ .faultNotReady → resetRefused s 4 = false →
    exec (.coldReset src) s = .next (resetLevel4 s (sourceCode src).1 (sourceCode src).2 (src ≠ .pllLoss))) ∧
  (∀ s : State, s.pins.hotSwap = true → s.hq.ready = false → s.pins.alert = false → ∃ v, v.flt.bootFaults = s.flt.bootFaults + 1 ∧ v.mem = s.mem ∧
    exec (.coldReset .faultNotReady) s = .next (resetLevel4 v 5 0 true)) ∧
  (∀ (s : State) (src : ResetSource), glbRefuses s src = false → resetRefused s 1 = true → exec (.functionLevelReset src) s = .next s) ∧
  (∀ (s : State) (src : ResetSource), glbRefuses s src = false → resetRefused s 2 = true → exec (.warmReset src) s = .next s) ∧
  (∀ (s : State) (src : ResetSource), src ≠ .faultNotReady → resetRefused s 4 = true → exec (.coldReset src) s = .next s) ∧
  (∀ s : State, s.hq.ready = true → exec (.coldReset .faultNotReady) s = .next s) ∧
  (∀ s : State, s.hq.ready = false → exec (.functionLevelReset .glbReset) s = .next (countIgnored s) ∧
    exec (.warmReset .glbReset) s = .next (countIgnored s) ∧ (∀ d, exec (.dieReset d .glbReset) s = .next (countIgnored s))) ∧
  (∀ (s : State) (src : Nat), (resetLevel1 s src).hq = {} ∧ (resetLevel1 s src).cp.jobs = [] ∧ (resetLevel1 s src).engines = [] ∧
    (resetLevel1 s src).evr.hostqs = [] ∧ (resetLevel1 s src).glb.state = 0 ∧ (resetLevel1 s src).bcn.mbar = [] ∧ (resetLevel1 s src).md.loops = []) ∧
  (∀ (s : State) (src : Nat), s.cp.jobs = [] → s.cp.persists = [] → s.engines = [] → s.md.seqs = [] → s.md.pass.running = false →
    s.md.epoch.phase = .none → s.md.freed = [] → s.cp.remotes = [] → s.md.pass.ref = false → (resetLevel1 s src).mem = s.mem ∧ (resetLevel1 s src).pw.policyCap = s.pw.policyCap ∧
      (resetLevel1 s src).pw.borrow = s.pw.borrow ∧ (resetLevel1 s src).evr.srcs = s.evr.srcs ∧ (resetLevel1 s src).bcn.local_ = s.bcn.local_ ∧
      (resetLevel1 s src).bcn.lateRel = s.bcn.lateRel ∧ (resetLevel1 s src).glb.rcLevel = 1 ∧ (resetLevel1 s src).glb.rcSource = src ∧ (resetLevel1 s src).flt = s.flt) ∧
  (∀ (s : State) (src f : Nat) (b : Bool), (resetLevel2 s src f b).hq.ready = false ∧ (resetLevel2 s src f b).cp.jobs = [] ∧
    (resetLevel2 s src f b).engines = [] ∧ (resetLevel2 s src f b).mem.fill = [] ∧ (resetLevel2 s src f b).lk.joined = false ∧
    (resetLevel2 s src f b).bcn.cbar = [] ∧ (resetLevel2 s src f b).evr.keepers = []) ∧
  (∀ (s : State) (src f : Nat) (b : Bool), (resetLevel4 s src f b).cp.jobs = [] ∧ (resetLevel4 s src f b).hq.ready = false ∧
    (resetLevel4 s src f b).tiles = [] ∧ (resetLevel4 s src f b).engines = [] ∧ (resetLevel4 s src f b).mem.mod = [] ∧
    (resetLevel4 s src f b).glb.rcLevel = 4 ∧ (resetLevel4 s src f b).glb.rcSource = src ∧ (resetLevel4 s src f b).glb.rcFatal = BitVec.ofNat 8 f ∧
    (resetLevel4 s src f b).bcn.local_ = s.bcn.local_ ∧ (resetLevel4 s src f b).boot.bootEpoch = s.boot.bootEpoch ∧
    (resetLevel4 s src f b).flt.retired = s.flt.retired ∧
    (∀ n, n < 24 → s.flt.retired.contains (dieChan (n / 3)) = true → ((resetLevel4 s src f b).lk.links.get n).st = 5) ∧ (s.engines = [] → (resetLevel4 s src f b).mem.host = s.mem.host)) ∧
  (∀ (s : State) (d : Die) (src : ResetSource), s.pins.hotSwap = true → glbRefuses s src = false → s.glb.reset = none → (s.dies.get d.val).st ≠ .retired →
    s.glb.dieResets = [] → s.glb.dieResetQ = [] →
    ∃ u, exec (.dieReset d src) s = .next u ∧ (u.dies.get d.val).st = .reset3 ∧ d.val ∈ u.glb.dieResets) ∧
  (∀ (s : State) (d : Die) (src : ResetSource) (e : Nat) (r : List Nat), s.pins.hotSwap = true → glbRefuses s src = false → s.glb.reset = none →
    (s.dies.get d.val).st ≠ .retired → s.glb.dieResets = e :: r → d.val ∉ s.glb.dieResets → d.val ∉ s.glb.dieResetQ →
    exec (.dieReset d src) s = .next { s with glb := { s.glb with dieResetQ := s.glb.dieResetQ ++ [d.val] } }) ∧
  (∀ (s : State) (d : Die) (t : SelfTest), d.val ∈ s.glb.dieResets → s.glb.dieResetQ = [] → (s.dies.get d.val).st = .reset3 →
    testOf t d.val = ⟨[], [], [], [], []⟩ → (s.dies.get d.val).badSpares = [] →
    ∃ u, exec (.dieResetComplete d t) s = .next u ∧ u.glb = { s.glb with dieResets := s.glb.dieResets.filter (· ≠ d.val) } ∧
      u.md = { s.md with epoch := { s.md.epoch with waiting := s.md.epoch.waiting ++ [.rejoin d.val] } } ∧ (u.dies.get d.val).st = .reset3 ∧
      u.cp = s.cp ∧ u.flt = s.flt ∧ u.tiles = s.tiles ∧ u.mem.host = s.mem.host) ∧
  (∀ (s : State) (d : Die) (t : SelfTest), d.val ∈ s.glb.dieResets → s.glb.dieResetQ = [] → s.cp.jobs = [] → d ∈ t.failedDies →
    ∃ u, exec (.dieResetComplete d t) s = .next u ∧ (u.dies.get d.val).st = .retired ∧ d.val ∉ u.glb.dieResets) ∧
  (∀ (s : State) (d : Die) (t : SelfTest), d.val ∉ s.glb.dieResets → exec (.dieResetComplete d t) s = .next s)

/-- After a function-level reset, or a warm one whose tests find nothing, MODULE_READY sets READY and ends the reset; a warm one retires a tile that
its test names; after a cold one without findings or records every die enters service, every arc is UP, and the boot-fault count is 0. A module in recovery, one that is ready, or one without power stays as it is. A fatal fault
leaves the module as its row of the table says, with its cause in RESET_CAUSE where a reset follows; a die that has lost the control spine sends the
fog message itself. -/
def Obligations.StartUpAndFatalFaults : Prop :=
  (∀ (s : State) (r : ResetRun) (t : SelfTest), s.pins.hotSwap = true → s.pins.pllHold = false → s.boot.recovery = false → s.hq.ready = false → s.glb.state ≠ 4 →
    s.glb.reset = some r → r.level < 4 → s.glb.dieResetQ = [] → stopped s = false →
    (r.level = 2 → t.retiredTiles = [] ∧ t.bypassed = [] ∧ t.failedDies = []) →
    ∃ u, exec (.moduleReady t) s = .next u ∧ u.hq.ready = true ∧ u.glb.state = 1 ∧ u.glb.reset = none ∧ u.pw.lock = true ∧ u.mem = s.mem ∧ u.tiles = s.tiles ∧
      (∀ d, (u.dies.get d).st = (s.dies.get d).st)) ∧
  (∀ (s : State) (r : ResetRun) (t : SelfTest) (n : TileNo), s.pins.hotSwap = true → s.pins.pllHold = false → s.boot.recovery = false →
    s.hq.ready = false → s.glb.state ≠ 4 → s.glb.reset = some r → r.level = 2 → s.glb.dieResetQ = [] → t.retiredTiles = [n] → t.bypassed = [] →
    t.failedDies = [] → (s.tiles.get n.val).retired = false → (s.tiles.get n.val).retirePend = false → (s.tiles.get n.val).ctxs.any (fun c => c.2.active) = false →
    (s.dies.get (n.val / 32)).st = .inService → (∀ m, (s.tiles.get m).retired = false ∧ (s.tiles.get m).retirePend = false) →
    ∃ u, exec (.moduleReady t) s = .next u ∧ u.hq.ready = true ∧ u.glb.reset = none ∧ (u.tiles.get n.val).retired = true ∧
      (∀ m, m ≠ n.val → u.tiles.get m = s.tiles.get m) ∧ u.mem = s.mem) ∧
  (∀ (s : State) (t : SelfTest), t = ⟨[], [], [], [], []⟩ → s.pins.hotSwap = true → s.pins.pllHold = false → s.boot.recovery = false → s.hq.ready = false → s.glb.state ≠ 4 →
    (∀ r, s.glb.reset = some r → r.level = 4) → s.glb.dieResetQ = [] → s.flt.retired = [] → s.boot.selfTest.retiredTiles = [] →
    s.boot.selfTest.bypassed = [] → s.boot.selfTest.failedDies = [] → s.boot.selfTest.swsRows = [] → s.boot.selfTest.badSpares = [] →
    (∀ d, d < 8 → (s.dies.get d).st = .starting ∧ (s.dies.get d).rowMap = []) →
    ∃ u, exec (.moduleReady t) s = .next u ∧ u.hq.ready = true ∧ u.glb.state = 1 ∧ u.glb.reset = none ∧ (∀ d, d < 8 → (u.dies.get d).st = .inService) ∧
      (∀ k, k < 8 → (u.arcs.get k).st = 2) ∧ (∀ d, d < 8 → (tokOf u d).held = 120) ∧ u.flt.bootFaults = 0 ∧ u.md.epoch.line = none ∧ u.mem = s.mem) ∧
  (∀ (s : State) (t : SelfTest), (s.pins.hotSwap = false ∨ s.pins.pllHold = true ∨ s.boot.recovery = true ∨ s.hq.ready = true) →
    exec (.moduleReady t) s = .next s) ∧
  (∀ (s : State) (c : BitVec 8), s.pins.hotSwap = true → exec (.fatalFault c) s = .next (fatal s c.toNat)) ∧
  (∀ (s : State) (c : BitVec 8), s.pins.hotSwap = false → exec (.fatalFault c) s = .next s) ∧
  (∀ s : State, s.pins.hotSwap = true → exec .keeperWatchdog s = .next (fatal s 2)) ∧
  (∀ s : State, (fatal s 1).glb.rcSource = 7 ∧ (fatal s 1).glb.rcFatal = 1 ∧ (fatal s 1).glb.rcLevel = 4 ∧ (fatal s 2).glb.rcFatal = 2 ∧
    (fatal s 2).glb.rcLevel = 4 ∧ (fatal s 2).cp.jobs = [] ∧ (fatal s 3).pins.hotSwap = false ∧ (fatal s 4).pins.hotSwap = false ∧
    (fatal s 6).pins.hotSwap = false ∧ (fatal s 7).mem.fill = [] ∧ (fatal s 7).cp.jobs = [] ∧ (fatal s 8).glb.rcFatal = 8 ∧ (fatal s 5).mem = s.mem ∧
    (fatal s 5).cp = s.cp ∧ (s.glb.state = 1 → (fatal s 5).glb.state = 3)) ∧
  (∀ (s : State) (d : Die), dieUp s d.val = true → (s.lk.links.get (3 * d.val + 1)).port.isSome = true →
    exec (.spineLoss d) s = .next { s with out := s.out ++ [.fog (ownFog s 1)] }) ∧
  (∀ (s : State) (d : Die), dieUp s d.val = false → exec (.spineLoss d) s = .next s)

/-- In recovery a write of REC_CTRL starts its operation unless one runs; outside recovery it is ignored. A PROGRAM's page that may be written is in
the image at its end, where the first one makes the committed image invalid and its source the owner; a page out of range sets ERR 1 and one of the
other source ERR 4. FINISH of an image that fails its checks sets ERR 3 and forgets the pages; with PWR_ALERT# asserted it sets ERR 2; an abort forgets
the pages. A TFTP write of "rosha" is accepted while PCIe does not own recovery, and its bytes go to pages in order. -/
def Obligations.RecoveryProgramsTheImage : Prop :=
  (∀ (s : State) (p : BitVec 14), barOn s = true → s.boot.recovery = true → s.boot.recOp = none →
    exec (.program p) s = .next { s with boot := { s.boot with recOp := some (.program p.toNat false (Mem.readN s.boot.recData 0 4096)) } } ∧
    exec .finish s = .next { s with boot := { s.boot with recOp := some .finish } } ∧
    exec .recoveryAbort s = .next { s with boot := { s.boot with recOp := some .abort } }) ∧
  (∀ (s : State) (p : BitVec 14), (s.boot.recovery = false ∨ s.boot.recOp ≠ none) → exec (.program p) s = .next s ∧ exec .finish s = .next s ∧
    exec .recoveryAbort s = .next s) ∧
  (∀ (s : State) (p : Nat) (b : Bytes), s.boot.recOp = some (.program p false b) → s.pins.alert = false → s.boot.recOwner ≠ .mgmt → p < 15360 →
    (∀ q ∈ s.boot.pages, q.1 ≠ p) → ∃ u, exec .recOperationDone s = .next u ∧ u.boot.recOp = none ∧ u.boot.committed = false ∧ u.boot.recErr = 0 ∧
      u.boot.recOwner = .pcie ∧ u.boot.pages = s.boot.pages ++ [(p, bytesAt b 0 4096)] ∧
      u.boot.image = overlay (eraseSector s.boot p) (4096 * p) (bytesAt b 0 4096) ∧ u.mem = s.mem ∧ u.flt = s.flt) ∧
  (∀ (s : State) (p : Nat) (b : Bytes), s.boot.recOp = some (.program p false b) → s.pins.alert = false → s.boot.recOwner = .mgmt →
    exec .recOperationDone s = .next { s with boot := { s.boot with recOp := none, recErr := 4 } }) ∧
  (∀ (s : State) (p : Nat) (b : Bytes), s.boot.recOp = some (.program p false b) → s.pins.alert = false → s.boot.recOwner ≠ .mgmt → 15360 ≤ p →
    exec .recOperationDone s = .next { s with boot := { s.boot with recOp := none, recErr := 1 } }) ∧
  (∀ s : State, s.boot.recOp = some .finish → s.pins.alert = true →
    exec .recOperationDone s = .next { s with boot := { s.boot with recOp := none, recErr := 2 } }) ∧
  (∀ s : State, s.boot.recOp = some .finish → s.pins.alert = false → s.boot.image ≠ [] → imgHeaderOk s.boot.image = false →
    exec .recOperationDone s = .next { s with boot := { s.boot with recOp := none, pages := [], recOwner := .none, recErr := 3, tftpOn := false,
                                                                    tftp := [], tftpPage := 0 } }) ∧
  (∀ s : State, s.boot.recOp = some .finish → s.pins.alert = false → s.boot.image = [] → s.pins.pllHold = false → s.engines = [] →
    ∃ u, exec .recOperationDone s = .next u ∧ u.boot.recovery = false ∧ u.boot.committed = true ∧ u.boot.stage = 3 ∧ u.flt.bootFaults = 0 ∧
      u.glb.rcLevel = 4 ∧ u.glb.rcSource = 0 ∧ u.mem = { host := s.mem.host }) ∧
  (∀ s : State, s.boot.recOp = some .abort → exec .recOperationDone s = .next { s with boot := { s.boot with
    recOp := none, pages := [], recOwner := .none, recErr := 0, tftpOn := false, tftp := [], tftpPage := 0 } }) ∧
  (∀ s : State, s.boot.recOp = none → exec .recOperationDone s = .next s) ∧
  (∀ (s : State) (n : Nat), mgmtOn s = true → s.boot.recovery = true → s.boot.recOwner ≠ .pcie →
    exec (.tftpWriteRequest roshaName n) s = .next { s with boot := { s.boot with tftpOn := true, tftp := [], tftpPage := 0 },
                                                             out := s.out ++ [.mgmt mgmtTftpAck (beBytes 2 (min n 1428))] }) ∧
  (∀ (s : State) (f : Bytes) (n : Nat), mgmtOn s = true → s.boot.recovery = true → s.boot.recOwner = .pcie →
    exec (.tftpWriteRequest f n) s = .next { s with out := s.out ++ [.mgmt mgmtTftpErr (beBytes 2 2)] }) ∧
  (∀ (s : State) (b : Bytes), mgmtOn s = true → s.boot.recovery = true → s.boot.tftpOn = true → s.boot.recOwner ≠ .pcie → b ≠ [] →
    s.boot.tftp.length + b.length < 4096 → exec (.tftpData b false) s = .next { s with boot := { s.boot with tftp := s.boot.tftp ++ b },
                                                                                       out := s.out ++ [.mgmt mgmtTftpAck []] }) ∧
  (∀ (s : State) (b : Bytes) (l : Bool), (s.boot.recovery = false ∨ s.boot.tftpOn = false) → exec (.tftpData b l) s = .next s)

/-- A write of SEC_CTRL is ignored while BUSY is 1. ENROL and REVOKE run their checks and end at SEC_OPERATION_DONE with their result, an accepted one
with the key stored or gone. KEYS_LOCK holds; a challenge is fresh and counted; DEBUG_UNLOCK uses the challenge up and reports its result, 6 where
debug is fused off and 7 without a challenge; DEBUG_LOCK locks and clears the fetched data. A debug fetch while debug is open takes its address, or
says why not, and its end shows the bytes as stored; with debug locked the address is not taken. -/
def Obligations.KeysAndTheDebugLock : Prop :=
  (∀ (s : State) (i : Fin 16) (op : SecOp), s.boot.secOp = some op → exec (.enrol i) s = .next s ∧ exec (.revoke i) s = .next s ∧
    exec .keysLock s = .next s ∧ exec .challenge s = .next s ∧ exec .debugUnlock s = .next s ∧ exec .debugLock s = .next s) ∧
  (∀ (s : State) (i : Fin 16), barOn s = true → s.boot.secOp = none →
    (enrolCheck s i.val (stagedKey s) = none →
      exec (.enrol i) s = .next { s with boot := { s.boot with secOp := some (.enrol i.val (stagedKey s)) } }) ∧
    (∀ r, enrolCheck s i.val (stagedKey s) = some r → exec (.enrol i) s = .next { s with boot := { s.boot with secOp := some (.result r) } })) ∧
  (∀ (s : State) (i : Fin 16), barOn s = true → s.boot.secOp = none → s.boot.keysLock = true →
    exec (.enrol i) s = .next { s with boot := { s.boot with secOp := some (.result 2) } } ∧
    exec (.revoke i) s = .next { s with boot := { s.boot with secOp := some (.result 2) } }) ∧
  (∀ (s : State) (i : Fin 16), barOn s = true → s.boot.secOp = none → s.boot.keysLock = false → s.boot.keys.get i.val ≠ [] → s.pins.alert = false →
    exec (.revoke i) s = .next { s with boot := { s.boot with secOp := some (.revoke i.val) } }) ∧
  (∀ (s : State) (i : Fin 16), barOn s = true → s.boot.secOp = none → s.boot.keysLock = false → s.boot.keys.get i.val = [] →
    exec (.revoke i) s = .next { s with boot := { s.boot with secOp := some (.result 1) } }) ∧
  (∀ (s : State) (i : Nat) (k : Bytes), s.boot.secOp = some (.enrol i k) → s.pins.alert = false →
    exec .secOperationDone s = .next { s with boot := { s.boot with secOp := none, keys := s.boot.keys.set i k, secRes := 0 } }) ∧
  (∀ (s : State) (i : Nat), s.boot.secOp = some (.revoke i) → s.pins.alert = false →
    exec .secOperationDone s = .next { s with boot := { s.boot with secOp := none, keys := s.boot.keys.set i [], secRes := 0 } }) ∧
  (∀ (s : State) (i : Nat), s.boot.secOp = some (.revoke i) → s.pins.alert = true →
    exec .secOperationDone s = .next { s with boot := { s.boot with secOp := none, secRes := 8 } }) ∧
  (∀ (s : State) (r : Nat), s.boot.secOp = some (.result r) →
    exec .secOperationDone s = .next { s with boot := { s.boot with secOp := none, secRes := r } }) ∧
  (∀ s : State, s.boot.secOp = none → exec .secOperationDone s = .next s) ∧
  (∀ s : State, barOn s = true → s.boot.secOp = none →
    exec .keysLock s = .next { s with boot := { s.boot with keysLock := true, secRes := 0 } } ∧
    exec .challenge s = .next { s with boot := { s.boot with chal := bytesAt (Config.challenge s.boot.chalCount) 0 32,
                                                             chalCount := s.boot.chalCount + 1, secRes := 0 } } ∧
    exec .debugLock s = .next { s with boot := { s.boot with debugOpen := false, secRes := 0 }, glb := { s.glb with dbgData := [], dbgPois := 0 } }) ∧
  (∀ s : State, barOn s = true → s.boot.secOp = none → ∃ u, exec .debugUnlock s = .next u ∧ u.boot.chal = [] ∧ u.boot.secRes = unlockResult s ∧
    u.boot.debugOpen = (s.boot.debugOpen || decide (unlockResult s = 0)) ∧ u.mem = s.mem ∧ u.boot.keys = s.boot.keys ∧
    (s.boot.chal = [] → u.boot.debugOpen = s.boot.debugOpen ∧ (u.boot.secRes = 6 ∨ u.boot.secRes = 7))) ∧
  (∀ (s : State) (a : W64), barOn s = true → s.boot.debugOpen = true → debugCheck s a = 0 →
    exec (.debugFetch a) s = .next { s with glb := { s.glb with dbgAddr := a, dbgFrom := a, dbgBusy := true, dbgErr := 0 } }) ∧
  (∀ (s : State) (a : W64), barOn s = true → s.boot.debugOpen = true → debugCheck s a ≠ 0 →
    exec (.debugFetch a) s = .next { s with glb := { s.glb with dbgAddr := a, dbgErr := debugCheck s a } }) ∧
  (∀ (s : State) (a : W64), s.boot.debugOpen = false → exec (.debugFetch a) s = .next s) ∧
  (∀ s : State, s.glb.dbgBusy = true → debugWaits s = false → s.boot.debugOpen = true → ∃ u, exec .debugFetchDone s = .next u ∧ u.glb.dbgBusy = false ∧
    u.glb.dbgData = plain (loadMod s (keyOf s.glb.dbgFrom) 4096) ∧ u.mem = s.mem) ∧
  (∀ s : State, s.glb.dbgBusy = false → exec .debugFetchDone s = .next s)

/-- R562: of a powered module out of PERST#, each power of two from 1 GiB to 64 GiB is a size of BAR4; a change to another of them takes the
new size, clears VALID in all 64 segments and leaves their other bits; the size that BAR4 already has changes nothing, and a size outside
the range is not offered. The rule's last sentence gives what PCI Express makes of it: no access of the host comes between. The rule's example:
with 16 GiB the read at offset 0x5234_5680 falls in segment 5 at 0x234_5680, and there reaches 0x04_1234_5680 of die 6. -/
def Obligations.ApertureResizeClearsSegments : Prop :=
  (∀ (s : State) (n : Fin 64), s.pins.hotSwap = true → s.pins.perst = false → 30 ≤ n.val → n.val ≤ 36 → n.val ≠ s.glb.bar4Log2 →
    ∃ u, exec (.bar4Resize n) s = .next u ∧ u.glb.bar4Log2 = n.val ∧
      (∀ g, g < 64 → (u.glb.apSegs.get g).getLsbD 63 = false ∧
        ∀ b, b < 63 → (u.glb.apSegs.get g).getLsbD b = (s.glb.apSegs.get g).getLsbD b) ∧
      u.mem = s.mem ∧ u.hq = s.hq ∧ u.evr = s.evr ∧ u.cp = s.cp ∧ u.tiles = s.tiles ∧ u.out = s.out) ∧
  (∀ (s : State) (n : Fin 64), n.val = s.glb.bar4Log2 → exec (.bar4Resize n) s = .next s) ∧
  (∀ (s : State) (n : Fin 64), (n.val < 30 ∨ 36 < n.val) → exec (.bar4Resize n) s = .next s) ∧
  (∀ (s : State), s.glb.bar4Log2 = 34 → (s.glb.apSegs.get 5) = 0xE006000410000000 → dieUp s 6 = true →
    segParts s 0x52345680 64 = [(5, 0x2345680, 64)] ∧ segKey s 5 0x2345680 false = some (dieKey 6 0x0412345680))

/-- A segment that passes its checks is taken as written, and a valid one that fails reads VALID = 0 with AP_ERR set. An access in one admitted segment
reads or writes the bytes of module memory behind it, which cross the arcs between their die and its entry die and change nothing else there; one
that the segment does not admit, or that reaches a retired pseudo-channel, reads zeros, or is ignored, and is counted. A new size
within 1 to 64 GiB clears VALID in every segment. A BAR0 access of a wrong width or alignment is counted and returns zeros. D3hot asserts WAKE# while
an enabled event queue waits, and D0 releases it. -/
def Obligations.ApertureAccessesReachMemory : Prop :=
  (∀ (s : State) (g : Fin 64) (v : W64), barOn s = true → (rbit (v &&& apSegMask) 63 = false ∨ segOk s (v &&& apSegMask) = true) →
    exec (.apSegWrite g v) s = .next { s with glb := { s.glb with apSegs := s.glb.apSegs.set g.val (v &&& apSegMask) } }) ∧
  (∀ (s : State) (g : Fin 64) (v : W64), barOn s = true → rbit (v &&& apSegMask) 63 = true → segOk s (v &&& apSegMask) = false →
    exec (.apSegWrite g v) s = .next { s with glb := { s.glb with
      apErr := true, apSegs := s.glb.apSegs.set g.val (v &&& apSegMask &&& 0x7FFFFFFFFFFFFFFF) } }) ∧
  (∀ (s : State) (off n g o k : Nat), barOn s = true → segParts s off n = [(g, o, n)] → partKey s (g, o, n) false = some k → s.mem.pois = [] →
    s.mem.ecc = [] → exec (.bar4Read off n) s = .next (emit (apertureCross s k n false) (.pcieRead (plain (loadMod s k n))))) ∧
  (∀ (s : State) (off n g o : Nat), barOn s = true → segParts s off n = [(g, o, n)] → partKey s (g, o, n) false = none →
    exec (.bar4Read off n) s = .next { s with glb := { s.glb with accBad := satInc s.glb.accBad 1, accErr := true },
                                              out := s.out ++ [.pcieRead (List.replicate n 0)] }) ∧
  (∀ (s : State) (off g o k : Nat) (b : Bytes), barOn s = true → segParts s off b.length = [(g, o, b.length)] → partKey s (g, o, b.length) true = some k →
    exec (.bar4Write off b) s = .next (apertureCross (storeClean s k b) k b.length true)) ∧
  (∀ (s : State) (off g o : Nat) (b : Bytes), barOn s = true → segParts s off b.length = [(g, o, b.length)] → partKey s (g, o, b.length) true = none →
    exec (.bar4Write off b) s = .next { s with glb := { s.glb with accBad := satInc s.glb.accBad 1, accErr := true } }) ∧
  (∀ (s : State) (k n : Nat) (w : Bool), (∃ a, apertureCross s k n w = { s with arcs := a }) ∧
    (entryDie s (k / 2 ^ 48) = k / 2 ^ 48 → apertureCross s k n w = s)) ∧
  (∀ (s : State) (n : Fin 64), s.pins.hotSwap = true → s.pins.perst = false → 30 ≤ n.val → n.val ≤ 36 → n.val ≠ s.glb.bar4Log2 →
    exec (.bar4Resize n) s = .next { s with glb := { s.glb with bar4Log2 := n.val,
                                                                apSegs := s.glb.apSegs.mapAll fun _ v => v &&& 0x7FFFFFFFFFFFFFFF } }) ∧
  (∀ (s : State) (n : Fin 64), (n.val < 30 ∨ 36 < n.val) → exec (.bar4Resize n) s = .next s) ∧
  (∀ (s : State) (off w : Nat), barOn s = true → properAccess off w = false →
    exec (.bar0ImproperAccess true off w) s = .next { s with glb := { s.glb with accBad := satInc s.glb.accBad 1, accErr := true } } ∧
    exec (.bar0ImproperAccess false off w) s = .next { s with glb := { s.glb with accBad := satInc s.glb.accBad 1, accErr := true },
                                                              out := s.out ++ [.pcieRead (List.replicate w 0)] }) ∧
  (∀ (s : State) (w : Bool) (off n : Nat), properAccess off n = true → exec (.bar0ImproperAccess w off n) s = .next s) ∧
  (∀ s : State, s.pins.hotSwap = true → s.pins.perst = false →
    exec (.powerStateChange true) s = .next { s with pins := { s.pins with d3 := true, wake := s.pins.wake || evqWaiting s } } ∧
    exec (.powerStateChange false) s = .next { s with pins := { s.pins with d3 := false, wake := false } }) ∧
  (∀ (s : State) (b : Bool), s.pins.hotSwap = false → exec (.powerStateChange b) s = .next s)

/-- A management port with an address, of a module in service, answers ARP with the fused MAC address, an ICMP echo with its data, and a 1-byte UDP
request with the telemetry index from that byte on; other datagrams, and requests to a port without an address, leave nothing. A lease sets the
address, and without one the port takes a link-local address that the model leaves open. An I3C target with an address takes the index of a 1-byte
write and answers a read from it; without an address it answers nothing. -/
def Obligations.ManagementPortsAnswer : Prop :=
  (∀ (s : State) (b : Bytes), mgmtOn s = true → inService s = true →
    exec .arpRequest s = .next { s with out := s.out ++ [.mgmt mgmtArp (bytesAt Config.mac 0 6)] } ∧
    exec (.icmpEchoRequest b) s = .next { s with out := s.out ++ [.mgmt mgmtEcho b] } ∧
    (∀ i : Byte, exec (.udpTelemetryRequest [i]) s = .next { s with out := s.out ++ [.mgmt mgmtUdp ((telemetryIndex s).drop i.toNat)] })) ∧
  (∀ (s : State) (b : Bytes), s.pins.ip = 0 → exec .arpRequest s = .next s ∧ exec (.icmpEchoRequest b) s = .next s ∧
    exec (.udpTelemetryRequest b) s = .next s) ∧
  (∀ (s : State) (b : Bytes), b.length ≠ 1 → exec (.udpTelemetryRequest b) s = .next s) ∧
  (∀ s : State, (telemetryIndex s).length = 104) ∧
  (∀ (s : State) (a : W32), mgmtUp s = true → exec (.dhcpLease a) s = .next { s with pins := { s.pins with ip := a } }) ∧
  (∀ s : State, mgmtUp s = true → s.pins.ip = 0 → exec .dhcpLeaseTimeout s = .next { s with pins := { s.pins with ip := Config.linkLocal } }) ∧
  (∀ s : State, s.pins.ip ≠ 0 → exec .dhcpLeaseTimeout s = .next s) ∧
  (∀ (s : State) (b : Fin 2) (a : BitVec 7), s.pins.pwrgd = true →
    exec (.i3cAddressAssignment b a) s = .next { s with pins := { s.pins with i3cAddr := s.pins.i3cAddr.set b.val a } }) ∧
  (∀ (s : State) (b : Fin 2) (i : Byte), s.pins.pwrgd = true → s.pins.i3cAddr.get b.val ≠ 0 →
    exec (.i3cPrivateWrite b [i]) s = .next { s with pins := { s.pins with i3cIndex := i.toNat } }) ∧
  (∀ (s : State) (b : Fin 2) (d : Bytes), d.length ≠ 1 → exec (.i3cPrivateWrite b d) s = .next s) ∧
  (∀ (s : State) (b : Fin 2) (n : Nat), s.pins.pwrgd = true → s.pins.i3cAddr.get b.val ≠ 0 →
    exec (.i3cPrivateRead b n) s = .next { s with out := s.out ++ [.i3c b.val (bytesAt (telemetryIndex s) s.pins.i3cIndex n)] }) ∧
  (∀ (s : State) (b : Fin 2) (n : Nat) (d : Bytes), (s.pins.pwrgd = false ∨ s.pins.i3cAddr.get b.val = 0) →
    exec (.i3cPrivateRead b n) s = .next s ∧ exec (.i3cPrivateWrite b d) s = .next s)

/-- Each CNT_CLR sets the counts of its own register to zero and changes nothing else, while its block answers; with READY at 0 the blocks other than the
global one keep their counts. -/
def Obligations.CountersAreCleared : Prop :=
  (∀ (s : State) (t : TileNo), dieBlockOn s (t.val / 32) = true →
    exec (.tileCountsCntClr t) s = .next (updTile s t.val fun x => { x with collCnt := 0, nanCnt := 0, satCnt := 0 }) ∧
    exec (.spadCountsCntClr t) s = .next (updTile s t.val fun x => { x with spadColl := 0, winReject := 0, ceCnt := 0 })) ∧
  (∀ (s : State) (d : Die), dieBlockOn s d.val = true →
    exec (.dcEccCntClr d) s = .next (updDie s d.val fun x => { x with lookups := 0, misses := 0, dcUe := 0, dcCe := 0 }) ∧
    exec (.swpStatusCntClr d) s = .next (updDie s d.val fun x => { x with swPcrc := 0, swResend := 0, swPois := 0, genDrop := 0 }) ∧
    exec (.modeStatusCntClr d) s = .next (updDie s d.val fun x => { x with xPcrc := 0, xResend := 0, xPois := 0, abortCnt := 0 }) ∧
    exec (.cdcErrCntClr d) s = .next (updDie s d.val fun x => { x with cdOver := 0, cdUnder := 0, cdHdr := 0, enc64 := 0, dec64 := 0 })) ∧
  (∀ (s : State) (e : EngineNo), engineBlockOn s e.val = true →
    exec (.dmaCountsCntClr e) s = .next (updEngine s e.val fun g => { g with collCnt := 0, poisCnt := 0, rejCnt := 0 })) ∧
  (∀ s : State, blockOn s = true →
    exec .hqCountsCntClr s = .next { s with hq := { s.hq with collCnt := 0, interimDrop := 0, wdFired := 0 } } ∧
    exec .evrStatusCntClr s = .next { s with evr := { s.evr with collCnt := 0, qfull := 0, dbIgn := 0 } } ∧
    exec .bcnStatusCntClr s = .next { s with bcn := { s.bcn with lateRel := 0 } } ∧
    exec .pwrCountsCntClr s = .next { s with pw := { s.pw with collCnt := 0, stepDn := 0, loans := 0 } } ∧
    (∀ n : LinkNo, exec (.tlErrCntClr n) s = .next (updLink s n.val fun l => { l with replayCnt := 0, crcCnt := 0, fecCnt := 0 })) ∧
    (∀ k : Fin 8, exec (.arcStatusCntClr k) s = .next (updArc s k.val fun a => { a with replay := 0, retrain := 0, eastBytes := 0, westBytes := 0 }))) ∧
  (∀ s : State, barOn s = true →
    exec .cpCapCntClr s = .next { s with cp := { s.cp with collCnt := 0, deadlocks := 0 } } ∧
    exec .glbCountsCntClr s = .next { s with glb := { s.glb with collCnt := 0, accBad := 0, rstIgn := 0 } }) ∧
  (∀ (s : State) (t : TileNo) (d : Die) (n : LinkNo) (k : Fin 8), s.hq.ready = false →
    exec (.tileCountsCntClr t) s = .next s ∧ exec (.spadCountsCntClr t) s = .next s ∧ exec (.dcEccCntClr d) s = .next s ∧
    exec (.swpStatusCntClr d) s = .next s ∧ exec (.modeStatusCntClr d) s = .next s ∧ exec (.cdcErrCntClr d) s = .next s ∧
    exec .hqCountsCntClr s = .next s ∧ exec .evrStatusCntClr s = .next s ∧ exec .bcnStatusCntClr s = .next s ∧ exec .pwrCountsCntClr s = .next s ∧
    exec (.tlErrCntClr n) s = .next s ∧ exec (.arcStatusCntClr k) s = .next s)

/-- A write that PERST#, D3hot or an unpowered module keeps out, and one beyond BAR0, changes nothing; one not aligned to its width is counted. With
READY at 0 a write of a block other than the global, the host-queue control and the debug block is ignored. A write reaches its register under its access codes:
CNT_CLR and the other WO bits act as their commands, W1C flags clear where a 1 is written and hardware does not set them in that cycle, RW registers
take the written halves, and GLB_RESET needs its key. -/
def Obligations.RegisterWritesReachTheirRegisters : Prop :=
  (∀ (s : State) (o : Nat) (w : Bool) (v h : W64), (barOn s = false ∨ 0x4000000 ≤ o) → exec (.registerWrite o w v h) s = .next s) ∧
  (∀ (s : State) (o : Nat) (v h : W64), barOn s = true → o < 0x4000000 →
    (o % 8 ≠ 0 → exec (.registerWrite o true v h) s = .next { s with glb := { s.glb with accBad := satInc s.glb.accBad 1, accErr := true } }) ∧
    (o % 4 ≠ 0 → exec (.registerWrite o false v h) s = .next { s with glb := { s.glb with accBad := satInc s.glb.accBad 1, accErr := true } })) ∧
  (∀ (s : State) (o : Nat) (v h : W64), s.hq.ready = false → barOn s = true → o % 8 = 0 → 0x100008 ≤ o → o < 0x4000000 → o ≠ 0x3000008 →
    exec (.registerWrite o true v h) s = .next s) ∧
  (∀ (s : State) (v h : W64), barOn s = true → rbit v 32 = true → exec (.registerWrite 0x30 true v h) s = exec .glbCountsCntClr s) ∧
  (∀ (s : State) (v h : W64), barOn s = true → rbit v 32 = false → exec (.registerWrite 0x30 true v h) s = .next s) ∧
  (∀ (s : State) (v h : W64), barOn s = true → exec (.registerWrite 0x18 true v h) s = .next { s with glb := { s.glb with
    apErr := (s.glb.apErr && !rbit v 1) || rbit h 1, accErr := (s.glb.accErr && !rbit v 0) || rbit h 0,
    collCnt := satInc s.glb.collCnt ((if rbit v 0 && rbit h 0 then 1 else 0) + (if rbit v 1 && rbit h 1 then 1 else 0)) } }) ∧
  (∀ (s : State) (v h : W64), barOn s = true → rfld v 31 24 ≠ 0x5A →
    exec (.registerWrite 0x20 true v h) s = .next { s with glb := { s.glb with rstIgn := satInc s.glb.rstIgn 1 } }) ∧
  (∀ (s : State) (v h : W64), barOn s = true → rfld v 31 24 = 0x5A → rfld v 2 0 = 2 →
    exec (.registerWrite 0x20 true v h) s = exec (.warmReset .glbReset) s) ∧
  (∀ (s : State) (v h : W64), barOn s = true → exec (.registerWrite 0xC010 false v h) s = .next { s with cp := { s.cp with wdog := BitVec.ofNat 16 (v.toNat % 2 ^ 16) } }) ∧
  (∀ (s : State) (v h : W64), barOn s = true → rbit v 0 = true → exec (.registerWrite 0x100000 true v h) s = exec .queueEnable s) ∧
  (∀ (s : State) (v h : W64), barOn s = true → rbit v 0 = false → exec (.registerWrite 0x100000 true v h) s = exec .queueDisable s) ∧
  (∀ (s : State) (v h : W64), blockOn s = true → s.hq.en = false →
    exec (.registerWrite 0x100010 true v h) s = .next { s with hq := { s.hq with sqBase := v &&& 0xFFFFFFFFFFFFF000 } }) ∧
  (∀ (s : State) (v h : W64), blockOn s = true → s.hq.en = true → exec (.registerWrite 0x100010 true v h) s = .next s) ∧
  (∀ (s : State) (v h : W64), blockOn s = true → exec (.registerWrite 0x200000 false v h) s = exec (.evrDoorbell (v.setWidth 32)) s) ∧
  (∀ (s : State) (v h : W64), blockOn s = true → exec (.registerWrite 0x200004 false v h) s = exec (.evrFclr (v.setWidth 32) 0) s) ∧
  (∀ (s : State) (n : Nat) (v h : W64), blockOn s = true → n < 1024 → exec (.registerWrite (0x202000 + 4 * n) false v h) s =
    .next { s with evr := { s.evr with srcs := s.evr.srcs.upd n fun r =>
      { r with vec := v.extractLsb' 10 6, tmask := v.extractLsb' 5 5, prio := v.extractLsb' 0 4 } } }) ∧
  (∀ (s : State) (v h : W64), blockOn s = true → ∃ u, exec (.registerWrite 0x400000 true v h) s = .next u ∧
    u.pw.capLim = ((s.pw.capLim && !rbit v 19) || rbit h 19) ∧ u.pw.coolWarn = ((s.pw.coolWarn && !rbit v 16) || rbit h 16) ∧
    u.pw.cap = s.pw.cap ∧ u.pw.toks = s.pw.toks ∧ u.mem = s.mem) ∧
  (∀ (s : State) (v h : W64), blockOn s = true → rbit v 0 = true → exec (.registerWrite 0x600000 true v h) s = exec .auditRequest s) ∧
  (∀ (s : State) (d : Die) (v h : W64), dieBlockOn s d.val = true →
    exec (.registerWrite (0x1000000 + d.val * 0x200000 + 0x10010) true (v ||| 0x100000000) h) s = exec (.dcEccCntClr d) s) ∧
  (∀ (s : State) (d : Die) (v h : W64), dieBlockOn s d.val = false →
    exec (.registerWrite (0x1000000 + d.val * 0x200000 + 0x80008) true v h) s = .next s)

/-- From every state a step answers a next state, whichever command stands in front: no command of the table is refused and none faults. That a
command or an event that the state does not enable leaves it unchanged, where the spec says nothing, is the model's choice (assumption log 1). -/
def Obligations.EveryStepAnswersANextState : Prop := ∀ s : State, Safe s
end

