-- ==== Sys2Proof/Laws/Table.lean ====
section
/-!
SUPPORT. Laws of the sparse tables and of the memories: reading after writing, and that every operation keeps the canonical
form of strictly rising keys and no default values.
-/

namespace Sys2Proof.Machine

section
variable {α : Type}

/-! ### Reading -/

@[simp] theorem Tbl.get_nil [Inhabited α] (k : Nat) : Tbl.get ([] : Tbl α) k = default := rfl

theorem Tbl.get_del [Inhabited α] (t : Tbl α) (k j : Nat) : Tbl.get (Tbl.del t k) j = if j = k then default else Tbl.get t j := by
  induction t with
  | nil => simp [Tbl.del]
  | cons c r ih =>
    obtain ⟨a, v⟩ := c
    by_cases h : a = k <;> by_cases h' : a = j <;> simp_all [Tbl.del, Tbl.get]

theorem Tbl.get_ins [Inhabited α] (t : Tbl α) (k : Nat) (v : α) (j : Nat) (h : ∀ c ∈ t, c.1 ≠ k) :
    Tbl.get (Tbl.ins t k v) j = if j = k then v else Tbl.get t j := by
  induction t with
  | nil =>
    by_cases e : k = j
    · simp [Tbl.ins, Tbl.get, e]
    · simp [Tbl.ins, Tbl.get, e, Ne.symm e]
  | cons c r ih =>
    obtain ⟨a, w⟩ := c
    have ha : a ≠ k := h (a, w) (by simp)
    have ih := ih fun c hc => h c (by simp [hc])
    by_cases lt : k < a
    · by_cases e : k = j
      · subst e; simp [Tbl.ins, lt, Tbl.get]
      · simp [Tbl.ins, lt, Tbl.get, e, Ne.symm e]
    · by_cases e : a = j
      · subst e; simp [Tbl.ins, lt, Tbl.get, ha]
      · simp [Tbl.ins, lt, Tbl.get, e, ih]

theorem Tbl.mem_del (t : Tbl α) (k : Nat) (c : Nat × α) : c ∈ Tbl.del t k ↔ c ∈ t ∧ c.1 ≠ k := by
  induction t with
  | nil => simp [Tbl.del]
  | cons d r ih =>
    obtain ⟨a, v⟩ := d
    by_cases h : a = k
    · simp only [Tbl.del, h, if_true, ih, List.mem_cons]
      constructor
      · rintro ⟨h1, h2⟩; exact ⟨.inr h1, h2⟩
      · rintro ⟨h1 | h1, h2⟩
        · subst h1; exact absurd rfl h2
        · exact ⟨h1, h2⟩
    · simp only [Tbl.del, h, if_false, List.mem_cons, ih]
      constructor
      · rintro (h1 | ⟨h1, h2⟩)
        · subst h1; exact ⟨.inl rfl, h⟩
        · exact ⟨.inr h1, h2⟩
      · rintro ⟨h1 | h1, h2⟩
        · exact .inl h1
        · exact .inr ⟨h1, h2⟩

/-- Reading after writing one key. -/
theorem Tbl.get_set [Inhabited α] [DecidableEq α] (t : Tbl α) (k : Nat) (v : α) (j : Nat) :
    Tbl.get (Tbl.set t k v) j = if j = k then v else Tbl.get t j := by
  unfold Tbl.set
  split
  · rename_i h; rw [Tbl.get_del]; simp [h]
  · rw [Tbl.get_ins _ _ _ _ fun c hc => ((Tbl.mem_del t k c).1 hc).2, Tbl.get_del]
    split <;> rfl

@[simp] theorem Tbl.get_set_self [Inhabited α] [DecidableEq α] (t : Tbl α) (k : Nat) (v : α) : Tbl.get (Tbl.set t k v) k = v := by
  simp [Tbl.get_set]

theorem Tbl.get_set_ne [Inhabited α] [DecidableEq α] (t : Tbl α) (k : Nat) (v : α) {j : Nat} (h : j ≠ k) :
    Tbl.get (Tbl.set t k v) j = Tbl.get t j := by simp [Tbl.get_set, h]

@[simp] theorem Tbl.get_upd_self [Inhabited α] [DecidableEq α] (t : Tbl α) (k : Nat) (f : α → α) :
    Tbl.get (Tbl.upd t k f) k = f (Tbl.get t k) := by simp [Tbl.upd]

theorem Tbl.get_upd [Inhabited α] [DecidableEq α] (t : Tbl α) (k : Nat) (f : α → α) (j : Nat) :
    Tbl.get (Tbl.upd t k f) j = if j = k then f (Tbl.get t k) else Tbl.get t j := by simp [Tbl.upd, Tbl.get_set]

theorem Tbl.get_upd_ne [Inhabited α] [DecidableEq α] (t : Tbl α) (k : Nat) (f : α → α) {j : Nat} (h : j ≠ k) :
    Tbl.get (Tbl.upd t k f) j = Tbl.get t j := by simp [Tbl.get_upd, h]

/-! ### The canonical form -/

variable [Inhabited α] [DecidableEq α]

/-- Every key of a table in form from `lo` on lies above `lo`. -/
theorem Tbl.wfFrom_head {lo : Nat} {a : Nat} {v : α} {r : Tbl α} (h : Tbl.wfFrom (some lo) ((a, v) :: r) = true) :
    lo < a ∧ v ≠ default ∧ Tbl.wfFrom (some a) r = true := by
  simp only [Tbl.wfFrom, Bool.and_eq_true, decide_eq_true_eq] at h
  exact ⟨h.1.1, h.1.2, h.2⟩

theorem Tbl.wfFrom_none {a : Nat} {v : α} {r : Tbl α} :
    Tbl.wfFrom none ((a, v) :: r) = true ↔ v ≠ default ∧ Tbl.wfFrom (some a) r = true := by
  simp [Tbl.wfFrom]

theorem Tbl.wfFrom_some {lo a : Nat} {v : α} {r : Tbl α} :
    Tbl.wfFrom (some lo) ((a, v) :: r) = true ↔ lo < a ∧ v ≠ default ∧ Tbl.wfFrom (some a) r = true := by
  simp [Tbl.wfFrom, and_assoc]

theorem Tbl.wfFrom_weaken {lo lo' : Nat} (hl : lo' ≤ lo) {t : Tbl α} (h : Tbl.wfFrom (some lo) t = true) :
    Tbl.wfFrom (some lo') t = true := by
  cases t with
  | nil => rfl
  | cons c r =>
    obtain ⟨a, v⟩ := c
    rw [Tbl.wfFrom_some] at h ⊢
    exact ⟨Nat.lt_of_le_of_lt hl h.1, h.2⟩

theorem Tbl.wfFrom_filter (p : Nat × α → Bool) {lo : Nat} {t : Tbl α} (h : Tbl.wfFrom (some lo) t = true) :
    Tbl.wfFrom (some lo) (t.filter p) = true := by
  induction t generalizing lo with
  | nil => rfl
  | cons c r ih =>
    obtain ⟨a, v⟩ := c
    rw [Tbl.wfFrom_some] at h
    by_cases hp : p (a, v) = true
    · rw [List.filter_cons_of_pos hp, Tbl.wfFrom_some]; exact ⟨h.1, h.2.1, ih h.2.2⟩
    · rw [List.filter_cons_of_neg hp]; exact Tbl.wfFrom_weaken (Nat.le_of_lt h.1) (ih h.2.2)

/-- Taking entries out keeps the form. -/
theorem Tbl.wf_filter (p : Nat × α → Bool) {t : Tbl α} (h : Tbl.wf t = true) : Tbl.wf (t.filter p) = true := by
  unfold Tbl.wf at *
  induction t with
  | nil => rfl
  | cons c r ih =>
    obtain ⟨a, v⟩ := c
    rw [Tbl.wfFrom_none] at h
    by_cases hp : p (a, v) = true
    · rw [List.filter_cons_of_pos hp, Tbl.wfFrom_none]; exact ⟨h.1, Tbl.wfFrom_filter p h.2⟩
    · rw [List.filter_cons_of_neg hp]
      apply ih
      cases r with
      | nil => rfl
      | cons d r' => obtain ⟨b, w⟩ := d; rw [Tbl.wfFrom_none]; rw [Tbl.wfFrom_some] at h; exact h.2.2

omit [Inhabited α] [DecidableEq α] in
theorem Tbl.del_eq_filter (t : Tbl α) (k : Nat) : Tbl.del t k = t.filter fun c => decide (c.1 ≠ k) := by
  induction t with
  | nil => rfl
  | cons c r ih => obtain ⟨a, v⟩ := c; by_cases h : a = k <;> simp [Tbl.del, h, ih]

theorem Tbl.wf_del {t : Tbl α} (h : Tbl.wf t = true) (k : Nat) : Tbl.wf (Tbl.del t k) = true := by
  rw [Tbl.del_eq_filter]; exact Tbl.wf_filter _ h

theorem Tbl.wfFrom_ins {t : Tbl α} {lo k : Nat} {v : α} (hk : lo < k) (hv : v ≠ default) (hn : ∀ c ∈ t, c.1 ≠ k)
    (h : Tbl.wfFrom (some lo) t = true) : Tbl.wfFrom (some lo) (Tbl.ins t k v) = true := by
  induction t generalizing lo with
  | nil => simp [Tbl.ins, Tbl.wfFrom, hk, hv]
  | cons c r ih =>
    obtain ⟨a, w⟩ := c
    rw [Tbl.wfFrom_some] at h
    have ha : a ≠ k := hn (a, w) (by simp)
    by_cases lt : k < a
    · rw [Tbl.ins, if_pos lt, Tbl.wfFrom_some, Tbl.wfFrom_some]; exact ⟨hk, hv, lt, h.2.1, h.2.2⟩
    · simp only [Tbl.ins, lt, if_false, Tbl.wfFrom_some]
      exact ⟨h.1, h.2.1, ih (by omega) (fun c hc => hn c (by simp [hc])) h.2.2⟩

theorem Tbl.wf_ins {t : Tbl α} {k : Nat} {v : α} (hv : v ≠ default) (hn : ∀ c ∈ t, c.1 ≠ k) (h : Tbl.wf t = true) :
    Tbl.wf (Tbl.ins t k v) = true := by
  unfold Tbl.wf at *
  cases t with
  | nil => simp [Tbl.ins, Tbl.wfFrom, hv]
  | cons c r =>
    obtain ⟨a, w⟩ := c
    rw [Tbl.wfFrom_none] at h
    have ha : a ≠ k := hn (a, w) (by simp)
    by_cases lt : k < a
    · simp only [Tbl.ins, lt, if_true, Tbl.wfFrom_none]; rw [Tbl.wfFrom_some]; exact ⟨hv, lt, h.1, h.2⟩
    · simp only [Tbl.ins, lt, if_false, Tbl.wfFrom_none]
      exact ⟨h.1, Tbl.wfFrom_ins (by omega) hv (fun c hc => hn c (by simp [hc])) h.2⟩

/-- Writing a key keeps the form. -/
theorem Tbl.wf_set {t : Tbl α} (h : Tbl.wf t = true) (k : Nat) (v : α) : Tbl.wf (Tbl.set t k v) = true := by
  unfold Tbl.set
  split
  · exact Tbl.wf_del h k
  · rename_i hv; exact Tbl.wf_ins hv (fun c hc => ((Tbl.mem_del t k c).1 hc).2) (Tbl.wf_del h k)

theorem Tbl.wf_upd {t : Tbl α} (h : Tbl.wf t = true) (k : Nat) (f : α → α) : Tbl.wf (Tbl.upd t k f) = true := Tbl.wf_set h k _

theorem Tbl.wf_clear {t : Tbl α} (h : Tbl.wf t = true) (lo hi : Nat) : Tbl.wf (Tbl.clear t lo hi) = true := Tbl.wf_filter _ h

theorem Tbl.wf_mapAll {t : Tbl α} (h : Tbl.wf t = true) (f : Nat → α → α) : Tbl.wf (Tbl.mapAll t f) = true := by
  unfold Tbl.mapAll
  have aux : ∀ (l : List (Nat × α)) (acc : Tbl α), Tbl.wf acc = true →
      Tbl.wf (l.foldl (fun acc c => Tbl.upd acc c.1 (f c.1)) acc) = true := by
    intro l
    induction l with
    | nil => intro acc h; exact h
    | cons c r ih => intro acc h; exact ih _ (Tbl.wf_upd h _ _)
  exact aux t t h

/-- A fold whose every step keeps the form keeps it. -/
theorem Tbl.wf_foldl {β : Type} (f : Tbl α → β → Tbl α) (hf : ∀ t b, Tbl.wf t = true → Tbl.wf (f t b) = true) (l : List β) :
    ∀ t : Tbl α, Tbl.wf t = true → Tbl.wf (l.foldl f t) = true := by
  induction l with
  | nil => intro t h; exact h
  | cons b r ih => intro t h; exact ih _ (hf t b h)

end

/-! ### Memories -/

@[simp] theorem Mem.read_write_self (m : Mem) (a : Nat) (b : Byte) : Mem.read (Mem.write m a b) a = b := Tbl.get_set_self m a b

theorem Mem.read_write_ne (m : Mem) (a : Nat) (b : Byte) {c : Nat} (h : c ≠ a) : Mem.read (Mem.write m a b) c = Mem.read m c :=
  Tbl.get_set_ne m a b h

/-- A write of bytes leaves every other address alone. -/
theorem Mem.read_writeN_outside (bs : Bytes) : ∀ (m : Mem) (a c : Nat), (c < a ∨ a + bs.length ≤ c) →
    Mem.read (Mem.writeN m a bs) c = Mem.read m c := by
  induction bs with
  | nil => intro m a c _; rfl
  | cons b bs ih =>
    intro m a c h
    simp only [List.length_cons] at h
    rw [Mem.writeN, ih _ _ _ (by omega), Mem.read_write_ne _ _ _ (by omega)]

/-- A write of bytes stores them in order. -/
theorem Mem.read_writeN_inside (bs : Bytes) : ∀ (m : Mem) (a i : Nat) (h : i < bs.length),
    Mem.read (Mem.writeN m a bs) (a + i) = bs[i] := by
  induction bs with
  | nil => intro m a i h; simp at h
  | cons b bs ih =>
    intro m a i h
    rw [Mem.writeN]
    cases i with
    | zero => rw [Mem.read_writeN_outside _ _ _ _ (by omega)]; simp
    | succ i =>
      have h' : i < bs.length := by simpa using h
      have := ih (Mem.write m a b) (a + 1) i h'
      rw [show a + (i + 1) = a + 1 + i by omega, this]
      rfl

theorem Memory.wf_write {m : Mem} (h : Memory.wf m = true) (a : Nat) (b : Byte) : Memory.wf (Mem.write m a b) = true := Tbl.wf_set h a b

theorem Memory.wf_writeN (bs : Bytes) : ∀ {m : Mem} (_ : Memory.wf m = true) (a : Nat), Memory.wf (Mem.writeN m a bs) = true := by
  induction bs with
  | nil => intro m h a; exact h
  | cons b bs ih => intro m h a; exact ih (Memory.wf_write h a b) (a + 1)

end Sys2Proof.Machine
end

