-- ==== Sys2Proof/Laws/Memory.lean ====
section
/-!
SUPPORT. Every memory operation keeps the canonical form of the memories (`MemoryOk`), and reset has it.
-/

namespace Sys2Proof.Machine

/-- The canonical form of the memories by themselves. -/
def Memories.Ok (m : Memories) : Prop :=
  Memory.wf m.host = true ∧ Memory.wf m.mod = true ∧ Tbl.wf m.pois = true ∧ Tbl.wf m.fill = true ∧ Tbl.wf m.ecc = true

theorem memoryOk_iff (s : State) : MemoryOk s ↔ s.mem.Ok := Iff.rfl

/-- What leaves the memories alone keeps their form. -/
theorem memoryOk_of_mem_eq {s t : State} (h : t.mem = s.mem) (hs : MemoryOk s) : MemoryOk t := by
  unfold MemoryOk at *; rw [h]; exact hs

/-- A fold of steps that keep the form keeps it. -/
theorem memoryOk_foldl {β : Type} (f : State → β → State) (hf : ∀ s b, MemoryOk s → MemoryOk (f s b)) (l : List β) :
    ∀ s, MemoryOk s → MemoryOk (l.foldl f s) := by
  induction l with
  | nil => intro s h; exact h
  | cons b r ih => intro s h; exact ih _ (hf s b h)

theorem memoryOk_reset : MemoryOk State.reset := ⟨rfl, rfl, rfl, rfl, rfl⟩

theorem memoryOk_updTile {s : State} (h : MemoryOk s) (t : Nat) (f : Tile → Tile) : MemoryOk (updTile s t f) := h
theorem memoryOk_updDie {s : State} (h : MemoryOk s) (d : Nat) (f : DieRegs → DieRegs) : MemoryOk (updDie s d f) := h

theorem poisAfter_wf {p : Tbl Bool} (h : Tbl.wf p = true) (k : Nat) (data : List PByte) : Tbl.wf (poisAfter p k data) = true := by
  unfold poisAfter
  split
  · exact h
  · exact Tbl.wf_foldl _ (fun t _ ht => Tbl.wf_set ht _ _) _ _ h

theorem eccAfter_wf {e : Tbl Nat} (h : Tbl.wf e = true) (k n : Nat) : Tbl.wf (eccAfter e k n) = true := Tbl.wf_clear h _ _

theorem fillAfter_wf {f : Tbl Bool} (h : Tbl.wf f = true) (k n : Nat) : Tbl.wf (fillAfter f k n) = true := by
  unfold fillAfter
  split
  · exact h
  · refine Tbl.wf_foldl _ (fun t i ht => ?_) _ _ h
    split
    · exact Tbl.wf_set ht _ _
    · exact ht

theorem memoryOk_storeMod {s : State} (h : MemoryOk s) (k : Nat) (data : List PByte) : MemoryOk (storeMod s k data) := by
  unfold storeMod
  split
  · exact h
  · obtain ⟨h1, h2, h3, h4, h5⟩ := h
    have h' : MemoryOk { s with mem := { s.mem with
        mod := Mem.writeN s.mem.mod k (plain data)
        pois := poisAfter s.mem.pois k data
        ecc := eccAfter s.mem.ecc k data.length
        fill := fillAfter s.mem.fill k data.length } } :=
      ⟨h1, Memory.wf_writeN _ h2 _, poisAfter_wf h3 _ _, fillAfter_wf h4 _ _, eccAfter_wf h5 _ _⟩
    dsimp only
    split
    · exact h'
    · exact h'

theorem memoryOk_storeClean {s : State} (h : MemoryOk s) (k : Nat) (data : Bytes) : MemoryOk (storeClean s k data) :=
  memoryOk_storeMod h _ _

theorem memoryOk_storeTile {s : State} (h : MemoryOk s) (t : Nat) (data : List (Nat × PByte)) : MemoryOk (storeTile s t data) := by
  unfold storeTile
  refine memoryOk_foldl _ ?_ _ _ h
  intro u p hu
  exact ⟨hu.1, Memory.wf_write hu.2.1 _ _, Tbl.wf_set hu.2.2.1 _ _, hu.2.2.2.1, hu.2.2.2.2⟩

theorem memoryOk_clearWhole {s : State} (h : MemoryOk s) (t : Nat) (l : List Nat) : MemoryOk (clearWhole s t l) := by
  refine memoryOk_foldl _ (fun u b hu => ?_) _ _ h
  split
  · exact ⟨hu.1, hu.2.1, Tbl.wf_set hu.2.2.1 (tileKey t (64 * b) / 64) false, hu.2.2.2.1, hu.2.2.2.2⟩
  · exact hu

theorem memoryOk_setFill {s : State} (h : MemoryOk s) (t : Nat) (l : List Nat) : MemoryOk (setFill s t l) :=
  ⟨h.1, h.2.1, h.2.2.1, Tbl.wf_foldl _ (fun _ _ ht => Tbl.wf_set ht _ _) _ _ h.2.2.2.1, h.2.2.2.2⟩

theorem memoryOk_clearFill {s : State} (h : MemoryOk s) (t : Nat) (l : List Nat) : MemoryOk (clearFill s t l) :=
  ⟨h.1, h.2.1, h.2.2.1, Tbl.wf_foldl _ (fun _ _ ht => Tbl.wf_set ht _ _) _ _ h.2.2.2.1, h.2.2.2.2⟩

theorem memoryOk_hostWrite {s : State} (h : MemoryOk s) (a : Nat) (b : Bytes) : MemoryOk (hostWrite s a b) :=
  ⟨Memory.wf_writeN _ h.1 _, h.2⟩

theorem memoriesOk_scrubMem {m : Memories} (h : m.Ok) (t : Nat) : (scrubMem m t).Ok :=
  ⟨h.1, Tbl.wf_clear h.2.1 _ _, Tbl.wf_clear h.2.2.1 _ _, Tbl.wf_clear h.2.2.2.1 _ _, Tbl.wf_clear h.2.2.2.2 _ _⟩

theorem memoriesOk_scrubAll {m : Memories} (h : m.Ok) : (scrubAll m).Ok :=
  ⟨h.1, Tbl.wf_filter _ h.2.1, Tbl.wf_filter _ h.2.2.1, rfl, Tbl.wf_filter _ h.2.2.2.2⟩

theorem memoriesOk_host {m : Memories} (h : m.Ok) : Memories.Ok { host := m.host } := ⟨h.1, rfl, rfl, rfl, rfl⟩

theorem memoryOk_scrubTile {s : State} (h : MemoryOk s) (t : Nat) : MemoryOk (scrubTile s t) := memoriesOk_scrubMem h t

theorem memoryOk_clearTile {s : State} (h : MemoryOk s) (t : Nat) : MemoryOk (clearTile s t) :=
  ⟨h.1, h.2.1, h.2.2.1, Tbl.wf_clear h.2.2.2.1 _ _, h.2.2.2.2⟩

theorem memoryOk_killTile {s : State} (h : MemoryOk s) (t : Nat) : MemoryOk (killTile s t) := by
  unfold killTile
  split
  · exact memoryOk_scrubTile h t
  · exact memoryOk_clearTile h t

theorem memoryOk_setEcc {s : State} (h : MemoryOk s) (b v : Nat) : MemoryOk (setEcc s b v) :=
  ⟨h.1, h.2.1, h.2.2.1, h.2.2.2.1, Tbl.wf_set h.2.2.2.2 _ _⟩

theorem memoryOk_setPois {s : State} (h : MemoryOk s) (b : Nat) : MemoryOk (setPois s b) :=
  ⟨h.1, h.2.1, Tbl.wf_set h.2.2.1 b true, h.2.2.2⟩

/-! ### What a write of host memory and of module memory leaves -/

theorem hostWrite_read_outside (s : State) (a c : Nat) (b : Bytes) (h : c < a ∨ a + b.length ≤ c) :
    Mem.read (hostWrite s a b).mem.host c = Mem.read s.mem.host c := Mem.read_writeN_outside b _ a c h

theorem storeMod_host (s : State) (k : Nat) (d : List PByte) : (storeMod s k d).mem.host = s.mem.host := by
  unfold storeMod; split
  · rfl
  · dsimp only; split <;> rfl

/-- A write of module memory leaves every byte outside its extent. -/
theorem storeMod_read_outside (s : State) (k c : Nat) (d : List PByte) (h : c < k ∨ k + (plain d).length ≤ c) :
    Mem.read (storeMod s k d).mem.mod c = Mem.read s.mem.mod c := by
  unfold storeMod; split
  · rfl
  · dsimp only; split <;> exact Mem.read_writeN_outside _ _ _ _ h

/-- The byte at `i` of a write of module memory reads back. -/
theorem storeMod_read_inside (s : State) (k i : Nat) (d : List PByte) (h : i < (plain d).length) :
    Mem.read (storeMod s k d).mem.mod (k + i) = (plain d)[i] := by
  unfold storeMod; split
  · rename_i hd; rw [List.isEmpty_iff] at hd; subst hd; simp [plain] at h
  · dsimp only; split <;> exact Mem.read_writeN_inside _ _ _ _ h

end Sys2Proof.Machine
end

