-- ==== Sys2Proof/Laws/PerInstr.lean ====
section
/-!
SUPPORT. What holds of every command as syntax, one lemma for each constructor: no word of the opcode table spells the command, for no
row of the table gives bits.
-/

namespace Sys2Proof.Laws.Unspelled

/-- No word of any length spells the command. -/
def Statement (i : Instr) : Prop := ∀ nbits w : Nat, decodeTableWord nbits w ≠ some i

theorem queueEnable : Statement (.queueEnable) := fun _ _ => nofun
theorem queueDisable : Statement (.queueDisable) := fun _ _ => nofun
theorem queueIdle : Statement (.queueIdle) := fun _ _ => nofun
theorem hostRegionWrite (r : Fin 64) (a : W64) : Statement (.hostRegionWrite r a) := fun _ _ => nofun
theorem fenceRegisterWrite (f : Fin 256) (val : Bool) (v : W64) : Statement (.fenceRegisterWrite f val v) := fun _ _ => nofun
theorem sqDoorbell (v : W64) : Statement (.sqDoorbell v) := fun _ _ => nofun
theorem cqDoorbell (v : W64) : Statement (.cqDoorbell v) := fun _ _ => nofun
theorem fenceDoorbell (f : Fin 256) (single64 : Bool) (v : W64) : Statement (.fenceDoorbell f single64 v) := fun _ _ => nofun
theorem sqFetch (pcieOk : Bool) : Statement (.sqFetch pcieOk) := fun _ _ => nofun
theorem completionWrite (st : Stream) : Statement (.completionWrite st) := fun _ _ => nofun
theorem nop (st : Stream) : Statement (.nop st) := fun _ _ => nofun
theorem kernel (st : Stream) : Statement (.kernel st) := fun _ _ => nofun
theorem graph (st : Stream) : Statement (.graph st) := fun _ _ => nofun
theorem graphNodeStart (st : Stream) (node : Nat) (de : Fin 16) (ch : Chan) : Statement (.graphNodeStart st node de ch) := fun _ _ => nofun
theorem graphLaunchMessage (src : Fin 512) (head : W32) (id : BitVec 16) (version : BitVec 16) (digest : Bytes) (args : Bytes) : Statement (.graphLaunchMessage src head id version digest args) := fun _ _ => nofun
theorem completionToken (src : Fin 512) (launcher : Fin 512) (st : Stream) (id : BitVec 16) (edge : Nat) (rep : NodeReport) : Statement (.completionToken src launcher st id edge rep) := fun _ _ => nofun
theorem dma (st : Stream) (de : Fin 16) (ch : Chan) : Statement (.dma st de ch) := fun _ _ => nofun
theorem signal (st : Stream) : Statement (.signal st) := fun _ _ => nofun
theorem wait (st : Stream) : Statement (.wait st) := fun _ _ => nofun
theorem waitTimeout (st : Stream) : Statement (.waitTimeout st) := fun _ _ => nofun
theorem branch (st : Stream) : Statement (.branch st) := fun _ _ => nofun
theorem branchPollDelay (st : Stream) : Statement (.branchPollDelay st) := fun _ _ => nofun
theorem loop (st : Stream) : Statement (.loop st) := fun _ _ => nofun
theorem call (st : Stream) : Statement (.call st) := fun _ _ => nofun
theorem ret (st : Stream) : Statement (.ret st) := fun _ _ => nofun
theorem barrier (st : Stream) : Statement (.barrier st) := fun _ _ => nofun
theorem timestamp (st : Stream) : Statement (.timestamp st) := fun _ _ => nofun
theorem digest (st : Stream) : Statement (.digest st) := fun _ _ => nofun
theorem decodeLoop (st : Stream) : Statement (.decodeLoop st) := fun _ _ => nofun
theorem identify (st : Stream) : Statement (.identify st) := fun _ _ => nofun
theorem attest (st : Stream) : Statement (.attest st) := fun _ _ => nofun
theorem bundleBegin (st : Stream) : Statement (.bundleBegin st) := fun _ _ => nofun
theorem bundleChunk (st : Stream) : Statement (.bundleChunk st) := fun _ _ => nofun
theorem bundleCommit (st : Stream) : Statement (.bundleCommit st) := fun _ _ => nofun
theorem bundleMemberReport (member : Fin 16) (slot : Fin 8) (result : MemberResult) : Statement (.bundleMemberReport member slot result) := fun _ _ => nofun
theorem bundleMemberCommit (slot : Fin 8) (gen : BitVec 16) (gendig : Bytes) : Statement (.bundleMemberCommit slot gen gendig) := fun _ _ => nofun
theorem wsetSwitch (st : Stream) : Statement (.wsetSwitch st) := fun _ _ => nofun
theorem modeRequest (st : Stream) : Statement (.modeRequest st) := fun _ _ => nofun
theorem ringConfig (st : Stream) : Statement (.ringConfig st) := fun _ _ => nofun
theorem cascadeJoin (st : Stream) : Statement (.cascadeJoin st) := fun _ _ => nofun
theorem cascadeJoinSettled : Statement (.cascadeJoinSettled) := fun _ _ => nofun
theorem twinPair (st : Stream) (p : PartnerReport) : Statement (.twinPair st p) := fun _ _ => nofun
theorem twinPairTimeout : Statement (.twinPairTimeout) := fun _ _ => nofun
theorem powerPolicy (st : Stream) : Statement (.powerPolicy st) := fun _ _ => nofun
theorem clockPin (st : Stream) : Statement (.clockPin st) := fun _ _ => nofun
theorem telemetry (st : Stream) : Statement (.telemetry st) := fun _ _ => nofun
theorem retire (st : Stream) : Statement (.retire st) := fun _ _ => nofun
theorem scrub (st : Stream) : Statement (.scrub st) := fun _ _ => nofun
theorem scrubDone (t : TileNo) : Statement (.scrubDone t) := fun _ _ => nofun
theorem fwUpdate (st : Stream) (alertStops : Bool) : Statement (.fwUpdate st alertStops) := fun _ _ => nofun
theorem reset (st : Stream) : Statement (.reset st) := fun _ _ => nofun
theorem detachPrepare (st : Stream) : Statement (.detachPrepare st) := fun _ _ => nofun
theorem graphStore (st : Stream) : Statement (.graphStore st) := fun _ _ => nofun
theorem graphPatch (st : Stream) : Statement (.graphPatch st) := fun _ _ => nofun
theorem deltaLoad (st : Stream) (wrote : Option (Nat × Bytes)) : Statement (.deltaLoad st wrote) := fun _ _ => nofun
theorem hostTierMap (st : Stream) : Statement (.hostTierMap st) := fun _ _ => nofun
theorem timeTag (st : Stream) : Statement (.timeTag st) := fun _ _ => nofun
theorem faultPolicy (st : Stream) : Statement (.faultPolicy st) := fun _ _ => nofun
theorem tileQueueEnable (t : TileNo) (qhandle : Fin 64) : Statement (.tileQueueEnable t qhandle) := fun _ _ => nofun
theorem tileQueueTail (t : TileNo) (tail : BitVec 9) : Statement (.tileQueueTail t tail) := fun _ _ => nofun
theorem todFetch (t : TileNo) : Statement (.todFetch t) := fun _ _ => nofun
theorem todNop (t : TileNo) (w : Nat) : Statement (.todNop t w) := fun _ _ => nofun
theorem mma (t : TileNo) (w : Nat) : Statement (.mma t w) := fun _ _ => nofun
theorem mmaT (t : TileNo) (w : Nat) : Statement (.mmaT t w) := fun _ _ => nofun
theorem dist (t : TileNo) (w : Nat) : Statement (.dist t w) := fun _ _ => nofun
theorem ashift (t : TileNo) (w : Nat) : Statement (.ashift t w) := fun _ _ => nofun
theorem softmax (t : TileNo) (w : Nat) : Statement (.softmax t w) := fun _ _ => nofun
theorem rmsnorm (t : TileNo) (w : Nat) : Statement (.rmsnorm t w) := fun _ _ => nofun
theorem glu (t : TileNo) (w : Nat) : Statement (.glu t w) := fun _ _ => nofun
theorem rope (t : TileNo) (w : Nat) : Statement (.rope t w) := fun _ _ => nofun
theorem quant (t : TileNo) (w : Nat) : Statement (.quant t w) := fun _ _ => nofun
theorem dequant (t : TileNo) (w : Nat) : Statement (.dequant t w) := fun _ _ => nofun
theorem topk (t : TileNo) (w : Nat) : Statement (.topk t w) := fun _ _ => nofun
theorem ewise (t : TileNo) (w : Nat) : Statement (.ewise t w) := fun _ _ => nofun
theorem convert (t : TileNo) (w : Nat) : Statement (.convert t w) := fun _ _ => nofun
theorem semSignal (t : TileNo) (w : Nat) : Statement (.semSignal t w) := fun _ _ => nofun
theorem semWait (t : TileNo) (w : Nat) : Statement (.semWait t w) := fun _ _ => nofun
theorem todBarrier (t : TileNo) (w : Nat) : Statement (.todBarrier t w) := fun _ _ => nofun
theorem event (t : TileNo) (w : Nat) : Statement (.event t w) := fun _ _ => nofun
theorem qwait (t : TileNo) (w : Nat) : Statement (.qwait t w) := fun _ _ => nofun
theorem taskEnd (t : TileNo) (w : Nat) : Statement (.taskEnd t w) := fun _ _ => nofun
theorem srkey (t : TileNo) (w : Nat) : Statement (.srkey t w) := fun _ _ => nofun
theorem todComplete (t : TileNo) (w : Nat) : Statement (.todComplete t w) := fun _ _ => nofun
theorem semRequest (t : TileNo) : Statement (.semRequest t) := fun _ _ => nofun
theorem semSignalReport (t : TileNo) (w : Nat) : Statement (.semSignalReport t w) := fun _ _ => nofun
theorem handleWrite (t : TileNo) (h : Fin 64) (a : W64) : Statement (.handleWrite t h a) := fun _ _ => nofun
theorem handleWriteRelease (t : TileNo) (h : Fin 64) : Statement (.handleWriteRelease t h) := fun _ _ => nofun
theorem windowWrite (t : TileNo) (w : Fin 8) (a : W64) : Statement (.windowWrite t w a) := fun _ _ => nofun
theorem remoteAccess (t : TileNo) (a : Access) : Statement (.remoteAccess t a) := fun _ _ => nofun
theorem probe (p : ProbeReq) : Statement (.probe p) := fun _ _ => nofun
theorem hbmWindowWrite (d : Die) (w : Fin 16) (a : W64) : Statement (.hbmWindowWrite d w a) := fun _ _ => nofun
theorem hbmWindowAccess (d : Die) (a : Access) : Statement (.hbmWindowAccess d a) := fun _ _ => nofun
theorem dmaChannelEnable (e : EngineNo) (ch : Chan) (en : Bool) : Statement (.dmaChannelEnable e ch en) := fun _ _ => nofun
theorem dmaChannelTail (e : EngineNo) (ch : Chan) (tail : BitVec 6) : Statement (.dmaChannelTail e ch tail) := fun _ _ => nofun
theorem copy (e : EngineNo) (ch : Chan) : Statement (.copy e ch) := fun _ _ => nofun
theorem gather (e : EngineNo) (ch : Chan) : Statement (.gather e ch) := fun _ _ => nofun
theorem scatter (e : EngineNo) (ch : Chan) : Statement (.scatter e ch) := fun _ _ => nofun
theorem fill (e : EngineNo) (ch : Chan) : Statement (.fill e ch) := fun _ _ => nofun
theorem pagewalk (e : EngineNo) (ch : Chan) : Statement (.pagewalk e ch) := fun _ _ => nofun
theorem bond (e : EngineNo) (ch : Chan) : Statement (.bond e ch) := fun _ _ => nofun
theorem prefetch (e : EngineNo) (ch : Chan) : Statement (.prefetch e ch) := fun _ _ => nofun
theorem descriptorComplete (e : EngineNo) (ch : Chan) : Statement (.descriptorComplete e ch) := fun _ _ => nofun
theorem passBoundary : Statement (.passBoundary) := fun _ _ => nofun
theorem verifyPass (ra : W64) (drafts : List (List W32)) : Statement (.verifyPass ra drafts) := fun _ _ => nofun
theorem verifyPassCommit (ra : W64) (rows : List LogitRow) (outs : List (List Bytes)) : Statement (.verifyPassCommit ra rows outs) := fun _ _ => nofun
theorem admission (slot : Fin 8) : Statement (.admission slot) := fun _ _ => nofun
theorem prefillCommit (ra : W64) (row : LogitRow) (outs : List (List Bytes)) : Statement (.prefillCommit ra row outs) := fun _ _ => nofun
theorem park (ra : W64) (w : Fin 64) : Statement (.park ra w) := fun _ _ => nofun
theorem recallSequence (ra : W64) : Statement (.recallSequence ra) := fun _ _ => nofun
theorem generationPark (slot : Fin 8) (gen : BitVec 16) (w : Fin 64) (back : Bool) : Statement (.generationPark slot gen w back) := fun _ _ => nofun
theorem frameEmit (d : Die) (dir : Dir) (f : Emission) : Statement (.frameEmit d dir f) := fun _ _ => nofun
theorem frameArrival (d : Die) (dir : Dir) (hx : Bytes) (px : Bytes) : Statement (.frameArrival d dir hx px) := fun _ _ => nofun
theorem frameTake (d : Die) (dir : Dir) (i : Nat) : Statement (.frameTake d dir i) := fun _ _ => nofun
theorem runEntryPush (d : Die) (dir : Dir) (i : Nat) : Statement (.runEntryPush d dir i) := fun _ _ => nofun
theorem genBuoy (d : Die) (dir : Dir) (hx : Bytes) : Statement (.genBuoy d dir hx) := fun _ _ => nofun
theorem layerBuoy (d : Die) (dir : Dir) (hx : Bytes) : Statement (.layerBuoy d dir hx) := fun _ _ => nofun
theorem passEndBuoy (d : Die) (dir : Dir) (hx : Bytes) : Statement (.passEndBuoy d dir hx) := fun _ _ => nofun
theorem gradFrame (d : Die) (dir : Dir) (hx : Bytes) (px : Bytes) (own : Option Bytes) (ownPois : Bool) : Statement (.gradFrame d dir hx px own ownPois) := fun _ _ => nofun
theorem creditReturn (d : Die) (dir : Dir) : Statement (.creditReturn d dir) := fun _ _ => nofun
theorem reRequest (d : Die) (dir : Dir) : Statement (.reRequest d dir) := fun _ _ => nofun
theorem resentCopy (d : Die) (dir : Dir) (hx : Bytes) (px : Bytes) : Statement (.resentCopy d dir hx px) := fun _ _ => nofun
theorem reRequestTimeout (d : Die) (dir : Dir) (i : Nat) : Statement (.reRequestTimeout d dir i) := fun _ _ => nofun
theorem passComplete (d : Die) : Statement (.passComplete d) := fun _ _ => nofun
theorem exchangePacket (d : Die) (dir : Dir) (hx : Bytes) (px : Bytes) : Statement (.exchangePacket d dir hx px) := fun _ _ => nofun
theorem exchangeComplete (d : Die) (layer : BitVec 12) (xid : BitVec 4) : Statement (.exchangeComplete d layer xid) := fun _ _ => nofun
theorem exchangeReRequest (d : Die) (dir : Dir) : Statement (.exchangeReRequest d dir) := fun _ _ => nofun
theorem exchangeResendTimeout (d : Die) (i : Nat) : Statement (.exchangeResendTimeout d i) := fun _ _ => nofun
theorem governorEvaluation (slot : Fin 8) (m : Measured) : Statement (.governorEvaluation slot m) := fun _ _ => nofun
theorem propose (d : Die) (e : W32) (canHold : Bool) : Statement (.propose d e canHold) := fun _ _ => nofun
theorem prepared (d : Die) : Statement (.prepared d) := fun _ _ => nofun
theorem refused (d : Die) : Statement (.refused d) := fun _ _ => nofun
theorem commit (d : Die) (e : W32) : Statement (.commit d e) := fun _ _ => nofun
theorem committed (d : Die) : Statement (.committed d) := fun _ _ => nofun
theorem settleComplete (slot : Fin 8) : Statement (.settleComplete slot) := fun _ _ => nofun
theorem abort (d : Die) (e : W32) : Statement (.abort d e) := fun _ _ => nofun
theorem reverted (d : Die) : Statement (.reverted d) := fun _ _ => nofun
theorem preparedDeadline : Statement (.preparedDeadline) := fun _ _ => nofun
theorem committedDeadline (d : Die) : Statement (.committedDeadline d) := fun _ _ => nofun
theorem revertedDeadline (d : Die) : Statement (.revertedDeadline d) := fun _ _ => nofun
theorem heartbeatLoss (d : Die) : Statement (.heartbeatLoss d) := fun _ _ => nofun
theorem arcFlitNak (k : Fin 8) : Statement (.arcFlitNak k) := fun _ _ => nofun
theorem arcRetrainDone (k : Fin 8) : Statement (.arcRetrainDone k) := fun _ _ => nofun
theorem auditRequest : Statement (.auditRequest) := fun _ _ => nofun
theorem conservationAudit : Statement (.conservationAudit) := fun _ _ => nofun
theorem kill (st : Stream) : Statement (.kill st) := fun _ _ => nofun
theorem watchdogExpiry (st : Stream) : Statement (.watchdogExpiry st) := fun _ _ => nofun
theorem barrierConfigWrite (casc : Bool) (b : Fin 64) (v : W64) : Statement (.barrierConfigWrite casc b v) := fun _ _ => nofun
theorem barrierRoundComplete (casc : Bool) (b : Fin 64) : Statement (.barrierRoundComplete casc b) := fun _ _ => nofun
theorem beaconExchange (t1 : W64) (t2 : W64) (t3 : W64) (t4 : W64) : Statement (.beaconExchange t1 t2 t3 t4) := fun _ _ => nofun
theorem arrive (member : Fin 512) (c : Fin 64) (round : BitVec 2) : Statement (.arrive member c round) := fun _ _ => nofun
theorem release (c : Fin 64) (round : BitVec 2) (trel : W64) : Statement (.release c round trel) := fun _ _ => nofun
theorem cascadeReleaseTime (c : Fin 64) : Statement (.cascadeReleaseTime c) := fun _ _ => nofun
theorem evrDoorbell (v : W32) : Statement (.evrDoorbell v) := fun _ _ => nofun
theorem evrFclr (v : W32) (fires : Nat) : Statement (.evrFclr v fires) := fun _ _ => nofun
theorem evrEnWrite (w : Fin 32) (v : W32) : Statement (.evrEnWrite w v) := fun _ _ => nofun
theorem evrPendWrite (w : Fin 32) (v : W32) (hw : W32) : Statement (.evrPendWrite w v hw) := fun _ _ => nofun
theorem eventRouting : Statement (.eventRouting) := fun _ _ => nofun
theorem keeperTake (k : Fin 4) (head : BitVec 4) : Statement (.keeperTake k head) := fun _ _ => nofun
theorem eoi (k : Fin 4) (src : BitVec 10) : Statement (.eoi k src) := fun _ _ => nofun
theorem keeperWake (k : Fin 4) : Statement (.keeperWake k) := fun _ _ => nofun
theorem keeperSleep (k : Fin 4) : Statement (.keeperSleep k) := fun _ _ => nofun
theorem hostEventQueueHead (v : Fin 64) (head : BitVec 13) : Statement (.hostEventQueueHead v head) := fun _ _ => nofun
theorem hostEventQueueEnable (v : Fin 64) (value : W64) : Statement (.hostEventQueueEnable v value) := fun _ _ => nofun
theorem msixVectorUnmask (v : Fin 64) : Statement (.msixVectorUnmask v) := fun _ _ => nofun
theorem linkSignalDetect (n : LinkNo) : Statement (.linkSignalDetect n) := fun _ _ => nofun
theorem linkTrained (n : LinkNo) (lg0 : Bool) (lg1 : Bool) : Statement (.linkTrained n lg0 lg1) := fun _ _ => nofun
theorem linkTrainTimeout (n : LinkNo) : Statement (.linkTrainTimeout n) := fun _ _ => nofun
theorem characteristicFrame (n : LinkNo) (frame : Bytes) : Statement (.characteristicFrame n frame) := fun _ _ => nofun
theorem characteristicFrameSend (n : LinkNo) : Statement (.characteristicFrameSend n) := fun _ _ => nofun
theorem linkSilenceTimeout (n : LinkNo) : Statement (.linkSilenceTimeout n) := fun _ _ => nofun
theorem linkSignalLoss (n : LinkNo) : Statement (.linkSignalLoss n) := fun _ _ => nofun
theorem flitNak (n : LinkNo) : Statement (.flitNak n) := fun _ _ => nofun
theorem message (n : LinkNo) (m : Msg) : Statement (.message n m) := fun _ _ => nofun
theorem memberMessageSend : Statement (.memberMessageSend) := fun _ _ => nofun
theorem memberMessage (p : Fin 8) (rows : List MemberRow) : Statement (.memberMessage p rows) := fun _ _ => nofun
theorem memberHeartbeatTimeout (i : Fin 512) : Statement (.memberHeartbeatTimeout i) := fun _ _ => nofun
theorem fogMessage (p : Fin 8) (f : Fog) : Statement (.fogMessage p f) := fun _ _ => nofun
theorem twinLogEntry (entry : Bytes) (record : Bytes) : Statement (.twinLogEntry entry record) := fun _ _ => nofun
theorem twinCheckpoint (c : Checkpoint) : Statement (.twinCheckpoint c) := fun _ _ => nofun
theorem checkpointAck (ra : W64) : Statement (.checkpointAck ra) := fun _ _ => nofun
theorem writtenNotice (tag : BitVec 16) : Statement (.writtenNotice tag) := fun _ _ => nofun
theorem fatalFault (cause : BitVec 8) : Statement (.fatalFault cause) := fun _ _ => nofun
theorem keeperWatchdog : Statement (.keeperWatchdog) := fun _ _ => nofun
theorem spineLoss (d : Die) : Statement (.spineLoss d) := fun _ _ => nofun
theorem powerOn (t : SelfTest) : Statement (.powerOn t) := fun _ _ => nofun
theorem pwrEnDeassert : Statement (.pwrEnDeassert) := fun _ _ => nofun
theorem pwrAlertAssert : Statement (.pwrAlertAssert) := fun _ _ => nofun
theorem pwrAlertDeassert : Statement (.pwrAlertDeassert) := fun _ _ => nofun
theorem grantResume : Statement (.grantResume) := fun _ _ => nofun
theorem inputUndervoltage : Statement (.inputUndervoltage) := fun _ _ => nofun
theorem inputLow : Statement (.inputLow) := fun _ _ => nofun
theorem inputHigh : Statement (.inputHigh) := fun _ _ => nofun
theorem inputOvervoltage : Statement (.inputOvervoltage) := fun _ _ => nofun
theorem overcurrent : Statement (.overcurrent) := fun _ _ => nofun
theorem grantInterval (reserveDraw : Nat) (slack : List Nat) : Statement (.grantInterval reserveDraw slack) := fun _ _ => nofun
theorem drawSample (d : Die) (draw : BitVec 9) : Statement (.drawSample d draw) := fun _ _ => nofun
theorem loan (d : Die) (predictedUs : Nat) : Statement (.loan d predictedUs) := fun _ _ => nofun
theorem loanRecall (d : Die) : Statement (.loanRecall d) := fun _ _ => nofun
theorem cclkStepDown (d : Die) : Statement (.cclkStepDown d) := fun _ _ => nofun
theorem cclkStepUp : Statement (.cclkStepUp) := fun _ _ => nofun
theorem junctionHot (d : Die) (tj : BitVec 8) : Statement (.junctionHot d tj) := fun _ _ => nofun
theorem junctionHotHold (d : Die) : Statement (.junctionHotHold d) := fun _ _ => nofun
theorem junctionCritical (d : Die) (tj : BitVec 8) : Statement (.junctionCritical d tj) := fun _ _ => nofun
theorem thermalTrip (d : Die) (tj : BitVec 8) : Statement (.thermalTrip d tj) := fun _ _ => nofun
theorem coolantInletHigh (tenths : BitVec 12) : Statement (.coolantInletHigh tenths) := fun _ _ => nofun
theorem pllLockLoss : Statement (.pllLockLoss) := fun _ _ => nofun
theorem pllRelock : Statement (.pllRelock) := fun _ _ => nofun
theorem perstAssert : Statement (.perstAssert) := fun _ _ => nofun
theorem perstDeassert : Statement (.perstDeassert) := fun _ _ => nofun
theorem functionLevelReset (src : ResetSource) : Statement (.functionLevelReset src) := fun _ _ => nofun
theorem warmReset (src : ResetSource) : Statement (.warmReset src) := fun _ _ => nofun
theorem dieReset (d : Die) (src : ResetSource) : Statement (.dieReset d src) := fun _ _ => nofun
theorem dieResetComplete (d : Die) (t : SelfTest) : Statement (.dieResetComplete d t) := fun _ _ => nofun
theorem coldReset (src : ResetSource) : Statement (.coldReset src) := fun _ _ => nofun
theorem program (page : BitVec 14) : Statement (.program page) := fun _ _ => nofun
theorem finish : Statement (.finish) := fun _ _ => nofun
theorem recoveryAbort : Statement (.recoveryAbort) := fun _ _ => nofun
theorem tftpWriteRequest (name : Bytes) (blksize : Nat) : Statement (.tftpWriteRequest name blksize) := fun _ _ => nofun
theorem dhcpLeaseTimeout : Statement (.dhcpLeaseTimeout) := fun _ _ => nofun
theorem enrol (index : Fin 16) : Statement (.enrol index) := fun _ _ => nofun
theorem revoke (index : Fin 16) : Statement (.revoke index) := fun _ _ => nofun
theorem keysLock : Statement (.keysLock) := fun _ _ => nofun
theorem challenge : Statement (.challenge) := fun _ _ => nofun
theorem debugUnlock : Statement (.debugUnlock) := fun _ _ => nofun
theorem debugLock : Statement (.debugLock) := fun _ _ => nofun
theorem debugFetch (a : W64) : Statement (.debugFetch a) := fun _ _ => nofun
theorem debugFetchDone : Statement (.debugFetchDone) := fun _ _ => nofun
theorem apSegWrite (seg : Fin 64) (v : W64) : Statement (.apSegWrite seg v) := fun _ _ => nofun
theorem bar4Read (off : Nat) (len : Nat) : Statement (.bar4Read off len) := fun _ _ => nofun
theorem bar4Write (off : Nat) (data : Bytes) : Statement (.bar4Write off data) := fun _ _ => nofun
theorem bar4Resize (log2 : Fin 64) : Statement (.bar4Resize log2) := fun _ _ => nofun
theorem bar0ImproperAccess (write : Bool) (off : Nat) (width : Nat) : Statement (.bar0ImproperAccess write off width) := fun _ _ => nofun
theorem powerStateChange (d3 : Bool) : Statement (.powerStateChange d3) := fun _ _ => nofun
theorem udpTelemetryRequest (datagram : Bytes) : Statement (.udpTelemetryRequest datagram) := fun _ _ => nofun
theorem arpRequest : Statement (.arpRequest) := fun _ _ => nofun
theorem icmpEchoRequest (data : Bytes) : Statement (.icmpEchoRequest data) := fun _ _ => nofun
theorem i3cPrivateWrite (bus : Fin 2) (data : Bytes) : Statement (.i3cPrivateWrite bus data) := fun _ _ => nofun
theorem i3cPrivateRead (bus : Fin 2) (len : Nat) : Statement (.i3cPrivateRead bus len) := fun _ _ => nofun
theorem i3cAddressAssignment (bus : Fin 2) (addr : BitVec 7) : Statement (.i3cAddressAssignment bus addr) := fun _ _ => nofun
theorem tileCountsCntClr (t : TileNo) : Statement (.tileCountsCntClr t) := fun _ _ => nofun
theorem spadCountsCntClr (t : TileNo) : Statement (.spadCountsCntClr t) := fun _ _ => nofun
theorem dcEccCntClr (d : Die) : Statement (.dcEccCntClr d) := fun _ _ => nofun
theorem swpStatusCntClr (d : Die) : Statement (.swpStatusCntClr d) := fun _ _ => nofun
theorem modeStatusCntClr (d : Die) : Statement (.modeStatusCntClr d) := fun _ _ => nofun
theorem cdcErrCntClr (d : Die) : Statement (.cdcErrCntClr d) := fun _ _ => nofun
theorem dmaCountsCntClr (e : EngineNo) : Statement (.dmaCountsCntClr e) := fun _ _ => nofun
theorem hqCountsCntClr : Statement (.hqCountsCntClr) := fun _ _ => nofun
theorem cpCapCntClr : Statement (.cpCapCntClr) := fun _ _ => nofun
theorem evrStatusCntClr : Statement (.evrStatusCntClr) := fun _ _ => nofun
theorem bcnStatusCntClr : Statement (.bcnStatusCntClr) := fun _ _ => nofun
theorem tlErrCntClr (n : LinkNo) : Statement (.tlErrCntClr n) := fun _ _ => nofun
theorem pwrCountsCntClr : Statement (.pwrCountsCntClr) := fun _ _ => nofun
theorem glbCountsCntClr : Statement (.glbCountsCntClr) := fun _ _ => nofun
theorem arcStatusCntClr (k : Fin 8) : Statement (.arcStatusCntClr k) := fun _ _ => nofun
theorem registerWrite (off : Nat) (wide : Bool) (v : W64) (hw : W64) : Statement (.registerWrite off wide v hw) := fun _ _ => nofun
theorem heartbeat (d : Die) : Statement (.heartbeat d) := fun _ _ => nofun
theorem recOperationDone : Statement (.recOperationDone) := fun _ _ => nofun
theorem secOperationDone : Statement (.secOperationDone) := fun _ _ => nofun
theorem moduleReady (t : SelfTest) : Statement (.moduleReady t) := fun _ _ => nofun
theorem inputBelow46V : Statement (.inputBelow46V) := fun _ _ => nofun
theorem dhcpLease (addr : W32) : Statement (.dhcpLease addr) := fun _ _ => nofun
theorem tftpData (data : Bytes) (last : Bool) : Statement (.tftpData data last) := fun _ _ => nofun

end Sys2Proof.Laws.Unspelled
end

