-- ==== Sys2Proof/Laws/State.lean ====
section
/-!
SUPPORT. One lemma for each field of State and each shared update: which field the update changes, and that it leaves the
others.
-/

namespace Sys2Proof.Machine

/-! ### `updTile` -/

@[simp] theorem updTile_pending (s : State) (t : Nat) (f : Tile → Tile) : (updTile s t f).pending = s.pending := rfl
@[simp] theorem updTile_mem (s : State) (t : Nat) (f : Tile → Tile) : (updTile s t f).mem = s.mem := rfl
@[simp] theorem updTile_tiles (s : State) (t : Nat) (f : Tile → Tile) : (updTile s t f).tiles = s.tiles.upd t f := rfl
@[simp] theorem updTile_engines (s : State) (t : Nat) (f : Tile → Tile) : (updTile s t f).engines = s.engines := rfl
@[simp] theorem updTile_dies (s : State) (t : Nat) (f : Tile → Tile) : (updTile s t f).dies = s.dies := rfl
@[simp] theorem updTile_arcs (s : State) (t : Nat) (f : Tile → Tile) : (updTile s t f).arcs = s.arcs := rfl
@[simp] theorem updTile_hq (s : State) (t : Nat) (f : Tile → Tile) : (updTile s t f).hq = s.hq := rfl
@[simp] theorem updTile_cp (s : State) (t : Nat) (f : Tile → Tile) : (updTile s t f).cp = s.cp := rfl
@[simp] theorem updTile_md (s : State) (t : Nat) (f : Tile → Tile) : (updTile s t f).md = s.md := rfl
@[simp] theorem updTile_bcn (s : State) (t : Nat) (f : Tile → Tile) : (updTile s t f).bcn = s.bcn := rfl
@[simp] theorem updTile_evr (s : State) (t : Nat) (f : Tile → Tile) : (updTile s t f).evr = s.evr := rfl
@[simp] theorem updTile_lk (s : State) (t : Nat) (f : Tile → Tile) : (updTile s t f).lk = s.lk := rfl
@[simp] theorem updTile_flt (s : State) (t : Nat) (f : Tile → Tile) : (updTile s t f).flt = s.flt := rfl
@[simp] theorem updTile_pw (s : State) (t : Nat) (f : Tile → Tile) : (updTile s t f).pw = s.pw := rfl
@[simp] theorem updTile_boot (s : State) (t : Nat) (f : Tile → Tile) : (updTile s t f).boot = s.boot := rfl
@[simp] theorem updTile_glb (s : State) (t : Nat) (f : Tile → Tile) : (updTile s t f).glb = s.glb := rfl
@[simp] theorem updTile_pins (s : State) (t : Nat) (f : Tile → Tile) : (updTile s t f).pins = s.pins := rfl
@[simp] theorem updTile_out (s : State) (t : Nat) (f : Tile → Tile) : (updTile s t f).out = s.out := rfl
@[simp] theorem updTile_free (s : State) (t : Nat) (f : Tile → Tile) : (updTile s t f).free = s.free := rfl

/-! ### `updDie` -/

@[simp] theorem updDie_pending (s : State) (d : Nat) (f : DieRegs → DieRegs) : (updDie s d f).pending = s.pending := rfl
@[simp] theorem updDie_mem (s : State) (d : Nat) (f : DieRegs → DieRegs) : (updDie s d f).mem = s.mem := rfl
@[simp] theorem updDie_tiles (s : State) (d : Nat) (f : DieRegs → DieRegs) : (updDie s d f).tiles = s.tiles := rfl
@[simp] theorem updDie_engines (s : State) (d : Nat) (f : DieRegs → DieRegs) : (updDie s d f).engines = s.engines := rfl
@[simp] theorem updDie_dies (s : State) (d : Nat) (f : DieRegs → DieRegs) : (updDie s d f).dies = s.dies.upd d f := rfl
@[simp] theorem updDie_arcs (s : State) (d : Nat) (f : DieRegs → DieRegs) : (updDie s d f).arcs = s.arcs := rfl
@[simp] theorem updDie_hq (s : State) (d : Nat) (f : DieRegs → DieRegs) : (updDie s d f).hq = s.hq := rfl
@[simp] theorem updDie_cp (s : State) (d : Nat) (f : DieRegs → DieRegs) : (updDie s d f).cp = s.cp := rfl
@[simp] theorem updDie_md (s : State) (d : Nat) (f : DieRegs → DieRegs) : (updDie s d f).md = s.md := rfl
@[simp] theorem updDie_bcn (s : State) (d : Nat) (f : DieRegs → DieRegs) : (updDie s d f).bcn = s.bcn := rfl
@[simp] theorem updDie_evr (s : State) (d : Nat) (f : DieRegs → DieRegs) : (updDie s d f).evr = s.evr := rfl
@[simp] theorem updDie_lk (s : State) (d : Nat) (f : DieRegs → DieRegs) : (updDie s d f).lk = s.lk := rfl
@[simp] theorem updDie_flt (s : State) (d : Nat) (f : DieRegs → DieRegs) : (updDie s d f).flt = s.flt := rfl
@[simp] theorem updDie_pw (s : State) (d : Nat) (f : DieRegs → DieRegs) : (updDie s d f).pw = s.pw := rfl
@[simp] theorem updDie_boot (s : State) (d : Nat) (f : DieRegs → DieRegs) : (updDie s d f).boot = s.boot := rfl
@[simp] theorem updDie_glb (s : State) (d : Nat) (f : DieRegs → DieRegs) : (updDie s d f).glb = s.glb := rfl
@[simp] theorem updDie_pins (s : State) (d : Nat) (f : DieRegs → DieRegs) : (updDie s d f).pins = s.pins := rfl
@[simp] theorem updDie_out (s : State) (d : Nat) (f : DieRegs → DieRegs) : (updDie s d f).out = s.out := rfl
@[simp] theorem updDie_free (s : State) (d : Nat) (f : DieRegs → DieRegs) : (updDie s d f).free = s.free := rfl

/-! ### `updEngine` -/

@[simp] theorem updEngine_pending (s : State) (e : Nat) (f : Engine → Engine) : (updEngine s e f).pending = s.pending := rfl
@[simp] theorem updEngine_mem (s : State) (e : Nat) (f : Engine → Engine) : (updEngine s e f).mem = s.mem := rfl
@[simp] theorem updEngine_tiles (s : State) (e : Nat) (f : Engine → Engine) : (updEngine s e f).tiles = s.tiles := rfl
@[simp] theorem updEngine_engines (s : State) (e : Nat) (f : Engine → Engine) : (updEngine s e f).engines = s.engines.upd e f := rfl
@[simp] theorem updEngine_dies (s : State) (e : Nat) (f : Engine → Engine) : (updEngine s e f).dies = s.dies := rfl
@[simp] theorem updEngine_arcs (s : State) (e : Nat) (f : Engine → Engine) : (updEngine s e f).arcs = s.arcs := rfl
@[simp] theorem updEngine_hq (s : State) (e : Nat) (f : Engine → Engine) : (updEngine s e f).hq = s.hq := rfl
@[simp] theorem updEngine_cp (s : State) (e : Nat) (f : Engine → Engine) : (updEngine s e f).cp = s.cp := rfl
@[simp] theorem updEngine_md (s : State) (e : Nat) (f : Engine → Engine) : (updEngine s e f).md = s.md := rfl
@[simp] theorem updEngine_bcn (s : State) (e : Nat) (f : Engine → Engine) : (updEngine s e f).bcn = s.bcn := rfl
@[simp] theorem updEngine_evr (s : State) (e : Nat) (f : Engine → Engine) : (updEngine s e f).evr = s.evr := rfl
@[simp] theorem updEngine_lk (s : State) (e : Nat) (f : Engine → Engine) : (updEngine s e f).lk = s.lk := rfl
@[simp] theorem updEngine_flt (s : State) (e : Nat) (f : Engine → Engine) : (updEngine s e f).flt = s.flt := rfl
@[simp] theorem updEngine_pw (s : State) (e : Nat) (f : Engine → Engine) : (updEngine s e f).pw = s.pw := rfl
@[simp] theorem updEngine_boot (s : State) (e : Nat) (f : Engine → Engine) : (updEngine s e f).boot = s.boot := rfl
@[simp] theorem updEngine_glb (s : State) (e : Nat) (f : Engine → Engine) : (updEngine s e f).glb = s.glb := rfl
@[simp] theorem updEngine_pins (s : State) (e : Nat) (f : Engine → Engine) : (updEngine s e f).pins = s.pins := rfl
@[simp] theorem updEngine_out (s : State) (e : Nat) (f : Engine → Engine) : (updEngine s e f).out = s.out := rfl
@[simp] theorem updEngine_free (s : State) (e : Nat) (f : Engine → Engine) : (updEngine s e f).free = s.free := rfl

/-! ### `updArc` -/

@[simp] theorem updArc_pending (s : State) (k : Nat) (f : Arc → Arc) : (updArc s k f).pending = s.pending := rfl
@[simp] theorem updArc_mem (s : State) (k : Nat) (f : Arc → Arc) : (updArc s k f).mem = s.mem := rfl
@[simp] theorem updArc_tiles (s : State) (k : Nat) (f : Arc → Arc) : (updArc s k f).tiles = s.tiles := rfl
@[simp] theorem updArc_engines (s : State) (k : Nat) (f : Arc → Arc) : (updArc s k f).engines = s.engines := rfl
@[simp] theorem updArc_dies (s : State) (k : Nat) (f : Arc → Arc) : (updArc s k f).dies = s.dies := rfl
@[simp] theorem updArc_arcs (s : State) (k : Nat) (f : Arc → Arc) : (updArc s k f).arcs = s.arcs.upd k f := rfl
@[simp] theorem updArc_hq (s : State) (k : Nat) (f : Arc → Arc) : (updArc s k f).hq = s.hq := rfl
@[simp] theorem updArc_cp (s : State) (k : Nat) (f : Arc → Arc) : (updArc s k f).cp = s.cp := rfl
@[simp] theorem updArc_md (s : State) (k : Nat) (f : Arc → Arc) : (updArc s k f).md = s.md := rfl
@[simp] theorem updArc_bcn (s : State) (k : Nat) (f : Arc → Arc) : (updArc s k f).bcn = s.bcn := rfl
@[simp] theorem updArc_evr (s : State) (k : Nat) (f : Arc → Arc) : (updArc s k f).evr = s.evr := rfl
@[simp] theorem updArc_lk (s : State) (k : Nat) (f : Arc → Arc) : (updArc s k f).lk = s.lk := rfl
@[simp] theorem updArc_flt (s : State) (k : Nat) (f : Arc → Arc) : (updArc s k f).flt = s.flt := rfl
@[simp] theorem updArc_pw (s : State) (k : Nat) (f : Arc → Arc) : (updArc s k f).pw = s.pw := rfl
@[simp] theorem updArc_boot (s : State) (k : Nat) (f : Arc → Arc) : (updArc s k f).boot = s.boot := rfl
@[simp] theorem updArc_glb (s : State) (k : Nat) (f : Arc → Arc) : (updArc s k f).glb = s.glb := rfl
@[simp] theorem updArc_pins (s : State) (k : Nat) (f : Arc → Arc) : (updArc s k f).pins = s.pins := rfl
@[simp] theorem updArc_out (s : State) (k : Nat) (f : Arc → Arc) : (updArc s k f).out = s.out := rfl
@[simp] theorem updArc_free (s : State) (k : Nat) (f : Arc → Arc) : (updArc s k f).free = s.free := rfl

/-! ### `updStream` -/

@[simp] theorem updStream_pending (s : State) (n : Nat) (f : StreamSt → StreamSt) : (updStream s n f).pending = s.pending := rfl
@[simp] theorem updStream_mem (s : State) (n : Nat) (f : StreamSt → StreamSt) : (updStream s n f).mem = s.mem := rfl
@[simp] theorem updStream_tiles (s : State) (n : Nat) (f : StreamSt → StreamSt) : (updStream s n f).tiles = s.tiles := rfl
@[simp] theorem updStream_engines (s : State) (n : Nat) (f : StreamSt → StreamSt) : (updStream s n f).engines = s.engines := rfl
@[simp] theorem updStream_dies (s : State) (n : Nat) (f : StreamSt → StreamSt) : (updStream s n f).dies = s.dies := rfl
@[simp] theorem updStream_arcs (s : State) (n : Nat) (f : StreamSt → StreamSt) : (updStream s n f).arcs = s.arcs := rfl
@[simp] theorem updStream_hq (s : State) (n : Nat) (f : StreamSt → StreamSt) : (updStream s n f).hq = s.hq := rfl
@[simp] theorem updStream_cp (s : State) (n : Nat) (f : StreamSt → StreamSt) : (updStream s n f).cp = { s.cp with streams := s.cp.streams.upd n f } := rfl
@[simp] theorem updStream_md (s : State) (n : Nat) (f : StreamSt → StreamSt) : (updStream s n f).md = s.md := rfl
@[simp] theorem updStream_bcn (s : State) (n : Nat) (f : StreamSt → StreamSt) : (updStream s n f).bcn = s.bcn := rfl
@[simp] theorem updStream_evr (s : State) (n : Nat) (f : StreamSt → StreamSt) : (updStream s n f).evr = s.evr := rfl
@[simp] theorem updStream_lk (s : State) (n : Nat) (f : StreamSt → StreamSt) : (updStream s n f).lk = s.lk := rfl
@[simp] theorem updStream_flt (s : State) (n : Nat) (f : StreamSt → StreamSt) : (updStream s n f).flt = s.flt := rfl
@[simp] theorem updStream_pw (s : State) (n : Nat) (f : StreamSt → StreamSt) : (updStream s n f).pw = s.pw := rfl
@[simp] theorem updStream_boot (s : State) (n : Nat) (f : StreamSt → StreamSt) : (updStream s n f).boot = s.boot := rfl
@[simp] theorem updStream_glb (s : State) (n : Nat) (f : StreamSt → StreamSt) : (updStream s n f).glb = s.glb := rfl
@[simp] theorem updStream_pins (s : State) (n : Nat) (f : StreamSt → StreamSt) : (updStream s n f).pins = s.pins := rfl
@[simp] theorem updStream_out (s : State) (n : Nat) (f : StreamSt → StreamSt) : (updStream s n f).out = s.out := rfl
@[simp] theorem updStream_free (s : State) (n : Nat) (f : StreamSt → StreamSt) : (updStream s n f).free = s.free := rfl

/-! ### `updSlot` -/

@[simp] theorem updSlot_pending (s : State) (k : Nat) (f : Slot → Slot) : (updSlot s k f).pending = s.pending := rfl
@[simp] theorem updSlot_mem (s : State) (k : Nat) (f : Slot → Slot) : (updSlot s k f).mem = s.mem := rfl
@[simp] theorem updSlot_tiles (s : State) (k : Nat) (f : Slot → Slot) : (updSlot s k f).tiles = s.tiles := rfl
@[simp] theorem updSlot_engines (s : State) (k : Nat) (f : Slot → Slot) : (updSlot s k f).engines = s.engines := rfl
@[simp] theorem updSlot_dies (s : State) (k : Nat) (f : Slot → Slot) : (updSlot s k f).dies = s.dies := rfl
@[simp] theorem updSlot_arcs (s : State) (k : Nat) (f : Slot → Slot) : (updSlot s k f).arcs = s.arcs := rfl
@[simp] theorem updSlot_hq (s : State) (k : Nat) (f : Slot → Slot) : (updSlot s k f).hq = s.hq := rfl
@[simp] theorem updSlot_cp (s : State) (k : Nat) (f : Slot → Slot) : (updSlot s k f).cp = s.cp := rfl
@[simp] theorem updSlot_md (s : State) (k : Nat) (f : Slot → Slot) : (updSlot s k f).md = { s.md with slots := s.md.slots.upd k f } := rfl
@[simp] theorem updSlot_bcn (s : State) (k : Nat) (f : Slot → Slot) : (updSlot s k f).bcn = s.bcn := rfl
@[simp] theorem updSlot_evr (s : State) (k : Nat) (f : Slot → Slot) : (updSlot s k f).evr = s.evr := rfl
@[simp] theorem updSlot_lk (s : State) (k : Nat) (f : Slot → Slot) : (updSlot s k f).lk = s.lk := rfl
@[simp] theorem updSlot_flt (s : State) (k : Nat) (f : Slot → Slot) : (updSlot s k f).flt = s.flt := rfl
@[simp] theorem updSlot_pw (s : State) (k : Nat) (f : Slot → Slot) : (updSlot s k f).pw = s.pw := rfl
@[simp] theorem updSlot_boot (s : State) (k : Nat) (f : Slot → Slot) : (updSlot s k f).boot = s.boot := rfl
@[simp] theorem updSlot_glb (s : State) (k : Nat) (f : Slot → Slot) : (updSlot s k f).glb = s.glb := rfl
@[simp] theorem updSlot_pins (s : State) (k : Nat) (f : Slot → Slot) : (updSlot s k f).pins = s.pins := rfl
@[simp] theorem updSlot_out (s : State) (k : Nat) (f : Slot → Slot) : (updSlot s k f).out = s.out := rfl
@[simp] theorem updSlot_free (s : State) (k : Nat) (f : Slot → Slot) : (updSlot s k f).free = s.free := rfl

/-! ### `updLink` -/

@[simp] theorem updLink_pending (s : State) (n : Nat) (f : Link → Link) : (updLink s n f).pending = s.pending := rfl
@[simp] theorem updLink_mem (s : State) (n : Nat) (f : Link → Link) : (updLink s n f).mem = s.mem := rfl
@[simp] theorem updLink_tiles (s : State) (n : Nat) (f : Link → Link) : (updLink s n f).tiles = s.tiles := rfl
@[simp] theorem updLink_engines (s : State) (n : Nat) (f : Link → Link) : (updLink s n f).engines = s.engines := rfl
@[simp] theorem updLink_dies (s : State) (n : Nat) (f : Link → Link) : (updLink s n f).dies = s.dies := rfl
@[simp] theorem updLink_arcs (s : State) (n : Nat) (f : Link → Link) : (updLink s n f).arcs = s.arcs := rfl
@[simp] theorem updLink_hq (s : State) (n : Nat) (f : Link → Link) : (updLink s n f).hq = s.hq := rfl
@[simp] theorem updLink_cp (s : State) (n : Nat) (f : Link → Link) : (updLink s n f).cp = s.cp := rfl
@[simp] theorem updLink_md (s : State) (n : Nat) (f : Link → Link) : (updLink s n f).md = s.md := rfl
@[simp] theorem updLink_bcn (s : State) (n : Nat) (f : Link → Link) : (updLink s n f).bcn = s.bcn := rfl
@[simp] theorem updLink_evr (s : State) (n : Nat) (f : Link → Link) : (updLink s n f).evr = s.evr := rfl
@[simp] theorem updLink_lk (s : State) (n : Nat) (f : Link → Link) : (updLink s n f).lk = { s.lk with links := s.lk.links.upd n f } := rfl
@[simp] theorem updLink_flt (s : State) (n : Nat) (f : Link → Link) : (updLink s n f).flt = s.flt := rfl
@[simp] theorem updLink_pw (s : State) (n : Nat) (f : Link → Link) : (updLink s n f).pw = s.pw := rfl
@[simp] theorem updLink_boot (s : State) (n : Nat) (f : Link → Link) : (updLink s n f).boot = s.boot := rfl
@[simp] theorem updLink_glb (s : State) (n : Nat) (f : Link → Link) : (updLink s n f).glb = s.glb := rfl
@[simp] theorem updLink_pins (s : State) (n : Nat) (f : Link → Link) : (updLink s n f).pins = s.pins := rfl
@[simp] theorem updLink_out (s : State) (n : Nat) (f : Link → Link) : (updLink s n f).out = s.out := rfl
@[simp] theorem updLink_free (s : State) (n : Nat) (f : Link → Link) : (updLink s n f).free = s.free := rfl

/-! ### `updMember` -/

@[simp] theorem updMember_pending (s : State) (i : Nat) (f : Member → Member) : (updMember s i f).pending = s.pending := rfl
@[simp] theorem updMember_mem (s : State) (i : Nat) (f : Member → Member) : (updMember s i f).mem = s.mem := rfl
@[simp] theorem updMember_tiles (s : State) (i : Nat) (f : Member → Member) : (updMember s i f).tiles = s.tiles := rfl
@[simp] theorem updMember_engines (s : State) (i : Nat) (f : Member → Member) : (updMember s i f).engines = s.engines := rfl
@[simp] theorem updMember_dies (s : State) (i : Nat) (f : Member → Member) : (updMember s i f).dies = s.dies := rfl
@[simp] theorem updMember_arcs (s : State) (i : Nat) (f : Member → Member) : (updMember s i f).arcs = s.arcs := rfl
@[simp] theorem updMember_hq (s : State) (i : Nat) (f : Member → Member) : (updMember s i f).hq = s.hq := rfl
@[simp] theorem updMember_cp (s : State) (i : Nat) (f : Member → Member) : (updMember s i f).cp = s.cp := rfl
@[simp] theorem updMember_md (s : State) (i : Nat) (f : Member → Member) : (updMember s i f).md = s.md := rfl
@[simp] theorem updMember_bcn (s : State) (i : Nat) (f : Member → Member) : (updMember s i f).bcn = s.bcn := rfl
@[simp] theorem updMember_evr (s : State) (i : Nat) (f : Member → Member) : (updMember s i f).evr = s.evr := rfl
@[simp] theorem updMember_lk (s : State) (i : Nat) (f : Member → Member) : (updMember s i f).lk = { s.lk with members := s.lk.members.upd i f } := rfl
@[simp] theorem updMember_flt (s : State) (i : Nat) (f : Member → Member) : (updMember s i f).flt = s.flt := rfl
@[simp] theorem updMember_pw (s : State) (i : Nat) (f : Member → Member) : (updMember s i f).pw = s.pw := rfl
@[simp] theorem updMember_boot (s : State) (i : Nat) (f : Member → Member) : (updMember s i f).boot = s.boot := rfl
@[simp] theorem updMember_glb (s : State) (i : Nat) (f : Member → Member) : (updMember s i f).glb = s.glb := rfl
@[simp] theorem updMember_pins (s : State) (i : Nat) (f : Member → Member) : (updMember s i f).pins = s.pins := rfl
@[simp] theorem updMember_out (s : State) (i : Nat) (f : Member → Member) : (updMember s i f).out = s.out := rfl
@[simp] theorem updMember_free (s : State) (i : Nat) (f : Member → Member) : (updMember s i f).free = s.free := rfl

/-! ### `setMd` -/

@[simp] theorem setMd_pending (s : State) (f : Models → Models) : (setMd s f).pending = s.pending := rfl
@[simp] theorem setMd_mem (s : State) (f : Models → Models) : (setMd s f).mem = s.mem := rfl
@[simp] theorem setMd_tiles (s : State) (f : Models → Models) : (setMd s f).tiles = s.tiles := rfl
@[simp] theorem setMd_engines (s : State) (f : Models → Models) : (setMd s f).engines = s.engines := rfl
@[simp] theorem setMd_dies (s : State) (f : Models → Models) : (setMd s f).dies = s.dies := rfl
@[simp] theorem setMd_arcs (s : State) (f : Models → Models) : (setMd s f).arcs = s.arcs := rfl
@[simp] theorem setMd_hq (s : State) (f : Models → Models) : (setMd s f).hq = s.hq := rfl
@[simp] theorem setMd_cp (s : State) (f : Models → Models) : (setMd s f).cp = s.cp := rfl
@[simp] theorem setMd_md (s : State) (f : Models → Models) : (setMd s f).md = f s.md := rfl
@[simp] theorem setMd_bcn (s : State) (f : Models → Models) : (setMd s f).bcn = s.bcn := rfl
@[simp] theorem setMd_evr (s : State) (f : Models → Models) : (setMd s f).evr = s.evr := rfl
@[simp] theorem setMd_lk (s : State) (f : Models → Models) : (setMd s f).lk = s.lk := rfl
@[simp] theorem setMd_flt (s : State) (f : Models → Models) : (setMd s f).flt = s.flt := rfl
@[simp] theorem setMd_pw (s : State) (f : Models → Models) : (setMd s f).pw = s.pw := rfl
@[simp] theorem setMd_boot (s : State) (f : Models → Models) : (setMd s f).boot = s.boot := rfl
@[simp] theorem setMd_glb (s : State) (f : Models → Models) : (setMd s f).glb = s.glb := rfl
@[simp] theorem setMd_pins (s : State) (f : Models → Models) : (setMd s f).pins = s.pins := rfl
@[simp] theorem setMd_out (s : State) (f : Models → Models) : (setMd s f).out = s.out := rfl
@[simp] theorem setMd_free (s : State) (f : Models → Models) : (setMd s f).free = s.free := rfl

/-! ### `setEpoch` -/

@[simp] theorem setEpoch_pending (s : State) (f : Epoch → Epoch) : (setEpoch s f).pending = s.pending := rfl
@[simp] theorem setEpoch_mem (s : State) (f : Epoch → Epoch) : (setEpoch s f).mem = s.mem := rfl
@[simp] theorem setEpoch_tiles (s : State) (f : Epoch → Epoch) : (setEpoch s f).tiles = s.tiles := rfl
@[simp] theorem setEpoch_engines (s : State) (f : Epoch → Epoch) : (setEpoch s f).engines = s.engines := rfl
@[simp] theorem setEpoch_dies (s : State) (f : Epoch → Epoch) : (setEpoch s f).dies = s.dies := rfl
@[simp] theorem setEpoch_arcs (s : State) (f : Epoch → Epoch) : (setEpoch s f).arcs = s.arcs := rfl
@[simp] theorem setEpoch_hq (s : State) (f : Epoch → Epoch) : (setEpoch s f).hq = s.hq := rfl
@[simp] theorem setEpoch_cp (s : State) (f : Epoch → Epoch) : (setEpoch s f).cp = s.cp := rfl
@[simp] theorem setEpoch_md (s : State) (f : Epoch → Epoch) : (setEpoch s f).md = { s.md with epoch := f s.md.epoch } := rfl
@[simp] theorem setEpoch_bcn (s : State) (f : Epoch → Epoch) : (setEpoch s f).bcn = s.bcn := rfl
@[simp] theorem setEpoch_evr (s : State) (f : Epoch → Epoch) : (setEpoch s f).evr = s.evr := rfl
@[simp] theorem setEpoch_lk (s : State) (f : Epoch → Epoch) : (setEpoch s f).lk = s.lk := rfl
@[simp] theorem setEpoch_flt (s : State) (f : Epoch → Epoch) : (setEpoch s f).flt = s.flt := rfl
@[simp] theorem setEpoch_pw (s : State) (f : Epoch → Epoch) : (setEpoch s f).pw = s.pw := rfl
@[simp] theorem setEpoch_boot (s : State) (f : Epoch → Epoch) : (setEpoch s f).boot = s.boot := rfl
@[simp] theorem setEpoch_glb (s : State) (f : Epoch → Epoch) : (setEpoch s f).glb = s.glb := rfl
@[simp] theorem setEpoch_pins (s : State) (f : Epoch → Epoch) : (setEpoch s f).pins = s.pins := rfl
@[simp] theorem setEpoch_out (s : State) (f : Epoch → Epoch) : (setEpoch s f).out = s.out := rfl
@[simp] theorem setEpoch_free (s : State) (f : Epoch → Epoch) : (setEpoch s f).free = s.free := rfl

/-! ### `setPw` -/

@[simp] theorem setPw_pending (s : State) (f : Power → Power) : (setPw s f).pending = s.pending := rfl
@[simp] theorem setPw_mem (s : State) (f : Power → Power) : (setPw s f).mem = s.mem := rfl
@[simp] theorem setPw_tiles (s : State) (f : Power → Power) : (setPw s f).tiles = s.tiles := rfl
@[simp] theorem setPw_engines (s : State) (f : Power → Power) : (setPw s f).engines = s.engines := rfl
@[simp] theorem setPw_dies (s : State) (f : Power → Power) : (setPw s f).dies = s.dies := rfl
@[simp] theorem setPw_arcs (s : State) (f : Power → Power) : (setPw s f).arcs = s.arcs := rfl
@[simp] theorem setPw_hq (s : State) (f : Power → Power) : (setPw s f).hq = s.hq := rfl
@[simp] theorem setPw_cp (s : State) (f : Power → Power) : (setPw s f).cp = s.cp := rfl
@[simp] theorem setPw_md (s : State) (f : Power → Power) : (setPw s f).md = s.md := rfl
@[simp] theorem setPw_bcn (s : State) (f : Power → Power) : (setPw s f).bcn = s.bcn := rfl
@[simp] theorem setPw_evr (s : State) (f : Power → Power) : (setPw s f).evr = s.evr := rfl
@[simp] theorem setPw_lk (s : State) (f : Power → Power) : (setPw s f).lk = s.lk := rfl
@[simp] theorem setPw_flt (s : State) (f : Power → Power) : (setPw s f).flt = s.flt := rfl
@[simp] theorem setPw_pw (s : State) (f : Power → Power) : (setPw s f).pw = f s.pw := rfl
@[simp] theorem setPw_boot (s : State) (f : Power → Power) : (setPw s f).boot = s.boot := rfl
@[simp] theorem setPw_glb (s : State) (f : Power → Power) : (setPw s f).glb = s.glb := rfl
@[simp] theorem setPw_pins (s : State) (f : Power → Power) : (setPw s f).pins = s.pins := rfl
@[simp] theorem setPw_out (s : State) (f : Power → Power) : (setPw s f).out = s.out := rfl
@[simp] theorem setPw_free (s : State) (f : Power → Power) : (setPw s f).free = s.free := rfl

/-! ### `updTok` -/

@[simp] theorem updTok_pending (s : State) (d : Nat) (f : Tok → Tok) : (updTok s d f).pending = s.pending := rfl
@[simp] theorem updTok_mem (s : State) (d : Nat) (f : Tok → Tok) : (updTok s d f).mem = s.mem := rfl
@[simp] theorem updTok_tiles (s : State) (d : Nat) (f : Tok → Tok) : (updTok s d f).tiles = s.tiles := rfl
@[simp] theorem updTok_engines (s : State) (d : Nat) (f : Tok → Tok) : (updTok s d f).engines = s.engines := rfl
@[simp] theorem updTok_dies (s : State) (d : Nat) (f : Tok → Tok) : (updTok s d f).dies = s.dies := rfl
@[simp] theorem updTok_arcs (s : State) (d : Nat) (f : Tok → Tok) : (updTok s d f).arcs = s.arcs := rfl
@[simp] theorem updTok_hq (s : State) (d : Nat) (f : Tok → Tok) : (updTok s d f).hq = s.hq := rfl
@[simp] theorem updTok_cp (s : State) (d : Nat) (f : Tok → Tok) : (updTok s d f).cp = s.cp := rfl
@[simp] theorem updTok_md (s : State) (d : Nat) (f : Tok → Tok) : (updTok s d f).md = s.md := rfl
@[simp] theorem updTok_bcn (s : State) (d : Nat) (f : Tok → Tok) : (updTok s d f).bcn = s.bcn := rfl
@[simp] theorem updTok_evr (s : State) (d : Nat) (f : Tok → Tok) : (updTok s d f).evr = s.evr := rfl
@[simp] theorem updTok_lk (s : State) (d : Nat) (f : Tok → Tok) : (updTok s d f).lk = s.lk := rfl
@[simp] theorem updTok_flt (s : State) (d : Nat) (f : Tok → Tok) : (updTok s d f).flt = s.flt := rfl
@[simp] theorem updTok_pw (s : State) (d : Nat) (f : Tok → Tok) : (updTok s d f).pw = { s.pw with toks := s.pw.toks.upd d f } := rfl
@[simp] theorem updTok_boot (s : State) (d : Nat) (f : Tok → Tok) : (updTok s d f).boot = s.boot := rfl
@[simp] theorem updTok_glb (s : State) (d : Nat) (f : Tok → Tok) : (updTok s d f).glb = s.glb := rfl
@[simp] theorem updTok_pins (s : State) (d : Nat) (f : Tok → Tok) : (updTok s d f).pins = s.pins := rfl
@[simp] theorem updTok_out (s : State) (d : Nat) (f : Tok → Tok) : (updTok s d f).out = s.out := rfl
@[simp] theorem updTok_free (s : State) (d : Nat) (f : Tok → Tok) : (updTok s d f).free = s.free := rfl

/-! ### `setGlb` -/

@[simp] theorem setGlb_pending (s : State) (f : Glb → Glb) : (setGlb s f).pending = s.pending := rfl
@[simp] theorem setGlb_mem (s : State) (f : Glb → Glb) : (setGlb s f).mem = s.mem := rfl
@[simp] theorem setGlb_tiles (s : State) (f : Glb → Glb) : (setGlb s f).tiles = s.tiles := rfl
@[simp] theorem setGlb_engines (s : State) (f : Glb → Glb) : (setGlb s f).engines = s.engines := rfl
@[simp] theorem setGlb_dies (s : State) (f : Glb → Glb) : (setGlb s f).dies = s.dies := rfl
@[simp] theorem setGlb_arcs (s : State) (f : Glb → Glb) : (setGlb s f).arcs = s.arcs := rfl
@[simp] theorem setGlb_hq (s : State) (f : Glb → Glb) : (setGlb s f).hq = s.hq := rfl
@[simp] theorem setGlb_cp (s : State) (f : Glb → Glb) : (setGlb s f).cp = s.cp := rfl
@[simp] theorem setGlb_md (s : State) (f : Glb → Glb) : (setGlb s f).md = s.md := rfl
@[simp] theorem setGlb_bcn (s : State) (f : Glb → Glb) : (setGlb s f).bcn = s.bcn := rfl
@[simp] theorem setGlb_evr (s : State) (f : Glb → Glb) : (setGlb s f).evr = s.evr := rfl
@[simp] theorem setGlb_lk (s : State) (f : Glb → Glb) : (setGlb s f).lk = s.lk := rfl
@[simp] theorem setGlb_flt (s : State) (f : Glb → Glb) : (setGlb s f).flt = s.flt := rfl
@[simp] theorem setGlb_pw (s : State) (f : Glb → Glb) : (setGlb s f).pw = s.pw := rfl
@[simp] theorem setGlb_boot (s : State) (f : Glb → Glb) : (setGlb s f).boot = s.boot := rfl
@[simp] theorem setGlb_glb (s : State) (f : Glb → Glb) : (setGlb s f).glb = f s.glb := rfl
@[simp] theorem setGlb_pins (s : State) (f : Glb → Glb) : (setGlb s f).pins = s.pins := rfl
@[simp] theorem setGlb_out (s : State) (f : Glb → Glb) : (setGlb s f).out = s.out := rfl
@[simp] theorem setGlb_free (s : State) (f : Glb → Glb) : (setGlb s f).free = s.free := rfl

/-! ### `setPins` -/

@[simp] theorem setPins_pending (s : State) (f : Pins → Pins) : (setPins s f).pending = s.pending := rfl
@[simp] theorem setPins_mem (s : State) (f : Pins → Pins) : (setPins s f).mem = s.mem := rfl
@[simp] theorem setPins_tiles (s : State) (f : Pins → Pins) : (setPins s f).tiles = s.tiles := rfl
@[simp] theorem setPins_engines (s : State) (f : Pins → Pins) : (setPins s f).engines = s.engines := rfl
@[simp] theorem setPins_dies (s : State) (f : Pins → Pins) : (setPins s f).dies = s.dies := rfl
@[simp] theorem setPins_arcs (s : State) (f : Pins → Pins) : (setPins s f).arcs = s.arcs := rfl
@[simp] theorem setPins_hq (s : State) (f : Pins → Pins) : (setPins s f).hq = s.hq := rfl
@[simp] theorem setPins_cp (s : State) (f : Pins → Pins) : (setPins s f).cp = s.cp := rfl
@[simp] theorem setPins_md (s : State) (f : Pins → Pins) : (setPins s f).md = s.md := rfl
@[simp] theorem setPins_bcn (s : State) (f : Pins → Pins) : (setPins s f).bcn = s.bcn := rfl
@[simp] theorem setPins_evr (s : State) (f : Pins → Pins) : (setPins s f).evr = s.evr := rfl
@[simp] theorem setPins_lk (s : State) (f : Pins → Pins) : (setPins s f).lk = s.lk := rfl
@[simp] theorem setPins_flt (s : State) (f : Pins → Pins) : (setPins s f).flt = s.flt := rfl
@[simp] theorem setPins_pw (s : State) (f : Pins → Pins) : (setPins s f).pw = s.pw := rfl
@[simp] theorem setPins_boot (s : State) (f : Pins → Pins) : (setPins s f).boot = s.boot := rfl
@[simp] theorem setPins_glb (s : State) (f : Pins → Pins) : (setPins s f).glb = s.glb := rfl
@[simp] theorem setPins_pins (s : State) (f : Pins → Pins) : (setPins s f).pins = f s.pins := rfl
@[simp] theorem setPins_out (s : State) (f : Pins → Pins) : (setPins s f).out = s.out := rfl
@[simp] theorem setPins_free (s : State) (f : Pins → Pins) : (setPins s f).free = s.free := rfl

/-! ### `setBoot` -/

@[simp] theorem setBoot_pending (s : State) (f : Boot → Boot) : (setBoot s f).pending = s.pending := rfl
@[simp] theorem setBoot_mem (s : State) (f : Boot → Boot) : (setBoot s f).mem = s.mem := rfl
@[simp] theorem setBoot_tiles (s : State) (f : Boot → Boot) : (setBoot s f).tiles = s.tiles := rfl
@[simp] theorem setBoot_engines (s : State) (f : Boot → Boot) : (setBoot s f).engines = s.engines := rfl
@[simp] theorem setBoot_dies (s : State) (f : Boot → Boot) : (setBoot s f).dies = s.dies := rfl
@[simp] theorem setBoot_arcs (s : State) (f : Boot → Boot) : (setBoot s f).arcs = s.arcs := rfl
@[simp] theorem setBoot_hq (s : State) (f : Boot → Boot) : (setBoot s f).hq = s.hq := rfl
@[simp] theorem setBoot_cp (s : State) (f : Boot → Boot) : (setBoot s f).cp = s.cp := rfl
@[simp] theorem setBoot_md (s : State) (f : Boot → Boot) : (setBoot s f).md = s.md := rfl
@[simp] theorem setBoot_bcn (s : State) (f : Boot → Boot) : (setBoot s f).bcn = s.bcn := rfl
@[simp] theorem setBoot_evr (s : State) (f : Boot → Boot) : (setBoot s f).evr = s.evr := rfl
@[simp] theorem setBoot_lk (s : State) (f : Boot → Boot) : (setBoot s f).lk = s.lk := rfl
@[simp] theorem setBoot_flt (s : State) (f : Boot → Boot) : (setBoot s f).flt = s.flt := rfl
@[simp] theorem setBoot_pw (s : State) (f : Boot → Boot) : (setBoot s f).pw = s.pw := rfl
@[simp] theorem setBoot_boot (s : State) (f : Boot → Boot) : (setBoot s f).boot = f s.boot := rfl
@[simp] theorem setBoot_glb (s : State) (f : Boot → Boot) : (setBoot s f).glb = s.glb := rfl
@[simp] theorem setBoot_pins (s : State) (f : Boot → Boot) : (setBoot s f).pins = s.pins := rfl
@[simp] theorem setBoot_out (s : State) (f : Boot → Boot) : (setBoot s f).out = s.out := rfl
@[simp] theorem setBoot_free (s : State) (f : Boot → Boot) : (setBoot s f).free = s.free := rfl

/-! ### `setFlt` -/

@[simp] theorem setFlt_pending (s : State) (f : Faults → Faults) : (setFlt s f).pending = s.pending := rfl
@[simp] theorem setFlt_mem (s : State) (f : Faults → Faults) : (setFlt s f).mem = s.mem := rfl
@[simp] theorem setFlt_tiles (s : State) (f : Faults → Faults) : (setFlt s f).tiles = s.tiles := rfl
@[simp] theorem setFlt_engines (s : State) (f : Faults → Faults) : (setFlt s f).engines = s.engines := rfl
@[simp] theorem setFlt_dies (s : State) (f : Faults → Faults) : (setFlt s f).dies = s.dies := rfl
@[simp] theorem setFlt_arcs (s : State) (f : Faults → Faults) : (setFlt s f).arcs = s.arcs := rfl
@[simp] theorem setFlt_hq (s : State) (f : Faults → Faults) : (setFlt s f).hq = s.hq := rfl
@[simp] theorem setFlt_cp (s : State) (f : Faults → Faults) : (setFlt s f).cp = s.cp := rfl
@[simp] theorem setFlt_md (s : State) (f : Faults → Faults) : (setFlt s f).md = s.md := rfl
@[simp] theorem setFlt_bcn (s : State) (f : Faults → Faults) : (setFlt s f).bcn = s.bcn := rfl
@[simp] theorem setFlt_evr (s : State) (f : Faults → Faults) : (setFlt s f).evr = s.evr := rfl
@[simp] theorem setFlt_lk (s : State) (f : Faults → Faults) : (setFlt s f).lk = s.lk := rfl
@[simp] theorem setFlt_flt (s : State) (f : Faults → Faults) : (setFlt s f).flt = f s.flt := rfl
@[simp] theorem setFlt_pw (s : State) (f : Faults → Faults) : (setFlt s f).pw = s.pw := rfl
@[simp] theorem setFlt_boot (s : State) (f : Faults → Faults) : (setFlt s f).boot = s.boot := rfl
@[simp] theorem setFlt_glb (s : State) (f : Faults → Faults) : (setFlt s f).glb = s.glb := rfl
@[simp] theorem setFlt_pins (s : State) (f : Faults → Faults) : (setFlt s f).pins = s.pins := rfl
@[simp] theorem setFlt_out (s : State) (f : Faults → Faults) : (setFlt s f).out = s.out := rfl
@[simp] theorem setFlt_free (s : State) (f : Faults → Faults) : (setFlt s f).free = s.free := rfl

/-! ### `setLk` -/

@[simp] theorem setLk_pending (s : State) (f : Links → Links) : (setLk s f).pending = s.pending := rfl
@[simp] theorem setLk_mem (s : State) (f : Links → Links) : (setLk s f).mem = s.mem := rfl
@[simp] theorem setLk_tiles (s : State) (f : Links → Links) : (setLk s f).tiles = s.tiles := rfl
@[simp] theorem setLk_engines (s : State) (f : Links → Links) : (setLk s f).engines = s.engines := rfl
@[simp] theorem setLk_dies (s : State) (f : Links → Links) : (setLk s f).dies = s.dies := rfl
@[simp] theorem setLk_arcs (s : State) (f : Links → Links) : (setLk s f).arcs = s.arcs := rfl
@[simp] theorem setLk_hq (s : State) (f : Links → Links) : (setLk s f).hq = s.hq := rfl
@[simp] theorem setLk_cp (s : State) (f : Links → Links) : (setLk s f).cp = s.cp := rfl
@[simp] theorem setLk_md (s : State) (f : Links → Links) : (setLk s f).md = s.md := rfl
@[simp] theorem setLk_bcn (s : State) (f : Links → Links) : (setLk s f).bcn = s.bcn := rfl
@[simp] theorem setLk_evr (s : State) (f : Links → Links) : (setLk s f).evr = s.evr := rfl
@[simp] theorem setLk_lk (s : State) (f : Links → Links) : (setLk s f).lk = f s.lk := rfl
@[simp] theorem setLk_flt (s : State) (f : Links → Links) : (setLk s f).flt = s.flt := rfl
@[simp] theorem setLk_pw (s : State) (f : Links → Links) : (setLk s f).pw = s.pw := rfl
@[simp] theorem setLk_boot (s : State) (f : Links → Links) : (setLk s f).boot = s.boot := rfl
@[simp] theorem setLk_glb (s : State) (f : Links → Links) : (setLk s f).glb = s.glb := rfl
@[simp] theorem setLk_pins (s : State) (f : Links → Links) : (setLk s f).pins = s.pins := rfl
@[simp] theorem setLk_out (s : State) (f : Links → Links) : (setLk s f).out = s.out := rfl
@[simp] theorem setLk_free (s : State) (f : Links → Links) : (setLk s f).free = s.free := rfl

/-! ### `setEvr` -/

@[simp] theorem setEvr_pending (s : State) (f : Evr → Evr) : (setEvr s f).pending = s.pending := rfl
@[simp] theorem setEvr_mem (s : State) (f : Evr → Evr) : (setEvr s f).mem = s.mem := rfl
@[simp] theorem setEvr_tiles (s : State) (f : Evr → Evr) : (setEvr s f).tiles = s.tiles := rfl
@[simp] theorem setEvr_engines (s : State) (f : Evr → Evr) : (setEvr s f).engines = s.engines := rfl
@[simp] theorem setEvr_dies (s : State) (f : Evr → Evr) : (setEvr s f).dies = s.dies := rfl
@[simp] theorem setEvr_arcs (s : State) (f : Evr → Evr) : (setEvr s f).arcs = s.arcs := rfl
@[simp] theorem setEvr_hq (s : State) (f : Evr → Evr) : (setEvr s f).hq = s.hq := rfl
@[simp] theorem setEvr_cp (s : State) (f : Evr → Evr) : (setEvr s f).cp = s.cp := rfl
@[simp] theorem setEvr_md (s : State) (f : Evr → Evr) : (setEvr s f).md = s.md := rfl
@[simp] theorem setEvr_bcn (s : State) (f : Evr → Evr) : (setEvr s f).bcn = s.bcn := rfl
@[simp] theorem setEvr_evr (s : State) (f : Evr → Evr) : (setEvr s f).evr = f s.evr := rfl
@[simp] theorem setEvr_lk (s : State) (f : Evr → Evr) : (setEvr s f).lk = s.lk := rfl
@[simp] theorem setEvr_flt (s : State) (f : Evr → Evr) : (setEvr s f).flt = s.flt := rfl
@[simp] theorem setEvr_pw (s : State) (f : Evr → Evr) : (setEvr s f).pw = s.pw := rfl
@[simp] theorem setEvr_boot (s : State) (f : Evr → Evr) : (setEvr s f).boot = s.boot := rfl
@[simp] theorem setEvr_glb (s : State) (f : Evr → Evr) : (setEvr s f).glb = s.glb := rfl
@[simp] theorem setEvr_pins (s : State) (f : Evr → Evr) : (setEvr s f).pins = s.pins := rfl
@[simp] theorem setEvr_out (s : State) (f : Evr → Evr) : (setEvr s f).out = s.out := rfl
@[simp] theorem setEvr_free (s : State) (f : Evr → Evr) : (setEvr s f).free = s.free := rfl

/-! ### `updSrc` -/

@[simp] theorem updSrc_pending (s : State) (n : Nat) (f : Src → Src) : (updSrc s n f).pending = s.pending := rfl
@[simp] theorem updSrc_mem (s : State) (n : Nat) (f : Src → Src) : (updSrc s n f).mem = s.mem := rfl
@[simp] theorem updSrc_tiles (s : State) (n : Nat) (f : Src → Src) : (updSrc s n f).tiles = s.tiles := rfl
@[simp] theorem updSrc_engines (s : State) (n : Nat) (f : Src → Src) : (updSrc s n f).engines = s.engines := rfl
@[simp] theorem updSrc_dies (s : State) (n : Nat) (f : Src → Src) : (updSrc s n f).dies = s.dies := rfl
@[simp] theorem updSrc_arcs (s : State) (n : Nat) (f : Src → Src) : (updSrc s n f).arcs = s.arcs := rfl
@[simp] theorem updSrc_hq (s : State) (n : Nat) (f : Src → Src) : (updSrc s n f).hq = s.hq := rfl
@[simp] theorem updSrc_cp (s : State) (n : Nat) (f : Src → Src) : (updSrc s n f).cp = s.cp := rfl
@[simp] theorem updSrc_md (s : State) (n : Nat) (f : Src → Src) : (updSrc s n f).md = s.md := rfl
@[simp] theorem updSrc_bcn (s : State) (n : Nat) (f : Src → Src) : (updSrc s n f).bcn = s.bcn := rfl
@[simp] theorem updSrc_evr (s : State) (n : Nat) (f : Src → Src) : (updSrc s n f).evr = { s.evr with srcs := s.evr.srcs.upd n f } := rfl
@[simp] theorem updSrc_lk (s : State) (n : Nat) (f : Src → Src) : (updSrc s n f).lk = s.lk := rfl
@[simp] theorem updSrc_flt (s : State) (n : Nat) (f : Src → Src) : (updSrc s n f).flt = s.flt := rfl
@[simp] theorem updSrc_pw (s : State) (n : Nat) (f : Src → Src) : (updSrc s n f).pw = s.pw := rfl
@[simp] theorem updSrc_boot (s : State) (n : Nat) (f : Src → Src) : (updSrc s n f).boot = s.boot := rfl
@[simp] theorem updSrc_glb (s : State) (n : Nat) (f : Src → Src) : (updSrc s n f).glb = s.glb := rfl
@[simp] theorem updSrc_pins (s : State) (n : Nat) (f : Src → Src) : (updSrc s n f).pins = s.pins := rfl
@[simp] theorem updSrc_out (s : State) (n : Nat) (f : Src → Src) : (updSrc s n f).out = s.out := rfl
@[simp] theorem updSrc_free (s : State) (n : Nat) (f : Src → Src) : (updSrc s n f).free = s.free := rfl

/-! ### `setHq` -/

@[simp] theorem setHq_pending (s : State) (f : HostQ → HostQ) : (setHq s f).pending = s.pending := rfl
@[simp] theorem setHq_mem (s : State) (f : HostQ → HostQ) : (setHq s f).mem = s.mem := rfl
@[simp] theorem setHq_tiles (s : State) (f : HostQ → HostQ) : (setHq s f).tiles = s.tiles := rfl
@[simp] theorem setHq_engines (s : State) (f : HostQ → HostQ) : (setHq s f).engines = s.engines := rfl
@[simp] theorem setHq_dies (s : State) (f : HostQ → HostQ) : (setHq s f).dies = s.dies := rfl
@[simp] theorem setHq_arcs (s : State) (f : HostQ → HostQ) : (setHq s f).arcs = s.arcs := rfl
@[simp] theorem setHq_hq (s : State) (f : HostQ → HostQ) : (setHq s f).hq = f s.hq := rfl
@[simp] theorem setHq_cp (s : State) (f : HostQ → HostQ) : (setHq s f).cp = s.cp := rfl
@[simp] theorem setHq_md (s : State) (f : HostQ → HostQ) : (setHq s f).md = s.md := rfl
@[simp] theorem setHq_bcn (s : State) (f : HostQ → HostQ) : (setHq s f).bcn = s.bcn := rfl
@[simp] theorem setHq_evr (s : State) (f : HostQ → HostQ) : (setHq s f).evr = s.evr := rfl
@[simp] theorem setHq_lk (s : State) (f : HostQ → HostQ) : (setHq s f).lk = s.lk := rfl
@[simp] theorem setHq_flt (s : State) (f : HostQ → HostQ) : (setHq s f).flt = s.flt := rfl
@[simp] theorem setHq_pw (s : State) (f : HostQ → HostQ) : (setHq s f).pw = s.pw := rfl
@[simp] theorem setHq_boot (s : State) (f : HostQ → HostQ) : (setHq s f).boot = s.boot := rfl
@[simp] theorem setHq_glb (s : State) (f : HostQ → HostQ) : (setHq s f).glb = s.glb := rfl
@[simp] theorem setHq_pins (s : State) (f : HostQ → HostQ) : (setHq s f).pins = s.pins := rfl
@[simp] theorem setHq_out (s : State) (f : HostQ → HostQ) : (setHq s f).out = s.out := rfl
@[simp] theorem setHq_free (s : State) (f : HostQ → HostQ) : (setHq s f).free = s.free := rfl

/-! ### `updBar` -/

@[simp] theorem updBar_pending (s : State) (c : Bool) (b : Nat) (f : Barrier → Barrier) : (updBar s c b f).pending = s.pending := rfl
@[simp] theorem updBar_mem (s : State) (c : Bool) (b : Nat) (f : Barrier → Barrier) : (updBar s c b f).mem = s.mem := rfl
@[simp] theorem updBar_tiles (s : State) (c : Bool) (b : Nat) (f : Barrier → Barrier) : (updBar s c b f).tiles = s.tiles := rfl
@[simp] theorem updBar_engines (s : State) (c : Bool) (b : Nat) (f : Barrier → Barrier) : (updBar s c b f).engines = s.engines := rfl
@[simp] theorem updBar_dies (s : State) (c : Bool) (b : Nat) (f : Barrier → Barrier) : (updBar s c b f).dies = s.dies := rfl
@[simp] theorem updBar_arcs (s : State) (c : Bool) (b : Nat) (f : Barrier → Barrier) : (updBar s c b f).arcs = s.arcs := rfl
@[simp] theorem updBar_hq (s : State) (c : Bool) (b : Nat) (f : Barrier → Barrier) : (updBar s c b f).hq = s.hq := rfl
@[simp] theorem updBar_cp (s : State) (c : Bool) (b : Nat) (f : Barrier → Barrier) : (updBar s c b f).cp = s.cp := rfl
@[simp] theorem updBar_md (s : State) (c : Bool) (b : Nat) (f : Barrier → Barrier) : (updBar s c b f).md = s.md := rfl
@[simp] theorem updBar_evr (s : State) (c : Bool) (b : Nat) (f : Barrier → Barrier) : (updBar s c b f).evr = s.evr := rfl
@[simp] theorem updBar_lk (s : State) (c : Bool) (b : Nat) (f : Barrier → Barrier) : (updBar s c b f).lk = s.lk := rfl
@[simp] theorem updBar_flt (s : State) (c : Bool) (b : Nat) (f : Barrier → Barrier) : (updBar s c b f).flt = s.flt := rfl
@[simp] theorem updBar_pw (s : State) (c : Bool) (b : Nat) (f : Barrier → Barrier) : (updBar s c b f).pw = s.pw := rfl
@[simp] theorem updBar_boot (s : State) (c : Bool) (b : Nat) (f : Barrier → Barrier) : (updBar s c b f).boot = s.boot := rfl
@[simp] theorem updBar_glb (s : State) (c : Bool) (b : Nat) (f : Barrier → Barrier) : (updBar s c b f).glb = s.glb := rfl
@[simp] theorem updBar_pins (s : State) (c : Bool) (b : Nat) (f : Barrier → Barrier) : (updBar s c b f).pins = s.pins := rfl
@[simp] theorem updBar_out (s : State) (c : Bool) (b : Nat) (f : Barrier → Barrier) : (updBar s c b f).out = s.out := rfl
@[simp] theorem updBar_free (s : State) (c : Bool) (b : Nat) (f : Barrier → Barrier) : (updBar s c b f).free = s.free := rfl

/-! ### `hostWrite` -/

@[simp] theorem hostWrite_pending (s : State) (a : Nat) (b : Bytes) : (hostWrite s a b).pending = s.pending := rfl
@[simp] theorem hostWrite_mem (s : State) (a : Nat) (b : Bytes) : (hostWrite s a b).mem = { s.mem with host := Mem.writeN s.mem.host a b } := rfl
@[simp] theorem hostWrite_tiles (s : State) (a : Nat) (b : Bytes) : (hostWrite s a b).tiles = s.tiles := rfl
@[simp] theorem hostWrite_engines (s : State) (a : Nat) (b : Bytes) : (hostWrite s a b).engines = s.engines := rfl
@[simp] theorem hostWrite_dies (s : State) (a : Nat) (b : Bytes) : (hostWrite s a b).dies = s.dies := rfl
@[simp] theorem hostWrite_arcs (s : State) (a : Nat) (b : Bytes) : (hostWrite s a b).arcs = s.arcs := rfl
@[simp] theorem hostWrite_hq (s : State) (a : Nat) (b : Bytes) : (hostWrite s a b).hq = s.hq := rfl
@[simp] theorem hostWrite_cp (s : State) (a : Nat) (b : Bytes) : (hostWrite s a b).cp = s.cp := rfl
@[simp] theorem hostWrite_md (s : State) (a : Nat) (b : Bytes) : (hostWrite s a b).md = s.md := rfl
@[simp] theorem hostWrite_bcn (s : State) (a : Nat) (b : Bytes) : (hostWrite s a b).bcn = s.bcn := rfl
@[simp] theorem hostWrite_evr (s : State) (a : Nat) (b : Bytes) : (hostWrite s a b).evr = s.evr := rfl
@[simp] theorem hostWrite_lk (s : State) (a : Nat) (b : Bytes) : (hostWrite s a b).lk = s.lk := rfl
@[simp] theorem hostWrite_flt (s : State) (a : Nat) (b : Bytes) : (hostWrite s a b).flt = s.flt := rfl
@[simp] theorem hostWrite_pw (s : State) (a : Nat) (b : Bytes) : (hostWrite s a b).pw = s.pw := rfl
@[simp] theorem hostWrite_boot (s : State) (a : Nat) (b : Bytes) : (hostWrite s a b).boot = s.boot := rfl
@[simp] theorem hostWrite_glb (s : State) (a : Nat) (b : Bytes) : (hostWrite s a b).glb = s.glb := rfl
@[simp] theorem hostWrite_pins (s : State) (a : Nat) (b : Bytes) : (hostWrite s a b).pins = s.pins := rfl
@[simp] theorem hostWrite_out (s : State) (a : Nat) (b : Bytes) : (hostWrite s a b).out = s.out := rfl
@[simp] theorem hostWrite_free (s : State) (a : Nat) (b : Bytes) : (hostWrite s a b).free = s.free := rfl

/-! ### `setFill` -/

@[simp] theorem setFill_pending (s : State) (t : Nat) (l : List Nat) : (setFill s t l).pending = s.pending := rfl
@[simp] theorem setFill_tiles (s : State) (t : Nat) (l : List Nat) : (setFill s t l).tiles = s.tiles := rfl
@[simp] theorem setFill_engines (s : State) (t : Nat) (l : List Nat) : (setFill s t l).engines = s.engines := rfl
@[simp] theorem setFill_dies (s : State) (t : Nat) (l : List Nat) : (setFill s t l).dies = s.dies := rfl
@[simp] theorem setFill_arcs (s : State) (t : Nat) (l : List Nat) : (setFill s t l).arcs = s.arcs := rfl
@[simp] theorem setFill_hq (s : State) (t : Nat) (l : List Nat) : (setFill s t l).hq = s.hq := rfl
@[simp] theorem setFill_cp (s : State) (t : Nat) (l : List Nat) : (setFill s t l).cp = s.cp := rfl
@[simp] theorem setFill_md (s : State) (t : Nat) (l : List Nat) : (setFill s t l).md = s.md := rfl
@[simp] theorem setFill_bcn (s : State) (t : Nat) (l : List Nat) : (setFill s t l).bcn = s.bcn := rfl
@[simp] theorem setFill_evr (s : State) (t : Nat) (l : List Nat) : (setFill s t l).evr = s.evr := rfl
@[simp] theorem setFill_lk (s : State) (t : Nat) (l : List Nat) : (setFill s t l).lk = s.lk := rfl
@[simp] theorem setFill_flt (s : State) (t : Nat) (l : List Nat) : (setFill s t l).flt = s.flt := rfl
@[simp] theorem setFill_pw (s : State) (t : Nat) (l : List Nat) : (setFill s t l).pw = s.pw := rfl
@[simp] theorem setFill_boot (s : State) (t : Nat) (l : List Nat) : (setFill s t l).boot = s.boot := rfl
@[simp] theorem setFill_glb (s : State) (t : Nat) (l : List Nat) : (setFill s t l).glb = s.glb := rfl
@[simp] theorem setFill_pins (s : State) (t : Nat) (l : List Nat) : (setFill s t l).pins = s.pins := rfl
@[simp] theorem setFill_out (s : State) (t : Nat) (l : List Nat) : (setFill s t l).out = s.out := rfl
@[simp] theorem setFill_free (s : State) (t : Nat) (l : List Nat) : (setFill s t l).free = s.free := rfl

/-! ### `clearFill` -/

@[simp] theorem clearFill_pending (s : State) (t : Nat) (l : List Nat) : (clearFill s t l).pending = s.pending := rfl
@[simp] theorem clearFill_tiles (s : State) (t : Nat) (l : List Nat) : (clearFill s t l).tiles = s.tiles := rfl
@[simp] theorem clearFill_engines (s : State) (t : Nat) (l : List Nat) : (clearFill s t l).engines = s.engines := rfl
@[simp] theorem clearFill_dies (s : State) (t : Nat) (l : List Nat) : (clearFill s t l).dies = s.dies := rfl
@[simp] theorem clearFill_arcs (s : State) (t : Nat) (l : List Nat) : (clearFill s t l).arcs = s.arcs := rfl
@[simp] theorem clearFill_hq (s : State) (t : Nat) (l : List Nat) : (clearFill s t l).hq = s.hq := rfl
@[simp] theorem clearFill_cp (s : State) (t : Nat) (l : List Nat) : (clearFill s t l).cp = s.cp := rfl
@[simp] theorem clearFill_md (s : State) (t : Nat) (l : List Nat) : (clearFill s t l).md = s.md := rfl
@[simp] theorem clearFill_bcn (s : State) (t : Nat) (l : List Nat) : (clearFill s t l).bcn = s.bcn := rfl
@[simp] theorem clearFill_evr (s : State) (t : Nat) (l : List Nat) : (clearFill s t l).evr = s.evr := rfl
@[simp] theorem clearFill_lk (s : State) (t : Nat) (l : List Nat) : (clearFill s t l).lk = s.lk := rfl
@[simp] theorem clearFill_flt (s : State) (t : Nat) (l : List Nat) : (clearFill s t l).flt = s.flt := rfl
@[simp] theorem clearFill_pw (s : State) (t : Nat) (l : List Nat) : (clearFill s t l).pw = s.pw := rfl
@[simp] theorem clearFill_boot (s : State) (t : Nat) (l : List Nat) : (clearFill s t l).boot = s.boot := rfl
@[simp] theorem clearFill_glb (s : State) (t : Nat) (l : List Nat) : (clearFill s t l).glb = s.glb := rfl
@[simp] theorem clearFill_pins (s : State) (t : Nat) (l : List Nat) : (clearFill s t l).pins = s.pins := rfl
@[simp] theorem clearFill_out (s : State) (t : Nat) (l : List Nat) : (clearFill s t l).out = s.out := rfl
@[simp] theorem clearFill_free (s : State) (t : Nat) (l : List Nat) : (clearFill s t l).free = s.free := rfl

/-! ### `emit` -/

@[simp] theorem emit_pending (s : State) (o : Out) : (emit s o).pending = s.pending := rfl
@[simp] theorem emit_mem (s : State) (o : Out) : (emit s o).mem = s.mem := rfl
@[simp] theorem emit_tiles (s : State) (o : Out) : (emit s o).tiles = s.tiles := rfl
@[simp] theorem emit_engines (s : State) (o : Out) : (emit s o).engines = s.engines := rfl
@[simp] theorem emit_dies (s : State) (o : Out) : (emit s o).dies = s.dies := rfl
@[simp] theorem emit_arcs (s : State) (o : Out) : (emit s o).arcs = s.arcs := rfl
@[simp] theorem emit_hq (s : State) (o : Out) : (emit s o).hq = s.hq := rfl
@[simp] theorem emit_cp (s : State) (o : Out) : (emit s o).cp = s.cp := rfl
@[simp] theorem emit_md (s : State) (o : Out) : (emit s o).md = s.md := rfl
@[simp] theorem emit_bcn (s : State) (o : Out) : (emit s o).bcn = s.bcn := rfl
@[simp] theorem emit_evr (s : State) (o : Out) : (emit s o).evr = s.evr := rfl
@[simp] theorem emit_lk (s : State) (o : Out) : (emit s o).lk = s.lk := rfl
@[simp] theorem emit_flt (s : State) (o : Out) : (emit s o).flt = s.flt := rfl
@[simp] theorem emit_pw (s : State) (o : Out) : (emit s o).pw = s.pw := rfl
@[simp] theorem emit_boot (s : State) (o : Out) : (emit s o).boot = s.boot := rfl
@[simp] theorem emit_glb (s : State) (o : Out) : (emit s o).glb = s.glb := rfl
@[simp] theorem emit_pins (s : State) (o : Out) : (emit s o).pins = s.pins := rfl
@[simp] theorem emit_out (s : State) (o : Out) : (emit s o).out = s.out ++ [o] := rfl
@[simp] theorem emit_free (s : State) (o : Out) : (emit s o).free = s.free := rfl

/-! ### `updRing` -/

@[simp] theorem updRing_pending (s : State) (d : Nat) (r : Dir) (f : RingDir → RingDir) : (updRing s d r f).pending = s.pending := rfl
@[simp] theorem updRing_mem (s : State) (d : Nat) (r : Dir) (f : RingDir → RingDir) : (updRing s d r f).mem = s.mem := rfl
@[simp] theorem updRing_tiles (s : State) (d : Nat) (r : Dir) (f : RingDir → RingDir) : (updRing s d r f).tiles = s.tiles := rfl
@[simp] theorem updRing_engines (s : State) (d : Nat) (r : Dir) (f : RingDir → RingDir) : (updRing s d r f).engines = s.engines := rfl
@[simp] theorem updRing_arcs (s : State) (d : Nat) (r : Dir) (f : RingDir → RingDir) : (updRing s d r f).arcs = s.arcs := rfl
@[simp] theorem updRing_hq (s : State) (d : Nat) (r : Dir) (f : RingDir → RingDir) : (updRing s d r f).hq = s.hq := rfl
@[simp] theorem updRing_cp (s : State) (d : Nat) (r : Dir) (f : RingDir → RingDir) : (updRing s d r f).cp = s.cp := rfl
@[simp] theorem updRing_md (s : State) (d : Nat) (r : Dir) (f : RingDir → RingDir) : (updRing s d r f).md = s.md := rfl
@[simp] theorem updRing_bcn (s : State) (d : Nat) (r : Dir) (f : RingDir → RingDir) : (updRing s d r f).bcn = s.bcn := rfl
@[simp] theorem updRing_evr (s : State) (d : Nat) (r : Dir) (f : RingDir → RingDir) : (updRing s d r f).evr = s.evr := rfl
@[simp] theorem updRing_lk (s : State) (d : Nat) (r : Dir) (f : RingDir → RingDir) : (updRing s d r f).lk = s.lk := rfl
@[simp] theorem updRing_flt (s : State) (d : Nat) (r : Dir) (f : RingDir → RingDir) : (updRing s d r f).flt = s.flt := rfl
@[simp] theorem updRing_pw (s : State) (d : Nat) (r : Dir) (f : RingDir → RingDir) : (updRing s d r f).pw = s.pw := rfl
@[simp] theorem updRing_boot (s : State) (d : Nat) (r : Dir) (f : RingDir → RingDir) : (updRing s d r f).boot = s.boot := rfl
@[simp] theorem updRing_glb (s : State) (d : Nat) (r : Dir) (f : RingDir → RingDir) : (updRing s d r f).glb = s.glb := rfl
@[simp] theorem updRing_pins (s : State) (d : Nat) (r : Dir) (f : RingDir → RingDir) : (updRing s d r f).pins = s.pins := rfl
@[simp] theorem updRing_out (s : State) (d : Nat) (r : Dir) (f : RingDir → RingDir) : (updRing s d r f).out = s.out := rfl
@[simp] theorem updRing_free (s : State) (d : Nat) (r : Dir) (f : RingDir → RingDir) : (updRing s d r f).free = s.free := rfl

/-! ### `updOut` -/

@[simp] theorem updOut_pending (s : State) (d : Nat) (r : Dir) (f : ArcDir → ArcDir) : (updOut s d r f).pending = s.pending := rfl
@[simp] theorem updOut_mem (s : State) (d : Nat) (r : Dir) (f : ArcDir → ArcDir) : (updOut s d r f).mem = s.mem := rfl
@[simp] theorem updOut_tiles (s : State) (d : Nat) (r : Dir) (f : ArcDir → ArcDir) : (updOut s d r f).tiles = s.tiles := rfl
@[simp] theorem updOut_engines (s : State) (d : Nat) (r : Dir) (f : ArcDir → ArcDir) : (updOut s d r f).engines = s.engines := rfl
@[simp] theorem updOut_arcs (s : State) (d : Nat) (r : Dir) (f : ArcDir → ArcDir) : (updOut s d r f).arcs = s.arcs := rfl
@[simp] theorem updOut_hq (s : State) (d : Nat) (r : Dir) (f : ArcDir → ArcDir) : (updOut s d r f).hq = s.hq := rfl
@[simp] theorem updOut_cp (s : State) (d : Nat) (r : Dir) (f : ArcDir → ArcDir) : (updOut s d r f).cp = s.cp := rfl
@[simp] theorem updOut_md (s : State) (d : Nat) (r : Dir) (f : ArcDir → ArcDir) : (updOut s d r f).md = s.md := rfl
@[simp] theorem updOut_bcn (s : State) (d : Nat) (r : Dir) (f : ArcDir → ArcDir) : (updOut s d r f).bcn = s.bcn := rfl
@[simp] theorem updOut_evr (s : State) (d : Nat) (r : Dir) (f : ArcDir → ArcDir) : (updOut s d r f).evr = s.evr := rfl
@[simp] theorem updOut_lk (s : State) (d : Nat) (r : Dir) (f : ArcDir → ArcDir) : (updOut s d r f).lk = s.lk := rfl
@[simp] theorem updOut_flt (s : State) (d : Nat) (r : Dir) (f : ArcDir → ArcDir) : (updOut s d r f).flt = s.flt := rfl
@[simp] theorem updOut_pw (s : State) (d : Nat) (r : Dir) (f : ArcDir → ArcDir) : (updOut s d r f).pw = s.pw := rfl
@[simp] theorem updOut_boot (s : State) (d : Nat) (r : Dir) (f : ArcDir → ArcDir) : (updOut s d r f).boot = s.boot := rfl
@[simp] theorem updOut_glb (s : State) (d : Nat) (r : Dir) (f : ArcDir → ArcDir) : (updOut s d r f).glb = s.glb := rfl
@[simp] theorem updOut_pins (s : State) (d : Nat) (r : Dir) (f : ArcDir → ArcDir) : (updOut s d r f).pins = s.pins := rfl
@[simp] theorem updOut_out (s : State) (d : Nat) (r : Dir) (f : ArcDir → ArcDir) : (updOut s d r f).out = s.out := rfl
@[simp] theorem updOut_free (s : State) (d : Nat) (r : Dir) (f : ArcDir → ArcDir) : (updOut s d r f).free = s.free := rfl

/-! ### `fireN` -/

@[simp] theorem fireN_pending (s : State) (n k : Nat) : (fireN s n k).pending = s.pending := by unfold fireN; split <;> rfl
@[simp] theorem fireN_mem (s : State) (n k : Nat) : (fireN s n k).mem = s.mem := by unfold fireN; split <;> rfl
@[simp] theorem fireN_tiles (s : State) (n k : Nat) : (fireN s n k).tiles = s.tiles := by unfold fireN; split <;> rfl
@[simp] theorem fireN_engines (s : State) (n k : Nat) : (fireN s n k).engines = s.engines := by unfold fireN; split <;> rfl
@[simp] theorem fireN_dies (s : State) (n k : Nat) : (fireN s n k).dies = s.dies := by unfold fireN; split <;> rfl
@[simp] theorem fireN_arcs (s : State) (n k : Nat) : (fireN s n k).arcs = s.arcs := by unfold fireN; split <;> rfl
@[simp] theorem fireN_hq (s : State) (n k : Nat) : (fireN s n k).hq = s.hq := by unfold fireN; split <;> rfl
@[simp] theorem fireN_cp (s : State) (n k : Nat) : (fireN s n k).cp = s.cp := by unfold fireN; split <;> rfl
@[simp] theorem fireN_md (s : State) (n k : Nat) : (fireN s n k).md = s.md := by unfold fireN; split <;> rfl
@[simp] theorem fireN_bcn (s : State) (n k : Nat) : (fireN s n k).bcn = s.bcn := by unfold fireN; split <;> rfl
@[simp] theorem fireN_lk (s : State) (n k : Nat) : (fireN s n k).lk = s.lk := by unfold fireN; split <;> rfl
@[simp] theorem fireN_flt (s : State) (n k : Nat) : (fireN s n k).flt = s.flt := by unfold fireN; split <;> rfl
@[simp] theorem fireN_pw (s : State) (n k : Nat) : (fireN s n k).pw = s.pw := by unfold fireN; split <;> rfl
@[simp] theorem fireN_boot (s : State) (n k : Nat) : (fireN s n k).boot = s.boot := by unfold fireN; split <;> rfl
@[simp] theorem fireN_glb (s : State) (n k : Nat) : (fireN s n k).glb = s.glb := by unfold fireN; split <;> rfl
@[simp] theorem fireN_pins (s : State) (n k : Nat) : (fireN s n k).pins = s.pins := by unfold fireN; split <;> rfl
@[simp] theorem fireN_out (s : State) (n k : Nat) : (fireN s n k).out = s.out := by unfold fireN; split <;> rfl
@[simp] theorem fireN_free (s : State) (n k : Nat) : (fireN s n k).free = s.free := by unfold fireN; split <;> rfl

/-! ### `fire` -/

@[simp] theorem fire_pending (s : State) (n : Nat) : (fire s n).pending = s.pending := fireN_pending s n 1
@[simp] theorem fire_mem (s : State) (n : Nat) : (fire s n).mem = s.mem := fireN_mem s n 1
@[simp] theorem fire_tiles (s : State) (n : Nat) : (fire s n).tiles = s.tiles := fireN_tiles s n 1
@[simp] theorem fire_engines (s : State) (n : Nat) : (fire s n).engines = s.engines := fireN_engines s n 1
@[simp] theorem fire_dies (s : State) (n : Nat) : (fire s n).dies = s.dies := fireN_dies s n 1
@[simp] theorem fire_arcs (s : State) (n : Nat) : (fire s n).arcs = s.arcs := fireN_arcs s n 1
@[simp] theorem fire_hq (s : State) (n : Nat) : (fire s n).hq = s.hq := fireN_hq s n 1
@[simp] theorem fire_cp (s : State) (n : Nat) : (fire s n).cp = s.cp := fireN_cp s n 1
@[simp] theorem fire_md (s : State) (n : Nat) : (fire s n).md = s.md := fireN_md s n 1
@[simp] theorem fire_bcn (s : State) (n : Nat) : (fire s n).bcn = s.bcn := fireN_bcn s n 1
@[simp] theorem fire_lk (s : State) (n : Nat) : (fire s n).lk = s.lk := fireN_lk s n 1
@[simp] theorem fire_flt (s : State) (n : Nat) : (fire s n).flt = s.flt := fireN_flt s n 1
@[simp] theorem fire_pw (s : State) (n : Nat) : (fire s n).pw = s.pw := fireN_pw s n 1
@[simp] theorem fire_boot (s : State) (n : Nat) : (fire s n).boot = s.boot := fireN_boot s n 1
@[simp] theorem fire_glb (s : State) (n : Nat) : (fire s n).glb = s.glb := fireN_glb s n 1
@[simp] theorem fire_pins (s : State) (n : Nat) : (fire s n).pins = s.pins := fireN_pins s n 1
@[simp] theorem fire_out (s : State) (n : Nat) : (fire s n).out = s.out := fireN_out s n 1
@[simp] theorem fire_free (s : State) (n : Nat) : (fire s n).free = s.free := fireN_free s n 1

/-! ### `storeMod` -/

@[simp] theorem storeMod_pending (s : State) (k : Nat) (l : List PByte) : (storeMod s k l).pending = s.pending := by
  unfold storeMod; split
  · rfl
  · dsimp only; split <;> rfl
@[simp] theorem storeMod_tiles (s : State) (k : Nat) (l : List PByte) : (storeMod s k l).tiles = s.tiles := by
  unfold storeMod; split
  · rfl
  · dsimp only; split <;> rfl
@[simp] theorem storeMod_engines (s : State) (k : Nat) (l : List PByte) : (storeMod s k l).engines = s.engines := by
  unfold storeMod; split
  · rfl
  · dsimp only; split <;> rfl
@[simp] theorem storeMod_arcs (s : State) (k : Nat) (l : List PByte) : (storeMod s k l).arcs = s.arcs := by
  unfold storeMod; split
  · rfl
  · dsimp only; split <;> rfl
@[simp] theorem storeMod_hq (s : State) (k : Nat) (l : List PByte) : (storeMod s k l).hq = s.hq := by
  unfold storeMod; split
  · rfl
  · dsimp only; split <;> rfl
@[simp] theorem storeMod_cp (s : State) (k : Nat) (l : List PByte) : (storeMod s k l).cp = s.cp := by
  unfold storeMod; split
  · rfl
  · dsimp only; split <;> rfl
@[simp] theorem storeMod_md (s : State) (k : Nat) (l : List PByte) : (storeMod s k l).md = s.md := by
  unfold storeMod; split
  · rfl
  · dsimp only; split <;> rfl
@[simp] theorem storeMod_bcn (s : State) (k : Nat) (l : List PByte) : (storeMod s k l).bcn = s.bcn := by
  unfold storeMod; split
  · rfl
  · dsimp only; split <;> rfl
@[simp] theorem storeMod_evr (s : State) (k : Nat) (l : List PByte) : (storeMod s k l).evr = s.evr := by
  unfold storeMod; split
  · rfl
  · dsimp only; split <;> rfl
@[simp] theorem storeMod_lk (s : State) (k : Nat) (l : List PByte) : (storeMod s k l).lk = s.lk := by
  unfold storeMod; split
  · rfl
  · dsimp only; split <;> rfl
@[simp] theorem storeMod_flt (s : State) (k : Nat) (l : List PByte) : (storeMod s k l).flt = s.flt := by
  unfold storeMod; split
  · rfl
  · dsimp only; split <;> rfl
@[simp] theorem storeMod_pw (s : State) (k : Nat) (l : List PByte) : (storeMod s k l).pw = s.pw := by
  unfold storeMod; split
  · rfl
  · dsimp only; split <;> rfl
@[simp] theorem storeMod_boot (s : State) (k : Nat) (l : List PByte) : (storeMod s k l).boot = s.boot := by
  unfold storeMod; split
  · rfl
  · dsimp only; split <;> rfl
@[simp] theorem storeMod_glb (s : State) (k : Nat) (l : List PByte) : (storeMod s k l).glb = s.glb := by
  unfold storeMod; split
  · rfl
  · dsimp only; split <;> rfl
@[simp] theorem storeMod_pins (s : State) (k : Nat) (l : List PByte) : (storeMod s k l).pins = s.pins := by
  unfold storeMod; split
  · rfl
  · dsimp only; split <;> rfl
@[simp] theorem storeMod_out (s : State) (k : Nat) (l : List PByte) : (storeMod s k l).out = s.out := by
  unfold storeMod; split
  · rfl
  · dsimp only; split <;> rfl
@[simp] theorem storeMod_free (s : State) (k : Nat) (l : List PByte) : (storeMod s k l).free = s.free := by
  unfold storeMod; split
  · rfl
  · dsimp only; split <;> rfl

/-! ### `storeClean` -/

@[simp] theorem storeClean_pending (s : State) (k : Nat) (b : Bytes) : (storeClean s k b).pending = s.pending := storeMod_pending s k _
@[simp] theorem storeClean_tiles (s : State) (k : Nat) (b : Bytes) : (storeClean s k b).tiles = s.tiles := storeMod_tiles s k _
@[simp] theorem storeClean_engines (s : State) (k : Nat) (b : Bytes) : (storeClean s k b).engines = s.engines := storeMod_engines s k _
@[simp] theorem storeClean_arcs (s : State) (k : Nat) (b : Bytes) : (storeClean s k b).arcs = s.arcs := storeMod_arcs s k _
@[simp] theorem storeClean_hq (s : State) (k : Nat) (b : Bytes) : (storeClean s k b).hq = s.hq := storeMod_hq s k _
@[simp] theorem storeClean_cp (s : State) (k : Nat) (b : Bytes) : (storeClean s k b).cp = s.cp := storeMod_cp s k _
@[simp] theorem storeClean_md (s : State) (k : Nat) (b : Bytes) : (storeClean s k b).md = s.md := storeMod_md s k _
@[simp] theorem storeClean_bcn (s : State) (k : Nat) (b : Bytes) : (storeClean s k b).bcn = s.bcn := storeMod_bcn s k _
@[simp] theorem storeClean_evr (s : State) (k : Nat) (b : Bytes) : (storeClean s k b).evr = s.evr := storeMod_evr s k _
@[simp] theorem storeClean_lk (s : State) (k : Nat) (b : Bytes) : (storeClean s k b).lk = s.lk := storeMod_lk s k _
@[simp] theorem storeClean_flt (s : State) (k : Nat) (b : Bytes) : (storeClean s k b).flt = s.flt := storeMod_flt s k _
@[simp] theorem storeClean_pw (s : State) (k : Nat) (b : Bytes) : (storeClean s k b).pw = s.pw := storeMod_pw s k _
@[simp] theorem storeClean_boot (s : State) (k : Nat) (b : Bytes) : (storeClean s k b).boot = s.boot := storeMod_boot s k _
@[simp] theorem storeClean_glb (s : State) (k : Nat) (b : Bytes) : (storeClean s k b).glb = s.glb := storeMod_glb s k _
@[simp] theorem storeClean_pins (s : State) (k : Nat) (b : Bytes) : (storeClean s k b).pins = s.pins := storeMod_pins s k _
@[simp] theorem storeClean_out (s : State) (k : Nat) (b : Bytes) : (storeClean s k b).out = s.out := storeMod_out s k _
@[simp] theorem storeClean_free (s : State) (k : Nat) (b : Bytes) : (storeClean s k b).free = s.free := storeMod_free s k _

end Sys2Proof.Machine
end

