-- ==== Sys2Proof/Laws/Stream.lean ====
section
/-!
SUPPORT. What the shared operations behind the commands can do, said once: a stream's next entry, a command that is checked and then
runs, the running commands, the sequencer's step for a TOD, an engine's step for a descriptor, and a block that does not answer.
-/

namespace Sys2Proof.Machine

/-! ### A command at the front of the queue -/

theorem step_nil {s : State} (h : s.pending = []) : step s = .next (tick s) := by simp [step, h]

theorem step_cons {s : State} {c : Instr} {r : List Instr} (h : s.pending = c :: r) : step s = exec c { s with pending := r } := by
  simp [step, h]

theorem gate_on {on : Bool} (s : State) (a : Ans) (h : on = true) : gate on s a = a := by simp [gate, h]
theorem gate_off {on : Bool} (s : State) (a : Ans) (h : on = false) : gate on s a = .next s := by simp [gate, h]

/-! ### The running commands -/

theorem putJobL_find (l : List (JobRef × Job)) (j : JobRef) (b : Job) : (putJobL l j b).find? (fun p => p.1 = j) = some (j, b) := by
  induction l with
  | nil => simp [putJobL]
  | cons p r ih => unfold putJobL; split <;> simp_all

theorem putJobL_find_ne (l : List (JobRef × Job)) (j k : JobRef) (b : Job) (h : k ≠ j) :
    (putJobL l j b).find? (fun p => p.1 = k) = l.find? fun p => p.1 = k := by
  induction l with
  | nil => simp [putJobL, Ne.symm h]
  | cons p r ih =>
    unfold putJobL
    split
    · next e => simp [e, Ne.symm h]
    · simp [List.find?_cons, ih]

theorem getJob_putJob (s : State) (j : JobRef) (b : Job) : getJob (putJob s j b) j = some b := by simp [getJob, putJob, putJobL_find]

theorem getJob_putJob_ne (s : State) (j k : JobRef) (b : Job) (h : k ≠ j) : getJob (putJob s j b) k = getJob s k := by
  simp [getJob, putJob, putJobL_find_ne _ _ _ _ h]

theorem getJob_delJob (s : State) (j : JobRef) : getJob (delJob s j) j = none := by simp [getJob, delJob]

theorem updJob_of_none {s : State} {j : JobRef} (f : Job → Job) (h : getJob s j = none) : updJob s j f = s := by simp [updJob, h]

theorem updJob_of_some {s : State} {j : JobRef} {b : Job} (f : Job → Job) (h : getJob s j = some b) : updJob s j f = putJob s j (f b) := by
  simp [updJob, h]

/-! ### A stream starts its next entry (R341, R353, R355) -/

theorem getJob_openJob (s : State) (st : Nat) (e : NextEntry) : getJob (openJob s st e) (.stream st) = some (newJob s e) := by
  simp [openJob, getJob_putJob]

@[simp] theorem openJob_hq (s : State) (st : Nat) (e : NextEntry) : (openJob s st e).hq = s.hq := by simp only [openJob, putJob]; split <;> rfl
@[simp] theorem openJob_mem (s : State) (st : Nat) (e : NextEntry) : (openJob s st e).mem = s.mem := by simp only [openJob, putJob]; split <;> rfl
@[simp] theorem openJob_md (s : State) (st : Nat) (e : NextEntry) : (openJob s st e).md = s.md := by simp only [openJob, putJob]; split <;> rfl
@[simp] theorem openJob_bcn (s : State) (st : Nat) (e : NextEntry) : (openJob s st e).bcn = s.bcn := by simp only [openJob, putJob]; split <;> rfl
@[simp] theorem openJob_lk (s : State) (st : Nat) (e : NextEntry) : (openJob s st e).lk = s.lk := by simp only [openJob, putJob]; split <;> rfl
@[simp] theorem openJob_pw (s : State) (st : Nat) (e : NextEntry) : (openJob s st e).pw = s.pw := by simp only [openJob, putJob]; split <;> rfl
@[simp] theorem openJob_boot (s : State) (st : Nat) (e : NextEntry) : (openJob s st e).boot = s.boot := by simp only [openJob, putJob]; split <;> rfl
@[simp] theorem openJob_glb (s : State) (st : Nat) (e : NextEntry) : (openJob s st e).glb = s.glb := by simp only [openJob, putJob]; split <;> rfl
@[simp] theorem openJob_pins (s : State) (st : Nat) (e : NextEntry) : (openJob s st e).pins = s.pins := by simp only [openJob, putJob]; split <;> rfl
@[simp] theorem openJob_tiles (s : State) (st : Nat) (e : NextEntry) : (openJob s st e).tiles = s.tiles := by simp only [openJob, putJob]; split <;> rfl
@[simp] theorem openJob_engines (s : State) (st : Nat) (e : NextEntry) : (openJob s st e).engines = s.engines := by simp only [openJob, putJob]; split <;> rfl
@[simp] theorem openJob_dies (s : State) (st : Nat) (e : NextEntry) : (openJob s st e).dies = s.dies := by simp only [openJob, putJob]; split <;> rfl

/-- Where no block has a physical fault, an entry's reads leave no trace. -/
theorem entered_clean {s : State} (h : s.mem.ecc = []) (st : Nat) (e : NextEntry) : entered s st e = openJob s st e := by
  have w : ∀ (t : State), t.mem.ecc = [] → ∀ p, eccWord t p = t := fun t ht p => by simp [eccWord, ht]
  have f : ∀ (l : List (W64 × Nat)) (t : State), t.mem.ecc = [] → l.foldl eccWord t = t := by
    intro l
    induction l with
    | nil => intros; rfl
    | cons p r ih => intro t ht; rw [List.foldl_cons, w t ht, ih t ht]
  have o : (openJob s st e).mem.ecc = [] := by simpa using h
  unfold entered noteReads
  split
  · exact f _ _ o
  · dsimp only
    rw [w _ o, f _ _ o]

/-- A free stream runs its next entry. -/
theorem startEntry_starts {s : State} {st : Stream} {opc : Nat} {e : NextEntry} (run : JobRef → Bytes → State → State)
    (h : StartsEntry s st opc e) : startEntry opc st.val run s = .next (run (.stream st.val) e.bytes (entered s st.val e)) := by
  obtain ⟨h1, h2, h3, h4⟩ := h
  simp only [startEntry, h1, h2, h3]
  simp [h4]

/-- Everything that starting an entry can do. -/
theorem startEntry_cases {opc st : Nat} {run : JobRef → Bytes → State → State} {s t : State} (h : startEntry opc st run s = .next t) :
    t = s ∨ (∃ e x, nextEntry s st = some e ∧ e.fault = some x ∧ t = endCalls x st (s.cp.streams.get st).frames s) ∨
    (∃ e x, nextEntry s st = some e ∧ opcodeCheck s (entryOpc e.bytes) e.depth = some x ∧ t = finish (openJob s st e) (.stream st) x 0) ∨
    ∃ e, nextEntry s st = some e ∧ opcodeCheck s (entryOpc e.bytes) e.depth = none ∧ t = run (.stream st) e.bytes (entered s st e) := by
  unfold startEntry at h
  split at h
  · exact .inl (by cases h; rfl)
  · next e he =>
    split at h
    · next x hx => exact .inr (.inl ⟨e, x, he, hx, by cases h; rfl⟩)
    · split at h
      · exact .inl (by cases h; rfl)
      · cases hc : opcodeCheck s (entryOpc e.bytes) e.depth with
        | some x => exact .inr (.inr (.inl ⟨e, x, he, hc, by simpa [hc] using h.symm⟩))
        | none => exact .inr (.inr (.inr ⟨e, he, hc, by simpa [hc] using h.symm⟩))

theorem checkThen_fails {chk : Option Status} {x : Status} (j : JobRef) (run : State → State) (s : State) (h : chk = some x) :
    checkThen chk j run s = finish s j x 0 := by simp [checkThen, h]

theorem checkThen_passes {chk : Option Status} (j : JobRef) (run : State → State) (s : State) (h : chk = none) :
    checkThen chk j run s = run s := by simp [checkThen, h]

/-! ### A TOD has its turn (R56, R58, R70) -/

/-- No TOD issues while a scrub of its tile is in progress. -/
theorem issues_noScrub {s : State} {t : Nat} {w : TodSlot} (h : issues s t w = true) : (s.tiles.get t).scrubBusy = false := by
  simp only [issues, mayIssue, Bool.and_eq_true, Bool.not_eq_true'] at h
  exact h.1.1.2.1.2

/-- A fetched TOD that passes every check issues and goes on as it then stands. -/
theorem runTod_ready {s : State} {t n opc : Nat} {w : TodSlot} (go : TodSlot → State → State) (h : TodReady s t n opc w) :
    runTod opc t n go s = .next (goOn go (issueTod s t w) t w.uid) := by
  obtain ⟨h1, h2, h3, h4, h5, h6⟩ := h
  simp [runTod, h1, h2, h3, h4, h5, h6, issues_noScrub h4]

/-- A TOD of the sync unit reads nothing when it issues. -/
theorem issueReads_sync {s : State} {t : Nat} {w : TodSlot} (h : unitOf (todOpc w.bytes) = some .sync) : issueReads s t w = [] := by
  have k : usesKey w.bytes = false := by simp [usesKey, h]
  simp [issueReads, levelOps, keyOps, h, k]

/-- Such a TOD only runs when it issues. -/
theorem issueTod_plain {s : State} {t : Nat} {w : TodSlot} (h : issueReads s t w = []) :
    issueTod s t w = refreshWait (updTod (activate s t w.ctx) t w.uid fun _ => issuedTod s t w) t w.ctx := by
  simp [issueTod, h, anyUnfilled, bufReads, allKeys, eccNote]

theorem get_updTile (s : State) (t : Nat) (f : Tile → Tile) : (updTile s t f).tiles.get t = f (s.tiles.get t) := by
  show (s.tiles.upd t f).get t = _
  exact Tbl.get_upd_self _ _ _

/-- The window finds a TOD that has just been changed. -/
theorem find_issued {w : TodSlot} (v : TodSlot) (hv : v.uid = w.uid) :
    ∀ (l : List TodSlot) (n : Nat), l[n]? = some w → (l.map fun y => if y.uid = w.uid then v else y).find? (fun y => y.uid = w.uid) = some v
  | [], n, e => by simp at e
  | p :: r, n, e => by
    by_cases q : p.uid = w.uid
    · simp [q, hv]
    · cases n with
      | zero => simp at e; exact absurd (by rw [e]) q
      | succ m =>
        have := find_issued v hv r m (by simpa using e)
        rw [List.map_cons, if_neg q, List.find?_cons]
        simpa only [q, decide_false] using this

/-- A TOD that reads nothing at issue goes on at once. -/
theorem goOn_issueTod {s : State} {t n : Nat} {w : TodSlot} (go : TodSlot → State → State) (h : todAt s t n = some w)
    (hr : issueReads s t w = []) : goOn go (issueTod s t w) t w.uid = go (issuedTod s t w) (issueTod s t w) := by
  have e : todOf (issueTod s t w) t w.uid = some (issuedTod s t w) := by
    simp only [issueTod_plain hr, todOf, refreshWait, setWait, updTod, activate, get_updTile]
    exact find_issued (w := w) (issuedTod s t w) rfl _ n h
  simp [goOn, e]

/-- A TOD that is not in the window leaves the state unchanged. -/
theorem runTod_none {s : State} {t n opc : Nat} (go : TodSlot → State → State) (h : todAt s t n = none) : runTod opc t n go s = .next s := by
  simp [runTod, h]

/-- A fetched TOD that fails a check faults its context. -/
theorem runTod_faults {s : State} {t n opc : Nat} {w : TodSlot} (go : TodSlot → State → State) {c : Nat} (h1 : todAt s t n = some w)
    (h2 : todOpc w.bytes = opc) (h3 : w.phase = .fetched) (h4 : issues s t w = true) (h5 : todPwait w.bytes = false)
    (h6 : checkTod s t w = some c) : runTod opc t n go s = .next (ctxFault (activate s t w.ctx) t w c) := by
  simp [runTod, h1, h2, h3, h4, h5, h6, issues_noScrub h4]

/-! ### An engine's step (R309, R310) -/

/-- An engine out of service leaves the state unchanged. -/
theorem runDesc_down {s : State} {opc e ch : Nat} (h : engineUp s e = false) : runDesc opc e ch s = .next s := by simp [runDesc, h]

end Sys2Proof.Machine
end

