-- ==== Sys2Proof/WellFormed.lean ====
section
/-!
DEFINITION. Well-formed commands: the operands that the surroundings can give a command at all, from the sizes and ranges that the spec
names. The meanings do not depend on it: they are total on every command.
-/

namespace Sys2Proof

/-- An access has at least one byte, and a write carries exactly its bytes (R126, R257). -/
def accessOk (a : Access) : Bool := decide (1 ≤ a.len) && (!a.write || decide (a.data.length = a.len))

/-- A probe asks for at least one byte (R315). -/
def probeOk : ProbeReq → Bool
  | .own _ _ _ => true
  | .tile _ _ _ len _ => decide (1 ≤ len)
  | .hbm _ _ _ len _ => decide (1 ≤ len)

/-- Payloads of frames and packets have up to 4,096 bytes (R156, R194). -/
def emissionOk : Emission → Bool
  | .grad _ _ _ _ _ payload _ => decide (payload.length ≤ 4096)
  | .packet _ _ payload _ => decide (payload.length ≤ 4096)
  | .weight _ _ => true
  | .genBuoy => true
  | .layerBuoy => true
  | .passEnd => true

/-- Damage falls within a 32-byte header and up to 4,096 payload bytes (R157, R194). -/
def damageOk (hx px : Bytes) : Bool := decide (hx.length ≤ 32) && decide (px.length ≤ 4096)

/-- The sources that can ask for a reset of a level (R489, R491, R510, R552, R570). -/
def resetFrom (level : Nat) : ResetSource → Bool
  | .powerOn => level = 4
  | .perst => level = 4
  | .pcieFlr => level = 1
  | .command => true
  | .glbReset => true
  | .faultNotReady => level = 4
  | .pllLoss => level = 4
  | .fatal c => (level = 2 && c.toNat = 7) || (level = 4 && [1, 2, 8].contains c.toNat)

/-- A share in millionths is at most the whole, and CCLK steps are 0 to 3 (R202, R508). -/
def measuredOk (m : Measured) : Bool := decide (m.arcBusy ≤ 1000000) && decide (m.stepMoored ≤ 3) && decide (m.stepSweep ≤ 3)

/-- The well-formed commands. -/
def wellFormed : Instr → Bool
  | .queueEnable => true
  | .queueDisable => true
  | .queueIdle => true
  | .hostRegionWrite _ _ => true
  | .fenceRegisterWrite _ _ _ => true
  | .sqDoorbell _ => true
  | .cqDoorbell _ => true
  | .fenceDoorbell _ _ _ => true
  | .sqFetch _ => true
  | .completionWrite _ => true
  | .nop _ => true
  | .kernel _ => true
  | .graph _ => true
  | .graphNodeStart _ _ _ _ => true
  | .graphLaunchMessage _ _ _ _ digest _ => decide (digest.length = 32)
  | .completionToken _ _ _ _ _ _ => true
  | .dma _ _ _ => true
  | .signal _ => true
  | .wait _ => true
  | .waitTimeout _ => true
  | .branch _ => true
  | .branchPollDelay _ => true
  | .loop _ => true
  | .call _ => true
  | .ret _ => true
  | .barrier _ => true
  | .timestamp _ => true
  | .digest _ => true
  | .decodeLoop _ => true
  | .identify _ => true
  | .attest _ => true
  | .bundleBegin _ => true
  | .bundleChunk _ => true
  | .bundleCommit _ => true
  | .bundleMemberReport _ _ _ => true
  | .bundleMemberCommit _ _ gendig => decide (gendig.length = 32)
  | .wsetSwitch _ => true
  | .modeRequest _ => true
  | .ringConfig _ => true
  | .cascadeJoin _ => true
  | .cascadeJoinSettled => true
  | .twinPair _ _ => true
  | .twinPairTimeout => true
  | .powerPolicy _ => true
  | .clockPin _ => true
  | .telemetry _ => true
  | .retire _ => true
  | .scrub _ => true
  | .scrubDone _ => true
  | .fwUpdate _ _ => true
  | .reset _ => true
  | .detachPrepare _ => true
  | .graphStore _ => true
  | .graphPatch _ => true
  | .deltaLoad _ w => w.all fun p => decide (p.1 + p.2.length ≤ 1000000000000)
  | .hostTierMap _ => true
  | .timeTag _ => true
  | .faultPolicy _ => true
  | .tileQueueEnable _ _ => true
  | .tileQueueTail _ _ => true
  | .todFetch _ => true
  | .todNop _ _ => true
  | .mma _ _ => true
  | .mmaT _ _ => true
  | .dist _ _ => true
  | .ashift _ _ => true
  | .softmax _ _ => true
  | .rmsnorm _ _ => true
  | .glu _ _ => true
  | .rope _ _ => true
  | .quant _ _ => true
  | .dequant _ _ => true
  | .topk _ _ => true
  | .ewise _ _ => true
  | .convert _ _ => true
  | .semSignal _ _ => true
  | .semWait _ _ => true
  | .todBarrier _ _ => true
  | .event _ _ => true
  | .qwait _ _ => true
  | .taskEnd _ _ => true
  | .srkey _ _ => true
  | .todComplete _ _ => true
  | .semRequest _ => true
  | .semSignalReport _ _ => true
  | .handleWrite _ _ _ => true
  | .handleWriteRelease _ _ => true
  | .windowWrite _ _ _ => true
  | .remoteAccess _ a => accessOk a
  | .probe p => probeOk p
  | .hbmWindowWrite _ _ _ => true
  | .hbmWindowAccess _ a => accessOk a
  | .dmaChannelEnable _ _ _ => true
  | .dmaChannelTail _ _ _ => true
  | .copy _ _ => true
  | .gather _ _ => true
  | .scatter _ _ => true
  | .fill _ _ => true
  | .pagewalk _ _ => true
  | .bond _ _ => true
  | .prefetch _ _ => true
  | .descriptorComplete _ _ => true
  | .passBoundary => true
  | .verifyPass _ _ => true
  | .verifyPassCommit _ _ _ => true
  | .admission _ => true
  | .prefillCommit _ _ _ => true
  | .park _ _ => true
  | .recallSequence _ => true
  | .generationPark _ _ _ _ => true
  | .frameEmit _ _ f => emissionOk f
  | .frameArrival _ _ hx px => damageOk hx px
  | .frameTake _ _ _ => true
  | .runEntryPush _ _ _ => true
  | .genBuoy _ _ hx => damageOk hx []
  | .layerBuoy _ _ hx => damageOk hx []
  | .passEndBuoy _ _ hx => damageOk hx []
  | .gradFrame _ _ hx px own _ => damageOk hx px && (match own with | none => true | some b => decide (b.length ≤ 4096))
  | .creditReturn _ _ => true
  | .reRequest _ _ => true
  | .resentCopy _ _ hx px => damageOk hx px
  | .reRequestTimeout _ _ _ => true
  | .passComplete _ => true
  | .exchangePacket _ _ hx px => damageOk hx px
  | .exchangeComplete _ _ _ => true
  | .exchangeReRequest _ _ => true
  | .exchangeResendTimeout _ _ => true
  | .governorEvaluation _ m => measuredOk m
  | .propose _ _ _ => true
  | .prepared _ => true
  | .refused _ => true
  | .commit _ _ => true
  | .committed _ => true
  | .settleComplete _ => true
  | .abort _ _ => true
  | .reverted _ => true
  | .preparedDeadline => true
  | .committedDeadline _ => true
  | .revertedDeadline _ => true
  | .heartbeatLoss _ => true
  | .arcFlitNak _ => true
  | .arcRetrainDone _ => true
  | .auditRequest => true
  | .conservationAudit => true
  | .kill _ => true
  | .watchdogExpiry _ => true
  | .barrierConfigWrite casc b _ => casc || decide (b.val < 32)
  | .barrierRoundComplete casc b => casc || decide (b.val < 32)
  | .beaconExchange _ _ _ _ => true
  | .arrive _ _ _ => true
  | .release _ _ _ => true
  | .cascadeReleaseTime _ => true
  | .evrDoorbell _ => true
  | .evrFclr _ _ => true
  | .evrEnWrite _ _ => true
  | .evrPendWrite _ _ _ => true
  | .eventRouting => true
  | .keeperTake _ _ => true
  | .eoi _ _ => true
  | .keeperWake _ => true
  | .keeperSleep _ => true
  | .hostEventQueueHead _ _ => true
  | .hostEventQueueEnable _ _ => true
  | .msixVectorUnmask _ => true
  | .linkSignalDetect _ => true
  | .linkTrained _ _ _ => true
  | .linkTrainTimeout _ => true
  | .characteristicFrame _ frame => decide (frame.length = 64)
  | .characteristicFrameSend _ => true
  | .linkSilenceTimeout _ => true
  | .linkSignalLoss _ => true
  | .flitNak _ => true
  | .message _ m => decide (m.payload.length ≤ 4096)
  | .memberMessageSend => true
  | .memberMessage _ rows => decide (rows.length ≤ 512) && rows.all fun r => decide (r.hops ≤ 15)
  | .memberHeartbeatTimeout _ => true
  | .fogMessage _ _ => true
  | .twinLogEntry entry record => decide (entry.length = 64) && decide (record.length = 128)
  | .twinCheckpoint c => decide (c.record.length = 128)
  | .checkpointAck _ => true
  | .writtenNotice _ => true
  | .fatalFault cause => decide (1 ≤ cause.toNat) && decide (cause.toNat ≤ 8)
  | .keeperWatchdog => true
  | .spineLoss _ => true
  | .powerOn _ => true
  | .pwrEnDeassert => true
  | .pwrAlertAssert => true
  | .pwrAlertDeassert => true
  | .grantResume => true
  | .inputUndervoltage => true
  | .inputLow => true
  | .inputHigh => true
  | .inputOvervoltage => true
  | .overcurrent => true
  | .grantInterval _ slack => decide (slack.length = 8)
  | .drawSample _ _ => true
  | .loan _ _ => true
  | .loanRecall _ => true
  | .cclkStepDown _ => true
  | .cclkStepUp => true
  | .junctionHot _ tj => decide (95 ≤ tj.toNat)
  | .junctionHotHold _ => true
  | .junctionCritical _ tj => decide (100 ≤ tj.toNat)
  | .thermalTrip _ tj => decide (105 ≤ tj.toNat)
  | .coolantInletHigh tenths => decide (400 < tenths.toNat)
  | .pllLockLoss => true
  | .pllRelock => true
  | .perstAssert => true
  | .perstDeassert => true
  | .functionLevelReset src => resetFrom 1 src
  | .warmReset src => resetFrom 2 src
  | .dieReset _ src => resetFrom 3 src
  | .dieResetComplete _ _ => true
  | .coldReset src => resetFrom 4 src
  | .program _ => true
  | .finish => true
  | .recoveryAbort => true
  | .tftpWriteRequest name _ => decide (name ≠ [])
  | .dhcpLeaseTimeout => true
  | .enrol _ => true
  | .revoke _ => true
  | .keysLock => true
  | .challenge => true
  | .debugUnlock => true
  | .debugLock => true
  | .debugFetch _ => true
  | .debugFetchDone => true
  | .apSegWrite _ _ => true
  | .bar4Read off len => decide (1 ≤ len) && decide (off + len ≤ 2 ^ 36)
  | .bar4Write off data => decide (1 ≤ data.length) && decide (off + data.length ≤ 2 ^ 36)
  | .bar4Resize log2 => decide (30 ≤ log2.val) && decide (log2.val ≤ 36)
  | .bar0ImproperAccess _ off width => !(decide (width = 4 ∨ width = 8) && decide (off % width = 0)) && decide (off < 0x4000000)
  | .powerStateChange _ => true
  | .udpTelemetryRequest _ => true
  | .arpRequest => true
  | .icmpEchoRequest _ => true
  | .i3cPrivateWrite _ _ => true
  | .i3cPrivateRead _ _ => true
  | .i3cAddressAssignment _ _ => true
  | .tileCountsCntClr _ => true
  | .spadCountsCntClr _ => true
  | .dcEccCntClr _ => true
  | .swpStatusCntClr _ => true
  | .modeStatusCntClr _ => true
  | .cdcErrCntClr _ => true
  | .dmaCountsCntClr _ => true
  | .hqCountsCntClr => true
  | .cpCapCntClr => true
  | .evrStatusCntClr => true
  | .bcnStatusCntClr => true
  | .tlErrCntClr _ => true
  | .pwrCountsCntClr => true
  | .glbCountsCntClr => true
  | .arcStatusCntClr _ => true
  | .registerWrite off wide _ _ => decide (off % (if wide then 8 else 4) = 0) && decide (off < 0x4000000)
  | .heartbeat _ => true
  | .recOperationDone => true
  | .secOperationDone => true
  | .moduleReady _ => true
  | .inputBelow46V => true
  | .dhcpLease _ => true
  | .tftpData data _ => decide (data.length ≤ 1428)

end Sys2Proof
end

