-- ==== Sys2Proof/Tests/Slice0.lean ====
section
/-!
SUPPORT. The model's own tests: for every statement with hypotheses a state and operands that meet them, clause by clause; an
ill-formed command for each check of WellFormed; and a few results computed by hand from the spec.
-/

set_option maxRecDepth 8000
set_option Elab.async false

namespace Sys2Proof.Machine.Tests

open Sys2Proof Sys2Proof.Machine

/-! ### Small states -/

/-- A module in service with its eight dies. -/
def up : State := { State.reset with
  hq := { ready := true }
  glb := { state := 1 }
  dies := (List.range 8).map fun d => (d, { st := .inService }) }

/-- An entry of opcode `o` with the listed bytes. -/
def ent (o : Nat) (l : List (Nat × Nat)) : Bytes :=
  (List.range 64).map fun i => BitVec.ofNat 8 (if i = 0 then o else ((l.find? fun p => p.1 = i).map (·.2)).getD 0)

/-- `s` with that entry next in stream 0. -/
def withEntry (s : State) (o : Nat) (l : List (Nat × Nat)) : State :=
  updStream s 0 fun q => { q with pending := [⟨ent o l, 0⟩] }

/-- The module in service with that entry next in stream 0. -/
def run (o : Nat) (l : List (Nat × Nat)) : State := withEntry up o l

/-- The next entry of stream 0. -/
def head (s : State) : NextEntry := (nextEntry s 0).getD ⟨[], 0, 0, 0, [], none⟩

/-- The module in service with another host-queue block. -/
def hq (h : HostQ) : State := { up with hq := h }

/-- Queues of 64 entries, enabled. -/
def qOn : HostQ := { ready := true, en := true, sqLog2 := 6, cqLog2 := 6, idle := false }

/-- A completion that waits for its slot. -/
def aHeld : HeldC := ⟨5, .ok, 0, 0, 0, 0, true, none, false⟩


/-- A running command of opcode `o`. -/
def job (o : Nat) (b : Body) : Job := { entry := ent o [], sqIdx := 0, entryAddr := 0, depth := 0, frames := [], start := 0, body := b }

/-- `s` with one running command. -/
def withJob (s : State) (j : JobRef) (b : Job) : State := { s with cp := { s.cp with jobs := [(j, b)] } }

/-- `s` with fence `f`. -/
def withFence (s : State) (f : Nat) (x : Fence) : State := { s with hq := { s.hq with fences := [(f, x)] } }

/-- A frame of four entries at 0x1000 of die 0, at its second entry. -/
def frame1 (l : List LoopCtr) : CFrame := ⟨0x1000, 4, 1, l, job 0x08 .begun⟩

/-- The module in service with an entry of opcode `o` as the next one of that frame. -/
def inFrame (o : Nat) (l : List (Nat × Nat)) : State :=
  storeClean (updStream up 0 fun q => { q with frames := [frame1 []] }) 0x1040 (ent o l)


/-- `n` bytes, zero but for the listed ones. -/
def blk (n : Nat) (l : List (Nat × Nat)) : Bytes :=
  (List.range n).map fun i => BitVec.ofNat 8 (((l.find? fun p => p.1 = i).map (·.2)).getD 0)

/-- `s` with those bytes at 0x1000 of die 0. -/
def withData (s : State) (b : Bytes) : State := storeClean s 0x1000 b

/-- A model of one layer with one KV head. -/
def info1 : ModelInfo := { vocab := 100, ctxMax := 64, layers := 1, qHeads := 8, kvHeads := 1 }

/-- Its generation. -/
def gen1 : Gen := ⟨1, info1, [], 1, 0, none, none, true, 0, [], [], none, []⟩

/-- A slot that serves it in sweep mode. -/
def slot1 : Slot := { gens := [gen1], newest := 1, issued := true, serving := some 1, mode := 1 }

/-- `s` with that slot, and a pool of 64 frames on each die. -/
def served (s : State) : State := { s with md := { s.md with slots := [(0, slot1)], poolSet := (List.range 8).map fun d => (d, (List.range 64).map (4096 * ·)) } }

/-- A kernel image of one TODS section with a TASK_END. -/
def kimg : Bytes := blk 160 [(0, 1), (2, 1), (3, 0x10), (12, 1), (68, 1), (72, 128), (128, 0x35)]

/-- A KERNEL entry for it. -/
def kent : List (Nat × Nat) := [(4, 160), (9, 0x10), (20, 1), (24, 1)]

/-- A PREFILL entry of two tokens. -/
def pent : List (Nat × Nat) := [(4, 8), (9, 0x10), (16, 1), (33, 0x20)]

/-- A graph image of one NOP node. -/
def gimg : Bytes := blk 144 [(0, 1), (2, 1), (68, 16)]

/-- `s` with that graph stored as graph 0. -/
def withGraph (s : State) : State := { s with cp := { s.cp with graphs := [(0, { versions := [⟨1, gimg, [1]⟩] })] } }

/-- A NOP node in a phase. -/
def node (m : Option Nat) (p : NodePhase) : GNode := ⟨m, ent 0 [], [], p⟩

/-- A launch of those nodes. -/
def launch (l : List GNode) (f : List Status) : GraphRun := { id := 0, version := 1, nodes := l, failed := f, firstFail := none }

/-- A launch that module 5 sent, which awaits the other modules. -/
def sentHere : RemoteLaunch := { src := 5, st := 0, id := 0, version := 1, nodes := [node none .waiting] }

/-- A module that holds a launch with a node of module 5. -/
def launching : State := withJob up (.stream 0) (job 0x02 (.graph (launch [node (some 5) .waiting, node none .waiting] [])))

/-- A decode record with one committed position. -/
def rec1 : Bytes := blk 128 [(14, 0x80), (15, 0x3F), (20, 5), (33, 0x40), (40, 65), (112, 1), (120, 1)]

/-- Its sequence. -/
def seq1 : Seq := ⟨0x1000, 0, 1, 0, [], none, none, false, [], 0, 0, false, 1, false, 0⟩

/-- A DECODE_LOOP entry for it, in a module that holds both. -/
def decoding : State :=
  let s := withData (served (run 0x0D [(4, 128), (9, 0x10)])) rec1
  { s with md := { s.md with seqs := [seq1] } }

/-- `s` with a configured module barrier 7. -/
def withBar (s : State) (b : Barrier) : State := { s with bcn := { s.bcn with mbar := [(7, b)] } }

/-- A session for slot 3. -/
def sess1 (total : Nat) (chunks : List (Nat × Bytes)) : Session := ⟨9, [], 0, total, chunks, none, [], []⟩

/-- `s` with that session. -/
def withSession (s : State) (x : Session) : State := { s with md := { s.md with slots := s.md.slots.set 3 { session := some x } } }

/-- `s` as the master of a joined group of members that share a load, or as another member. -/
def inGroup (s : State) (casc : BitVec 4) : State := { s with lk := { s.lk with joined := true }, pins := { s.pins with casc := casc } }


/-- `s` with the listed bytes from 0x1000 of die 0 on. -/
def withBytes (s : State) (l : List (Nat × Nat)) : State :=
  { s with mem := { s.mem with mod := l.map fun p => ⟨0x1000 + p.1, BitVec.ofNat 8 p.2⟩ } }

/-- The bytes of a firmware image of 8,192 bytes. -/
def fbytes : List (Nat × Nat) := [(0, 0x52), (1, 0x4F), (2, 0x53), (3, 0x48), (4, 1), (17, 0x20)]

/-- FW_UPDATE with it. -/
def updating : State := withBytes (run 0x8F [(5, 0x20), (9, 0x10)]) fbytes

/-- The state in which it runs, and that image. -/
def updating2 : State := entered updating 0 (head updating)
def fimg : Bytes := dataOf updating2 (head updating).bytes

/-- The bytes of a manifest of a body of 56 bytes for a bundle of one byte. -/
def mbytes : List (Nat × Nat) := [(0, 0x50), (1, 0x45), (2, 0x50), (3, 0x46), (4, 1), (8, 1), (16, 1), (20, 24)]

/-- BUNDLE_BEGIN with it for slot 3. -/
def beginning : State := withBytes (run 0x82 [(4, 0x90), (5, 0x0D), (9, 0x10), (16, 3), (24, 1)]) mbytes

/-- That manifest. -/
def man1 : Bytes := dataOf (openJob beginning 0 (head beginning)) (head beginning).bytes

/-- A publisher key. -/
def key1 : Bytes := [1]

/-- A manifest signed with it, and the module that holds it and a session with that manifest. -/
def man2 : Bytes := blk 56 mbytes ++ sha256 key1 ++ blk 3384 []

/-- BUNDLE_COMMIT of a session with that manifest. -/
def committing (total : Nat) (chunks : List (Nat × Bytes)) : State :=
  let s := withSession (run 0x84 [(16, 9)]) { sess1 total chunks with manifest := man2 }
  { s with boot := { s.boot with keys := [(0, key1)] } }

/-- A slot with a base of one FP16 tensor of two elements. -/
def info2 : ModelInfo := { info1 with tensors := [⟨1, 2, false, 0, [], 0, 0, 0, 0, none, none⟩] }

/-- DELTA_LOAD into slot 1 from that base. -/
def deltaLoading : State :=
  let s := withData (served (run 0x94 [(4, 16), (9, 0x10), (16, 1), (18, 1), (25, 0x20), (32, 8)])) []
  { s with md := { s.md with slots := [(0, { slot1 with gens := [{ gen1 with info := info2 }] })] } }

theorem checkBegin_beginning (h1 : Config.manifestBody (manBody man1) = 56) (h2 : modelBad (Config.manifestModel (manBody man1)) = false) :
    checkBegin (openJob beginning 0 (head beginning)) (head beginning).bytes = none := by
  unfold man1 at h1 h2
  simp only [checkBegin, manifestBad, h1, h2]
  decide +kernel

theorem manSigned_keyed {s : State} (h : ∀ k m g, Config.ed25519Verifies k m g = true ∧ Config.mldsaVerifies k m g = true)
    (hk : s.boot.keys = [(0, key1)]) : manSigned s man2 = true := by
  have e : manKey s man2 = some key1 := by
    unfold manKey
    rw [hk]
    decide +kernel
  unfold manSigned
  rw [e]
  simp [h]


/-- `s` with module tile 255 in that state. -/
def onTile (x : Tile) : State := { up with tiles := [(255, x)] }

/-- A tile whose handle 0 maps a buffer of 8 KiB. -/
def tile0 : Tile := { handles := [(0, { a := 0x8000001000000000 })] }

/-- A fetched TOD of opcode `o` with the listed bytes. -/
def tod (o : Nat) (l : List (Nat × Nat)) : TodSlot :=
  ⟨0, (ent o l).take 32, 0, 0, false, none, false, .fetched, [], [], [], none, false, [], [], [], none, false, false, none⟩

/-- The module with that TOD alone in the window of tile 255. -/
def inWindow (w : TodSlot) : State := onTile { tile0 with window := [w], nextUid := 1 }

/-- An MMA, an ASHIFT and a SOFTMAX of one row. -/
def mma1 : TodSlot := tod 0x10 [(7, 0x22), (8, 1), (10, 1), (14, 1)]
def ashift1 : TodSlot := tod 0x13 [(4, 8), (7, 0x20), (14, 1)]
def softmax1 : TodSlot := tod 0x20 [(8, 1), (12, 1)]

/-- Retained weights of one column. -/
def ret1 : Retained := ⟨0, 2, 1, 1, 0, [⟨List.replicate 128 0, [], false⟩], []⟩

/-- A descriptor of opcode `o` in a phase. -/
def desc (o : Nat) (l : List (Nat × Nat)) (p : DPhase) : DSlot := ⟨ent o l, 0, p, none, false, false, false, 0, [], [], [], [], none⟩

/-- The bytes of a COPY of 64 bytes from 0x1000 to 0x2000 of die 0. -/
def copy1 : List (Nat × Nat) := [(12, 64), (17, 0x10), (25, 0x20), (34, 1)]

/-- The module with channel 3 of engine 0 in that state. -/
def onChan (c : Channel) : State := { up with engines := [(0, { chans := [(3, c)] })] }

/-- The module with a descriptor of opcode `o` in the ring of that channel. -/
def inRing (o : Nat) (l : List (Nat × Nat)) : State := onChan { qEn := true, tail := 1, ring := [(0, ent o l)] }

/-- An access of 64 bytes at address 0. -/
def access (write : Bool) : Access := ⟨0, 0, 64, write, [1], none⟩

/-- A window of every source over its first line or 64 KiB. -/
def win1 : RegPair := { a := 0xE000000000000000, b := 1 }

/-- A tile's sync unit with one request in line of TOD 0. -/
def req (n : Nat) (chk : Bool) : SemReq := ⟨63, n, chk, .tod 255 0⟩


/-- A decode loop of the record at 0x1000. -/
def loop1 (run : Bool) (tree : List TNode) : DLoop := ⟨0x1000, .stream 0, 0, 0, tree, [[]], run, none, [], false, false⟩

/-- The root of a tree. -/
def root : TNode := ⟨0, none, 0, 0⟩

/-- The module with that loop and a pass. -/
def looping (l : List DLoop) (p : Pass) : State :=
  let s := withData (served up) rec1
  { withJob s (.stream 0) (job 0x0D (.decode 0x1000)) with md := { s.md with seqs := [seq1], loops := l, pass := p } }

/-- A pass of slot 0 that runs. -/
def pass1 (mode : Nat) : Pass := { running := true, slot := 0, gen := 1, mode := mode }

/-- A module in a line of seven whose moored slot 0 has a divided head and no free frames. -/
def scoring : State :=
  let s := updDie (looping [loop1 false []] {}) 7 fun x => { x with st := .retired }
  { s with md := { s.md with slots := [(0, { slot1 with mode := 2 })], epoch := { line := some 7 } } }

/-- The module with slot 0 in that state, and 64 free frames of slot 0 on die 0. -/
def slotted (x : Slot) : State := { up with md := { up.md with
  slots := [(0, x)], pools := [(0, (List.range 64).map fun i => 4096 * (i + 1))], poolSet := [(0, (List.range 64).map fun i => 4096 * (i + 1))] } }

/-- An admission of a prompt of two tokens. -/
def admit1 : Admit := ⟨.stream 0, 0x1000, 0x2000, 2⟩

/-- What an allocation gives, if it succeeds. -/
def given (r : Option (Tbl SeqDie × State)) : Tbl SeqDie × State := r.getD ([], up)

/-- A slot with that admission. -/
def admitting : State := slotted { slot1 with admits := [admit1] }

/-- Its allocation. -/
def alloc1 : Tbl SeqDie × State :=
  given (allocAll gen1.info 0 (modeOf admitting 0) (homeDie admitting) (admit1.n + 1) (upDies admitting) (updSlot admitting 0 fun x => { x with admits := x.admits.tail }))

/-- A mapped host-tier window with both uses. -/
def tier1 : TierWin := { mapped := true, len := 0x200000, use_ := 3 }

/-- The module with that window, slot 0, and a sequence, with a running command of it or without. -/
def tiered (q : Seq) (busy : Bool) : State :=
  let s := slotted { slot1 with admits := [admit1] }
  { (if busy then withJob s (.stream 0) (job 0x0D (.decode 0x1000)) else s) with md := { s.md with seqs := [q], tier := [(63, tier1)] } }

/-- A prefill of two tokens in its pass. -/
def prefilling : State :=
  let s := withData (served up) rec1
  { withJob s (.stream 0) { job 0x01 (.prefill 0x1000) with entry := ent 0x01 pent } with
    md := { s.md with seqs := [{ seq1 with prefilling := true }], pass := { pass1 1 with pre := some 0x1000 } } }

/-- `tiered` with those sequences, and a module that may move generation 1 of slot 0 to or from the window. -/
def withSeqs (l : List Seq) : State := { tiered seq1 false with md := { (tiered seq1 false).md with seqs := l } }
def parkable (g : Gen) : State :=
  { withSeqs [] with md := { (withSeqs []).md with slots := [(0, { slot1 with serving := none, gens := [g] })] } }

/-- What the governor measures. -/
def meas1 : Measured := ⟨100, 100, 100, 0, 0, 0, 100⟩

/-- The module in an epoch change. -/
def inEpoch (e : Epoch) : State := { up with md := { up.md with epoch := e }, pw := { pool := 3000 } }

/-- Die 7 prepared. -/
def prep (s : State) (epoch : W32) : State := updDie s 7 fun x => { x with prepared := true, epoch := epoch }

theorem noPrepared : ∀ e, dieUp (inEpoch { phase := .aborting, reverted := [7] }) e = true →
    ((inEpoch { phase := .aborting, reverted := [7] }).dies.get e).prepared = false := by
  intro e _
  rcases Nat.lt_or_ge e 8 with h' | h'
  · have : ∀ e, e < 8 → ((inEpoch { phase := .aborting, reverted := [7] }).dies.get e).prepared = false := by decide +kernel
    exact this e h'
  · have : ∀ l : Tbl DieRegs, (∀ p ∈ l, p.1 < 8) → l.get e = default := by
      intro l hl
      induction l with
      | nil => rfl
      | cons p r ih =>
        have := hl p (by simp)
        simp only [Tbl.get]
        rw [if_neg (by omega)]
        exact ih fun q hq => hl q (by simp [hq])
    rw [this _ (by decide +kernel)]
    rfl

/-- The reference count that the audit finds wrong. -/
def refsFail : AuditFail := ⟨4, 0, 7, none, some 0⟩

/-- A sequence whose next position needs a page that the empty pool of die 0 does not give, and its loop. -/
def seq2 : Seq := { seq1 with dies := [(0, { heads := [0], groups := 0 })] }
def looping2 : State := { looping [loop1 true [root]] (pass1 1) with
  md := { (looping [loop1 true [root]] (pass1 1)).md with seqs := [seq2] } }


/-- The module with cascade barrier 63 in that state. -/
def withCasc (s : State) (b : Barrier) : State := { s with bcn := { s.bcn with cbar := [(63, b)] } }

/-- The module as the root of cascade time. -/
def rootUp : State := { up with bcn := { root := true, margin := 100 } }

/-- The module joined to a cascade as its root, or as member 1 with a route to module 0 by port 2. -/
def joinedRoot : State := { rootUp with lk := { joined := true } }
def joined1 (measured : Bool) : State := { up with
  bcn := { measured := measured, aligned := false }
  pins := { up.pins with casc := 1 }
  lk := { joined := true, members := [(0, { valid := true, hops := 1, port := 2 })], ports := [(2, some { module := 0 })], links := [(5, { st := 3, port := some 2 })] } }

/-- The module with event source `n` in that state. -/
def withSrc (s : State) (n : Nat) (r : Src) : State := { s with evr := { s.evr with srcs := [(n, r)] } }

/-- A pending source of one keeper or of the host. -/
def src1 (m : BitVec 5) : Src := { en := true, pend := true, tmask := m, vec := 63, prio := 3 }

/-- An enabled event queue of 64 entries. -/
def evq1 : HostEvq := { en := true, log2 := 6 }

/-- The module with a pending source of the host and event queue 63. -/
def hostSrc (q : HostEvq) : State :=
  let s := withSrc up 700 (src1 16)
  { s with evr := { s.evr with hostqs := [(63, q)] }, glb := { s.glb with msixOpen := [(63, true)] } }

/-- The module with keeper 3 in that state. -/
def withKeeper (s : State) (k : Keeper) : State := { s with evr := { s.evr with keepers := [(3, k)] } }

/-- A record in a keeper's queue. -/
def krec1 : KRec := ⟨700, 3, false, 1, 5⟩


/-- A frame of kind `k` with the listed header bytes, both CRCs right. -/
def frm (k : Nat) (l : List (Nat × Nat)) (pay : Bytes) : Frame := ⟨sealHdr (blk 24 ((3, 16 * k) :: l)) pay, pay, 0⟩

/-- A model with one exchange of layer 0. -/
def info3 : ModelInfo := { info1 with plan := [{ layer := 0, xid := 0, fmt := 2, cols := 16, sums := 1, dest := 0x10000, sumDest := 0x20000, sems := [] }] }

/-- The module in a pass of slot 0. -/
def inPass (p : Pass) : State := { up with md := { up.md with slots := [(0, { slot1 with gens := [{ gen1 with info := info3 }] })], pass := p } }

/-- A sweep pass of the generation of the last one. -/
def sweep1 : Pass := { pass1 1 with prevGen := 1 }

/-- That module with a frame on the arc from die 0 to die 1, and die 1 changed. -/
def onArc (p : Pass) (f : Frame) (g : DieRegs → DieRegs) : State :=
  updDie (updDie (inPass p) 0 fun x => { x with outE := { q := [f] } }) 1 g

/-- That module with a frame in the east buffer of die 1. -/
def inBuf (p : Pass) (b : RSlot) (r : RingDir → RingDir) : State := updDie (inPass p) 1 fun x => { x with east := r { x.east with buf := [b] } }

/-- A weight frame, a gradient frame and an exchange packet of the pass. -/
def weight1 : Frame := frm 1 [(6, 1)] [1, 2, 3, 4]
def grad1 : Frame := frm 2 [(6, 1)] [1, 2, 3, 4]
def packet1 : Frame := frm 4 [(6, 1)] [1, 2, 3, 4]

/-- The next frame comes after its LAYER buoy. -/
def layered (f : Frame) : State := onArc sweep1 f fun x => { x with east := { prog := [(0, { layers := 1 })] } }

/-- One credit of every kind. -/
def credits1 : Tbl Nat := [(0, 1), (1, 1), (64, 1)]

/-- A sweep pass of a generation with one matrix of 128 rows and 256 columns, whose layer die 1 has announced eastward. -/
def weighed (p : Pass) : State :=
  let g := { gen1 with
    info := { info1 with tensors := [⟨2, 32768, true, 0, [], 0, 0, 128, 256, none, none⟩] }
    shards := (List.range 8).map fun d => (d, ⟨[0x2000], [0], true, false, []⟩) }
  updDie { up with md := { up.md with slots := [(0, { slot1 with gens := [g] })], pass := p } } 1 fun x =>
    { x with east := { credits := credits1, ownLayer := 1 } }

/-- A moored pass of one row, the exchange's plan, and the exchange with every contribution. -/
def moored1 : Pass := { pass1 2 with rows := 1, span := 1 }
def plan1 : XPlan := { layer := 0, xid := 0, fmt := 2, cols := 16, sums := 1, dest := 0x10000, sumDest := 0x20000, sems := [] }
def wholeX : XRun := { newXRun 0 0 with placed := (List.range 8).map fun d => (d, 0), sums := (List.range 8).map fun d => (d, 0, [0, 0, 0, 0]) }

/-- That packet as die 1 sends it. -/
def packet2 : Frame := frm 4 [(2, 8), (6, 1)] (List.replicate 16 0)

/-- The moored pass on a line of seven, and a score exchange with every contribution. -/
def lined : State :=
  let s := updDie (inPass moored1) 7 fun x => { x with st := .retired }
  { s with md := { s.md with epoch := { line := some 7 } } }
def scoreX : XRun := { newXRun 0 14 with sums := [(0, 0, List.replicate 4 0), (1, 0, List.replicate 8 0)] }

/-- A characteristic frame with the listed bytes, its CRC right. -/
def chf (l : List (Nat × Nat)) : Bytes := let b := blk 60 l; b ++ leBytes 4 (crc32c b).toNat

/-- A module's frame of this version and of another, with HEARD set: module 2 of the group, link 1, SERIAL 9. -/
def chf1 : Bytes := chf [(0, 2), (3, 2), (4, 1), (5, 8), (16, 9)]
def chf3 : Bytes := chf [(0, 3), (3, 2), (4, 1), (5, 8), (16, 9)]

/-- The module with link 4 so. -/
def link4 (l : Link) : State := updLink up 4 fun _ => l

/-- The module with link 5 in port 2 and that port so. -/
def port2 (q : Port) : State := { up with lk := { up.lk with ports := [(2, some q)], links := [(5, { st := 3, port := some 2 })] } }

/-- A message to this module. -/
def msg1 (kind : Nat) (seq : BitVec 16) : Msg := ⟨seq, false, 8, 0, kind, [0]⟩

/-- The module joined as module 0, with member 3 so. -/
def memb (r : Member) : State := { port2 {} with lk := { (port2 {}).lk with joined := true, members := [(3, r)] } }

/-- An entry of a member message for member 3. -/
def mrow (hb hops : Nat) : MemberRow := ⟨3, hb, hops, false, false, 0, 0⟩

/-- A module in MIRROR, and the log entry of a DECODE_LOOP and of a CREATE. -/
def mirrored : State := { up with lk := { up.lk with twin := .mirror } }
def tlog (l : List (Nat × Nat)) (o : Nat) : TwinLog := ⟨ent o l, [], none⟩

/-- Nothing found at start-up. -/
def found0 : SelfTest := ⟨[], [], [], [], []⟩

/-- The same frame with SERIAL 10: the module's own SERIAL is open (Config.serial), and one of the two is not it. -/
def chf2 : Bytes := chf [(0, 2), (3, 2), (4, 1), (5, 8), (16, 10)]

/-- Link 4 after two frames of that peer, and with the third. -/
def heard2 (f : Bytes) : State := link4 { st := 2, cand := some (framePeer f), consec := 2 }
def heard3 (f : Bytes) : State := updLink (heard2 f) 4 fun l => { l with heard := true, cand := some (framePeer f), consec := l.consec + 1 }

theorem held_chf1 (h : (framePeer chf1).serial ≠ ownSerial) : holdCause (heard3 chf1) 4 (framePeer chf1) = 0 := by
  unfold holdCause
  rw [decide_eq_false h]
  decide +kernel

theorem held_chf2 (h : (framePeer chf2).serial ≠ ownSerial) : holdCause (heard3 chf2) 4 (framePeer chf2) = 0 := by
  unfold holdCause
  rw [decide_eq_false h]
  decide +kernel

/-- The module with die stack 0 so. -/
def withTok (t : Tok) : State := { up with pw := { up.pw with toks := [(0, t)] } }

/-- Die stack 0 with every context stalled and die stack 1 throttled. -/
def stalled : State := { up with
  pw := { up.pw with toks := [(0, { held := 200 }), (1, { held := 120, thr := 4 })] }
  tiles := [(0, { ctxs := [(0, { active := true, wait := true })] })] }

/-- The module held by the loss of its clock, and with the PERST# pin not yet seen. -/
def pllHeld : State := { up with pins := { up.pins with pllHold := true } }
def perstLow : State := { up with pins := { up.pins with perst := true } }

/-- The module in a reset of level `l`, and one not ready. -/
def inReset (l : Nat) : State := { up with hq := { up.hq with ready := false }, glb := { up.glb with reset := some ⟨l, 0, 0⟩ } }
def notReady : State := { up with hq := { up.hq with ready := false } }

/-- The module with those dies in a level-3 reset. -/
def dieReset (l : List Nat) : State := { up with glb := { up.glb with dieResets := l } }

/-- The module in recovery with that operation. -/
def recovering (o : Option RecOp) (w : RecOwner) : State := { notReady with boot := { up.boot with recovery := true, recOp := o, recOwner := w }, pins := { up.pins with ip := 1 } }

/-- The module with that security operation, and with a key slot 3 enrolled. -/
def securing (o : Option SecOp) : State := { up with boot := { up.boot with secOp := o } }
def keyed : State := { up with boot := { up.boot with keys := [(3, [1])] } }

/-- The module with the keys locked. -/
def keysLocked : State := { up with boot := { up.boot with keysLock := true } }

/-- The module with the debug lock open, and a fetch that runs. -/
def debugging (busy : Bool) : State := { up with boot := { up.boot with debugOpen := true }, glb := { up.glb with dbgBusy := busy } }

theorem enrolCheck_up (h1 : Config.edKeyDecodes (bytesAt (stagedKey up) 0 32) = true) (h2 : Config.mlKeyDecodes (bytesAt (stagedKey up) 32 1952) = true) :
    enrolCheck up 3 (stagedKey up) = none := by
  have g : ∀ i, up.boot.keys.get i = [] := fun _ => rfl
  have k : up.boot.keysLock = false := rfl
  have o : flashOpen up = true := rfl
  simp [enrolCheck, h1, h2, firstFail, enrolled, g, k, o]

/-- The module with segment 0 of BAR4 so. -/
def seg0 (v : W64) : State := { up with glb := { up.glb with apSegs := [(0, v)] } }

/-- The module with the management port's address and an I3C address. -/
def addressed : State := { up with pins := { up.pins with ip := 5, i3cAddr := [(0, 9)] } }

/-- The module before its start-up is done, its registers in reach. -/
def starting : State := State.reset

/-! ### States and operands that meet the hypotheses of each statement, one for each clause -/

theorem test_hyps_StepRunsFrontCommand :
    (∃ (s : State), s.pending = []) ∧
    (∃ (s : State), s.pending = [] ∧ s.lk.twin ≠ .takeover ∧ s.lk.twin ≠ .detaching ∧ s.pins.hotSwap = true) ∧
    (∃ (s : State), s.pending = [] ∧ s.lk.twin ≠ .takeover ∧ s.lk.twin ≠ .detaching ∧ s.pins.hotSwap = false) :=
  ⟨⟨up, by decide +kernel⟩,
   ⟨up, by decide +kernel⟩,
   ⟨{ up with pins := { up.pins with hotSwap := false } }, by decide +kernel⟩⟩

theorem test_hyps_EveryStepKeepsMemoryCanonical :
    ∃ (s : State) (t : State), MemoryOk s ∧ step s = .next t :=
  ⟨{ up with mem := { host := [(5, 1)], mod := [(7, 2)] }, pins := { up.pins with hotSwap := false } }, { up with mem := { host := [(5, 1)], mod := [(7, 2)] }, pins := { up.pins with hotSwap := false } }, by exact ⟨by unfold MemoryOk; decide, rfl⟩⟩

theorem test_hyps_HostQueueEnablesAndTakesDoorbells :
    (∃ (s : State), barOn s = true ∧ s.hq.en = false ∧ s.hq.ready = true ∧ 6 ≤ s.hq.sqLog2 ∧ s.hq.sqLog2 ≤ 16 ∧ 6 ≤ s.hq.cqLog2 ∧ s.hq.cqLog2 ≤ 18 ∧ s.hq.dlog ≤ 10) ∧
    (∃ (s : State), barOn s = true ∧ s.hq.en = false ∧ ((s.hq.ready = false ∨ s.hq.sqLog2 < 6 ∨ 16 < s.hq.sqLog2 ∨ s.hq.cqLog2 < 6 ∨ 18 < s.hq.cqLog2 ∨ 10 < s.hq.dlog))) ∧
    (∃ (s : State), barOn s = true) ∧
    (∃ (s : State), s.hq.en = false) ∧
    (∃ (s : State), s.hq.en = false ∧ ((∀ st, st < 16 → streamEmpty s st = true))) ∧
    (∃ (s : State) (v : W64), barOn s = true ∧ s.hq.en = true ∧ rfld v 16 0 < 2 * 2 ^ s.hq.sqLog2 ∧ (rfld v 16 0 + 2 * 2 ^ s.hq.sqLog2 - s.hq.sqHead) % (2 * 2 ^ s.hq.sqLog2) ≤ 2 ^ s.hq.sqLog2) ∧
    (∃ (s : State) (v : W64), barOn s = true ∧ s.hq.en = true ∧ ((2 * 2 ^ s.hq.sqLog2 ≤ rfld v 16 0 ∨ 2 ^ s.hq.sqLog2 < (rfld v 16 0 + 2 * 2 ^ s.hq.sqLog2 - s.hq.sqHead) % (2 * 2 ^ s.hq.sqLog2)))) ∧
    (∃ (s : State) (v : W64), barOn s = true ∧ s.hq.en = true ∧ rfld v 18 0 < 2 * 2 ^ s.hq.cqLog2 ∧ (rfld v 18 0 + 2 * 2 ^ s.hq.cqLog2 - s.hq.cqHead) % (2 * 2 ^ s.hq.cqLog2) ≤ (s.hq.cqTail + 2 * 2 ^ s.hq.cqLog2 - s.hq.cqHead) % (2 * 2 ^ s.hq.cqLog2)) ∧
    (∃ (s : State) (v : W64), barOn s = true ∧ s.hq.en = true ∧ ((2 * 2 ^ s.hq.cqLog2 ≤ rfld v 18 0 ∨ (s.hq.cqTail + 2 * 2 ^ s.hq.cqLog2 - s.hq.cqHead) % (2 * 2 ^ s.hq.cqLog2) < (rfld v 18 0 + 2 * 2 ^ s.hq.cqLog2 - s.hq.cqHead) % (2 * 2 ^ s.hq.cqLog2)))) ∧
    (∃ (s : State), s.hq.en = false) :=
  ⟨⟨hq { up.hq with sqLog2 := 6, cqLog2 := 18, dlog := 10 }, by decide +kernel⟩,
   ⟨hq { up.hq with sqLog2 := 17, cqLog2 := 6 }, by decide +kernel⟩,
   ⟨hq { up.hq with en := true }, by decide +kernel⟩,
   ⟨up, by decide +kernel⟩,
   ⟨hq { up.hq with idle := false }, by decide +kernel⟩,
   ⟨hq qOn, 64, by decide +kernel⟩,
   ⟨hq qOn, 65, by decide +kernel⟩,
   ⟨hq { qOn with cqTail := 5 }, 5, by decide +kernel⟩,
   ⟨hq { qOn with cqTail := 5 }, 6, by decide +kernel⟩,
   ⟨up, by decide +kernel⟩⟩

theorem test_hyps_RegionsAndFencesAreWritten :
    (∃ (s : State) (r : Fin 64) (a : W64), blockOn s = true ∧ a.getLsbD 0 = true ∧ 1 ≤ rfld (s.hq.regions.get r.val).b 31 0 ∧ rfld a 63 12 * 4096 + rfld (s.hq.regions.get r.val).b 31 0 * 4096 ≤ 2 ^ 64) ∧
    (∃ (s : State) (r : Fin 64) (a : W64), blockOn s = true ∧ a.getLsbD 0 = true ∧ ((rfld (s.hq.regions.get r.val).b 31 0 = 0 ∨ 2 ^ 64 < rfld a 63 12 * 4096 + rfld (s.hq.regions.get r.val).b 31 0 * 4096))) ∧
    (∃ (s : State) (f : Fin 256), blockOn s = true ∧ fenceNamed s f.val = false) ∧
    (∃ (s : State) (f : Fin 256), blockOn s = true ∧ fenceNamed s f.val = true) :=
  ⟨⟨hq { up.hq with regions := [(63, { b := 1 })] }, 63, 0xFFFFFFFFFFFFF001, by decide +kernel⟩,
   ⟨hq { up.hq with regions := [(63, { b := 2 })] }, 63, 0xFFFFFFFFFFFFF001, by decide +kernel⟩,
   ⟨up, 255, by decide +kernel⟩,
   ⟨run 0x04 [(16, 255)], 255, by decide +kernel⟩⟩

theorem test_hyps_FenceDoorbellAdmitsLargerValues :
    (∃ (s : State) (f : Fin 256) (v : W64), barOn s = true ∧ s.hq.en = true ∧ (s.hq.fences.get f.val).hostSig = true ∧ (s.hq.fences.get f.val).value < v) ∧
    (∃ (s : State) (f : Fin 256) (one : Bool) (v : W64), barOn s = true ∧ s.hq.en = true ∧ (((s.hq.fences.get f.val).hostSig = false ∨ one = false ∨ v ≤ (s.hq.fences.get f.val).value))) ∧
    (∃ (s : State) (f : Fin 256) (v : W64) (w : W64), barOn s = true ∧ s.hq.en = true ∧ (s.hq.fences.get f.val).hostSig = true ∧ (s.hq.fences.get f.val).value < v ∧ ((∀ st : Nat, getJob s (.stream st) = none)) ∧ v < w) ∧
    (∃ (s : State) (f : Fin 256) (v : W64) (w : W64), barOn s = true ∧ s.hq.en = true ∧ (s.hq.fences.get f.val).hostSig = true ∧ (s.hq.fences.get f.val).value < v ∧ ((∀ st : Nat, getJob s (.stream st) = none)) ∧ w ≤ v) :=
  ⟨⟨hq { qOn with fences := [(9, { hostSig := true, value := 6 })] }, 9, 7, by decide +kernel⟩,
   ⟨hq { qOn with fences := [(9, { hostSig := true, value := 7 })] }, 9, true, 7, by decide +kernel⟩,
   ⟨hq { qOn with fences := [(9, { hostSig := true, value := 6 })] }, 9, 7, 8, by exact ⟨by decide, by decide, by decide, by decide, fun _ => rfl, by decide⟩⟩,
   ⟨hq { qOn with fences := [(9, { hostSig := true, value := 6 })] }, 9, 7, 7, by exact ⟨by decide, by decide, by decide, by decide, fun _ => rfl, by decide⟩⟩⟩

theorem test_hyps_EntriesAreFetchedInOrder :
    (∃ (s : State), s.hq.en = true ∧ s.hq.fetchStop = false ∧ s.hq.sqHead ≠ s.hq.sqTail ∧ (s.cp.streams.get (entryStream (hostRead s (sqEntryAddr s s.hq.sqHead) 64))).pending.length < 256) ∧
    (∃ (s : State) (st : Nat), s.hq.en = true ∧ s.hq.fetchStop = false ∧ s.hq.sqHead ≠ s.hq.sqTail ∧ (s.cp.streams.get (entryStream (hostRead s (sqEntryAddr s s.hq.sqHead) 64))).pending.length < 256 ∧ st ≠ entryStream (hostRead s (sqEntryAddr s s.hq.sqHead) 64)) ∧
    (∃ (s : State), s.hq.en = true ∧ s.hq.fetchStop = false ∧ s.hq.sqHead ≠ s.hq.sqTail ∧ 256 ≤ (s.cp.streams.get (entryStream (hostRead s (sqEntryAddr s s.hq.sqHead) 64))).pending.length) ∧
    (∃ (s : State), s.hq.en = true ∧ s.hq.fetchStop = false ∧ s.hq.sqHead ≠ s.hq.sqTail) ∧
    (∃ (s : State) (st : Stream) (c : HeldC) (r : List HeldC), (s.cp.streams.get st.val).held = c :: r ∧ cqFull s = false) ∧
    (∃ (s : State) (st : Stream) (c : HeldC) (r : List HeldC), (s.cp.streams.get st.val).held = c :: r ∧ cqFull s = false ∧ ((c.twin = false ∨ mirrors s = false))) :=
  ⟨⟨hq { qOn with sqTail := 1 }, by decide +kernel⟩,
   ⟨hq { qOn with sqTail := 1 }, 1, by decide +kernel⟩,
   ⟨updStream (hq { qOn with sqTail := 1 }) 0 fun q => { q with pending := (List.range 256).map fun i => ⟨ent 0 [], i⟩ }, by decide +kernel⟩,
   ⟨hq { qOn with sqTail := 1 }, by decide +kernel⟩,
   ⟨updStream (hq qOn) 3 fun q => { q with held := [aHeld] }, 3, aHeld, [], by decide +kernel⟩,
   ⟨updStream (hq qOn) 3 fun q => { q with held := [aHeld] }, 3, aHeld, [], by decide +kernel⟩⟩

theorem test_hyps_CommandsWithoutDataComplete :
    (∃ (s : State) (o : State) (st : Stream) (e : NextEntry), Enters s st 0x00 e o) ∧
    (∃ (s : State) (o : State) (st : Stream) (e : NextEntry), Enters s st 0x04 e o ∧ (o.hq.fences.get (byteN e.bytes 16)).value < param64 e.bytes 24 ∧ (o.hq.fences.get (byteN e.bytes 16)).hostSig = false ∧ (o.hq.fences.get (byteN e.bytes 16)).owner.toNat = st.val) ∧
    (∃ (s : State) (o : State) (st : Stream) (e : NextEntry), Enters s st 0x04 e o ∧ param64 e.bytes 24 ≤ (o.hq.fences.get (byteN e.bytes 16)).value) ∧
    (∃ (s : State) (o : State) (st : Stream) (e : NextEntry), Enters s st 0x05 e o ∧ param64 e.bytes 24 ≤ (o.hq.fences.get (byteN e.bytes 16)).value) ∧
    (∃ (s : State) (o : State) (st : Stream) (e : NextEntry), Enters s st 0x05 e o ∧ (o.hq.fences.get (byteN e.bytes 16)).value < param64 e.bytes 24 ∧ (o.hq.fences.get (byteN e.bytes 16)).hostSig = false ∧ (o.hq.fences.get (byteN e.bytes 16)).owner.toNat = st.val) ∧
    (∃ (s : State) (o : State) (st : Stream) (e : NextEntry), Enters s st 0x05 e o ∧ (o.hq.fences.get (byteN e.bytes 16)).value < param64 e.bytes 24 ∧ (((o.hq.fences.get (byteN e.bytes 16)).hostSig = true ∨ (o.hq.fences.get (byteN e.bytes 16)).owner.toNat ≠ st.val))) ∧
    (∃ (s : State) (st : Stream) (b : Job) (f : Nat) (v : W64), getJob s (.stream st.val) = some b ∧ b.body = .wait f v ∧ (s.hq.fences.get f).hostSig = true) ∧
    (∃ (s : State) (o : State) (st : Stream) (e : NextEntry), Enters s st 0x0B e o ∧ checkTimestamp o e.bytes = none) :=
  ⟨⟨run 0x00 [], entered (run 0x00 []) 0 (head (run 0x00 [])), 0, head (run 0x00 []), by unfold Enters; unfold StartsEntry; decide +kernel⟩,
   ⟨withFence (run 0x04 [(16, 255), (24, 7)]) 255 { value := 6 }, entered (withFence (run 0x04 [(16, 255), (24, 7)]) 255 { value := 6 }) 0 (head (run 0x04 [(16, 255), (24, 7)])), 0, head (run 0x04 [(16, 255), (24, 7)]), by unfold Enters; unfold StartsEntry; decide +kernel⟩,
   ⟨withFence (run 0x04 [(16, 255), (24, 7)]) 255 { value := 7 }, entered (withFence (run 0x04 [(16, 255), (24, 7)]) 255 { value := 7 }) 0 (head (run 0x04 [(16, 255), (24, 7)])), 0, head (run 0x04 [(16, 255), (24, 7)]), by unfold Enters; unfold StartsEntry; decide +kernel⟩,
   ⟨withFence (run 0x05 [(16, 3), (24, 7)]) 3 { value := 7 }, entered (withFence (run 0x05 [(16, 3), (24, 7)]) 3 { value := 7 }) 0 (head (run 0x05 [(16, 3), (24, 7)])), 0, head (run 0x05 [(16, 3), (24, 7)]), by unfold Enters; unfold StartsEntry; decide +kernel⟩,
   ⟨withFence (run 0x05 [(16, 3), (24, 7)]) 3 { value := 6 }, entered (withFence (run 0x05 [(16, 3), (24, 7)]) 3 { value := 6 }) 0 (head (run 0x05 [(16, 3), (24, 7)])), 0, head (run 0x05 [(16, 3), (24, 7)]), by unfold Enters; unfold StartsEntry; decide +kernel⟩,
   ⟨withFence (run 0x05 [(16, 3), (24, 7)]) 3 { value := 6, owner := 1 }, entered (withFence (run 0x05 [(16, 3), (24, 7)]) 3 { value := 6, owner := 1 }) 0 (head (run 0x05 [(16, 3), (24, 7)])), 0, head (run 0x05 [(16, 3), (24, 7)]), by unfold Enters; unfold StartsEntry; decide +kernel⟩,
   ⟨withFence (withJob up (.stream 0) (job 0x05 (.wait 3 7))) 3 { hostSig := true }, 0, job 0x05 (.wait 3 7), 3, 7, by decide +kernel⟩,
   ⟨run 0x0B [(4, 8), (9, 0x10)], entered (run 0x0B [(4, 8), (9, 0x10)]) 0 (head (run 0x0B [(4, 8), (9, 0x10)])), 0, head (run 0x0B [(4, 8), (9, 0x10)]), by unfold Enters; unfold StartsEntry; decide +kernel⟩⟩

theorem test_hyps_NopCompletionEntry :
    ∃ (s : State) (st : Stream) (e : NextEntry), StartsEntry s st 0x00 e ∧ e.depth = 0 ∧ (s.cp.streams.get st.val).frames = [] ∧ cqFull s = false ∧ entryDig e.bytes = false ∧ chansOf s (.stream st.val) = [] ∧ ctxsOf s (.stream st.val) = [] ∧ ((∀ p ∈ s.cp.jobs, ∀ id, p.2.body ≠ .ctl (.graphDelete id))) :=
  ⟨run 0x00 [], 0, head (run 0x00 []), by unfold StartsEntry; exact ⟨by decide +kernel, by decide +kernel, by decide +kernel, by decide +kernel, by decide +kernel, by decide +kernel, by decide +kernel, fun _ h => nomatch h⟩⟩

theorem test_hyps_BranchLoopCallReturn :
    (∃ (s : State) (o : State) (st : Stream) (e : NextEntry) (f : CFrame) (r : List CFrame), Enters s st 0x06 e o ∧ (o.cp.streams.get st.val).frames = f :: r ∧ checkBranch o f e.bytes = none ∧ taken (byteN e.bytes 24) (BitVec.ofNat 64 (leNat (plain (readWord o (param64 e.bytes 16) 8))) &&& param64 e.bytes 40) (param64 e.bytes 32) = true ∧ f.idx < leAt e.bytes 48 4) ∧
    (∃ (s : State) (o : State) (st : Stream) (e : NextEntry) (f : CFrame) (r : List CFrame), Enters s st 0x06 e o ∧ (o.cp.streams.get st.val).frames = f :: r ∧ checkBranch o f e.bytes = none ∧ taken (byteN e.bytes 24) (BitVec.ofNat 64 (leNat (plain (readWord o (param64 e.bytes 16) 8))) &&& param64 e.bytes 40) (param64 e.bytes 32) = true ∧ leAt e.bytes 48 4 ≤ f.idx) ∧
    (∃ (s : State) (o : State) (st : Stream) (e : NextEntry) (f : CFrame) (r : List CFrame), Enters s st 0x06 e o ∧ (o.cp.streams.get st.val).frames = f :: r ∧ checkBranch o f e.bytes = none ∧ taken (byteN e.bytes 24) (BitVec.ofNat 64 (leNat (plain (readWord o (param64 e.bytes 16) 8))) &&& param64 e.bytes 40) (param64 e.bytes 32) = false) ∧
    (∃ (s : State) (st : Stream), (s.cp.streams.get st.val).polling = true) ∧
    (∃ (s : State) (o : State) (st : Stream) (e : NextEntry) (f : CFrame) (r : List CFrame), Enters s st 0x07 e o ∧ (o.cp.streams.get st.val).frames = f :: r ∧ checkLoop f e.bytes = none) ∧
    (∃ (f : CFrame) (l : LoopCtr), f.loops.find? (fun l => l.at_ = f.idx) = some l) ∧
    (∃ (f : CFrame), f.loops.find? (fun l => l.at_ = f.idx) = none) ∧
    (∃ (s : State) (o : State) (st : Stream) (e : NextEntry), Enters s st 0x08 e o ∧ getJob o (.stream st.val) = some (newJob s e) ∧ checkCall o e.depth e.bytes = none) ∧
    (∃ (s : State) (o : State) (st : Stream) (e : NextEntry) (f : CFrame) (r : List CFrame), Enters s st 0x09 e o ∧ (o.cp.streams.get st.val).frames = f :: r) :=
  ⟨⟨inFrame 0x06 [(48, 3)], entered (inFrame 0x06 [(48, 3)]) 0 (head (inFrame 0x06 [(48, 3)])), 0, head (inFrame 0x06 [(48, 3)]), frame1 [], [], by unfold Enters; unfold StartsEntry; decide +kernel⟩,
   ⟨inFrame 0x06 [], entered (inFrame 0x06 []) 0 (head (inFrame 0x06 [])), 0, head (inFrame 0x06 []), frame1 [], [], by unfold Enters; unfold StartsEntry; decide +kernel⟩,
   ⟨inFrame 0x06 [(24, 1)], entered (inFrame 0x06 [(24, 1)]) 0 (head (inFrame 0x06 [(24, 1)])), 0, head (inFrame 0x06 [(24, 1)]), frame1 [], [], by unfold Enters; unfold StartsEntry; decide +kernel⟩,
   ⟨updStream up 15 (fun q => { q with polling := true }), 15, by decide +kernel⟩,
   ⟨inFrame 0x07 [(16, 2)], entered (inFrame 0x07 [(16, 2)]) 0 (head (inFrame 0x07 [(16, 2)])), 0, head (inFrame 0x07 [(16, 2)]), frame1 [], [], by unfold Enters; unfold StartsEntry; decide +kernel⟩,
   ⟨frame1 [⟨1, 0, 0⟩], ⟨1, 0, 0⟩, by decide +kernel⟩,
   ⟨frame1 [], by decide +kernel⟩,
   ⟨run 0x08 [(4, 64), (9, 0x10)], entered (run 0x08 [(4, 64), (9, 0x10)]) 0 (head (run 0x08 [(4, 64), (9, 0x10)])), 0, head (run 0x08 [(4, 64), (9, 0x10)]), by unfold Enters; unfold StartsEntry; decide +kernel⟩,
   ⟨inFrame 0x09 [], entered (inFrame 0x09 []) 0 (head (inFrame 0x09 [])), 0, head (inFrame 0x09 []), frame1 [], [], by unfold Enters; unfold StartsEntry; decide +kernel⟩⟩

theorem test_hyps_ReportsAreWritten :
    (∃ (s : State) (o : State) (st : Stream) (e : NextEntry), Enters s st 0x0C e o ∧ checkDigest o e.bytes = none ∧ anyPois (readWord o (entryAddrW e.bytes) (entryLen e.bytes)) = false) ∧
    (∃ (s : State) (o : State) (st : Stream) (e : NextEntry), Enters s st 0x80 e o ∧ checkReply o e.bytes 4096 65536 false = none) ∧
    (∃ (s : State) (o : State) (st : Stream) (e : NextEntry), Enters s st 0x81 e o ∧ checkReply o e.bytes 8192 65536 false = none) ∧
    (∃ (nonce : Bytes), nonce.length = 32) ∧
    (∃ (s : State) (o : State) (st : Stream) (e : NextEntry), Enters s st 0x8C e o ∧ checkReply o e.bytes 64 65536 false = none ∧ byteN e.bytes 16 = 0) ∧
    (∃ (s : State) (o : State) (st : Stream) (e : NextEntry), Enters s st 0x96 e o) :=
  ⟨⟨run 0x0C [(4, 64), (9, 0x10)], entered (run 0x0C [(4, 64), (9, 0x10)]) 0 (head (run 0x0C [(4, 64), (9, 0x10)])), 0, head (run 0x0C [(4, 64), (9, 0x10)]), by unfold Enters; unfold StartsEntry; decide +kernel⟩,
   ⟨run 0x80 [(5, 0x10), (9, 0x10)], entered (run 0x80 [(5, 0x10), (9, 0x10)]) 0 (head (run 0x80 [(5, 0x10), (9, 0x10)])), 0, head (run 0x80 [(5, 0x10), (9, 0x10)]), by unfold Enters; unfold StartsEntry; decide +kernel⟩,
   ⟨run 0x81 [(5, 0x20), (9, 0x10)], entered (run 0x81 [(5, 0x20), (9, 0x10)]) 0 (head (run 0x81 [(5, 0x20), (9, 0x10)])), 0, head (run 0x81 [(5, 0x20), (9, 0x10)]), by unfold Enters; unfold StartsEntry; decide +kernel⟩,
   ⟨List.replicate 32 1, by decide +kernel⟩,
   ⟨run 0x8C [(4, 64), (9, 0x10)], entered (run 0x8C [(4, 64), (9, 0x10)]) 0 (head (run 0x8C [(4, 64), (9, 0x10)])), 0, head (run 0x8C [(4, 64), (9, 0x10)]), by unfold Enters; unfold StartsEntry; decide +kernel⟩,
   ⟨run 0x96 [], entered (run 0x96 []) 0 (head (run 0x96 [])), 0, head (run 0x96 []), by unfold Enters; unfold StartsEntry; decide +kernel⟩⟩

theorem test_hyps_KernelCommandsStart :
    (∃ (s : State) (o : State) (st : Stream) (e : NextEntry), Enters s st 0x01 e o ∧ byteN e.bytes 16 = 0 ∧ kernelWaits s e.bytes = false ∧ checkKernel o e.bytes = none) ∧
    (∃ (s : State) (o : State) (st : Stream) (e : NextEntry), Enters s st 0x01 e o ∧ getJob o (.stream st.val) = some (newJob s e) ∧ byteN e.bytes 16 = 1 ∧ leaving s = false ∧ checkPrefill o e.bytes = none) ∧
    (∃ (s : State) (o : State) (st : Stream) (e : NextEntry) (k : Nat), Enters s st 0x01 e o ∧ getJob o (.stream st.val) = some (newJob s e) ∧ byteN e.bytes 16 = 1 ∧ leaving s = false ∧ checkPrefill o e.bytes = none ∧ k ≠ pSlot e.bytes) ∧
    (∃ (s : State) (o : State) (st : Stream) (e : NextEntry), Enters s st 0x01 e o ∧ byteN e.bytes 16 = 2 ∧ checkRelease o e.bytes = none ∧ seqOf o (pRec e.bytes) = none ∧ recordBusy (setBody o (.stream st.val) (.release (pRec e.bytes))) (pRec e.bytes) = false ∧ o.lk.twinWaits = []) ∧
    (∃ (s : State) (o : State) (st : Stream) (e : NextEntry), Enters s st 0x01 e o ∧ 2 < byteN e.bytes 16) ∧
    (∃ (s : State) (st : Stream) (e : NextEntry), nextEntry s st.val = some e ∧ ((kernelWaits s e.bytes = true ∨ (leaving s = true ∧ entryOpc e.bytes = 0x01 ∧ byteN e.bytes 16 = 1)))) :=
  ⟨⟨withData (run 0x01 kent) kimg, entered (withData (run 0x01 kent) kimg) 0 (head (run 0x01 kent)), 0, head (run 0x01 kent), by unfold Enters; unfold StartsEntry; decide +kernel⟩,
   ⟨served (run 0x01 pent), entered (served (run 0x01 pent)) 0 (head (run 0x01 pent)), 0, head (run 0x01 pent), by unfold Enters; unfold StartsEntry; decide +kernel⟩,
   ⟨served (run 0x01 pent), entered (served (run 0x01 pent)) 0 (head (run 0x01 pent)), 0, head (run 0x01 pent), 1, by unfold Enters; unfold StartsEntry; decide +kernel⟩,
   ⟨run 0x01 [(16, 2), (33, 0x20)], entered (run 0x01 [(16, 2), (33, 0x20)]) 0 (head (run 0x01 [(16, 2), (33, 0x20)])), 0, head (run 0x01 [(16, 2), (33, 0x20)]), by unfold Enters; unfold StartsEntry; decide +kernel⟩,
   ⟨run 0x01 [(16, 3)], entered (run 0x01 [(16, 3)]) 0 (head (run 0x01 [(16, 3)])), 0, head (run 0x01 [(16, 3)]), by unfold Enters; unfold StartsEntry; decide +kernel⟩,
   ⟨{ (run 0x01 [(16, 1)]) with lk := { up.lk with twin := .detaching } }, 0, head (run 0x01 [(16, 1)]), by decide +kernel⟩⟩

theorem test_hyps_GraphLaunches :
    (∃ (s : State) (o : State) (st : Stream) (e : NextEntry) (v : GVersion), Enters s st 0x02 e o ∧ getJob o (.stream st.val) = some (newJob s e) ∧ checkGraph o e.bytes = none ∧ versionOf o (gId e.bytes) (gVer e.bytes) = some v ∧ launchModules (launchNodes v.image (dataOf o e.bytes) (leAt e.bytes 0 4) (selfModule o) (selfModule o)) = []) ∧
    (∃ (m : Bytes) (args : Bytes) (h : Nat) (l : Nat) (k : Nat) (n : GNode), n ∈ launchNodes m args h l k) ∧
    (∃ (s : State) (st : Stream) (n : Nat) (de : Fin 16) (ch : Chan) (b : Job) (g : GraphRun) (x : GNode), n < 4096 ∧ getJob s (.stream st.val) = some b ∧ b.body = .graph g ∧ g.nodes[n]? = some x ∧ nodeReady g.nodes n = true ∧ g.failed = [] ∧ g.asked = [] ∧ nodeBlocked s x.entry de.val ch.val = false) ∧
    (∃ (s : State) (st : Stream) (n : Nat) (b : Job) (g : GraphRun), n < 4096 ∧ getJob s (.stream st.val) = some b ∧ b.body = .graph g ∧ ((nodeReady g.nodes n = false ∨ g.failed ≠ [] ∨ g.asked ≠ []))) ∧
    (∃ (s : State) (src : Fin 512) (h : W32) (id : BitVec 16) (ver : BitVec 16) (args : Bytes) (v : GVersion), stopped s = false ∧ versionOf s id.toNat ver.toNat = some v ∧ args.length = gArgMax v.image ∧ checkNodes s (launchNodes v.image args h.toNat src.val (selfModule s)) = none) ∧
    (∃ (s : State), stopped s = true) ∧
    (∃ (s : State) (id : BitVec 16) (ver : BitVec 16) (digest : Bytes), stopped s = false ∧ ((∀ v, versionOf s id.toNat ver.toNat = some v → v.digest ≠ digest))) ∧
    (∃ (s : State) (k : Nat) (l : RemoteLaunch), s.cp.remotes.get k = some l ∧ ((l.go = false ∨ l.halted = true))) ∧
    (∃ (s : State) (src : Fin 512) (launcher : Fin 512) (st : Stream) (id : BitVec 16) (edge : Nat) (b : Job) (g : GraphRun), launcher.val = selfModule s ∧ (ownLaunch s st.val id.toNat = some (b, g)) ∧ awaits g.nodes src.val (tokenNode s id.toNat g.version edge) = true ∧ tokenNode s id.toNat g.version edge < 4096) ∧
    (∃ (src : Nat) (g : GraphRun), g.asked = [src]) ∧
    (∃ (g : GraphRun) (x : Status), x ≠ .ok ∧ g.failed = []) :=
  ⟨⟨withGraph (run 0x02 []), entered (withGraph (run 0x02 [])) 0 (head (run 0x02 [])), 0, head (run 0x02 []), ⟨1, gimg, [1]⟩, by unfold Enters; unfold StartsEntry; decide +kernel⟩,
   ⟨gimg, [], 0, 0, 0, node none .waiting, by (show _ ∈ _; decide +kernel)⟩,
   ⟨withJob up (.stream 0) (job 0x02 (.graph (launch [node none .waiting] []))), 0, 0, 0, 0, job 0x02 (.graph (launch [node none .waiting] [])), launch [node none .waiting] [], node none .waiting, by decide +kernel⟩,
   ⟨withJob up (.stream 0) (job 0x02 (.graph (launch [node none .running] []))), 0, 4095, job 0x02 (.graph (launch [node none .running] [])), launch [node none .running] [], by decide +kernel⟩,
   ⟨withGraph up, 1, 0, 0, 1, [], ⟨1, gimg, [1]⟩, by decide +kernel⟩,
   ⟨{ up with dies := [(0, { st := .retired }), (1, { st := .retired })] }, by decide +kernel⟩,
   ⟨up, 0, 1, [], by exact ⟨by decide +kernel, fun v h => by cases (show (none : Option GVersion) = some v from h)⟩⟩,
   ⟨{ up with cp := { up.cp with remotes := [(0, sentHere)] } }, 0, sentHere, by decide +kernel⟩,
   ⟨launching, 5, 0, 0, 0, 0, job 0x02 (.graph (launch [node (some 5) .waiting, node none .waiting] [])), launch [node (some 5) .waiting, node none .waiting] [], by decide +kernel⟩,
   ⟨5, { launch [node (some 5) .waiting, node none .waiting] [] with asked := [5] }, by decide +kernel⟩,
   ⟨launch [node (some 5) .waiting, node none .waiting] [], .engineFault, by decide +kernel⟩⟩

theorem test_hyps_DmaDecodeLoopAndBarrierStart :
    (∃ (s : State) (o : State) (st : Stream) (de : Fin 16) (ch : Chan) (e : NextEntry), Enters s st 0x03 e o ∧ getJob o (.stream st.val) = some (newJob s e) ∧ chanQueued (chanOf s (dmaEngine s e.bytes de.val) ch.val) < 32 ∧ checkDmaCmd o e.bytes (dmaEngine o e.bytes de.val) = none) ∧
    (∃ (s : State) (st : Stream) (de : Fin 16) (ch : Chan) (e : NextEntry), nextEntry s st.val = some e ∧ entryOpc e.bytes = 0x03 ∧ 32 ≤ chanQueued (chanOf s (dmaEngine s e.bytes de.val) ch.val)) ∧
    (∃ (s : State) (o : State) (st : Stream) (e : NextEntry) (q : Seq), Enters s st 0x0D e o ∧ getJob o (.stream st.val) = some (newJob s e) ∧ checkDecode o e.bytes = none ∧ seqOf o (entryAddrW e.bytes) = some q ∧ mirrors o = false) ∧
    (∃ (s : State) (o : State) (st : Stream) (e : NextEntry), Enters s st 0x0A e o ∧ getJob o (.stream st.val) = some (newJob s e) ∧ byteN e.bytes 16 = 0 ∧ byteN e.bytes 17 < 32 ∧ (barOf o false (byteN e.bytes 17)).en = true ∧ (placeEntry (barOf o false (byteN e.bytes 17)) (.job (.stream st.val))).2 = false) ∧
    (∃ (s : State) (o : State) (st : Stream) (e : NextEntry), Enters s st 0x0A e o ∧ byteN e.bytes 16 ≤ 1 ∧ byteN e.bytes 17 ≤ (if byteN e.bytes 16 = 0 then 31 else 63) ∧ (barOf o (decide (byteN e.bytes 16 = 1)) (byteN e.bytes 17)).en = false) :=
  ⟨⟨run 0x03 [(4, 64)], entered (run 0x03 [(4, 64)]) 0 (head (run 0x03 [(4, 64)])), 0, 15, 3, head (run 0x03 [(4, 64)]), by unfold Enters; unfold StartsEntry; decide +kernel⟩,
   ⟨updChan (run 0x03 [(4, 64)]) 15 3 (fun c => { c with tail := 32 }), 0, 15, 3, head (run 0x03 [(4, 64)]), by decide +kernel⟩,
   ⟨decoding, entered (decoding) 0 (head decoding), 0, head decoding, seq1, by unfold Enters; unfold StartsEntry; decide +kernel⟩,
   ⟨withBar (run 0x0A [(17, 7)]) { en := true, expect := 2 }, entered (withBar (run 0x0A [(17, 7)]) { en := true, expect := 2 }) 0 (head (run 0x0A [(17, 7)])), 0, head (run 0x0A [(17, 7)]), by unfold Enters; unfold StartsEntry; decide +kernel⟩,
   ⟨run 0x0A [(16, 1), (17, 63)], entered (run 0x0A [(16, 1), (17, 63)]) 0 (head (run 0x0A [(16, 1), (17, 63)])), 0, head (run 0x0A [(16, 1), (17, 63)]), by unfold Enters; unfold StartsEntry; decide +kernel⟩⟩

theorem test_hyps_SettingsCommandsComplete :
    (∃ (s : State) (o : State) (st : Stream) (e : NextEntry), Enters s st 0x8E e o ∧ ((byteN e.bytes 16 = 1 ∨ byteN e.bytes 16 = 2))) ∧
    (∃ (s : State) (o : State) (st : Stream) (e : NextEntry), Enters s st 0x8E e o ∧ byteN e.bytes 16 = 0) ∧
    (∃ (s : State), s.cp.jobs = [] ∧ s.mem.ecc = []) ∧
    (∃ (s : State) (t : TileNo) (j : JobRef) (b : Job), (s.cp.jobs = [(j, b)]) ∧ b.body = .ctl (.scrubTiles [t.val]) ∧ (s.tiles.get t.val).waiting = []) ∧
    (∃ (s : State) (o : State) (st : Stream) (e : NextEntry), Enters s st 0x97 e o ∧ policyBad e.bytes = false) ∧
    (∃ (s : State) (o : State) (st : Stream) (e : NextEntry) (k : Nat), Enters s st 0x97 e o ∧ policyBad e.bytes = false ∧ k ≠ 2 * rfld (param64 e.bytes 16) 63 56 + fld (byteN e.bytes 32) 7 7) ∧
    (∃ (s : State) (o : State) (st : Stream) (e : NextEntry), Enters s st 0x95 e o ∧ checkTierMap o e.bytes = none ∧ (param64 e.bytes 24).toNat ≠ 0) ∧
    (∃ (s : State) (o : State) (st : Stream) (e : NextEntry), Enters s st 0x8A e o ∧ 1200 ≤ leAt e.bytes 16 2 ∧ leAt e.bytes 16 2 ≤ 3200 ∧ byteN e.bytes 18 ≤ 2) ∧
    (∃ (s : State) (o : State) (st : Stream) (e : NextEntry), Enters s st 0x8A e o ∧ 1200 ≤ leAt e.bytes 16 2 ∧ leAt e.bytes 16 2 ≤ 3200 ∧ byteN e.bytes 18 ≤ 2 ∧ byteN e.bytes 18 ≠ 2) ∧
    (∃ (s : State) (o : State) (st : Stream) (e : NextEntry), Enters s st 0x8B e o ∧ getJob o (.stream st.val) = some (newJob s e) ∧ ((byteN e.bytes 16 ≤ 3 ∧ byteN e.bytes 17 ≤ 1) ∨ (byteN e.bytes 16 = 0xFF ∧ byteN e.bytes 17 = 0))) ∧
    (∃ (s : State) (o : State) (st : Stream) (e : NextEntry), Enters s st 0x8D e o ∧ chanOk (param64 e.bytes 16) = true ∧ exclusiveRuns o (.stream st.val) = false) ∧
    (∃ (s : State) (o : State) (st : Stream) (e : NextEntry), Enters s st 0x8D e o ∧ chanOk (param64 e.bytes 16) = true ∧ exclusiveRuns o (.stream st.val) = true) ∧
    (∃ (s : State) (o : State) (st : Stream) (e : NextEntry), Enters s st 0x87 e o ∧ checkRingConfig o e.bytes = none ∧ byteN e.bytes 16 = 0) ∧
    (∃ (s : State) (o : State) (st : Stream) (e : NextEntry), Enters s st 0x85 e o ∧ checkSwitch o e.bytes = none ∧ (o.md.slots.get (byteN e.bytes 16)).serving = some (BitVec.ofNat 16 (leAt e.bytes 18 2))) ∧
    (∃ (s : State) (o : State) (st : Stream) (e : NextEntry), Enters s st 0x85 e o ∧ checkSwitch o e.bytes = none ∧ (o.md.slots.get (byteN e.bytes 16)).serving ≠ some (BitVec.ofNat 16 (leAt e.bytes 18 2))) :=
  ⟨⟨run 0x8E [(16, 2)], entered (run 0x8E [(16, 2)]) 0 (head (run 0x8E [(16, 2)])), 0, head (run 0x8E [(16, 2)]), by unfold Enters; unfold StartsEntry; decide +kernel⟩,
   ⟨run 0x8E [(20, 1), (24, 3)], entered (run 0x8E [(20, 1), (24, 3)]) 0 (head (run 0x8E [(20, 1), (24, 3)])), 0, head (run 0x8E [(20, 1), (24, 3)]), by unfold Enters; unfold StartsEntry; decide +kernel⟩,
   ⟨up, by decide +kernel⟩,
   ⟨withJob up (.stream 0) (job 0x8E (.ctl (.scrubTiles [255]))), 255, .stream 0, job 0x8E (.ctl (.scrubTiles [255])), by decide +kernel⟩,
   ⟨run 0x97 [(23, 4), (24, 1)], entered (run 0x97 [(23, 4), (24, 1)]) 0 (head (run 0x97 [(23, 4), (24, 1)])), 0, head (run 0x97 [(23, 4), (24, 1)]), by unfold Enters; unfold StartsEntry; decide +kernel⟩,
   ⟨run 0x97 [(23, 4), (24, 1)], entered (run 0x97 [(23, 4), (24, 1)]) 0 (head (run 0x97 [(23, 4), (24, 1)])), 0, head (run 0x97 [(23, 4), (24, 1)]), 3, by unfold Enters; unfold StartsEntry; decide +kernel⟩,
   ⟨run 0x95 [(15, 0x40), (16, 63), (17, 7), (26, 0x20)], entered (run 0x95 [(15, 0x40), (16, 63), (17, 7), (26, 0x20)]) 0 (head (run 0x95 [(15, 0x40), (16, 63), (17, 7), (26, 0x20)])), 0, head (run 0x95 [(15, 0x40), (16, 63), (17, 7), (26, 0x20)]), by unfold Enters; unfold StartsEntry; decide +kernel⟩,
   ⟨run 0x8A [(16, 0xB0), (17, 4), (18, 2)], entered (run 0x8A [(16, 0xB0), (17, 4), (18, 2)]) 0 (head (run 0x8A [(16, 0xB0), (17, 4), (18, 2)])), 0, head (run 0x8A [(16, 0xB0), (17, 4), (18, 2)]), by unfold Enters; unfold StartsEntry; decide +kernel⟩,
   ⟨run 0x8A [(16, 0x80), (17, 12), (18, 1)], entered (run 0x8A [(16, 0x80), (17, 12), (18, 1)]) 0 (head (run 0x8A [(16, 0x80), (17, 12), (18, 1)])), 0, head (run 0x8A [(16, 0x80), (17, 12), (18, 1)]), by unfold Enters; unfold StartsEntry; decide +kernel⟩,
   ⟨run 0x8B [(16, 0xFF)], entered (run 0x8B [(16, 0xFF)]) 0 (head (run 0x8B [(16, 0xFF)])), 0, head (run 0x8B [(16, 0xFF)]), by unfold Enters; unfold StartsEntry; decide +kernel⟩,
   ⟨run 0x8D [(23, 1)], entered (run 0x8D [(23, 1)]) 0 (head (run 0x8D [(23, 1)])), 0, head (run 0x8D [(23, 1)]), by unfold Enters; unfold StartsEntry; decide +kernel⟩,
   ⟨withJob (run 0x8D [(23, 1)]) (.stream 1) (job 0x90 .begun), entered (withJob (run 0x8D [(23, 1)]) (.stream 1) (job 0x90 .begun)) 0 (head (run 0x8D [(23, 1)])), 0, head (run 0x8D [(23, 1)]), by unfold Enters; unfold StartsEntry; decide +kernel⟩,
   ⟨run 0x87 [(5, 1), (9, 0x10)], entered (run 0x87 [(5, 1), (9, 0x10)]) 0 (head (run 0x87 [(5, 1), (9, 0x10)])), 0, head (run 0x87 [(5, 1), (9, 0x10)]), by unfold Enters; unfold StartsEntry; decide +kernel⟩,
   ⟨served (run 0x85 [(18, 1)]), entered (served (run 0x85 [(18, 1)])) 0 (head (run 0x85 [(18, 1)])), 0, head (run 0x85 [(18, 1)]), by unfold Enters; unfold StartsEntry; decide +kernel⟩,
   ⟨{ (served (run 0x85 [(18, 1)])) with md := { up.md with slots := [(0, { slot1 with serving := none })] } }, entered ({ (served (run 0x85 [(18, 1)])) with md := { up.md with slots := [(0, { slot1 with serving := none })] } }) 0 (head (run 0x85 [(18, 1)])), 0, head (run 0x85 [(18, 1)]), by unfold Enters; unfold StartsEntry; decide +kernel⟩⟩

theorem test_hyps_UpdatesAndResetsByCommand :
    (∃ (s : State) (o : State) (st : Stream) (e : NextEntry) (id : Nat), Enters s st 0x92 e o ∧ checkStoreHead o e.bytes = none ∧ checkGImage (dataOf o e.bytes) = none ∧ freeGraph o = some id) ∧
    (∃ (s : State) (o : State) (st : Stream) (e : NextEntry) (l : List (Bytes × Bytes)) (v : GVersion) (p : GParts), Enters s st 0x93 e o ∧ checkPatchHead o e.bytes = none ∧ patchOf (dataOf o e.bytes) = some l ∧ exactVersion o (gId e.bytes) (gVer e.bytes) = some v ∧ isDelete l = false ∧ patchAll (partsOf v.image) l = some p ∧ checkGImage (imageFrom p) = none) ∧
    (∃ (s : State) (o : State) (st : Stream) (e : NextEntry), Enters s st 0x90 e o ∧ byteN e.bytes 16 = 1 ∧ exclusiveRuns o (.stream st.val) = false ∧ resetRefused (finish o (.stream st.val) .ok 0) 1 = false) ∧
    (∃ (s : State) (o : State) (st : Stream) (e : NextEntry), Enters s st 0x90 e o ∧ ((byteN e.bytes 16 = 0 ∨ 4 < byteN e.bytes 16))) ∧
    (∃ (s : State) (o : State) (st : Stream) (e : NextEntry), Enters s st 0x91 e o ∧ getJob o (.stream st.val) = some (newJob s e) ∧ exclusiveRuns o (.stream st.val) = false ∧ o.md.pass.running = true) ∧
    (∃ (s : State) (o : State) (st : Stream) (e : NextEntry), Enters s st 0x86 e o ∧ checkMode o e.bytes = none ∧ byteN e.bytes 17 = 0) ∧
    (∃ (s : State) (o : State) (st : Stream) (e : NextEntry), Enters s st 0x86 e o ∧ checkMode o e.bytes = none ∧ (o.md.slots.get (byteN e.bytes 16)).mode = byteN e.bytes 17 ∧ slotRequested o (byteN e.bytes 16) = false ∧ (o.md.slots.get (byteN e.bytes 16)).settling = false) ∧
    (∃ (s : State) (o : State) (st : Stream) (e : NextEntry), Enters s st 0x86 e o ∧ checkMode o e.bytes = none ∧ byteN e.bytes 17 ≠ 0 ∧ (((o.md.slots.get (byteN e.bytes 16)).mode ≠ byteN e.bytes 17 ∨ slotRequested o (byteN e.bytes 16) = true))) :=
  ⟨⟨withData (run 0x92 [(4, 144), (9, 0x10)]) gimg, entered (withData (run 0x92 [(4, 144), (9, 0x10)]) gimg) 0 (head (run 0x92 [(4, 144), (9, 0x10)])), 0, head (run 0x92 [(4, 144), (9, 0x10)]), 0, by unfold Enters; unfold StartsEntry; decide +kernel⟩,
   ⟨withGraph (withData (run 0x93 [(4, 80), (9, 0x10), (18, 1)]) (blk 80 [(0, 1), (2, 1), (65, 1), (70, 20)])), entered (withGraph (withData (run 0x93 [(4, 80), (9, 0x10), (18, 1)]) (blk 80 [(0, 1), (2, 1), (65, 1), (70, 20)]))) 0 (head (run 0x93 [(4, 80), (9, 0x10), (18, 1)])), 0, head (run 0x93 [(4, 80), (9, 0x10), (18, 1)]), [(blk 8 [(1, 1), (6, 20)], [0])], ⟨1, gimg, [1]⟩, partsOf gimg, by unfold Enters; unfold StartsEntry; decide +kernel⟩,
   ⟨run 0x90 [(16, 1)], entered (run 0x90 [(16, 1)]) 0 (head (run 0x90 [(16, 1)])), 0, head (run 0x90 [(16, 1)]), by unfold Enters; unfold StartsEntry; decide +kernel⟩,
   ⟨run 0x90 [(16, 5)], entered (run 0x90 [(16, 5)]) 0 (head (run 0x90 [(16, 5)])), 0, head (run 0x90 [(16, 5)]), by unfold Enters; unfold StartsEntry; decide +kernel⟩,
   ⟨{ (run 0x91 []) with md := { up.md with pass := { running := true } } }, entered ({ (run 0x91 []) with md := { up.md with pass := { running := true } } }) 0 (head (run 0x91 [])), 0, head (run 0x91 []), by unfold Enters; unfold StartsEntry; decide +kernel⟩,
   ⟨served (run 0x86 []), entered (served (run 0x86 [])) 0 (head (run 0x86 [])), 0, head (run 0x86 []), by unfold Enters; unfold StartsEntry; decide +kernel⟩,
   ⟨served (run 0x86 [(17, 1)]), entered (served (run 0x86 [(17, 1)])) 0 (head (run 0x86 [(17, 1)])), 0, head (run 0x86 [(17, 1)]), by unfold Enters; unfold StartsEntry; decide +kernel⟩,
   ⟨served (run 0x86 [(17, 2)]), entered (served (run 0x86 [(17, 2)])) 0 (head (run 0x86 [(17, 2)])), 0, head (run 0x86 [(17, 2)]), by unfold Enters; unfold StartsEntry; decide +kernel⟩⟩

theorem test_hyps_UpdatesAndResetsByCommand_2 (h : imgSigned updating2 fimg = true) :
    ∃ (s : State) (o : State) (st : Stream) (e : NextEntry), Enters s st 0x8F e o ∧ checkFwUpdate o e.bytes = none ∧ exclusiveRuns o (.stream st.val) = false ∧ checkFwImage o (dataOf o e.bytes) = none ∧ flashOpen o = true :=
  ⟨updating, updating2, 0, head updating, by unfold Enters; unfold StartsEntry; (refine ⟨by decide +kernel, by decide +kernel, by decide +kernel, ?_, by decide +kernel⟩; change checkFwImage updating2 fimg = none; simp [checkFwImage, imgHeaderOk, h, firstFail, show leAt fimg 0 4 = 0x48534F52 from by decide +kernel, show leAt fimg 4 2 = 1 from by decide +kernel, show leAt fimg 12 2 = 0 from by decide +kernel, show imgLen fimg = 8192 from by decide +kernel, show fimg.length = 8192 from by decide +kernel, ceilDiv])⟩

theorem test_hyps_CascadeJoinAndTwinPair :
    (∃ (s : State) (o : State) (st : Stream) (e : NextEntry), Enters s st 0x88 e o ∧ getJob o (.stream st.val) = some (newJob s e) ∧ exclusiveRuns o (.stream st.val) = false ∧ checkJoin o e.bytes = none) ∧
    (∃ (s : State) (o : State) (st : Stream) (e : NextEntry), Enters s st 0x88 e o ∧ getJob o (.stream st.val) = some (newJob s e) ∧ exclusiveRuns o (.stream st.val) = false ∧ checkJoin o e.bytes = none ∧ ((∀ n, n < 24 → (o.lk.links.get n).st ≠ 3 ∧ (o.lk.links.get n).st ≠ 4))) ∧
    (∃ (s : State) (p : JobRef × Job), (s.cp.jobs.find? fun p => match p.2.body with | .ctl .join => true | _ => false) = some p) ∧
    (∃ (s : State) (o : State) (st : Stream) (e : NextEntry), Enters s st 0x89 e o ∧ byteN e.bytes 16 = 0 ∧ exclusiveRuns o (.stream st.val) = false ∧ o.lk.twin = .mirror) ∧
    (∃ (s : State) (o : State) (st : Stream) (p : PartnerReport) (e : NextEntry), Enters s st 0x89 e o ∧ getJob o (.stream st.val) = some (newJob s e) ∧ byteN e.bytes 16 = 0 ∧ exclusiveRuns o (.stream st.val) = false ∧ o.lk.twin = .unpaired ∧ checkPair o p = none ∧ o.lk.partnerPair = false) ∧
    (∃ (s : State) (o : State) (st : Stream) (p : PartnerReport) (e : NextEntry) (x : Status), Enters s st 0x89 e o ∧ byteN e.bytes 16 = 0 ∧ exclusiveRuns o (.stream st.val) = false ∧ o.lk.twin = .unpaired ∧ checkPair o p = some x) ∧
    (∃ (s : State) (o : State) (st : Stream) (e : NextEntry), Enters s st 0x89 e o ∧ byteN e.bytes 16 = 1 ∧ exclusiveRuns o (.stream st.val) = false ∧ o.lk.twin = .unpaired) ∧
    (∃ (s : State) (j : JobRef), s.lk.pairJob = some j ∧ s.lk.twin = .unpaired) :=
  ⟨⟨run 0x88 [], entered (run 0x88 []) 0 (head (run 0x88 [])), 0, head (run 0x88 []), by unfold Enters; unfold StartsEntry; decide +kernel⟩,
   ⟨run 0x88 [], entered (run 0x88 []) 0 (head (run 0x88 [])), 0, head (run 0x88 []), by unfold Enters; unfold StartsEntry; decide +kernel⟩,
   ⟨withJob up (.stream 2) (job 0x88 (.ctl .join)), (.stream 2, job 0x88 (.ctl .join)), by decide +kernel⟩,
   ⟨{ (run 0x89 []) with lk := { up.lk with twin := .mirror } }, entered ({ (run 0x89 []) with lk := { up.lk with twin := .mirror } }) 0 (head (run 0x89 [])), 0, head (run 0x89 []), by unfold Enters; unfold StartsEntry; decide +kernel⟩,
   ⟨{ (run 0x89 []) with lk := { up.lk with joined := true, links := [(0, { st := 3, port := some 7 })], ports := [(7, some { twin := true })] } }, entered ({ (run 0x89 []) with lk := { up.lk with joined := true, links := [(0, { st := 3, port := some 7 })], ports := [(7, some { twin := true })] } }) 0 (head (run 0x89 [])), 0, ⟨true, true⟩, head (run 0x89 []), by unfold Enters; unfold StartsEntry; decide +kernel⟩,
   ⟨run 0x89 [], entered (run 0x89 []) 0 (head (run 0x89 [])), 0, ⟨true, true⟩, head (run 0x89 []), .notReady, by unfold Enters; unfold StartsEntry; decide +kernel⟩,
   ⟨run 0x89 [(16, 1)], entered (run 0x89 [(16, 1)]) 0 (head (run 0x89 [(16, 1)])), 0, head (run 0x89 [(16, 1)]), by unfold Enters; unfold StartsEntry; decide +kernel⟩,
   ⟨{ up with lk := { up.lk with pairJob := some (.stream 0) } }, .stream 0, by decide +kernel⟩⟩

theorem test_hyps_BundleAndDeltaLoads :
    (∃ (s : State) (o : State) (st : Stream) (e : NextEntry) (k : Nat) (x : Session), Enters s st 0x83 e o ∧ checkChunk o e.bytes = none ∧ patternShares o = false ∧ sessionSlot o (bSession e.bytes) = some k ∧ sessionOf o k = some x) ∧
    (∃ (s : State) (o : State) (st : Stream) (e : NextEntry) (k : Nat) (x : Session), Enters s st 0x84 e o ∧ notMaster o = false ∧ sessionSlot o (bSession e.bytes) = some k ∧ sessionOf o k = some x ∧ x.have_ < x.total) ∧
    (∃ (s : State) (o : State) (st : Stream) (e : NextEntry) (k : Nat) (x : Session), Enters s st 0x84 e o ∧ notMaster o = false ∧ sessionSlot o (bSession e.bytes) = some k ∧ sessionOf o k = some x ∧ x.total ≤ x.have_ ∧ verdict o x = .sigFail) ∧
    (∃ (s : State) (k : Fin 8) (x : Session), patternShares s = true ∧ notMaster s = false ∧ sessionOf s k.val = some x ∧ waitingLoad s k.val = none) ∧
    (∃ (s : State) (k : Fin 8) (x : Session), notMaster s = true ∧ sessionOf s k.val = some x) ∧
    (∃ (s : State) (k : Nat), (s.md.slots.get k).gens = []) :=
  ⟨⟨withSession (run 0x83 [(4, 1), (9, 0x10), (16, 9)]) (sess1 1 []), entered (withSession (run 0x83 [(4, 1), (9, 0x10), (16, 9)]) (sess1 1 [])) 0 (head (run 0x83 [(4, 1), (9, 0x10), (16, 9)])), 0, head (run 0x83 [(4, 1), (9, 0x10), (16, 9)]), 3, sess1 1 [], by unfold Enters; unfold StartsEntry; decide +kernel⟩,
   ⟨withSession (run 0x84 [(16, 9)]) (sess1 1 []), entered (withSession (run 0x84 [(16, 9)]) (sess1 1 [])) 0 (head (run 0x84 [(16, 9)])), 0, head (run 0x84 [(16, 9)]), 3, sess1 1 [], by unfold Enters; unfold StartsEntry; decide +kernel⟩,
   ⟨withSession (run 0x84 [(16, 9)]) (sess1 1 [(0, [7])]), entered (withSession (run 0x84 [(16, 9)]) (sess1 1 [(0, [7])])) 0 (head (run 0x84 [(16, 9)])), 0, head (run 0x84 [(16, 9)]), 3, sess1 1 [(0, [7])], by unfold Enters; unfold StartsEntry; decide +kernel⟩,
   ⟨inGroup (withSession up (sess1 1 [(0, [7])])) 0, 3, sess1 1 [(0, [7])], by decide +kernel⟩,
   ⟨inGroup (withSession up (sess1 1 [(0, [7])])) 5, 3, sess1 1 [(0, [7])], by decide +kernel⟩,
   ⟨up, 3, by decide +kernel⟩⟩

theorem test_hyps_BundleAndDeltaLoads_0 (h1 : Config.manifestBody (manBody man1) = 56) (h2 : modelBad (Config.manifestModel (manBody man1)) = false) :
    ∃ (s : State) (o : State) (st : Stream) (e : NextEntry), Enters s st 0x82 e o ∧ checkBegin o e.bytes = none ∧ patternShares o = false :=
  ⟨beginning, entered (beginning) 0 (head beginning), 0, head beginning, by unfold Enters; unfold StartsEntry; (refine ⟨by decide +kernel, checkBegin_beginning h1 h2, by decide +kernel⟩)⟩

theorem test_hyps_BundleAndDeltaLoads_1 (h1 : Config.manifestBody (manBody man1) = 56) (h2 : modelBad (Config.manifestModel (manBody man1)) = false) :
    ∃ (s : State) (o : State) (st : Stream) (e : NextEntry) (k : Nat), Enters s st 0x82 e o ∧ checkBegin o e.bytes = none ∧ patternShares o = false ∧ k ≠ bSlot e.bytes :=
  ⟨beginning, entered (beginning) 0 (head beginning), 0, head beginning, 4, by unfold Enters; unfold StartsEntry; (refine ⟨by decide +kernel, checkBegin_beginning h1 h2, by decide +kernel, by decide +kernel⟩)⟩

theorem test_hyps_BundleAndDeltaLoads_3 (h : ∀ k m g, Config.ed25519Verifies k m g = true ∧ Config.mldsaVerifies k m g = true) :
    ∃ (s : State) (o : State) (st : Stream) (e : NextEntry) (k : Nat) (x : Session), Enters s st 0x84 e o ∧ notMaster o = false ∧ patternShares o = false ∧ sessionSlot o (bSession e.bytes) = some k ∧ sessionOf o k = some x ∧ x.total ≤ x.have_ ∧ verdict o x = .ready ∧ x.restores = none :=
  ⟨committing 0 [], entered (committing 0 []) 0 (head (committing 0 [])), 0, head (committing 0 []), 3, { sess1 0 [] with manifest := man2 }, by unfold Enters; unfold StartsEntry; (refine ⟨by decide +kernel, by decide +kernel, by decide +kernel, by decide +kernel, rfl, by decide +kernel, ?_, by decide +kernel⟩; unfold verdict; rw [show manSigned (entered (committing 0 []) 0 (head (committing 0 []))) man2 = true from manSigned_keyed h rfl]; decide +kernel)⟩

theorem test_hyps_BundleAndDeltaLoads_6 (h : ∀ k m g, Config.ed25519Verifies k m g = true ∧ Config.mldsaVerifies k m g = true) :
    ∃ (s : State) (o : State) (st : Stream) (e : NextEntry) (k : Nat) (x : Session), Enters s st 0x84 e o ∧ notMaster o = false ∧ sessionSlot o (bSession e.bytes) = some k ∧ sessionOf o k = some x ∧ x.total ≤ x.have_ ∧ verdict o x = .digestMismatch :=
  ⟨committing 1 [(0, [7])], entered (committing 1 [(0, [7])]) 0 (head (committing 1 [(0, [7])])), 0, head (committing 1 [(0, [7])]), 3, { sess1 1 [(0, [7])] with manifest := man2 }, by unfold Enters; unfold StartsEntry; (refine ⟨by decide +kernel, by decide +kernel, by decide +kernel, rfl, by decide +kernel, ?_⟩; unfold verdict; rw [show manSigned (entered (committing 1 [(0, [7])]) 0 (head (committing 1 [(0, [7])]))) man2 = true from manSigned_keyed h rfl]; decide +kernel)⟩

theorem test_hyps_BundleAndDeltaLoads_10 (h : ∀ a b, Config.loadFits a b = true) :
    ∃ (s : State) (o : State) (st : Stream) (e : NextEntry) (g : Gen), Enters s st 0x94 e o ∧ checkDelta o e.bytes = none ∧ genOf o (dBase e.bytes) (dBaseGen e.bytes) = some g ∧ anyPois (readWord o (dSource e.bytes) (dSourceLen e.bytes)) = false ∧ anyNonFinite g (plain (readWord o (dSource e.bytes) (dSourceLen e.bytes))) (srcTensors (dataOf o e.bytes)) = false :=
  ⟨deltaLoading, entered (deltaLoading) 0 (head deltaLoading), 0, head deltaLoading, { gen1 with info := info2 }, by unfold Enters; unfold StartsEntry; (refine ⟨by decide +kernel, ?_, by decide +kernel, by decide +kernel, by decide +kernel⟩; simp only [checkDelta, h]; decide +kernel)⟩

theorem test_hyps_BundleAndDeltaLoads_11 (h : ∀ a b, Config.loadFits a b = true) :
    ∃ (s : State) (o : State) (st : Stream) (e : NextEntry) (g : Gen) (w : Option (Nat × Bytes)), Enters s st 0x94 e o ∧ checkDelta o e.bytes = none ∧ genOf o (dBase e.bytes) (dBaseGen e.bytes) = some g ∧ anyPois (readWord o (dSource e.bytes) (dSourceLen e.bytes)) = false ∧ anyNonFinite g (plain (readWord o (dSource e.bytes) (dSourceLen e.bytes))) (srcTensors (dataOf o e.bytes)) = false ∧ anyPois (readWord (rewriteSource { o with free := o.free + 1 } e.bytes w) (dSource e.bytes) (dSourceLen e.bytes)) = false ∧ anyNonFinite g (plain (readWord (rewriteSource { o with free := o.free + 1 } e.bytes w) (dSource e.bytes) (dSourceLen e.bytes))) (srcTensors (dataOf o e.bytes)) = false ∧ sha256 (plain (readWord o (dSource e.bytes) (dSourceLen e.bytes))) ≠ sha256 (plain (readWord (rewriteSource { o with free := o.free + 1 } e.bytes w) (dSource e.bytes) (dSourceLen e.bytes))) :=
  ⟨deltaLoading, entered (deltaLoading) 0 (head deltaLoading), 0, head deltaLoading, { gen1 with info := info2 }, some (0, [1]), by unfold Enters; unfold StartsEntry; (refine ⟨by decide +kernel, ?_, by decide +kernel, by decide +kernel, by decide +kernel, by decide +kernel, by decide +kernel, by decide +kernel⟩; simp only [checkDelta, h]; decide +kernel)⟩

theorem test_hyps_TileQueueSupplies :
    (∃ (s : State) (t : TileNo) (h : Fin 64), dieBlockOn s (t.val / 32) = true ∧ (s.tiles.get t.val).qEn = false ∧ queueOk s t.val h.val = true) ∧
    (∃ (s : State) (t : TileNo) (h : Fin 64), dieBlockOn s (t.val / 32) = true ∧ (s.tiles.get t.val).qEn = false ∧ queueOk s t.val h.val = false) ∧
    (∃ (s : State) (t : TileNo) (tail : BitVec 9), dieBlockOn s (t.val / 32) = true ∧ (tail - (s.tiles.get t.val).head).toNat ≤ 256) ∧
    (∃ (s : State) (t : TileNo) (tail : BitVec 9), dieBlockOn s (t.val / 32) = true ∧ 256 < (tail - (s.tiles.get t.val).head).toNat ∧ s.cp.jobs = []) ∧
    (∃ (s : State) (t : TileNo) (tail : BitVec 9), dieBlockOn s (t.val / 32) = true ∧ 256 < (tail - (s.tiles.get t.val).head).toNat) ∧
    (∃ (s : State) (t : TileNo), tileUp s t.val = true ∧ (s.tiles.get t.val).qEn = true ∧ (s.tiles.get t.val).scrubBusy = false ∧ (s.tiles.get t.val).head ≠ (s.tiles.get t.val).tail ∧ ((s.tiles.get t.val).window.filter fun w => !issued w).length < 16 ∧ queueOk s t.val (s.tiles.get t.val).qHandle.toNat = true ∧ (handleOf s t.val (s.tiles.get t.val).qHandle.toNat).guard = false ∧ (s.tiles.get t.val).dropped.get ((s.tiles.get t.val).head.toNat % 256) = false ∧ ((∀ c, ((s.tiles.get t.val).ctxs.get c).halted = false)) ∧ s.mem.ecc = [] ∧ s.cp.jobs = []) :=
  ⟨⟨onTile tile0, 255, 0, by decide +kernel⟩,
   ⟨onTile { tile0 with handles := [(0, { a := 0x8000000F00000000 })] }, 255, 0, by decide +kernel⟩,
   ⟨up, 255, 256, by decide +kernel⟩,
   ⟨up, 255, 257, by decide +kernel⟩,
   ⟨up, 255, 257, by decide +kernel⟩,
   ⟨onTile { tile0 with qEn := true, tail := 1 }, 255, by exact ⟨by decide +kernel, by decide +kernel, by decide +kernel, by decide +kernel, by decide +kernel, by decide +kernel, by decide +kernel, by decide +kernel, fun _ => rfl, by decide +kernel, by decide +kernel⟩⟩⟩

theorem test_hyps_ArrayTodsCompute :
    (∃ (p : Nat × (TileNo → Nat → Instr)) (s : State) (t : TileNo) (n : Nat) (w : TodSlot), (p ∈ [(0x10, Instr.mma), (0x11, Instr.mmaT), (0x12, Instr.dist)]) ∧ TodReady s t.val n p.1 w ∧ BuffersReady s t.val (arrayReads p.1 w.bytes ((s.tiles.get t.val).ctxs.get w.ctx).key) ∧ s.mem.ecc = []) ∧
    (∃ (p : Nat × (TileNo → Nat → Instr)) (s : State) (t : TileNo) (n : Nat) (w : TodSlot), (p ∈ [(0x10, Instr.mma), (0x11, Instr.mmaT), (0x12, Instr.dist)]) ∧ TodReady s t.val n p.1 w ∧ BuffersReady s t.val (arrayReads p.1 w.bytes ((s.tiles.get t.val).ctxs.get w.ctx).key) ∧ s.mem.ecc = [] ∧ (arrayTod w.bytes).reuse = true) ∧
    (∃ (s : State) (t : TileNo) (n : Nat) (w : TodSlot), TodReady s t.val n 0x13 w ∧ BuffersReady s t.val (arrayReads 0x13 w.bytes ((s.tiles.get t.val).ctxs.get w.ctx).key) ∧ s.mem.ecc = []) :=
  ⟨⟨(0x10, Instr.mma), inWindow mma1, 255, 0, mma1, by unfold TodReady; unfold BuffersReady; (refine ⟨by simp, by decide +kernel, by decide +kernel, by decide +kernel⟩)⟩,
   ⟨(0x10, Instr.mma), onTile { tile0 with window := [{ mma1 with bytes := (ent 0x10 [(5, 0x10), (7, 0x22), (8, 1), (10, 1), (14, 1)]).take 32 }], ret0 := some ret1 }, 255, 0, { mma1 with bytes := (ent 0x10 [(5, 0x10), (7, 0x22), (8, 1), (10, 1), (14, 1)]).take 32 }, by unfold TodReady; unfold BuffersReady; (refine ⟨by simp, by decide +kernel, by decide +kernel, by decide +kernel, by decide +kernel⟩)⟩,
   ⟨onTile { tile0 with window := [ashift1], ret0 := some ret1 }, 255, 0, ashift1, by unfold TodReady; unfold BuffersReady; decide +kernel⟩⟩

theorem test_hyps_VectorTodsCompute :
    (∃ (p : Nat × (TileNo → Nat → Instr)) (s : State) (t : TileNo) (n : Nat) (w : TodSlot), (p ∈ [(0x20, Instr.softmax), (0x21, Instr.rmsnorm), (0x22, Instr.glu), (0x23, Instr.rope), (0x24, Instr.quant), (0x25, Instr.dequant), (0x26, Instr.topk), (0x27, Instr.ewise), (0x28, Instr.convert)]) ∧ TodReady s t.val n p.1 w ∧ BuffersReady s t.val (vecReads p.1 w.bytes ((s.tiles.get t.val).ctxs.get w.ctx).key) ∧ s.mem.ecc = []) ∧
    (∃ (t : Nat) (k : Nat), k ≠ t) :=
  ⟨⟨(0x20, Instr.softmax), inWindow softmax1, 255, 0, softmax1, by unfold TodReady; unfold BuffersReady; (refine ⟨by simp, by decide +kernel, by decide +kernel, by decide +kernel⟩)⟩,
   ⟨0, 1, by decide +kernel⟩⟩

theorem test_hyps_StreamOperandsAreDrawn :
    (∃ (p : Nat × (TileNo → Nat → Instr)) (s : State) (t : TileNo) (n : Nat) (w : TodSlot), (p ∈ [(0x20, Instr.softmax), (0x21, Instr.rmsnorm), (0x22, Instr.glu), (0x23, Instr.rope), (0x24, Instr.quant), (0x25, Instr.dequant), (0x26, Instr.topk), (0x27, Instr.ewise), (0x28, Instr.convert)]) ∧ TodReady s t.val n p.1 w ∧ anyUnfilled s t.val (issueReads s t.val w) = false ∧ s.mem.ecc = [] ∧ (opWord (vecA p.1 w.bytes).word).strm = true ∧ (opWord (vecB p.1 w.bytes).word).strm = false ∧ w.agot.length + ((s.tiles.get t.val).ports.get (opWord (vecA p.1 w.bytes).word).port).length < (vecA p.1 w.bytes).size) ∧
    (∃ (p : Nat × (TileNo → Nat → Instr)) (s : State) (t : TileNo) (n : Nat) (w : TodSlot), (p ∈ [(0x10, Instr.mma), (0x11, Instr.mmaT), (0x12, Instr.dist)]) ∧ TodReady s t.val n p.1 w ∧ anyUnfilled s t.val (issueReads s t.val w) = false ∧ s.mem.ecc = [] ∧ loadsW p.1 (arrayTod w.bytes) = false ∧ (opWord (actOp p.1 w.bytes).word).strm = true ∧ w.agot.length + ((s.tiles.get t.val).ports.get (opWord (actOp p.1 w.bytes).word).port).length < (actOp p.1 w.bytes).size) :=
  ⟨⟨(0x20, Instr.softmax), inWindow (tod 0x20 [(8, 1), (12, 1), (19, 0x80)]), 255, 0, tod 0x20 [(8, 1), (12, 1), (19, 0x80)], by unfold TodReady; (refine ⟨by simp, by decide +kernel, by decide +kernel, by decide +kernel, by decide +kernel⟩)⟩,
   ⟨(0x10, Instr.mma), onTile { tile0 with window := [tod 0x10 [(5, 0x10), (7, 0x22), (8, 1), (10, 1), (14, 1), (23, 0x80)]], ret0 := some ret1 }, 255, 0, tod 0x10 [(5, 0x10), (7, 0x22), (8, 1), (10, 1), (14, 1), (23, 0x80)], by unfold TodReady; (refine ⟨by simp, by decide +kernel, by decide +kernel, by decide +kernel, by decide +kernel⟩)⟩⟩

theorem test_hyps_TodsFaultTheirContext :
    (∃ (p : Nat × (TileNo → Nat → Instr)) (s : State) (t : TileNo) (n : Nat) (c : Nat) (w : TodSlot), (p ∈ [(0x00, Instr.todNop), (0x10, Instr.mma), (0x11, Instr.mmaT), (0x12, Instr.dist), (0x13, Instr.ashift), (0x20, Instr.softmax), (0x21, Instr.rmsnorm), (0x22, Instr.glu), (0x23, Instr.rope), (0x24, Instr.quant), (0x25, Instr.dequant), (0x26, Instr.topk), (0x27, Instr.ewise), (0x28, Instr.convert), (0x30, Instr.semSignal), (0x31, Instr.semWait), (0x33, Instr.event), (0x34, Instr.qwait), (0x35, Instr.taskEnd), (0x36, Instr.srkey)]) ∧ todAt s t.val n = some w ∧ ((todOpc w.bytes = p.1 ∨ unitOf (todOpc w.bytes) = none)) ∧ w.phase = .fetched ∧ issues s t.val w = true ∧ todPwait w.bytes = false ∧ checkTod s t.val w = some c) ∧
    (∃ (w : TodSlot), unitOf (todOpc w.bytes) = none) ∧
    (∃ (s : State) (t v : Nat), s.cp.jobs = [] ∧ s.cp.persists = [] ∧ v ≠ t) :=
  ⟨⟨(0x00, Instr.todNop), inWindow (tod 0xFF []), 255, 0, 1, tod 0xFF [], by (refine ⟨by simp, by decide +kernel, by decide +kernel, by decide +kernel, by decide +kernel, by decide +kernel, by decide +kernel⟩)⟩,
   ⟨tod 0xFF [], by decide +kernel⟩,
   ⟨up, 0, 1, by decide +kernel⟩⟩

theorem test_hyps_TodsWithoutOperandsComplete :
    (∃ (s : State) (t : TileNo) (n : Nat) (w : TodSlot), TodReady s t.val n 0x00 w ∧ todPsig w.bytes = false ∧ todIrq w.bytes = false ∧ w.lastListed = false) ∧
    (∃ (s : State) (t : TileNo) (n : Nat) (w : TodSlot), TodReady s t.val n 0x33 w ∧ todPsig w.bytes = false ∧ todIrq w.bytes = false ∧ w.lastListed = false) ∧
    (∃ (s : State) (t : TileNo) (n : Nat) (w : TodSlot), TodReady s t.val n 0x36 w ∧ todPsig w.bytes = false ∧ todIrq w.bytes = false ∧ w.lastListed = false) ∧
    (∃ (s : State) (t : TileNo) (n : Nat) (w : TodSlot), TodReady s t.val n 0x35 w ∧ todPsig w.bytes = false ∧ todIrq w.bytes = false ∧ s.cp.jobs = []) ∧
    (∃ (s : State) (t : TileNo) (n : Nat) (w : TodSlot), TodReady s t.val n 0x30 w) ∧
    (∃ (s : State) (t : TileNo) (n : Nat) (w : TodSlot), todAt s t.val n = some w ∧ w.phase = .reporting ∧ w.report = some true) ∧
    (∃ (s : State) (t : TileNo) (n : Nat) (w : TodSlot), todAt s t.val n = some w ∧ w.phase = .reporting ∧ w.report = some false) ∧
    (∃ (s : State) (t : TileNo) (n : Nat) (w : TodSlot), todAt s t.val n = some w ∧ w.phase = .reporting ∧ w.report = none) ∧
    (∃ (s : State) (t : TileNo) (n : Nat) (w : TodSlot), todAt s t.val n = some w ∧ w.phase = .computed ∧ (s.tiles.get t.val).scrubBusy = true) ∧
    (∃ (s : State) (t : TileNo) (n : Nat) (w : TodSlot), todAt s t.val n = some w ∧ w.phase = .computed ∧ (s.tiles.get t.val).scrubBusy = false ∧ todPsig w.bytes = false ∧ todIrq w.bytes = false ∧ w.lastListed = false ∧ w.consumed = []) :=
  ⟨⟨inWindow (tod 0x00 []), 255, 0, tod 0x00 [], by unfold TodReady; decide +kernel⟩,
   ⟨inWindow (tod 0x33 [(4, 0xC0), (5, 3)]), 255, 0, tod 0x33 [(4, 0xC0), (5, 3)], by unfold TodReady; decide +kernel⟩,
   ⟨inWindow (tod 0x36 []), 255, 0, tod 0x36 [], by unfold TodReady; decide +kernel⟩,
   ⟨inWindow (tod 0x35 []), 255, 0, tod 0x35 [], by unfold TodReady; decide +kernel⟩,
   ⟨inWindow (tod 0x30 [(4, 255)]), 255, 0, tod 0x30 [(4, 255)], by unfold TodReady; decide +kernel⟩,
   ⟨inWindow { tod 0x30 [(4, 1)] with phase := .reporting, report := some true }, 255, 0, { tod 0x30 [(4, 1)] with phase := .reporting, report := some true }, by decide +kernel⟩,
   ⟨inWindow { tod 0x30 [(4, 1)] with phase := .reporting, report := some false }, 255, 0, { tod 0x30 [(4, 1)] with phase := .reporting, report := some false }, by decide +kernel⟩,
   ⟨inWindow { tod 0x30 [(4, 1)] with phase := .reporting }, 255, 0, { tod 0x30 [(4, 1)] with phase := .reporting }, by decide +kernel⟩,
   ⟨onTile { tile0 with window := [{ softmax1 with phase := .computed }], scrubBusy := true }, 255, 0, { softmax1 with phase := .computed }, by decide +kernel⟩,
   ⟨inWindow { softmax1 with phase := .computed, outs := [(0, (5, false))] }, 255, 0, { softmax1 with phase := .computed, outs := [(0, (5, false))] }, by decide +kernel⟩⟩

theorem test_hyps_SignalIsAppliedWholeOrNotAtAll :
    (∃ (s : State) (t : TileNo) (g : SemSig), (s.tiles.get t.val).inbox = [g] ∧ (s.tiles.get t.val).line = [] ∧ g.job = none ∧ ((s.tiles.get t.val).sems.get g.sem).toNat + g.count ≤ 0xFFFF) ∧
    (∃ (s : State) (t : TileNo) (g : SemSig), (s.tiles.get t.val).inbox = [g] ∧ (s.tiles.get t.val).line = [] ∧ g.job = none ∧ 0xFFFF < ((s.tiles.get t.val).sems.get g.sem).toNat + g.count) ∧
    (∃ (s : State) (t : TileNo) (g : SemSig) (k : Nat), ((s.tiles.get t.val).sems.get g.sem).toNat + g.count ≤ 0xFFFF ∧ k ≠ g.sem) ∧
    (∃ (s : State) (t : TileNo) (g : SemSig), ((s.tiles.get t.val).sems.get g.sem).toNat + g.count ≤ 0xFFFF) ∧
    (∃ (s : State) (t : TileNo) (g : SemSig), 0xFFFF < ((s.tiles.get t.val).sems.get g.sem).toNat + g.count) :=
  ⟨⟨onTile { inbox := [⟨63, 255, .seq 7 (.stream 0), none⟩], sems := [(63, 0xFF00)] }, 255, ⟨63, 255, .seq 7 (.stream 0), none⟩, by decide +kernel⟩,
   ⟨onTile { inbox := [⟨63, 255, .seq 7 (.stream 0), none⟩], sems := [(63, 0xFF01)] }, 255, ⟨63, 255, .seq 7 (.stream 0), none⟩, by decide +kernel⟩,
   ⟨onTile { sems := [(63, 0xFF00)] }, 255, ⟨63, 255, .seq 7 (.stream 0), some (.stream 0)⟩, 62, by decide +kernel⟩,
   ⟨onTile { sems := [(63, 0xFF00)] }, 255, ⟨63, 255, .seq 7 (.stream 0), some (.stream 0)⟩, by decide +kernel⟩,
   ⟨onTile { sems := [(63, 0xFF01)] }, 255, ⟨63, 255, .seq 7 (.stream 0), some (.stream 0)⟩, by decide +kernel⟩⟩

theorem test_hyps_SyncUnitServes :
    (∃ (s : State) (t : TileNo) (n : Nat) (w : TodSlot), TodReady s t.val n 0x31 w) ∧
    (∃ (s : State) (t : TileNo) (sem : Nat) (c : Nat) (d : Nat) (j : JobRef), ((s.tiles.get t.val).inbox = [⟨sem, c, .seq d j, none⟩]) ∧ (s.tiles.get t.val).line = [] ∧ ((s.tiles.get t.val).sems.get sem).toNat + c ≤ 0xFFFF) ∧
    (∃ (s : State) (t : TileNo) (sem : Nat) (c : Nat) (d : Nat) (j : JobRef), ((s.tiles.get t.val).inbox = [⟨sem, c, .seq d j, none⟩]) ∧ (s.tiles.get t.val).line = [] ∧ 0xFFFF < ((s.tiles.get t.val).sems.get sem).toNat + c) ∧
    (∃ (s : State) (t : TileNo) (r : SemReq) (w : TodSlot) (uid : Nat), (s.tiles.get t.val).inbox = [] ∧ (s.tiles.get t.val).line = [r] ∧ r.who = .tod t.val uid ∧ todOf s t.val uid = some w ∧ todPwait w.bytes = false ∧ r.count ≤ ((s.tiles.get t.val).sems.get r.sem).toNat) ∧
    (∃ (s : State) (t : TileNo) (r : SemReq) (w : TodSlot) (uid : Nat), (s.tiles.get t.val).inbox = [] ∧ (s.tiles.get t.val).line = [r] ∧ r.who = .tod t.val uid ∧ todOf s t.val uid = some w ∧ todPwait w.bytes = false ∧ ((s.tiles.get t.val).sems.get r.sem).toNat < r.count ∧ r.checked = false) ∧
    (∃ (s : State) (t : TileNo) (n : Nat) (w : TodSlot), TodReady s t.val n 0x34 w ∧ (s.tiles.get t.val).queues.get (fld (syncWord w.bytes) 3 0) = []) ∧
    (∃ (s : State) (t : TileNo) (n : Nat) (w : TodSlot) (e : QEntry) (r : List QEntry), TodReady s t.val n 0x34 w ∧ (s.tiles.get t.val).queues.get (fld (syncWord w.bytes) 3 0) = e :: r ∧ e.bad = false ∧ e.tcount = 1 ∧ (handleOf s t.val (s.tiles.get t.val).qHandle.toNat).valid = true ∧ (handleOf s t.val (s.tiles.get t.val).qHandle.toNat).guard = false ∧ 32 * (e.tlist + 1) ≤ (handleOf s t.val (s.tiles.get t.val).qHandle.toNat).logical ∧ s.cp.jobs = [] ∧ todPsig w.bytes = false ∧ todIrq w.bytes = false ∧ w.lastListed = false ∧ (s.tiles.get t.val).nextUid ≠ w.uid) ∧
    (∃ (s : State) (t : TileNo) (n : Nat) (w : TodSlot), TodReady s t.val n 0x32 w ∧ ((lends s (t.val / 32) = true ∨ heldBarrier s t.val = none)) ∧ (placeEntry (barOf s false (fld (syncWord w.bytes) 4 0)) (.ctx t.val w.ctx)).2 = false) :=
  ⟨⟨inWindow (tod 0x31 [(4, 1)]), 255, 0, tod 0x31 [(4, 1)], by unfold TodReady; decide +kernel⟩,
   ⟨onTile { inbox := [⟨63, 255, .seq 7 (.stream 0), none⟩], sems := [(63, 0xFF00)] }, 255, 63, 255, 7, .stream 0, by decide +kernel⟩,
   ⟨onTile { inbox := [⟨63, 255, .seq 7 (.stream 0), none⟩], sems := [(63, 0xFF01)] }, 255, 63, 255, 7, .stream 0, by decide +kernel⟩,
   ⟨onTile { line := [req 3 false], sems := [(63, 3)], window := [{ tod 0x31 [(4, 3)] with phase := .stalled }] }, 255, req 3 false, { tod 0x31 [(4, 3)] with phase := .stalled }, 0, by decide +kernel⟩,
   ⟨onTile { line := [req 3 false], sems := [(63, 2)], window := [{ tod 0x31 [(4, 3)] with phase := .stalled }] }, 255, req 3 false, { tod 0x31 [(4, 3)] with phase := .stalled }, 0, by decide +kernel⟩,
   ⟨inWindow (tod 0x34 []), 255, 0, tod 0x34 [], by unfold TodReady; decide +kernel⟩,
   ⟨onTile { tile0 with window := [tod 0x34 []], nextUid := 1, queues := [(0, [⟨0, 1, 0, 0, 0, false⟩])] }, 255, 0, tod 0x34 [], ⟨0, 1, 0, 0, 0, false⟩, [], by unfold TodReady; decide +kernel⟩,
   ⟨withBar (inWindow (tod 0x32 [(4, 7)])) { en := true, expect := 2 }, 255, 0, tod 0x32 [(4, 7)], by unfold TodReady; decide +kernel⟩⟩

theorem test_hyps_HandleAndWindowRegisters :
    (∃ (s : State) (t : TileNo) (h : Fin 64), dieBlockOn s (t.val / 32) = true ∧ handleBusy s t.val h.val = false ∧ (s.tiles.get t.val).heldHandles = []) ∧
    (∃ (s : State) (t : TileNo) (h : Fin 64) (v : W64), dieBlockOn s (t.val / 32) = true ∧ handleBusy s t.val h.val = false ∧ (s.tiles.get t.val).heldHandles = [] ∧ (((handleF { (s.tiles.get t.val).handles.get h.val with a := v &&& handleAMask }).valid = false ∨ (handleF { (s.tiles.get t.val).handles.get h.val with a := v &&& handleAMask }).ok = true))) ∧
    (∃ (s : State) (t : TileNo) (h : Fin 64) (v : W64), dieBlockOn s (t.val / 32) = true ∧ handleBusy s t.val h.val = false ∧ (s.tiles.get t.val).heldHandles = [] ∧ (handleF { (s.tiles.get t.val).handles.get h.val with a := v &&& handleAMask }).valid = true ∧ (handleF { (s.tiles.get t.val).handles.get h.val with a := v &&& handleAMask }).ok = false) ∧
    (∃ (s : State) (t : TileNo) (h : Fin 64), dieBlockOn s (t.val / 32) = true ∧ handleBusy s t.val h.val = true) ∧
    (∃ (s : State) (t : TileNo) (h : Fin 64) (w : Nat × Bool × W64), dieBlockOn s (t.val / 32) = true ∧ w ∈ (s.tiles.get t.val).heldHandles ∧ w.1 = h.val) ∧
    (∃ (s : State) (t : TileNo) (h : Fin 64) (b : Bool) (v : W64), ((s.tiles.get t.val).heldHandles = [(h.val, b, v)]) ∧ handleBusy s t.val h.val = false) ∧
    (∃ (s : State) (t : TileNo), dieBlockOn s (t.val / 32) = true) ∧
    (∃ (s : State) (t : TileNo) (w : Fin 8) (v : W64), dieBlockOn s (t.val / 32) = true ∧ (((v &&& winAMask).getLsbD 63 = false ∨ winOk { (s.tiles.get t.val).wins.get w.val with a := v &&& winAMask } = true))) ∧
    (∃ (s : State) (t : TileNo) (w : Fin 8) (v : W64), dieBlockOn s (t.val / 32) = true ∧ (v &&& winAMask).getLsbD 63 = true ∧ winOk { (s.tiles.get t.val).wins.get w.val with a := v &&& winAMask } = false) ∧
    (∃ (s : State) (d : Die), dieBlockOn s d.val = true) ∧
    (∃ (s : State) (d : Die) (w : Fin 16) (v : W64), dieBlockOn s d.val = true ∧ (((v &&& hbmWinAMask).getLsbD 63 = false ∨ hbmWinOk { (s.dies.get d.val).hbmWins.get w.val with a := v &&& hbmWinAMask } = true))) ∧
    (∃ (s : State) (d : Die) (w : Fin 16) (v : W64), dieBlockOn s d.val = true ∧ (v &&& hbmWinAMask).getLsbD 63 = true ∧ hbmWinOk { (s.dies.get d.val).hbmWins.get w.val with a := v &&& hbmWinAMask } = false) :=
  ⟨⟨up, 255, 63, by decide +kernel⟩,
   ⟨up, 255, 63, 0x9000400000000000, by decide +kernel⟩,
   ⟨up, 255, 63, 0x8000400100000000, by decide +kernel⟩,
   ⟨inWindow { softmax1 with phase := .running }, 255, 0, by decide +kernel⟩,
   ⟨onTile { heldHandles := [(63, true, 0)] }, 255, 63, (63, true, 0), by decide +kernel⟩,
   ⟨onTile { heldHandles := [(63, true, 0)] }, 255, 63, true, 0, by decide +kernel⟩,
   ⟨up, 255, by decide +kernel⟩,
   ⟨onTile { wins := [(7, { b := 1 })] }, 255, 7, 0x8000000000003FFF, by decide +kernel⟩,
   ⟨onTile { wins := [(7, { b := 2 })] }, 255, 7, 0x8000000000003FFF, by decide +kernel⟩,
   ⟨up, 7, by decide +kernel⟩,
   ⟨up, 7, 15, 0, by decide +kernel⟩,
   ⟨up, 7, 15, 0x8000000000000000, by decide +kernel⟩⟩

theorem test_hyps_RemoteAccessesThroughWindows :
    (∃ (s : State) (t : TileNo) (a : Access), (s.tiles.get t.val).scrubBusy = false ∧ dieUp s (t.val / 32) = true ∧ tileAdmits s t.val a.src.toNat a.addr a.len a.write = true ∧ a.write = true) ∧
    (∃ (s : State) (t : TileNo) (a : Access), (s.tiles.get t.val).scrubBusy = false ∧ dieUp s (t.val / 32) = true ∧ tileAdmits s t.val a.src.toNat a.addr a.len a.write = true ∧ a.write = false ∧ s.mem.ecc = []) ∧
    (∃ (s : State) (t : TileNo) (a : Access), (s.tiles.get t.val).scrubBusy = true ∧ dieUp s (t.val / 32) = true ∧ tileAdmits s t.val a.src.toNat a.addr a.len a.write = true) ∧
    (∃ (s : State) (t : TileNo) (a : Access), ((dieUp s (t.val / 32) = false ∨ tileAdmits s t.val a.src.toNat a.addr a.len a.write = false)) ∧ a.origin = none) ∧
    (∃ (s : State) (d : Die) (a : Access), dieUp s d.val = true ∧ hbmAdmits s d.val a.src.toNat a.addr a.len a.write = true ∧ hbmExtent s d.val a.addr a.len = true ∧ a.write = true) ∧
    (∃ (s : State) (d : Die) (a : Access), ((dieUp s d.val = false ∨ hbmAdmits s d.val a.src.toNat a.addr a.len a.write = false ∨ hbmExtent s d.val a.addr a.len = false)) ∧ a.origin = none) ∧
    (∃ (s : State) (t : TileNo) (src : BitVec 12) (addr : Nat) (len : Nat) (write : Bool), dieUp s (t.val / 32) = true ∧ tileAdmits s t.val src.toNat addr len write = true) ∧
    (∃ (s : State) (t : TileNo) (src : BitVec 12) (addr : Nat) (len : Nat) (write : Bool), ((dieUp s (t.val / 32) = false ∨ tileAdmits s t.val src.toNat addr len write = false))) ∧
    (∃ (s : State) (e : EngineNo) (ch : Chan) (d : DSlot), (chanOf s e.val ch.val).prog = [d] ∧ d.phase = .probing ∧ ((∀ x ∈ extents d.bytes, needsProbe s e.val x = true → isLocal s x.w = true → targetAdmits s e.val x = true))) :=
  ⟨⟨onTile { wins := [(7, win1)] }, 255, access true, by decide +kernel⟩,
   ⟨onTile { wins := [(7, win1)] }, 255, access false, by decide +kernel⟩,
   ⟨onTile { wins := [(7, win1)], scrubBusy := true }, 255, access true, by decide +kernel⟩,
   ⟨onTile { wins := [(7, win1)] }, 255, { access true with addr := 449 }, by decide +kernel⟩,
   ⟨updDie up 7 (fun x => { x with hbmWins := [(15, win1)] }), 7, access true, by decide +kernel⟩,
   ⟨up, 7, access true, by decide +kernel⟩,
   ⟨onTile { wins := [(7, win1)] }, 255, 0, 448, 64, true, by decide +kernel⟩,
   ⟨onTile { wins := [(7, win1)] }, 255, 0, 449, 64, true, by decide +kernel⟩,
   ⟨onChan { prog := [desc 1 copy1 .probing] }, 0, 3, desc 1 copy1 .probing, by decide +kernel⟩⟩

theorem test_hyps_DmaChannelRegisters :
    (∃ (s : State) (e : EngineNo), engineBlockOn s e.val = true) ∧
    (∃ (s : State) (e : EngineNo) (ch : Chan) (tail : BitVec 6), engineBlockOn s e.val = true ∧ (tail - (chanOf s e.val ch.val).head).toNat ≤ 32) ∧
    (∃ (s : State) (e : EngineNo) (ch : Chan) (tail : BitVec 6), engineBlockOn s e.val = true ∧ 32 < (tail - (chanOf s e.val ch.val).head).toNat) ∧
    (∃ (s : State) (e : EngineNo) (ch : Chan) (tail : BitVec 6), engineBlockOn s e.val = true ∧ 32 < (tail - (chanOf s e.val ch.val).head).toNat ∧ (chanOf s e.val ch.val).fr.valid = false) ∧
    (∃ (s : State) (e : EngineNo) (ch : Chan) (tail : BitVec 6), engineBlockOn s e.val = true ∧ 32 < (tail - (chanOf s e.val ch.val).head).toNat ∧ (chanOf s e.val ch.val).fr.valid = true) ∧
    (∃ (s : State) (e : EngineNo) (ch : Chan) (d : DSlot) (r : List DSlot), (chanOf s e.val ch.val).prog = d :: r ∧ d.phase = .moved ∧ d.job = none ∧ farHeld s d = false ∧ d.consumed = [] ∧ d.pois = false) ∧
    (∃ (s : State) (e : EngineNo) (ch : Chan) (d : DSlot) (r : List DSlot), (chanOf s e.val ch.val).prog = d :: r ∧ d.phase = .moved ∧ d.job = none ∧ farHeld s d = false ∧ d.consumed = [] ∧ d.pois = false ∧ dPsig d.bytes = true) ∧
    (∃ (s : State) (e : EngineNo) (ch : Chan) (d : DSlot) (r : List DSlot), (chanOf s e.val ch.val).prog = d :: r ∧ d.phase = .moved ∧ d.job = none ∧ farHeld s d = false ∧ d.consumed = [] ∧ d.pois = false ∧ dPsig d.bytes = false) ∧
    (∃ (s : State) (e : EngineNo) (ch : Chan) (d : DSlot) (r : List DSlot), (chanOf s e.val ch.val).prog = d :: r ∧ d.phase = .moved ∧ d.job = none ∧ farHeld s d = false ∧ d.consumed = [] ∧ d.pois = false ∧ dIrq d.bytes = true) ∧
    (∃ (s : State) (e : EngineNo) (ch : Chan) (d : DSlot) (r : List DSlot), (chanOf s e.val ch.val).prog = d :: r ∧ d.phase = .moved ∧ d.job = none ∧ farHeld s d = false ∧ d.consumed = [] ∧ d.pois = false ∧ dIrq d.bytes = false) ∧
    (∃ (s : State) (e : EngineNo) (ch : Chan) (d : DSlot) (r : List DSlot), (chanOf s e.val ch.val).prog = d :: r ∧ ((d.phase ≠ .moved ∨ farHeld s d = true))) :=
  ⟨⟨up, 143, by decide +kernel⟩,
   ⟨up, 143, 3, 32, by decide +kernel⟩,
   ⟨up, 143, 3, 33, by decide +kernel⟩,
   ⟨up, 143, 3, 33, by decide +kernel⟩,
   ⟨onChan { fr := ⟨1, 1, 1, true⟩ }, 0, 3, 33, by decide +kernel⟩,
   ⟨onChan { prog := [desc 1 copy1 .moved] }, 0, 3, desc 1 copy1 .moved, [], by decide +kernel⟩,
   ⟨onChan { prog := [desc 1 [(1, 8), (8, 1)] .moved] }, 0, 3, desc 1 [(1, 8), (8, 1)] .moved, [], by decide +kernel⟩,
   ⟨onChan { prog := [desc 1 copy1 .moved] }, 0, 3, desc 1 copy1 .moved, [], by decide +kernel⟩,
   ⟨onChan { prog := [desc 1 [(3, 4)] .moved] }, 0, 3, desc 1 [(3, 4)] .moved, [], by decide +kernel⟩,
   ⟨onChan { prog := [desc 1 copy1 .moved] }, 0, 3, desc 1 copy1 .moved, [], by decide +kernel⟩,
   ⟨onChan { prog := [desc 1 copy1 .waiting] }, 0, 3, desc 1 copy1 .waiting, [], by decide +kernel⟩⟩

theorem test_hyps_DescriptorsMoveTheirData :
    (∃ (p : Nat × (EngineNo → Chan → Instr)) (s : State) (e : EngineNo) (ch : Chan) (d : DSlot) (c : Nat) (x : Status), (p ∈ [(0x01, Instr.copy), (0x02, Instr.gather), (0x03, Instr.scatter), (0x04, Instr.fill), (0x05, Instr.pagewalk), (0x06, Instr.bond), (0x07, Instr.prefetch)]) ∧ FetchesDesc s e.val ch.val p.1 d ∧ s.cp.jobs = [] ∧ (descCheck s e.val ch.val d = some (c, x)) ∧ d.job = none) ∧
    (∃ (p : Nat × (EngineNo → Chan → Instr)) (s : State) (e : EngineNo) (ch : Chan) (d : DSlot), (p ∈ [(0x01, Instr.copy), (0x02, Instr.gather), (0x03, Instr.scatter), (0x04, Instr.fill), (0x05, Instr.pagewalk), (0x06, Instr.bond), (0x07, Instr.prefetch)]) ∧ FetchesDesc s e.val ch.val p.1 d ∧ s.cp.jobs = [] ∧ descCheck s e.val ch.val d = none ∧ dPwait d.bytes = true) ∧
    (∃ (p : Nat × (EngineNo → Chan → Instr)) (s : State) (e : EngineNo) (ch : Chan) (d : DSlot), (p ∈ [(0x01, Instr.copy), (0x02, Instr.gather), (0x03, Instr.scatter), (0x04, Instr.fill), (0x05, Instr.pagewalk), (0x06, Instr.bond), (0x07, Instr.prefetch)]) ∧ FetchesDesc s e.val ch.val p.1 d ∧ s.cp.jobs = [] ∧ descCheck s e.val ch.val d = none ∧ dPwait d.bytes = false ∧ (extents d.bytes).any (needsProbe s e.val) = true) ∧
    (∃ (p : Nat × (EngineNo → Chan → Instr)) (s : State) (e : EngineNo) (ch : Chan) (d : DSlot), (p ∈ [(0x01, Instr.copy), (0x02, Instr.gather), (0x03, Instr.scatter), (0x04, Instr.fill), (0x05, Instr.pagewalk), (0x06, Instr.bond), (0x07, Instr.prefetch)]) ∧ FetchesDesc s e.val ch.val p.1 d ∧ s.cp.jobs = [] ∧ descCheck s e.val ch.val d = none ∧ dPwait d.bytes = false ∧ (extents d.bytes).any (needsProbe s e.val) = false ∧ moveReady (descTaken s e.val ch.val d) e.val d.bytes (moveOf (descTaken s e.val ch.val d) e.val d.bytes) = false) ∧
    (∃ (p : Nat × (EngineNo → Chan → Instr)) (s : State) (e : EngineNo) (ch : Chan) (d : DSlot) (o : State) (m : Move), (p ∈ [(0x01, Instr.copy), (0x02, Instr.gather), (0x03, Instr.scatter), (0x04, Instr.fill), (0x05, Instr.pagewalk), (0x06, Instr.bond), (0x07, Instr.prefetch)]) ∧ FetchesDesc s e.val ch.val p.1 d ∧ s.cp.jobs = [] ∧ descCheck s e.val ch.val d = none ∧ dPwait d.bytes = false ∧ (extents d.bytes).any (needsProbe s e.val) = false ∧ ((spaceOf (dDst d.bytes) ≠ 2 ∨ p.1 = 0x07)) ∧ s.mem.ecc = [] ∧ o = descTaken s e.val ch.val d ∧ m = moveOf o e.val d.bytes ∧ m.stop = none ∧ moveReady o e.val d.bytes m = true ∧ ((∀ q ∈ m.puts, needsProbe s e.val ⟨q.1, q.2.1, q.2.2.length, true⟩ = false))) ∧
    (∃ (b : Bytes), dOpc b = 0x07) ∧
    (∃ (b : Bytes), dOpc b = 0x04) :=
  ⟨⟨(0x01, Instr.copy), inRing 1 [], 0, 3, desc 1 [] .checked, 4, .lenRange, by unfold FetchesDesc; (refine ⟨by simp, by decide +kernel, by decide +kernel, by decide +kernel, by decide +kernel⟩)⟩,
   ⟨(0x01, Instr.copy), inRing 1 ([(1, 4), (4, 1)] ++ copy1), 0, 3, desc 1 ([(1, 4), (4, 1)] ++ copy1) .checked, by unfold FetchesDesc; (refine ⟨by simp, by decide +kernel, by decide +kernel, by decide +kernel, by decide +kernel⟩)⟩,
   ⟨(0x01, Instr.copy), inRing 1 [(12, 64), (17, 0x10), (29, 3), (30, 1), (34, 1)], 0, 3, desc 1 [(12, 64), (17, 0x10), (29, 3), (30, 1), (34, 1)] .checked, by unfold FetchesDesc; (refine ⟨by simp, by decide +kernel, by decide +kernel, by decide +kernel, by decide +kernel, by decide +kernel⟩)⟩,
   ⟨(0x01, Instr.copy), inRing 1 [(12, 64), (17, 0x10), (22, 1), (25, 0x20), (34, 1)], 0, 3, desc 1 [(12, 64), (17, 0x10), (22, 1), (25, 0x20), (34, 1)] .checked, by unfold FetchesDesc; (refine ⟨by simp, by decide +kernel, by decide +kernel, by decide +kernel, by decide +kernel, by decide +kernel, by decide +kernel⟩)⟩,
   ⟨(0x01, Instr.copy), inRing 1 copy1, 0, 3, desc 1 copy1 .checked, descTaken (inRing 1 copy1) 0 3 (desc 1 copy1 .checked), moveOf (descTaken (inRing 1 copy1) 0 3 (desc 1 copy1 .checked)) 0 (desc 1 copy1 .checked).bytes, by unfold FetchesDesc; (refine ⟨by simp, by decide +kernel, by decide +kernel, by decide +kernel, by decide +kernel, by decide +kernel, by decide +kernel, by decide +kernel, rfl, rfl, by decide +kernel, by decide +kernel, by decide +kernel⟩)⟩,
   ⟨ent 7 [], by decide +kernel⟩,
   ⟨ent 4 [], by decide +kernel⟩⟩

theorem test_hyps_PassesBeginAndEnd :
    (∃ (s : State), s.md.pass.running = true ∧ passOver s = false) ∧
    (∃ (s : State) (b : State) (c : Cand), s.md.pass.running = false ∧ s.md.epoch.phase = .none ∧ s.md.epoch.waiting = [] ∧ b = releasesDue (loopsDue (clockBoundary (stageDue (switchesDue (proposeWaiting (endAbort (endCommit (seatAll (activateRows (endPass s)))))))))) ∧ (proposeWaiting (endAbort (endCommit (seatAll (activateRows (endPass s)))))).md.epoch.phase = .none ∧ mayLaunch b = true ∧ (candidates b).filter (mayStart b) = [c] ∧ ((∀ d ∈ upDies b, ∀ x ∈ (b.dies.get d).east.buf ++ (b.dies.get d).west.buf, x.phase ≠ .held)) ∧ ((b.md.slots.get c.slot).mode ≠ 2 ∨ (takeScore (withPass b c)).isSome = true)) ∧
    (∃ (s : State) (b : State) (c : Cand), s.md.pass.running = false ∧ s.md.epoch.phase = .none ∧ s.md.epoch.waiting = [] ∧ b = releasesDue (loopsDue (clockBoundary (stageDue (switchesDue (proposeWaiting (endAbort (endCommit (seatAll (activateRows (endPass s)))))))))) ∧ (proposeWaiting (endAbort (endCommit (seatAll (activateRows (endPass s)))))).md.epoch.phase = .none ∧ mayLaunch b = true ∧ (candidates b).filter (mayStart b) = [c] ∧ ((∀ d ∈ upDies b, ∀ x ∈ (b.dies.get d).east.buf ++ (b.dies.get d).west.buf, x.phase ≠ .held)) ∧ (b.md.slots.get c.slot).mode = 2 ∧ takeScore (withPass b c) = none) ∧
    (∃ (s : State) (b : State), s.md.pass.running = false ∧ s.md.epoch.phase = .none ∧ s.md.epoch.waiting = [] ∧ b = releasesDue (loopsDue (clockBoundary (stageDue (switchesDue (proposeWaiting (endAbort (endCommit (seatAll (activateRows (endPass s)))))))))) ∧ (proposeWaiting (endAbort (endCommit (seatAll (activateRows (endPass s)))))).md.epoch.phase = .none ∧ (mayLaunch b = false ∨ (candidates b).filter (mayStart b) = [])) :=
  ⟨⟨{ up with md := { up.md with pass := pass1 1 } }, by decide +kernel⟩,
   ⟨looping [loop1 false []] {}, (let s : State := looping [loop1 false []] {}; releasesDue (loopsDue (clockBoundary (stageDue (switchesDue (proposeWaiting (endAbort (endCommit (seatAll (activateRows (endPass s))))))))))), ⟨0, 1, none⟩, by decide +kernel⟩,
   ⟨scoring, (let s : State := scoring; releasesDue (loopsDue (clockBoundary (stageDue (switchesDue (proposeWaiting (endAbort (endCommit (seatAll (activateRows (endPass s))))))))))), ⟨0, 1, none⟩, by decide +kernel⟩,
   ⟨up, (let s : State := up; releasesDue (loopsDue (clockBoundary (stageDue (switchesDue (proposeWaiting (endAbort (endCommit (seatAll (activateRows (endPass s))))))))))), by decide +kernel⟩⟩

theorem test_hyps_VerifyPassesRunAndCommit :
    (∃ (s : State) (ra : W64) (drafts : List (List W32)) (l : DLoop) (q : Seq) (d : Draft), s.mem.ecc = [] ∧ s.md.pass.running = true ∧ s.md.pass.pre = none ∧ ((passLoops s).find? (fun p => p.1.ra = ra) = some (l, q)) ∧ l.running = false ∧ l.lastPass ≠ some s.md.pass.num ∧ d = buildTree (rowSlices s s.md.pass.mode q.home) (recParams (recBytes s l.ra)) (infoOf s q.slot q.gen).draftMap (tmplLevels (passTmpl s l.ra q.tmpl) (ctxLimit (infoOf s q.slot q.gen) (recBytes s l.ra) - 1 - recCommitted (recBytes s l.ra))) (recRoot (recBytes s l.ra)) (recCommitted (recBytes s l.ra)) drafts ∧ s.md.pass.mode = 2 ∧ 2048 < rowsRunning s + d.nodes.length) ∧
    (∃ (s : State) (ra : W64) (drafts : List (List W32)) (l : DLoop) (q : Seq) (d : Draft), s.mem.ecc = [] ∧ s.md.pass.running = true ∧ s.md.pass.pre = none ∧ ((passLoops s).find? (fun p => p.1.ra = ra) = some (l, q)) ∧ l.running = false ∧ l.lastPass ≠ some s.md.pass.num ∧ d = buildTree (rowSlices s s.md.pass.mode q.home) (recParams (recBytes s l.ra)) (infoOf s q.slot q.gen).draftMap (tmplLevels (passTmpl s l.ra q.tmpl) (ctxLimit (infoOf s q.slot q.gen) (recBytes s l.ra) - 1 - recCommitted (recBytes s l.ra))) (recRoot (recBytes s l.ra)) (recCommitted (recBytes s l.ra)) drafts ∧ ((s.md.pass.mode ≠ 2 ∨ rowsRunning s + d.nodes.length ≤ 2048)) ∧ treeOk d.nodes = true) ∧
    (∃ (s : State) (ra : W64) (rows : List LogitRow) (l : DLoop) (q : Seq) (sl : Slices) (w : Walk) (es : List Emit), s.mem.ecc = [] ∧ sl = rowSlices s s.md.pass.mode q.home ∧ loopOf s ra = some l ∧ seqOf s ra = some q ∧ l.running = true ∧ s.md.pass.running = true ∧ w = walkFrom (recParams (recBytes s ra)) l.tree l.qs (fun n => targetDist sl (recParams (recBytes s ra)).temp (recParams (recBytes s ra)).topP (recParams (recBytes s ra)).kc ((rows.getD n default).x)) l.tree.length 0 (recCommitted (recBytes s ra)) ∧ es = cutEmits (infoOf s q.slot q.gen) (recBytes s ra) (emitsOf l.tree (fun n => targetDist sl (recParams (recBytes s ra)).temp (recParams (recBytes s ra)).topP (recParams (recBytes s ra)).kc ((rows.getD n default).x)) (fun n => (rows.getD n default).pois) w) ∧ commitAll (infoOf s q.slot q.gen) q.slot (recCommitted (recBytes s ra)) (w.path.take es.length) q.dies s = none) ∧
    (∃ (s : State) (ra : W64) (rows : List LogitRow) (l : DLoop) (q : Seq) (sl : Slices) (w : Walk) (es : List Emit) (ds : Tbl SeqDie) (s1 : State), s.mem.ecc = [] ∧ sl = rowSlices s s.md.pass.mode q.home ∧ loopOf s ra = some l ∧ seqOf s ra = some q ∧ l.running = true ∧ s.md.pass.running = true ∧ w = walkFrom (recParams (recBytes s ra)) l.tree l.qs (fun n => targetDist sl (recParams (recBytes s ra)).temp (recParams (recBytes s ra)).topP (recParams (recBytes s ra)).kc ((rows.getD n default).x)) l.tree.length 0 (recCommitted (recBytes s ra)) ∧ es = cutEmits (infoOf s q.slot q.gen) (recBytes s ra) (emitsOf l.tree (fun n => targetDist sl (recParams (recBytes s ra)).temp (recParams (recBytes s ra)).topP (recParams (recBytes s ra)).kc ((rows.getD n default).x)) (fun n => (rows.getD n default).pois) w) ∧ (commitAll (infoOf s q.slot q.gen) q.slot (recCommitted (recBytes s ra)) (w.path.take es.length) q.dies s = some (ds, s1)) ∧ s1.md.seqs = s.md.seqs ∧ s1.md.loops = s.md.loops) ∧
    (∃ (s : State), s.md.pass.running = false) :=
  ⟨⟨looping [loop1 false [], { loop1 true (List.replicate 2048 root) with ra := 0x1000 }] (pass1 2), 0x1000, [], loop1 false [], seq1, (let s : State := looping [loop1 false [], { loop1 true (List.replicate 2048 root) with ra := 0x1000 }] (pass1 2); let drafts : List (List W32) := []; let l : DLoop := loop1 false []; let q : Seq := seq1; buildTree (rowSlices s s.md.pass.mode q.home) (recParams (recBytes s l.ra)) (infoOf s q.slot q.gen).draftMap (tmplLevels (passTmpl s l.ra q.tmpl) (ctxLimit (infoOf s q.slot q.gen) (recBytes s l.ra) - 1 - recCommitted (recBytes s l.ra))) (recRoot (recBytes s l.ra)) (recCommitted (recBytes s l.ra)) drafts), by decide +kernel⟩,
   ⟨looping [loop1 false []] (pass1 1), 0x1000, [], loop1 false [], seq1, (let s : State := looping [loop1 false []] (pass1 1); let drafts : List (List W32) := []; let l : DLoop := loop1 false []; let q : Seq := seq1; buildTree (rowSlices s s.md.pass.mode q.home) (recParams (recBytes s l.ra)) (infoOf s q.slot q.gen).draftMap (tmplLevels (passTmpl s l.ra q.tmpl) (ctxLimit (infoOf s q.slot q.gen) (recBytes s l.ra) - 1 - recCommitted (recBytes s l.ra))) (recRoot (recBytes s l.ra)) (recCommitted (recBytes s l.ra)) drafts), by decide +kernel⟩,
   ⟨looping2, 0x1000, [⟨[0, 0x3F800000], false⟩], loop1 true [root], seq2, (let s : State := looping2; let q : Seq := seq2; rowSlices s s.md.pass.mode q.home), (let s : State := looping2; let ra : W64 := 0x1000; let rows : List LogitRow := [⟨[0, 0x3F800000], false⟩]; let l : DLoop := loop1 true [root]; let sl : Slices := (let s : State := looping2; let q : Seq := seq2; rowSlices s s.md.pass.mode q.home); walkFrom (recParams (recBytes s ra)) l.tree l.qs (fun n => targetDist sl (recParams (recBytes s ra)).temp (recParams (recBytes s ra)).topP (recParams (recBytes s ra)).kc ((rows.getD n default).x)) l.tree.length 0 (recCommitted (recBytes s ra))), (let s : State := looping2; let ra : W64 := 0x1000; let rows : List LogitRow := [⟨[0, 0x3F800000], false⟩]; let l : DLoop := loop1 true [root]; let q : Seq := seq2; let sl : Slices := (let s : State := looping2; let q : Seq := seq2; rowSlices s s.md.pass.mode q.home); let w : Walk := (let s : State := looping2; let ra : W64 := 0x1000; let rows : List LogitRow := [⟨[0, 0x3F800000], false⟩]; let l : DLoop := loop1 true [root]; let sl : Slices := (let s : State := looping2; let q : Seq := seq2; rowSlices s s.md.pass.mode q.home); walkFrom (recParams (recBytes s ra)) l.tree l.qs (fun n => targetDist sl (recParams (recBytes s ra)).temp (recParams (recBytes s ra)).topP (recParams (recBytes s ra)).kc ((rows.getD n default).x)) l.tree.length 0 (recCommitted (recBytes s ra))); cutEmits (infoOf s q.slot q.gen) (recBytes s ra) (emitsOf l.tree (fun n => targetDist sl (recParams (recBytes s ra)).temp (recParams (recBytes s ra)).topP (recParams (recBytes s ra)).kc ((rows.getD n default).x)) (fun n => (rows.getD n default).pois) w)), by exact ⟨by decide +kernel, rfl, by decide +kernel, by decide +kernel, by decide +kernel, by decide +kernel, rfl, rfl, by decide +kernel⟩⟩,
   ⟨looping [loop1 true [root]] (pass1 1), 0x1000, [⟨[0, 0x3F800000], false⟩], loop1 true [root], seq1, (let s : State := looping [loop1 true [root]] (pass1 1); let q : Seq := seq1; rowSlices s s.md.pass.mode q.home), (let s : State := looping [loop1 true [root]] (pass1 1); let ra : W64 := 0x1000; let rows : List LogitRow := [⟨[0, 0x3F800000], false⟩]; let l : DLoop := loop1 true [root]; let sl : Slices := (let s : State := looping [loop1 true [root]] (pass1 1); let q : Seq := seq1; rowSlices s s.md.pass.mode q.home); walkFrom (recParams (recBytes s ra)) l.tree l.qs (fun n => targetDist sl (recParams (recBytes s ra)).temp (recParams (recBytes s ra)).topP (recParams (recBytes s ra)).kc ((rows.getD n default).x)) l.tree.length 0 (recCommitted (recBytes s ra))), (let s : State := looping [loop1 true [root]] (pass1 1); let ra : W64 := 0x1000; let rows : List LogitRow := [⟨[0, 0x3F800000], false⟩]; let l : DLoop := loop1 true [root]; let q : Seq := seq1; let sl : Slices := (let s : State := looping [loop1 true [root]] (pass1 1); let q : Seq := seq1; rowSlices s s.md.pass.mode q.home); let w : Walk := (let s : State := looping [loop1 true [root]] (pass1 1); let ra : W64 := 0x1000; let rows : List LogitRow := [⟨[0, 0x3F800000], false⟩]; let l : DLoop := loop1 true [root]; let sl : Slices := (let s : State := looping [loop1 true [root]] (pass1 1); let q : Seq := seq1; rowSlices s s.md.pass.mode q.home); walkFrom (recParams (recBytes s ra)) l.tree l.qs (fun n => targetDist sl (recParams (recBytes s ra)).temp (recParams (recBytes s ra)).topP (recParams (recBytes s ra)).kc ((rows.getD n default).x)) l.tree.length 0 (recCommitted (recBytes s ra))); cutEmits (infoOf s q.slot q.gen) (recBytes s ra) (emitsOf l.tree (fun n => targetDist sl (recParams (recBytes s ra)).temp (recParams (recBytes s ra)).topP (recParams (recBytes s ra)).kc ((rows.getD n default).x)) (fun n => (rows.getD n default).pois) w)), [], looping [loop1 true [root]] (pass1 1), by exact ⟨by decide +kernel, rfl, by decide +kernel, by decide +kernel, by decide +kernel, by decide +kernel, rfl, rfl, by decide +kernel, by decide +kernel, by decide +kernel⟩⟩,
   ⟨up, by decide +kernel⟩⟩

theorem test_hyps_SequencesAreAdmittedAndParked :
    (∃ (s : State) (s1 : State) (k : Fin 8) (a : Admit) (r : List Admit) (g : Gen) (ds : Tbl SeqDie), (s.md.slots.get k.val).admits = a :: r ∧ (s.md.slots.get k.val).settling = false ∧ leaving s = false ∧ servingGen s k.val = some g ∧ (allocAll g.info k.val (modeOf s k.val) (homeDie s) (a.n + 1) (upDies s) (updSlot s k.val fun x => { x with admits := x.admits.tail }) = some (ds, s1))) ∧
    (∃ (s : State) (k : Fin 8) (a : Admit) (r : List Admit) (g : Gen), (s.md.slots.get k.val).admits = a :: r ∧ servingGen s k.val = some g ∧ allocAll g.info k.val (modeOf s k.val) (homeDie s) (a.n + 1) (upDies s) (updSlot s k.val fun x => { x with admits := x.admits.tail }) = none) ∧
    (∃ (s : State) (k : Fin 8) (a : Admit) (r : List Admit), (s.md.slots.get k.val).admits = a :: r ∧ (s.md.slots.get k.val).settling = false ∧ leaving s = false ∧ servingGen s k.val = none) ∧
    (∃ (s : State) (ra : W64) (q : Seq) (j : JobRef), seqOf s ra = some q ∧ jobOfSeq s ra = some j ∧ s.md.pass.running = true ∧ s.md.pass.pre = some ra ∧ q.prefilling = true ∧ prefillLen s j ≤ q.filled + 2048 ∧ mirrors s = false) ∧
    (∃ (s : State) (ra : W64) (w : Fin 64) (q : Seq) (o : Nat), s.mem.ecc = [] ∧ seqOf s ra = some q ∧ (s.md.slots.any fun k => !k.2.admits.isEmpty) = true ∧ q.parked = none ∧ recordNamed s ra = false ∧ ((∀ r ∈ s.md.seqs, recordNamed s r.ra = true → recallSeq s r = none)) ∧ ((∀ r ∈ s.md.seqs, r.parked = none → recordNamed s r.ra = false → q.lastRun.toNat ≤ r.lastRun.toNat)) ∧ (tierWin s w.val).mapped = true ∧ bitN (tierWin s w.val).use_ 0 = true ∧ parkPlace s w.val (parkBytes s q) = some o) ∧
    (∃ (s : State) (s1 : State) (ra : W64) (q : Seq) (w : Nat) (o : Nat) (ds : Tbl SeqDie), seqOf s ra = some q ∧ (q.parked = some (w, o)) ∧ recordNamed s ra = true ∧ (recallDies (infoOf s q.slot q.gen) (tierWin s w) q.slot q.dies s o = some (ds, s1))) ∧
    (∃ (s : State) (ra : W64) (q : Seq) (w : Nat) (o : Nat), seqOf s ra = some q ∧ (q.parked = some (w, o)) ∧ recordNamed s ra = false) ∧
    (∃ (s : State) (ra : W64) (q : Seq) (r : Seq), seqOf s ra = some q ∧ r ∈ s.md.seqs ∧ r.parked = none ∧ recordNamed s r.ra = false ∧ r.lastRun.toNat < q.lastRun.toNat) ∧
    (∃ (s : State) (k : Fin 8) (n : BitVec 16) (w : Fin 64) (g : Gen), s.mem.ecc = [] ∧ genOf s k.val n = some g ∧ g.window = none ∧ (s.md.slots.get k.val).serving ≠ some n ∧ runnablePin s k.val n = false ∧ g.inFlight = 0 ∧ (tierWin s w.val).mapped = true ∧ bitN (tierWin s w.val).use_ 1 = true ∧ windowHeld s w.val = false ∧ imageLen g ≤ (tierWin s w.val).len ∧ placed g = true) ∧
    (∃ (s : State) (k : Fin 8) (n : BitVec 16) (w : Fin 64) (g : Gen) (r : State × Gen), genOf s k.val n = some g ∧ g.window = some w.val ∧ r = layWith s { g with window := none } (imageBytesOf s g (tierWin s w.val)) ∧ placed r.2 = true) ∧
    (∃ (s : State) (k : Fin 8) (n : BitVec 16) (w : Fin 64) (g : Gen) (r : State × Gen), genOf s k.val n = some g ∧ g.window = some w.val ∧ r = layWith s { g with window := none } (imageBytesOf s g (tierWin s w.val)) ∧ placed r.2 = false) :=
  ⟨⟨admitting, alloc1.2, 0, admit1, [], gen1, alloc1.1, by decide +kernel⟩,
   ⟨{ admitting with md := { admitting.md with pools := [] } }, 0, admit1, [], gen1, by decide +kernel⟩,
   ⟨slotted { slot1 with serving := none, admits := [admit1] }, 0, admit1, [], by decide +kernel⟩,
   ⟨prefilling, 0x1000, { seq1 with prefilling := true }, .stream 0, by decide +kernel⟩,
   ⟨tiered seq1 false, 0x1000, 63, seq1, 0, by decide +kernel⟩,
   ⟨tiered { seq1 with parked := some (63, 0) } true, tiered { seq1 with parked := some (63, 0) } true, 0x1000, { seq1 with parked := some (63, 0) }, 63, 0, [], by decide +kernel⟩,
   ⟨tiered { seq1 with parked := some (63, 0) } false, 0x1000, { seq1 with parked := some (63, 0) }, 63, 0, by decide +kernel⟩,
   ⟨withSeqs [{ seq1 with lastRun := 9 }, { seq1 with ra := 0x3000, lastRun := 5 }], 0x1000, { seq1 with lastRun := 9 }, { seq1 with ra := 0x3000, lastRun := 5 }, by decide +kernel⟩,
   ⟨parkable ({ gen1 with shards := (List.range 8).map fun d => (d, ⟨[], [], true, false, []⟩) }), 0, 1, 63, { gen1 with shards := (List.range 8).map fun d => (d, ⟨[], [], true, false, []⟩) }, by decide +kernel⟩,
   ⟨parkable { gen1 with window := some 63 }, 0, 1, 63, { gen1 with window := some 63 }, (let s : State := parkable { gen1 with window := some 63 }; let w : Fin 64 := 63; let g : Gen := { gen1 with window := some 63 }; layWith s { g with window := none } (imageBytesOf s g (tierWin s w.val))), by decide +kernel⟩,
   ⟨updDie (parkable { gen1 with window := some 63 }) 7 (fun x => { x with st := .retired }), 0, 1, 63, { gen1 with window := some 63 }, (let s : State := updDie (parkable { gen1 with window := some 63 }) 7 (fun x => { x with st := .retired }); let w : Fin 64 := 63; let g : Gen := { gen1 with window := some 63 }; layWith s { g with window := none } (imageBytesOf s g (tierWin s w.val))), by decide +kernel⟩⟩

theorem test_hyps_EpochChangesInTwoPhases :
    (∃ (s : State) (k : Fin 8), (servingGen s k.val).isSome = true ∧ pinOf s (s.md.slots.get k.val) ≠ 0) ∧
    (∃ (s : State) (k : Fin 8) (x : Measured) (m : Nat), (servingGen s k.val).isSome = true ∧ proposal s k.val (s.md.slots.get k.val) (estimate s k.val x) (betterNow (s.md.slots.get k.val) (estimate s k.val x)) = some m) ∧
    (∃ (y : Slot) (e : Estimate), 115 * (ratesOf y e).1 ≤ 100 * (ratesOf y e).2) ∧
    (∃ (y : Slot) (e : Estimate), 100 * (ratesOf y e).2 < 115 * (ratesOf y e).1) ∧
    (∃ (s : State) (d : Die) (n : W32), s.md.epoch.phase = .proposed ∧ dieUp s d.val = true ∧ expects s d.val n = true ∧ (s.dies.get d.val).prepared = false ∧ d.val ∉ s.md.epoch.refused ∧ ((s.md.pass.running = false ∨ d.val ∈ s.md.pass.done)) ∧ quietAt s d.val = true ∧ buffersReady s d.val = true) ∧
    (∃ (s : State) (d : Die) (n : W32) (ok : Bool), s.md.epoch.phase = .proposed ∧ dieUp s d.val = true ∧ expects s d.val n = true ∧ (s.dies.get d.val).prepared = false ∧ d.val ∉ s.md.epoch.refused ∧ ((s.md.pass.running = false ∨ d.val ∈ s.md.pass.done)) ∧ quietAt s d.val = true ∧ buffersReady s d.val = true ∧ ok = true) ∧
    (∃ (s : State) (d : Die) (n : W32), n ≠ (s.dies.get d.val).epoch + 1) ∧
    (∃ (s : State) (d : Die), s.md.epoch.phase = .proposed ∧ dieUp s d.val = true ∧ (s.dies.get d.val).prepared = true ∧ d.val ∉ s.md.epoch.prepared ∧ ((∃ e, e < 8 ∧ dieUp s e = true ∧ e ≠ d.val ∧ e ∉ s.md.epoch.prepared))) ∧
    (∃ (s : State) (d : Die), s.md.epoch.phase = .proposed ∧ dieUp s d.val = true ∧ (s.dies.get d.val).prepared = true ∧ d.val ∉ s.md.epoch.prepared ∧ ((∀ e, e < 8 → dieUp s e = true → e = d.val ∨ e ∈ s.md.epoch.prepared)) ∧ s.md.pass.running = false ∧ s.md.freed = [] ∧ auditWith (joinFreed (setEpoch s fun e => { e with prepared := e.prepared ++ [d.val] }) none) (fun x => (s.dies.get x).sums) = []) ∧
    (∃ (s : State) (d : Die), s.md.epoch.phase = .proposed ∧ d.val ∈ s.md.epoch.refused) ∧
    (∃ (s : State), s.md.epoch.phase = .proposed ∧ ((∃ e, e < 8 ∧ dieUp s e = true ∧ e ∉ s.md.epoch.prepared))) ∧
    (∃ (s : State) (e : Nat), s.md.epoch.phase = .proposed ∧ e < 8 ∧ dieUp s e = true ∧ (s.dies.get e).prepared = true) ∧
    (∃ (s : State) (d : Die) (n : W32), s.md.epoch.phase = .committing ∧ dieUp s d.val = true ∧ (s.dies.get d.val).prepared = true ∧ expects s d.val n = true) ∧
    (∃ (s : State) (d : Die), s.md.epoch.phase = .committing ∧ dieUp s d.val = true ∧ (s.dies.get d.val).prepared = false ∧ (s.dies.get d.val).epoch = s.md.epoch.num + 1 ∧ d.val ∉ s.md.epoch.committed ∧ ((∃ e, e < 8 ∧ dieUp s e = true ∧ e ≠ d.val ∧ e ∉ s.md.epoch.committed))) ∧
    (∃ (s : State) (d : Die), s.md.epoch.phase = .committing ∧ dieUp s d.val = true ∧ (s.dies.get d.val).prepared = false ∧ (s.dies.get d.val).epoch = s.md.epoch.num + 1 ∧ d.val ∉ s.md.epoch.committed ∧ ((∀ e, e < 8 → dieUp s e = true → e = d.val ∨ e ∈ s.md.epoch.committed)) ∧ s.md.epoch.reqs = []) ∧
    (∃ (s : State) (d : Die) (n : W32), s.md.epoch.phase = .aborting ∧ dieUp s d.val = true ∧ (s.dies.get d.val).prepared = true ∧ expects s d.val n = true ∧ d.val ∉ s.md.epoch.reverted) ∧
    (∃ (s : State) (d : Die) (n : W32), s.md.epoch.phase = .aborting ∧ dieUp s d.val = true ∧ (s.dies.get d.val).prepared = false ∧ expects s d.val n = true ∧ (s.dies.get d.val).lastAbort = some n ∧ d.val ∉ s.md.epoch.reverted) ∧
    (∃ (s : State) (d : Die), s.md.epoch.phase = .aborting ∧ s.md.epoch.reverted = [d.val] ∧ ((∀ e, dieUp s e = true → (s.dies.get e).prepared = false)) ∧ s.md.epoch.reqs = []) ∧
    (∃ (s : State) (d : Die), s.md.epoch.phase = .committing ∧ dieUp s d.val = true ∧ d.val ∉ s.md.epoch.committed) ∧
    (∃ (s : State) (d : Die), s.md.epoch.phase = .aborting ∧ dieUp s d.val = true ∧ (((s.dies.get d.val).prepared = true ∨ d.val ∈ s.md.epoch.reverted))) ∧
    (∃ (s : State) (k : Fin 8), (s.md.slots.get k.val).settling = true ∧ s.md.epoch.phase = .none ∧ ((∀ q ∈ s.md.seqs, q.slot ≠ k.val)) ∧ s.cp.jobs = []) ∧
    (∃ (s : State) (s1 : State) (k : Fin 8), (s.md.slots.get k.val).settling = true ∧ s.md.epoch.phase = .none ∧ relaySlot s k.val = some s1) :=
  ⟨⟨slotted { slot1 with pin := 1 }, 0, by decide +kernel⟩,
   ⟨withJob (slotted { slot1 with mode := 2 }) (.stream 0) (job 0x01 (.kernel { (default : KernelRun) with stream := some 0, back := true })), 0, meas1, 1, by decide +kernel⟩,
   ⟨{ slot1 with better := 3 }, { rateMoored := 115, rateSweep := 100 }, by decide +kernel⟩,
   ⟨{ slot1 with better := 3 }, { rateMoored := 114, rateSweep := 100 }, by decide +kernel⟩,
   ⟨inEpoch { phase := .proposed }, 7, 1, by decide +kernel⟩,
   ⟨inEpoch { phase := .proposed }, 7, 1, true, by decide +kernel⟩,
   ⟨up, 7, 5, by decide +kernel⟩,
   ⟨prep (inEpoch { phase := .proposed }) 0, 7, by decide +kernel⟩,
   ⟨prep (inEpoch { phase := .proposed, prepared := [0, 1, 2, 3, 4, 5, 6] }) 0, 7, by decide +kernel⟩,
   ⟨inEpoch { phase := .proposed, refused := [7] }, 7, by decide +kernel⟩,
   ⟨inEpoch { phase := .proposed, prepared := [0, 1, 2, 3, 4, 5, 6] }, by decide +kernel⟩,
   ⟨prep (inEpoch { phase := .proposed }) 0, 7, by decide +kernel⟩,
   ⟨prep (inEpoch { phase := .committing }) 0, 7, 1, by decide +kernel⟩,
   ⟨updDie (inEpoch { phase := .committing }) 7 (fun x => { x with epoch := 1 }), 7, by decide +kernel⟩,
   ⟨updDie (inEpoch { phase := .committing, committed := [0, 1, 2, 3, 4, 5, 6] }) 7 (fun x => { x with epoch := 1 }), 7, by decide +kernel⟩,
   ⟨prep (inEpoch { phase := .aborting }) 0, 7, 1, by decide +kernel⟩,
   ⟨updDie (inEpoch { phase := .aborting }) 7 (fun x => { x with lastAbort := some 1 }), 7, 1, by decide +kernel⟩,
   ⟨inEpoch { phase := .aborting, reverted := [7] }, 7, by exact ⟨by decide +kernel, by decide +kernel, noPrepared, by decide +kernel⟩⟩,
   ⟨inEpoch { phase := .committing }, 7, by decide +kernel⟩,
   ⟨inEpoch { phase := .aborting, reverted := [7] }, 7, by decide +kernel⟩,
   ⟨slotted { slot1 with settling := true }, 0, by decide +kernel⟩,
   ⟨slotted { slot1 with settling := true }, slotted { slot1 with settling := true }, 0, by decide +kernel⟩⟩

theorem test_hyps_HeartbeatsArcsAndTheAudit :
    (∃ (s : State) (d : Die), (s.dies.get d.val).st ≠ .retired ∧ (s.dies.get d.val).st ≠ .unpowered) ∧
    (∃ (s : State) (d : Die), dieUp s d.val = true) ∧
    (∃ (s : State) (d : Die), dieUp s d.val = false) ∧
    (∃ (s : State) (k : Fin 8), (s.arcs.get k.val).flitFails < 8) ∧
    (∃ (s : State) (k : Fin 8), 8 ≤ (s.arcs.get k.val).flitFails) ∧
    (∃ (s : State) (k : Fin 8), (s.arcs.get k.val).st = 1) ∧
    (∃ (s : State), blockOn s = true) ∧
    (∃ (s : State), s.flt.audBusy = true ∧ s.md.pass.running = false ∧ quiet s = true ∧ auditAll s = []) ∧
    (∃ (s : State) (x : AuditFail), s.flt.audBusy = true ∧ s.md.pass.running = false ∧ quiet s = true ∧ auditAll s = [x] ∧ x.die = none) ∧
    (∃ (s : State) (x : AuditFail) (k : Nat), s.flt.audBusy = true ∧ s.md.pass.running = false ∧ quiet s = true ∧ auditAll s = [x] ∧ x.die = none ∧ x.slot = some k) ∧
    (∃ (s : State) (d : Die), (s.dies.get d.val).st ≠ .retired ∧ dieOut s d.val = true) :=
  ⟨⟨up, 7, by decide +kernel⟩,
   ⟨up, 7, by decide +kernel⟩,
   ⟨updDie up 7 (fun x => { x with st := .quarantined }), 7, by decide +kernel⟩,
   ⟨{ up with arcs := [(7, { flitFails := 7 })] }, 7, by decide +kernel⟩,
   ⟨{ up with arcs := [(7, { flitFails := 8 })] }, 7, by decide +kernel⟩,
   ⟨{ up with arcs := [(7, { st := 1 })] }, 7, by decide +kernel⟩,
   ⟨up, by decide +kernel⟩,
   ⟨{ up with pw := { pool := 3000 }, flt := { audBusy := true } }, by decide +kernel⟩,
   ⟨{ up with pw := { pool := 3000 }, flt := { audBusy := true }, md := { up.md with slots := [(0, { gens := [{ gen1 with refs := 7 }] })] } }, refsFail, by decide +kernel⟩,
   ⟨{ up with pw := { pool := 3000 }, flt := { audBusy := true }, md := { up.md with slots := [(0, { gens := [{ gen1 with refs := 7 }] })] } }, refsFail, 0, by decide +kernel⟩,
   ⟨updDie up 7 (fun x => { x with st := .quarantined, quar := true }), 7, by decide +kernel⟩⟩

theorem test_hyps_KillAndWatchdog :
    (∃ (s : State) (st : Stream) (b : Job), barOn s = true ∧ getJob s (.stream st.val) = some b ∧ entryOpc b.entry < 0x80) ∧
    (∃ (s : State) (st : Stream) (b : Job), barOn s = true ∧ getJob s (.stream st.val) = some b ∧ 0x80 ≤ entryOpc b.entry) ∧
    (∃ (s : State) (st : Stream), barOn s = true ∧ getJob s (.stream st.val) = none ∧ (s.cp.streams.get st.val).frames = []) ∧
    (∃ (s : State) (st : Stream) (b : Job), getJob s (.stream st.val) = some b ∧ s.cp.wdog ≠ 0 ∧ entryOpc b.entry ∈ watched ∧ ((entryOpc b.entry ≠ 0x0D ∨ s.glb.dieResets = []))) ∧
    (∃ (s : State) (st : Stream) (b : Job), getJob s (.stream st.val) = some b ∧ ((s.cp.wdog = 0 ∨ entryOpc b.entry ∉ watched ∨ (entryOpc b.entry = 0x0D ∧ s.glb.dieResets ≠ [])))) :=
  ⟨⟨withJob up (.stream 15) (job 0x05 (.wait 3 7)), 15, job 0x05 (.wait 3 7), by decide +kernel⟩,
   ⟨withJob up (.stream 15) (job 0x80 .begun), 15, job 0x80 .begun, by decide +kernel⟩,
   ⟨up, 15, by decide +kernel⟩,
   ⟨withJob up (.stream 15) (job 0x0D (.decode 0)), 15, job 0x0D (.decode 0), by decide +kernel⟩,
   ⟨withJob up (.stream 15) (job 0x05 (.wait 3 7)), 15, job 0x05 (.wait 3 7), by decide +kernel⟩⟩

theorem test_hyps_BarriersRoundsAndRelease :
    (∃ (s : State) (b : Fin 64) (v : W64), blockOn s = true ∧ b.val < 32 ∧ barIdle (s.bcn.mbar.get b.val) = true ∧ ((rbit v 63 ≠ (s.bcn.mbar.get b.val).en ∨ rfld v 42 32 ≠ (s.bcn.mbar.get b.val).expect)) ∧ ((rbit v 63 = true → 1 ≤ rfld v 42 32 ∧ rfld v 42 32 ≤ 1040))) ∧
    (∃ (s : State) (b : Fin 64) (v : W64), blockOn s = true ∧ b.val < 32 ∧ ((rbit v 63 ≠ (s.bcn.mbar.get b.val).en ∨ rfld v 42 32 ≠ (s.bcn.mbar.get b.val).expect)) ∧ ((barIdle (s.bcn.mbar.get b.val) = false ∨ (rbit v 63 = true ∧ (rfld v 42 32 = 0 ∨ 1040 < rfld v 42 32))))) ∧
    (∃ (s : State) (b : Fin 64) (v : W64), blockOn s = true ∧ b.val < 32 ∧ rbit v 63 = (s.bcn.mbar.get b.val).en ∧ rfld v 42 32 = (s.bcn.mbar.get b.val).expect) ∧
    (∃ (s : State) (b : Fin 64) (v : W64), blockOn s = true ∧ barIdle (s.bcn.cbar.get b.val) = true ∧ (s.bcn.cbar.get b.val).en = true ∧ rbit v 63 = false) ∧
    (∃ (s : State) (b : Fin 64) (x : Barrier), x = s.bcn.mbar.get b.val ∧ x.en = true ∧ x.expect ≤ x.cnt0 ∧ x.in0 = []) ∧
    (∃ (s : State) (b : Fin 64) (j : JobRef), (s.bcn.mbar.get b.val).en = true ∧ (s.bcn.mbar.get b.val).expect ≤ (s.bcn.mbar.get b.val).cnt0 ∧ (s.bcn.mbar.get b.val).in0 = [.job j]) ∧
    (∃ (s : State) (b : Fin 64), (s.bcn.mbar.get b.val).cnt0 < (s.bcn.mbar.get b.val).expect) ∧
    (∃ (s : State) (m : Fin 512) (c : Fin 64) (n : BitVec 2), s.bcn.root = true ∧ (s.bcn.cbar.get c.val).round = n ∧ (s.bcn.cbar.get c.val).arrived = [] ∧ ((∃ k ∈ membersIn s, k ≠ m.val))) ∧
    (∃ (s : State) (m : Fin 512) (c : Fin 64) (n : BitVec 2), s.bcn.root = true ∧ (s.bcn.cbar.get c.val).round = n ∧ (s.bcn.cbar.get c.val).trel = none ∧ ((∀ k ∈ membersIn s, k = m.val ∨ 4 * k + n.toNat ∈ (s.bcn.cbar.get c.val).arrived))) ∧
    (∃ (s : State) (c : Fin 64) (n : BitVec 2) (t : W64), (s.bcn.cbar.get c.val).en = true ∧ (s.bcn.cbar.get c.val).round = n ∧ (s.bcn.cbar.get c.val).trel = none ∧ onReceipt s = false ∧ (cascTime s - t).toInt ≤ 0) ∧
    (∃ (s : State) (c : Fin 64) (n : BitVec 2) (t : W64), (s.bcn.cbar.get c.val).en = true ∧ (s.bcn.cbar.get c.val).round = n ∧ (s.bcn.cbar.get c.val).trel = none ∧ onReceipt s = false ∧ 0 < (cascTime s - t).toInt) ∧
    (∃ (s : State) (c : Fin 64) (n : BitVec 2), (s.bcn.cbar.get c.val).en = true ∧ (s.bcn.cbar.get c.val).round = n ∧ (s.bcn.cbar.get c.val).trel = none ∧ s.bcn.aligned = false ∧ s.bcn.root = false) ∧
    (∃ (s : State) (c : Fin 64) (t : W64), (s.bcn.cbar.get c.val).trel = some t ∧ (s.bcn.cbar.get c.val).in0 = [] ∧ s.bcn.root = false ∧ (s.bcn.cbar.get c.val).cnt1 < (s.bcn.cbar.get c.val).expect) ∧
    (∃ (s : State) (c : Fin 64), (s.bcn.cbar.get c.val).trel = none) :=
  ⟨⟨up, 31, 0x8000041000000000, by decide +kernel⟩,
   ⟨up, 31, 0x8000041100000000, by decide +kernel⟩,
   ⟨up, 31, 0, by decide +kernel⟩,
   ⟨withCasc up { en := true, expect := 1 }, 63, 0, by decide +kernel⟩,
   ⟨withBar up { en := true, expect := 0 }, 7, { en := true, expect := 0 }, by decide +kernel⟩,
   ⟨withBar (withJob up (.stream 0) (job 0x0A (.barrier false 7))) { en := true, expect := 1, cnt0 := 1, in0 := [.job (.stream 0)] }, 7, .stream 0, by decide +kernel⟩,
   ⟨withBar up { en := true, expect := 2, cnt0 := 1 }, 7, by decide +kernel⟩,
   ⟨withCasc rootUp { en := true }, 5, 63, 0, by decide +kernel⟩,
   ⟨withCasc rootUp { en := true }, 0, 63, 0, by decide +kernel⟩,
   ⟨withCasc rootUp { en := true }, 63, 0, 0, by decide +kernel⟩,
   ⟨withCasc { rootUp with bcn := { rootUp.bcn with local_ := 5 } } { en := true }, 63, 0, 4, by decide +kernel⟩,
   ⟨withCasc up { en := true }, 63, 0, by decide +kernel⟩,
   ⟨withCasc up { en := true, trel := some 5, expect := 1 }, 63, 5, by decide +kernel⟩,
   ⟨withCasc up { en := true }, 63, by decide +kernel⟩⟩

theorem test_hyps_CascadeTimeIsMeasured :
    (∃ (s : State), s.lk.joined = true ∧ s.bcn.root = true) ∧
    (∃ (s : State) (a : W64) (b : W64) (c : W64) (d : W64), s.lk.joined = true ∧ s.bcn.root = true ∧ owDelay a b c d ≤ 0xFFEF) ∧
    (∃ (s : State) (p : Nat), s.lk.joined = true ∧ s.bcn.root = false ∧ routeTo s 0 = some p ∧ s.bcn.measured = false) ∧
    (∃ (s : State) (p : Nat), s.lk.joined = true ∧ s.bcn.root = false ∧ routeTo s 0 = some p ∧ s.bcn.measured = true) ∧
    (∃ (s : State) (a : W64) (b : W64) (c : W64) (d : W64) (p : Nat), s.lk.joined = true ∧ s.bcn.root = false ∧ routeTo s 0 = some p ∧ s.bcn.measured = true ∧ 0 < offsetError a b c d) ∧
    (∃ (s : State) (a : W64) (b : W64) (c : W64) (d : W64) (p : Nat), s.lk.joined = true ∧ s.bcn.root = false ∧ routeTo s 0 = some p ∧ s.bcn.measured = true ∧ offsetError a b c d < 0) ∧
    (∃ (s : State) (a : W64) (b : W64) (c : W64) (d : W64) (p : Nat), s.lk.joined = true ∧ s.bcn.root = false ∧ routeTo s 0 = some p ∧ s.bcn.measured = true ∧ offsetError a b c d = 0) ∧
    (∃ (s : State) (a : W64) (b : W64) (c : W64) (d : W64) (p : Nat), s.lk.joined = true ∧ s.bcn.root = false ∧ routeTo s 0 = some p ∧ s.bcn.measured = true ∧ (offsetError a b c d).natAbs ≤ 1) ∧
    (∃ (s : State) (a : W64) (b : W64) (c : W64) (d : W64) (p : Nat), s.lk.joined = true ∧ s.bcn.root = false ∧ routeTo s 0 = some p ∧ s.bcn.measured = true ∧ 4 < (offsetError a b c d).natAbs) ∧
    (∃ (s : State) (a : W64) (b : W64) (c : W64) (d : W64) (p : Nat), s.lk.joined = true ∧ s.bcn.root = false ∧ routeTo s 0 = some p ∧ s.bcn.measured = true ∧ 1 < (offsetError a b c d).natAbs ∧ (offsetError a b c d).natAbs ≤ 4) ∧
    (∃ (s : State), s.lk.joined = false) :=
  ⟨⟨joinedRoot, by decide +kernel⟩,
   ⟨joinedRoot, 0, 10, 10, 20, by decide +kernel⟩,
   ⟨joined1 false, 2, by decide +kernel⟩,
   ⟨joined1 true, 2, by decide +kernel⟩,
   ⟨joined1 true, 0, 12, 12, 20, 2, by decide +kernel⟩,
   ⟨joined1 true, 0, 8, 8, 20, 2, by decide +kernel⟩,
   ⟨joined1 true, 0, 10, 10, 20, 2, by decide +kernel⟩,
   ⟨joined1 true, 0, 11, 11, 20, 2, by decide +kernel⟩,
   ⟨joined1 true, 0, 15, 15, 20, 2, by decide +kernel⟩,
   ⟨joined1 true, 0, 14, 14, 20, 2, by decide +kernel⟩,
   ⟨up, by decide +kernel⟩⟩

theorem test_hyps_EventRouterWords :
    (∃ (s : State) (v : W32), blockOn s = true ∧ 960 ≤ v.toNat % 1024) ∧
    (∃ (s : State) (v : W32), blockOn s = true ∧ v.toNat % 1024 < 960) ∧
    (∃ (s : State) (v : W32), blockOn s = true ∧ srcExists (v.toNat % 1024) = true) ∧
    (∃ (s : State) (v : W32) (n : Nat), blockOn s = true ∧ srcExists (v.toNat % 1024) = true ∧ n ≠ v.toNat % 1024) ∧
    (∃ (s : State), blockOn s = true) ∧
    (∃ (s : State), blockOn s = true) ∧
    (∃ (s : State) (v : Fin 64), barOn s = true ∧ s.glb.msixPend.get v.val = true) ∧
    (∃ (s : State) (v : Fin 64), barOn s = true ∧ s.glb.msixPend.get v.val = false) :=
  ⟨⟨up, 960, by decide +kernel⟩,
   ⟨up, 959, by decide +kernel⟩,
   ⟨up, 700, by decide +kernel⟩,
   ⟨up, 700, 701, by decide +kernel⟩,
   ⟨up, by decide +kernel⟩,
   ⟨up, by decide +kernel⟩,
   ⟨{ up with glb := { up.glb with msixPend := [(63, true)] } }, 63, by decide +kernel⟩,
   ⟨up, 63, by decide +kernel⟩⟩

theorem test_hyps_EventsReachTheirTargets :
    (∃ (s : State), (s.evr.srcs.filter fun p => routable p.1 p.2) = []) ∧
    (∃ (s : State) (n : Nat) (k : Nat) (r : Src), ((s.evr.srcs.filter fun p => routable p.1 p.2) = [(n, r)]) ∧ s.evr.srcs.get n = r ∧ k < 4 ∧ r.tmask = BitVec.ofNat 5 (2 ^ k) ∧ accepts s r k = true) ∧
    (∃ (s : State) (n : Nat) (r : Src) (q : HostEvq), ((s.evr.srcs.filter fun p => routable p.1 p.2) = [(n, r)]) ∧ s.evr.srcs.get n = r ∧ r.tmask = 16 ∧ q = s.evr.hostqs.get r.vec.toNat ∧ q.en = true ∧ evqFull q = false ∧ s.pins.d3 = false) ∧
    (∃ (s : State) (n : Nat) (r : Src) (q : HostEvq), ((s.evr.srcs.filter fun p => routable p.1 p.2) = [(n, r)]) ∧ s.evr.srcs.get n = r ∧ r.tmask = 16 ∧ q = s.evr.hostqs.get r.vec.toNat ∧ q.en = true ∧ evqFull q = false ∧ s.pins.d3 = false ∧ evqCount q = 0 ∧ q.sent = false ∧ s.glb.msixOpen.get r.vec.toNat = true) ∧
    (∃ (s : State) (n : Nat) (r : Src) (q : HostEvq), ((s.evr.srcs.filter fun p => routable p.1 p.2) = [(n, r)]) ∧ s.evr.srcs.get n = r ∧ r.tmask = 16 ∧ q = s.evr.hostqs.get r.vec.toNat ∧ q.en = true ∧ evqFull q = false ∧ s.pins.d3 = false ∧ q.sent = true) ∧
    (∃ (s : State) (k : Fin 4) (r : KRec) (l : List KRec), (s.evr.keepers.get k.val).q = r :: l) ∧
    (∃ (s : State) (k : Fin 4) (h : BitVec 4), h ≠ (s.evr.keepers.get k.val).head + 1) ∧
    (∃ (s : State) (k : Fin 4), (s.evr.keepers.get k.val).q = []) ∧
    (∃ (s : State) (k : Fin 4) (src : BitVec 10) (p : Nat) (l : List (Nat × Nat)), ((s.evr.keepers.get k.val).stack = (p, src.toNat) :: l) ∧ (s.evr.srcs.get src.toNat).pend = false) ∧
    (∃ (s : State) (k : Fin 4) (src : BitVec 10), ((∀ p n l, (s.evr.keepers.get k.val).stack = (p, n) :: l → n ≠ src.toNat))) ∧
    (∃ (s : State) (k : Fin 4), (s.evr.keepers.get k.val).sleep = true ∧ wakes s k.val = true) ∧
    (∃ (s : State) (k : Fin 4), wakes s k.val = false) ∧
    (∃ (s : State) (k : Fin 4), (s.evr.keepers.get k.val).sleep = false) ∧
    (∃ (s : State) (v : Fin 64) (h : BitVec 13) (q : HostEvq), blockOn s = true ∧ q = s.evr.hostqs.get v.val ∧ q.en = true ∧ h.toNat = q.tail ∧ q.tail < 2 * evqSize q ∧ q.head < 2 * evqSize q) ∧
    (∃ (s : State) (v : Fin 64), (s.evr.hostqs.get v.val).en = false) ∧
    (∃ (s : State) (v : Fin 64) (w : W64), blockOn s = true ∧ (s.evr.hostqs.get v.val).en = false ∧ rbit w 0 = true ∧ evqOk (rfld (w &&& 0xFFFFFFFFFFFFF000) 63 12) (s.evr.hostqs.get v.val).log2 = true) ∧
    (∃ (s : State) (v : Fin 64) (w : W64), blockOn s = true ∧ (s.evr.hostqs.get v.val).en = false ∧ rbit w 0 = true ∧ (((s.evr.hostqs.get v.val).log2 < 6 ∨ 12 < (s.evr.hostqs.get v.val).log2))) :=
  ⟨⟨up, by decide +kernel⟩,
   ⟨withKeeper (withSrc up 700 (src1 8)) { en := true }, 700, 3, src1 8, by decide +kernel⟩,
   ⟨hostSrc evq1, 700, src1 16, (let s : State := hostSrc evq1; let r : Src := src1 16; s.evr.hostqs.get r.vec.toNat), by decide +kernel⟩,
   ⟨hostSrc evq1, 700, src1 16, (let s : State := hostSrc evq1; let r : Src := src1 16; s.evr.hostqs.get r.vec.toNat), by decide +kernel⟩,
   ⟨hostSrc { evq1 with sent := true }, 700, src1 16, (let s : State := hostSrc { evq1 with sent := true }; let r : Src := src1 16; s.evr.hostqs.get r.vec.toNat), by decide +kernel⟩,
   ⟨withKeeper up { tail := 1, q := [krec1] }, 3, krec1, [], by decide +kernel⟩,
   ⟨up, 3, 2, by decide +kernel⟩,
   ⟨up, 3, by decide +kernel⟩,
   ⟨withKeeper up { stack := [(3, 700)] }, 3, 700, 3, [], by decide +kernel⟩,
   ⟨up, 3, 700, by (intro p n l h; cases (show ([] : List (Nat × Nat)) = (p, n) :: l from h))⟩,
   ⟨withSrc (withKeeper up { sleep := true }) 700 { src1 8 with queued := true }, 3, by decide +kernel⟩,
   ⟨up, 3, by decide +kernel⟩,
   ⟨up, 3, by decide +kernel⟩,
   ⟨hostSrc { evq1 with tail := 3 }, 63, 3, (let s : State := hostSrc { evq1 with tail := 3 }; let v : Fin 64 := 63; s.evr.hostqs.get v.val), by decide +kernel⟩,
   ⟨up, 63, by decide +kernel⟩,
   ⟨hostSrc { log2 := 12 }, 63, 1, by decide +kernel⟩,
   ⟨hostSrc { log2 := 13 }, 63, 1, by decide +kernel⟩⟩

theorem test_hyps_FramesTravelTheRing :
    (∃ (s : State) (d : Die) (dir : Dir), nextDie s d.val dir = none) ∧
    (∃ (s : State) (d : Die) (dir : Dir) (n : Nat), nextDie s d.val dir = some n ∧ inSweep s d.val = true ∧ needsGen s = true ∧ (ringOf (s.dies.get d.val) dir).ownGen = false ∧ (ringOf (s.dies.get d.val) dir).ownLayer = 0 ∧ creditsOf s d.val dir 64 ≠ 0) ∧
    (∃ (s : State) (d : Die) (dir : Dir) (n : Nat), nextDie s d.val dir = some n ∧ inSweep s d.val = true ∧ ((needsGen s = false ∨ (ringOf (s.dies.get d.val) dir).ownGen = true)) ∧ (ringOf (s.dies.get d.val) dir).ownLayer < passLayers s ∧ layerSent s d.val dir = true ∧ (ringOf (s.dies.get d.val) dir).ownEnd = false ∧ creditsOf s d.val dir 64 ≠ 0) ∧
    (∃ (s : State) (d : Die) (dir : Dir) (n : Nat), nextDie s d.val dir = some n ∧ inSweep s d.val = true ∧ (ringOf (s.dies.get d.val) dir).ownLayer = passLayers s ∧ layerSent s d.val dir = true ∧ (ringOf (s.dies.get d.val) dir).ownEnd = false ∧ creditsOf s d.val dir 64 ≠ 0) ∧
    (∃ (s : State) (d : Die) (dir : Dir) (seg : BitVec 4) (g : Fin 32) (n : Nat) (t : Nat) (layer : Nat) (us : List SendUnit) (p : List PByte), s.mem.ecc = [] ∧ nextDie s d.val dir = some n ∧ inSweep s d.val = true ∧ nextOwn s d.val dir g.val = some seg.toNat ∧ ownReady s d.val dir g.val = true ∧ (ringOf (s.dies.get d.val) dir).outRun.get g.val = none ∧ ownMayBegin s d.val dir g.val = true ∧ layer = layerNo s (ringOf (s.dies.get d.val) dir).ownLayer ∧ us = runUnits s d.val layer seg.toNat g.val ∧ t = groupTile s d.val g.val dir ∧ ((ownDelivers s d.val dir = false ∨ (portFits s t dir (min 4096 (sendLen us)) = true ∧ runRoom s d.val t = true))) ∧ copyFor (ringOf (s.dies.get d.val) dir) layer seg.toNat g.val 0 = none ∧ p = (readFrame s us 0).2) ∧
    (∃ (s : State) (d : Die) (dir : Dir) (seg : BitVec 4) (g : Fin 32) (n : Nat) (t : Nat) (layer : Nat) (us : List SendUnit) (p : List PByte), s.mem.ecc = [] ∧ nextDie s d.val dir = some n ∧ inSweep s d.val = true ∧ nextOwn s d.val dir g.val = some seg.toNat ∧ ownReady s d.val dir g.val = true ∧ (ringOf (s.dies.get d.val) dir).outRun.get g.val = none ∧ ownMayBegin s d.val dir g.val = true ∧ layer = layerNo s (ringOf (s.dies.get d.val) dir).ownLayer ∧ us = runUnits s d.val layer seg.toNat g.val ∧ t = groupTile s d.val g.val dir ∧ ((ownDelivers s d.val dir = false ∨ (portFits s t dir (min 4096 (sendLen us)) = true ∧ runRoom s d.val t = true))) ∧ copyFor (ringOf (s.dies.get d.val) dir) layer seg.toNat g.val 0 = none ∧ p = (readFrame s us 0).2 ∧ ownDelivers s d.val dir = true) ∧
    (∃ (s : State) (d : Die) (owner : Die) (dir : Dir) (layer : BitVec 12) (seg : BitVec 4) (g : Fin 32) (fidx : Nat) (pay : Bytes) (n : Nat), nextDie s d.val dir = some n ∧ inSweep s d.val = true ∧ s.md.pass.bwd = true ∧ chainHead s owner.val dir = d.val ∧ owner ≠ d ∧ pay ≠ [] ∧ pay.length = gradLen s owner.val layer.toNat seg.toNat g.val fidx ∧ creditsOf s d.val dir (2 * g.val + 1) ≠ 0 ∧ g.val ∈ dirGroups s.md.epoch.line.isSome dir) ∧
    (∃ (s : State) (d : Die) (dir : Dir) (hx : Bytes) (px : Bytes) (p : Nat) (g : Frame) (f : Frame), prevDie s d.val dir = some p ∧ headFrame s d.val dir = some g ∧ hKind g.hdr = 1 ∧ mayArrive s d.val dir = true ∧ f = damaged g hx px ∧ hcrcOk f.hdr = true ∧ hKind f.hdr = 1 ∧ hPass f.hdr = (s.dies.get d.val).pass ∧ s.md.pass.running = true ∧ (s.dies.get d.val).passDone = false ∧ afterLayer s d.val dir f = true ∧ pcrcOk f = true ∧ hGen f.hdr = s.md.pass.gen) ∧
    (∃ (s : State) (d : Die) (dir : Dir) (hx : Bytes) (px : Bytes) (p : Nat) (g : Frame) (f : Frame), prevDie s d.val dir = some p ∧ headFrame s d.val dir = some g ∧ hKind g.hdr = 1 ∧ mayArrive s d.val dir = true ∧ f = damaged g hx px ∧ hcrcOk f.hdr = true ∧ hKind f.hdr = 1 ∧ hPass f.hdr = (s.dies.get d.val).pass ∧ s.md.pass.running = true ∧ (s.dies.get d.val).passDone = false ∧ afterLayer s d.val dir f = true ∧ pcrcOk f = false ∧ hPois f.hdr = false) ∧
    (∃ (s : State) (d : Die) (dir : Dir) (hx : Bytes) (px : Bytes) (p : Nat) (g : Frame) (f : Frame), prevDie s d.val dir = some p ∧ headFrame s d.val dir = some g ∧ hKind g.hdr = 1 ∧ mayArrive s d.val dir = true ∧ f = damaged g hx px ∧ hcrcOk f.hdr = true ∧ hKind f.hdr = 1 ∧ hPass f.hdr = (s.dies.get d.val).pass ∧ s.md.pass.running = true ∧ (s.dies.get d.val).passDone = false ∧ afterLayer s d.val dir f = false) ∧
    (∃ (s : State) (d : Die) (dir : Dir) (hx : Bytes) (px : Bytes) (g : Frame) (f : Frame), headFrame s d.val dir = some g ∧ hKind g.hdr = 1 ∧ mayArrive s d.val dir = true ∧ f = damaged g hx px ∧ hcrcOk f.hdr = true ∧ hKind f.hdr = 1 ∧ hPass f.hdr = (s.dies.get d.val).pass + 1) ∧
    (∃ (s : State) (d : Die) (dir : Dir) (hx : Bytes) (px : Bytes) (g : Frame) (f : Frame), headFrame s d.val dir = some g ∧ hKind g.hdr = 1 ∧ mayArrive s d.val dir = true ∧ f = damaged g hx px ∧ hcrcOk f.hdr = true ∧ hKind f.hdr = 1 ∧ hPass f.hdr ≠ (s.dies.get d.val).pass ∧ hPass f.hdr ≠ (s.dies.get d.val).pass + 1) ∧
    (∃ (s : State) (d : Die) (dir : Dir) (hx : Bytes) (px : Bytes) (g : Frame) (f : Frame), headFrame s d.val dir = some g ∧ hKind g.hdr = 1 ∧ mayArrive s d.val dir = true ∧ f = damaged g hx px ∧ ((hcrcOk f.hdr = false ∨ hKind f.hdr ≠ 1))) ∧
    (∃ (s : State) (d : Die) (dir : Dir) (i : Nat) (t : Nat) (b : RSlot), takeable (ringOf (s.dies.get d.val) dir) i = some b ∧ hFidx b.f.hdr = 0 ∧ t = groupTile s d.val (hGroup b.f.hdr) dir ∧ b.pushed = false ∧ runRoom s d.val t = true) ∧
    (∃ (s : State) (d : Die) (dir : Dir) (i : Nat) (t : Nat) (b : RSlot), takeable (ringOf (s.dies.get d.val) dir) i = some b ∧ inSweep s d.val = true ∧ ((hFidx b.f.hdr ≠ 0 ∨ b.pushed = true)) ∧ t = groupTile s d.val (hGroup b.f.hdr) dir ∧ portFits s t dir b.f.pay.length = true ∧ (ringOf (s.dies.get d.val) dir).outRun.get (hGroup b.f.hdr) ≠ some d.val ∧ svcFits s d.val (opposite dir) 16 = true ∧ forwards s d.val dir (hOwner b.f.hdr) = false) ∧
    (∃ (s : State) (d : Die) (dir : Dir) (i : Nat) (t : Nat) (b : RSlot), takeable (ringOf (s.dies.get d.val) dir) i = some b ∧ inSweep s d.val = true ∧ ((hFidx b.f.hdr ≠ 0 ∨ b.pushed = true)) ∧ t = groupTile s d.val (hGroup b.f.hdr) dir ∧ portFits s t dir b.f.pay.length = true ∧ (ringOf (s.dies.get d.val) dir).outRun.get (hGroup b.f.hdr) ≠ some d.val ∧ svcFits s d.val (opposite dir) 16 = true ∧ forwards s d.val dir (hOwner b.f.hdr) = true ∧ mayForward s d.val dir b.f = true ∧ creditsOf s d.val dir (2 * hGroup b.f.hdr) ≠ 0) ∧
    (∃ (s : State) (d : Die) (dir : Dir) (n : Nat) (key : Nat), (svcBack s d.val dir = some (n, .credit key))) :=
  ⟨⟨{ (inPass sweep1) with md := { (inPass sweep1).md with epoch := { line := some 2 } } }, 1, .east, by decide +kernel⟩,
   ⟨updDie (inPass (pass1 1)) 1 (fun x => { x with east := { credits := credits1 } }), 1, .east, 2, by decide +kernel⟩,
   ⟨updDie (inPass sweep1) 1 (fun x => { x with east := { credits := credits1 } }), 1, .east, 2, by decide +kernel⟩,
   ⟨updDie (inPass sweep1) 1 (fun x => { x with east := { credits := credits1, ownLayer := 1 } }), 1, .east, 2, by decide +kernel⟩,
   ⟨weighed sweep1, 1, .east, 0, 0, 2, (let s : State := weighed sweep1; let d : Die := 1; let dir : Dir := .east; let g : Fin 32 := 0; groupTile s d.val g.val dir), (let s : State := weighed sweep1; let d : Die := 1; let dir : Dir := .east; layerNo s (ringOf (s.dies.get d.val) dir).ownLayer), (let s : State := weighed sweep1; let d : Die := 1; let seg : BitVec 4 := 0; let g : Fin 32 := 0; let layer : Nat := (let s : State := weighed sweep1; let d : Die := 1; let dir : Dir := .east; layerNo s (ringOf (s.dies.get d.val) dir).ownLayer); runUnits s d.val layer seg.toNat g.val), (let s : State := weighed sweep1; let us : List SendUnit := (let s : State := weighed sweep1; let d : Die := 1; let seg : BitVec 4 := 0; let g : Fin 32 := 0; let layer : Nat := (let s : State := weighed sweep1; let d : Die := 1; let dir : Dir := .east; layerNo s (ringOf (s.dies.get d.val) dir).ownLayer); runUnits s d.val layer seg.toNat g.val); (readFrame s us 0).2), by decide +kernel⟩,
   ⟨weighed sweep1, 1, .east, 0, 0, 2, (let s : State := weighed sweep1; let d : Die := 1; let dir : Dir := .east; let g : Fin 32 := 0; groupTile s d.val g.val dir), (let s : State := weighed sweep1; let d : Die := 1; let dir : Dir := .east; layerNo s (ringOf (s.dies.get d.val) dir).ownLayer), (let s : State := weighed sweep1; let d : Die := 1; let seg : BitVec 4 := 0; let g : Fin 32 := 0; let layer : Nat := (let s : State := weighed sweep1; let d : Die := 1; let dir : Dir := .east; layerNo s (ringOf (s.dies.get d.val) dir).ownLayer); runUnits s d.val layer seg.toNat g.val), (let s : State := weighed sweep1; let us : List SendUnit := (let s : State := weighed sweep1; let d : Die := 1; let seg : BitVec 4 := 0; let g : Fin 32 := 0; let layer : Nat := (let s : State := weighed sweep1; let d : Die := 1; let dir : Dir := .east; layerNo s (ringOf (s.dies.get d.val) dir).ownLayer); runUnits s d.val layer seg.toNat g.val); (readFrame s us 0).2), by decide +kernel⟩,
   ⟨weighed { sweep1 with bwd := true }, 1, 0, .east, 0, 0, 0, 0, List.replicate (if Config.gradBf16 0 then 256 else 512) 0, 2, by exact ⟨by decide +kernel, by decide +kernel, by decide +kernel, by decide +kernel, by decide +kernel, by cases Config.gradBf16 0 <;> decide +kernel, by show _ = min 4096 ((if Config.gradBf16 0 = true then 2 else 4) * runWeights (weighed { sweep1 with bwd := true }) 0 0 0 0 - 4096 * 0); cases Config.gradBf16 0 <;> decide +kernel, by decide +kernel, by decide +kernel⟩⟩,
   ⟨layered weight1, 1, .east, [], [], 0, weight1, weight1, by decide +kernel⟩,
   ⟨layered weight1, 1, .east, [], [1], 0, weight1, damaged weight1 [] [1], by decide +kernel⟩,
   ⟨onArc sweep1 weight1 id, 1, .east, [], [], 0, weight1, weight1, by decide +kernel⟩,
   ⟨onArc sweep1 (frm 1 [(4, 1), (6, 1)] [1]) id, 1, .east, [], [], frm 1 [(4, 1), (6, 1)] [1], frm 1 [(4, 1), (6, 1)] [1], by decide +kernel⟩,
   ⟨onArc sweep1 (frm 1 [(4, 2), (6, 1)] [1]) id, 1, .east, [], [], frm 1 [(4, 2), (6, 1)] [1], frm 1 [(4, 2), (6, 1)] [1], by decide +kernel⟩,
   ⟨onArc sweep1 weight1 id, 1, .east, [1], [], weight1, damaged weight1 [1] [], by decide +kernel⟩,
   ⟨inBuf sweep1 ⟨weight1, .queued, false⟩ id, 1, .east, 0, (let s : State := inBuf sweep1 ⟨weight1, .queued, false⟩ id; let d : Die := 1; let dir : Dir := .east; let b : RSlot := ⟨weight1, .queued, false⟩; groupTile s d.val (hGroup b.f.hdr) dir), ⟨weight1, .queued, false⟩, by decide +kernel⟩,
   ⟨inBuf sweep1 ⟨frm 1 [(2, 0x10), (6, 1)] [1], .queued, true⟩ id, 1, .east, 0, (let s : State := inBuf sweep1 ⟨frm 1 [(2, 0x10), (6, 1)] [1], .queued, true⟩ id; let d : Die := 1; let dir : Dir := .east; let b : RSlot := ⟨frm 1 [(2, 0x10), (6, 1)] [1], .queued, true⟩; groupTile s d.val (hGroup b.f.hdr) dir), ⟨frm 1 [(2, 0x10), (6, 1)] [1], .queued, true⟩, by decide +kernel⟩,
   ⟨inBuf sweep1 ⟨weight1, .queued, true⟩ (fun r => { r with credits := credits1 }), 1, .east, 0, (let s : State := inBuf sweep1 ⟨weight1, .queued, true⟩ (fun r => { r with credits := credits1 }); let d : Die := 1; let dir : Dir := .east; let b : RSlot := ⟨weight1, .queued, true⟩; groupTile s d.val (hGroup b.f.hdr) dir), ⟨weight1, .queued, true⟩, by decide +kernel⟩,
   ⟨updDie up 2 (fun x => { x with outW := { svc := [.credit 64] } }), 1, .east, 2, 64, by decide +kernel⟩⟩

theorem test_hyps_BuoysAndGradientsPass :
    (∃ (s : State) (kind : Nat) (c : Instr) (d : Die) (dir : Dir) (hx : Bytes) (p : Nat) (g : Frame) (f : Frame), (((kind = 0xA ∧ c = .genBuoy d dir hx) ∨ (kind = 0x8 ∧ c = .layerBuoy d dir hx) ∨ (kind = 0x9 ∧ c = .passEndBuoy d dir hx))) ∧ prevDie s d.val dir = some p ∧ headFrame s d.val dir = some g ∧ hKind g.hdr = kind ∧ mayArrive s d.val dir = true ∧ f = damaged g hx [] ∧ ((hcrcOk f.hdr = false ∨ hKind f.hdr ≠ kind))) ∧
    (∃ (s : State) (kind : Nat) (c : Instr) (d : Die) (dir : Dir) (hx : Bytes) (p : Nat) (g : Frame) (f : Frame), (((kind = 0xA ∧ c = .genBuoy d dir hx) ∨ (kind = 0x8 ∧ c = .layerBuoy d dir hx) ∨ (kind = 0x9 ∧ c = .passEndBuoy d dir hx))) ∧ prevDie s d.val dir = some p ∧ headFrame s d.val dir = some g ∧ hKind g.hdr = kind ∧ mayArrive s d.val dir = true ∧ f = damaged g hx [] ∧ hcrcOk f.hdr = true ∧ hKind f.hdr = kind ∧ hPass f.hdr = (s.dies.get d.val).pass + 1) ∧
    (∃ (s : State) (kind : Nat) (c : Instr) (d : Die) (dir : Dir) (hx : Bytes) (p : Nat) (g : Frame) (f : Frame), (((kind = 0xA ∧ c = .genBuoy d dir hx) ∨ (kind = 0x8 ∧ c = .layerBuoy d dir hx) ∨ (kind = 0x9 ∧ c = .passEndBuoy d dir hx))) ∧ prevDie s d.val dir = some p ∧ headFrame s d.val dir = some g ∧ hKind g.hdr = kind ∧ mayArrive s d.val dir = true ∧ f = damaged g hx [] ∧ hcrcOk f.hdr = true ∧ hKind f.hdr = kind ∧ hPass f.hdr = (s.dies.get d.val).pass ∧ s.md.pass.running = true ∧ (s.dies.get d.val).passDone = false ∧ buoyOk s ((ringOf (s.dies.get d.val) dir).prog.get (hOwner f.hdr)) f.hdr = false) ∧
    (∃ (s : State) (kind : Nat) (c : Instr) (d : Die) (dir : Dir) (hx : Bytes) (p : Nat) (g : Frame) (f : Frame), (((kind = 0xA ∧ c = .genBuoy d dir hx) ∨ (kind = 0x8 ∧ c = .layerBuoy d dir hx) ∨ (kind = 0x9 ∧ c = .passEndBuoy d dir hx))) ∧ prevDie s d.val dir = some p ∧ headFrame s d.val dir = some g ∧ hKind g.hdr = kind ∧ mayArrive s d.val dir = true ∧ f = damaged g hx [] ∧ hcrcOk f.hdr = true ∧ hKind f.hdr = kind ∧ hPass f.hdr = (s.dies.get d.val).pass ∧ s.md.pass.running = true ∧ (s.dies.get d.val).passDone = false ∧ buoyOk s ((ringOf (s.dies.get d.val) dir).prog.get (hOwner f.hdr)) f.hdr = true ∧ forwards s d.val dir (hOwner f.hdr) = false) ∧
    (∃ (s : State) (kind : Nat) (c : Instr) (d : Die) (dir : Dir) (hx : Bytes) (p : Nat) (g : Frame) (f : Frame), (((kind = 0xA ∧ c = .genBuoy d dir hx) ∨ (kind = 0x8 ∧ c = .layerBuoy d dir hx) ∨ (kind = 0x9 ∧ c = .passEndBuoy d dir hx))) ∧ prevDie s d.val dir = some p ∧ headFrame s d.val dir = some g ∧ hKind g.hdr = kind ∧ mayArrive s d.val dir = true ∧ f = damaged g hx [] ∧ hcrcOk f.hdr = true ∧ hKind f.hdr = kind ∧ hPass f.hdr = (s.dies.get d.val).pass ∧ s.md.pass.running = true ∧ (s.dies.get d.val).passDone = false ∧ buoyOk s ((ringOf (s.dies.get d.val) dir).prog.get (hOwner f.hdr)) f.hdr = true ∧ forwards s d.val dir (hOwner f.hdr) = true) ∧
    (∃ (s : State) (kind : Nat) (c : Instr) (d : Die) (dir : Dir) (hx : Bytes) (p : Nat) (g : Frame) (f : Frame), (((kind = 0xA ∧ c = .genBuoy d dir hx) ∨ (kind = 0x8 ∧ c = .layerBuoy d dir hx) ∨ (kind = 0x9 ∧ c = .passEndBuoy d dir hx))) ∧ prevDie s d.val dir = some p ∧ headFrame s d.val dir = some g ∧ hKind g.hdr = kind ∧ mayArrive s d.val dir = true ∧ f = damaged g hx [] ∧ hcrcOk f.hdr = true ∧ hKind f.hdr = kind ∧ hPass f.hdr = (s.dies.get d.val).pass ∧ s.md.pass.running = true ∧ (s.dies.get d.val).passDone = false ∧ buoyOk s ((ringOf (s.dies.get d.val) dir).prog.get (hOwner f.hdr)) f.hdr = true ∧ forwards s d.val dir (hOwner f.hdr) = true ∧ creditsOf s d.val dir 64 = 0) ∧
    (∃ (s : State) (kind : Nat) (c : Instr) (d : Die) (dir : Dir) (hx : Bytes) (p : Nat) (g : Frame) (f : Frame), (((kind = 0xA ∧ c = .genBuoy d dir hx) ∨ (kind = 0x8 ∧ c = .layerBuoy d dir hx) ∨ (kind = 0x9 ∧ c = .passEndBuoy d dir hx))) ∧ prevDie s d.val dir = some p ∧ headFrame s d.val dir = some g ∧ hKind g.hdr = kind ∧ mayArrive s d.val dir = true ∧ f = damaged g hx [] ∧ hcrcOk f.hdr = true ∧ hKind f.hdr = kind ∧ hPass f.hdr = (s.dies.get d.val).pass ∧ s.md.pass.running = true ∧ (s.dies.get d.val).passDone = false ∧ buoyOk s ((ringOf (s.dies.get d.val) dir).prog.get (hOwner f.hdr)) f.hdr = true ∧ forwards s d.val dir (hOwner f.hdr) = true ∧ creditsOf s d.val dir 64 ≠ 0 ∧ (ringOf (s.dies.get d.val) dir).buf = []) ∧
    (∃ (s : State) (d : Die) (dir : Dir) (hx : Bytes) (px : Bytes) (p : Nat) (g : Frame) (f : Frame), prevDie s d.val dir = some p ∧ headFrame s d.val dir = some g ∧ hKind g.hdr = 2 ∧ mayArrive s d.val dir = true ∧ f = damaged g hx px ∧ ((hcrcOk f.hdr = false ∨ hKind f.hdr ≠ 2))) ∧
    (∃ (s : State) (d : Die) (dir : Dir) (hx : Bytes) (px : Bytes) (p : Nat) (g : Frame) (f : Frame), prevDie s d.val dir = some p ∧ headFrame s d.val dir = some g ∧ hKind g.hdr = 2 ∧ mayArrive s d.val dir = true ∧ f = damaged g hx px ∧ hcrcOk f.hdr = true ∧ hKind f.hdr = 2 ∧ hPass f.hdr = (s.dies.get d.val).pass ∧ s.md.pass.running = true) ∧
    (∃ (s : State) (d : Die) (dir : Dir) (own : Bytes) (i : Nat) (b : RSlot), (heldGrad (ringOf (s.dies.get d.val) dir) = some (i, b)) ∧ own.length ≠ b.f.pay.length) ∧
    (∃ (s : State) (d : Die) (dir : Dir) (i : Nat) (b : RSlot), (heldGrad (ringOf (s.dies.get d.val) dir) = some (i, b)) ∧ hOwner b.f.hdr ≠ d.val ∧ creditsOf s d.val dir (2 * hGroup b.f.hdr + 1) = 0) ∧
    (∃ (s : State) (d : Die) (dir : Dir) (own : Bytes) (i : Nat) (b : RSlot), (heldGrad (ringOf (s.dies.get d.val) dir) = some (i, b)) ∧ own.length = b.f.pay.length ∧ svcFits s d.val (opposite dir) 16 = true ∧ hOwner b.f.hdr ≠ d.val ∧ creditsOf s d.val dir (2 * hGroup b.f.hdr + 1) ≠ 0) ∧
    (∃ (s : State) (d : Die) (dir : Dir) (own : Bytes) (i : Nat) (b : RSlot), (heldGrad (ringOf (s.dies.get d.val) dir) = some (i, b)) ∧ own.length = b.f.pay.length ∧ svcFits s d.val (opposite dir) 16 = true ∧ hOwner b.f.hdr = d.val ∧ s.md.epoch.line = none) :=
  ⟨⟨onArc sweep1 (frm 8 [(6, 1)] []) id, 0x8, .layerBuoy 1 .east [1], 1, .east, [1], 0, frm 8 [(6, 1)] [], damaged (frm 8 [(6, 1)] []) [1] [], by exact ⟨by simp, by decide +kernel⟩⟩,
   ⟨onArc sweep1 (frm 10 [(4, 1)] []) id, 0xA, .genBuoy 1 .east [], 1, .east, [], 0, frm 10 [(4, 1)] [], frm 10 [(4, 1)] [], by exact ⟨by simp, by decide +kernel⟩⟩,
   ⟨onArc sweep1 (frm 9 [(6, 1)] []) id, 0x9, .passEndBuoy 1 .east [], 1, .east, [], 0, frm 9 [(6, 1)] [], frm 9 [(6, 1)] [], by exact ⟨by simp, by decide +kernel⟩⟩,
   ⟨onArc sweep1 (frm 8 [(2, 0x10), (6, 1)] []) id, 0x8, .layerBuoy 1 .east [], 1, .east, [], 0, frm 8 [(2, 0x10), (6, 1)] [], frm 8 [(2, 0x10), (6, 1)] [], by exact ⟨by simp, by decide +kernel⟩⟩,
   ⟨onArc sweep1 (frm 8 [(6, 1)] []) id, 0x8, .layerBuoy 1 .east [], 1, .east, [], 0, frm 8 [(6, 1)] [], frm 8 [(6, 1)] [], by exact ⟨by simp, by decide +kernel⟩⟩,
   ⟨onArc sweep1 (frm 8 [(6, 1)] []) id, 0x8, .layerBuoy 1 .east [], 1, .east, [], 0, frm 8 [(6, 1)] [], frm 8 [(6, 1)] [], by exact ⟨by simp, by decide +kernel⟩⟩,
   ⟨onArc sweep1 (frm 10 [] []) (fun x => { x with east := { credits := credits1 } }), 0xA, .genBuoy 1 .east [], 1, .east, [], 0, frm 10 [] [], frm 10 [] [], by exact ⟨by simp, by decide +kernel⟩⟩,
   ⟨onArc { sweep1 with bwd := true } grad1 id, 1, .east, [1], [], 0, grad1, damaged grad1 [1] [], by decide +kernel⟩,
   ⟨onArc { sweep1 with bwd := true } grad1 id, 1, .east, [], [1], 0, grad1, damaged grad1 [] [1], by decide +kernel⟩,
   ⟨inBuf { sweep1 with bwd := true } ⟨grad1, .grad, false⟩ id, 1, .east, [0], 0, ⟨grad1, .grad, false⟩, by decide +kernel⟩,
   ⟨inBuf { sweep1 with bwd := true } ⟨grad1, .grad, false⟩ id, 1, .east, 0, ⟨grad1, .grad, false⟩, by decide +kernel⟩,
   ⟨inBuf { sweep1 with bwd := true } ⟨grad1, .grad, false⟩ (fun r => { r with credits := credits1 }), 1, .east, [0, 0, 0, 0], 0, ⟨grad1, .grad, false⟩, by decide +kernel⟩,
   ⟨inBuf { sweep1 with bwd := true } ⟨frm 2 [(2, 0x08), (6, 1)] [1, 2, 3, 4], .grad, false⟩ id, 1, .east, [0, 0, 0, 0], 0, ⟨frm 2 [(2, 0x08), (6, 1)] [1, 2, 3, 4], .grad, false⟩, by decide +kernel⟩⟩

theorem test_hyps_DamagedFramesAreAskedForAgain :
    (∃ (s : State) (d : Die) (dir : Dir) (n : Nat) (h : Bytes) (us : List SendUnit) (p : List PByte) (f : Frame), s.mem.ecc = [] ∧ (svcBack s d.val dir = some (n, .rereq d.val h)) ∧ us = runUnits s d.val (hLayer h) (hSeg h) (hGroup h) ∧ p = (readFrame s us (hFidx h)).2 ∧ f = mkFrame (withFlag (withFlag (patch h 4 (leBytes 4 (s.md.pass.gen.toNat * 2 ^ 16 + s.md.pass.num.toNat))) 24 true) 25 (anyPois p)) (plain p) (sendLen us) ∧ svcFits s d.val dir (arcLen f) = true) ∧
    (∃ (s : State) (d : Die) (dir : Dir) (n : Nat) (o : Nat) (h : Bytes), (svcBack s d.val dir = some (n, .rereq o h)) ∧ o ≠ d.val ∧ svcFits s d.val (opposite dir) 32 = true) ∧
    (∃ (s : State) (d : Die) (dir : Dir) (hx : Bytes) (px : Bytes) (g : Frame) (f : Frame) (p : Nat) (i : Nat) (b : RSlot), (svcOn s d.val dir = some (p, .resent g)) ∧ f = damaged g hx px ∧ keptFor (ringOf (s.dies.get d.val) dir) g.hdr = some i ∧ (ringOf (s.dies.get d.val) dir).buf[i]? = some b ∧ hcrcOk f.hdr = true ∧ ((hPois f.hdr = true ∨ pcrcOk f = true))) ∧
    (∃ (s : State) (d : Die) (dir : Dir) (hx : Bytes) (px : Bytes) (g : Frame) (f : Frame) (p : Nat), (svcOn s d.val dir = some (p, .resent g)) ∧ f = damaged g hx px ∧ keptFor (ringOf (s.dies.get d.val) dir) g.hdr = none ∧ forwards s d.val dir (hOwner g.hdr) = true ∧ svcFits s d.val dir (arcLen g) = true) ∧
    (∃ (s : State) (d : Die) (dir : Dir) (i : Nat) (n : Nat) (b : RSlot), (ringOf (s.dies.get d.val) dir).buf[i]? = some b ∧ b.phase = .kept n ∧ n < 4) ∧
    (∃ (s : State) (d : Die) (dir : Dir) (i : Nat) (n : Nat) (b : RSlot), (ringOf (s.dies.get d.val) dir).buf[i]? = some b ∧ b.phase = .kept n ∧ 4 ≤ n) ∧
    (∃ (s : State) (d : Die) (dir : Dir) (h : Bytes) (g : Frame) (r : Nat) (n : Nat), (svcBack s d.val dir = some (n, .xrereq d.val r h)) ∧ (s.dies.get d.val).xkept.find? (fun f => sameField f.hdr h) = some g ∧ svcFits s d.val dir (arcLen g) = true) ∧
    (∃ (s : State) (d : Die) (dir : Dir) (h : Bytes) (o : Nat) (r : Nat) (n : Nat), (svcBack s d.val dir = some (n, .xrereq o r h)) ∧ o ≠ d.val ∧ svcFits s d.val (opposite dir) 32 = true) ∧
    (∃ (s : State) (d : Die) (i : Nat) (w : XWait), (s.dies.get d.val).xwaits[i]? = some w ∧ w.attempts < 4) ∧
    (∃ (s : State) (d : Die) (i : Nat) (w : XWait), (s.dies.get d.val).xwaits[i]? = some w ∧ 4 ≤ w.attempts) ∧
    (∃ (s : State) (d : Die) (dir : Dir) (i : Nat), (ringOf (s.dies.get d.val) dir).buf[i]? = none) ∧
    (∃ (s : State) (d : Die) (i : Nat), (s.dies.get d.val).xwaits[i]? = none) :=
  ⟨⟨updDie (weighed sweep1) 2 (fun x => { x with outW := { svc := [.rereq 1 weight1.hdr] } }), 1, .east, 2, weight1.hdr, (let s : State := updDie (weighed sweep1) 2 (fun x => { x with outW := { svc := [.rereq 1 weight1.hdr] } }); let d : Die := 1; let h : Bytes := weight1.hdr; runUnits s d.val (hLayer h) (hSeg h) (hGroup h)), (let s : State := updDie (weighed sweep1) 2 (fun x => { x with outW := { svc := [.rereq 1 weight1.hdr] } }); let h : Bytes := weight1.hdr; let us : List SendUnit := (let s : State := updDie (weighed sweep1) 2 (fun x => { x with outW := { svc := [.rereq 1 weight1.hdr] } }); let d : Die := 1; let h : Bytes := weight1.hdr; runUnits s d.val (hLayer h) (hSeg h) (hGroup h)); (readFrame s us (hFidx h)).2), (let s : State := updDie (weighed sweep1) 2 (fun x => { x with outW := { svc := [.rereq 1 weight1.hdr] } }); let h : Bytes := weight1.hdr; let us : List SendUnit := (let s : State := updDie (weighed sweep1) 2 (fun x => { x with outW := { svc := [.rereq 1 weight1.hdr] } }); let d : Die := 1; let h : Bytes := weight1.hdr; runUnits s d.val (hLayer h) (hSeg h) (hGroup h)); let p : List PByte := (let s : State := updDie (weighed sweep1) 2 (fun x => { x with outW := { svc := [.rereq 1 weight1.hdr] } }); let h : Bytes := weight1.hdr; let us : List SendUnit := (let s : State := updDie (weighed sweep1) 2 (fun x => { x with outW := { svc := [.rereq 1 weight1.hdr] } }); let d : Die := 1; let h : Bytes := weight1.hdr; runUnits s d.val (hLayer h) (hSeg h) (hGroup h)); (readFrame s us (hFidx h)).2); mkFrame (withFlag (withFlag (patch h 4 (leBytes 4 (s.md.pass.gen.toNat * 2 ^ 16 + s.md.pass.num.toNat))) 24 true) 25 (anyPois p)) (plain p) (sendLen us)), by decide +kernel⟩,
   ⟨updDie (inPass sweep1) 2 (fun x => { x with outW := { svc := [.rereq 0 weight1.hdr] } }), 1, .east, 2, 0, weight1.hdr, by decide +kernel⟩,
   ⟨updDie (inBuf sweep1 ⟨weight1, .kept 1, false⟩ id) 0 (fun x => { x with outE := { svc := [.resent weight1] } }), 1, .east, [], [], weight1, weight1, 0, 0, ⟨weight1, .kept 1, false⟩, by decide +kernel⟩,
   ⟨updDie (inPass sweep1) 0 (fun x => { x with outE := { svc := [.resent weight1] } }), 1, .east, [], [1], weight1, damaged weight1 [] [1], 0, by decide +kernel⟩,
   ⟨inBuf sweep1 ⟨weight1, .kept 3, false⟩ id, 1, .east, 0, 3, ⟨weight1, .kept 3, false⟩, by decide +kernel⟩,
   ⟨inBuf sweep1 ⟨weight1, .kept 4, false⟩ id, 1, .east, 0, 4, ⟨weight1, .kept 4, false⟩, by decide +kernel⟩,
   ⟨updDie (updDie (inPass moored1) 1 fun x => { x with xkept := [packet2] }) 2 (fun x => { x with outW := { svc := [.xrereq 1 3 packet2.hdr] } }), 1, .east, packet2.hdr, packet2, 3, 2, by decide +kernel⟩,
   ⟨updDie (inPass moored1) 2 (fun x => { x with outW := { svc := [.xrereq 0 3 packet1.hdr] } }), 1, .east, packet1.hdr, 0, 3, 2, by decide +kernel⟩,
   ⟨updDie (inPass moored1) 1 (fun x => { x with xwaits := [⟨packet1.hdr, 3, packet1⟩] }), 1, 0, ⟨packet1.hdr, 3, packet1⟩, by decide +kernel⟩,
   ⟨updDie (inPass moored1) 1 (fun x => { x with xwaits := [⟨packet1.hdr, 4, packet1⟩] }), 1, 0, ⟨packet1.hdr, 4, packet1⟩, by decide +kernel⟩,
   ⟨up, 1, .west, 0, by decide +kernel⟩,
   ⟨up, 1, 0, by decide +kernel⟩⟩

theorem test_hyps_ExchangesAndPassesComplete :
    (∃ (s : State) (d : Die) (dir : Dir) (layer : BitVec 12) (xid : BitVec 4) (sum : Bool) (last : Bool) (off : Nat) (len : Nat) (pay : Bytes) (n : Nat), s.md.pass.slot < 8 ∧ nextDie s d.val dir = some n ∧ inMoored s d.val = true ∧ (packetAt (contribution s d.val layer.toNat xid.toNat) (packetsSent (ringOf (s.dies.get d.val) dir) layer.toNat xid.toNat) = some (sum, off, len, last)) ∧ sameSent s d.val layer.toNat xid.toNat sum off = none ∧ pay.length = len) ∧
    (∃ (s : State) (d : Die) (dir : Dir) (layer : BitVec 12) (xid : BitVec 4) (sum : Bool) (last : Bool) (off : Nat) (len : Nat) (n : Nat) (g : Frame), s.md.pass.slot < 8 ∧ nextDie s d.val dir = some n ∧ inMoored s d.val = true ∧ (packetAt (contribution s d.val layer.toNat xid.toNat) (packetsSent (ringOf (s.dies.get d.val) dir) layer.toNat xid.toNat) = some (sum, off, len, last)) ∧ sameSent s d.val layer.toNat xid.toNat sum off = some g ∧ g.pay.length = len) ∧
    (∃ (s : State) (d : Die) (dir : Dir) (layer : BitVec 12) (xid : BitVec 4), packetAt (contribution s d.val layer.toNat xid.toNat) (packetsSent (ringOf (s.dies.get d.val) dir) layer.toNat xid.toNat) = none) ∧
    (∃ (s : State) (d : Die) (dir : Dir) (hx : Bytes) (px : Bytes) (g : Frame) (f : Frame) (p : Nat), prevDie s d.val dir = some p ∧ headFrame s d.val dir = some g ∧ hKind g.hdr = 4 ∧ mayArrive s d.val dir = true ∧ f = damaged g hx px ∧ hcrcOk f.hdr = true ∧ hKind f.hdr = 4 ∧ s.md.pass.running = true ∧ s.md.pass.mode ≠ 1 ∧ hPass f.hdr = (s.dies.get d.val).pass ∧ ((hPois f.hdr = true ∨ pcrcOk f = true))) ∧
    (∃ (s : State) (d : Die) (dir : Dir) (hx : Bytes) (px : Bytes) (g : Frame) (f : Frame) (p : Nat), prevDie s d.val dir = some p ∧ headFrame s d.val dir = some g ∧ hKind g.hdr = 4 ∧ mayArrive s d.val dir = true ∧ f = damaged g hx px ∧ hcrcOk f.hdr = true ∧ hKind f.hdr = 4 ∧ s.md.pass.running = true ∧ s.md.pass.mode ≠ 1 ∧ hPass f.hdr = (s.dies.get d.val).pass ∧ ((hPois f.hdr = true ∨ pcrcOk f = true)) ∧ xForwards s d.val dir (xSrc f.hdr) = false) ∧
    (∃ (s : State) (d : Die) (dir : Dir) (hx : Bytes) (px : Bytes) (g : Frame) (f : Frame) (p : Nat), prevDie s d.val dir = some p ∧ headFrame s d.val dir = some g ∧ hKind g.hdr = 4 ∧ mayArrive s d.val dir = true ∧ f = damaged g hx px ∧ hcrcOk f.hdr = true ∧ hKind f.hdr = 4 ∧ s.md.pass.running = true ∧ s.md.pass.mode ≠ 1 ∧ hPass f.hdr = (s.dies.get d.val).pass ∧ ((hPois f.hdr = true ∨ pcrcOk f = true)) ∧ xForwards s d.val dir (xSrc f.hdr) = true) ∧
    (∃ (s : State) (f : Frame) (p : XPlan), planOf s (xLayer f.hdr) (xXid f.hdr) = some p ∧ xSum f.hdr = false) ∧
    (∃ (s : State) (d : Die) (dir : Dir) (hx : Bytes) (px : Bytes) (g : Frame) (f : Frame), headFrame s d.val dir = some g ∧ hKind g.hdr = 4 ∧ mayArrive s d.val dir = true ∧ f = damaged g hx px ∧ ((hcrcOk f.hdr = false ∨ hKind f.hdr ≠ 4 ∨ (s.md.pass.running = true ∧ s.md.pass.mode = 1)))) ∧
    (∃ (s : State) (d : Die) (layer : BitVec 12) (xid : BitVec 4) (r : XRun) (p : XPlan), (s.dies.get d.val).xruns.find? (fun r => r.layer = layer.toNat && r.xid = xid.toNat) = some r ∧ r.complete = false ∧ s.md.pass.running = true ∧ planOf s layer.toNat xid.toNat = some p ∧ xWhole s d.val p r = false) ∧
    (∃ (s : State) (d : Die) (layer : BitVec 12) (xid : BitVec 4) (r : XRun) (p : XPlan), (s.dies.get d.val).xruns.find? (fun r => r.layer = layer.toNat && r.xid = xid.toNat) = some r ∧ r.complete = false ∧ s.md.pass.running = true ∧ planOf s layer.toNat xid.toNat = some p ∧ xWhole s d.val p r = true) ∧
    (∃ (s : State) (d : Die) (layer : BitVec 12) (xid : BitVec 4) (r : XRun) (p : XPlan), (s.dies.get d.val).xruns.find? (fun r => r.layer = layer.toNat && r.xid = xid.toNat) = some r ∧ r.complete = false ∧ s.md.pass.running = true ∧ planOf s layer.toNat xid.toNat = some p ∧ xWhole s d.val p r = true ∧ split s = false) ∧
    (∃ (s : State) (d : Die) (layer : BitVec 12) (xid : BitVec 4) (r : XRun), (s.dies.get d.val).xruns.find? (fun r => r.layer = layer.toNat && r.xid = xid.toNat) = some r ∧ r.complete = false ∧ s.md.pass.running = true ∧ planOf s layer.toNat xid.toNat = none ∧ isScore s layer.toNat xid.toNat = true ∧ scoreWhole s (passGen s).info d.val r = true) ∧
    (∃ (s : State) (d : Die), s.mem.ecc = [] ∧ s.md.pass.running = true ∧ dieUp s d.val = true ∧ (s.dies.get d.val).passDone = false ∧ (if s.md.pass.mode = 1 then sweepDone s d.val else mooredDone s d.val) = true ∧ s.md.epoch.waiting = []) ∧
    (∃ (s : State) (d : Die), s.mem.ecc = [] ∧ s.md.pass.running = true ∧ dieUp s d.val = true ∧ (s.dies.get d.val).passDone = false ∧ (if s.md.pass.mode = 1 then sweepDone s d.val else mooredDone s d.val) = true ∧ s.md.epoch.waiting = [] ∧ ((∃ e, e < 8 ∧ dieUp s e = true ∧ e ≠ d.val ∧ e ∉ s.md.pass.done))) ∧
    (∃ (s : State) (d : Die), s.mem.ecc = [] ∧ s.md.pass.running = true ∧ dieUp s d.val = true ∧ (s.dies.get d.val).passDone = false ∧ (if s.md.pass.mode = 1 then sweepDone s d.val else mooredDone s d.val) = true ∧ s.md.epoch.waiting = [] ∧ ((∀ e, e < 8 → dieUp s e = true → e = d.val ∨ e ∈ s.md.pass.done))) ∧
    (∃ (s : State) (d : Die), ((s.md.pass.running = false ∨ (if s.md.pass.mode = 1 then sweepDone s d.val else mooredDone s d.val) = false))) :=
  ⟨⟨inPass moored1, 1, .west, 0, 0, false, false, 0, 16, List.replicate 16 0, 0, by decide +kernel⟩,
   ⟨updDie (inPass moored1) 1 (fun x => { x with xkept := [packet2] }), 1, .west, 0, 0, false, false, 0, 16, 0, packet2, by decide +kernel⟩,
   ⟨updDie (inPass moored1) 1 (fun x => { x with east := { xsent := [(0, 0, 2)] } }), 1, .east, 0, 0, by decide +kernel⟩,
   ⟨onArc moored1 packet1 id, 1, .east, [], [], packet1, packet1, 0, by decide +kernel⟩,
   ⟨onArc moored1 (frm 4 [(2, 0x28), (6, 1)] [1]) id, 1, .east, [], [], frm 4 [(2, 0x28), (6, 1)] [1], frm 4 [(2, 0x28), (6, 1)] [1], 0, by decide +kernel⟩,
   ⟨onArc moored1 packet1 id, 1, .east, [], [], packet1, packet1, 0, by decide +kernel⟩,
   ⟨inPass moored1, packet1, plan1, by decide +kernel⟩,
   ⟨onArc sweep1 packet1 id, 1, .east, [], [], packet1, packet1, by decide +kernel⟩,
   ⟨updDie (inPass moored1) 1 (fun x => { x with xruns := [newXRun 0 0] }), 1, 0, 0, newXRun 0 0, plan1, by decide +kernel⟩,
   ⟨updDie (inPass moored1) 1 (fun x => { x with xruns := [wholeX] }), 1, 0, 0, wholeX, plan1, by decide +kernel⟩,
   ⟨updDie (inPass moored1) 1 (fun x => { x with xruns := [wholeX] }), 1, 0, 0, wholeX, plan1, by decide +kernel⟩,
   ⟨updDie lined 0 (fun x => { x with xruns := [scoreX] }), 0, 0, 14, scoreX, by decide +kernel⟩,
   ⟨updDie (inPass moored1) 1 (fun x => { x with xruns := [{ wholeX with complete := true }] }), 1, by decide +kernel⟩,
   ⟨updDie (inPass moored1) 1 (fun x => { x with xruns := [{ wholeX with complete := true }] }), 1, by exact ⟨by decide +kernel, by decide +kernel, by decide +kernel, by decide +kernel, by decide +kernel, by decide +kernel, 0, by decide +kernel⟩⟩,
   ⟨updDie (inPass { moored1 with done := [0, 2, 3, 4, 5, 6, 7] }) 1 (fun x => { x with xruns := [{ wholeX with complete := true }] }), 1, by decide +kernel⟩,
   ⟨inPass moored1, 1, by decide +kernel⟩⟩

theorem test_hyps_LinksTrainAndAreAdmitted :
    (∃ (s : State) (n : LinkNo), (s.lk.links.get n.val).st = 0 ∧ s.lk.twin ≠ .detached ∧ dieOut s (n.val / 3) = false) ∧
    (∃ (s : State) (n : LinkNo), (((s.lk.links.get n.val).st ≠ 0 ∨ s.lk.twin = .detached ∨ dieOut s (n.val / 3) = true))) ∧
    (∃ (s : State) (n : LinkNo), (s.lk.links.get n.val).st = 1 ∧ (s.lk.links.get n.val).port = none) ∧
    (∃ (s : State) (n : LinkNo), (s.lk.links.get n.val).st = 1 ∧ (s.lk.links.get n.val).port = none) ∧
    (∃ (s : State) (n : LinkNo), (s.lk.links.get n.val).st = 2 ∧ (s.lk.links.get n.val).port = none) ∧
    (∃ (s : State) (n : LinkNo), (s.lk.links.get n.val).st = 3) ∧
    (∃ (s : State) (n : LinkNo), (s.lk.links.get n.val).st = 4) ∧
    (∃ (s : State) (n : LinkNo), linkTalks s n.val = true) ∧
    (∃ (s : State) (n : LinkNo) (f : Bytes), ((linkTalks s n.val = false ∨ frameOk f = false))) ∧
    (∃ (s : State) (n : LinkNo) (f : Bytes), (s.lk.links.get n.val).st = 2 ∧ frameOk f = true ∧ (s.lk.links.get n.val).cand = none) ∧
    (∃ (s : State) (n : LinkNo) (f : Bytes) (c : Peer) (w : State), (s.lk.links.get n.val).st = 2 ∧ frameOk f = true ∧ (s.lk.links.get n.val).cand = some c ∧ samePeer c (framePeer f) = true ∧ frameHeard f = true ∧ 2 ≤ (s.lk.links.get n.val).consec ∧ (w = updLink s n.val (fun l => { l with heard := true, cand := some (framePeer f), consec := l.consec + 1 })) ∧ holdCause w n.val (framePeer f) ≠ 0) ∧
    (∃ (s : State) (n : LinkNo) (f : Bytes) (c : Peer) (w : State) (k : Nat), (s.lk.links.get n.val).st = 2 ∧ frameOk f = true ∧ (s.lk.links.get n.val).cand = some c ∧ samePeer c (framePeer f) = true ∧ frameHeard f = true ∧ 2 ≤ (s.lk.links.get n.val).consec ∧ (w = updLink s n.val (fun l => { l with heard := true, cand := some (framePeer f), consec := l.consec + 1 })) ∧ holdCause w n.val (framePeer f) = 0 ∧ choosePort w n.val (framePeer f) = some k ∧ s.lk.twin ≠ .isolated) ∧
    (∃ (s : State) (n : LinkNo) (f : Bytes) (q : Peer), (s.lk.links.get n.val).st = 3 ∧ frameOk f = true ∧ (s.lk.links.get n.val).peer = some q ∧ samePeer q (framePeer f) = true) ∧
    (∃ (s : State) (n : LinkNo), linkTalks s n.val = true ∧ (s.lk.links.get n.val).flitFails < 8) ∧
    (∃ (s : State) (n : LinkNo), linkTalks s n.val = true ∧ 8 ≤ (s.lk.links.get n.val).flitFails) ∧
    (∃ (s : State) (n : LinkNo), linkTalks s n.val = false) :=
  ⟨⟨up, 4, by decide +kernel⟩,
   ⟨link4 { st := 1 }, 4, by decide +kernel⟩,
   ⟨link4 { st := 1 }, 4, by decide +kernel⟩,
   ⟨link4 { st := 1 }, 4, by decide +kernel⟩,
   ⟨link4 { st := 2 }, 4, by decide +kernel⟩,
   ⟨link4 { st := 3 }, 4, by decide +kernel⟩,
   ⟨link4 { st := 4 }, 4, by decide +kernel⟩,
   ⟨link4 { st := 3 }, 4, by decide +kernel⟩,
   ⟨link4 { st := 0 }, 4, chf1, by decide +kernel⟩,
   ⟨link4 { st := 2 }, 4, chf1, by decide +kernel⟩,
   ⟨link4 { st := 2, cand := some (framePeer chf3), consec := 2 }, 4, chf3, framePeer chf3, (let s : State := link4 { st := 2, cand := some (framePeer chf3), consec := 2 }; let n : LinkNo := 4; let f : Bytes := chf3; updLink s n.val (fun l => { l with heard := true, cand := some (framePeer f), consec := l.consec + 1 })), by decide +kernel⟩,
   by
    by_cases h : (framePeer chf1).serial = ownSerial
    · exact ⟨heard2 chf2, 4, chf2, framePeer chf2, heard3 chf2, 0, rfl, by decide +kernel, rfl, by decide +kernel, by decide +kernel, by decide +kernel, rfl, held_chf2 (fun e => absurd (h.trans e.symm) (by decide +kernel)), by decide +kernel, by decide +kernel⟩
    · exact ⟨heard2 chf1, 4, chf1, framePeer chf1, heard3 chf1, 0, rfl, by decide +kernel, rfl, by decide +kernel, by decide +kernel, by decide +kernel, rfl, held_chf1 h, by decide +kernel, by decide +kernel⟩,
   ⟨link4 { st := 3, peer := some (framePeer chf1) }, 4, chf1, framePeer chf1, by decide +kernel⟩,
   ⟨link4 { st := 3, flitFails := 7 }, 4, by decide +kernel⟩,
   ⟨link4 { st := 3, flitFails := 8 }, 4, by decide +kernel⟩,
   ⟨link4 { st := 1 }, 4, by decide +kernel⟩⟩

theorem test_hyps_MessagesMembersAndFog :
    (∃ (s : State) (p : Nat) (kind : Nat) (q : Port), s.lk.ports.get p = some q ∧ 64 ≤ (q.unacked.countP fun u => u.2.control = controlKind kind)) ∧
    (∃ (s : State) (n : LinkNo) (m : Msg) (k : Nat) (q : Port), (s.lk.links.get n.val).port = some k ∧ s.lk.ports.get k = some q ∧ m.kind = kindAck ∧ q.held = []) ∧
    (∃ (s : State) (n : LinkNo) (m : Msg) (k : Nat) (q : Port), (s.lk.links.get n.val).port = some k ∧ s.lk.ports.get k = some q ∧ m.kind ≠ kindAck ∧ seqUpTo m.seq (q.nextSeq - 1) = true ∧ q.early = []) ∧
    (∃ (s : State) (n : LinkNo) (m : Msg) (k : Nat) (q : Port), (s.lk.links.get n.val).port = some k ∧ s.lk.ports.get k = some q ∧ m.kind ≠ kindAck ∧ m.seq = q.nextSeq ∧ q.early = []) ∧
    (∃ (s : State) (n : LinkNo), (s.lk.links.get n.val).port = none) ∧
    (∃ (s : State), s.lk.joined = true) ∧
    (∃ (s : State) (i : Nat), s.lk.joined = true ∧ i ≠ selfModule s) ∧
    (∃ (s : State), s.lk.joined = false ∧ s.lk.joining = false) ∧
    (∃ (s : State) (p : Fin 8) (r : MemberRow), s.lk.joined = true ∧ portLinks s p.val ≠ [] ∧ r.i.val ≠ selfModule s) ∧
    (∃ (s : State) (p : Fin 8) (r : MemberRow), s.lk.joined = true ∧ portLinks s p.val ≠ [] ∧ r.i.val ≠ selfModule s ∧ r.hops < 15 ∧ (s.lk.members.get r.i.val).valid = false) ∧
    (∃ (s : State) (p : Fin 8) (r : MemberRow), s.lk.joined = true ∧ portLinks s p.val ≠ [] ∧ r.i.val ≠ selfModule s ∧ (s.lk.members.get r.i.val).heartbeat < r.heartbeat ∧ (s.lk.members.get r.i.val).valid = true) ∧
    (∃ (s : State) (p : Fin 8) (r : MemberRow), s.lk.joined = true ∧ portLinks s p.val ≠ [] ∧ r.i.val ≠ selfModule s ∧ 15 ≤ r.hops ∧ (s.lk.members.get r.i.val).valid = false) ∧
    (∃ (s : State) (r : MemberRow), r.i.val = selfModule s) ∧
    (∃ (s : State) (i : Fin 512), talksMembers s = true ∧ i.val ≠ selfModule s ∧ (s.lk.members.get i.val).valid = true ∧ (s.lk.members.get i.val).lost = false) ∧
    (∃ (s : State) (i : Fin 512), (s.lk.members.get i.val).valid = false) ∧
    (∃ (s : State) (p : Fin 8) (f : Fog), portLinks s p.val ≠ [] ∧ ((f.group.toNat, f.module.toNat, f.bootEpoch) ∈ s.lk.fogSeen)) ∧
    (∃ (s : State) (p : Fin 8) (f : Fog), portLinks s p.val ≠ [] ∧ ((f.group.toNat, f.module.toNat, f.bootEpoch) ∉ s.lk.fogSeen) ∧ 16 * f.group.toNat + f.module.toNat ≠ selfModule s ∧ s.lk.twin = .unpaired ∧ (s.lk.members.get (16 * f.group.toNat + f.module.toNat)).valid = false) :=
  ⟨⟨port2 { unacked := List.replicate 64 (5, msg1 4 3) }, 2, 4, { unacked := List.replicate 64 (5, msg1 4 3) }, by decide +kernel⟩,
   ⟨port2 { unacked := [(5, msg1 1 3)] }, 5, msg1 0 3, 2, { unacked := [(5, msg1 1 3)] }, by decide +kernel⟩,
   ⟨port2 { nextSeq := 5 }, 5, msg1 1 4, 2, { nextSeq := 5 }, by decide +kernel⟩,
   ⟨port2 { nextSeq := 5 }, 5, msg1 1 5, 2, { nextSeq := 5 }, by decide +kernel⟩,
   ⟨up, 5, by decide +kernel⟩,
   ⟨joinedRoot, by decide +kernel⟩,
   ⟨joinedRoot, 1, by decide +kernel⟩,
   ⟨up, by decide +kernel⟩,
   ⟨memb {}, 2, mrow 1 15, by decide +kernel⟩,
   ⟨memb {}, 2, mrow 1 14, by decide +kernel⟩,
   ⟨memb { valid := true, heartbeat := 4 }, 2, mrow 5 15, by decide +kernel⟩,
   ⟨memb {}, 2, mrow 1 15, by decide +kernel⟩,
   ⟨up, ⟨0, 1, 0, false, false, 0, 0⟩, by decide +kernel⟩,
   ⟨memb { valid := true }, 3, by decide +kernel⟩,
   ⟨memb {}, 3, by decide +kernel⟩,
   ⟨{ port2 {} with lk := { (port2 {}).lk with fogSeen := [(1, 2, 3)] } }, 2, ⟨1, 2, 0, 3, 5⟩, by decide +kernel⟩,
   ⟨port2 {}, 2, ⟨1, 2, 0, 3, 5⟩, by decide +kernel⟩⟩

theorem test_hyps_TwinTrafficIsKept :
    (∃ (s : State), twinListens s = true) ∧
    (∃ (s : State) (c : Checkpoint), twinListens s = true ∧ c.committed = true) ∧
    (∃ (c : Checkpoint), c.committed = false) ∧
    (∃ (s : State) (ra : W64), twinListens s = true ∧ s.lk.unackedCk.contains ra = false) ∧
    (∃ (s : State) (ra : W64) (r : List W64), s.lk.twin = .mirror ∧ s.lk.unackedCk = ra :: r ∧ s.lk.twinWaits = [] ∧ s.cp.jobs = []) ∧
    (∃ (s : State) (tag : BitVec 16) (x : TwinLog), twinListens s = true ∧ s.lk.log.find? (fun y => entryTag y.entry = tag.toNat) = some x ∧ entryOpc x.entry ≠ 0x01) ∧
    (∃ (s : State) (tag : BitVec 16) (x : TwinLog), twinListens s = true ∧ s.lk.log.find? (fun y => entryTag y.entry = tag.toNat) = some x ∧ entryOpc x.entry = 0x01 ∧ byteN x.entry 16 = 2) ∧
    (∃ (s : State), twinListens s = false) :=
  ⟨⟨mirrored, by decide +kernel⟩,
   ⟨mirrored, ⟨0x1000, rec1, [], true⟩, by decide +kernel⟩,
   ⟨⟨0x1000, rec1, [], false⟩, by decide +kernel⟩,
   ⟨mirrored, 0x1000, by decide +kernel⟩,
   ⟨{ mirrored with lk := { mirrored.lk with unackedCk := [0x1000] } }, 0x1000, [], by decide +kernel⟩,
   ⟨{ mirrored with lk := { mirrored.lk with log := [tlog [(2, 7)] 0x0D] } }, 7, tlog [(2, 7)] 0x0D, by decide +kernel⟩,
   ⟨{ mirrored with lk := { mirrored.lk with log := [tlog [(2, 7), (16, 2)] 1] } }, 7, tlog [(2, 7), (16, 2)] 1, by decide +kernel⟩,
   ⟨up, by decide +kernel⟩⟩

theorem test_hyps_InputAlertAndPowerPins :
    (∃ (s : State), s.pins.hotSwap = true ∧ s.pins.alert = false) ∧
    (∃ (s : State) (d : Nat), d < 8 ∧ dieUp (alertOn s) d = true) ∧
    (∃ (s : State), s.pins.hotSwap = true ∧ s.pins.alert = true) ∧
    (∃ (s : State), s.pins.hotSwap = true ∧ s.pins.alert = true) ∧
    (∃ (s : State), s.pins.hotSwap = false) ∧
    (∃ (s : State), s.pins.alert = false) ∧
    (∃ (s : State), s.pins.alert = true) ∧
    (∃ (s : State), s.pins.hotSwap = true) ∧
    (∃ (s : State), s.pins.hotSwap = true ∧ s.pins.alert = true) ∧
    (∃ (s : State), s.pins.hotSwap = true ∧ s.pins.alert = false) ∧
    (∃ (s : State), s.pins.hotSwap = true) ∧
    (∃ (s : State) (d : Die) (t : BitVec 8), s.pins.hotSwap = true ∧ dieUp s d.val = true ∧ 105 ≤ t.toNat) ∧
    (∃ (t : BitVec 8), t.toNat < 105) ∧
    (∃ (s : State) (c : Nat), ((c = 3 ∨ c = 4 ∨ c = 6)) ∧ s.boot.recovery = false ∧ portsUp s ≠ []) ∧
    (∃ (s : State), s.pins.hotSwap = false ∧ (s.pins.pwrEn && s.pins.needPwrEn) = false ∧ s.flt.bootFaults < 3 ∧ s.boot.committed = true ∧ s.boot.image = []) ∧
    (∃ (s : State), s.pins.hotSwap = true) ∧
    (∃ (s : State) (a : State), s.pins.hotSwap = true ∧ a = alertOn { s with pins := { s.pins with pwrEn := false } }) :=
  ⟨⟨up, by decide +kernel⟩,
   ⟨up, 0, by decide +kernel⟩,
   ⟨{ up with pins := { up.pins with alert := true } }, by decide +kernel⟩,
   ⟨{ up with pins := { up.pins with alert := true } }, by decide +kernel⟩,
   ⟨{ up with pins := { up.pins with hotSwap := false } }, by decide +kernel⟩,
   ⟨up, by decide +kernel⟩,
   ⟨{ up with pins := { up.pins with alert := true } }, by decide +kernel⟩,
   ⟨up, by decide +kernel⟩,
   ⟨{ up with pins := { up.pins with alert := true } }, by decide +kernel⟩,
   ⟨up, by decide +kernel⟩,
   ⟨up, by decide +kernel⟩,
   ⟨up, 3, 105, by decide +kernel⟩,
   ⟨104, by decide +kernel⟩,
   ⟨port2 {}, 3, by decide +kernel⟩,
   ⟨{ State.reset with pins := { State.reset.pins with hotSwap := false, needPwrEn := true, pwrEn := false } }, by decide +kernel⟩,
   ⟨up, by decide +kernel⟩,
   ⟨up, (let s : State := up; alertOn { s with pins := { s.pins with pwrEn := false } }), by decide +kernel⟩⟩

theorem test_hyps_TokensAreGrantedAndLent :
    (∃ (s : State), s.pw.suspended = false) ∧
    (∃ (s : State) (d : Nat), s.pw.suspended = false ∧ d < 8 ∧ dieUp s d = true) ∧
    (∃ (s : State) (d : Nat), s.pw.suspended = false ∧ d < 8 ∧ dieUp s d = false) ∧
    (∃ (s : State) (l : List Nat) (d : Nat), s.pw.suspended = false ∧ l = [] ∧ d < 8 ∧ dieUp s d = true) ∧
    (∃ (s : State), s.pw.suspended = true) ∧
    (∃ (s : State) (d : Die), dieUp s d.val = true) ∧
    (∃ (s : State) (d : Die) (w : BitVec 9), dieUp s d.val = true ∧ ((allowance (tokOf s d.val) < w.toNat ∨ 95 ≤ (tokOf s d.val).tj.toNat))) ∧
    (∃ (s : State) (d : Die) (w : BitVec 9), dieUp s d.val = true ∧ (tokOf s d.val).tj.toNat < 95 ∧ w.toNat + 10 ≤ allowance (tokOf s d.val)) ∧
    (∃ (s : State) (d : Die) (w : BitVec 9), dieUp s d.val = true ∧ (tokOf s d.val).tj.toNat < 95 ∧ w.toNat ≤ allowance (tokOf s d.val) ∧ allowance (tokOf s d.val) < w.toNat + 10) ∧
    (∃ (s : State) (d : Die) (us : Nat), borrowing s = true ∧ dieUp s d.val = true ∧ allStalled s d.val = true ∧ 50 ≤ us ∧ (tokOf s d.val).lent = 0 ∧ 120 < (tokOf s d.val).held ∧ throttled s d.val ≠ []) ∧
    (∃ (s : State) (d : Die) (us : Nat), ((borrowing s = false ∨ allStalled s d.val = false ∨ us < 50 ∨ throttled s d.val = []))) :=
  ⟨⟨up, by decide +kernel⟩,
   ⟨up, 3, by decide +kernel⟩,
   ⟨updDie up 3 (fun d => { d with st := .retired }), 3, by decide +kernel⟩,
   ⟨up, [], 3, by decide +kernel⟩,
   ⟨{ up with pw := { up.pw with suspended := true } }, by decide +kernel⟩,
   ⟨up, 0, by decide +kernel⟩,
   ⟨withTok { held := 200, thr := 3 }, 0, 201, by decide +kernel⟩,
   ⟨withTok { held := 200, thr := 3, tj := 94 }, 0, 190, by decide +kernel⟩,
   ⟨withTok { held := 200, thr := 3, tj := 94 }, 0, 191, by decide +kernel⟩,
   ⟨stalled, 0, 50, by decide +kernel⟩,
   ⟨stalled, 0, 49, by decide +kernel⟩⟩

theorem test_hyps_ClockStepsAndThermalLimits :
    (∃ (s : State) (d : Die), dieUp s d.val = true ∧ 8 ≤ (tokOf s d.val).thr.toNat ∧ s.pw.pinned = false ∧ s.pw.repro = false ∧ s.pw.step < 3 ∧ bothCall s false = false) ∧
    (∃ (s : State) (d : Die), (tokOf s d.val).thr.toNat < 8) ∧
    (∃ (s : State), s.pw.pinned = false ∧ 0 < s.pw.step ∧ fitsFaster s = true) ∧
    (∃ (s : State), ((s.pw.pinned = true ∨ s.pw.step = 0 ∨ fitsFaster s = false))) ∧
    (∃ (t : BitVec 8), 95 ≤ t.toNat) ∧
    (∃ (s : State) (d : Die), 95 ≤ (tokOf s d.val).tj.toNat ∧ s.pw.repro = false ∧ s.pw.pinned = false ∧ s.pw.step < 3 ∧ bothCall s true = false) ∧
    (∃ (s : State) (d : Die), 95 ≤ (tokOf s d.val).tj.toNat ∧ bothCall s true = true) ∧
    (∃ (s : State) (t : BitVec 8), 100 ≤ t.toNat ∧ s.pw.repro = false) ∧
    (∃ (s : State) (t : BitVec 8), 100 ≤ t.toNat ∧ s.pw.repro = true) ∧
    (∃ (s : State) (t : BitVec 8), 100 ≤ t.toNat ∧ s.pw.repro = true ∧ s.pw.step < 3) ∧
    (∃ (t : BitVec 12), 400 < t.toNat) ∧
    (∃ (t : BitVec 12), t.toNat ≤ 400) ∧
    (∃ (s : State), s.pins.hotSwap = true ∧ s.pins.pllHold = false ∧ s.engines = []) ∧
    (∃ (s : State), s.pins.hotSwap = true ∧ s.pins.pllHold = true ∧ s.flt.bootFaults < 3 ∧ s.boot.committed = true ∧ s.boot.image = []) ∧
    (∃ (s : State), s.pins.hotSwap = true ∧ s.pins.perst = false ∧ s.pins.perstSeen = true ∧ s.pins.alert = false ∧ resetRefused s 4 = false) ∧
    (∃ (s : State), ((s.pins.perst = true ∨ s.pins.perstSeen = false ∨ s.pins.alert = true))) :=
  ⟨⟨withTok { held := 200, thr := 8 }, 0, by decide +kernel⟩,
   ⟨withTok { held := 200, thr := 7 }, 0, by decide +kernel⟩,
   ⟨{ up with pw := { up.pw with step := 1 } }, by decide +kernel⟩,
   ⟨up, by decide +kernel⟩,
   ⟨95, by decide +kernel⟩,
   ⟨withTok { held := 200, tj := 95 }, 0, by decide +kernel⟩,
   ⟨(let s := withTok { held := 200, tj := 95 }; { s with pw := { s.pw with downFor := some (false, now s) } }), 0, by decide +kernel⟩,
   ⟨up, 100, by decide +kernel⟩,
   ⟨{ up with pw := { up.pw with repro := true } }, 100, by decide +kernel⟩,
   ⟨{ up with pw := { up.pw with repro := true } }, 100, by decide +kernel⟩,
   ⟨401, by decide +kernel⟩,
   ⟨400, by decide +kernel⟩,
   ⟨up, by decide +kernel⟩,
   ⟨pllHeld, by decide +kernel⟩,
   ⟨up, by decide +kernel⟩,
   ⟨perstLow, by decide +kernel⟩⟩

theorem test_hyps_ResetsKeepAndClear :
    (∃ (s : State) (src : ResetSource), glbRefuses s src = false ∧ resetRefused s 1 = false) ∧
    (∃ (s : State) (src : ResetSource), glbRefuses s src = false ∧ resetRefused s 2 = false) ∧
    (∃ (s : State) (src : ResetSource), src ≠ .faultNotReady ∧ resetRefused s 4 = false) ∧
    (∃ (s : State), s.pins.hotSwap = true ∧ s.hq.ready = false ∧ s.pins.alert = false) ∧
    (∃ (s : State) (src : ResetSource), glbRefuses s src = false ∧ resetRefused s 1 = true) ∧
    (∃ (s : State) (src : ResetSource), glbRefuses s src = false ∧ resetRefused s 2 = true) ∧
    (∃ (s : State) (src : ResetSource), src ≠ .faultNotReady ∧ resetRefused s 4 = true) ∧
    (∃ (s : State), s.hq.ready = true) ∧
    (∃ (s : State), s.hq.ready = false) ∧
    (∃ (s : State), s.hq.ready = false) ∧
    (∃ (s : State), s.cp.jobs = [] ∧ s.cp.persists = [] ∧ s.engines = [] ∧ s.md.seqs = [] ∧ s.md.pass.running = false ∧ s.md.epoch.phase = .none ∧ s.md.freed = [] ∧ s.cp.remotes = [] ∧ s.md.pass.ref = false) ∧
    (∃ (s : State) (n : Nat), n < 24 ∧ s.flt.retired.contains (dieChan (n / 3)) = true) ∧
    (∃ (s : State), s.engines = []) ∧
    (∃ (s : State) (d : Die) (src : ResetSource), s.pins.hotSwap = true ∧ glbRefuses s src = false ∧ s.glb.reset = none ∧ (s.dies.get d.val).st ≠ .retired ∧ s.glb.dieResets = [] ∧ s.glb.dieResetQ = []) ∧
    (∃ (s : State) (d : Die) (src : ResetSource) (e : Nat) (r : List Nat), s.pins.hotSwap = true ∧ glbRefuses s src = false ∧ s.glb.reset = none ∧ (s.dies.get d.val).st ≠ .retired ∧ s.glb.dieResets = e :: r ∧ d.val ∉ s.glb.dieResets ∧ d.val ∉ s.glb.dieResetQ) ∧
    (∃ (s : State) (d : Die) (t : SelfTest), d.val ∈ s.glb.dieResets ∧ s.glb.dieResetQ = [] ∧ (s.dies.get d.val).st = .reset3 ∧ (testOf t d.val = ⟨[], [], [], [], []⟩) ∧ (s.dies.get d.val).badSpares = []) ∧
    (∃ (s : State) (d : Die) (t : SelfTest), d.val ∈ s.glb.dieResets ∧ s.glb.dieResetQ = [] ∧ s.cp.jobs = [] ∧ d ∈ t.failedDies) ∧
    (∃ (s : State) (d : Die), d.val ∉ s.glb.dieResets) :=
  ⟨⟨up, .pcieFlr, by decide +kernel⟩,
   ⟨up, .command, by decide +kernel⟩,
   ⟨up, .command, by decide +kernel⟩,
   ⟨notReady, by decide +kernel⟩,
   ⟨inReset 1, .pcieFlr, by decide +kernel⟩,
   ⟨inReset 2, .command, by decide +kernel⟩,
   ⟨inReset 4, .command, by decide +kernel⟩,
   ⟨up, by decide +kernel⟩,
   ⟨notReady, by decide +kernel⟩,
   ⟨notReady, by decide +kernel⟩,
   ⟨up, by decide +kernel⟩,
   ⟨{ up with flt := { up.flt with retired := [dieChan 3] } }, 11, by decide +kernel⟩,
   ⟨up, by decide +kernel⟩,
   ⟨up, 3, .command, by decide +kernel⟩,
   ⟨dieReset [2], 3, .command, 2, [], by decide +kernel⟩,
   ⟨updDie (dieReset [3]) 3 (fun x => { x with st := .reset3 }), 3, ⟨[2], [], [], [], []⟩, by decide +kernel⟩,
   ⟨dieReset [3], 3, ⟨[3], [], [], [], []⟩, by decide +kernel⟩,
   ⟨up, 3, by decide +kernel⟩⟩

theorem test_hyps_StartUpAndFatalFaults :
    (∃ (s : State) (r : ResetRun) (t : SelfTest), s.pins.hotSwap = true ∧ s.pins.pllHold = false ∧ s.boot.recovery = false ∧ s.hq.ready = false ∧ s.glb.state ≠ 4 ∧ s.glb.reset = some r ∧ r.level < 4 ∧ s.glb.dieResetQ = [] ∧ stopped s = false ∧ ((r.level = 2 → t.retiredTiles = [] ∧ t.bypassed = [] ∧ t.failedDies = []))) ∧
    (∃ (s : State) (r : ResetRun) (t : SelfTest) (n : TileNo), s.pins.hotSwap = true ∧ s.pins.pllHold = false ∧ s.boot.recovery = false ∧ s.hq.ready = false ∧ s.glb.state ≠ 4 ∧ s.glb.reset = some r ∧ r.level = 2 ∧ s.glb.dieResetQ = [] ∧ t.retiredTiles = [n] ∧ t.bypassed = [] ∧ t.failedDies = [] ∧ (s.tiles.get n.val).retired = false ∧ (s.tiles.get n.val).retirePend = false ∧ (s.tiles.get n.val).ctxs.any (fun c => c.2.active) = false ∧ (s.dies.get (n.val / 32)).st = .inService ∧ ((∀ m, (s.tiles.get m).retired = false ∧ (s.tiles.get m).retirePend = false))) ∧
    (∃ (s : State) (t : SelfTest), (t = ⟨[], [], [], [], []⟩) ∧ s.pins.hotSwap = true ∧ s.pins.pllHold = false ∧ s.boot.recovery = false ∧ s.hq.ready = false ∧ s.glb.state ≠ 4 ∧ ((∀ r, s.glb.reset = some r → r.level = 4)) ∧ s.glb.dieResetQ = [] ∧ s.flt.retired = [] ∧ s.boot.selfTest.retiredTiles = [] ∧ s.boot.selfTest.bypassed = [] ∧ s.boot.selfTest.failedDies = [] ∧ s.boot.selfTest.swsRows = [] ∧ s.boot.selfTest.badSpares = [] ∧ ((∀ d, d < 8 → (s.dies.get d).st = .starting ∧ (s.dies.get d).rowMap = []))) ∧
    (∃ (s : State), ((s.pins.hotSwap = false ∨ s.pins.pllHold = true ∨ s.boot.recovery = true ∨ s.hq.ready = true))) ∧
    (∃ (s : State), s.pins.hotSwap = true) ∧
    (∃ (s : State), s.pins.hotSwap = false) ∧
    (∃ (s : State), s.pins.hotSwap = true) ∧
    (∃ (s : State), s.glb.state = 1) ∧
    (∃ (s : State) (d : Die), dieUp s d.val = true ∧ (s.lk.links.get (3 * d.val + 1)).port.isSome = true) ∧
    (∃ (s : State) (d : Die), dieUp s d.val = false) :=
  ⟨⟨inReset 2, ⟨2, 0, 0⟩, found0, by decide +kernel⟩,
   ⟨inReset 2, ⟨2, 0, 0⟩, ⟨[], [255], [], [], []⟩, 255, by exact ⟨by decide +kernel, by decide +kernel, by decide +kernel, by decide +kernel, by decide +kernel, by decide +kernel, by decide +kernel, by decide +kernel, by decide +kernel, by decide +kernel, by decide +kernel, by decide +kernel, by decide +kernel, by decide +kernel, by decide +kernel, fun _ => ⟨rfl, rfl⟩⟩⟩,
   ⟨State.reset, found0, by exact ⟨rfl, by decide +kernel, by decide +kernel, by decide +kernel, by decide +kernel, by decide +kernel, (fun _ h => nomatch h), by decide +kernel, by decide +kernel, by decide +kernel, by decide +kernel, by decide +kernel, by decide +kernel, by decide +kernel, by decide +kernel⟩⟩,
   ⟨up, by decide +kernel⟩,
   ⟨up, by decide +kernel⟩,
   ⟨{ up with pins := { up.pins with hotSwap := false } }, by decide +kernel⟩,
   ⟨up, by decide +kernel⟩,
   ⟨up, by decide +kernel⟩,
   ⟨{ up with lk := { up.lk with links := [(10, { st := 3, port := some 2 })] } }, 3, by decide +kernel⟩,
   ⟨State.reset, 3, by decide +kernel⟩⟩

theorem test_hyps_RecoveryProgramsTheImage :
    (∃ (s : State), barOn s = true ∧ s.boot.recovery = true ∧ s.boot.recOp = none) ∧
    (∃ (s : State), ((s.boot.recovery = false ∨ s.boot.recOp ≠ none))) ∧
    (∃ (s : State) (p : Nat) (b : Bytes), s.boot.recOp = some (.program p false b) ∧ s.pins.alert = false ∧ s.boot.recOwner ≠ .mgmt ∧ p < 15360 ∧ ((∀ q ∈ s.boot.pages, q.1 ≠ p))) ∧
    (∃ (s : State) (p : Nat) (b : Bytes), s.boot.recOp = some (.program p false b) ∧ s.pins.alert = false ∧ s.boot.recOwner = .mgmt) ∧
    (∃ (s : State) (p : Nat) (b : Bytes), s.boot.recOp = some (.program p false b) ∧ s.pins.alert = false ∧ s.boot.recOwner ≠ .mgmt ∧ 15360 ≤ p) ∧
    (∃ (s : State), s.boot.recOp = some .finish ∧ s.pins.alert = true) ∧
    (∃ (s : State), s.boot.recOp = some .finish ∧ s.pins.alert = false ∧ s.boot.image ≠ [] ∧ imgHeaderOk s.boot.image = false) ∧
    (∃ (s : State), s.boot.recOp = some .finish ∧ s.pins.alert = false ∧ s.boot.image = [] ∧ s.pins.pllHold = false ∧ s.engines = []) ∧
    (∃ (s : State), s.boot.recOp = some .abort) ∧
    (∃ (s : State), s.boot.recOp = none) ∧
    (∃ (s : State), mgmtOn s = true ∧ s.boot.recovery = true ∧ s.boot.recOwner ≠ .pcie) ∧
    (∃ (s : State), mgmtOn s = true ∧ s.boot.recovery = true ∧ s.boot.recOwner = .pcie) ∧
    (∃ (s : State) (b : Bytes), mgmtOn s = true ∧ s.boot.recovery = true ∧ s.boot.tftpOn = true ∧ s.boot.recOwner ≠ .pcie ∧ b ≠ [] ∧ s.boot.tftp.length + b.length < 4096) ∧
    (∃ (s : State), ((s.boot.recovery = false ∨ s.boot.tftpOn = false))) :=
  ⟨⟨recovering none .pcie, by decide +kernel⟩,
   ⟨up, by decide +kernel⟩,
   ⟨recovering (some (.program 5 false [])) .pcie, 5, [], by decide +kernel⟩,
   ⟨recovering (some (.program 5 false [])) .mgmt, 5, [], by decide +kernel⟩,
   ⟨recovering (some (.program 15360 false [])) .pcie, 15360, [], by decide +kernel⟩,
   ⟨(let s := recovering (some .finish) .pcie; { s with pins := { s.pins with alert := true } }), by decide +kernel⟩,
   ⟨(let s := recovering (some .finish) .pcie; { s with boot := { s.boot with image := [1] } }), by decide +kernel⟩,
   ⟨recovering (some .finish) .pcie, by decide +kernel⟩,
   ⟨recovering (some .abort) .pcie, by decide +kernel⟩,
   ⟨up, by decide +kernel⟩,
   ⟨recovering none .none, by decide +kernel⟩,
   ⟨recovering none .pcie, by decide +kernel⟩,
   ⟨(let s := recovering none .mgmt; { s with boot := { s.boot with tftpOn := true } }), [1], by decide +kernel⟩,
   ⟨up, by decide +kernel⟩⟩

theorem test_hyps_KeysAndTheDebugLock :
    (∃ (s : State) (op : SecOp), s.boot.secOp = some op) ∧
    (∃ (s : State) (i : Fin 16) (r : Nat), barOn s = true ∧ s.boot.secOp = none ∧ enrolCheck s i.val (stagedKey s) = some r) ∧
    (∃ (s : State), barOn s = true ∧ s.boot.secOp = none ∧ s.boot.keysLock = true) ∧
    (∃ (s : State) (i : Fin 16), barOn s = true ∧ s.boot.secOp = none ∧ s.boot.keysLock = false ∧ s.boot.keys.get i.val ≠ [] ∧ s.pins.alert = false) ∧
    (∃ (s : State) (i : Fin 16), barOn s = true ∧ s.boot.secOp = none ∧ s.boot.keysLock = false ∧ s.boot.keys.get i.val = []) ∧
    (∃ (s : State) (i : Nat) (k : Bytes), s.boot.secOp = some (.enrol i k) ∧ s.pins.alert = false) ∧
    (∃ (s : State) (i : Nat), s.boot.secOp = some (.revoke i) ∧ s.pins.alert = false) ∧
    (∃ (s : State) (i : Nat), s.boot.secOp = some (.revoke i) ∧ s.pins.alert = true) ∧
    (∃ (s : State) (r : Nat), s.boot.secOp = some (.result r)) ∧
    (∃ (s : State), s.boot.secOp = none) ∧
    (∃ (s : State), barOn s = true ∧ s.boot.secOp = none) ∧
    (∃ (s : State), barOn s = true ∧ s.boot.secOp = none) ∧
    (∃ (s : State), barOn s = true ∧ s.boot.secOp = none ∧ s.boot.chal = []) ∧
    (∃ (s : State) (a : W64), barOn s = true ∧ s.boot.debugOpen = true ∧ debugCheck s a = 0) ∧
    (∃ (s : State) (a : W64), barOn s = true ∧ s.boot.debugOpen = true ∧ debugCheck s a ≠ 0) ∧
    (∃ (s : State), s.boot.debugOpen = false) ∧
    (∃ (s : State), s.glb.dbgBusy = true ∧ debugWaits s = false ∧ s.boot.debugOpen = true) ∧
    (∃ (s : State), s.glb.dbgBusy = false) :=
  ⟨⟨securing (some (.revoke 3)), .revoke 3, by decide +kernel⟩,
   ⟨keysLocked, 3, 2, by exact ⟨rfl, rfl, rfl⟩⟩,
   ⟨keysLocked, by decide +kernel⟩,
   ⟨keyed, 3, by decide +kernel⟩,
   ⟨keyed, 4, by decide +kernel⟩,
   ⟨securing (some (.enrol 3 [1])), 3, [1], by decide +kernel⟩,
   ⟨securing (some (.revoke 3)), 3, by decide +kernel⟩,
   ⟨(let s := securing (some (.revoke 3)); { s with pins := { s.pins with alert := true } }), 3, by decide +kernel⟩,
   ⟨securing (some (.result 2)), 2, by decide +kernel⟩,
   ⟨up, by decide +kernel⟩,
   ⟨up, by decide +kernel⟩,
   ⟨up, by decide +kernel⟩,
   ⟨up, by decide +kernel⟩,
   ⟨debugging false, 0x1000, by decide +kernel⟩,
   ⟨debugging false, 0x1001, by decide +kernel⟩,
   ⟨up, by decide +kernel⟩,
   ⟨debugging true, by decide +kernel⟩,
   ⟨up, by decide +kernel⟩⟩

theorem test_hyps_KeysAndTheDebugLock_1 (h1 : Config.edKeyDecodes (bytesAt (stagedKey up) 0 32) = true) (h2 : Config.mlKeyDecodes (bytesAt (stagedKey up) 32 1952) = true) :
    ∃ (s : State) (i : Fin 16), barOn s = true ∧ s.boot.secOp = none ∧ enrolCheck s i.val (stagedKey s) = none :=
  ⟨up, 3, by exact ⟨rfl, rfl, enrolCheck_up h1 h2⟩⟩

theorem test_hyps_ApertureResizeClearsSegments :
    (∃ (s : State) (n : Fin 64), s.pins.hotSwap = true ∧ s.pins.perst = false ∧ 30 ≤ n.val ∧ n.val ≤ 36 ∧ n.val ≠ s.glb.bar4Log2) ∧
    (∃ (s : State) (n : Fin 64), n.val = s.glb.bar4Log2) ∧
    (∃ (n : Fin 64), ((n.val < 30 ∨ 36 < n.val))) ∧
    (∃ (s : State), s.glb.bar4Log2 = 34 ∧ (s.glb.apSegs.get 5) = 0xE006000410000000 ∧ dieUp s 6 = true) :=
  ⟨⟨{ up with glb := { up.glb with apSegs := [(5, 0xE006000410000000)] } }, 34, by decide +kernel⟩,
   ⟨up, 36, by decide +kernel⟩,
   ⟨37, by decide +kernel⟩,
   ⟨{ up with glb := { up.glb with bar4Log2 := 34, apSegs := [(5, 0xE006000410000000)] } }, by decide +kernel⟩⟩

theorem test_hyps_ApertureAccessesReachMemory :
    (∃ (s : State) (v : W64), barOn s = true ∧ ((rbit (v &&& apSegMask) 63 = false ∨ segOk s (v &&& apSegMask) = true))) ∧
    (∃ (s : State) (v : W64), barOn s = true ∧ rbit (v &&& apSegMask) 63 = true ∧ segOk s (v &&& apSegMask) = false) ∧
    (∃ (s : State) (off : Nat) (n : Nat) (g : Nat) (o : Nat) (k : Nat), barOn s = true ∧ (segParts s off n = [(g, o, n)]) ∧ (partKey s (g, o, n) false = some k) ∧ s.mem.pois = [] ∧ s.mem.ecc = []) ∧
    (∃ (s : State) (off : Nat) (n : Nat) (g : Nat) (o : Nat), barOn s = true ∧ (segParts s off n = [(g, o, n)]) ∧ (partKey s (g, o, n) false = none)) ∧
    (∃ (s : State) (off : Nat) (g : Nat) (o : Nat) (k : Nat) (b : Bytes), barOn s = true ∧ (segParts s off b.length = [(g, o, b.length)]) ∧ (partKey s (g, o, b.length) true = some k)) ∧
    (∃ (s : State) (off : Nat) (g : Nat) (o : Nat) (b : Bytes), barOn s = true ∧ (segParts s off b.length = [(g, o, b.length)]) ∧ (partKey s (g, o, b.length) true = none)) ∧
    (∃ (s : State) (k : Nat), entryDie s (k / 2 ^ 48) = k / 2 ^ 48) ∧
    (∃ (s : State) (n : Fin 64), s.pins.hotSwap = true ∧ s.pins.perst = false ∧ 30 ≤ n.val ∧ n.val ≤ 36 ∧ n.val ≠ s.glb.bar4Log2) ∧
    (∃ (n : Fin 64), ((n.val < 30 ∨ 36 < n.val))) ∧
    (∃ (s : State) (off : Nat) (w : Nat), barOn s = true ∧ properAccess off w = false) ∧
    (∃ (off : Nat) (n : Nat), properAccess off n = true) ∧
    (∃ (s : State), s.pins.hotSwap = true ∧ s.pins.perst = false) ∧
    (∃ (s : State), s.pins.hotSwap = false) :=
  ⟨⟨up, 0xE000000000000000, by decide +kernel⟩,
   ⟨up, 0xE000000000000001, by decide +kernel⟩,
   ⟨seg0 0xE003000000000000, 0x40, 8, 0, 0x40, dieKey 3 0x40, by decide +kernel⟩,
   ⟨seg0 0xC003000000000000, 0x40, 8, 0, 0x40, by decide +kernel⟩,
   ⟨seg0 0xC003000000000000, 0x40, 0, 0x40, dieKey 3 0x40, [1, 2], by decide +kernel⟩,
   ⟨seg0 0xA003000000000000, 0x40, 0, 0x40, [1, 2], by decide +kernel⟩,
   ⟨up, dieKey 4 0x40, by decide +kernel⟩,
   ⟨up, 30, by decide +kernel⟩,
   ⟨37, by decide +kernel⟩,
   ⟨up, 2, 4, by decide +kernel⟩,
   ⟨8, 8, by decide +kernel⟩,
   ⟨up, by decide +kernel⟩,
   ⟨{ up with pins := { up.pins with hotSwap := false } }, by decide +kernel⟩⟩

theorem test_hyps_ManagementPortsAnswer :
    (∃ (s : State), mgmtOn s = true ∧ inService s = true) ∧
    (∃ (s : State), mgmtOn s = true ∧ inService s = true) ∧
    (∃ (s : State), s.pins.ip = 0) ∧
    (∃ (b : Bytes), b.length ≠ 1) ∧
    (∃ (s : State), mgmtUp s = true) ∧
    (∃ (s : State), mgmtUp s = true ∧ s.pins.ip = 0) ∧
    (∃ (s : State), s.pins.ip ≠ 0) ∧
    (∃ (s : State), s.pins.pwrgd = true) ∧
    (∃ (s : State) (b : Fin 2), s.pins.pwrgd = true ∧ s.pins.i3cAddr.get b.val ≠ 0) ∧
    (∃ (d : Bytes), d.length ≠ 1) ∧
    (∃ (s : State) (b : Fin 2), s.pins.pwrgd = true ∧ s.pins.i3cAddr.get b.val ≠ 0) ∧
    (∃ (s : State) (b : Fin 2), ((s.pins.pwrgd = false ∨ s.pins.i3cAddr.get b.val = 0))) :=
  ⟨⟨addressed, by decide +kernel⟩,
   ⟨addressed, by decide +kernel⟩,
   ⟨up, by decide +kernel⟩,
   ⟨[1, 2], by decide +kernel⟩,
   ⟨up, by decide +kernel⟩,
   ⟨up, by decide +kernel⟩,
   ⟨addressed, by decide +kernel⟩,
   ⟨up, by decide +kernel⟩,
   ⟨addressed, 0, by decide +kernel⟩,
   ⟨[], by decide +kernel⟩,
   ⟨addressed, 0, by decide +kernel⟩,
   ⟨up, 0, by decide +kernel⟩⟩

theorem test_hyps_CountersAreCleared :
    (∃ (s : State) (t : TileNo), dieBlockOn s (t.val / 32) = true) ∧
    (∃ (s : State) (d : Die), dieBlockOn s d.val = true) ∧
    (∃ (s : State) (e : EngineNo), engineBlockOn s e.val = true) ∧
    (∃ (s : State), blockOn s = true) ∧
    (∃ (s : State), blockOn s = true) ∧
    (∃ (s : State), blockOn s = true) ∧
    (∃ (s : State), barOn s = true) ∧
    (∃ (s : State), s.hq.ready = false) :=
  ⟨⟨up, 100, by decide +kernel⟩,
   ⟨up, 3, by decide +kernel⟩,
   ⟨up, 100, by decide +kernel⟩,
   ⟨up, by decide +kernel⟩,
   ⟨up, by decide +kernel⟩,
   ⟨up, by decide +kernel⟩,
   ⟨up, by decide +kernel⟩,
   ⟨starting, by decide +kernel⟩⟩

theorem test_hyps_RegisterWritesReachTheirRegisters :
    (∃ (s : State) (o : Nat), ((barOn s = false ∨ 0x4000000 ≤ o))) ∧
    (∃ (s : State) (o : Nat), barOn s = true ∧ o < 0x4000000 ∧ o % 8 ≠ 0) ∧
    (∃ (s : State) (o : Nat), barOn s = true ∧ o < 0x4000000 ∧ o % 4 ≠ 0) ∧
    (∃ (s : State) (o : Nat), s.hq.ready = false ∧ barOn s = true ∧ o % 8 = 0 ∧ 0x100008 ≤ o ∧ o < 0x4000000 ∧ o ≠ 0x3000008) ∧
    (∃ (s : State) (v : W64), barOn s = true ∧ rbit v 32 = true) ∧
    (∃ (s : State) (v : W64), barOn s = true ∧ rbit v 32 = false) ∧
    (∃ (s : State), barOn s = true) ∧
    (∃ (s : State) (v : W64), barOn s = true ∧ rfld v 31 24 ≠ 0x5A) ∧
    (∃ (s : State) (v : W64), barOn s = true ∧ rfld v 31 24 = 0x5A ∧ rfld v 2 0 = 2) ∧
    (∃ (s : State), barOn s = true) ∧
    (∃ (s : State) (v : W64), barOn s = true ∧ rbit v 0 = true) ∧
    (∃ (s : State) (v : W64), barOn s = true ∧ rbit v 0 = false) ∧
    (∃ (s : State), blockOn s = true ∧ s.hq.en = false) ∧
    (∃ (s : State), blockOn s = true ∧ s.hq.en = true) ∧
    (∃ (s : State), blockOn s = true) ∧
    (∃ (s : State), blockOn s = true) ∧
    (∃ (s : State) (n : Nat), blockOn s = true ∧ n < 1024) ∧
    (∃ (s : State), blockOn s = true) ∧
    (∃ (s : State) (v : W64), blockOn s = true ∧ rbit v 0 = true) ∧
    (∃ (s : State) (d : Die), dieBlockOn s d.val = true) ∧
    (∃ (s : State) (d : Die), dieBlockOn s d.val = false) :=
  ⟨⟨up, 0x4000000, by decide +kernel⟩,
   ⟨up, 0x3FFFFFC, by decide +kernel⟩,
   ⟨up, 0x3FFFFFE, by decide +kernel⟩,
   ⟨starting, 0x100008, by decide +kernel⟩,
   ⟨up, 0x100000000, by decide +kernel⟩,
   ⟨up, 0, by decide +kernel⟩,
   ⟨up, by decide +kernel⟩,
   ⟨up, 0x5B000002, by decide +kernel⟩,
   ⟨up, 0x5A000002, by decide +kernel⟩,
   ⟨up, by decide +kernel⟩,
   ⟨up, 1, by decide +kernel⟩,
   ⟨up, 0, by decide +kernel⟩,
   ⟨up, by decide +kernel⟩,
   ⟨hq qOn, by decide +kernel⟩,
   ⟨up, by decide +kernel⟩,
   ⟨up, by decide +kernel⟩,
   ⟨up, 1023, by decide +kernel⟩,
   ⟨up, by decide +kernel⟩,
   ⟨up, 1, by decide +kernel⟩,
   ⟨up, 3, by decide +kernel⟩,
   ⟨State.reset, 3, by decide +kernel⟩⟩

/-! ### Ill-formed commands, one for each check of WellFormed -/

theorem test_ill_formed_accesses :
    wellFormed (.remoteAccess 0 ⟨0, 0, 0, false, [], none⟩) = false ∧
    wellFormed (.remoteAccess 0 ⟨0, 0, 2, true, [1], none⟩) = false ∧
    wellFormed (.hbmWindowAccess 0 ⟨0, 0, 0, false, [], none⟩) = false ∧
    wellFormed (.probe (.tile 0 0 0 0 false)) = false ∧
    wellFormed (.probe (.hbm 0 0 0 0 false)) = false ∧
    wellFormed (.bar4Read 0 0) = false ∧
    wellFormed (.bar4Read (2 ^ 36) 1) = false ∧
    wellFormed (.bar4Write 0 []) = false ∧
    wellFormed (.bar4Write (2 ^ 36) [1]) = false ∧
    wellFormed (.bar4Resize 29) = false ∧
    wellFormed (.bar4Resize 37) = false ∧
    wellFormed (.bar0ImproperAccess true 8 4) = false ∧
    wellFormed (.bar0ImproperAccess true 0x4000001 4) = false ∧
    wellFormed (.registerWrite 4 true 0 0) = false ∧
    wellFormed (.registerWrite 2 false 0 0) = false ∧
    wellFormed (.registerWrite 0x4000000 true 0 0) = false := by decide +kernel

theorem test_ill_formed_frames :
    wellFormed (.frameEmit 0 .east (.grad 0 0 0 0 0 (List.replicate 4097 0) false)) = false ∧
    wellFormed (.frameEmit 0 .east (.packet 0 0 (List.replicate 4097 0) false)) = false ∧
    wellFormed (.frameArrival 0 .east (List.replicate 33 0) []) = false ∧
    wellFormed (.frameArrival 0 .east [] (List.replicate 4097 0)) = false ∧
    wellFormed (.genBuoy 0 .east (List.replicate 33 0)) = false ∧
    wellFormed (.layerBuoy 0 .east (List.replicate 33 0)) = false ∧
    wellFormed (.passEndBuoy 0 .east (List.replicate 33 0)) = false ∧
    wellFormed (.gradFrame 0 .east (List.replicate 33 0) [] none false) = false ∧
    wellFormed (.gradFrame 0 .east [] [] (some (List.replicate 4097 0)) false) = false ∧
    wellFormed (.governorEvaluation 0 { (default : Measured) with stepSweep := 4 }) = false ∧
    wellFormed (.governorEvaluation 0 { (default : Measured) with arcBusy := 1000001 }) = false ∧
    wellFormed (.resentCopy 0 .east (List.replicate 33 0) []) = false ∧
    wellFormed (.exchangePacket 0 .east (List.replicate 33 0) []) = false := by decide +kernel

theorem test_ill_formed_messages :
    wellFormed (.graphLaunchMessage 0 0 0 0 [] []) = false ∧
    wellFormed (.bundleMemberCommit 0 0 []) = false ∧
    wellFormed (.characteristicFrame 0 []) = false ∧
    wellFormed (.message 0 ⟨0, false, 0, 0, 1, List.replicate 4097 0⟩) = false ∧
    wellFormed (.memberMessage 0 [⟨0, 1, 16, false, false, 0, 0⟩]) = false ∧
    wellFormed (.memberMessage 0 (List.replicate 513 ⟨0, 1, 1, false, false, 0, 0⟩)) = false ∧
    wellFormed (.twinLogEntry [] (List.replicate 128 0)) = false ∧
    wellFormed (.twinLogEntry (List.replicate 64 0) []) = false ∧
    wellFormed (.twinCheckpoint ⟨0, [], [], true⟩) = false ∧
    wellFormed (.tftpWriteRequest [] 512) = false ∧
    wellFormed (.tftpData (List.replicate 1429 0) false) = false := by decide +kernel

theorem test_ill_formed_events :
    wellFormed (.barrierConfigWrite false 32 0) = false ∧
    wellFormed (.barrierRoundComplete false 32) = false ∧
    wellFormed (.fatalFault 0) = false ∧
    wellFormed (.fatalFault 9) = false ∧
    wellFormed (.grantInterval 0 []) = false ∧
    wellFormed (.junctionHot 0 94) = false ∧
    wellFormed (.junctionCritical 0 99) = false ∧
    wellFormed (.thermalTrip 0 104) = false ∧
    wellFormed (.coolantInletHigh 400) = false ∧
    wellFormed (.functionLevelReset .perst) = false ∧
    wellFormed (.functionLevelReset (.fatal 7)) = false ∧
    wellFormed (.warmReset .pcieFlr) = false ∧
    wellFormed (.warmReset (.fatal 2)) = false ∧
    wellFormed (.dieReset 0 .powerOn) = false ∧
    wellFormed (.dieReset 0 .pllLoss) = false ∧
    wellFormed (.coldReset .pcieFlr) = false ∧
    wellFormed (.coldReset (.fatal 7)) = false ∧
    wellFormed (.warmReset .faultNotReady) = false := by decide +kernel

/-! ### Results computed by hand from the spec -/

/-- The state after a command. -/
def after (i : Instr) (s : State) : State := match exec i s with | .next t => t | _ => s

/-- CRC-32C of the digits 1 to 9, the check value of its polynomial. -/
theorem test_crc32c : crc32c [0x31, 0x32, 0x33, 0x34, 0x35, 0x36, 0x37, 0x38, 0x39] = 0xE3069283 := by decide +kernel

/-- R50: E4M3 has a unit of 2 from 16 to 32, so 17 goes to 16 and 19 to 20, the even neighbours. -/
theorem test_e4m3_ties : (convTo 2 false .rne (.fin false 17 0)).code = 0x58 ∧ (convTo 2 false .rne (.fin false 19 0)).code = 0x5A := by
  decide +kernel

/-- The largest E4M3 value is 448, and a conversion saturates there. -/
theorem test_e4m3_saturates : (convTo 2 false .rne (.fin true 1000 0)).code = 0xFE := by decide +kernel

/-- R47: 1 + (2^24 + 1) in FP32 keeps 2^24 + 2, the even neighbour of the exact sum. -/
theorem test_fp32_sum : toF32 (round32 ((ofF32 0x3F800000).add (.fin false (2 ^ 24 + 2) 0))) = 0x4B800002 := by decide +kernel

/-- R501, R502: of 3,000 tokens 420 are held in reserve for a draw of 400 W, and each of eight die stacks takes 310 of the rest. -/
theorem test_grant : (after (.grantInterval 400 []) up).pw.reserve = 420 ∧ (tokOf (after (.grantInterval 400 []) up) 7).held = 310 ∧
    (after (.grantInterval 400 []) up).pw.pool = 520 := by decide +kernel

/-- R505: a die stack with 200 tokens whose contexts all wait lends 80 to the only throttled one. -/
theorem test_loan : (tokOf (after (.loan 0 50) stalled) 0).lent = 80 ∧ (tokOf (after (.loan 0 50) stalled) 1).borrowed = 80 := by
  decide +kernel

/-- SIGNAL of 7 on fence 255 raises it, and a WAIT for 8 does not complete on it (R354, R352). -/
theorem test_signal : ((after (.signal 0) (run 0x04 [(16, 255), (24, 7)])).hq.fences.get 255).value = 7 := by decide +kernel
theorem test_wait_blocks : (after (.wait 0) (withFence (run 0x05 [(16, 3), (24, 8)]) 3 { value := 7, hostSig := true })).cp.jobs ≠ [] := by decide +kernel

/-- A NOP with TAG 7 writes that TAG in the upper half of its completion's first word, STATUS 0 in the lower (R345). -/
theorem test_nop : bytesAt (Mem.readN (after (.nop 0) (withEntry (hq qOn) 0x00 [(2, 7)])).mem.host 0 32) 0 4 = [0, 0, 7, 0] := by decide +kernel

/-- LOOP with COUNT 2 goes back to entry 0 after its first pass (R354). -/
theorem test_loop : (((after (.loop 0) (inFrame 0x07 [(16, 2)])).cp.streams.get 0).frames.map (·.idx)) = [0] := by decide +kernel

/-- R335, R338: an empty queue of 64 entries takes 64 entries and no more. -/
theorem test_sq_doorbell : (after (.sqDoorbell 64) (hq qOn)).hq.sqTail = 64 ∧ (after (.sqDoorbell 65) (hq qOn)).hq.sqErr = true := by
  decide +kernel

/-- R452: a heard entry is one hop further than its sender says. -/
theorem test_member_hops : ((after (.memberMessage 2 [mrow 9 14]) (memb {})).lk.members.get 3).hops = 15 ∧
    ((after (.memberMessage 2 [mrow 9 14]) (memb {})).lk.members.get 3).heartbeat = 9 := by decide +kernel

/-- R560, R561: what BAR4 writes through a segment it reads back. -/
theorem test_bar4 : (after (.bar4Read 0x40 2) (after (.bar4Write 0x40 [1, 2]) (seg0 0xE003000000000000))).out = [.pcieRead [1, 2]] := by
  decide +kernel

/-- R512: the boot epoch counts the power-on. -/
theorem test_power_on_epoch : (after (.powerOn found0) { State.reset with pins := { State.reset.pins with hotSwap := false } }).boot.bootEpoch = 1 := by
  decide +kernel

/-- R508: steps 0 to 3; a fourth step down does not happen. -/
theorem test_step_down : (after (.cclkStepDown 0) (withTok { held := 200, thr := 8 })).pw.step = 1 := by decide +kernel

end Sys2Proof.Machine.Tests
end

section
/-!
The canonical form of the memories through every command (O2). An operation on the memories keeps the form by the laws of Laws/Memory;
every other function of the model is composed of such operations and of changes of other fields, so each function has one lemma that
cites the lemmas of the functions it calls, in the order in which the model defines them. Three forms of lemma occur, by what the
function answers: `MemoryOk` of a state, `AnsOk` of a command's answer, and `SomeOk` of a result that may be missing.
-/

namespace Sys2Proof.Machine

/-- An answer of a command that keeps the canonical form: a next state has it, a fault and a refusal leave no state. -/
inductive AnsOk : Ans → Prop
  | next {t : State} (h : MemoryOk t) : AnsOk (.next t)
  | fault (r) : AnsOk (.fault r)
  | refused (r) : AnsOk (.refused r)

/-- Where an operation that may find no room yields a result, the state `p` of that result has its memories in canonical form. -/
def SomeOk {α : Type} (p : α → State) (o : Option α) : Prop := ∀ r, o = some r → MemoryOk (p r)

/-- A change of any fields but the memories keeps their form. -/
theorem memoryOk_frame {s : State} {pending tiles engines dies arcs hq cp md bcn evr lk flt pw boot glb pins out free} (h : MemoryOk s) :
    MemoryOk ⟨pending, s.mem, tiles, engines, dies, arcs, hq, cp, md, bcn, evr, lk, flt, pw, boot, glb, pins, out, free⟩ := h

theorem memoryOk_ite {c : Prop} {_ : Decidable c} {s t : State} (hs : MemoryOk s) (ht : MemoryOk t) : MemoryOk (if c then s else t) := by
  split
  · exact hs
  · exact ht

theorem memoryOk_fst_ite {α : Type} {c : Prop} {_ : Decidable c} {a b : State × α} (ha : MemoryOk a.1) (hb : MemoryOk b.1) :
    MemoryOk (if c then a else b).1 := by
  split
  · exact ha
  · exact hb

theorem memoryOk_snd_ite {α : Type} {c : Prop} {_ : Decidable c} {a b : α × State} (ha : MemoryOk a.2) (hb : MemoryOk b.2) :
    MemoryOk (if c then a else b).2 := by
  split
  · exact ha
  · exact hb

/-- A fold that carries a state beside other data keeps the form when each step does. -/
theorem memoryOk_fst_foldl {α β : Type} {f : State × α → β → State × α} (hf : ∀ r b, MemoryOk r.1 → MemoryOk (f r b).1) (l : List β)
    (r : State × α) (h : MemoryOk r.1) : MemoryOk (l.foldl f r).1 :=
  List.foldlRecOn l f (motive := fun r => MemoryOk r.1) h fun r hr b _ => hf r b hr

theorem ansOk_ite {c : Prop} {_ : Decidable c} {a b : Ans} (ha : AnsOk a) (hb : AnsOk b) : AnsOk (if c then a else b) := by
  split
  · exact ha
  · exact hb

theorem someOk_none {α : Type} {p : α → State} : SomeOk p none := nofun

theorem someOk_some {α : Type} {p : α → State} {a : α} (h : MemoryOk (p a)) : SomeOk p (some a) := by
  rintro r ⟨⟩
  exact h

theorem someOk_map {α β : Type} (p : α → State) {q : β → State} {g : α → β} {o : Option α} (hg : ∀ a, MemoryOk (p a) → MemoryOk (q (g a)))
    (ho : SomeOk p o) : SomeOk q (o.map g) := by
  intro r hr
  obtain ⟨a, ha, rfl⟩ := Option.map_eq_some_iff.1 hr
  exact hg a (ho a ha)

theorem someOk_bind {α β : Type} (p : α → State) {q : β → State} {g : α → Option β} {o : Option α}
    (hg : ∀ a, MemoryOk (p a) → SomeOk q (g a)) (ho : SomeOk p o) : SomeOk q (o.bind g) := by
  intro r hr
  obtain ⟨a, ha, hb⟩ := Option.bind_eq_some_iff.1 hr
  exact hg a (ho a ha) r hb

theorem someOk_foldl_bind {α β : Type} (p : α → State) {g : β → α → Option α} (hg : ∀ b a, MemoryOk (p a) → SomeOk p (g b a)) (l : List β)
    {o : Option α} (ho : SomeOk p o) : SomeOk p (l.foldl (fun r b => r.bind (g b)) o) :=
  List.foldlRecOn l _ (motive := SomeOk p) ho fun _ hr b _ => someOk_bind p (hg b) hr

theorem someOk_ite {α : Type} {p : α → State} {c : Prop} {_ : Decidable c} {a b : Option α} (ha : SomeOk p a) (hb : SomeOk p b) :
    SomeOk p (if c then a else b) := by
  split
  · exact ha
  · exact hb

/-! ### Operations on the state that many commands share (Machine/Ops) -/

theorem memoryOk_idle {s} (h : MemoryOk s) : MemoryOk (idle s) := memoryOk_ite (memoryOk_frame h) h

theorem ansOk_gate {on s a} (h : MemoryOk s) (ha : AnsOk a) : AnsOk (gate on s a) := ansOk_ite ha (.next h)

theorem memoryOk_postMsg {s p m} (h : MemoryOk s) : MemoryOk (postMsg s p m) := by
  unfold postMsg
  split
  · exact h
  · exact memoryOk_ite (memoryOk_frame (memoryOk_frame h)) (memoryOk_frame h)

theorem memoryOk_sendHeld {p f s} (h : MemoryOk s) : MemoryOk (sendHeld p f s) := by
  induction f generalizing s with
  | zero => exact h
  | succ f ih =>
    unfold sendHeld
    split
    · exact h
    · split
      · exact h
      · exact ih (memoryOk_frame h)

theorem memoryOk_sendMsg {s p dst kind pay} (h : MemoryOk s) : MemoryOk (sendMsg s p dst kind pay) := memoryOk_postMsg h

theorem memoryOk_sendOn {s p dst kind pay} (h : MemoryOk s) : MemoryOk (sendOn s p dst kind pay) :=
  memoryOk_ite (memoryOk_sendMsg h) (memoryOk_foldl _ (fun _ _ => memoryOk_sendMsg) _ _ h)

theorem memoryOk_sendTo {s m kind pay} (h : MemoryOk s) : MemoryOk (sendTo s m kind pay) := by
  unfold sendTo
  split
  · exact memoryOk_sendOn h
  · exact h

theorem memoryOk_sendTwin {s kind pay} (h : MemoryOk s) : MemoryOk (sendTwin s kind pay) := by
  unfold sendTwin
  split
  · exact memoryOk_sendOn h
  · exact h

theorem memoryOk_fireN {s n k} (h : MemoryOk s) : MemoryOk (fireN s n k) := memoryOk_ite (memoryOk_frame h) h

theorem memoryOk_fire {s n} (h : MemoryOk s) : MemoryOk (fire s n) := memoryOk_fireN h

theorem memoryOk_flog {s r} (h : MemoryOk s) : MemoryOk (flog s r) := memoryOk_fire (memoryOk_frame h)

theorem memoryOk_writeWord {s w bs} (h : MemoryOk s) : MemoryOk (writeWord s w bs) :=
  memoryOk_ite (memoryOk_hostWrite h _ _) (memoryOk_storeClean h _ _)

/-! ### Page tables and sequences (Machine/Kv) -/

theorem memoryOk_writePte {s d q i v} (h : MemoryOk s) : MemoryOk (writePte s d q i v) := memoryOk_storeClean h _ _

theorem memoryOk_mapPages {s d q i0 pages} (h : MemoryOk s) : MemoryOk (mapPages s d q i0 pages) :=
  memoryOk_foldl _ (fun _ _ => memoryOk_writePte) _ _ h

theorem memoryOk_writeDir {s d q} (h : MemoryOk s) : MemoryOk (writeDir s d q) :=
  memoryOk_foldl _ (fun _ _ hu => memoryOk_storeClean hu _ _) _ _ h

theorem someOk_allocSeqDie {s m slot d heads g} (h : MemoryOk s) : SomeOk (·.2) (allocSeqDie s m slot d heads g) := by
  unfold allocSeqDie
  extract_lets
  refine someOk_ite (someOk_some h) ?_
  split
  · exact someOk_none
  · split
    · exact someOk_none
    · split
      · exact someOk_none
      · split
        · exact someOk_none
        · exact someOk_some (memoryOk_mapPages (memoryOk_writeDir (memoryOk_frame h)))

theorem memoryOk_dropOneRef {s slot g} (h : MemoryOk s) : MemoryOk (dropOneRef s slot g) := memoryOk_frame (memoryOk_frame h)

theorem memoryOk_dropRef {s slot g} (h : MemoryOk s) : MemoryOk (dropRef s slot g) := by
  unfold dropRef
  extract_lets
  split
  · exact memoryOk_ite (memoryOk_dropOneRef (memoryOk_dropOneRef h)) (memoryOk_dropOneRef h)
  · exact memoryOk_dropOneRef h

theorem memoryOk_dropSeq {s q} (h : MemoryOk s) : MemoryOk (dropSeq s q) :=
  memoryOk_dropRef (memoryOk_frame (memoryOk_foldl _ (fun _ _ => memoryOk_frame) _ _ h))

theorem memoryOk_copyEntry {s m d src i dst k} (h : MemoryOk s) : MemoryOk (copyEntry s m d src i dst k) :=
  memoryOk_storeMod (memoryOk_storeMod h _ _) _ _

theorem memoryOk_freeEntry {s m d page i pois} (h : MemoryOk s) : MemoryOk (freeEntry s m d page i pois) :=
  memoryOk_storeMod (memoryOk_storeMod (memoryOk_frame h) _ _) _ _

theorem memoryOk_copyPage {s m d src d' dst} (h : MemoryOk s) : MemoryOk (copyPage s m d src d' dst) := memoryOk_storeMod h _ _

theorem someOk_commitDie {s m slot d c path q} (h : MemoryOk s) : SomeOk (·.2) (commitDie s m slot d c path q) := by
  unfold commitDie
  extract_lets
  refine someOk_ite (someOk_some h) ?_
  split
  · exact someOk_none
  · split
    · exact someOk_none
    · extract_lets _ _ _ s3
      have hs3 : MemoryOk s3 := by
        unfold s3
        refine memoryOk_foldl _ (fun _ _ hu => ?_) _ _ (memoryOk_writeDir (memoryOk_frame h))
        extract_lets _ _ _ _ old s1 s2
        have hs1 : MemoryOk s1 := by
          unfold s1
          refine memoryOk_foldl _ (fun _ _ hv => ?_) _ _ hu
          extract_lets
          refine memoryOk_ite ?_ (memoryOk_ite (memoryOk_copyEntry hv) hv)
          clear_value old
          split
          · exact memoryOk_copyEntry hv
          · exact hv
        have hs2 : MemoryOk s2 := memoryOk_ite (memoryOk_writePte hs1) hs1
        clear_value old
        split
        · exact memoryOk_frame hs2
        · exact hs2
      exact someOk_some hs3

/-! ### Completions (Machine/Completion) -/

theorem memoryOk_updJob {s j f} (h : MemoryOk s) : MemoryOk (updJob s j f) := by
  unfold updJob
  split
  · exact memoryOk_frame h
  · exact h

theorem memoryOk_noteCond {s j x} (h : MemoryOk s) : MemoryOk (noteCond s j x) := memoryOk_updJob h

theorem memoryOk_twinNotice {s tag} (h : MemoryOk s) : MemoryOk (twinNotice s tag) := memoryOk_ite (memoryOk_sendTwin h) h

theorem memoryOk_writeCqe {s st c} (h : MemoryOk s) : MemoryOk (writeCqe s st c) := by
  unfold writeCqe
  extract_lets _ _ _ _ s3
  have hs3 : MemoryOk s3 := memoryOk_ite (memoryOk_fire (memoryOk_frame (memoryOk_hostWrite h _ _))) <|
    memoryOk_frame (memoryOk_hostWrite h _ _)
  exact memoryOk_ite (memoryOk_twinNotice hs3) hs3

theorem memoryOk_postFinal {s st c} (h : MemoryOk s) : MemoryOk (postFinal s st c) :=
  memoryOk_ite (memoryOk_frame h) (memoryOk_writeCqe h)

theorem memoryOk_postInterim {s st c} (h : MemoryOk s) : MemoryOk (postInterim s st c) :=
  memoryOk_ite (memoryOk_frame h) (memoryOk_writeCqe h)

theorem memoryOk_writeDigest {s rec} (h : MemoryOk s) : MemoryOk (writeDigest s rec) := memoryOk_frame (memoryOk_hostWrite h _ _)

theorem memoryOk_digestOut {s b x} (h : MemoryOk s) : MemoryOk (digestOut s b x).1 :=
  memoryOk_fst_ite (memoryOk_writeDigest (memoryOk_foldl _ (fun _ _ => memoryOk_writeDigest) _ _ h)) h

theorem memoryOk_scrambleDest {s p} (h : MemoryOk s) : MemoryOk (scrambleDest s p) :=
  memoryOk_foldl _ (fun _ _ hu => memoryOk_hostWrite (memoryOk_frame hu) _ _) _ _ <|
  memoryOk_foldl _ (fun _ _ hu => memoryOk_storeMod (memoryOk_frame hu) _ _) _ _ h

theorem memoryOk_scrambleOwned {s e ch j} (h : MemoryOk s) : MemoryOk (scrambleOwned s e ch j) :=
  memoryOk_foldl _ (fun _ _ => memoryOk_scrambleDest) _ _ h

theorem memoryOk_stopUnits {s j} (h : MemoryOk s) : MemoryOk (stopUnits s j) :=
  memoryOk_frame <| memoryOk_frame <| memoryOk_foldl _
    (fun _ _ hu => memoryOk_frame (memoryOk_frame (memoryOk_scrambleOwned hu))) _ _
    (memoryOk_foldl _ (fun _ _ hu => memoryOk_frame (memoryOk_frame hu)) _ _ (memoryOk_frame h))

theorem memoryOk_closeWins {s k} (h : MemoryOk s) : MemoryOk (closeWins s k) :=
  memoryOk_foldl _ (fun _ _ => memoryOk_frame) _ _ (memoryOk_foldl _ (fun _ _ => memoryOk_frame) _ _ h)

theorem memoryOk_endPersist {s id} (h : MemoryOk s) : MemoryOk (endPersist s id) := by
  unfold endPersist
  split
  · exact h
  · exact memoryOk_foldl _
      (fun _ _ hu => memoryOk_foldl _ (fun _ _ hv => memoryOk_frame (memoryOk_frame hv)) _ _ hu) _ _
      (memoryOk_frame h)

theorem memoryOk_writeEnd {s ra n} (h : MemoryOk s) : MemoryOk (writeEnd s ra n) := memoryOk_ite (memoryOk_writeWord h) h

theorem memoryOk_endModelWork {s j b x} (h : MemoryOk s) : MemoryOk (endModelWork s j b x) := by
  unfold endModelWork
  split
  · exact memoryOk_writeEnd (memoryOk_frame h)
  · split
    · exact memoryOk_ite (memoryOk_dropSeq (memoryOk_frame h)) (memoryOk_frame h)
    · exact memoryOk_frame h
  · exact h

theorem memoryOk_releaseKilled {s j b x} (h : MemoryOk s) : MemoryOk (releaseKilled s j b x) := by
  unfold releaseKilled
  extract_lets
  split
  · exact memoryOk_endModelWork (memoryOk_stopUnits h)
  · extract_lets s1
    have hs1 : MemoryOk s1 := by
      unfold s1
      split
      · exact memoryOk_endPersist (memoryOk_endModelWork (memoryOk_stopUnits h))
      · exact memoryOk_endModelWork (memoryOk_stopUnits h)
    exact memoryOk_closeWins (memoryOk_foldl _ (fun _ _ hu => memoryOk_killTile hu _) _ _ hs1)

theorem memoryOk_releaseDone {s j b} (h : MemoryOk s) : MemoryOk (releaseDone s j b) := by
  unfold releaseDone
  split
  · exact memoryOk_stopUnits h
  · extract_lets _ s1
    have hs1 : MemoryOk s1 := memoryOk_foldl _ (fun _ _ hu => memoryOk_frame (memoryOk_frame hu)) _ _ h
    exact memoryOk_closeWins <| memoryOk_frame <| memoryOk_frame <|
      memoryOk_foldl _ (fun _ _ => memoryOk_frame) _ _ (memoryOk_ite (memoryOk_frame hs1) (memoryOk_frame hs1))

theorem memoryOk_capture {s j b x killed} (h : MemoryOk s) : MemoryOk (capture s j b x killed) :=
  memoryOk_fire (memoryOk_releaseKilled (memoryOk_flog (memoryOk_frame h)))

theorem memoryOk_postInner {s st b x dig result} (h : MemoryOk s) : MemoryOk (postInner s st b x dig result) :=
  memoryOk_ite (memoryOk_postFinal h) (memoryOk_ite (memoryOk_twinNotice h) h)

theorem memoryOk_endCalls {x st l s} (h : MemoryOk s) : MemoryOk (endCalls x st l s) := by
  induction l generalizing s with
  | nil => exact h
  | cons f r ih =>
    cases r with
    | nil => exact memoryOk_postFinal (memoryOk_frame h)
    | cons g r => exact ih (memoryOk_postInner h)

theorem memoryOk_resumeAt {st l n s} (h : MemoryOk s) : MemoryOk (resumeAt st l n s) := by
  induction l generalizing n s with
  | nil => exact memoryOk_frame h
  | cons f r ih =>
    unfold resumeAt
    refine memoryOk_ite (memoryOk_frame h) ?_
    cases r with
    | nil => exact memoryOk_postFinal (memoryOk_frame h)
    | cons g r => exact ih (memoryOk_postInner h)

theorem memoryOk_poisonLog {s j b x} (h : MemoryOk s) : MemoryOk (poisonLog s j b x) := by
  unfold poisonLog
  split
  · exact memoryOk_fire (memoryOk_flog h)
  · exact h

theorem memoryOk_releaseFor {s j b x killed} (h : MemoryOk s) : MemoryOk (releaseFor s j b x killed) :=
  memoryOk_ite (memoryOk_capture h) (memoryOk_releaseDone h)

theorem memoryOk_dropNodes {s st x} (h : MemoryOk s) : MemoryOk (dropNodes s st x) := by
  unfold dropNodes
  refine memoryOk_foldl _ (fun _ _ hu => ?_) _ _ h
  split
  · exact memoryOk_frame (memoryOk_releaseKilled hu)
  · exact hu

theorem memoryOk_deleteDue {s p} (h : MemoryOk s) : MemoryOk (deleteDue s p) := by
  unfold deleteDue
  split
  · exact memoryOk_ite (memoryOk_postFinal (memoryOk_frame (memoryOk_frame h))) h
  · exact h

theorem memoryOk_deletesDue {s} (h : MemoryOk s) : MemoryOk (deletesDue s) := memoryOk_foldl _ (fun _ _ => memoryOk_deleteDue) _ _ h

theorem memoryOk_tellFar {s st g ms x} (h : MemoryOk s) : MemoryOk (tellFar s st g ms x) :=
  memoryOk_foldl _ (fun _ _ => memoryOk_sendTo) _ _ h

theorem memoryOk_haltFar {s st g} (h : MemoryOk s) : MemoryOk (haltFar s st g).1 := memoryOk_fst_ite (memoryOk_tellFar h) h

theorem memoryOk_endGraphWork {s st b x killed} (h : MemoryOk s) : MemoryOk (endGraphWork s st b x killed) := by
  unfold endGraphWork
  split
  · extract_lets _ s1
    have hs1 : MemoryOk s1 := memoryOk_ite (memoryOk_tellFar (memoryOk_dropNodes h)) (memoryOk_dropNodes h)
    exact memoryOk_ite (memoryOk_foldl _ (fun _ _ hu => memoryOk_killTile hu _) _ _ hs1) hs1
  · exact h

theorem memoryOk_finishStream {s st b x result killed jump} (h : MemoryOk s) :
    MemoryOk (finishStream s st b x result killed jump) := by
  unfold finishStream
  extract_lets _ _ _ s1 s2
  have hs1 : MemoryOk s1 := memoryOk_deletesDue <|
    memoryOk_frame (memoryOk_digestOut (memoryOk_poisonLog (memoryOk_endGraphWork (memoryOk_releaseFor h))))
  have hs2 : MemoryOk s2 := memoryOk_postInner hs1
  split
  · exact memoryOk_postFinal hs1
  · exact memoryOk_ite (memoryOk_resumeAt hs2) (memoryOk_endCalls hs2)

theorem memoryOk_finishGraph {s st b g} (h : MemoryOk s) : MemoryOk (finishGraph s st b g) := by
  unfold finishGraph
  extract_lets _ s1
  have hs1 : MemoryOk s1 := by
    unfold s1
    split
    · exact memoryOk_flog h
    · exact h
  exact memoryOk_finishStream hs1

theorem memoryOk_finishNode {s st n b x result killed} (h : MemoryOk s) : MemoryOk (finishNode s st n b x result killed) := by
  unfold finishNode
  extract_lets _ _ _ s3
  have hs3 : MemoryOk s3 := memoryOk_postInner (memoryOk_frame (memoryOk_poisonLog (memoryOk_releaseFor h)))
  split
  · exact hs3
  · split
    · extract_lets _ _ _ s1 _ _ _ s2
      have hs1 : MemoryOk s1 := memoryOk_ite (memoryOk_foldl _ (fun _ _ => memoryOk_sendTo) _ _ hs3) hs3
      have hs2 : MemoryOk s2 := memoryOk_frame (memoryOk_fst_ite hs1 (memoryOk_haltFar hs1))
      exact memoryOk_ite (memoryOk_finishGraph hs2) hs2
    · exact hs3

theorem memoryOk_settleRemote {s k l} (h : MemoryOk s) : MemoryOk (settleRemote s k l) :=
  memoryOk_deletesDue (memoryOk_frame (memoryOk_ite (memoryOk_sendTo h) h))

theorem memoryOk_finishRemote {s k n b x result killed} (h : MemoryOk s) : MemoryOk (finishRemote s k n b x result killed) := by
  unfold finishRemote
  extract_lets _ _ s1
  have hs1 : MemoryOk s1 := memoryOk_frame (memoryOk_poisonLog (memoryOk_releaseFor h))
  split
  · exact hs1
  · exact memoryOk_settleRemote (memoryOk_foldl _ (fun _ _ => memoryOk_sendTo) _ _ hs1)

theorem memoryOk_finishAdopted {s j b x result killed} (h : MemoryOk s) : MemoryOk (finishAdopted s j b x result killed) :=
  memoryOk_postFinal <|
  memoryOk_deletesDue (memoryOk_frame (memoryOk_digestOut (memoryOk_poisonLog (memoryOk_releaseFor h))))

theorem memoryOk_finish {s j x result killed} (h : MemoryOk s) : MemoryOk (finish s j x result killed) := by
  unfold finish
  split
  · exact h
  · split
    · exact memoryOk_finishStream h
    · exact memoryOk_finishNode h
    · exact memoryOk_finishRemote h
    · exact memoryOk_finishAdopted h

theorem memoryOk_finishRanked {s j result} (h : MemoryOk s) : MemoryOk (finishRanked s j result) := by
  unfold finishRanked
  split
  · exact h
  · exact memoryOk_finish h

theorem memoryOk_notePoison {s j a} (h : MemoryOk s) : MemoryOk (notePoison s j a) := memoryOk_updJob h

theorem memoryOk_unitFault {s j x origin} (h : MemoryOk s) : MemoryOk (unitFault s j x origin) := by
  unfold unitFault
  extract_lets
  split
  · exact memoryOk_updJob h
  · exact memoryOk_ite (memoryOk_finish (memoryOk_updJob h)) (memoryOk_updJob h)

/-! ### Flags (Machine/Flags) -/

theorem memoryOk_hqErr {s f} (h : MemoryOk s) : MemoryOk (hqErr s f) := memoryOk_fire (memoryOk_frame h)

/-! ### Host queue (Machine/HostQueue) -/

theorem ansOk_execQueueEnable {s} (h : MemoryOk s) : AnsOk (execQueueEnable s) :=
  ansOk_gate h (ansOk_ite (.next h) (ansOk_ite (.next (memoryOk_frame h)) (.next (memoryOk_hqErr h))))

theorem ansOk_execQueueDisable {s} (h : MemoryOk s) : AnsOk (execQueueDisable s) := ansOk_gate h (.next (memoryOk_frame h))

theorem ansOk_execQueueIdle {s} (h : MemoryOk s) : AnsOk (execQueueIdle s) := ansOk_ite (.next (memoryOk_frame h)) (.next h)

theorem ansOk_execHostRegionWrite {r a s} (h : MemoryOk s) : AnsOk (execHostRegionWrite r a s) :=
  ansOk_gate h (ansOk_ite (.next (memoryOk_hqErr h)) (.next (memoryOk_frame h)))

theorem ansOk_execFenceRegisterWrite {f val v s} (h : MemoryOk s) : AnsOk (execFenceRegisterWrite f val v s) :=
  ansOk_gate h (ansOk_ite (.next (memoryOk_hqErr h)) (.next (memoryOk_frame h)))

theorem ansOk_execSqDoorbell {v s} (h : MemoryOk s) : AnsOk (execSqDoorbell v s) :=
  ansOk_gate h (ansOk_ite (.next h) (ansOk_ite (.next (memoryOk_frame h)) (.next (memoryOk_hqErr h))))

theorem ansOk_execCqDoorbell {v s} (h : MemoryOk s) : AnsOk (execCqDoorbell v s) :=
  ansOk_gate h (ansOk_ite (.next h) (ansOk_ite (.next (memoryOk_frame h)) (.next (memoryOk_hqErr h))))

theorem memoryOk_wakeWaits {s f} (h : MemoryOk s) : MemoryOk (wakeWaits s f) := by
  unfold wakeWaits
  refine memoryOk_foldl _ (fun _ _ hu => ?_) _ _ h
  split
  · split
    · exact memoryOk_ite (memoryOk_finish hu) hu
    · exact hu
  · exact hu

theorem memoryOk_raiseFence {s f v} (h : MemoryOk s) : MemoryOk (raiseFence s f v) := memoryOk_wakeWaits (memoryOk_frame h)

theorem ansOk_execFenceDoorbell {f single64 v s} (h : MemoryOk s) : AnsOk (execFenceDoorbell f single64 v s) :=
  ansOk_gate h (ansOk_ite (.next h) (ansOk_ite (.next (memoryOk_raiseFence h)) (.next (memoryOk_hqErr h))))

theorem ansOk_execSqFetch {pcieOk s} (h : MemoryOk s) : AnsOk (execSqFetch pcieOk s) :=
  ansOk_ite (.next h) <|
  ansOk_ite (.next (memoryOk_hqErr h)) (ansOk_ite (.next h) (.next (memoryOk_frame (memoryOk_frame h))))

theorem ansOk_execCompletionWrite {st s} (h : MemoryOk s) : AnsOk (execCompletionWrite st s) := by
  unfold execCompletionWrite
  split
  · exact .next h
  · exact ansOk_ite (.next h) (.next (memoryOk_writeCqe (memoryOk_frame h)))

theorem ansOk_execHqCountsCntClr {s} (h : MemoryOk s) : AnsOk (execHqCountsCntClr s) := ansOk_gate h (.next (memoryOk_frame h))

/-! ### Ports (Machine/Ports) -/

theorem memoryOk_showFar {s d} (h : MemoryOk s) : MemoryOk (showFar s d) :=
  memoryOk_foldl _ (fun _ _ hu => memoryOk_storeMod hu _ _) _ _ h

theorem memoryOk_chanFaultAs {s e ch d cause x} (h : MemoryOk s) : MemoryOk (chanFaultAs s e ch d cause x) := by
  unfold chanFaultAs
  extract_lets _ _ _ s1
  have hs1 : MemoryOk s1 := memoryOk_fire (memoryOk_frame (memoryOk_frame (memoryOk_showFar h)))
  split
  · exact memoryOk_unitFault hs1
  · exact hs1

theorem memoryOk_chanFault {s e ch d cause} (h : MemoryOk s) : MemoryOk (chanFault s e ch d cause) := memoryOk_chanFaultAs h

theorem memoryOk_endDescs {s p x} (h : MemoryOk s) : MemoryOk (endDescs s p x) :=
  memoryOk_foldl _
    (fun _ _ hu =>
      memoryOk_foldl _
        (fun _ _ hv => memoryOk_foldl _ (fun _ _ hw2 => memoryOk_ite (memoryOk_chanFaultAs hw2) hw2) _ _ hv) _ _
        hu) _ _
    h

theorem memoryOk_endTransfers {s p x} (h : MemoryOk s) : MemoryOk (endTransfers s p x) := memoryOk_endDescs h

theorem memoryOk_setLinkState {s n st} (h : MemoryOk s) : MemoryOk (setLinkState s n st) :=
  memoryOk_ite h (memoryOk_fire (memoryOk_frame h))

theorem memoryOk_endRemote {s gone} (h : MemoryOk s) : MemoryOk (endRemote s gone) := by
  unfold endRemote
  extract_lets
  refine memoryOk_foldl _ (fun _ _ hu => ?_) _ _ (memoryOk_foldl _ (fun _ _ => memoryOk_finish) _ _ h)
  split
  · exact memoryOk_ite (memoryOk_settleRemote hu) hu
  · exact hu

theorem memoryOk_releaseWait {s w} (h : MemoryOk s) : MemoryOk (releaseWait s w) := by
  unfold releaseWait
  refine memoryOk_ite ?_ ?_
  · split
    · exact h
    · exact memoryOk_finish h
  · split
    · exact h
    · exact memoryOk_ite h (memoryOk_postInterim h)

theorem memoryOk_flushWaits {s} (h : MemoryOk s) : MemoryOk (flushWaits s) :=
  memoryOk_foldl _ (fun _ _ => memoryOk_releaseWait) _ _ (memoryOk_frame h)

theorem memoryOk_twinIsolated {s} (h : MemoryOk s) : MemoryOk (twinIsolated s) := by
  unfold twinIsolated
  extract_lets _ s1
  have hs1 : MemoryOk s1 := by
    unfold s1
    split
    · exact memoryOk_finish (memoryOk_frame h)
    · exact memoryOk_finish (memoryOk_frame h)
    · exact h
  split
  · exact memoryOk_flushWaits (memoryOk_frame hs1)
  · exact memoryOk_frame hs1
  · exact memoryOk_flushWaits (memoryOk_frame hs1)
  · exact hs1

theorem memoryOk_portDown {s p} (h : MemoryOk s) : MemoryOk (portDown s p) := by
  unfold portDown
  extract_lets _ _ _ s1
  have hs1 : MemoryOk s1 := memoryOk_endRemote (memoryOk_endTransfers (memoryOk_frame h))
  exact memoryOk_ite (memoryOk_twinIsolated hs1) hs1

theorem memoryOk_leavePort {s n} (h : MemoryOk s) : MemoryOk (leavePort s n) := by
  unfold leavePort
  split
  · exact h
  · extract_lets
    split
    · exact memoryOk_frame (memoryOk_foldl _ (fun _ _ => memoryOk_frame) _ _ (memoryOk_frame h))
    · exact memoryOk_portDown (memoryOk_frame h)

theorem memoryOk_linkTo {s n st} (h : MemoryOk s) : MemoryOk (linkTo s n st) :=
  memoryOk_setLinkState (memoryOk_frame (memoryOk_leavePort h))

/-! ### Tokens (Machine/Tokens) -/

theorem memoryOk_recallLoan {s d} (h : MemoryOk s) : MemoryOk (recallLoan s d) :=
  memoryOk_ite h <|
  memoryOk_frame (memoryOk_frame (memoryOk_frame (memoryOk_foldl _ (fun _ _ => memoryOk_frame) _ _ h)))

theorem memoryOk_recallAll {s} (h : MemoryOk s) : MemoryOk (recallAll s) := memoryOk_foldl _ (fun _ _ => memoryOk_recallLoan) _ _ h

/-! ### The frame ring (Machine/Ring) -/

theorem memoryOk_crossArcs {s a b n} (h : MemoryOk s) : MemoryOk (crossArcs s a b n) :=
  memoryOk_foldl _ (fun _ _ => memoryOk_frame) _ _ h

theorem memoryOk_setWays {s d f} (h : MemoryOk s) : MemoryOk (setWays s d f) :=
  memoryOk_ite (memoryOk_frame h) (memoryOk_frame (memoryOk_frame h))

theorem memoryOk_setSweepWays {s n d} (h : MemoryOk s) : MemoryOk (setSweepWays s n d) := memoryOk_setWays h

theorem memoryOk_holdConfig {s d} (h : MemoryOk s) : MemoryOk (holdConfig s d) := memoryOk_frame (memoryOk_setSweepWays h)

theorem memoryOk_clearRings {s} (h : MemoryOk s) : MemoryOk (clearRings s) := memoryOk_foldl _ (fun _ _ => memoryOk_frame) _ _ h

theorem memoryOk_takePassRef {s} (h : MemoryOk s) : MemoryOk (takePassRef s) :=
  memoryOk_ite h (memoryOk_frame (memoryOk_frame (memoryOk_frame h)))

theorem memoryOk_endPassRef {s} (h : MemoryOk s) : MemoryOk (endPassRef s) :=
  memoryOk_ite (memoryOk_dropRef (memoryOk_frame (memoryOk_frame h))) h

theorem memoryOk_stopPass {s} (h : MemoryOk s) : MemoryOk (stopPass s) :=
  memoryOk_frame (memoryOk_foldl _ (fun _ _ => memoryOk_frame) _ _ (memoryOk_endPassRef h))

theorem memoryOk_abandonPass {s} (h : MemoryOk s) : MemoryOk (abandonPass s) :=
  memoryOk_clearRings (memoryOk_frame (memoryOk_stopPass (memoryOk_frame h)))

theorem memoryOk_headerFault {s} (h : MemoryOk s) : MemoryOk (headerFault s) := memoryOk_abandonPass h

/-! ### Weight runs (Machine/Weights) -/

theorem memoryOk_storeKeys {s ks b} (h : MemoryOk s) : MemoryOk (storeKeys s ks b) :=
  memoryOk_foldl _ (fun _ _ hu => memoryOk_storeClean hu _ _) _ _ h

theorem memoryOk_storeUnits {s g d b keep} (h : MemoryOk s) : MemoryOk (storeUnits s g d b keep) :=
  memoryOk_foldl _ (fun _ _ => memoryOk_storeKeys) _ _ h

theorem memoryOk_storeShard {s g d keep} (h : MemoryOk s) : MemoryOk (storeShard s g d keep) := memoryOk_storeUnits h

theorem memoryOk_layWith {s g b} (h : MemoryOk s) : MemoryOk (layWith s g b).1 :=
  memoryOk_foldl _ (fun _ _ hu => memoryOk_ite (memoryOk_storeUnits hu) hu) _ _ h

theorem memoryOk_layGen {s g} (h : MemoryOk s) : MemoryOk (layGen s g).1 := memoryOk_layWith h

theorem memoryOk_crossCut {s g old new} (h : MemoryOk s) : MemoryOk (crossCut s g old new) :=
  memoryOk_foldl _
    (fun _ _ hu => memoryOk_foldl _ (fun _ _ hv => memoryOk_ite hv (memoryOk_crossArcs hv)) _ _ hu) _ _
    h

theorem memoryOk_recutLine {s r g reach} (h : MemoryOk s) : MemoryOk (recutLine s r g reach).1 :=
  memoryOk_foldl _ (fun _ _ hu => memoryOk_ite (memoryOk_storeShard hu) hu) _ _ (memoryOk_crossCut h)

theorem memoryOk_restoreGen {s g} (h : MemoryOk s) : MemoryOk (restoreGen s g).1 := by
  unfold restoreGen
  split
  · exact memoryOk_foldl _ (fun _ _ hu => memoryOk_ite (memoryOk_storeShard hu) hu) _ _ h
  · exact memoryOk_layGen h

theorem memoryOk_recutRing {s g} (h : MemoryOk s) : MemoryOk (recutRing s g).1 := by
  unfold recutRing
  split
  · exact memoryOk_fst_ite (memoryOk_layGen (memoryOk_crossCut h)) (memoryOk_layGen h)
  · exact h

theorem memoryOk_fillSws {s g d} (h : MemoryOk s) : MemoryOk (fillSws s g d) :=
  memoryOk_foldl _ (fun _ _ hu => memoryOk_foldl _ (fun _ _ hv => memoryOk_storeMod hv _ _) _ _ hu) _ _ h

theorem memoryOk_unseat {s k g} (h : MemoryOk s) : MemoryOk (unseat s k g) :=
  memoryOk_foldl _ (fun _ _ => memoryOk_frame) _ _ (memoryOk_frame h)

theorem memoryOk_seat {s k g} (h : MemoryOk s) : MemoryOk (seat s k g) := by
  unfold seat
  extract_lets
  split
  · exact h
  · exact memoryOk_foldl _ (fun _ _ => memoryOk_frame) _ _ <|
      memoryOk_foldl _ (fun _ _ => memoryOk_fillSws) _ _ (memoryOk_frame h)

theorem memoryOk_reseat {k s n} (h : MemoryOk s) : MemoryOk (reseat k s n) := by
  unfold reseat
  extract_lets
  split
  · exact h
  · extract_lets
    refine memoryOk_ite h ?_
    split
    · exact memoryOk_ite (memoryOk_seat (memoryOk_ite (memoryOk_unseat h) h)) (memoryOk_ite (memoryOk_unseat h) h)
    · exact memoryOk_ite (memoryOk_unseat h) h

theorem memoryOk_seatAll {s} (h : MemoryOk s) : MemoryOk (seatAll s) :=
  memoryOk_foldl _ (fun _ _ => memoryOk_frame) _ _ <|
  memoryOk_foldl _ (fun _ _ hu => memoryOk_foldl _ (fun _ _ => memoryOk_reseat) _ _ hu) _ _ h

theorem memoryOk_placeLevels {s k g} (h : MemoryOk s) : MemoryOk (placeLevels s k g) :=
  memoryOk_ite h <|
  memoryOk_foldl _ (fun _ _ hu => memoryOk_foldl _ (fun _ _ hv => memoryOk_storeClean hv _ _) _ _ hu) _ _ h

theorem memoryOk_recopy {s b} (h : MemoryOk s) : MemoryOk (recopy s b) := memoryOk_storeClean h _ _

/-! ### Retirement of arcs, links, blocks and tiles (Machine/Retire) -/

theorem memoryOk_bump {s c b n} (h : MemoryOk s) : MemoryOk (bump s c b n).1 := by
  unfold bump
  extract_lets
  split
  · exact h
  · exact memoryOk_fst_ite (memoryOk_frame (memoryOk_ite (memoryOk_flog h) h)) <|
      memoryOk_frame (memoryOk_ite (memoryOk_flog h) h)

/-- The state after an event of a bucket, as the callers of `bump` name it. -/
theorem memoryOk_of_bump {s t c b n x} (h : MemoryOk s) (e : bump s c b n = (t, x)) : MemoryOk t := by
  have ht : MemoryOk (bump s c b n).1 := memoryOk_bump h
  rwa [e] at ht

theorem memoryOk_logAction {s c action level} (h : MemoryOk s) : MemoryOk (logAction s c action level) := memoryOk_flog h

theorem memoryOk_logStuck {s c action} (h : MemoryOk s) : MemoryOk (logStuck s c action) := memoryOk_flog h

theorem memoryOk_persistRetire {s c} (h : MemoryOk s) : MemoryOk (persistRetire s c) := memoryOk_ite h (memoryOk_frame h)

theorem memoryOk_sendFog {s cause} (h : MemoryOk s) : MemoryOk (sendFog s cause) :=
  memoryOk_flog (memoryOk_ite h (memoryOk_frame h))

theorem memoryOk_loseSeq {s x q} (h : MemoryOk s) : MemoryOk (loseSeq s x q) := by
  unfold loseSeq
  extract_lets s1
  have hs1 : MemoryOk s1 := by
    unfold s1
    split
    · exact memoryOk_finish h
    · exact h
  exact memoryOk_ite (memoryOk_dropSeq hs1) hs1

theorem memoryOk_tellAbort {s r} (h : MemoryOk s) : MemoryOk (tellAbort s r) := by
  unfold tellAbort
  split
  · exact memoryOk_finish h
  · exact memoryOk_frame h
  · exact h

theorem memoryOk_endAbort {s} (h : MemoryOk s) : MemoryOk (endAbort s) :=
  memoryOk_ite (memoryOk_foldl _ (fun _ _ => memoryOk_tellAbort) _ _ (memoryOk_frame h)) h

theorem memoryOk_abortEpoch {s} (h : MemoryOk s) : MemoryOk (abortEpoch s) := memoryOk_ite (memoryOk_endAbort (memoryOk_frame h)) h

theorem memoryOk_showSettle {s} (h : MemoryOk s) : MemoryOk (showSettle s) := memoryOk_foldl _ (fun _ _ => memoryOk_frame) _ _ h

theorem memoryOk_relayGens {s f} (h : MemoryOk s) (hf : ∀ {u a}, MemoryOk u → MemoryOk (f u a).1) : MemoryOk (relayGens s f) := by
  unfold relayGens
  refine memoryOk_foldl _ (fun _ _ hu => ?_) _ _ h
  split
  · split
    · exact memoryOk_frame (hf hu)
    · exact hu

theorem memoryOk_relayLine {r s g} (h : MemoryOk s) : MemoryOk (relayLine r s g).1 :=
  memoryOk_fst_ite h (memoryOk_fst_ite h (memoryOk_recutLine (memoryOk_frame h)))

theorem memoryOk_relayRing {s g} (h : MemoryOk s) : MemoryOk (relayRing s g).1 := memoryOk_fst_ite h (memoryOk_recutRing h)

theorem memoryOk_applyReq {s r} (h : MemoryOk s) : MemoryOk (applyReq s r) := by
  unfold applyReq
  split
  · extract_lets _ _ s1
    have hs1 : MemoryOk s1 := memoryOk_frame (memoryOk_ite (memoryOk_showSettle h) h)
    split
    · exact memoryOk_ite hs1 (memoryOk_finish hs1)
    · exact hs1
  · exact memoryOk_relayGens (memoryOk_frame (memoryOk_showSettle h)) memoryOk_relayLine
  · extract_lets _ s2 _ s3
    have hs2 : MemoryOk s2 := by
      unfold s2
      refine memoryOk_foldl _ (fun _ _ hu => ?_) _ _ (memoryOk_frame (memoryOk_frame (memoryOk_frame h)))
      split
      · exact memoryOk_ite (memoryOk_finish hu) hu
      · exact hu
    have hs3 : MemoryOk s3 := memoryOk_ite (memoryOk_frame hs2) hs2
    exact memoryOk_holdConfig <|
      memoryOk_ite (memoryOk_relayGens (memoryOk_frame (memoryOk_showSettle hs3)) memoryOk_relayRing) hs3

theorem memoryOk_endCommit {s} (h : MemoryOk s) : MemoryOk (endCommit s) :=
  memoryOk_ite (memoryOk_seatAll (memoryOk_foldl _ (fun _ _ => memoryOk_applyReq) _ _ (memoryOk_frame h))) h

theorem memoryOk_dropJoins {s d arcSt linkSt} (h : MemoryOk s) : MemoryOk (dropJoins s d arcSt linkSt) :=
  memoryOk_foldl _ (fun _ _ => memoryOk_linkTo) _ _ <|
  memoryOk_foldl _ (fun _ _ hu => memoryOk_ite hu (memoryOk_fire (memoryOk_frame hu))) _ _ h

theorem memoryOk_hostPathLost {s d} (h : MemoryOk s) : MemoryOk (hostPathLost s d) := memoryOk_ite (memoryOk_endDescs h) h

theorem memoryOk_leaveService {s d st x} (h : MemoryOk s) : MemoryOk (leaveService s d st x) :=
  memoryOk_frame <| memoryOk_frame <|
  memoryOk_foldl _ (fun _ _ => memoryOk_loseSeq) _ _ <| memoryOk_foldl _ (fun _ _ => memoryOk_finish) _ _ <|
  memoryOk_endTransfers <| memoryOk_endAbort <| memoryOk_abandonPass <| memoryOk_abortEpoch <|
  memoryOk_dropJoins (memoryOk_fire (memoryOk_frame (memoryOk_recallAll (memoryOk_hostPathLost h))))

theorem memoryOk_afterLeave {s d} (h : MemoryOk s) : MemoryOk (afterLeave s d) :=
  memoryOk_ite (memoryOk_sendFog (memoryOk_frame h)) (memoryOk_frame h)

theorem memoryOk_retireDie {s d stuck} (h : MemoryOk s) : MemoryOk (retireDie s d stuck) := by
  unfold retireDie
  refine memoryOk_ite h ?_
  extract_lets _ _ s1
  have hs1 : MemoryOk s1 := memoryOk_persistRetire (memoryOk_ite (memoryOk_logStuck h) (memoryOk_logAction h))
  exact memoryOk_ite (memoryOk_dropJoins (memoryOk_frame hs1)) (memoryOk_afterLeave (memoryOk_leaveService hs1))

theorem memoryOk_quarantine {s d} (h : MemoryOk s) : MemoryOk (quarantine s d) := by
  unfold quarantine
  refine memoryOk_ite h ?_
  split
  · exact memoryOk_ite (memoryOk_retireDie h) <|
      memoryOk_afterLeave (memoryOk_frame (memoryOk_leaveService (memoryOk_logAction h)))
  · exact memoryOk_afterLeave (memoryOk_frame (memoryOk_leaveService (memoryOk_logAction h)))

theorem memoryOk_retireTile {s t stuck level} (h : MemoryOk s) : MemoryOk (retireTile s t stuck level) := by
  unfold retireTile
  extract_lets _ _ s1
  have hs1 : MemoryOk s1 := memoryOk_frame <|
    memoryOk_persistRetire (memoryOk_ite (memoryOk_logStuck h) (memoryOk_logAction h))
  exact memoryOk_ite h (memoryOk_ite (memoryOk_retireDie hs1) hs1)

theorem memoryOk_bypassColumn {s t arr col} (h : MemoryOk s) : MemoryOk (bypassColumn s t arr col) :=
  memoryOk_ite h (memoryOk_ite (memoryOk_retireTile h) (memoryOk_frame (memoryOk_logStuck h)))

theorem memoryOk_retireArc {s k level} (h : MemoryOk s) : MemoryOk (retireArc s k level) :=
  memoryOk_ite h (memoryOk_retireDie (memoryOk_logAction h))

theorem memoryOk_retrainArc {s k level} (h : MemoryOk s) : MemoryOk (retrainArc s k level) := by
  unfold retrainArc
  extract_lets c s1 s2
  have hs : MemoryOk (abandonPass s2) := memoryOk_abandonPass (memoryOk_fire (memoryOk_frame (memoryOk_logAction h)))
  split
  · next e => exact memoryOk_retireArc (memoryOk_of_bump hs e)
  · next e => exact memoryOk_of_bump hs e

theorem memoryOk_arcEvents {s k n} (h : MemoryOk s) : MemoryOk (arcEvents s k n) := by
  unfold arcEvents
  split
  · next e => exact memoryOk_retrainArc (memoryOk_of_bump h e)
  · next e => exact memoryOk_of_bump h e

theorem memoryOk_retireLink {s n level} (h : MemoryOk s) : MemoryOk (retireLink s n level) :=
  memoryOk_ite h (memoryOk_linkTo (memoryOk_logAction h))

theorem memoryOk_retrainLink {s n level} (h : MemoryOk s) : MemoryOk (retrainLink s n level) := by
  unfold retrainLink
  extract_lets s1 s2
  have hs2 : MemoryOk s2 := memoryOk_linkTo (memoryOk_frame (memoryOk_logAction h))
  split
  · next e => exact memoryOk_retireLink (memoryOk_of_bump hs2 e)
  · next e => exact memoryOk_of_bump hs2 e

theorem memoryOk_linkEvents {s n k} (h : MemoryOk s) : MemoryOk (linkEvents s n k) := by
  unfold linkEvents
  split
  · next e => exact memoryOk_retrainLink (memoryOk_of_bump h e)
  · next e => exact memoryOk_of_bump h e

theorem memoryOk_retireLane {s n g stuck} (h : MemoryOk s) : MemoryOk (retireLane s n g stuck) := by
  unfold retireLane
  extract_lets _ _ s1
  have hs1 : MemoryOk s1 := memoryOk_frame (memoryOk_ite (memoryOk_logStuck h) (memoryOk_logAction h))
  exact memoryOk_ite h (memoryOk_ite (memoryOk_retireLink hs1) hs1)

theorem memoryOk_badBlock {s b} (h : MemoryOk s) : MemoryOk (badBlock s b) :=
  memoryOk_ite (memoryOk_recopy (memoryOk_setEcc h _ _)) (memoryOk_setPois (memoryOk_setEcc h _ _) _)

theorem memoryOk_copyFaults {s c p d} (h : MemoryOk s) : MemoryOk (copyFaults s c p d) :=
  memoryOk_foldl _ (fun _ _ hu => memoryOk_ite (memoryOk_badBlock hu) hu) _ _ h

theorem memoryOk_movePages {s c p d q} (h : MemoryOk s) : MemoryOk (movePages s c p d q) := by
  unfold movePages
  extract_lets _ _ _ _ s2
  have hs2 : MemoryOk s2 := by
    unfold s2
    refine memoryOk_foldl _ (fun _ _ hu => ?_) _ _ h
    extract_lets
    refine memoryOk_ite ?_ hu
    split
    · extract_lets s1
      have hs1 : MemoryOk s1 := memoryOk_writePte (memoryOk_copyPage (memoryOk_frame hu))
      exact memoryOk_ite (memoryOk_frame hs1) hs1
    · exact hu
  refine memoryOk_foldl _ (fun _ _ hu => ?_) _ _ ?_
  · refine memoryOk_ite ?_ hu
    split
    · exact memoryOk_frame (memoryOk_copyPage (memoryOk_frame hu))
    · exact hu
  · refine memoryOk_foldl _ (fun _ _ hu => ?_) _ _ hs2
    refine memoryOk_ite ?_ hu
    split
    · exact memoryOk_frame (memoryOk_copyPage (memoryOk_frame hu))
    · exact hu

theorem memoryOk_moveTables {s c p d q} (h : MemoryOk s) : MemoryOk (moveTables s c p d q) := by
  refine memoryOk_writeDir (memoryOk_frame (memoryOk_fst_foldl (fun r f hr => ?_) _ _ h))
  refine memoryOk_fst_ite ?_ hr
  split
  · dsimp only
    refine memoryOk_storeMod ?_ _ _
    exact memoryOk_frame hr
  · exact hr

theorem memoryOk_moveDir {s c p d q} (h : MemoryOk s) : MemoryOk (moveDir s c p d q) := by
  unfold moveDir
  extract_lets
  refine memoryOk_ite ?_ h
  split
  · exact memoryOk_frame (memoryOk_storeMod (memoryOk_frame h) _ _)
  · exact h

theorem memoryOk_moveFrame {k n d east s a} (h : MemoryOk s) : MemoryOk (moveFrame k n d east s a) := by
  unfold moveFrame
  split
  · exact memoryOk_frame (memoryOk_storeMod h _ _)
  · exact memoryOk_frame h

theorem memoryOk_mendFrame {k n d s b} (h : MemoryOk s) : MemoryOk (mendFrame k n d s b) :=
  memoryOk_foldl _ (fun _ _ hu => memoryOk_ite (memoryOk_recopy hu) (memoryOk_frame hu)) _ _ h

theorem memoryOk_moveWeights {s c p d} (h : MemoryOk s) : MemoryOk (moveWeights s c p d) := by
  unfold moveWeights
  extract_lets _ s1
  have hs1 : MemoryOk s1 := by
    unfold s1
    refine memoryOk_foldl _ (fun _ _ hu => ?_) _ _ h
    split
    · exact memoryOk_foldl _ (fun _ _ => memoryOk_mendFrame) _ _ <|
        memoryOk_foldl _ (fun _ _ => memoryOk_moveFrame) _ _ (memoryOk_foldl _ (fun _ _ => memoryOk_moveFrame) _ _ hu)
  exact memoryOk_frame hs1

theorem memoryOk_retirePc {s d c p level stuck} (h : MemoryOk s) : MemoryOk (retirePc s d c p level stuck) :=
  memoryOk_ite h <| memoryOk_frame <| memoryOk_moveWeights <| memoryOk_foldl _
    (fun _ _ hu => memoryOk_ite hu (memoryOk_moveDir (memoryOk_moveTables (memoryOk_movePages hu)))) _ _
    (memoryOk_copyFaults <|
    memoryOk_frame (memoryOk_persistRetire (memoryOk_ite (memoryOk_logStuck h) (memoryOk_logAction h))))

theorem memoryOk_pcEvents {s d a n} (h : MemoryOk s) : MemoryOk (pcEvents s d a n) := by
  unfold pcEvents
  split
  · next e => exact memoryOk_retirePc (memoryOk_of_bump h e)
  · next e => exact memoryOk_of_bump h e

theorem memoryOk_mapOutHbm {s d a stuck level} (h : MemoryOk s) : MemoryOk (mapOutHbm s d a stuck level) := by
  unfold mapOutHbm
  extract_lets _ _ _ s1 _ s2
  have hs1 : MemoryOk s1 := memoryOk_ite (memoryOk_logStuck h) (memoryOk_logAction h)
  have hs2 : MemoryOk s2 := memoryOk_frame hs1
  exact memoryOk_ite hs1 <| memoryOk_ite (memoryOk_frame (memoryOk_frame hs2)) <|
    memoryOk_ite (memoryOk_frame (memoryOk_frame hs2)) (memoryOk_pcEvents hs2)

theorem memoryOk_mapOutSws {s d off ue} (h : MemoryOk s) : MemoryOk (mapOutSws s d off ue) := by
  unfold mapOutSws
  extract_lets
  refine memoryOk_ite (memoryOk_retireDie (memoryOk_frame h)) ?_
  refine memoryOk_ite (memoryOk_frame h) ?_
  split
  · exact memoryOk_retireDie (memoryOk_frame h)
  · exact memoryOk_ite (memoryOk_logStuck (memoryOk_frame h)) <| memoryOk_frame <| memoryOk_frame <|
      memoryOk_foldl _ (fun _ _ hu => memoryOk_ite (memoryOk_recopy hu) hu) _ _ (memoryOk_logStuck (memoryOk_frame h))

theorem memoryOk_eccBlock {s b} (h : MemoryOk s) : MemoryOk (eccBlock s b) := by
  unfold eccBlock
  extract_lets v k d off _ s1
  have hs1 : MemoryOk s1 := memoryOk_frame (memoryOk_setEcc h _ _)
  have hpois : MemoryOk (setEcc (setPois s b) b 0) := memoryOk_setEcc (memoryOk_setPois h _) _ _
  refine memoryOk_ite h ?_
  split
  · extract_lets
    refine memoryOk_ite ?_ (memoryOk_frame h)
    split
    · next e => exact memoryOk_retireTile (memoryOk_of_bump hpois e)
    · next e => exact memoryOk_of_bump hpois e
  · refine memoryOk_ite (memoryOk_pcEvents (memoryOk_mapOutHbm (memoryOk_frame (memoryOk_badBlock h)))) ?_
    split
    · next e => exact memoryOk_mapOutHbm (memoryOk_of_bump hs1 e)
    · next e => exact memoryOk_of_bump hs1 e
  · exact memoryOk_ite (memoryOk_mapOutSws (memoryOk_frame (memoryOk_badBlock h))) <|
      memoryOk_ite (memoryOk_mapOutSws (memoryOk_setEcc (memoryOk_frame h) _ _)) (memoryOk_setEcc (memoryOk_frame h) _ _)
  · exact memoryOk_ite (memoryOk_frame hpois) (memoryOk_frame (memoryOk_setEcc h _ _))
  · exact memoryOk_setEcc h _ _

theorem memoryOk_eccNote {s keys} (h : MemoryOk s) : MemoryOk (eccNote s keys) :=
  memoryOk_ite h (memoryOk_foldl _ (fun _ _ => memoryOk_eccBlock) _ _ h)

theorem memoryOk_eccAt {s k n} (h : MemoryOk s) : MemoryOk (eccAt s k n) := memoryOk_eccNote h

/-! ### The command processor (Machine/CmdProc) -/

theorem memoryOk_openJob {s st e} (h : MemoryOk s) : MemoryOk (openJob s st e) := memoryOk_frame (memoryOk_ite (memoryOk_frame h) h)

theorem memoryOk_eccWord {s p} (h : MemoryOk s) : MemoryOk (eccWord s p) := memoryOk_ite h (memoryOk_eccAt h)

theorem memoryOk_noteReads {s e} (h : MemoryOk s) : MemoryOk (noteReads s e) := memoryOk_foldl _ (fun _ _ => memoryOk_eccWord) _ _ h

theorem memoryOk_entered {s st e} (h : MemoryOk s) : MemoryOk (entered s st e) :=
  memoryOk_noteReads (memoryOk_ite (memoryOk_openJob h) (memoryOk_eccWord (memoryOk_openJob h)))

theorem ansOk_startEntry {opc st run s} (hrun : ∀ {a b u}, MemoryOk u → MemoryOk (run a b u)) (h : MemoryOk s) :
    AnsOk (startEntry opc st run s) := by
  unfold startEntry
  split
  · exact .next h
  · split
    · exact .next (memoryOk_endCalls h)
    · refine ansOk_ite (.next h) ?_
      refine .next ?_
      split
      · exact memoryOk_finish (memoryOk_openJob h)
      · exact hrun (memoryOk_entered h)

theorem memoryOk_checkThen {chk j run s} (hrun : ∀ {u}, MemoryOk u → MemoryOk (run u)) (h : MemoryOk s) :
    MemoryOk (checkThen chk j run s) := by
  unfold checkThen
  split
  · exact memoryOk_finish h
  · exact hrun h

theorem memoryOk_setBody {s j b} (h : MemoryOk s) : MemoryOk (setBody s j b) := memoryOk_updJob h

theorem memoryOk_runNop {j _e s} (h : MemoryOk s) : MemoryOk (runNop j _e s) := memoryOk_finish h

theorem ansOk_execNop {st s} (h : MemoryOk s) : AnsOk (execNop st s) := ansOk_startEntry memoryOk_runNop h

theorem memoryOk_runSignal {j e s} (h : MemoryOk s) : MemoryOk (runSignal j e s) :=
  memoryOk_checkThen (fun hu => memoryOk_finish (memoryOk_raiseFence hu)) h

theorem ansOk_execSignal {st s} (h : MemoryOk s) : AnsOk (execSignal st s) := ansOk_startEntry memoryOk_runSignal h

theorem memoryOk_failCycle {s l} (h : MemoryOk s) : MemoryOk (failCycle s l) :=
  memoryOk_foldl _ (fun _ _ => memoryOk_finish) _ _ (memoryOk_frame h)

theorem memoryOk_runWait {j e s} (h : MemoryOk s) : MemoryOk (runWait j e s) := by
  unfold runWait
  extract_lets
  refine memoryOk_ite (memoryOk_finish h) ?_
  refine memoryOk_ite (memoryOk_finish (memoryOk_frame h)) ?_
  split
  · exact memoryOk_failCycle (memoryOk_setBody h)
  · exact memoryOk_setBody h

theorem ansOk_execWait {st s} (h : MemoryOk s) : AnsOk (execWait st s) := ansOk_startEntry memoryOk_runWait h

theorem ansOk_execWaitTimeout {st s} (h : MemoryOk s) : AnsOk (execWaitTimeout st s) := by
  unfold execWaitTimeout
  split
  · split
    · exact ansOk_ite (.next (memoryOk_finish (memoryOk_frame h))) (.next h)
    · exact .next h
  · exact .next h

theorem memoryOk_finishJump {s st n} (h : MemoryOk s) : MemoryOk (finishJump s st n) := by
  unfold finishJump
  split
  · exact memoryOk_finishStream h
  · exact h

theorem memoryOk_runBranch {j e s} (h : MemoryOk s) : MemoryOk (runBranch j e s) := by
  unfold runBranch
  split
  · exact memoryOk_finish h
  · exact memoryOk_checkThen
      (fun hu =>
        memoryOk_ite
          (memoryOk_finishJump (memoryOk_ite (memoryOk_frame (memoryOk_frame hu)) (memoryOk_frame hu)))
          (memoryOk_finish hu))
      h

theorem ansOk_execBranch {st s} (h : MemoryOk s) : AnsOk (execBranch st s) := ansOk_startEntry memoryOk_runBranch h

theorem ansOk_execBranchPollDelay {st s} (h : MemoryOk s) : AnsOk (execBranchPollDelay st s) :=
  ansOk_ite (.next (memoryOk_frame h)) (.next h)

theorem memoryOk_runLoop {j e s} (h : MemoryOk s) : MemoryOk (runLoop j e s) := by
  unfold runLoop
  split
  · exact memoryOk_finish h
  · exact memoryOk_checkThen (fun hu => memoryOk_finishJump (memoryOk_frame hu)) h

theorem ansOk_execLoop {st s} (h : MemoryOk s) : AnsOk (execLoop st s) := ansOk_startEntry memoryOk_runLoop h

theorem memoryOk_runCall {j e s} (h : MemoryOk s) : MemoryOk (runCall j e s) := by
  unfold runCall
  split
  · exact h
  · exact memoryOk_checkThen (fun hu => memoryOk_frame (memoryOk_frame hu)) h

theorem ansOk_execCall {st s} (h : MemoryOk s) : AnsOk (execCall st s) := ansOk_startEntry memoryOk_runCall h

theorem memoryOk_runReturn {j _e s} (h : MemoryOk s) : MemoryOk (runReturn j _e s) := by
  unfold runReturn
  split
  · exact memoryOk_finish h
  · exact memoryOk_finishJump h

theorem ansOk_execRet {st s} (h : MemoryOk s) : AnsOk (execRet st s) := ansOk_startEntry memoryOk_runReturn h

theorem memoryOk_runTimestamp {j e s} (h : MemoryOk s) : MemoryOk (runTimestamp j e s) :=
  memoryOk_checkThen (fun hu => memoryOk_finish (memoryOk_writeWord hu)) h

theorem ansOk_execTimestamp {st s} (h : MemoryOk s) : AnsOk (execTimestamp st s) := ansOk_startEntry memoryOk_runTimestamp h

theorem memoryOk_runDigest {j e s} (h : MemoryOk s) : MemoryOk (runDigest j e s) :=
  memoryOk_checkThen (fun hu => memoryOk_finishRanked (memoryOk_updJob hu)) h

theorem ansOk_execDigest {st s} (h : MemoryOk s) : AnsOk (execDigest st s) := ansOk_startEntry memoryOk_runDigest h

theorem ansOk_execCpCapCntClr {s} (h : MemoryOk s) : AnsOk (execCpCapCntClr s) := ansOk_gate h (.next (memoryOk_frame h))

/-! ### Job and descriptor feed (Machine/Feed) -/

theorem memoryOk_clearEcc {s t addrs} (h : MemoryOk s) : MemoryOk (clearEcc s t addrs) :=
  memoryOk_ite h (memoryOk_foldl _ (fun _ _ hu => memoryOk_ite (memoryOk_setEcc hu _ _) hu) _ _ h)

theorem memoryOk_storeAddrs {s t data} (h : MemoryOk s) : MemoryOk (storeAddrs s t data) :=
  memoryOk_storeTile (memoryOk_clearWhole (memoryOk_clearEcc h) _ _) _ _

theorem memoryOk_flushEntry {s t e} (h : MemoryOk s) : MemoryOk (flushEntry s t e) := memoryOk_frame (memoryOk_storeAddrs h)

theorem memoryOk_gatherLine {s t uid line data} (h : MemoryOk s) : MemoryOk (gatherLine s t uid line data) := by
  unfold gatherLine
  extract_lets g _ _ s1
  have hs1 : MemoryOk s1 := by
    unfold s1
    refine memoryOk_ite h ?_
    clear_value g
    split
    · exact memoryOk_ite (memoryOk_flushEntry h) h
    · exact h
  exact memoryOk_ite (memoryOk_flushEntry hs1) (memoryOk_frame hs1)

theorem memoryOk_gatherAll {s t uid data} (h : MemoryOk s) : MemoryOk (gatherAll s t uid data) :=
  memoryOk_foldl _ (fun _ _ => memoryOk_gatherLine) _ _ h

theorem memoryOk_flushTod {s t uid} (h : MemoryOk s) : MemoryOk (flushTod s t uid) :=
  memoryOk_foldl _ (fun _ _ => memoryOk_flushEntry) _ _ h

theorem memoryOk_storeHandle {s t h off data} (hs : MemoryOk s) : MemoryOk (storeHandle s t h off data) :=
  memoryOk_setFill (memoryOk_ite (memoryOk_storeAddrs hs) (memoryOk_flushTod (memoryOk_gatherAll hs))) _ _

theorem memoryOk_consumeFill {s t consumed sets} (h : MemoryOk s) : MemoryOk (consumeFill s t consumed sets) :=
  memoryOk_ite (memoryOk_clearFill h _ _) (memoryOk_frame (memoryOk_clearFill h _ _))

theorem memoryOk_recordFault {s t c cause opc qidx} (h : MemoryOk s) : MemoryOk (recordFault s t c cause opc qidx) :=
  memoryOk_fire (memoryOk_frame h)

theorem memoryOk_updKernel {s j f} (h : MemoryOk s) : MemoryOk (updKernel s j f) := memoryOk_updJob h

theorem memoryOk_handCtxs {s} (h : MemoryOk s) : MemoryOk (handCtxs s) := by
  unfold handCtxs
  refine memoryOk_foldl _ (fun _ _ hu => ?_) _ _ h
  split
  · exact memoryOk_foldl _ (fun _ _ hv => memoryOk_ite (memoryOk_frame hv) hv) _ _ hu
  · exact hu

theorem memoryOk_putTod {s t j b bad} (h : MemoryOk s) : MemoryOk (putTod s t j b bad) := memoryOk_frame (memoryOk_storeHandle h)

theorem memoryOk_queueRefused {s t j} (h : MemoryOk s) : MemoryOk (queueRefused s t j) :=
  memoryOk_unitFault (memoryOk_updKernel (memoryOk_recordFault h))

theorem memoryOk_feedTile {s j k t tods} (h : MemoryOk s) : MemoryOk (feedTile s j k t tods) :=
  memoryOk_ite h <| memoryOk_ite (memoryOk_queueRefused h) <|
  memoryOk_updKernel (memoryOk_foldl _ (fun _ _ => memoryOk_putTod) _ _ (memoryOk_frame h))

theorem memoryOk_pushJob {s j l} (h : MemoryOk s) : MemoryOk (pushJob s j l) := by
  refine memoryOk_updKernel (memoryOk_fst_foldl (fun r p hr => ?_) _ _ h)
  exact memoryOk_fst_ite (memoryOk_frame hr) hr

theorem memoryOk_feedDesc {s j d} (h : MemoryOk s) : MemoryOk (feedDesc s j d).1 := memoryOk_fst_ite (memoryOk_frame h) h

theorem memoryOk_feedDescs {s j l} (h : MemoryOk s) : MemoryOk (feedDescs s j l).1 := by
  refine memoryOk_fst_foldl (fun r d hr => ?_) _ _ h
  exact memoryOk_fst_ite hr (memoryOk_feedDesc hr)

theorem memoryOk_feedJob {s j} (h : MemoryOk s) : MemoryOk (feedJob s j) := by
  unfold feedJob
  split
  · split
    · exact memoryOk_foldl _ (fun _ _ => memoryOk_feedTile) _ _ <|
        memoryOk_pushJob (memoryOk_updKernel (memoryOk_feedDescs h))
    · exact h
  · exact h

theorem memoryOk_feedAll {s} (h : MemoryOk s) : MemoryOk (feedAll s) :=
  memoryOk_ite (memoryOk_foldl _ (fun _ _ => memoryOk_feedJob) _ _ h) h

theorem memoryOk_endKernel {s j k} (h : MemoryOk s) : MemoryOk (endKernel s j k) := by
  unfold endKernel
  extract_lets _ s1
  have hs1 : MemoryOk s1 := by
    unfold s1
    split
    · exact memoryOk_frame h
    · exact h
  exact memoryOk_feedAll (memoryOk_handCtxs (memoryOk_finishRanked hs1))

theorem memoryOk_unitDone {s j} (h : MemoryOk s) : MemoryOk (unitDone s j) := by
  unfold unitDone
  split
  · split
    · exact memoryOk_ite (memoryOk_endKernel h) h
    · exact memoryOk_ite (memoryOk_finishRanked h) h
    · exact h
  · exact h

theorem memoryOk_faultPersist {s id} (h : MemoryOk s) : MemoryOk (faultPersist s id) :=
  memoryOk_foldl _ (fun _ _ hu => memoryOk_unitDone (memoryOk_updKernel hu)) _ _ (memoryOk_endPersist h)

theorem memoryOk_ctxFault {s t w cause} (h : MemoryOk s) : MemoryOk (ctxFault s t w cause) := by
  unfold ctxFault
  extract_lets _ _ j p _ _ _ s1
  have hs1 : MemoryOk s1 := by
    unfold s1
    clear_value j
    split
    · exact memoryOk_unitDone (memoryOk_unitFault (memoryOk_frame (memoryOk_recordFault h)))
    · exact memoryOk_frame (memoryOk_recordFault h)
  clear_value p
  split
  · exact memoryOk_faultPersist hs1
  · exact hs1

/-! ### Tile contexts (Machine/Tile) -/

theorem memoryOk_joinLine {s t w sem count} (h : MemoryOk s) : MemoryOk (joinLine s t w sem count) :=
  memoryOk_frame (memoryOk_frame (memoryOk_frame h))

theorem memoryOk_execFault {s t w cause written} (h : MemoryOk s) : MemoryOk (execFault s t w cause written) :=
  memoryOk_ctxFault (memoryOk_foldl _ (fun _ _ hu => memoryOk_storeTile (memoryOk_frame hu) _ _) _ _ h)

theorem memoryOk_issueTod {s t w} (h : MemoryOk s) : MemoryOk (issueTod s t w) :=
  memoryOk_ite (memoryOk_execFault (memoryOk_frame h)) <|
  memoryOk_frame (memoryOk_frame (memoryOk_eccNote (memoryOk_frame h)))

theorem memoryOk_goOn {go s t uid} (hgo : ∀ {a u}, MemoryOk u → MemoryOk (go a u)) (h : MemoryOk s) :
    MemoryOk (goOn go s t uid) := by
  unfold goOn
  split
  · exact hgo h
  · exact h

theorem memoryOk_reportLaunch {s t w} (h : MemoryOk s) : MemoryOk (reportLaunch s t w) := by
  unfold reportLaunch
  split
  · exact memoryOk_ite (memoryOk_unitDone (memoryOk_updKernel h)) h
  · exact h

theorem memoryOk_completeTod {s t w} (h : MemoryOk s) : MemoryOk (completeTod s t w) := by
  unfold completeTod
  extract_lets _ _ s1
  have hs1 : MemoryOk s1 := memoryOk_ite (memoryOk_fire (memoryOk_frame (memoryOk_frame h))) <|
    memoryOk_frame (memoryOk_frame h)
  exact memoryOk_ite (memoryOk_ctxFault (memoryOk_frame hs1)) <|
    memoryOk_reportLaunch (memoryOk_ite (memoryOk_frame hs1) hs1)

theorem ansOk_runTod {opc t n go s} (hgo : ∀ {a u}, MemoryOk u → MemoryOk (go a u)) (h : MemoryOk s) :
    AnsOk (runTod opc t n go s) := by
  unfold runTod
  split
  · exact .next h
  · refine ansOk_ite (.next h) ?_
    refine ansOk_ite (.next h) ?_
    refine ansOk_ite (.next (memoryOk_ite h (hgo h))) ?_
    refine ansOk_ite (.next h) ?_
    refine ansOk_ite (.next (memoryOk_frame h)) ?_
    refine ansOk_ite (.next (memoryOk_joinLine h)) ?_
    split
    · exact .next (memoryOk_ctxFault (memoryOk_frame h))
    · exact .next (memoryOk_goOn hgo (memoryOk_issueTod h))

theorem ansOk_execTileQueueEnable {t qhandle s} (h : MemoryOk s) : AnsOk (execTileQueueEnable t qhandle s) :=
  ansOk_gate h <| ansOk_ite (.next h) <|
  ansOk_ite (.next (memoryOk_frame (memoryOk_frame h))) (.next (memoryOk_recordFault (memoryOk_frame h)))

theorem memoryOk_queueFault {s t cause qidx} (h : MemoryOk s) : MemoryOk (queueFault s t cause qidx) := by
  unfold queueFault
  extract_lets j
  clear_value j
  split
  · exact memoryOk_unitDone (memoryOk_unitFault (memoryOk_recordFault h))
  · exact memoryOk_recordFault h

theorem ansOk_execTileQueueTail {t tail s} (h : MemoryOk s) : AnsOk (execTileQueueTail t tail s) :=
  ansOk_gate h (ansOk_ite (.next (memoryOk_queueFault h)) (.next (memoryOk_frame h)))

theorem memoryOk_fetchFault {s t cause qidx} (h : MemoryOk s) : MemoryOk (fetchFault s t cause qidx) := by
  unfold fetchFault
  extract_lets _ _ s1
  have hs1 : MemoryOk s1 := by
    unfold s1
    split
    · exact memoryOk_updKernel h
    · exact h
  exact memoryOk_queueFault (memoryOk_frame hs1)

theorem ansOk_execTodFetch {t s} (h : MemoryOk s) : AnsOk (execTodFetch t s) :=
  ansOk_ite (.next h) <| ansOk_ite (.next (memoryOk_fetchFault h)) <| ansOk_ite (.next (memoryOk_fetchFault h)) <|
  .next (memoryOk_feedAll (memoryOk_frame (memoryOk_clearFill (memoryOk_eccNote h) _ _)))

theorem ansOk_execTodComplete {t n s} (h : MemoryOk s) : AnsOk (execTodComplete t n s) := by
  unfold execTodComplete
  split
  · exact .next h
  · exact ansOk_ite (.next h) <| .next <|
      memoryOk_completeTod (memoryOk_consumeFill (memoryOk_setFill (memoryOk_storeAddrs (memoryOk_flushTod h)) _ _))

theorem ansOk_execTileCountsCntClr {t s} (h : MemoryOk s) : AnsOk (execTileCountsCntClr t s) :=
  ansOk_gate h (.next (memoryOk_frame h))

theorem ansOk_execSpadCountsCntClr {t s} (h : MemoryOk s) : AnsOk (execSpadCountsCntClr t s) :=
  ansOk_gate h (.next (memoryOk_frame h))

/-! ### Compute TODs (Machine/Compute) -/

theorem memoryOk_setOutputs {s t w gather outs consumed nan sat} (h : MemoryOk s) :
    MemoryOk (setOutputs s t w gather outs consumed nan sat) := by
  unfold setOutputs
  extract_lets _ s1
  have hs1 : MemoryOk s1 := memoryOk_frame (memoryOk_frame (memoryOk_frame h))
  exact memoryOk_ite (memoryOk_gatherAll hs1) hs1

theorem memoryOk_arrayFinish {o s t w x wg ag} (h : MemoryOk s) : MemoryOk (arrayFinish o s t w x wg ag) :=
  memoryOk_setOutputs (memoryOk_eccNote (memoryOk_frame h))

theorem memoryOk_shiftFinish {s t w x wg} (h : MemoryOk s) : MemoryOk (shiftFinish s t w x wg) := by
  unfold shiftFinish
  extract_lets
  exact memoryOk_setOutputs (memoryOk_eccNote (memoryOk_frame h))

theorem memoryOk_arrayGo {o t w s} (h : MemoryOk s) : MemoryOk (arrayGo o t w s) :=
  memoryOk_ite (memoryOk_frame (memoryOk_frame (memoryOk_frame h))) <|
  memoryOk_ite (memoryOk_execFault (memoryOk_frame (memoryOk_frame h))) <|
  memoryOk_ite (memoryOk_shiftFinish (memoryOk_frame h)) (memoryOk_arrayFinish (memoryOk_frame h))

theorem ansOk_execMma {t w s} (h : MemoryOk s) : AnsOk (execMma t w s) := ansOk_runTod memoryOk_arrayGo h

theorem ansOk_execMmaT {t w s} (h : MemoryOk s) : AnsOk (execMmaT t w s) := ansOk_runTod memoryOk_arrayGo h

theorem ansOk_execDist {t w s} (h : MemoryOk s) : AnsOk (execDist t w s) := ansOk_runTod memoryOk_arrayGo h

theorem ansOk_execAshift {t w s} (h : MemoryOk s) : AnsOk (execAshift t w s) := ansOk_runTod memoryOk_arrayGo h

theorem memoryOk_vecFinish {o s t w ag bg} (h : MemoryOk s) : MemoryOk (vecFinish o s t w ag bg) :=
  memoryOk_setOutputs (memoryOk_eccNote (memoryOk_frame h))

theorem memoryOk_vecGo {o t w s} (h : MemoryOk s) : MemoryOk (vecGo o t w s) :=
  memoryOk_ite (memoryOk_frame (memoryOk_frame (memoryOk_frame h))) <|
  memoryOk_ite (memoryOk_execFault (memoryOk_frame (memoryOk_frame h))) (memoryOk_vecFinish (memoryOk_frame h))

theorem ansOk_execSoftmax {t w s} (h : MemoryOk s) : AnsOk (execSoftmax t w s) := ansOk_runTod memoryOk_vecGo h

theorem ansOk_execRmsnorm {t w s} (h : MemoryOk s) : AnsOk (execRmsnorm t w s) := ansOk_runTod memoryOk_vecGo h

theorem ansOk_execGlu {t w s} (h : MemoryOk s) : AnsOk (execGlu t w s) := ansOk_runTod memoryOk_vecGo h

theorem ansOk_execRope {t w s} (h : MemoryOk s) : AnsOk (execRope t w s) := ansOk_runTod memoryOk_vecGo h

theorem ansOk_execQuant {t w s} (h : MemoryOk s) : AnsOk (execQuant t w s) := ansOk_runTod memoryOk_vecGo h

theorem ansOk_execDequant {t w s} (h : MemoryOk s) : AnsOk (execDequant t w s) := ansOk_runTod memoryOk_vecGo h

theorem ansOk_execTopk {t w s} (h : MemoryOk s) : AnsOk (execTopk t w s) := ansOk_runTod memoryOk_vecGo h

theorem ansOk_execEwise {t w s} (h : MemoryOk s) : AnsOk (execEwise t w s) := ansOk_runTod memoryOk_vecGo h

theorem ansOk_execConvert {t w s} (h : MemoryOk s) : AnsOk (execConvert t w s) := ansOk_runTod memoryOk_vecGo h

/-! ### Sync units (Machine/Sync) -/

theorem memoryOk_doorbell {s n} (h : MemoryOk s) : MemoryOk (doorbell s n) := memoryOk_ite (memoryOk_fire h) (memoryOk_frame h)

theorem ansOk_execTodNop {t w s} (h : MemoryOk s) : AnsOk (execTodNop t w s) := ansOk_runTod memoryOk_completeTod h

theorem memoryOk_eventGo {t w s} (h : MemoryOk s) : MemoryOk (eventGo t w s) := memoryOk_completeTod (memoryOk_doorbell h)

theorem ansOk_execEvent {t w s} (h : MemoryOk s) : AnsOk (execEvent t w s) := ansOk_runTod memoryOk_eventGo h

theorem memoryOk_srkeyGo {t w s} (h : MemoryOk s) : MemoryOk (srkeyGo t w s) := memoryOk_completeTod (memoryOk_frame h)

theorem ansOk_execSrkey {t w s} (h : MemoryOk s) : AnsOk (execSrkey t w s) := ansOk_runTod memoryOk_srkeyGo h

theorem memoryOk_takeFlags {s t c j} (h : MemoryOk s) : MemoryOk (takeFlags s t c j) := by
  unfold takeFlags
  extract_lets _ s1
  have hs1 : MemoryOk s1 := by
    unfold s1
    split
    · exact memoryOk_updJob h
    · exact h
  exact memoryOk_frame hs1

theorem memoryOk_taskEndGo {t w s} (h : MemoryOk s) : MemoryOk (taskEndGo t w s) :=
  memoryOk_foldl _ (fun _ _ => memoryOk_unitDone) _ _ <|
  memoryOk_handCtxs <| memoryOk_foldl _ (fun _ _ => memoryOk_updKernel) _ _ <|
  memoryOk_frame (memoryOk_takeFlags (memoryOk_completeTod (memoryOk_frame h)))

theorem ansOk_execTaskEnd {t w s} (h : MemoryOk s) : AnsOk (execTaskEnd t w s) := ansOk_runTod memoryOk_taskEndGo h

theorem ansOk_execSemSignal {t w s} (h : MemoryOk s) : AnsOk (execSemSignal t w s) :=
  ansOk_runTod (fun hu => memoryOk_frame (memoryOk_frame hu)) h

theorem ansOk_execSemSignalReport {t n s} (h : MemoryOk s) : AnsOk (execSemSignalReport t n s) := by
  unfold execSemSignalReport
  split
  · exact .next h
  · split
    · exact .next (memoryOk_completeTod h)
    · exact .next (memoryOk_ctxFault h)
    · exact .next h

theorem memoryOk_semWaitGo {t w s} (h : MemoryOk s) : MemoryOk (semWaitGo t w s) := memoryOk_joinLine (memoryOk_frame h)

theorem ansOk_execSemWait {t w s} (h : MemoryOk s) : AnsOk (execSemWait t w s) := ansOk_runTod memoryOk_semWaitGo h

theorem memoryOk_holderFault {s t ovf sem who} (h : MemoryOk s) : MemoryOk (holderFault s t ovf sem who) := by
  unfold holderFault
  extract_lets
  split
  · exact memoryOk_ite (memoryOk_frame h) (memoryOk_fire (memoryOk_frame h))
  · exact memoryOk_fire (memoryOk_frame h)

theorem memoryOk_serveSig {s t g} (h : MemoryOk s) : MemoryOk (serveSig s t g) := by
  unfold serveSig
  extract_lets ok s1
  have hs1 : MemoryOk s1 := memoryOk_ite (memoryOk_frame h) (memoryOk_holderFault h)
  split
  · exact memoryOk_frame hs1
  · clear_value ok
    split
    · exact memoryOk_unitFault hs1
    · exact hs1

theorem memoryOk_refuseWait {s t r} (h : MemoryOk s) : MemoryOk (refuseWait s t r) := by
  unfold refuseWait
  extract_lets
  split
  · split
    · exact memoryOk_ctxFault (memoryOk_holderFault (memoryOk_frame h))
    · exact memoryOk_holderFault (memoryOk_frame h)
  · split
    · exact memoryOk_holderFault (memoryOk_frame h)
    · extract_lets
      split
      · exact memoryOk_unitDone (memoryOk_unitFault (memoryOk_frame (memoryOk_holderFault (memoryOk_frame h))))
      · exact memoryOk_frame (memoryOk_holderFault (memoryOk_frame h))
  · exact memoryOk_holderFault (memoryOk_frame h)

theorem memoryOk_grantWait {s t r} (h : MemoryOk s) : MemoryOk (grantWait s t r) := by
  unfold grantWait
  extract_lets
  split
  · split
    · exact memoryOk_frame (memoryOk_frame h)
    · exact memoryOk_ite (memoryOk_issueTod (memoryOk_frame (memoryOk_frame h))) <|
        memoryOk_completeTod (memoryOk_frame (memoryOk_frame h))
  · exact memoryOk_frame (memoryOk_frame (memoryOk_frame h))
  · exact memoryOk_frame (memoryOk_frame h)

theorem memoryOk_serveWait {t q r} (h : MemoryOk q.1) : MemoryOk (serveWait t q r).1 := by
  unfold serveWait
  extract_lets
  refine memoryOk_fst_ite h ?_
  split
  · refine memoryOk_fst_ite h ?_
    refine memoryOk_fst_ite h ?_
    split
    · exact memoryOk_ctxFault (memoryOk_frame (memoryOk_frame h))
    · exact memoryOk_ite (memoryOk_refuseWait h) (memoryOk_grantWait h)
  · exact memoryOk_fst_ite (memoryOk_grantWait h) (memoryOk_fst_ite (memoryOk_refuseWait h) h)

theorem ansOk_execSemRequest {t s} (h : MemoryOk s) : AnsOk (execSemRequest t s) := by
  refine .next <| memoryOk_fst_foldl (fun _ _ => memoryOk_serveWait) _ _ ?_
  exact memoryOk_foldl _ (fun _ _ => memoryOk_unitDone) _ _ <|
    memoryOk_foldl _ (fun _ _ => memoryOk_serveSig) _ _ (memoryOk_frame h)

theorem memoryOk_qwaitGo {t w s} (h : MemoryOk s) : MemoryOk (qwaitGo t w s) := by
  unfold qwaitGo
  extract_lets
  split
  · exact memoryOk_frame (memoryOk_frame h)
  · exact memoryOk_feedAll <| memoryOk_ite (memoryOk_ctxFault (memoryOk_frame (memoryOk_frame h))) <|
      memoryOk_ite (memoryOk_ctxFault (memoryOk_frame (memoryOk_frame h))) <|
      memoryOk_ite (memoryOk_ctxFault (memoryOk_frame (memoryOk_frame h))) <|
      memoryOk_completeTod (memoryOk_frame (memoryOk_clearFill (memoryOk_frame (memoryOk_frame h)) _ _))

theorem ansOk_execQwait {t w s} (h : MemoryOk s) : AnsOk (execQwait t w s) := ansOk_runTod memoryOk_qwaitGo h

theorem memoryOk_rootCheck {s c} (h : MemoryOk s) : MemoryOk (rootCheck s c) :=
  memoryOk_ite (memoryOk_frame (memoryOk_foldl _ (fun _ _ hu => memoryOk_ite hu (memoryOk_sendTo hu)) _ _ h)) h

theorem memoryOk_sendArrive {s c} (h : MemoryOk s) : MemoryOk (sendArrive s c) :=
  memoryOk_ite
    (memoryOk_ite (memoryOk_rootCheck (memoryOk_frame (memoryOk_frame h))) (memoryOk_sendTo (memoryOk_frame h)))
    h

theorem memoryOk_enterBar {s casc b p} (h : MemoryOk s) : MemoryOk (enterBar s casc b p).1 :=
  memoryOk_fst_ite (memoryOk_fire (memoryOk_frame h)) <|
  memoryOk_ite (memoryOk_sendArrive (memoryOk_frame h)) (memoryOk_frame h)

theorem memoryOk_releasePart {s p} (h : MemoryOk s) : MemoryOk (releasePart s p) := by
  unfold releasePart
  split
  · exact memoryOk_finish h
  · split
    · exact memoryOk_ite (memoryOk_frame h) (memoryOk_completeTod h)
    · exact h

theorem memoryOk_freeTile {s t} (h : MemoryOk s) : MemoryOk (freeTile s t) := by
  unfold freeTile
  refine memoryOk_foldl _ (fun _ _ hu => ?_) _ _ h
  split
  · exact memoryOk_completeTod hu
  · exact hu

theorem memoryOk_freeLender {s d} (h : MemoryOk s) : MemoryOk (freeLender s d) :=
  memoryOk_ite h (memoryOk_foldl _ (fun _ _ => memoryOk_freeTile) _ _ h)

theorem memoryOk_freeLenders {s} (h : MemoryOk s) : MemoryOk (freeLenders s) :=
  memoryOk_foldl _ (fun _ _ => memoryOk_freeLender) _ _ h

theorem memoryOk_completeRound {s casc b} (h : MemoryOk s) : MemoryOk (completeRound s casc b) := by
  unfold completeRound
  extract_lets _ _ s1
  have hs1 : MemoryOk s1 := memoryOk_foldl _ (fun _ _ => memoryOk_releasePart) _ _ (memoryOk_frame h)
  exact memoryOk_ite (memoryOk_rootCheck (memoryOk_sendArrive hs1)) hs1

theorem memoryOk_todBarrierGo {t w s} (h : MemoryOk s) : MemoryOk (todBarrierGo t w s) :=
  memoryOk_ite (memoryOk_ctxFault (memoryOk_enterBar h)) (memoryOk_frame (memoryOk_frame (memoryOk_enterBar h)))

theorem ansOk_execTodBarrier {t w s} (h : MemoryOk s) : AnsOk (execTodBarrier t w s) :=
  ansOk_ite (.next (memoryOk_freeTile h)) (ansOk_runTod memoryOk_todBarrierGo h)

theorem memoryOk_runBarrier {j e s} (h : MemoryOk s) : MemoryOk (runBarrier j e s) :=
  memoryOk_checkThen
    (fun hu =>
      memoryOk_ite (memoryOk_finish hu) <| memoryOk_ite (memoryOk_finish (memoryOk_enterBar (memoryOk_setBody hu))) <|
      memoryOk_enterBar (memoryOk_setBody hu))
    h

theorem ansOk_execBarrier {st s} (h : MemoryOk s) : AnsOk (execBarrier st s) := ansOk_startEntry memoryOk_runBarrier h

theorem ansOk_execBarrierRoundComplete {casc b s} (h : MemoryOk s) : AnsOk (execBarrierRoundComplete casc b s) :=
  ansOk_ite (ansOk_ite (.next (memoryOk_completeRound h)) (.next h)) <|
  ansOk_ite (.next (memoryOk_completeRound h)) (.next h)

theorem ansOk_execBarrierConfigWrite {casc b v s} (h : MemoryOk s) : AnsOk (execBarrierConfigWrite casc b v s) :=
  ansOk_gate h <| ansOk_ite (.next h) <| ansOk_ite (.next (memoryOk_fire (memoryOk_frame h))) <|
  .next (memoryOk_ite (memoryOk_sendArrive (memoryOk_frame h)) (memoryOk_frame h))

theorem ansOk_execArrive {member c round s} (h : MemoryOk s) : AnsOk (execArrive member c round s) :=
  ansOk_ite (.next h) (.next (memoryOk_rootCheck (memoryOk_frame h)))

theorem ansOk_execRelease {c round trel s} (h : MemoryOk s) : AnsOk (execRelease c round trel s) :=
  ansOk_ite (.next h) <| ansOk_ite (.next (memoryOk_completeRound h)) <|
  ansOk_ite (.next (memoryOk_completeRound (memoryOk_fire (memoryOk_frame h)))) (.next (memoryOk_frame h))

theorem ansOk_execCascadeReleaseTime {c s} (h : MemoryOk s) : AnsOk (execCascadeReleaseTime c s) :=
  ansOk_ite (.next (memoryOk_completeRound h)) (.next h)

theorem ansOk_execBeaconExchange {t1 t2 t3 t4 s} (h : MemoryOk s) : AnsOk (execBeaconExchange t1 t2 t3 t4 s) := by
  unfold execBeaconExchange
  refine ansOk_ite (.next h) ?_
  refine ansOk_ite (.next (memoryOk_frame h)) ?_
  split
  · exact .next h
  · exact .next (memoryOk_frame h)

theorem ansOk_execBcnStatusCntClr {s} (h : MemoryOk s) : AnsOk (execBcnStatusCntClr s) := ansOk_gate h (.next (memoryOk_frame h))

/-! ### Events and keepers (Machine/Events) -/

theorem ansOk_execEvrDoorbell {v s} (h : MemoryOk s) : AnsOk (execEvrDoorbell v s) := ansOk_gate h (.next (memoryOk_doorbell h))

theorem ansOk_execEvrFclr {v fires s} (h : MemoryOk s) : AnsOk (execEvrFclr v fires s) :=
  ansOk_ite (.next (memoryOk_fireN h)) (ansOk_ite (.next (memoryOk_frame h)) (.next h))

theorem ansOk_execEvrEnWrite {w v s} (h : MemoryOk s) : AnsOk (execEvrEnWrite w v s) :=
  ansOk_gate h (.next (memoryOk_foldl _ (fun _ _ => memoryOk_frame) _ _ h))

theorem ansOk_execEvrPendWrite {w v hw s} (h : MemoryOk s) : AnsOk (execEvrPendWrite w v hw s) := by
  unfold execEvrPendWrite
  refine ansOk_ite ?_ ?_
  · exact .next (memoryOk_foldl _ (fun _ _ hu => memoryOk_ite (memoryOk_fire hu) hu) _ _ h)
  · extract_lets _ s1
    have hs1 : MemoryOk s1 := memoryOk_foldl _ (fun _ _ => memoryOk_frame) _ _ h
    exact .next (memoryOk_ite hs1 (memoryOk_frame hs1))

theorem memoryOk_sendMsix {s v} (h : MemoryOk s) : MemoryOk (sendMsix s v) := memoryOk_ite (memoryOk_frame h) (memoryOk_frame h)

theorem ansOk_execMsixVectorUnmask {v s} (h : MemoryOk s) : AnsOk (execMsixVectorUnmask v s) :=
  ansOk_gate h (.next (memoryOk_ite (memoryOk_sendMsix (memoryOk_frame h)) (memoryOk_frame h)))

theorem memoryOk_present {s t n} (h : MemoryOk s) : MemoryOk (present s t n) := by
  unfold present
  extract_lets _ _ _ _ _ _ _ s' _ s'1
  have hs' : MemoryOk s' := memoryOk_frame (memoryOk_hostWrite (memoryOk_frame (memoryOk_frame h)) _ _)
  have hs'1 : MemoryOk s'1 := memoryOk_ite (memoryOk_frame hs') hs'
  exact memoryOk_ite (memoryOk_frame (memoryOk_frame (memoryOk_frame h))) (memoryOk_ite (memoryOk_sendMsix hs'1) hs'1)

theorem memoryOk_noteDeferred {s n} (h : MemoryOk s) : MemoryOk (noteDeferred s n) :=
  memoryOk_ite (memoryOk_frame (memoryOk_frame h)) h

theorem memoryOk_routeCycle {s cands} (h : MemoryOk s) : MemoryOk (routeCycle s cands) :=
  memoryOk_foldl _ (fun _ _ => memoryOk_noteDeferred) _ _ (memoryOk_foldl _ (fun _ _ => memoryOk_present) _ _ h)

theorem ansOk_execKeeperTake {k head s} (h : MemoryOk s) : AnsOk (execKeeperTake k head s) := by
  unfold execKeeperTake
  extract_lets
  split
  · exact .next h
  · exact ansOk_ite (.next h) (.next (memoryOk_frame (memoryOk_frame h)))

theorem ansOk_execEoi {k src s} (h : MemoryOk s) : AnsOk (execEoi k src s) := by
  unfold execEoi
  extract_lets
  split
  · exact .next (memoryOk_flog (memoryOk_frame h))
  · exact ansOk_ite (.next (memoryOk_flog (memoryOk_frame h))) <| .next <|
      memoryOk_ite (memoryOk_routeCycle (memoryOk_frame (memoryOk_frame h))) (memoryOk_frame (memoryOk_frame h))

theorem ansOk_execKeeperWake {k s} (h : MemoryOk s) : AnsOk (execKeeperWake k s) := ansOk_ite (.next (memoryOk_frame h)) (.next h)

theorem ansOk_execHostEventQueueHead {v head s} (h : MemoryOk s) : AnsOk (execHostEventQueueHead v head s) :=
  ansOk_gate h (ansOk_ite (.next h) (.next (memoryOk_ite (memoryOk_sendMsix (memoryOk_frame h)) (memoryOk_frame h))))

theorem ansOk_execHostEventQueueEnable {v value s} (h : MemoryOk s) : AnsOk (execHostEventQueueEnable v value s) :=
  ansOk_gate h <| ansOk_ite (.next (memoryOk_frame h)) <| ansOk_ite (.next (memoryOk_frame h)) <|
  ansOk_ite (.next (memoryOk_frame h)) (.next (memoryOk_hqErr (memoryOk_frame h)))

theorem ansOk_execEvrStatusCntClr {s} (h : MemoryOk s) : AnsOk (execEvrStatusCntClr s) := ansOk_gate h (.next (memoryOk_frame h))

/-! ### Scratch windows (Machine/Scratch) -/

theorem memoryOk_applyHandle {s t h isA v} (hs : MemoryOk s) : MemoryOk (applyHandle s t h isA v) :=
  memoryOk_ite (memoryOk_frame hs) <|
  memoryOk_ite (memoryOk_frame hs) (memoryOk_ite (memoryOk_clearFill (memoryOk_frame hs) _ _) (memoryOk_frame hs))

theorem memoryOk_writeHandle {s t h isA v} (hs : MemoryOk s) : MemoryOk (writeHandle s t h isA v) :=
  memoryOk_ite (memoryOk_frame hs) (memoryOk_applyHandle hs)

theorem ansOk_execHandleWrite {t h a s} (hs : MemoryOk s) : AnsOk (execHandleWrite t h a s) :=
  ansOk_gate hs (.next (memoryOk_writeHandle hs))

theorem ansOk_execHandleWriteRelease {t h s} (hs : MemoryOk s) : AnsOk (execHandleWriteRelease t h s) := by
  unfold execHandleWriteRelease
  split
  · exact .next hs
  · exact ansOk_ite (.next hs) (.next (memoryOk_applyHandle (memoryOk_frame hs)))

theorem memoryOk_writeWindow {s t w a} (h : MemoryOk s) : MemoryOk (writeWindow s t w a) :=
  memoryOk_ite (memoryOk_frame h) (memoryOk_frame h)

theorem ansOk_execWindowWrite {t w a s} (h : MemoryOk s) : AnsOk (execWindowWrite t w a s) :=
  ansOk_gate h (.next (memoryOk_writeWindow h))

theorem ansOk_execHbmWindowWrite {d w a s} (h : MemoryOk s) : AnsOk (execHbmWindowWrite d w a s) :=
  ansOk_gate h (ansOk_ite (.next (memoryOk_frame h)) (.next (memoryOk_frame h)))

theorem memoryOk_rejectAccess {s a} (h : MemoryOk s) : MemoryOk (rejectAccess s a) := by
  unfold rejectAccess
  split
  · exact memoryOk_frame h
  · split
    · exact memoryOk_frame h
    · extract_lets
      split
      · exact memoryOk_unitDone (memoryOk_chanFault (memoryOk_frame h))
      · exact memoryOk_chanFault (memoryOk_frame h)

theorem memoryOk_serveAccess {s k a} (h : MemoryOk s) : MemoryOk (serveAccess s k a) :=
  memoryOk_ite (memoryOk_storeClean h _ _) (memoryOk_frame (memoryOk_eccAt h))

theorem ansOk_execRemoteAccess {t a s} (h : MemoryOk s) : AnsOk (execRemoteAccess t a s) :=
  ansOk_ite
    (.next (memoryOk_ite (memoryOk_frame h) (memoryOk_serveAccess h)))
    (.next (memoryOk_rejectAccess (memoryOk_frame h)))

theorem ansOk_execHbmWindowAccess {d a s} (h : MemoryOk s) : AnsOk (execHbmWindowAccess d a s) :=
  ansOk_ite (.next (memoryOk_serveAccess h)) (.next (memoryOk_rejectAccess h))

theorem ansOk_execScrubDone {t s} (h : MemoryOk s) : AnsOk (execScrubDone t s) := by
  unfold execScrubDone
  extract_lets
  refine .next ?_
  refine memoryOk_foldl _ (fun _ _ hu => ?_) _ _ ?_
  · split
    · exact memoryOk_ite (memoryOk_finish hu) hu
    · exact hu
  · exact memoryOk_feedAll (memoryOk_foldl _ (fun _ _ => memoryOk_serveAccess) _ _ (memoryOk_frame h))

/-! ### Codec (Machine/Codec) -/

theorem ansOk_execCdcErrCntClr {d s} (h : MemoryOk s) : AnsOk (execCdcErrCntClr d s) := ansOk_gate h (.next (memoryOk_frame h))

/-! ### Frames on arcs (Machine/Frames) -/

theorem memoryOk_sendFrame {s d dir f} (h : MemoryOk s) : MemoryOk (sendFrame s d dir f) := memoryOk_frame (memoryOk_frame h)

theorem memoryOk_popFrame {s d dir} (h : MemoryOk s) : MemoryOk (popFrame s d dir) := by
  unfold popFrame
  split
  · exact memoryOk_frame (memoryOk_frame h)
  · exact h

theorem memoryOk_headFault {s d dir} (h : MemoryOk s) : MemoryOk (headFault s d dir) := memoryOk_headerFault (memoryOk_arcEvents h)

theorem memoryOk_reRequest {s d dir f} (h : MemoryOk s) : MemoryOk (reRequest s d dir f) :=
  memoryOk_arcEvents (memoryOk_frame (memoryOk_frame h))

theorem memoryOk_noteRun {s d dir f} (h : MemoryOk s) : MemoryOk (noteRun s d dir f) := memoryOk_ite (memoryOk_frame h) h

theorem memoryOk_storeWeight {s d dir f} (h : MemoryOk s) : MemoryOk (storeWeight s d dir f) :=
  memoryOk_ite (memoryOk_headFault h) <| memoryOk_ite (memoryOk_frame (memoryOk_noteRun h)) <|
  memoryOk_reRequest (memoryOk_frame (memoryOk_ite (memoryOk_frame (memoryOk_noteRun h)) (memoryOk_noteRun h)))

theorem memoryOk_sendBuoys {n s d dir} (h : MemoryOk s) : MemoryOk (sendBuoys n s d dir) := by
  induction n generalizing s with
  | zero => exact h
  | succ n ih =>
    unfold sendBuoys
    split
    · exact h
    · exact memoryOk_ite h (ih (memoryOk_frame (memoryOk_sendFrame (memoryOk_frame h))))

theorem memoryOk_flushBuoys {s d dir} (h : MemoryOk s) : MemoryOk (flushBuoys s d dir) := memoryOk_sendBuoys h

theorem memoryOk_storeBuoy {s d dir f} (h : MemoryOk s) : MemoryOk (storeBuoy s d dir f) :=
  memoryOk_ite (memoryOk_headFault h) <|
  memoryOk_ite (memoryOk_flushBuoys (memoryOk_frame (memoryOk_frame h))) (memoryOk_frame (memoryOk_frame h))

theorem memoryOk_acceptFrame {s d dir f} (h : MemoryOk s) : MemoryOk (acceptFrame s d dir f) :=
  memoryOk_ite
    (memoryOk_ite (memoryOk_storeWeight h) (memoryOk_storeBuoy h))
    (memoryOk_ite (memoryOk_frame h) (memoryOk_frame (memoryOk_frame h)))

theorem memoryOk_frameArrives {kind s d dir hx px} (h : MemoryOk s) : MemoryOk (frameArrives kind s d dir hx px) := by
  unfold frameArrives
  split
  · exact h
  · exact memoryOk_ite h <|
      memoryOk_ite (memoryOk_headFault (memoryOk_popFrame h)) (memoryOk_acceptFrame (memoryOk_popFrame h))

theorem memoryOk_takeHeld {s d dir} (h : MemoryOk s) : MemoryOk (takeHeld s d dir) :=
  memoryOk_foldl _ (fun _ _ hu => memoryOk_ite (memoryOk_acceptFrame hu) hu) _ _ (memoryOk_frame h)

/-! ### DMA engines (Machine/Dma) -/

theorem memoryOk_cacheReads {s e cache keys} (h : MemoryOk s) : MemoryOk (cacheReads s e cache keys) :=
  memoryOk_ite h (memoryOk_ite h (memoryOk_frame h))

theorem memoryOk_linkAccess {s w kind pay} (h : MemoryOk s) : MemoryOk (linkAccess s w kind pay) := by
  unfold linkAccess
  split
  · exact memoryOk_sendOn h
  · exact h

theorem memoryOk_putData {s p} (h : MemoryOk s) : MemoryOk (putData s p) := by
  unfold putData
  extract_lets
  split
  · exact memoryOk_ite (memoryOk_storeMod h _ _) (memoryOk_linkAccess h)
  · exact memoryOk_storeHandle h
  · split
    · exact memoryOk_hostWrite h _ _
    · exact h
  · exact memoryOk_hostWrite h _ _
  · exact h

theorem memoryOk_putNear {s e p} (h : MemoryOk s) : MemoryOk (putNear s e p) := memoryOk_ite h (memoryOk_putData h)

theorem memoryOk_putAll {s e l} (h : MemoryOk s) : MemoryOk (putAll s e l).1 := by
  induction l generalizing s with
  | nil => exact h
  | cons p r ih =>
    exact memoryOk_fst_ite h (memoryOk_fst_ite (memoryOk_putNear h) (ih (memoryOk_putNear h)))

theorem memoryOk_meetErrors {s e b m} (h : MemoryOk s) : MemoryOk (meetErrors s e b m) := memoryOk_eccNote h

theorem memoryOk_readEffects {s e b m} (h : MemoryOk s) : MemoryOk (readEffects s e b m) := by
  unfold readEffects
  extract_lets _ _ _ s1
  have hs1 : MemoryOk s1 := memoryOk_foldl _ (fun _ _ hu => memoryOk_frame (memoryOk_linkAccess hu)) _ _ <|
    memoryOk_cacheReads h
  exact memoryOk_ite hs1 (memoryOk_frame hs1)

theorem memoryOk_endDesc {s e ch d cause x} (h : MemoryOk s) : MemoryOk (endDesc s e ch d cause x) := by
  unfold endDesc
  extract_lets
  split
  · exact memoryOk_unitDone (memoryOk_chanFaultAs h)
  · exact memoryOk_chanFaultAs h

theorem memoryOk_countReject {s e x} (h : MemoryOk s) : MemoryOk (countReject s e x) := by
  unfold countReject
  refine memoryOk_ite h ?_
  split
  · exact memoryOk_frame (memoryOk_frame h)
  · exact memoryOk_frame h

theorem memoryOk_remoteReject {s e ch d at_} (h : MemoryOk s) : MemoryOk (remoteReject s e ch d at_) := by
  unfold remoteReject
  extract_lets hit
  refine memoryOk_endDesc ?_
  clear_value hit
  split
  · exact memoryOk_countReject h
  · exact h

theorem memoryOk_countPois {s e puts} (h : MemoryOk s) : MemoryOk (countPois s e puts) := memoryOk_ite h (memoryOk_frame h)

theorem memoryOk_crossAll {s e b keys puts} (h : MemoryOk s) : MemoryOk (crossAll s e b keys puts) :=
  memoryOk_foldl _ (fun _ _ => memoryOk_crossArcs) _ _ h

theorem memoryOk_movePort {s e ch d m} (h : MemoryOk s) : MemoryOk (movePort s e ch d m) := by
  unfold movePort
  extract_lets _ _ _ _ _ _ _ _ _ s1
  have hs1 : MemoryOk s1 := memoryOk_crossAll <|
    memoryOk_readEffects (memoryOk_frame (memoryOk_countPois (memoryOk_frame h)))
  refine memoryOk_ite (memoryOk_frame (memoryOk_countPois (memoryOk_frame h))) ?_
  split
  · exact memoryOk_endDesc hs1
  · exact hs1

theorem memoryOk_moveDesc {s e ch d} (h : MemoryOk s) : MemoryOk (moveDesc s e ch d) := by
  unfold moveDesc
  refine memoryOk_ite (memoryOk_frame h) ?_
  extract_lets _ _ _ _ _ s1
  have hs1 : MemoryOk s1 := memoryOk_countPois <|
    memoryOk_crossAll (memoryOk_frame (memoryOk_putAll (memoryOk_readEffects (memoryOk_meetErrors h))))
  refine memoryOk_ite ?_ ?_
  · exact memoryOk_ite (memoryOk_remoteReject (memoryOk_meetErrors h)) (memoryOk_movePort (memoryOk_meetErrors h))
  · refine memoryOk_ite (memoryOk_remoteReject hs1) ?_
    split
    · exact memoryOk_endDesc hs1
    · exact hs1

theorem memoryOk_afterWait {s e ch d} (h : MemoryOk s) : MemoryOk (afterWait s e ch d) :=
  memoryOk_ite (memoryOk_frame h) (memoryOk_moveDesc h)

theorem memoryOk_beginDesc {s e ch d bad} (h : MemoryOk s) : MemoryOk (beginDesc s e ch d bad) := by
  unfold beginDesc
  split
  · exact memoryOk_endDesc h
  · exact memoryOk_ite (memoryOk_frame (memoryOk_frame h)) (memoryOk_afterWait (memoryOk_frame h))

theorem ansOk_runDesc {opc e ch s} (h : MemoryOk s) : AnsOk (runDesc opc e ch s) := by
  unfold runDesc
  refine ansOk_ite (.next h) ?_
  split
  · refine ansOk_ite (.next h) ?_
    split
    · exact .next (memoryOk_afterWait h)
    · exact .next (memoryOk_moveDesc h)
    · exact .next h
  · exact ansOk_ite (.next (memoryOk_frame h)) <|
      ansOk_ite (.next (memoryOk_frame h)) (.next (memoryOk_feedAll (memoryOk_beginDesc (memoryOk_frame h))))

theorem memoryOk_answerProbe {s e ch d other} (h : MemoryOk s) : MemoryOk (answerProbe s e ch d other) := by
  unfold answerProbe
  extract_lets _ _ _ s1
  have hs1 : MemoryOk s1 := by
    unfold s1
    refine memoryOk_foldl _ (fun _ _ hu => ?_) _ _ h
    split
    · exact memoryOk_frame hu
    · exact hu
  exact memoryOk_ite (memoryOk_frame h) (memoryOk_endDesc (memoryOk_frame hs1))

theorem ansOk_execProbe {p s} (h : MemoryOk s) : AnsOk (execProbe p s) := by
  unfold execProbe
  split
  · split
    · exact .next (memoryOk_answerProbe h)
    · exact .next h
  · exact ansOk_ite (.next (memoryOk_frame h)) (.next (memoryOk_frame (memoryOk_frame h)))
  · exact .next (memoryOk_frame h)

theorem memoryOk_noteDesc {s e d} (h : MemoryOk s) : MemoryOk (noteDesc s e d) := by
  unfold noteDesc
  split
  · refine memoryOk_ite ?_ h
    split
    · exact memoryOk_fire (memoryOk_flog h)
    · exact h
  · extract_lets _ s1 s2
    have hs1 : MemoryOk s1 := memoryOk_ite (memoryOk_noteCond (memoryOk_updJob h)) (memoryOk_updJob h)
    have hs2 : MemoryOk s2 := memoryOk_ite (memoryOk_noteCond hs1) hs1
    exact memoryOk_ite (memoryOk_notePoison hs2) hs2

theorem ansOk_execDescriptorComplete {e ch s} (h : MemoryOk s) : AnsOk (execDescriptorComplete e ch s) := by
  unfold execDescriptorComplete
  split
  · exact .next h
  · refine ansOk_ite (.next h) ?_
    extract_lets _ _ _ s1 s2 s3
    have hs1 : MemoryOk s1 := memoryOk_noteDesc <|
      memoryOk_foldl _ (fun _ _ hu => memoryOk_clearFill hu _ _) _ _ (memoryOk_showFar (memoryOk_frame h))
    have hs2 : MemoryOk s2 := memoryOk_ite (memoryOk_frame hs1) hs1
    have hs3 : MemoryOk s3 := memoryOk_ite (memoryOk_fire hs2) hs2
    refine .next ?_
    split
    · exact memoryOk_unitDone hs3
    · exact hs3

theorem ansOk_execDmaChannelEnable {e ch en s} (h : MemoryOk s) : AnsOk (execDmaChannelEnable e ch en s) :=
  ansOk_gate h (.next (memoryOk_frame h))

theorem ansOk_execDmaChannelTail {e ch tail s} (h : MemoryOk s) : AnsOk (execDmaChannelTail e ch tail s) :=
  ansOk_gate h (ansOk_ite (.next (memoryOk_fire (memoryOk_frame h))) (.next (memoryOk_frame h)))

theorem ansOk_execDmaCountsCntClr {e s} (h : MemoryOk s) : AnsOk (execDmaCountsCntClr e s) :=
  ansOk_gate h (.next (memoryOk_frame h))

theorem ansOk_execDcEccCntClr {d s} (h : MemoryOk s) : AnsOk (execDcEccCntClr d s) := ansOk_gate h (.next (memoryOk_frame h))

theorem memoryOk_runDma {de ch j e s} (h : MemoryOk s) : MemoryOk (runDma de ch j e s) :=
  memoryOk_checkThen (fun hu => memoryOk_frame (memoryOk_setBody hu)) h

theorem ansOk_execDma {st de ch s} (h : MemoryOk s) : AnsOk (execDma st de ch s) := by
  unfold execDma
  split
  · exact .next h
  · exact ansOk_ite (.next h) (ansOk_startEntry memoryOk_runDma h)

/-! ### Kernels (Machine/Kernel) -/

theorem memoryOk_applyHandles {k m s d} (h : MemoryOk s) : MemoryOk (applyHandles k m s d) :=
  memoryOk_foldl _ (fun _ _ hu => memoryOk_writeHandle (memoryOk_writeHandle hu)) _ _ h

theorem memoryOk_applyWindows {k m s d} (h : MemoryOk s) : MemoryOk (applyWindows k m s d) :=
  memoryOk_foldl _ (fun _ _ hu => memoryOk_writeWindow (memoryOk_frame hu)) _ _ h

theorem memoryOk_applySems {k j m s d} (h : MemoryOk s) : MemoryOk (applySems k j m s d) :=
  memoryOk_foldl _ (fun _ _ => memoryOk_frame) _ _ h

theorem memoryOk_applyRuns {m s d} (h : MemoryOk s) : MemoryOk (applyRuns m s d) := memoryOk_ite h (memoryOk_frame h)

theorem memoryOk_copyArgs {e m s t lt} (h : MemoryOk s) : MemoryOk (copyArgs e m s t lt) := memoryOk_ite h (memoryOk_storeHandle h)

theorem memoryOk_copyAllArgs {e m k s} (h : MemoryOk s) : MemoryOk (copyAllArgs e m k s) :=
  memoryOk_foldl _ (fun _ _ hu => memoryOk_foldl _ (fun _ _ => memoryOk_copyArgs) _ _ hu) _ _ h

theorem memoryOk_applySections {j e m k s} (h : MemoryOk s) : MemoryOk (applySections j e m k s) :=
  memoryOk_updKernel <| memoryOk_copyAllArgs <|
  memoryOk_foldl _ (fun _ _ => memoryOk_applyRuns) _ _ <| memoryOk_foldl _ (fun _ _ => memoryOk_applySems) _ _ <|
  memoryOk_foldl _ (fun _ _ => memoryOk_applyWindows) _ _ (memoryOk_foldl _ (fun _ _ => memoryOk_applyHandles) _ _ h)

theorem memoryOk_startPersist {j e m k s} (h : MemoryOk s) : MemoryOk (startPersist j e m k s) :=
  memoryOk_frame <| memoryOk_updKernel <| memoryOk_ite
    (memoryOk_applySections (memoryOk_frame (memoryOk_setBody h)))
    (memoryOk_copyAllArgs (memoryOk_setBody h))

theorem memoryOk_startRelease {j m k s} (h : MemoryOk s) : MemoryOk (startRelease j m k s) := memoryOk_frame (memoryOk_setBody h)

theorem memoryOk_startKernel {j e m s} (h : MemoryOk s) : MemoryOk (startKernel j e m s) :=
  memoryOk_unitDone <| memoryOk_feedAll <| memoryOk_handCtxs <| memoryOk_ite (memoryOk_startPersist h) <|
  memoryOk_ite (memoryOk_startRelease h) (memoryOk_applySections (memoryOk_setBody h))

theorem memoryOk_noteKernel {j e s} (h : MemoryOk s) : MemoryOk (noteKernel j e s) := memoryOk_updJob h

theorem memoryOk_runCompiled {j e s} (h : MemoryOk s) : MemoryOk (runCompiled j e s) :=
  memoryOk_checkThen (fun hu => memoryOk_startKernel (memoryOk_noteKernel hu)) h

/-! ### The twin mirror (Machine/Mirror) -/

theorem memoryOk_putRec {s ra off b} (h : MemoryOk s) : MemoryOk (putRec s ra off b) := memoryOk_writeWord h

theorem memoryOk_noteModel {s j slot g program input layers} (h : MemoryOk s) :
    MemoryOk (noteModel s j slot g program input layers) :=
  memoryOk_updJob h

theorem memoryOk_notePass {s j outs pois mode} (h : MemoryOk s) : MemoryOk (notePass s j outs pois mode) := memoryOk_updJob h

theorem memoryOk_mirrorLog {s e ra} (h : MemoryOk s) : MemoryOk (mirrorLog s e ra) :=
  memoryOk_ite (memoryOk_frame (memoryOk_sendTwin h)) h

theorem memoryOk_sendCkpt {s q} (h : MemoryOk s) : MemoryOk (sendCkpt s q) := memoryOk_frame (memoryOk_sendTwin h)

theorem memoryOk_ckptAtCommit {s q c} (h : MemoryOk s) : MemoryOk (ckptAtCommit s q c) := memoryOk_ite (memoryOk_sendCkpt h) h

theorem memoryOk_holdForTwin {s w} (h : MemoryOk s) : MemoryOk (holdForTwin s w) := by
  unfold holdForTwin
  extract_lets s1
  have hs1 : MemoryOk s1 := by
    unfold s1
    split
    · exact memoryOk_sendCkpt h
    · exact h
  exact memoryOk_ite (memoryOk_releaseWait hs1) (memoryOk_frame hs1)

theorem memoryOk_finishModel {s j ra x result} (h : MemoryOk s) : MemoryOk (finishModel s j ra x result) :=
  memoryOk_ite (memoryOk_holdForTwin h) (memoryOk_finish h)

theorem memoryOk_interimModel {s j ra result} (h : MemoryOk s) : MemoryOk (interimModel s j ra result) :=
  memoryOk_ite (memoryOk_holdForTwin h) (memoryOk_releaseWait h)

/-! ### Prefill and admission (Machine/Prefill) -/

theorem memoryOk_runPrefill {j e s} (h : MemoryOk s) : MemoryOk (runPrefill j e s) :=
  memoryOk_checkThen (fun hu => memoryOk_frame (memoryOk_mirrorLog (memoryOk_setBody (memoryOk_noteModel hu)))) h

theorem memoryOk_tryRelease {s j ra} (h : MemoryOk s) : MemoryOk (tryRelease s j ra) := by
  unfold tryRelease
  refine memoryOk_ite h ?_
  split
  · exact memoryOk_finish h
  · exact memoryOk_ite h <|
      memoryOk_finishModel (memoryOk_putRec (memoryOk_dropSeq (memoryOk_ite (memoryOk_sendCkpt h) h)))

theorem memoryOk_runRelease {j e s} (h : MemoryOk s) : MemoryOk (runRelease j e s) := by
  unfold runRelease
  refine memoryOk_checkThen (fun hu => ?_) h
  extract_lets s1 s2
  have hs1 : MemoryOk s1 := by
    unfold s1
    split
    · exact memoryOk_updJob (memoryOk_noteModel hu)
    · exact hu
  have hs2 : MemoryOk s2 := memoryOk_setBody hs1
  exact memoryOk_tryRelease (memoryOk_ite (memoryOk_mirrorLog hs2) hs2)

theorem memoryOk_releasesDue {s} (h : MemoryOk s) : MemoryOk (releasesDue s) := by
  unfold releasesDue
  refine memoryOk_foldl _ (fun _ _ hu => ?_) _ _ h
  split
  · exact memoryOk_tryRelease hu
  · exact hu

theorem memoryOk_runKernel {j e s} (h : MemoryOk s) : MemoryOk (runKernel j e s) := by
  unfold runKernel
  split
  · exact memoryOk_runCompiled h
  · exact memoryOk_runPrefill h
  · exact memoryOk_runRelease h
  · exact memoryOk_finish h

theorem ansOk_execKernel {st s} (h : MemoryOk s) : AnsOk (execKernel st s) := by
  unfold execKernel
  split
  · exact ansOk_ite (.next h) (ansOk_ite (.next h) (ansOk_startEntry memoryOk_runKernel h))
  · exact .next h

theorem someOk_allocAll {m slot mode home n l s} (h : MemoryOk s) : SomeOk (·.2) (allocAll m slot mode home n l s) := by
  induction l generalizing s with
  | nil => exact someOk_some h
  | cons d r ih =>
    unfold allocAll
    split
    · exact someOk_none
    · next e => exact someOk_map Prod.snd (fun _ hp => hp) (ih (someOk_allocSeqDie h _ e))

theorem memoryOk_admitHead {s slot a} (h : MemoryOk s) : MemoryOk (admitHead s slot a) := by
  unfold admitHead
  extract_lets pop
  have hpop : MemoryOk pop := memoryOk_frame h
  split
  · exact memoryOk_finish hpop
  · split
    · exact h
    · next e => exact memoryOk_frame (memoryOk_frame (memoryOk_updJob (someOk_allocAll hpop _ e)))

theorem ansOk_execAdmission {slot s} (h : MemoryOk s) : AnsOk (execAdmission slot s) := by
  unfold execAdmission
  split
  · exact .next h
  · exact ansOk_ite (.next h) (.next (memoryOk_admitHead h))

theorem memoryOk_fillDie {m q lo hi pois s d} (h : MemoryOk s) : MemoryOk (fillDie m q lo hi pois s d) := by
  unfold fillDie
  extract_lets
  refine memoryOk_foldl _ (fun _ _ hu => ?_) _ _ h
  refine memoryOk_foldl _ (fun _ _ hv => ?_) _ _ hu
  refine memoryOk_foldl _ (fun _ _ hw2 => ?_) _ _ hv
  split
  · exact memoryOk_freeEntry hw2
  · exact hw2

theorem memoryOk_fillSeq {s q lo hi pois} (h : MemoryOk s) : MemoryOk (fillSeq s q lo hi pois) :=
  memoryOk_foldl _ (fun _ _ => memoryOk_fillDie) _ _ h

theorem memoryOk_tokenBoundary {s j ra} (h : MemoryOk s) : MemoryOk (tokenBoundary s j ra) := by
  unfold tokenBoundary
  split
  · exact h
  · split
    · exact h
    · exact memoryOk_updJob (memoryOk_frame (memoryOk_dropRef (memoryOk_frame h)))

theorem memoryOk_prefillWords {s q n tok} (h : MemoryOk s) : MemoryOk (prefillWords s q n tok) :=
  memoryOk_putRec (memoryOk_putRec h)

theorem memoryOk_commitPrefill {s j q n row outs} (h : MemoryOk s) : MemoryOk (commitPrefill s j q n row outs) := by
  unfold commitPrefill
  extract_lets _ _ _ _ _ _ s1 s2 s3
  have hs1 : MemoryOk s1 := memoryOk_notePass <|
    memoryOk_frame (memoryOk_frame (memoryOk_prefillWords (memoryOk_fillSeq h)))
  have hs2 : MemoryOk s2 := memoryOk_ite (memoryOk_notePoison hs1) hs1
  have hs3 : MemoryOk s3 := by
    unfold s3
    split
    · exact memoryOk_ckptAtCommit hs2
    · exact hs2
  exact memoryOk_finishModel (memoryOk_tokenBoundary hs3)

theorem ansOk_execPrefillCommit {ra row outs s} (h : MemoryOk s) : AnsOk (execPrefillCommit ra row outs s) := by
  unfold execPrefillCommit
  split
  · exact ansOk_ite (.next (memoryOk_commitPrefill h)) (.next h)
  · exact .next h

/-! ### Decode loops and commits (Machine/Loop) -/

theorem memoryOk_startDecode {j e s} (h : MemoryOk s) : MemoryOk (startDecode j e s) := by
  unfold startDecode
  extract_lets
  split
  · exact memoryOk_finish h
  · exact memoryOk_frame <| memoryOk_frame <|
      memoryOk_updJob (memoryOk_mirrorLog (memoryOk_setBody (memoryOk_noteModel (memoryOk_putRec h))))

theorem memoryOk_runDecode {j e s} (h : MemoryOk s) : MemoryOk (runDecode j e s) := memoryOk_checkThen memoryOk_startDecode h

theorem ansOk_execDecodeLoop {st s} (h : MemoryOk s) : AnsOk (execDecodeLoop st s) := ansOk_startEntry memoryOk_runDecode h

theorem memoryOk_endLoop {s l q n} (h : MemoryOk s) : MemoryOk (endLoop s l q n) := by
  unfold endLoop
  extract_lets _ _ s1
  have hs1 : MemoryOk s1 := memoryOk_ite (memoryOk_noteCond (memoryOk_putRec (memoryOk_frame h))) <|
    memoryOk_putRec (memoryOk_frame h)
  exact memoryOk_finishModel (memoryOk_frame (memoryOk_ite (memoryOk_noteCond hs1) hs1))

theorem memoryOk_loopsDue {s} (h : MemoryOk s) : MemoryOk (loopsDue s) := by
  unfold loopsDue
  refine memoryOk_foldl _ (fun _ _ hu => ?_) _ _ h
  split
  · split
    · exact memoryOk_endLoop hu
    · exact hu
  · exact hu

theorem memoryOk_treeEntries {m q n s d} (h : MemoryOk s) : MemoryOk (treeEntries m q n s d) :=
  memoryOk_foldl _
    (fun _ _ hu => memoryOk_foldl _ (fun _ _ hv => memoryOk_foldl _ (fun _ _ => memoryOk_freeEntry) _ _ hv) _ _ hu) _ _
    h

theorem memoryOk_writeMask {s m q rows} (h : MemoryOk s) : MemoryOk (writeMask s m q rows) :=
  memoryOk_foldl _ (fun _ _ hu => memoryOk_storeClean hu _ _) _ _ h

theorem memoryOk_beginVerify {s l q drafts} (h : MemoryOk s) : MemoryOk (beginVerify s l q drafts) :=
  memoryOk_ite (memoryOk_eccWord h) <| memoryOk_ite (memoryOk_finishModel (memoryOk_frame (memoryOk_eccWord h))) <|
  memoryOk_frame (memoryOk_foldl _ (fun _ _ => memoryOk_treeEntries) _ _ (memoryOk_writeMask (memoryOk_eccWord h)))

theorem ansOk_execVerifyPass {ra drafts s} (h : MemoryOk s) : AnsOk (execVerifyPass ra drafts s) := by
  unfold execVerifyPass
  refine ansOk_ite ?_ (.next h)
  split
  · exact ansOk_ite (.next h) (.next (memoryOk_beginVerify h))
  · exact .next h

theorem someOk_commitAll {m slot c path l s} (h : MemoryOk s) : SomeOk (·.2) (commitAll m slot c path l s) := by
  induction l generalizing s with
  | nil => exact someOk_some h
  | cons d r ih =>
    unfold commitAll
    split
    · exact someOk_none
    · next e => exact someOk_map Prod.snd (fun _ hp => hp) (ih (someOk_commitDie h _ e))

theorem memoryOk_commitWords {s q r es} (h : MemoryOk s) : MemoryOk (commitWords s q r es) :=
  memoryOk_putRec <|
  memoryOk_putRec (memoryOk_putRec (memoryOk_putRec (memoryOk_foldl _ (fun _ _ => memoryOk_writeWord) _ _ h)))

theorem memoryOk_interimDue {s ra} (h : MemoryOk s) : MemoryOk (interimDue s ra) := by
  unfold interimDue
  split
  · exact h
  · exact memoryOk_ite (memoryOk_frame (memoryOk_interimModel h)) h

theorem memoryOk_noteCommit {s m c q} (h : MemoryOk s) : MemoryOk (noteCommit s m c q) :=
  memoryOk_foldl _
    (fun _ _ hu =>
      memoryOk_foldl _ (fun _ _ => memoryOk_eccAt) _ _ (memoryOk_foldl _ (fun _ _ => memoryOk_eccAt) _ _ hu)) _ _
    h

theorem memoryOk_commitVerify {s l q rows outs} (h : MemoryOk s) : MemoryOk (commitVerify s l q rows outs) := by
  unfold commitVerify
  extract_lets s1
  have hs1 : MemoryOk s1 := memoryOk_eccWord h
  split
  · exact hs1
  · next e =>
    have hc := someOk_commitAll (memoryOk_noteCommit hs1) _ e
    refine memoryOk_interimDue <| memoryOk_tokenBoundary <| memoryOk_ckptAtCommit <| memoryOk_notePass ?_
    split
    · exact memoryOk_updJob (memoryOk_frame (memoryOk_commitWords (memoryOk_frame hc)))
    · exact memoryOk_frame (memoryOk_commitWords (memoryOk_frame hc))

theorem ansOk_execVerifyPassCommit {ra rows outs s} (h : MemoryOk s) : AnsOk (execVerifyPassCommit ra rows outs s) := by
  unfold execVerifyPassCommit
  split
  · exact ansOk_ite (.next (memoryOk_commitVerify h)) (.next h)
  · exact .next h

/-! ### Power steps (Machine/Power) -/

theorem memoryOk_giveReturned {s l n} (h : MemoryOk s) : MemoryOk (giveReturned s l n) := by
  induction l generalizing s n with
  | nil => exact h
  | cons d r ih => exact memoryOk_ite (ih h) (ih (memoryOk_frame h))

theorem ansOk_execGrantInterval {reserveDraw slack s} (h : MemoryOk s) : AnsOk (execGrantInterval reserveDraw slack s) :=
  ansOk_ite (.next h) <|
  .next (memoryOk_frame (memoryOk_giveReturned (memoryOk_frame (memoryOk_foldl _ (fun _ _ => memoryOk_frame) _ _ h))))

theorem ansOk_execDrawSample {d draw s} (h : MemoryOk s) : AnsOk (execDrawSample d draw s) :=
  ansOk_ite (.next (memoryOk_frame h)) (.next h)

theorem memoryOk_lendTo {s d amount bs} (h : MemoryOk s) : MemoryOk (lendTo s d amount bs) :=
  memoryOk_foldl _ (fun _ _ => memoryOk_frame) _ _ h

theorem ansOk_execLoan {d predictedUs s} (h : MemoryOk s) : AnsOk (execLoan d predictedUs s) :=
  ansOk_ite (.next (memoryOk_frame (memoryOk_frame (memoryOk_lendTo (memoryOk_frame h))))) (.next h)

theorem ansOk_execLoanRecall {d s} (h : MemoryOk s) : AnsOk (execLoanRecall d s) :=
  .next (memoryOk_freeLender (memoryOk_recallLoan h))

theorem memoryOk_stepTo {s n} (h : MemoryOk s) : MemoryOk (stepTo s n) := memoryOk_fire (memoryOk_frame h)

theorem memoryOk_lower {s n} (h : MemoryOk s) : MemoryOk (lower s n) :=
  memoryOk_ite h (memoryOk_ite (memoryOk_frame h) (memoryOk_stepTo h))

theorem memoryOk_capLim {s} (h : MemoryOk s) : MemoryOk (capLim s) := memoryOk_fire (memoryOk_frame h)

theorem memoryOk_thermLim {s} (h : MemoryOk s) : MemoryOk (thermLim s) := memoryOk_fire (memoryOk_frame h)

theorem memoryOk_lowerHot {s n} (h : MemoryOk s) : MemoryOk (lowerHot s n) :=
  memoryOk_ite (memoryOk_fire (memoryOk_lower h)) (memoryOk_lower h)

theorem memoryOk_lowerStep {s hot f} (h : MemoryOk s) (hf : ∀ {u a}, MemoryOk u → MemoryOk (f u a)) :
    MemoryOk (lowerStep s hot f) :=
  memoryOk_ite (memoryOk_frame h) (memoryOk_frame (hf h))

theorem ansOk_execCclkStepDown {d s} (h : MemoryOk s) : AnsOk (execCclkStepDown d s) :=
  ansOk_ite (.next h) <|
  ansOk_ite (.next (memoryOk_capLim h)) (.next (memoryOk_lowerStep (memoryOk_capLim h) memoryOk_lower))

theorem ansOk_execCclkStepUp {s} (h : MemoryOk s) : AnsOk (execCclkStepUp s) :=
  ansOk_ite (.next (memoryOk_fire (memoryOk_frame h))) (.next h)

theorem ansOk_execJunctionHot {d tj s} (h : MemoryOk s) : AnsOk (execJunctionHot d tj s) :=
  ansOk_ite (.next (memoryOk_thermLim (memoryOk_frame (memoryOk_frame h)))) (.next (memoryOk_frame h))

theorem ansOk_execJunctionHotHold {d s} (h : MemoryOk s) : AnsOk (execJunctionHotHold d s) :=
  ansOk_ite (.next (memoryOk_lowerStep (memoryOk_thermLim h) memoryOk_lowerHot)) (.next h)

theorem ansOk_execJunctionCritical {d tj s} (h : MemoryOk s) : AnsOk (execJunctionCritical d tj s) :=
  ansOk_ite (.next (memoryOk_lowerHot (memoryOk_thermLim (memoryOk_frame h)))) (.next (memoryOk_frame h))

theorem ansOk_execCoolantInletHigh {tenths s} (h : MemoryOk s) : AnsOk (execCoolantInletHigh tenths s) := by
  unfold execCoolantInletHigh
  extract_lets s1
  have hs1 : MemoryOk s1 := memoryOk_frame (memoryOk_frame (memoryOk_frame h))
  exact ansOk_ite (.next (memoryOk_fire (memoryOk_frame hs1))) (.next hs1)

theorem memoryOk_applyClock {s c} (h : MemoryOk s) : MemoryOk (applyClock s c) := by
  unfold applyClock
  extract_lets _ _ _ s1
  have hs1 : MemoryOk s1 := memoryOk_frame (memoryOk_ite (memoryOk_freeLenders (memoryOk_recallAll h)) h)
  exact memoryOk_finish (memoryOk_ite (memoryOk_fire hs1) hs1)

theorem memoryOk_clockBoundary {s} (h : MemoryOk s) : MemoryOk (clockBoundary s) := by
  unfold clockBoundary
  extract_lets _ _ s1 s2
  have hs1 : MemoryOk s1 := by
    unfold s1
    split
    · exact memoryOk_ite (memoryOk_fire (memoryOk_frame (memoryOk_stepTo (memoryOk_frame h)))) (memoryOk_frame h)
    · exact h
  have hs2 : MemoryOk s2 := memoryOk_foldl _ (fun _ _ => memoryOk_applyClock) _ _ (memoryOk_frame hs1)
  exact memoryOk_ite (memoryOk_frame hs2) hs2

theorem memoryOk_runPowerPolicy {j e s} (h : MemoryOk s) : MemoryOk (runPowerPolicy j e s) := by
  unfold runPowerPolicy
  extract_lets
  refine memoryOk_checkThen (fun hu => ?_) h
  extract_lets s1 s2
  have hs1 : MemoryOk s1 := memoryOk_freeLenders (memoryOk_recallAll hu)
  have hs2 : MemoryOk s2 := memoryOk_frame (memoryOk_frame (memoryOk_frame hs1))
  exact memoryOk_finish hs2

theorem ansOk_execPowerPolicy {st s} (h : MemoryOk s) : AnsOk (execPowerPolicy st s) := ansOk_startEntry memoryOk_runPowerPolicy h

theorem memoryOk_runClockPin {j e s} (h : MemoryOk s) : MemoryOk (runClockPin j e s) :=
  memoryOk_checkThen (fun hu => memoryOk_frame (memoryOk_setBody hu)) h

theorem ansOk_execClockPin {st s} (h : MemoryOk s) : AnsOk (execClockPin st s) := ansOk_startEntry memoryOk_runClockPin h

theorem memoryOk_runTimeTag {j e s} (h : MemoryOk s) : MemoryOk (runTimeTag j e s) := memoryOk_finish (memoryOk_frame h)

theorem ansOk_execTimeTag {st s} (h : MemoryOk s) : AnsOk (execTimeTag st s) := ansOk_startEntry memoryOk_runTimeTag h

theorem ansOk_execPwrCountsCntClr {s} (h : MemoryOk s) : AnsOk (execPwrCountsCntClr s) := ansOk_gate h (.next (memoryOk_frame h))

/-! ### Passes (Machine/Passes) -/

theorem memoryOk_advancePrefill {s ra} (h : MemoryOk s) : MemoryOk (advancePrefill s ra) := by
  unfold advancePrefill
  split
  · exact memoryOk_ite (memoryOk_frame (memoryOk_fillSeq h)) h
  · exact h

theorem memoryOk_activateRows {s} (h : MemoryOk s) : MemoryOk (activateRows s) :=
  ⟨h.1, h.2.1, h.2.2.1, h.2.2.2.1, Tbl.wf_filter _ h.2.2.2.2⟩

theorem memoryOk_endPass {s} (h : MemoryOk s) : MemoryOk (endPass s) := by
  unfold endPass
  refine memoryOk_ite ?_ (memoryOk_frame h)
  extract_lets _ s1
  have hs1 : MemoryOk s1 := by
    unfold s1
    split
    · exact memoryOk_advancePrefill (memoryOk_frame h)
    · exact memoryOk_frame h
  exact memoryOk_frame (memoryOk_frame (memoryOk_frame (memoryOk_stopPass hs1)))

theorem memoryOk_serve {s slot g policy} (h : MemoryOk s) : MemoryOk (serve s slot g policy) := by
  unfold serve
  extract_lets former _ _ s1
  have hs1 : MemoryOk s1 := memoryOk_frame (memoryOk_frame (memoryOk_frame h))
  clear_value former
  split
  · exact memoryOk_dropRef hs1
  · exact hs1

theorem memoryOk_applySwitch {slot s w} (h : MemoryOk s) : MemoryOk (applySwitch slot s w) :=
  memoryOk_ite (memoryOk_finish h) <|
  memoryOk_ite (memoryOk_finish h) (memoryOk_ite (memoryOk_finish h) (memoryOk_finish (memoryOk_serve h)))

theorem memoryOk_slotSwitches {s slot} (h : MemoryOk s) : MemoryOk (slotSwitches s slot) :=
  memoryOk_foldl _ (fun _ _ => memoryOk_applySwitch) _ _ (memoryOk_frame h)

theorem memoryOk_switchesDue {s} (h : MemoryOk s) : MemoryOk (switchesDue s) :=
  memoryOk_foldl _ (fun _ _ => memoryOk_slotSwitches) _ _ h

theorem memoryOk_runWsetSwitch {j e s} (h : MemoryOk s) : MemoryOk (runWsetSwitch j e s) :=
  memoryOk_checkThen (fun hu => memoryOk_ite (memoryOk_finish hu) (memoryOk_frame (memoryOk_setBody hu))) h

theorem ansOk_execWsetSwitch {st s} (h : MemoryOk s) : AnsOk (execWsetSwitch st s) := ansOk_startEntry memoryOk_runWsetSwitch h

theorem memoryOk_spillBlock {d s b} (h : MemoryOk s) : MemoryOk (spillBlock d s b) :=
  memoryOk_storeMod (memoryOk_frame (memoryOk_eccAt h)) _ _

theorem memoryOk_setStage {s n d} (h : MemoryOk s) : MemoryOk (setStage s n d) := by
  have hs : MemoryOk (if n < (s.dies.get d).stageWays then (liveStaging s n d).foldl (spillBlock d) s else s) :=
    memoryOk_ite (memoryOk_foldl _ (fun _ _ => memoryOk_spillBlock) _ _ h) h
  obtain ⟨hhost, hmod, hpois, hfill, hecc⟩ := hs
  exact memoryOk_setWays ⟨hhost, Tbl.wf_clear hmod _ _, Tbl.wf_clear hpois _ _, hfill, Tbl.wf_clear hecc _ _⟩

theorem memoryOk_stageDue {s} (h : MemoryOk s) : MemoryOk (stageDue s) := by
  unfold stageDue
  split
  · exact h
  · exact memoryOk_finish (memoryOk_foldl _ (fun _ _ => memoryOk_setStage) _ _ (memoryOk_frame h))

theorem memoryOk_exclusively {j run s} (hrun : ∀ {u}, MemoryOk u → MemoryOk (run u)) (h : MemoryOk s) :
    MemoryOk (exclusively j run s) :=
  memoryOk_ite (memoryOk_finish h) (hrun h)

theorem memoryOk_runRingConfig {j e s} (h : MemoryOk s) : MemoryOk (runRingConfig j e s) :=
  memoryOk_checkThen
    (fun hu =>
      memoryOk_ite (memoryOk_finish (memoryOk_writeWord hu)) <|
      memoryOk_exclusively (fun hv => memoryOk_frame (memoryOk_setBody hv)) hu)
    h

theorem ansOk_execRingConfig {st s} (h : MemoryOk s) : AnsOk (execRingConfig st s) := ansOk_startEntry memoryOk_runRingConfig h

theorem memoryOk_startDies {s turn} (h : MemoryOk s) : MemoryOk (startDies s turn) := by
  unfold startDies
  extract_lets _ _ s1
  have hs1 : MemoryOk s1 := memoryOk_foldl _ (fun _ _ => memoryOk_frame) _ _ h
  exact memoryOk_ite (memoryOk_foldl _ (fun _ _ hu => memoryOk_takeHeld (memoryOk_takeHeld hu)) _ _ hs1) hs1

theorem someOk_takeScore {s} (h : MemoryOk s) : SomeOk (fun t => t) (takeScore s) := by
  refine someOk_foldl_bind (fun t => t) (fun d t ht => ?_) _ (someOk_some h)
  exact someOk_ite (someOk_some ht) (someOk_map (fun _ => t) (fun _ _ => memoryOk_frame ht) fun _ _ => ht)

theorem memoryOk_launch {s c} (h : MemoryOk s) : MemoryOk (launch s c) := by
  unfold launch
  refine memoryOk_ite ?_ (memoryOk_startDies (memoryOk_frame h))
  split
  · next e => exact memoryOk_startDies (memoryOk_frame (memoryOk_takePassRef (someOk_takeScore (memoryOk_frame h) _ e)))
  · exact h

theorem memoryOk_launchNext {s} (h : MemoryOk s) : MemoryOk (launchNext s) := by
  unfold launchNext
  refine memoryOk_ite h ?_
  split
  · exact h
  · exact memoryOk_launch h
  · exact memoryOk_launch (memoryOk_frame h)

theorem memoryOk_proposeWaiting {s} (h : MemoryOk s) : MemoryOk (proposeWaiting s) := memoryOk_ite (memoryOk_frame h) h

theorem memoryOk_boundaryWork {s} (h : MemoryOk s) : MemoryOk (boundaryWork s) :=
  memoryOk_ite
    (memoryOk_launchNext <|
    memoryOk_releasesDue (memoryOk_loopsDue (memoryOk_clockBoundary (memoryOk_stageDue (memoryOk_switchesDue h)))))
    h

theorem ansOk_execPassBoundary {s} (h : MemoryOk s) : AnsOk (execPassBoundary s) :=
  ansOk_ite (.next h) <| .next <| memoryOk_boundaryWork <| memoryOk_proposeWaiting <|
  memoryOk_endAbort (memoryOk_endCommit (memoryOk_seatAll (memoryOk_activateRows (memoryOk_endPass h))))

/-! ### Audits (Machine/Audit) -/

theorem memoryOk_auditFailed {s x} (h : MemoryOk s) : MemoryOk (auditFailed s x) := by
  unfold auditFailed
  extract_lets
  split
  · exact memoryOk_quarantine (memoryOk_frame (memoryOk_flog h))
  · exact memoryOk_frame (memoryOk_frame (memoryOk_flog h))
  · exact memoryOk_frame (memoryOk_flog h)

theorem ansOk_execAuditRequest {s} (h : MemoryOk s) : AnsOk (execAuditRequest s) := ansOk_gate h (.next (memoryOk_frame h))

theorem ansOk_execConservationAudit {s} (h : MemoryOk s) : AnsOk (execConservationAudit s) :=
  ansOk_ite
    (.next (memoryOk_fire (memoryOk_frame (memoryOk_foldl _ (fun _ _ => memoryOk_auditFailed) _ _ h))))
    (.next h)

/-! ### The governor (Machine/Governor) -/

theorem ansOk_execGovernorEvaluation {slot m s} (h : MemoryOk s) : AnsOk (execGovernorEvaluation slot m s) := by
  unfold execGovernorEvaluation
  extract_lets
  refine ansOk_ite (.next h) ?_
  refine .next ?_
  split
  · exact memoryOk_frame (memoryOk_frame (memoryOk_frame h))
  · exact memoryOk_frame h

/-! ### Epoch changes (Machine/Epoch) -/

theorem memoryOk_runModeRequest {j e s} (h : MemoryOk s) : MemoryOk (runModeRequest j e s) :=
  memoryOk_checkThen
    (fun hu => memoryOk_ite (memoryOk_finish (memoryOk_frame hu)) (memoryOk_frame (memoryOk_setBody hu)))
    h

theorem ansOk_execModeRequest {st s} (h : MemoryOk s) : AnsOk (execModeRequest st s) := ansOk_startEntry memoryOk_runModeRequest h

theorem ansOk_execPropose {d n canHold s} (h : MemoryOk s) : AnsOk (execPropose d n canHold s) :=
  ansOk_ite (ansOk_ite (.next (memoryOk_frame h)) (.next (memoryOk_frame h))) (.next h)

theorem memoryOk_decide_ {s} (h : MemoryOk s) : MemoryOk (decide_ s) := by
  unfold decide_
  split
  · exact memoryOk_frame h
  · exact memoryOk_foldl _ (fun _ _ => memoryOk_auditFailed) _ _ (memoryOk_abortEpoch (memoryOk_frame h))

theorem ansOk_execPrepared {d s} (h : MemoryOk s) : AnsOk (execPrepared d s) :=
  ansOk_ite
    (ansOk_ite
      (ansOk_ite (.next h) (.next (memoryOk_decide_ (memoryOk_endPass (memoryOk_frame h)))))
      (.next (memoryOk_frame h)))
    (.next h)

theorem ansOk_execRefused {d s} (h : MemoryOk s) : AnsOk (execRefused d s) := ansOk_ite (.next (memoryOk_abortEpoch h)) (.next h)

theorem ansOk_execPreparedDeadline {s} (h : MemoryOk s) : AnsOk (execPreparedDeadline s) :=
  ansOk_ite (.next (memoryOk_abortEpoch h)) (.next h)

theorem memoryOk_takeConfig {s d} (h : MemoryOk s) : MemoryOk (takeConfig s d) := memoryOk_frame (memoryOk_setSweepWays h)

theorem ansOk_execCommit {d n s} (h : MemoryOk s) : AnsOk (execCommit d n s) := ansOk_ite (.next (memoryOk_takeConfig h)) (.next h)

theorem ansOk_execCommitted {d s} (h : MemoryOk s) : AnsOk (execCommitted d s) :=
  ansOk_ite (.next (memoryOk_endCommit (memoryOk_frame h))) (.next h)

theorem ansOk_execAbort {d n s} (h : MemoryOk s) : AnsOk (execAbort d n s) :=
  ansOk_ite (.next (memoryOk_frame (memoryOk_frame h))) (ansOk_ite (.next (memoryOk_frame h)) (.next h))

theorem ansOk_execReverted {d s} (h : MemoryOk s) : AnsOk (execReverted d s) :=
  ansOk_ite (.next (memoryOk_endAbort (memoryOk_frame h))) (.next h)

theorem memoryOk_lateDie {s d} (h : MemoryOk s) : MemoryOk (lateDie s d) :=
  memoryOk_endCommit (memoryOk_endAbort (memoryOk_frame (memoryOk_retireDie h)))

theorem ansOk_execCommittedDeadline {d s} (h : MemoryOk s) : AnsOk (execCommittedDeadline d s) :=
  ansOk_ite (.next (memoryOk_lateDie h)) (.next h)

theorem ansOk_execRevertedDeadline {d s} (h : MemoryOk s) : AnsOk (execRevertedDeadline d s) :=
  ansOk_ite (.next (memoryOk_lateDie h)) (.next h)

theorem someOk_fetchPage {m slot e d a s} (h : MemoryOk s) : SomeOk (·.2) (fetchPage m slot e d a s) :=
  someOk_map (fun _ => s) (fun _ hs => memoryOk_crossArcs (memoryOk_copyPage (memoryOk_frame (memoryOk_eccAt hs)))) fun _ _ => h

theorem someOk_moveDrafts {m old d q s} (h : MemoryOk s) : SomeOk (·.2) (moveDrafts m old d q s) := by
  refine someOk_ite (someOk_some h) (someOk_map Prod.snd (fun _ hr => hr) ?_)
  refine someOk_foldl_bind Prod.snd (fun n r hr => ?_) _ (someOk_some h)
  dsimp only
  split
  · exact someOk_some hr
  · exact someOk_ite (someOk_some hr) (someOk_map Prod.snd (fun _ hp => hp) (someOk_fetchPage hr))

theorem someOk_movePte {m old d q g l k s} (h : MemoryOk s) : SomeOk (fun t => t) (movePte m old d q g l k s) := by
  unfold movePte
  extract_lets head i
  split
  · exact someOk_some h
  · next e _ =>
    extract_lets x v
    clear_value v
    refine someOk_ite (someOk_some ?_) (someOk_map Prod.snd (fun r hr => ?_) (someOk_fetchPage h))
    · exact memoryOk_writePte h
    · exact memoryOk_writePte hr

theorem someOk_movePtes {m old d q s} (h : MemoryOk s) : SomeOk (fun t => t) (movePtes m old d q s) :=
  someOk_foldl_bind (fun t => t) (fun _ _ => someOk_movePte) _ (someOk_some h)

theorem someOk_relayDie {m old groups mode d s} (h : MemoryOk s) : SomeOk (·.2) (relayDie m old groups mode d s) := by
  unfold relayDie
  refine someOk_ite (someOk_some h) ?_
  split
  · exact someOk_none
  · split
    · exact someOk_none
    · split
      · exact someOk_none
      · exact someOk_bind (fun t => t) (fun _ => someOk_moveDrafts) (someOk_movePtes (memoryOk_writeDir (memoryOk_frame h)))

theorem someOk_relayDies {m old groups mode l s} (h : MemoryOk s) : SomeOk (·.2) (relayDies m old groups mode l s) := by
  induction l generalizing s with
  | nil => exact someOk_some h
  | cons d r ih =>
    unfold relayDies
    split
    · exact someOk_none
    · next e => exact someOk_map Prod.snd (fun _ hp => hp) (ih (someOk_relayDie h _ e))

theorem memoryOk_freeOld {m old new pages s} (h : MemoryOk s) : MemoryOk (freeOld m old new pages s) :=
  memoryOk_foldl _ (fun _ _ => memoryOk_frame) _ _ h

theorem someOk_relaySeq {s q} (h : MemoryOk s) : SomeOk (fun t => t) (relaySeq s q) := by
  unfold relaySeq
  extract_lets m q groups held pages
  split
  · exact someOk_none
  · next e => exact someOk_some (memoryOk_frame (memoryOk_freeOld (someOk_relayDies h _ e)))

theorem someOk_relaySlot {s k} (h : MemoryOk s) : SomeOk (fun t => t) (relaySlot s k) :=
  someOk_foldl_bind (fun t => t) (fun _ _ => someOk_relaySeq) _ (someOk_some h)

theorem memoryOk_settledJobs {s k} (h : MemoryOk s) : MemoryOk (settledJobs s k) := by
  unfold settledJobs
  refine memoryOk_foldl _ (fun _ _ hu => ?_) _ _ h
  split
  · exact memoryOk_ite (memoryOk_finish hu) hu
  · exact hu

theorem ansOk_execSettleComplete {slot s} (h : MemoryOk s) : AnsOk (execSettleComplete slot s) := by
  unfold execSettleComplete
  refine ansOk_ite ?_ (.next h)
  split
  · next e => exact .next (memoryOk_settledJobs (memoryOk_frame (someOk_relaySlot h _ e)))
  · exact .next h

theorem ansOk_execHeartbeat {d s} (h : MemoryOk s) : AnsOk (execHeartbeat d s) := by
  unfold execHeartbeat
  split
  · exact .next h
  · exact .next h
  · exact .next (memoryOk_frame h)

theorem ansOk_execHeartbeatLoss {d s} (h : MemoryOk s) : AnsOk (execHeartbeatLoss d s) :=
  ansOk_ite (.next (memoryOk_endCommit (memoryOk_endAbort (memoryOk_retireDie h)))) (.next h)

/-! ### The weight sweep (Machine/Sweep) -/

theorem memoryOk_readFrame {s l fidx} (h : MemoryOk s) : MemoryOk (readFrame s l fidx).1 := memoryOk_eccNote h

theorem memoryOk_emitFrame {s d dir f} (h : MemoryOk s) : MemoryOk (emitFrame s d dir f) :=
  memoryOk_sendFrame (memoryOk_takePassRef h)

theorem memoryOk_ownPayload {s d dir layer seg g fidx us} (h : MemoryOk s) :
    MemoryOk (ownPayload s d dir layer seg g fidx us).1 := by
  unfold ownPayload
  split
  · exact memoryOk_frame h
  · exact memoryOk_ite (memoryOk_frame (memoryOk_readFrame h)) (memoryOk_readFrame h)

/-- The state after the own payload is read, as `emitWeight` names it. -/
theorem memoryOk_of_ownPayload {s t d dir layer seg g fidx us x} (h : MemoryOk s) (e : ownPayload s d dir layer seg g fidx us = (t, x)) :
    MemoryOk t := by
  have ht : MemoryOk (ownPayload s d dir layer seg g fidx us).1 := memoryOk_ownPayload h
  rwa [e] at ht

theorem memoryOk_emitWeight {s d dir seg g} (h : MemoryOk s) : MemoryOk (emitWeight s d dir seg g) := by
  unfold emitWeight
  extract_lets r layer us run begins fidx len last t own
  refine memoryOk_ite h ?_
  split
  next s1 pay pois e =>
    extract_lets f s2 s3 s4
    have hs3 : MemoryOk s3 := memoryOk_frame (memoryOk_emitFrame (memoryOk_frame (memoryOk_of_ownPayload h e)))
    exact memoryOk_frame (memoryOk_ite (memoryOk_frame (memoryOk_ite (memoryOk_frame hs3) hs3)) hs3)

theorem memoryOk_emitBuoy {s d dir kind layer arg f} (h : MemoryOk s) : MemoryOk (emitBuoy s d dir kind layer arg f) :=
  memoryOk_ite h (memoryOk_frame (memoryOk_emitFrame (memoryOk_frame h)))

theorem memoryOk_emitGrad {s d dir layer seg g owner fidx pay pois} (h : MemoryOk s) :
    MemoryOk (emitGrad s d dir layer seg g owner fidx pay pois) :=
  memoryOk_ite h (memoryOk_emitFrame (memoryOk_frame (memoryOk_ite (memoryOk_frame h) h)))

theorem memoryOk_absorb {s d f} (h : MemoryOk s) : MemoryOk (absorb s d f) := by
  unfold absorb
  extract_lets _ s1
  have hs1 : MemoryOk s1 := memoryOk_ite (memoryOk_frame h) (memoryOk_frame h)
  split
  · exact memoryOk_ite hs1 (memoryOk_storeMod hs1 _ _)
  · exact hs1

theorem memoryOk_emitPacket {s d dir layer xid pay pois} (h : MemoryOk s) : MemoryOk (emitPacket s d dir layer xid pay pois) := by
  unfold emitPacket
  extract_lets
  split
  · exact h
  · exact memoryOk_ite h (memoryOk_emitFrame (memoryOk_frame (memoryOk_frame (memoryOk_ite h (memoryOk_absorb h)))))

theorem ansOk_execFrameEmit {d dir f s} (h : MemoryOk s) : AnsOk (execFrameEmit d dir f s) := by
  unfold execFrameEmit
  extract_lets
  refine ansOk_ite (.next h) ?_
  split
  · exact ansOk_ite (.next (memoryOk_emitPacket h)) (.next h)
  · exact ansOk_ite (.next (memoryOk_emitWeight h)) (.next h)
  · exact ansOk_ite (.next (memoryOk_emitGrad h)) (.next h)
  · exact ansOk_ite (.next (memoryOk_emitBuoy h)) (.next h)
  · exact ansOk_ite (.next (memoryOk_emitBuoy h)) (.next h)
  · exact ansOk_ite (.next (memoryOk_emitBuoy h)) (.next h)

theorem memoryOk_takeFrame {s d dir i b} (h : MemoryOk s) : MemoryOk (takeFrame s d dir i b) := by
  unfold takeFrame
  extract_lets _ _ _ _ s1
  have hs1 : MemoryOk s1 := memoryOk_frame (memoryOk_frame (memoryOk_frame (memoryOk_frame h)))
  exact memoryOk_flushBuoys (memoryOk_ite (memoryOk_frame (memoryOk_sendFrame (memoryOk_frame hs1))) hs1)

theorem ansOk_execFrameTake {d dir i s} (h : MemoryOk s) : AnsOk (execFrameTake d dir i s) := by
  unfold execFrameTake
  extract_lets
  split
  · exact .next h
  · exact ansOk_ite (.next (memoryOk_takeFrame h)) (.next h)

theorem ansOk_execRunEntryPush {d dir i s} (h : MemoryOk s) : AnsOk (execRunEntryPush d dir i s) := by
  unfold execRunEntryPush
  split
  · exact .next h
  · exact ansOk_ite (.next (memoryOk_frame (memoryOk_frame h))) (.next h)

theorem memoryOk_storeGrad {s d h pay pois} (hs : MemoryOk s) : MemoryOk (storeGrad s d h pay pois) :=
  memoryOk_foldl _ (fun _ _ hu => memoryOk_storeMod hu _ _) _ _ hs

theorem memoryOk_ownGrad {s d f own ownPois} (h : MemoryOk s) : MemoryOk (ownGrad s d f own ownPois) := by
  unfold ownGrad
  extract_lets
  refine memoryOk_ite (memoryOk_storeGrad h) ?_
  split
  · exact memoryOk_frame h
  · exact memoryOk_storeGrad (memoryOk_frame h)

theorem memoryOk_addOwn {s d dir f own ownPois} (h : MemoryOk s) : MemoryOk (addOwn s d dir f own ownPois) :=
  memoryOk_ite (memoryOk_ownGrad h) (memoryOk_sendFrame (memoryOk_frame (memoryOk_ite (memoryOk_frame h) h)))

theorem memoryOk_checkedGrad {s d f} (h : MemoryOk s) : MemoryOk (checkedGrad s d f).2 := memoryOk_snd_ite h (memoryOk_frame h)

theorem memoryOk_gradArrives {s d dir hx px} (h : MemoryOk s) : MemoryOk (gradArrives s d dir hx px) := by
  unfold gradArrives
  split
  · exact h
  · exact memoryOk_ite h <| memoryOk_ite (memoryOk_headFault (memoryOk_popFrame h)) <|
      memoryOk_ite (memoryOk_frame (memoryOk_frame (memoryOk_popFrame h))) <|
      memoryOk_frame (memoryOk_checkedGrad (memoryOk_popFrame h))

theorem memoryOk_giveGrad {s d dir own ownPois} (h : MemoryOk s) : MemoryOk (giveGrad s d dir own ownPois) := by
  unfold giveGrad
  split
  · exact memoryOk_ite (memoryOk_addOwn (memoryOk_frame (memoryOk_frame h))) h
  · exact h

theorem ansOk_execGradFrame {d dir hx px own ownPois s} (h : MemoryOk s) : AnsOk (execGradFrame d dir hx px own ownPois s) := by
  unfold execGradFrame
  extract_lets
  refine .next ?_
  split
  · exact memoryOk_giveGrad (memoryOk_ite h (memoryOk_gradArrives h))
  · exact memoryOk_ite h (memoryOk_gradArrives h)

theorem ansOk_execCreditReturn {d dir s} (h : MemoryOk s) : AnsOk (execCreditReturn d dir s) := by
  unfold execCreditReturn
  split
  · exact .next (memoryOk_flushBuoys (memoryOk_frame (memoryOk_frame (memoryOk_frame h))))
  · exact .next h

theorem memoryOk_resendFrame {s d h} (hs : MemoryOk s) : MemoryOk (resendFrame s d h).1 := by
  unfold resendFrame
  extract_lets p us r bad h1 h2
  have hr : MemoryOk r.1 := memoryOk_readFrame hs
  clear_value h2 bad
  exact memoryOk_ite (memoryOk_frame hr) hr

theorem ansOk_execReRequest {d dir s} (h : MemoryOk s) : AnsOk (execReRequest d dir s) := by
  unfold execReRequest
  split
  · exact ansOk_ite
      (ansOk_ite (.next (memoryOk_frame (memoryOk_resendFrame (memoryOk_frame (memoryOk_frame h))))) (.next h))
      (ansOk_ite (.next (memoryOk_frame (memoryOk_frame (memoryOk_frame h)))) (.next h))
  · exact .next h

theorem memoryOk_failAttempt {s d dir i} (h : MemoryOk s) : MemoryOk (failAttempt s d dir i) := by
  unfold failAttempt
  split
  · split
    · exact memoryOk_ite (memoryOk_reRequest (memoryOk_frame h)) (memoryOk_frame (memoryOk_frame h))
    · exact h
  · exact h

theorem memoryOk_fillKept {s d dir i f} (h : MemoryOk s) : MemoryOk (fillKept s d dir i f) :=
  memoryOk_ite (memoryOk_frame h) <|
  memoryOk_ite (memoryOk_failAttempt (memoryOk_frame (memoryOk_frame h))) (memoryOk_failAttempt h)

theorem ansOk_execResentCopy {d dir hx px s} (h : MemoryOk s) : AnsOk (execResentCopy d dir hx px s) := by
  unfold execResentCopy
  split
  · split
    · exact .next (memoryOk_fillKept (memoryOk_frame (memoryOk_frame h)))
    · exact ansOk_ite (.next (memoryOk_frame (memoryOk_frame h))) <|
        ansOk_ite (.next (memoryOk_frame (memoryOk_frame (memoryOk_frame h)))) (.next h)
  · exact .next h

theorem ansOk_execPassComplete {d s} (h : MemoryOk s) : AnsOk (execPassComplete d s) := by
  unfold execPassComplete
  refine ansOk_ite ?_ (.next h)
  extract_lets _ _ s1
  have hs1 : MemoryOk s1 := memoryOk_frame (memoryOk_frame (memoryOk_ite (memoryOk_eccNote h) h))
  exact .next (memoryOk_proposeWaiting (memoryOk_ite (memoryOk_endPassRef hs1) hs1))

theorem ansOk_execSwpStatusCntClr {d s} (h : MemoryOk s) : AnsOk (execSwpStatusCntClr d s) :=
  ansOk_gate h (.next (memoryOk_frame h))

/-! ### Exchanges (Machine/Exchange) -/

theorem memoryOk_xReRequest {s d dir h} (hs : MemoryOk s) : MemoryOk (xReRequest s d dir h) :=
  memoryOk_arcEvents (memoryOk_frame (memoryOk_frame hs))

theorem memoryOk_takePacket {s d dir f} (h : MemoryOk s) : MemoryOk (takePacket s d dir f) :=
  memoryOk_ite (memoryOk_absorb h) (memoryOk_xReRequest (memoryOk_frame h))

theorem memoryOk_xFail {s d i} (h : MemoryOk s) : MemoryOk (xFail s d i) := by
  unfold xFail
  split
  · exact h
  · exact memoryOk_ite (memoryOk_xReRequest (memoryOk_frame h)) (memoryOk_absorb (memoryOk_frame h))

theorem memoryOk_xCopy {s d f orig} (h : MemoryOk s) : MemoryOk (xCopy s d f orig) := by
  unfold xCopy
  split
  · exact h
  · exact memoryOk_ite (memoryOk_absorb (memoryOk_frame h)) (memoryOk_xFail (memoryOk_frame h))

theorem memoryOk_packetArrives {s d dir hx px} (h : MemoryOk s) : MemoryOk (packetArrives s d dir hx px) := by
  unfold packetArrives
  split
  · exact h
  · exact memoryOk_ite h <|
      memoryOk_ite (memoryOk_headFault (memoryOk_popFrame h)) <| memoryOk_ite (memoryOk_popFrame h) <| memoryOk_ite
        (memoryOk_sendFrame (memoryOk_takePacket (memoryOk_popFrame h)))
        (memoryOk_takePacket (memoryOk_popFrame h))

theorem ansOk_execExchangePacket {d dir hx px s} (h : MemoryOk s) : AnsOk (execExchangePacket d dir hx px s) := by
  unfold execExchangePacket
  split
  · exact ansOk_ite (.next (memoryOk_xCopy (memoryOk_frame (memoryOk_frame h)))) <|
      ansOk_ite (.next (memoryOk_frame (memoryOk_frame (memoryOk_frame h)))) (.next h)
  · exact .next (memoryOk_packetArrives h)

theorem memoryOk_writeSums {s d p r} (h : MemoryOk s) : MemoryOk (writeSums s d p r) :=
  memoryOk_foldl _ (fun _ _ hu => memoryOk_storeMod hu _ _) _ _ h

theorem memoryOk_storeFar {s d off n} (h : MemoryOk s) : MemoryOk (storeFar s d off n) :=
  memoryOk_storeMod (memoryOk_frame (memoryOk_frame h)) _ _

theorem memoryOk_crossTwin {s d p r} (h : MemoryOk s) : MemoryOk (crossTwin s d p r) :=
  memoryOk_ite h (memoryOk_storeFar (memoryOk_storeFar (memoryOk_ite (memoryOk_sendTwin h) h)))

theorem memoryOk_completeX {s d p r} (h : MemoryOk s) : MemoryOk (completeX s d p r) :=
  memoryOk_foldl _ (fun _ _ => memoryOk_frame) _ _ (memoryOk_frame (memoryOk_crossTwin (memoryOk_writeSums h)))

theorem memoryOk_writeScore {s m d r} (h : MemoryOk s) : MemoryOk (writeScore s m d r) :=
  memoryOk_foldl _ (fun _ _ hu => memoryOk_foldl _ (fun _ _ hv => memoryOk_storeMod hv _ _) _ _ hu) _ _ h

theorem ansOk_execExchangeComplete {d layer xid s} (h : MemoryOk s) : AnsOk (execExchangeComplete d layer xid s) := by
  unfold execExchangeComplete
  split
  · exact .next h
  · refine ansOk_ite (.next h) ?_
    extract_lets
    split
    · exact ansOk_ite (.next (memoryOk_completeX h)) (.next h)
    · exact ansOk_ite (.next (memoryOk_frame (memoryOk_writeScore h))) (.next h)

theorem ansOk_execExchangeReRequest {d dir s} (h : MemoryOk s) : AnsOk (execExchangeReRequest d dir s) := by
  unfold execExchangeReRequest
  split
  · extract_lets
    refine ansOk_ite ?_ ?_
    · exact ansOk_ite (.next (memoryOk_frame (memoryOk_frame (memoryOk_frame h)))) (.next h)
    · split
      · exact ansOk_ite (.next (memoryOk_frame (memoryOk_frame (memoryOk_frame h)))) (.next h)
      · exact .next (memoryOk_frame (memoryOk_frame h))
  · exact .next h

theorem ansOk_execModeStatusCntClr {d s} (h : MemoryOk s) : AnsOk (execModeStatusCntClr d s) :=
  ansOk_gate h (.next (memoryOk_frame h))

theorem ansOk_execArcFlitNak {k s} (h : MemoryOk s) : AnsOk (execArcFlitNak k s) :=
  ansOk_ite (.next (memoryOk_arcEvents (memoryOk_frame h))) (.next (memoryOk_retrainArc h))

theorem ansOk_execArcRetrainDone {k s} (h : MemoryOk s) : AnsOk (execArcRetrainDone k s) :=
  ansOk_ite (.next (memoryOk_fire (memoryOk_frame h))) (.next h)

theorem ansOk_execArcStatusCntClr {k s} (h : MemoryOk s) : AnsOk (execArcStatusCntClr k s) :=
  ansOk_gate h (.next (memoryOk_frame h))

/-! ### Graphs (Machine/Graph) -/

theorem memoryOk_runGraphStore {j e s} (h : MemoryOk s) : MemoryOk (runGraphStore j e s) := by
  unfold runGraphStore
  refine memoryOk_checkThen (fun hu => ?_) h
  extract_lets
  refine memoryOk_checkThen (fun hv => ?_) hu
  split
  · exact memoryOk_finish hv
  · exact memoryOk_finish (memoryOk_frame hv)

theorem ansOk_execGraphStore {st s} (h : MemoryOk s) : AnsOk (execGraphStore st s) := ansOk_startEntry memoryOk_runGraphStore h

theorem memoryOk_storeVersion {j id m s} (h : MemoryOk s) : MemoryOk (storeVersion j id m s) := by
  unfold storeVersion
  extract_lets
  refine memoryOk_ite (memoryOk_finish h) ?_
  split
  · exact memoryOk_finish h
  · exact memoryOk_finish (memoryOk_frame h)

theorem memoryOk_deleteGraph {j id s} (h : MemoryOk s) : MemoryOk (deleteGraph j id s) :=
  memoryOk_deletesDue (memoryOk_frame (memoryOk_setBody h))

theorem memoryOk_runGraphPatch {j e s} (h : MemoryOk s) : MemoryOk (runGraphPatch j e s) := by
  unfold runGraphPatch
  refine memoryOk_checkThen (fun hu => ?_) h
  split
  · refine memoryOk_ite (memoryOk_deleteGraph hu) ?_
    split
    · exact memoryOk_finish hu
    · exact memoryOk_checkThen memoryOk_storeVersion hu
  · exact memoryOk_finish hu

theorem ansOk_execGraphPatch {st s} (h : MemoryOk s) : AnsOk (execGraphPatch st s) := ansOk_startEntry memoryOk_runGraphPatch h

theorem memoryOk_runGraph {j e s} (h : MemoryOk s) : MemoryOk (runGraph j e s) := by
  unfold runGraph
  refine memoryOk_checkThen (fun hu => ?_) h
  split
  · exact memoryOk_finish hu
  · exact memoryOk_foldl _ (fun _ _ => memoryOk_sendTo) _ _ (memoryOk_setBody (memoryOk_updJob hu))

theorem ansOk_execGraph {st s} (h : MemoryOk s) : AnsOk (execGraph st s) := ansOk_startEntry memoryOk_runGraph h

theorem memoryOk_runNode {j e de ch s} (h : MemoryOk s) : MemoryOk (runNode j e de ch s) := by
  unfold runNode
  split
  · exact memoryOk_runNop h
  · exact memoryOk_runKernel h
  · exact memoryOk_runDma h
  · exact memoryOk_runBarrier h
  · exact memoryOk_runTimestamp h
  · exact memoryOk_runDigest h
  · exact memoryOk_runDecode h

theorem memoryOk_startNode {j b e de ch s} (h : MemoryOk s) : MemoryOk (startNode j b e de ch s) :=
  memoryOk_checkThen memoryOk_runNode (memoryOk_frame (memoryOk_noteReads (memoryOk_frame h)))

theorem memoryOk_startOwn {s st n de ch} (h : MemoryOk s) : MemoryOk (startOwn s st n de ch) := by
  unfold startOwn
  split
  · exact h
  · split
    · exact memoryOk_ite (memoryOk_startNode (memoryOk_frame h)) h
    · exact h

theorem memoryOk_startRemote {s k n de ch} (h : MemoryOk s) : MemoryOk (startRemote s k n de ch) := by
  unfold startRemote
  split
  · exact h
  · exact memoryOk_ite (memoryOk_startNode (memoryOk_frame h)) h

theorem ansOk_execGraphNodeStart {st node de ch s} (h : MemoryOk s) : AnsOk (execGraphNodeStart st node de ch s) :=
  ansOk_ite (.next (memoryOk_startOwn h)) (.next (memoryOk_startRemote h))

theorem memoryOk_answerLaunch {s src head id version x} (h : MemoryOk s) : MemoryOk (answerLaunch s src head id version x) :=
  memoryOk_sendTo h

theorem ansOk_execGraphLaunchMessage {src head id version digest args s} (h : MemoryOk s) :
    AnsOk (execGraphLaunchMessage src head id version digest args s) := by
  unfold execGraphLaunchMessage
  extract_lets
  refine ansOk_ite (.next (memoryOk_answerLaunch h)) ?_
  split
  · exact .next (memoryOk_answerLaunch h)
  · refine ansOk_ite (.next (memoryOk_answerLaunch h)) ?_
    refine ansOk_ite (.next (memoryOk_answerLaunch h)) ?_
    extract_lets
    split
    · exact .next (memoryOk_answerLaunch h)
    · exact .next (memoryOk_answerLaunch (memoryOk_frame h))

theorem memoryOk_farCompletion {s st n b g x r} (h : MemoryOk s) : MemoryOk (farCompletion s st n b g x r) := memoryOk_postInner h

theorem memoryOk_settleOwn {s st b g} (h : MemoryOk s) : MemoryOk (settleOwn s st b g) :=
  memoryOk_ite (memoryOk_finishGraph (memoryOk_frame h)) (memoryOk_frame h)

theorem memoryOk_tokenOwn {s st b g n x r} (h : MemoryOk s) : MemoryOk (tokenOwn s st b g n x r) :=
  memoryOk_settleOwn (memoryOk_fst_ite (memoryOk_farCompletion h) (memoryOk_haltFar (memoryOk_farCompletion h)))

theorem memoryOk_answerOwn {s st b g src x} (h : MemoryOk s) : MemoryOk (answerOwn s st b g src x) :=
  memoryOk_ite h <|
  memoryOk_ite (memoryOk_finish h) (memoryOk_ite (memoryOk_tellFar (memoryOk_frame h)) (memoryOk_frame h))

theorem memoryOk_takeToken {s src launcher st id version n x r} (h : MemoryOk s) :
    MemoryOk (takeToken s src launcher st id version n x r) := by
  unfold takeToken
  refine memoryOk_ite ?_ ?_
  · split
    · exact h
    · exact memoryOk_ite (memoryOk_answerOwn h) <|
        memoryOk_ite (memoryOk_settleOwn h) (memoryOk_ite (memoryOk_tokenOwn h) h)
  · split
    · exact memoryOk_ite (memoryOk_sendTo h) h
    · exact memoryOk_ite
        (memoryOk_ite (memoryOk_settleRemote h) (memoryOk_settleRemote h))
        (memoryOk_ite (memoryOk_settleRemote h) h)

theorem ansOk_execCompletionToken {src launcher st id edge rep s} (h : MemoryOk s) :
    AnsOk (execCompletionToken src launcher st id edge rep s) := by
  unfold execCompletionToken
  extract_lets version
  clear_value version
  split
  · exact .next (memoryOk_takeToken h)
  · exact .next h

/-! ### Resets and bring-up (Machine/Reset) -/

theorem memoryOk_enterRecovery {s cause} (h : MemoryOk s) : MemoryOk (enterRecovery s cause) := memoryOk_frame (memoryOk_frame h)

theorem memoryOk_romStage {s} (h : MemoryOk s) : MemoryOk (romStage s) :=
  memoryOk_ite (memoryOk_enterRecovery h) <|
  memoryOk_ite (memoryOk_enterRecovery h) (memoryOk_ite (memoryOk_enterRecovery h) (memoryOk_frame h))

theorem memoryOk_dropJob {s p} (h : MemoryOk s) : MemoryOk (dropJob s p) := by
  unfold dropJob
  extract_lets
  split
  · exact memoryOk_foldl _ (fun _ _ hu => memoryOk_killTile hu _) _ _ (memoryOk_frame (memoryOk_releaseKilled h))
  · exact memoryOk_frame (memoryOk_releaseKilled h)

theorem memoryOk_killWork {s} (h : MemoryOk s) : MemoryOk (killWork s) :=
  memoryOk_frame <| memoryOk_foldl _ (fun _ _ => memoryOk_endPersist) _ _ <|
  memoryOk_foldl _ (fun _ _ hu => memoryOk_killTile hu _) _ _ (memoryOk_foldl _ (fun _ _ => memoryOk_dropJob) _ _ h)

theorem memoryOk_scrambleEngine {s e} (h : MemoryOk s) : MemoryOk (scrambleEngine s e) :=
  memoryOk_foldl _ (fun _ _ hu => memoryOk_foldl _ (fun _ _ => memoryOk_scrambleDest) _ _ hu) _ _ h

theorem memoryOk_resetModels {s} (h : MemoryOk s) : MemoryOk (resetModels s) :=
  memoryOk_frame <| memoryOk_foldl _ (fun _ _ => memoryOk_dropSeq) _ _ <|
  memoryOk_frame (memoryOk_abandonPass (memoryOk_ite (memoryOk_foldl _ (fun _ _ => memoryOk_applyReq) _ _ h) h))

theorem memoryOk_resetCommon {s} (h : MemoryOk s) : MemoryOk (resetCommon s) :=
  memoryOk_frame <|
  memoryOk_foldl _ (fun _ _ => memoryOk_scrambleEngine) _ _ (memoryOk_resetModels (memoryOk_killWork h))

theorem memoryOk_fogOut {s cause} (h : MemoryOk s) : MemoryOk (fogOut s cause) := memoryOk_ite h (memoryOk_sendFog h)

theorem memoryOk_fogIfJoined {s cause} (h : MemoryOk s) : MemoryOk (fogIfJoined s cause) := memoryOk_ite (memoryOk_fogOut h) h

theorem memoryOk_resetLevel1 {s src} (h : MemoryOk s) : MemoryOk (resetLevel1 s src) :=
  memoryOk_frame (memoryOk_resetCommon (memoryOk_frame h))

theorem memoryOk_dropLinks {s} (h : MemoryOk s) : MemoryOk (dropLinks s) :=
  memoryOk_foldl _ (fun _ _ => memoryOk_fire) _ _ (memoryOk_frame h)

theorem memoryOk_resetLevel2 {s src fatal fog} (h : MemoryOk s) : MemoryOk (resetLevel2 s src fatal fog) := by
  have hs : MemoryOk (dropLinks (resetCommon (noteReset (if fog then fogIfJoined s 0x07 else s) 2 src fatal))) :=
    memoryOk_dropLinks (memoryOk_resetCommon (memoryOk_frame (memoryOk_ite (memoryOk_fogIfJoined h) h)))
  exact memoryOk_romStage (memoriesOk_scrubAll hs)

theorem memoryOk_coldState {s} (h : MemoryOk s) : MemoryOk (coldState s) := memoriesOk_host h

theorem memoryOk_resetLevel4 {s src fatal fog} (h : MemoryOk s) : MemoryOk (resetLevel4 s src fatal fog) := by
  unfold resetLevel4
  extract_lets _ _ s1
  have hs1 : MemoryOk s1 := memoryOk_frame <|
    memoryOk_coldState <| memoryOk_foldl _ (fun _ _ => memoryOk_scrambleEngine) _ _ <|
    memoryOk_frame (memoryOk_ite (memoryOk_fogIfJoined h) h)
  exact memoryOk_ite hs1 (memoryOk_romStage hs1)

theorem memoryOk_killOnDie {s d} (h : MemoryOk s) : MemoryOk (killOnDie s d) := memoryOk_foldl _ (fun _ _ => memoryOk_finish) _ _ h

theorem memoryOk_clearDie {s d} (h : MemoryOk s) : MemoryOk (clearDie s d) := by
  have hs : MemoryOk (((List.range 18).map (18 * d + ·)).foldl scrambleEngine (recallAll s)) :=
    memoryOk_foldl _ (fun _ _ => memoryOk_scrambleEngine) _ _ (memoryOk_recallAll h)
  have hm := List.foldlRecOn ((List.range 32).map (32 * d + ·)) scrubMem (motive := Memories.Ok) hs fun _ hm t _ => memoriesOk_scrubMem hm t
  unfold clearDie
  extract_lets s1 s2 ts
  exact hm

theorem memoryOk_startDieReset {s d src} (h : MemoryOk s) : MemoryOk (startDieReset s d src) :=
  memoryOk_frame <|
  memoryOk_clearDie (memoryOk_abandonPass (memoryOk_abortEpoch (memoryOk_frame (memoryOk_killOnDie h))))

theorem memoryOk_nextDieReset {s src} (h : MemoryOk s) : MemoryOk (nextDieReset s src) := by
  unfold nextDieReset
  refine memoryOk_ite h ?_
  split
  · exact h
  · exact memoryOk_startDieReset h

theorem memoryOk_resetLevel3 {s d src} (h : MemoryOk s) : MemoryOk (resetLevel3 s d src) :=
  memoryOk_ite h (memoryOk_nextDieReset (memoryOk_frame h))

theorem memoryOk_endDieJobs {s d x} (h : MemoryOk s) : MemoryOk (endDieJobs s d x) := by
  unfold endDieJobs
  refine memoryOk_foldl _ (fun _ _ hu => ?_) _ _ h
  split
  · exact memoryOk_ite (memoryOk_finish hu) hu
  · exact hu

theorem memoryOk_applyTest {s t} (h : MemoryOk s) : MemoryOk (applyTest s t) :=
  memoryOk_foldl _ (fun _ _ => memoryOk_retireDie) _ _ <|
  memoryOk_foldl _ (fun _ _ => memoryOk_bypassColumn) _ _ (memoryOk_foldl _ (fun _ _ => memoryOk_retireTile) _ _ h)

theorem memoryOk_startRow {d s r} (h : MemoryOk s) : MemoryOk (startRow d s r) := by
  unfold startRow
  split
  · exact memoryOk_retireDie h
  · exact memoryOk_ite (memoryOk_frame (memoryOk_frame (memoryOk_logStuck h))) (memoryOk_frame (memoryOk_logStuck h))

theorem memoryOk_testRows {t s d} (h : MemoryOk s) : MemoryOk (testRows t s d) :=
  memoryOk_frame (memoryOk_foldl _ (fun _ _ => memoryOk_startRow) _ _ (memoryOk_frame (memoryOk_frame h)))

theorem memoryOk_reloadSws {s d} (h : MemoryOk s) : MemoryOk (reloadSws s d) :=
  memoryOk_foldl _ (fun _ _ hu => memoryOk_ite (memoryOk_fillSws hu) hu) _ _ (memoryOk_storeKeys (memoryOk_frame h))

theorem ansOk_execDieResetComplete {d t s} (h : MemoryOk s) : AnsOk (execDieResetComplete d t s) := by
  unfold execDieResetComplete
  refine ansOk_ite (.next h) ?_
  extract_lets _ s1
  have hs1 : MemoryOk s1 := memoryOk_testRows (memoryOk_applyTest (memoryOk_frame h))
  exact .next <|
    memoryOk_nextDieReset (memoryOk_ite (memoryOk_frame (memoryOk_reloadSws hs1)) (memoryOk_endDieJobs hs1))

theorem memoryOk_applySelfTest {s} (h : MemoryOk s) : MemoryOk (applySelfTest s) :=
  memoryOk_foldl _ (fun _ _ => memoryOk_testRows) _ _ (memoryOk_applyTest h)

theorem memoryOk_applyRetired {s c} (h : MemoryOk s) : MemoryOk (applyRetired s c) := by
  unfold applyRetired
  split
  · exact memoryOk_frame h
  · exact memoryOk_frame h
  · exact h

theorem memoryOk_trainArcs {s} (h : MemoryOk s) : MemoryOk (trainArcs s) :=
  memoryOk_foldl _ (fun _ _ hu => memoryOk_ite hu (memoryOk_fire (memoryOk_frame hu))) _ _ h

theorem memoryOk_chooseTopology {s} (h : MemoryOk s) : MemoryOk (chooseTopology s) :=
  memoryOk_foldl _ (fun _ _ => memoryOk_frame) _ _ (memoryOk_frame h)

theorem memoryOk_fullStart {s} (h : MemoryOk s) : MemoryOk (fullStart s) := by
  unfold fullStart
  extract_lets _ s1
  have hs1 : MemoryOk s1 := memoryOk_frame h
  exact memoryOk_chooseTopology <|
    memoryOk_trainArcs (memoryOk_applySelfTest (memoryOk_foldl _ (fun _ _ => memoryOk_applyRetired) _ _ hs1))

theorem memoryOk_startSums {s} (h : MemoryOk s) : MemoryOk (startSums s) :=
  memoryOk_frame (memoryOk_frame (memoryOk_foldl _ (fun _ _ => memoryOk_holdConfig) _ _ (memoryOk_clearRings h)))

theorem ansOk_execModuleReady {t s} (h : MemoryOk s) : AnsOk (execModuleReady t s) := by
  unfold execModuleReady
  refine ansOk_ite (.next h) ?_
  extract_lets level src s1
  have hs1 : MemoryOk s1 := by
    unfold s1
    generalize level = n
    split
    · exact memoryOk_fullStart (memoryOk_frame h)
    · exact memoryOk_applyTest h
    · exact h
  exact .next (memoryOk_nextDieReset (memoryOk_frame (memoryOk_startSums (memoryOk_ite hs1 (memoryOk_frame (memoryOk_frame hs1))))))

theorem ansOk_execFunctionLevelReset {src s} (h : MemoryOk s) : AnsOk (execFunctionLevelReset src s) :=
  ansOk_ite (.next (memoryOk_frame h)) (ansOk_ite (.next h) (.next (memoryOk_resetLevel1 h)))

theorem ansOk_execWarmReset {src s} (h : MemoryOk s) : AnsOk (execWarmReset src s) :=
  ansOk_ite (.next (memoryOk_frame h)) (ansOk_ite (.next h) (.next (memoryOk_resetLevel2 h)))

theorem ansOk_execDieReset {d src s} (h : MemoryOk s) : AnsOk (execDieReset d src s) :=
  ansOk_ite (.next (memoryOk_frame h)) (.next (memoryOk_resetLevel3 h))

theorem memoryOk_noteBootFault {s src} (h : MemoryOk s) : MemoryOk (noteBootFault s src) :=
  memoryOk_ite (memoryOk_frame (memoryOk_flog h)) h

theorem ansOk_execColdReset {src s} (h : MemoryOk s) : AnsOk (execColdReset src s) :=
  ansOk_ite (.next h) (ansOk_ite (.next h) (.next (memoryOk_resetLevel4 (memoryOk_noteBootFault h))))

theorem memoryOk_runReset {j e s} (h : MemoryOk s) : MemoryOk (runReset j e s) := by
  unfold runReset
  refine memoryOk_checkThen (fun hu => ?_) h
  refine memoryOk_exclusively (fun hv => ?_) hu
  split
  · exact memoryOk_ite (memoryOk_finish hv) (memoryOk_resetLevel1 (memoryOk_finish hv))
  · exact memoryOk_ite (memoryOk_finish hv) (memoryOk_resetLevel2 (memoryOk_finish hv))
  · exact memoryOk_ite (memoryOk_finish hv) (memoryOk_resetLevel3 (memoryOk_setBody hv))
  · exact memoryOk_ite (memoryOk_finish hv) (memoryOk_resetLevel4 (memoryOk_finish hv))

theorem ansOk_execReset {st s} (h : MemoryOk s) : AnsOk (execReset st s) := ansOk_startEntry memoryOk_runReset h

theorem memoryOk_offState {s} (h : MemoryOk s) : MemoryOk (offState s) := memoryOk_frame (memoryOk_coldState h)

theorem memoryOk_powerDown {s} (h : MemoryOk s) : MemoryOk (powerDown s) := memoryOk_frame (memoryOk_offState h)

theorem memoryOk_fatal {s cause} (h : MemoryOk s) : MemoryOk (fatal s cause) := by
  unfold fatal
  split
  · exact memoryOk_resetLevel4 (memoryOk_fogOut h)
  · exact memoryOk_resetLevel4 (memoryOk_fogOut h)
  · exact memoryOk_powerDown (memoryOk_fogOut h)
  · exact memoryOk_powerDown (memoryOk_fogOut h)
  · exact memoryOk_frame (memoryOk_fogOut h)
  · exact memoryOk_powerDown (memoryOk_fogOut h)
  · exact memoryOk_resetLevel2 (memoryOk_fogOut h)
  · exact memoryOk_resetLevel4 (memoryOk_fogOut h)
  · exact h

theorem ansOk_execFatalFault {cause s} (h : MemoryOk s) : AnsOk (execFatalFault cause s) :=
  ansOk_ite (.next (memoryOk_fatal h)) (.next h)

theorem ansOk_execKeeperWatchdog {s} (h : MemoryOk s) : AnsOk (execKeeperWatchdog s) :=
  ansOk_ite (.next (memoryOk_fatal h)) (.next h)

theorem ansOk_execSpineLoss {d s} (h : MemoryOk s) : AnsOk (execSpineLoss d s) := ansOk_ite (.next (memoryOk_frame h)) (.next h)

/-! ### Control of dies and tiles (Machine/Control) -/

theorem memoryOk_reply {j e b s} (h : MemoryOk s) : MemoryOk (reply j e b s) := memoryOk_finish (memoryOk_writeWord h)

theorem memoryOk_runIdentify {j e s} (h : MemoryOk s) : MemoryOk (runIdentify j e s) := memoryOk_checkThen memoryOk_reply h

theorem ansOk_execIdentify {st s} (h : MemoryOk s) : AnsOk (execIdentify st s) := ansOk_startEntry memoryOk_runIdentify h

theorem memoryOk_runAttest {j e s} (h : MemoryOk s) : MemoryOk (runAttest j e s) := memoryOk_checkThen memoryOk_reply h

theorem ansOk_execAttest {st s} (h : MemoryOk s) : AnsOk (execAttest st s) := ansOk_startEntry memoryOk_runAttest h

theorem memoryOk_telPage3 {s len} (h : MemoryOk s) : MemoryOk (telPage3 s len).2 := memoryOk_snd_ite (memoryOk_frame h) h

theorem memoryOk_runTelemetry {j e s} (h : MemoryOk s) : MemoryOk (runTelemetry j e s) := by
  unfold runTelemetry
  refine memoryOk_checkThen (fun hu => ?_) h
  split
  · exact memoryOk_reply hu
  · exact memoryOk_reply hu
  · exact memoryOk_reply hu
  · exact memoryOk_reply (memoryOk_telPage3 hu)

theorem ansOk_execTelemetry {st s} (h : MemoryOk s) : AnsOk (execTelemetry st s) := ansOk_startEntry memoryOk_runTelemetry h

theorem memoryOk_runScrub {j e s} (h : MemoryOk s) : MemoryOk (runScrub j e s) := by
  unfold runScrub
  refine memoryOk_checkThen (fun hu => ?_) h
  split
  · exact memoryOk_ite (memoryOk_finish hu) <|
      memoryOk_foldl _ (fun _ _ hv => memoryOk_scrubTile hv _) _ _ (memoryOk_setBody hu)
  · exact memoryOk_finish (memoryOk_frame hu)

theorem ansOk_execScrub {st s} (h : MemoryOk s) : AnsOk (execScrub st s) := ansOk_startEntry memoryOk_runScrub h

theorem memoryOk_retireChannel {s c} (h : MemoryOk s) : MemoryOk (retireChannel s c) := by
  unfold retireChannel
  split
  · exact memoryOk_retireLane h
  · exact memoryOk_retireLink h
  · exact memoryOk_retireArc h
  · exact memoryOk_retirePc h
  · exact memoryOk_mapOutHbm h
  · exact memoryOk_mapOutSws h
  · exact memoryOk_bypassColumn h
  · exact memoryOk_retireTile h
  · exact memoryOk_retireDie h

theorem memoryOk_runRetire {j e s} (h : MemoryOk s) : MemoryOk (runRetire j e s) :=
  memoryOk_checkThen (fun hu => memoryOk_exclusively (fun hv => memoryOk_finish (memoryOk_retireChannel hv)) hu) h

theorem ansOk_execRetire {st s} (h : MemoryOk s) : AnsOk (execRetire st s) := ansOk_startEntry memoryOk_runRetire h

theorem memoryOk_runFaultPolicy {j e s} (h : MemoryOk s) : MemoryOk (runFaultPolicy j e s) :=
  memoryOk_checkThen (fun hu => memoryOk_finish (memoryOk_frame hu)) h

theorem ansOk_execFaultPolicy {st s} (h : MemoryOk s) : AnsOk (execFaultPolicy st s) := ansOk_startEntry memoryOk_runFaultPolicy h

theorem memoryOk_runFwUpdate {alertStops j e s} (h : MemoryOk s) : MemoryOk (runFwUpdate alertStops j e s) :=
  memoryOk_checkThen
    (fun hu =>
      memoryOk_exclusively
        (fun hv =>
          memoryOk_checkThen
            (fun hw2 =>
              memoryOk_ite (memoryOk_finish hw2) <|
              memoryOk_ite (memoryOk_finish (memoryOk_frame hw2)) (memoryOk_finish (memoryOk_frame hw2)))
            hv)
        hu)
    h

theorem ansOk_execFwUpdate {st alertStops s} (h : MemoryOk s) : AnsOk (execFwUpdate st alertStops s) :=
  ansOk_startEntry memoryOk_runFwUpdate h

theorem memoryOk_killStream {s st} (h : MemoryOk s) : MemoryOk (killStream s st) := by
  unfold killStream
  split
  · exact memoryOk_ite (memoryOk_finish h) h
  · split
    · exact h
    · exact memoryOk_endCalls (memoryOk_frame (memoryOk_capture h))

theorem ansOk_execKill {st s} (h : MemoryOk s) : AnsOk (execKill st s) := ansOk_gate h (.next (memoryOk_killStream h))

theorem ansOk_execWatchdogExpiry {st s} (h : MemoryOk s) : AnsOk (execWatchdogExpiry st s) := by
  unfold execWatchdogExpiry
  split
  · exact ansOk_ite (.next (memoryOk_finish h)) (.next h)
  · exact .next h

/-! ### Bundles (Machine/Bundle) -/

theorem memoryOk_sendLoad {s part slot mlen total off data} (h : MemoryOk s) :
    MemoryOk (sendLoad s part slot mlen total off data) :=
  memoryOk_foldl _ (fun _ _ hu => memoryOk_foldl _ (fun _ _ => memoryOk_sendTo) _ _ hu) _ _ h

theorem memoryOk_openSlot {s k g} (h : MemoryOk s) : MemoryOk (openSlot s k g) :=
  memoryOk_foldl _
    (fun _ _ hu => memoryOk_frame (memoryOk_frame (memoryOk_frame hu))) _ _
    (memoryOk_frame (memoryOk_frame h))

theorem memoryOk_addGen {s k g} (h : MemoryOk s) : MemoryOk (addGen s k g) :=
  memoryOk_seatAll <| memoryOk_placeLevels <|
  memoryOk_ite (memoryOk_openSlot (memoryOk_frame (memoryOk_layGen h))) (memoryOk_frame (memoryOk_layGen h))

theorem memoryOk_runBundleBegin {j e s} (h : MemoryOk s) : MemoryOk (runBundleBegin j e s) :=
  memoryOk_checkThen
    (fun hu =>
      memoryOk_finish <|
      memoryOk_ite (memoryOk_sendLoad (memoryOk_frame (memoryOk_frame hu))) (memoryOk_frame (memoryOk_frame hu)))
    h

theorem ansOk_execBundleBegin {st s} (h : MemoryOk s) : AnsOk (execBundleBegin st s) := ansOk_startEntry memoryOk_runBundleBegin h

theorem memoryOk_runBundleChunk {j e s} (h : MemoryOk s) : MemoryOk (runBundleChunk j e s) := by
  unfold runBundleChunk
  refine memoryOk_checkThen (fun hu => ?_) h
  split
  · exact memoryOk_finish hu
  · split
    · exact memoryOk_finish hu
    · exact memoryOk_finish (memoryOk_ite (memoryOk_sendLoad (memoryOk_frame hu)) (memoryOk_frame hu))

theorem ansOk_execBundleChunk {st s} (h : MemoryOk s) : AnsOk (execBundleChunk st s) := ansOk_startEntry memoryOk_runBundleChunk h

theorem memoryOk_failLoad {s k j x} (h : MemoryOk s) : MemoryOk (failLoad s k j x) := memoryOk_finish (memoryOk_frame h)

theorem memoryOk_commitLoad {s k j x} (h : MemoryOk s) : MemoryOk (commitLoad s k j x) := by
  unfold commitLoad
  split
  · extract_lets r
    have hr : MemoryOk r.1 := by
      unfold r
      split
      · exact memoryOk_restoreGen h
      · exact h
    exact memoryOk_finish (memoryOk_frame (memoryOk_seatAll (memoryOk_frame hr)))
  · exact memoryOk_finish <|
      memoryOk_frame (memoryOk_addGen (memoryOk_ite (memoryOk_foldl _ (fun _ _ => memoryOk_sendTo) _ _ h) h))

theorem memoryOk_settleLoad {s k j x} (h : MemoryOk s) : MemoryOk (settleLoad s k j x) := by
  unfold settleLoad
  split
  · exact memoryOk_failLoad h
  · exact memoryOk_ite (memoryOk_commitLoad h) (memoryOk_setBody h)

theorem memoryOk_runBundleCommit {j e s} (h : MemoryOk s) : MemoryOk (runBundleCommit j e s) := by
  unfold runBundleCommit
  refine memoryOk_ite (memoryOk_finish h) ?_
  split
  · exact memoryOk_finish h
  · split
    · exact memoryOk_finish h
    · refine memoryOk_ite (memoryOk_finish h) ?_
      split
      · exact memoryOk_failLoad h
      · exact memoryOk_ite (memoryOk_settleLoad h) (memoryOk_commitLoad h)

theorem ansOk_execBundleCommit {st s} (h : MemoryOk s) : AnsOk (execBundleCommit st s) :=
  ansOk_startEntry memoryOk_runBundleCommit h

theorem memoryOk_noteReport {s k m r} (h : MemoryOk s) : MemoryOk (noteReport s k m r) := by
  unfold noteReport
  split
  · exact h
  · extract_lets
    split
    · exact memoryOk_settleLoad (memoryOk_frame h)
    · exact memoryOk_frame h

theorem ansOk_execBundleMemberReport {member slot r s} (h : MemoryOk s) : AnsOk (execBundleMemberReport member slot r s) :=
  ansOk_ite (.next (memoryOk_noteReport h)) (.next h)

theorem memoryOk_memberLostLoads {s m} (h : MemoryOk s) : MemoryOk (memberLostLoads s m) :=
  memoryOk_ite (memoryOk_foldl _ (fun _ _ => memoryOk_noteReport) _ _ h) h

theorem memoryOk_openLoadWins {s x} (h : MemoryOk s) : MemoryOk (openLoadWins s x).1 := by
  refine memoryOk_fst_foldl (fun r d hr => ?_) _ _ h
  split
  · exact hr
  · exact memoryOk_frame hr

theorem memoryOk_closeLoadWins {s x} (h : MemoryOk s) : MemoryOk (closeLoadWins s x) :=
  memoryOk_foldl _ (fun _ _ => memoryOk_frame) _ _ h

theorem memoryOk_takeLoad {s b} (h : MemoryOk s) : MemoryOk (takeLoad s b) := by
  unfold takeLoad
  extract_lets _ _ _ _ s1 _ _ _ _ _ s2
  have hs1 : MemoryOk s1 := by
    unfold s1
    split
    · exact memoryOk_ite (memoryOk_closeLoadWins h) h
    · exact h
  have hs2 : MemoryOk s2 := memoryOk_frame (memoryOk_fst_ite (memoryOk_openLoadWins hs1) hs1)
  exact memoryOk_ite (memoryOk_sendTo hs2) hs2

theorem memoryOk_memberCommit {s k g gendig} (h : MemoryOk s) : MemoryOk (memberCommit s k g gendig) := by
  unfold memberCommit
  split
  · exact memoryOk_ite h <| memoryOk_ite (memoryOk_frame (memoryOk_closeLoadWins h)) <|
      memoryOk_frame (memoryOk_addGen (memoryOk_closeLoadWins h))
  · exact h

theorem ansOk_execBundleMemberCommit {slot gen gendig s} (h : MemoryOk s) : AnsOk (execBundleMemberCommit slot gen gendig s) :=
  ansOk_ite (.next (memoryOk_memberCommit h)) (.next h)

theorem memoryOk_rewriteSource {s e w} (h : MemoryOk s) : MemoryOk (rewriteSource s e w) := by
  unfold rewriteSource
  split
  · exact memoryOk_ite (memoryOk_writeWord h) h
  · exact h

theorem memoryOk_runDeltaLoad {w j e s} (h : MemoryOk s) : MemoryOk (runDeltaLoad w j e s) := by
  unfold runDeltaLoad
  refine memoryOk_checkThen (fun hu => ?_) h
  extract_lets
  split
  · exact memoryOk_finish (memoryOk_frame hu)
  · exact memoryOk_ite (memoryOk_finish (memoryOk_frame hu)) <| memoryOk_ite
      (memoryOk_finish (memoryOk_rewriteSource (memoryOk_frame hu)))
      (memoryOk_ite
        (memoryOk_finish (memoryOk_rewriteSource (memoryOk_frame hu)))
        (memoryOk_finish (memoryOk_addGen (memoryOk_frame (memoryOk_rewriteSource (memoryOk_frame hu))))))

theorem ansOk_execDeltaLoad {st w s} (h : MemoryOk s) : AnsOk (execDeltaLoad st w s) := ansOk_startEntry memoryOk_runDeltaLoad h

/-! ### Twin pairs (Machine/Twin) -/

theorem memoryOk_enterMirror {s} (h : MemoryOk s) : MemoryOk (enterMirror s) := by
  unfold enterMirror
  extract_lets
  split
  · exact memoryOk_finish (memoryOk_frame (memoryOk_frame h))
  · exact memoryOk_frame h

theorem memoryOk_startPairing {s} (h : MemoryOk s) : MemoryOk (startPairing s) := by
  unfold startPairing
  extract_lets _ _ _ s1
  have hs1 : MemoryOk s1 := memoryOk_frame (memoryOk_foldl _ (fun _ _ => memoryOk_sendCkpt) _ _ (memoryOk_frame h))
  exact memoryOk_ite (memoryOk_enterMirror hs1) hs1

theorem memoryOk_twinBack {s} (h : MemoryOk s) : MemoryOk (twinBack s) := memoryOk_ite (memoryOk_startPairing h) h

theorem memoryOk_partnerIssued {s} (h : MemoryOk s) : MemoryOk (partnerIssued s) := by
  unfold partnerIssued
  split
  · exact memoryOk_startPairing h
  · exact memoryOk_startPairing h
  · exact memoryOk_frame h

theorem memoryOk_pairMirror {j p s} (h : MemoryOk s) : MemoryOk (pairMirror j p s) := by
  unfold pairMirror
  refine memoryOk_ite (memoryOk_finish h) ?_
  refine memoryOk_checkThen (fun hu => ?_) h
  extract_lets s1
  have hs1 : MemoryOk s1 := memoryOk_sendTwin (memoryOk_frame (memoryOk_setBody hu))
  exact memoryOk_ite hs1 (memoryOk_ite (memoryOk_startPairing hs1) hs1)

theorem memoryOk_putPart {m q s p} (h : MemoryOk s) : MemoryOk (putPart m q s p) :=
  memoryOk_foldl _
    (fun _ _ hu =>
      memoryOk_foldl _
        (fun _ _ hv =>
          memoryOk_foldl _
            (fun _ _ hw2 =>
              memoryOk_foldl _ (fun _ _ hw3 => memoryOk_storeClean (memoryOk_storeClean hw3 _ _) _ _) _ _ hw2) _ _
            hv) _ _
        hu) _ _
    h

theorem someOk_adoptSeq {s x} (h : MemoryOk s) : SomeOk (fun t => t) (adoptSeq s x) := by
  unfold adoptSeq
  extract_lets slot c
  split
  · exact someOk_none
  · split
    · exact someOk_none
    · next e =>
      extract_lets q _ s2 s3
      have hs2 : MemoryOk s2 := memoryOk_frame (memoryOk_frame (someOk_allocAll h _ e))
      have hs3 : MemoryOk s3 := memoryOk_foldl _ (fun _ _ => memoryOk_putPart) _ _ hs2
      exact someOk_some (memoryOk_ite (memoryOk_writeWord hs3) hs3)

theorem memoryOk_keepOut {s ra out} (h : MemoryOk s) : MemoryOk (keepOut s ra out) := memoryOk_frame (memoryOk_putRec h)

theorem memoryOk_adoptOne {s l} (h : MemoryOk s) : MemoryOk (adoptOne s l) := by
  unfold adoptOne
  extract_lets e ra j repro _ _ s1 gone
  have hs1 : MemoryOk s1 := memoryOk_frame h
  split
  · exact memoryOk_ite (memoryOk_finish hs1) (memoryOk_frame (memoryOk_runKernel hs1))
  · next x _ =>
    refine memoryOk_ite (memoryOk_finish hs1) ?_
    split
    · exact memoryOk_finish hs1
    · next t ht =>
      have hsome : SomeOk (fun t => t) (if (seqOf s1 ra).isSome then some s1 else adoptSeq s1 x) := someOk_ite (someOk_some hs1) (someOk_adoptSeq hs1)
      have hs : MemoryOk t := hsome t ht
      exact memoryOk_ite (memoryOk_ite (memoryOk_finish hs) (memoryOk_keepOut (memoryOk_runDecode hs)))
        (memoryOk_ite (memoryOk_finish hs) (memoryOk_runKernel hs))

theorem memoryOk_adoptAll {s} (h : MemoryOk s) : MemoryOk (adoptAll s) :=
  memoryOk_frame (memoryOk_foldl _ (fun _ _ => memoryOk_adoptOne) _ _ (memoryOk_frame h))

theorem memoryOk_takeOver {s} (h : MemoryOk s) : MemoryOk (takeOver s) := by
  unfold takeOver
  extract_lets j _ s1
  have hs1 : MemoryOk s1 := memoryOk_foldl _ (fun _ _ => memoryOk_fire) _ _ (memoryOk_flushWaits (memoryOk_frame h))
  clear_value j
  split
  · exact memoryOk_finish hs1
  · exact hs1

theorem memoryOk_takeoverDue {s} (h : MemoryOk s) : MemoryOk (takeoverDue s) := memoryOk_ite (memoryOk_adoptAll h) h

theorem memoryOk_unpair {s} (h : MemoryOk s) : MemoryOk (unpair s) := memoryOk_flushWaits (memoryOk_frame h)

theorem memoryOk_pairDown {j s} (h : MemoryOk s) : MemoryOk (pairDown j s) := by
  unfold pairDown
  split
  · exact memoryOk_finish (memoryOk_takeoverDue (memoryOk_takeOver h))
  · exact memoryOk_finish (memoryOk_unpair (memoryOk_sendTwin h))
  · exact memoryOk_finish (memoryOk_unpair (memoryOk_sendTwin h))
  · exact memoryOk_finish h
  · exact memoryOk_finish h
  · exact memoryOk_finish h

theorem memoryOk_runTwinPair {p j e s} (h : MemoryOk s) : MemoryOk (runTwinPair p j e s) := by
  unfold runTwinPair
  split
  · exact memoryOk_exclusively memoryOk_pairMirror h
  · exact memoryOk_exclusively memoryOk_pairDown h
  · exact memoryOk_finish h

theorem ansOk_execTwinPair {st p s} (h : MemoryOk s) : AnsOk (execTwinPair st p s) := ansOk_startEntry memoryOk_runTwinPair h

theorem ansOk_execTwinPairTimeout {s} (h : MemoryOk s) : AnsOk (execTwinPairTimeout s) := by
  unfold execTwinPairTimeout
  split
  · exact ansOk_ite (.next h) (.next (memoryOk_finish (memoryOk_frame h)))
  · exact .next h

theorem ansOk_execTwinLogEntry {entry record s} (h : MemoryOk s) : AnsOk (execTwinLogEntry entry record s) :=
  ansOk_ite (.next (memoryOk_frame h)) (.next h)

theorem ansOk_execTwinCheckpoint {c s} (h : MemoryOk s) : AnsOk (execTwinCheckpoint c s) :=
  ansOk_ite (.next (memoryOk_sendTwin (memoryOk_frame h))) (.next h)

theorem memoryOk_ackCkpt {s ra} (h : MemoryOk s) : MemoryOk (ackCkpt s ra) := by
  unfold ackCkpt
  refine memoryOk_ite ?_ h
  extract_lets _ _ _ s1
  have hs1 : MemoryOk s1 := memoryOk_releasesDue <|
    memoryOk_foldl _ (fun _ _ => memoryOk_releaseWait) _ _ (memoryOk_frame h)
  exact memoryOk_ite (memoryOk_enterMirror hs1) hs1

theorem ansOk_execCheckpointAck {ra s} (h : MemoryOk s) : AnsOk (execCheckpointAck ra s) :=
  ansOk_ite (.next (memoryOk_ackCkpt h)) (.next h)

theorem ansOk_execWrittenNotice {tag s} (h : MemoryOk s) : AnsOk (execWrittenNotice tag s) :=
  ansOk_ite (.next (memoryOk_frame h)) (.next h)

theorem memoryOk_handOver {s p} (h : MemoryOk s) : MemoryOk (handOver s p) := by
  unfold handOver
  split
  · extract_lets s1
    have hs1 : MemoryOk s1 := by
      unfold s1
      split
      · exact memoryOk_dropSeq (memoryOk_sendCkpt h)
      · exact h
    exact memoryOk_frame (memoryOk_frame hs1)
  · exact memoryOk_frame (memoryOk_frame h)
  · exact h

theorem memoryOk_turnAway {s p} (h : MemoryOk s) : MemoryOk (turnAway s p) := by
  unfold turnAway
  split
  · exact memoryOk_finish (memoryOk_frame h)
  · exact h

theorem memoryOk_detach {s j} (h : MemoryOk s) : MemoryOk (detach s j) := by
  unfold detach
  extract_lets _ s1 s2 s3
  have hs1 : MemoryOk s1 := memoryOk_ite
      (memoryOk_sendTwin (memoryOk_foldl _ (fun _ _ => memoryOk_handOver) _ _ h))
      (memoryOk_foldl _ (fun _ _ => memoryOk_turnAway) _ _ h)
  have hs2 : MemoryOk s2 := memoryOk_frame hs1
  have hs3 : MemoryOk s3 := memoryOk_foldl _ (fun _ _ hu => memoryOk_ite hu (memoryOk_linkTo hu)) _ _ hs2
  exact memoryOk_finish hs3

theorem memoryOk_detachDue {s} (h : MemoryOk s) : MemoryOk (detachDue s) := by
  unfold detachDue
  split
  · exact memoryOk_ite (memoryOk_detach h) h
  · exact h

theorem memoryOk_runDetach {j _e s} (h : MemoryOk s) : MemoryOk (runDetach j _e s) :=
  memoryOk_exclusively (fun hu => memoryOk_detachDue (memoryOk_frame (memoryOk_setBody hu))) h

theorem ansOk_execDetachPrepare {st s} (h : MemoryOk s) : AnsOk (execDetachPrepare st s) := ansOk_startEntry memoryOk_runDetach h

theorem memoryOk_tick {s} (h : MemoryOk s) : MemoryOk (tick s) := memoryOk_detachDue (memoryOk_takeoverDue (memoryOk_idle h))

/-! ### Tensor links and messages (Machine/Links) -/

theorem ansOk_execCharacteristicFrameSend {n s} (h : MemoryOk s) : AnsOk (execCharacteristicFrameSend n s) :=
  ansOk_ite (.next (memoryOk_frame h)) (.next h)

theorem memoryOk_linkUp {s n p} (h : MemoryOk s) : MemoryOk (linkUp s n p) := by
  unfold linkUp
  split
  · exact h
  · exact memoryOk_twinBack (memoryOk_setLinkState (memoryOk_frame (memoryOk_frame h)))

theorem memoryOk_admitLink {s n p} (h : MemoryOk s) : MemoryOk (admitLink s n p) := by
  unfold admitLink
  split
  · exact memoryOk_linkUp h
  · exact memoryOk_setLinkState (memoryOk_frame h)

theorem memoryOk_discover {s n p heard} (h : MemoryOk s) : MemoryOk (discover s n p heard) :=
  memoryOk_ite (memoryOk_admitLink (memoryOk_frame h)) (memoryOk_frame h)

theorem memoryOk_frameUp {s n p heard} (h : MemoryOk s) : MemoryOk (frameUp s n p heard) := by
  unfold frameUp
  split
  · exact memoryOk_ite (memoryOk_frame h) (memoryOk_discover (memoryOk_frame (memoryOk_linkTo h)))
  · exact h

theorem ansOk_execCharacteristicFrame {n f s} (h : MemoryOk s) : AnsOk (execCharacteristicFrame n f s) := by
  unfold execCharacteristicFrame
  refine ansOk_ite (.next h) ?_
  extract_lets
  refine .next ?_
  split
  · exact memoryOk_discover (memoryOk_frame h)
  · exact memoryOk_frameUp (memoryOk_frame h)
  · exact memoryOk_admitLink (memoryOk_frame h)

theorem ansOk_execLinkSignalDetect {n s} (h : MemoryOk s) : AnsOk (execLinkSignalDetect n s) :=
  ansOk_ite (.next (memoryOk_setLinkState h)) (.next h)

theorem ansOk_execLinkTrained {n lg0 lg1 s} (h : MemoryOk s) : AnsOk (execLinkTrained n lg0 lg1 s) := by
  unfold execLinkTrained
  refine ansOk_ite (.next h) ?_
  extract_lets _ s1
  have hs1 : MemoryOk s1 := memoryOk_ite (memoryOk_ite h (memoryOk_retireLane h)) <|
    memoryOk_retireLane (memoryOk_ite h (memoryOk_retireLane h))
  exact .next (memoryOk_ite hs1 (memoryOk_linkTo hs1))

theorem ansOk_execLinkTrainTimeout {n s} (h : MemoryOk s) : AnsOk (execLinkTrainTimeout n s) :=
  ansOk_ite (.next (memoryOk_linkTo h)) (.next h)

theorem ansOk_execLinkSilenceTimeout {n s} (h : MemoryOk s) : AnsOk (execLinkSilenceTimeout n s) := by
  unfold execLinkSilenceTimeout
  split
  · exact .next (memoryOk_linkTo h)
  · exact .next (memoryOk_linkTo h)
  · exact .next (memoryOk_frame h)
  · exact .next h

theorem ansOk_execLinkSignalLoss {n s} (h : MemoryOk s) : AnsOk (execLinkSignalLoss n s) :=
  ansOk_ite (.next (memoryOk_linkTo h)) (.next h)

theorem ansOk_execFlitNak {n s} (h : MemoryOk s) : AnsOk (execFlitNak n s) :=
  ansOk_ite (.next h) <| ansOk_ite
    (.next (memoryOk_linkEvents (memoryOk_frame (memoryOk_frame h))))
    (.next (memoryOk_retrainLink (memoryOk_frame h)))

theorem ansOk_execTlErrCntClr {n s} (h : MemoryOk s) : AnsOk (execTlErrCntClr n s) := ansOk_gate h (.next (memoryOk_frame h))

theorem ansOk_execMemberMessageSend {s} (h : MemoryOk s) : AnsOk (execMemberMessageSend s) :=
  ansOk_ite (.next h) (.next (memoryOk_foldl _ (fun _ _ => memoryOk_sendOn) _ _ (memoryOk_frame (memoryOk_frame h))))

theorem ansOk_execMemberMessage {p rows s} (h : MemoryOk s) : AnsOk (execMemberMessage p rows s) :=
  ansOk_ite (.next h) (.next (memoryOk_foldl _ (fun _ _ hu => memoryOk_ite hu (memoryOk_frame hu)) _ _ h))

theorem memoryOk_relay {s m} (h : MemoryOk s) : MemoryOk (relay s m) := by
  unfold relay
  split
  · exact h
  · exact memoryOk_postMsg h

theorem memoryOk_after {s a} (h : MemoryOk s) (ha : AnsOk a) : MemoryOk (after s a) := by
  cases ha with
  | next ht => exact ht
  | fault r => exact h
  | refused r => exact h

theorem memoryOk_remoteAccess {s m write} (h : MemoryOk s) : MemoryOk (remoteAccess s m write) := by
  unfold remoteAccess
  extract_lets
  split
  · exact memoryOk_after h (ansOk_execRemoteAccess h)
  · exact memoryOk_after h (ansOk_execHbmWindowAccess h)

theorem memoryOk_deliverMsg {k s m} (h : MemoryOk s) : MemoryOk (deliverMsg k s m) :=
  memoryOk_ite (memoryOk_relay h) <|
  memoryOk_ite (memoryOk_ite (memoryOk_takeLoad h) h) <| memoryOk_ite (memoryOk_partnerIssued h) <| memoryOk_ite
    (memoryOk_ite (memoryOk_unpair h) (memoryOk_takeoverDue (memoryOk_takeOver h)))
    (memoryOk_ite (memoryOk_takeToken h) <| memoryOk_ite (memoryOk_after h (ansOk_execArrive h)) <|
    memoryOk_ite (memoryOk_after h (ansOk_execRelease h)) <| memoryOk_ite (memoryOk_remoteAccess h) <|
    memoryOk_ite (memoryOk_remoteAccess h) <| memoryOk_ite (memoryOk_after h (ansOk_execTwinLogEntry h)) <|
    memoryOk_ite (memoryOk_after h (ansOk_execTwinCheckpoint h)) <|
    memoryOk_ite (memoryOk_after h (ansOk_execWrittenNotice h)) <|
    memoryOk_ite (memoryOk_after h (ansOk_execCheckpointAck h)) <|
    memoryOk_ite (memoryOk_after h (ansOk_execGraphLaunchMessage h)) <|
    memoryOk_ite (memoryOk_after h (ansOk_execMemberMessage h)) <|
    memoryOk_ite (memoryOk_after h (ansOk_execBundleMemberReport h)) <|
    memoryOk_ite (memoryOk_after h (ansOk_execBundleMemberCommit h)) h)

theorem memoryOk_deliverRun {k f s} (h : MemoryOk s) : MemoryOk (deliverRun k f s) := by
  induction f generalizing s with
  | zero => exact h
  | succ f ih =>
    unfold deliverRun
    split
    · exact h
    · split
      · exact h
      · exact ih (memoryOk_deliverMsg (memoryOk_frame h))

theorem memoryOk_takeAck {s k q seq} (h : MemoryOk s) : MemoryOk (takeAck s k q seq) := memoryOk_sendHeld (memoryOk_frame h)

theorem memoryOk_takeMsg {s k q m} (h : MemoryOk s) : MemoryOk (takeMsg s k q m) := by
  unfold takeMsg
  extract_lets
  split
  · exact memoryOk_frame (memoryOk_deliverRun (memoryOk_frame h))
  · exact memoryOk_deliverRun (memoryOk_frame h)

theorem ansOk_execMessage {n m s} (h : MemoryOk s) : AnsOk (execMessage n m s) := by
  unfold execMessage
  split
  · exact .next h
  · extract_lets
    split
    · exact .next (memoryOk_frame h)
    · exact .next (memoryOk_ite (memoryOk_takeAck (memoryOk_frame h)) (memoryOk_takeMsg (memoryOk_frame h)))

theorem memoryOk_switchIn {s i} (h : MemoryOk s) : MemoryOk (switchIn s i) := by
  unfold switchIn
  refine memoryOk_ite h ?_
  split
  · exact h
  · exact memoryOk_ite (memoryOk_frame (memoryOk_frame h)) (memoryOk_frame h)

theorem memoryOk_markLost {s i} (h : MemoryOk s) : MemoryOk (markLost s i) :=
  memoryOk_ite h <|
  memoryOk_switchIn (memoryOk_memberLostLoads (memoryOk_endRemote (memoryOk_endTransfers (memoryOk_frame h))))

theorem ansOk_execMemberHeartbeatTimeout {i s} (h : MemoryOk s) : AnsOk (execMemberHeartbeatTimeout i s) :=
  ansOk_ite (.next (memoryOk_markLost h)) (.next h)

theorem memoryOk_takeFog {s p f} (h : MemoryOk s) : MemoryOk (takeFog s p f) := by
  unfold takeFog
  extract_lets _ _ _ _ _ _ s1
  have hs1 : MemoryOk s1 := memoryOk_fire <|
    memoryOk_flog (memoryOk_foldl _ (fun _ _ => memoryOk_frame) _ _ (memoryOk_frame h))
  exact memoryOk_ite h (memoryOk_takeoverDue (memoryOk_markLost (memoryOk_ite (memoryOk_takeOver hs1) hs1)))

theorem ansOk_execFogMessage {p f s} (h : MemoryOk s) : AnsOk (execFogMessage p f s) :=
  ansOk_ite (.next h) (.next (memoryOk_takeFog h))

theorem memoryOk_recheckLink {s n} (h : MemoryOk s) : MemoryOk (recheckLink s n) := by
  unfold recheckLink
  extract_lets
  split
  · exact h
  · refine memoryOk_ite (memoryOk_admitLink h) ?_
    refine memoryOk_ite ?_ h
    split
    · exact h
    · exact memoryOk_setLinkState (memoryOk_frame (memoryOk_leavePort h))

theorem memoryOk_runJoin {j e s} (h : MemoryOk s) : MemoryOk (runJoin j e s) :=
  memoryOk_exclusively
    (fun hu =>
      memoryOk_checkThen
        (fun hv =>
          memoryOk_foldl _ (fun _ _ => memoryOk_recheckLink) _ _ <|
          memoryOk_frame (memoryOk_frame (memoryOk_frame (memoryOk_setBody hv))))
        hu)
    h

theorem ansOk_execCascadeJoin {st s} (h : MemoryOk s) : AnsOk (execCascadeJoin st s) := ansOk_startEntry memoryOk_runJoin h

theorem ansOk_execCascadeJoinSettled {s} (h : MemoryOk s) : AnsOk (execCascadeJoinSettled s) := by
  unfold execCascadeJoinSettled
  split
  · exact .next h
  · exact .next (memoryOk_finish (memoryOk_frame h))

/-! ### Power input (Machine/PowerIn) -/

theorem memoryOk_alertOn {s} (h : MemoryOk s) : MemoryOk (alertOn s) :=
  memoryOk_fire (memoryOk_frame (memoryOk_frame (memoryOk_freeLenders (memoryOk_recallAll h))))

theorem ansOk_execPwrAlertAssert {s} (h : MemoryOk s) : AnsOk (execPwrAlertAssert s) :=
  ansOk_ite (.next (memoryOk_frame h)) (ansOk_ite (.next h) (.next (memoryOk_alertOn (memoryOk_frame h))))

theorem ansOk_execPwrAlertDeassert {s} (h : MemoryOk s) : AnsOk (execPwrAlertDeassert s) :=
  ansOk_ite (.next (memoryOk_frame h)) <|
  ansOk_ite (.next h) (.next (memoryOk_fire (memoryOk_frame (memoryOk_frame h))))

theorem ansOk_execGrantResume {s} (h : MemoryOk s) : AnsOk (execGrantResume s) := ansOk_ite (.next h) (.next (memoryOk_frame h))

theorem ansOk_execInputLow {s} (h : MemoryOk s) : AnsOk (execInputLow s) :=
  ansOk_ite (.next (memoryOk_fatal (memoryOk_alertOn h))) (.next h)

theorem ansOk_execInputBelow46V {s} (h : MemoryOk s) : AnsOk (execInputBelow46V s) := ansOk_ite (.next (memoryOk_fatal h)) (.next h)

theorem ansOk_execInputHigh {s} (h : MemoryOk s) : AnsOk (execInputHigh s) :=
  ansOk_ite (.next (memoryOk_fire (memoryOk_frame h))) (.next h)

theorem memoryOk_switchOpen {s} (h : MemoryOk s) : MemoryOk (switchOpen s) := memoryOk_offState h

theorem ansOk_execInputUndervoltage {s} (h : MemoryOk s) : AnsOk (execInputUndervoltage s) :=
  ansOk_ite (.next (memoryOk_switchOpen h)) (.next h)

theorem ansOk_execInputOvervoltage {s} (h : MemoryOk s) : AnsOk (execInputOvervoltage s) :=
  ansOk_ite (.next (memoryOk_switchOpen h)) (.next h)

theorem ansOk_execOvercurrent {s} (h : MemoryOk s) : AnsOk (execOvercurrent s) := ansOk_ite (.next (memoryOk_fatal h)) (.next h)

theorem ansOk_execThermalTrip {d tj s} (h : MemoryOk s) : AnsOk (execThermalTrip d tj s) :=
  ansOk_ite (.next (memoryOk_fatal (memoryOk_thermLim (memoryOk_frame h)))) (.next h)

theorem memoryOk_powerUp {t s} (h : MemoryOk s) : MemoryOk (powerUp t s) := memoryOk_frame (memoryOk_offState h)

theorem ansOk_execPowerOn {t s} (h : MemoryOk s) : AnsOk (execPowerOn t s) :=
  ansOk_ite (.next h) (.next (memoryOk_romStage (memoryOk_powerUp h)))

theorem ansOk_execPwrEnDeassert {s} (h : MemoryOk s) : AnsOk (execPwrEnDeassert s) :=
  ansOk_ite (.next (memoryOk_frame h)) <| .next <| memoryOk_powerDown <|
  memoryOk_ite (memoryOk_alertOn (memoryOk_frame h)) (memoryOk_fogOut (memoryOk_alertOn (memoryOk_frame h)))

theorem ansOk_execPllLockLoss {s} (h : MemoryOk s) : AnsOk (execPllLockLoss s) :=
  ansOk_ite (.next h) (.next (memoryOk_resetLevel4 (memoryOk_frame (memoryOk_frame h))))

theorem ansOk_execPllRelock {s} (h : MemoryOk s) : AnsOk (execPllRelock s) :=
  ansOk_ite (.next h) (.next (memoryOk_romStage (memoryOk_frame (memoryOk_frame h))))

theorem ansOk_execPerstAssert {s} (h : MemoryOk s) : AnsOk (execPerstAssert s) :=
  ansOk_ite (.next (memoryOk_frame h)) (.next (memoryOk_resetLevel4 (memoryOk_frame h)))

/-! ### Boot and recovery (Machine/Boot) -/

theorem memoryOk_programPage {s page owner data} (h : MemoryOk s) : MemoryOk (programPage s page owner data) := by
  unfold programPage
  split
  · exact memoryOk_frame h
  · exact memoryOk_frame h

theorem memoryOk_finishImage {s} (h : MemoryOk s) : MemoryOk (finishImage s) :=
  memoryOk_ite (memoryOk_frame h) <|
  memoryOk_ite (memoryOk_frame h) (memoryOk_resetLevel4 (memoryOk_frame (memoryOk_frame (memoryOk_frame h))))

theorem ansOk_recWrite {op s} (h : MemoryOk s) : AnsOk (recWrite op s) := ansOk_gate h (.next (memoryOk_frame h))

theorem memoryOk_applyRec {s x1} (h : MemoryOk s) : MemoryOk (applyRec s x1) := by
  unfold applyRec
  split
  · exact memoryOk_programPage h
  · exact memoryOk_finishImage h
  · exact memoryOk_frame h

theorem ansOk_execRecOperationDone {s} (h : MemoryOk s) : AnsOk (execRecOperationDone s) := by
  unfold execRecOperationDone
  split
  · exact .next h
  · exact .next (memoryOk_applyRec (memoryOk_frame h))

theorem ansOk_execDhcpLease {addr s} (h : MemoryOk s) : AnsOk (execDhcpLease addr s) :=
  ansOk_ite (.next (memoryOk_frame h)) (.next h)

theorem ansOk_execDhcpLeaseTimeout {s} (h : MemoryOk s) : AnsOk (execDhcpLeaseTimeout s) :=
  ansOk_ite (.next (memoryOk_frame h)) (.next h)

theorem ansOk_execTftpWriteRequest {name blksize s} (h : MemoryOk s) : AnsOk (execTftpWriteRequest name blksize s) :=
  ansOk_ite (.next h) <| ansOk_ite (.next (memoryOk_frame h)) <|
  ansOk_ite (.next (memoryOk_frame h)) (.next (memoryOk_frame (memoryOk_frame h)))

theorem memoryOk_programFull {s ps} (h : MemoryOk s) : MemoryOk (programFull s ps) :=
  memoryOk_foldl _
    (fun _ _ hu => memoryOk_ite (memoryOk_frame (memoryOk_programPage hu)) (memoryOk_frame hu)) _ _
    (memoryOk_frame h)

theorem ansOk_execTftpData {data last s} (h : MemoryOk s) : AnsOk (execTftpData data last s) :=
  ansOk_ite (.next h) <| ansOk_ite (.next (memoryOk_frame (memoryOk_frame h))) <| ansOk_ite
    (.next (memoryOk_finishImage (memoryOk_programFull (memoryOk_frame h))))
    (.next (memoryOk_programFull (memoryOk_frame h)))

theorem ansOk_execEnrol {index s} (h : MemoryOk s) : AnsOk (execEnrol index s) := by
  unfold execEnrol
  refine ansOk_gate h ?_
  split
  · exact .next (memoryOk_frame h)
  · exact .next (memoryOk_frame h)

theorem ansOk_execRevoke {index s} (h : MemoryOk s) : AnsOk (execRevoke index s) := by
  unfold execRevoke
  refine ansOk_gate h ?_
  split
  · exact .next (memoryOk_frame h)
  · exact .next (memoryOk_frame h)

theorem memoryOk_applySec {s x1} (h : MemoryOk s) : MemoryOk (applySec s x1) := by
  unfold applySec
  split
  · exact memoryOk_frame h
  · exact memoryOk_frame h
  · exact memoryOk_frame h

theorem ansOk_execSecOperationDone {s} (h : MemoryOk s) : AnsOk (execSecOperationDone s) := by
  unfold execSecOperationDone
  split
  · exact .next h
  · exact .next (memoryOk_applySec (memoryOk_frame h))

theorem ansOk_execKeysLock {s} (h : MemoryOk s) : AnsOk (execKeysLock s) := ansOk_gate h (.next (memoryOk_frame h))

theorem ansOk_execChallenge {s} (h : MemoryOk s) : AnsOk (execChallenge s) := ansOk_gate h (.next (memoryOk_frame h))

theorem ansOk_execDebugUnlock {s} (h : MemoryOk s) : AnsOk (execDebugUnlock s) := ansOk_gate h (.next (memoryOk_frame h))

theorem ansOk_execDebugLock {s} (h : MemoryOk s) : AnsOk (execDebugLock s) :=
  ansOk_gate h (.next (memoryOk_frame (memoryOk_frame h)))

/-! ### Management targets (Machine/Mgmt) -/

theorem ansOk_execPowerStateChange {d3 s} (h : MemoryOk s) : AnsOk (execPowerStateChange d3 s) :=
  ansOk_gate h (.next (memoryOk_frame h))

theorem ansOk_execUdpTelemetryRequest {datagram s} (h : MemoryOk s) : AnsOk (execUdpTelemetryRequest datagram s) := by
  unfold execUdpTelemetryRequest
  split
  · exact ansOk_ite (.next (memoryOk_frame h)) (.next h)
  · exact .next h

theorem ansOk_execArpRequest {s} (h : MemoryOk s) : AnsOk (execArpRequest s) := ansOk_ite (.next (memoryOk_frame h)) (.next h)

theorem ansOk_execIcmpEchoRequest {data s} (h : MemoryOk s) : AnsOk (execIcmpEchoRequest data s) :=
  ansOk_ite (.next (memoryOk_frame h)) (.next h)

theorem ansOk_execI3cAddressAssignment {bus addr s} (h : MemoryOk s) : AnsOk (execI3cAddressAssignment bus addr s) :=
  ansOk_gate h (.next (memoryOk_frame h))

theorem ansOk_execI3cPrivateWrite {bus data s} (h : MemoryOk s) : AnsOk (execI3cPrivateWrite bus data s) := by
  unfold execI3cPrivateWrite
  split
  · exact ansOk_gate h (.next (memoryOk_frame h))
  · exact .next h

theorem ansOk_execI3cPrivateRead {bus len s} (h : MemoryOk s) : AnsOk (execI3cPrivateRead bus len s) :=
  ansOk_gate h (.next (memoryOk_frame h))

/-! ### The BAR4 aperture (Machine/Aperture) -/

theorem ansOk_execApSegWrite {seg v s} (h : MemoryOk s) : AnsOk (execApSegWrite seg v s) :=
  ansOk_gate h (ansOk_ite (.next (memoryOk_frame h)) (.next (memoryOk_frame h)))

theorem ansOk_execBar4Resize {log2 s} (h : MemoryOk s) : AnsOk (execBar4Resize log2 s) :=
  ansOk_ite (.next h) (.next (memoryOk_frame h))

theorem memoryOk_readPoison {s k n} (h : MemoryOk s) : MemoryOk (readPoison s k n) :=
  memoryOk_foldl _ (fun _ _ hu => memoryOk_ite (memoryOk_flog hu) hu) _ _ h

theorem memoryOk_apertureCross {s k n write} (h : MemoryOk s) : MemoryOk (apertureCross s k n write) :=
  memoryOk_ite (memoryOk_crossArcs h) (memoryOk_crossArcs h)

theorem memoryOk_readPart {a p} (h : MemoryOk a.1) : MemoryOk (readPart a p).1 := by
  unfold readPart
  split
  · exact memoryOk_frame h
  · exact memoryOk_apertureCross (memoryOk_readPoison (memoryOk_eccAt h))

theorem ansOk_execBar4Read {off len s} (h : MemoryOk s) : AnsOk (execBar4Read off len s) :=
  ansOk_gate h (.next (memoryOk_frame (memoryOk_fst_foldl (fun _ _ => memoryOk_readPart) _ _ h)))

theorem memoryOk_writePart {a p} (h : MemoryOk a.1) : MemoryOk (writePart a p).1 := by
  unfold writePart
  split
  · exact memoryOk_frame h
  · exact memoryOk_apertureCross (memoryOk_storeClean h _ _)

theorem ansOk_execBar4Write {off data s} (h : MemoryOk s) : AnsOk (execBar4Write off data s) :=
  ansOk_gate h (.next (memoryOk_fst_foldl (fun _ _ => memoryOk_writePart) _ _ h))

theorem ansOk_execBar0ImproperAccess {write off width s} (h : MemoryOk s) : AnsOk (execBar0ImproperAccess write off width s) :=
  ansOk_ite (.next h) (.next (memoryOk_ite (memoryOk_frame h) (memoryOk_frame (memoryOk_frame h))))

theorem ansOk_execGlbCountsCntClr {s} (h : MemoryOk s) : AnsOk (execGlbCountsCntClr s) := ansOk_gate h (.next (memoryOk_frame h))

theorem ansOk_execDebugFetch {a s} (h : MemoryOk s) : AnsOk (execDebugFetch a s) := by
  unfold execDebugFetch
  refine ansOk_gate h ?_
  split
  · exact .next (memoryOk_frame h)
  · exact .next (memoryOk_frame h)

theorem ansOk_execDebugFetchDone {s} (h : MemoryOk s) : AnsOk (execDebugFetchDone s) :=
  ansOk_ite (.next h) (ansOk_ite (.next (memoryOk_frame h)) (.next (memoryOk_frame h)))

/-! ### Register writes (Machine/Registers) -/

theorem ansOk_andThen {a f} (ha : AnsOk a) (hf : ∀ {u}, MemoryOk u → AnsOk (f u)) : AnsOk (andThen a f) := by
  cases ha with
  | next ht => exact hf ht
  | fault r => exact .fault r
  | refused r => exact .refused r

theorem ansOk_twoHalves {w lo hi s} (hlo : ∀ {u}, MemoryOk u → AnsOk (lo u)) (hhi : ∀ {u}, MemoryOk u → AnsOk (hi u)) (h : MemoryOk s) :
    AnsOk (twoHalves w lo hi s) :=
  ansOk_andThen (ansOk_ite (hlo h) (.next h)) (fun hu => ansOk_ite (hhi hu) (.next hu))

theorem ansOk_onBit {w n s a} (h : MemoryOk s) (ha : AnsOk a) : AnsOk (onBit w n s a) := ansOk_ite ha (.next h)

theorem memoryOk_writeDmaStatus {s e w} (h : MemoryOk s) : MemoryOk (writeDmaStatus s e w) :=
  memoryOk_frame (memoryOk_foldl _ (fun _ _ => memoryOk_frame) _ _ h)

theorem ansOk_writeEngine {e o w s} (h : MemoryOk s) : AnsOk (writeEngine e o w s) :=
  ansOk_gate h <| ansOk_ite (.next (memoryOk_writeDmaStatus h)) <|
  ansOk_ite (ansOk_onBit h (ansOk_execDmaCountsCntClr h)) <| ansOk_ite
    (ansOk_twoHalves ansOk_execDmaChannelTail ansOk_execDmaChannelEnable h)
    (ansOk_ite (.next (memoryOk_frame h)) (.next h))

theorem ansOk_writeGlbReset {w s} (h : MemoryOk s) : AnsOk (writeGlbReset w s) := by
  unfold writeGlbReset
  refine ansOk_ite (.next (memoryOk_frame h)) ?_
  split
  · exact ansOk_execFunctionLevelReset h
  · exact ansOk_execWarmReset h
  · exact ansOk_execDieReset h
  · exact ansOk_execColdReset h
  · exact .next (memoryOk_frame h)

theorem ansOk_writeMsix {o w s} (h : MemoryOk s) : AnsOk (writeMsix o w s) :=
  ansOk_ite (.next (memoryOk_frame h)) <| ansOk_twoHalves (fun hu => .next (memoryOk_frame hu))
    (fun hu => ansOk_ite (.next (memoryOk_frame hu)) (ansOk_execMsixVectorUnmask hu))
    h

theorem ansOk_writeRecCtrl {w s} (h : MemoryOk s) : AnsOk (writeRecCtrl w s) := by
  unfold writeRecCtrl
  split
  · exact ansOk_recWrite h
  · exact ansOk_recWrite h
  · exact ansOk_recWrite h
  · exact .next h

theorem ansOk_writeSecCtrl {w s} (h : MemoryOk s) : AnsOk (writeSecCtrl w s) := by
  unfold writeSecCtrl
  extract_lets
  split
  · exact ansOk_execEnrol h
  · exact ansOk_execRevoke h
  · exact ansOk_execKeysLock h
  · exact ansOk_execChallenge h
  · exact ansOk_execDebugUnlock h
  · exact ansOk_execDebugLock h
  · exact .next h

theorem ansOk_writeCpKill {w s} (h : MemoryOk s) : AnsOk (writeCpKill w s) :=
  List.foldlRecOn _ _ (motive := AnsOk) (.next h) fun _ ha _ _ => ansOk_andThen ha ansOk_execKill

theorem ansOk_writeCp {o w s} (h : MemoryOk s) : AnsOk (writeCp o w s) :=
  ansOk_ite (.next (memoryOk_frame h)) <| ansOk_ite
    (ansOk_twoHalves (fun hu => .next (memoryOk_frame hu)) (fun hu => ansOk_onBit hu (ansOk_execCpCapCntClr hu)) h)
    (ansOk_ite (.next (memoryOk_frame h)) (ansOk_ite (ansOk_writeCpKill h) (.next h)))

theorem ansOk_writeGlobal {o w s} (h : MemoryOk s) : AnsOk (writeGlobal o w s) := by
  unfold writeGlobal
  refine ansOk_ite (.next (memoryOk_frame h)) ?_
  refine ansOk_ite (ansOk_writeGlbReset h) ?_
  refine ansOk_ite (ansOk_onBit h (ansOk_execGlbCountsCntClr h)) ?_
  refine ansOk_ite ?_ ?_
  · extract_lets
    exact ansOk_execApSegWrite h
  · exact ansOk_ite (ansOk_writeMsix h) <|
      ansOk_ite (ansOk_writeRecCtrl h) <| ansOk_ite (ansOk_writeSecCtrl h) <| ansOk_ite (.next (memoryOk_frame h)) <|
      ansOk_ite (.next (memoryOk_frame h)) (ansOk_ite (ansOk_writeEngine h) (ansOk_ite (ansOk_writeCp h) (.next h)))

theorem ansOk_writeHqBlock {o w s} (h : MemoryOk s) : AnsOk (writeHqBlock o w s) :=
  ansOk_ite
    (ansOk_ite (ansOk_execQueueEnable h) (ansOk_execQueueDisable h))
    (ansOk_ite (.next (memoryOk_frame h)) <|
    ansOk_ite (.next (memoryOk_frame h)) <| ansOk_ite (ansOk_onBit h (ansOk_execHqCountsCntClr h)) <| ansOk_ite
      (ansOk_ite (ansOk_execHostRegionWrite h) (.next (memoryOk_frame h)))
      (ansOk_ite
        (ansOk_ite (ansOk_ite (ansOk_execFenceRegisterWrite h) (.next h)) (ansOk_execFenceRegisterWrite h))
        (.next h)))

theorem ansOk_writeKctl {k w s} (h : MemoryOk s) : AnsOk (writeKctl k w s) := ansOk_execKeeperTake (memoryOk_frame h)

theorem ansOk_writeEvq {v w s} (h : MemoryOk s) : AnsOk (writeEvq v w s) :=
  ansOk_ite
    (ansOk_execHostEventQueueHead (memoryOk_ite (memoryOk_frame h) h))
    (.next (memoryOk_ite (memoryOk_frame h) h))

theorem ansOk_writeEvrBlock {o w s} (h : MemoryOk s) : AnsOk (writeEvrBlock o w s) :=
  ansOk_ite (ansOk_twoHalves ansOk_execEvrDoorbell ansOk_execEvrFclr h) <|
  ansOk_ite (ansOk_onBit h (ansOk_execEvrStatusCntClr h)) <| ansOk_ite
    (ansOk_twoHalves ansOk_execEvrEnWrite ansOk_execEvrEnWrite h)
    (ansOk_ite
      (ansOk_twoHalves ansOk_execEvrPendWrite ansOk_execEvrPendWrite h)
      (ansOk_ite
        (ansOk_twoHalves (fun hu => .next (memoryOk_frame hu)) (fun hu => .next (memoryOk_frame hu)) h)
        (ansOk_ite
          (ansOk_ite (ansOk_writeKctl h) (ansOk_ite (ansOk_execEoi h) (.next h)))
          (ansOk_ite (ansOk_ite (ansOk_execHostEventQueueEnable h) (ansOk_writeEvq h)) (.next h)))))

theorem ansOk_writeBarReg {casc b w s} (h : MemoryOk s) : AnsOk (writeBarReg casc b w s) :=
  ansOk_ite (.next h) (ansOk_andThen (ansOk_execBarrierConfigWrite h) (fun hu => .next (memoryOk_frame hu)))

theorem ansOk_writeBcnBlock {o w s} (h : MemoryOk s) : AnsOk (writeBcnBlock o w s) :=
  ansOk_ite (ansOk_onBit h (ansOk_execBcnStatusCntClr h)) <|
  ansOk_ite (ansOk_writeBarReg h) (ansOk_ite (ansOk_writeBarReg h) (.next h))

theorem ansOk_writeQueueHi {t w s} (h : MemoryOk s) : AnsOk (writeQueueHi t w s) :=
  ansOk_ite (ansOk_execTileQueueEnable h) (.next (memoryOk_frame h))

theorem ansOk_writeTile {t o w s} (h : MemoryOk s) : AnsOk (writeTile t o w s) :=
  ansOk_ite (.next (memoryOk_frame h)) <| ansOk_ite (ansOk_onBit h (ansOk_execTileCountsCntClr h)) <| ansOk_ite
    (ansOk_twoHalves ansOk_execTileQueueTail ansOk_writeQueueHi h)
    (ansOk_ite (.next (memoryOk_frame h)) <| ansOk_ite (ansOk_onBit h (ansOk_execSpadCountsCntClr h)) <| ansOk_ite
      (ansOk_ite (ansOk_execHandleWrite h) (.next (memoryOk_writeHandle h)))
      (ansOk_ite
        (ansOk_ite (ansOk_execWindowWrite h) (.next (memoryOk_frame h)))
        (ansOk_ite (.next (memoryOk_frame h)) (.next h))))

theorem ansOk_writeDie {d o w s} (h : MemoryOk s) : AnsOk (writeDie d o w s) :=
  ansOk_gate h <|
  ansOk_ite (ansOk_onBit h (ansOk_execDcEccCntClr h)) <| ansOk_ite (ansOk_onBit h (ansOk_execSwpStatusCntClr h)) <|
  ansOk_ite (ansOk_onBit h (ansOk_execModeStatusCntClr h)) <| ansOk_ite (.next (memoryOk_frame h)) <| ansOk_ite
    (ansOk_ite (ansOk_execHbmWindowWrite h) (.next (memoryOk_frame h)))
    (ansOk_ite (ansOk_onBit h (ansOk_execCdcErrCntClr h)) <|
    ansOk_ite (ansOk_writeEngine h) (ansOk_ite (ansOk_writeTile h) (.next h)))

theorem ansOk_writeReady {o w s} (h : MemoryOk s) : AnsOk (writeReady o w s) :=
  ansOk_ite (ansOk_writeEvrBlock h) <|
  ansOk_ite (.next (memoryOk_frame h)) <| ansOk_ite (ansOk_onBit h (ansOk_execPwrCountsCntClr h)) <|
  ansOk_ite (.next (memoryOk_frame h)) <| ansOk_ite (ansOk_onBit h (ansOk_execAuditRequest h)) <|
  ansOk_ite (.next (memoryOk_frame h)) <| ansOk_ite (ansOk_writeBcnBlock h) <|
  ansOk_ite (ansOk_writeDie h) <| ansOk_ite (ansOk_onBit h (ansOk_execTlErrCntClr h)) <|
  ansOk_ite (ansOk_onBit h (ansOk_execArcStatusCntClr h)) (.next h)

theorem ansOk_writeSlot {o w s} (h : MemoryOk s) : AnsOk (writeSlot o w s) :=
  ansOk_ite (ansOk_writeGlobal h) <|
  ansOk_ite (ansOk_writeHqBlock h) <| ansOk_ite (ansOk_gate h (ansOk_writeHqBlock h)) <|
  ansOk_ite (ansOk_execDebugFetch h) (ansOk_gate h (ansOk_writeReady h))

theorem ansOk_execRegisterWrite {off wide v hw s} (h : MemoryOk s) : AnsOk (execRegisterWrite off wide v hw s) :=
  ansOk_ite (.next h) (ansOk_ite (.next (memoryOk_frame h)) (ansOk_writeSlot h))

/-! ### The host tier (Machine/Tier) -/

theorem memoryOk_runTierMap {j e s} (h : MemoryOk s) : MemoryOk (runTierMap j e s) :=
  memoryOk_checkThen (fun hu => memoryOk_finish (memoryOk_frame hu)) h

theorem ansOk_execHostTierMap {st s} (h : MemoryOk s) : AnsOk (execHostTierMap st s) := ansOk_startEntry memoryOk_runTierMap h

theorem memoryOk_parkPage {m x d a o s} (h : MemoryOk s) : MemoryOk (parkPage m x d a o s) :=
  memoryOk_hostWrite (memoryOk_eccAt h) _ _

theorem memoryOk_parkDie {m x slot r p} (h : MemoryOk r.1) : MemoryOk (parkDie m x slot r p).1 :=
  memoryOk_frame <| memoryOk_foldl _
    (fun _ _ hu => memoryOk_ite (memoryOk_writePte (memoryOk_parkPage hu)) (memoryOk_parkPage hu)) _ _
    h

theorem memoryOk_parkSeq {s q w o} (h : MemoryOk s) : MemoryOk (parkSeq s q w o) :=
  memoryOk_frame (memoryOk_fst_foldl (fun _ _ => memoryOk_parkDie) _ _ h)

theorem someOk_recallDie {m x slot d q s o} (h : MemoryOk s) : SomeOk (·.2.1) (recallDie m x slot d q s o) := by
  unfold recallDie
  extract_lets
  split
  · exact someOk_none
  · split
    · exact someOk_none
    · exact someOk_some <| memoryOk_foldl _
        (fun _ _ hu => memoryOk_ite (memoryOk_writePte (memoryOk_storeClean hu _ _)) (memoryOk_storeClean hu _ _)) _ _
        (memoryOk_frame h)

theorem someOk_recallDies {m x slot l s o} (h : MemoryOk s) : SomeOk (·.2) (recallDies m x slot l s o) := by
  induction l generalizing s o with
  | nil => exact someOk_some h
  | cons d r ih =>
    unfold recallDies
    split
    · exact someOk_none
    · next e => exact someOk_map Prod.snd (fun _ hp => hp) (ih (someOk_recallDie h _ e))

theorem someOk_recallSeq {s q} (h : MemoryOk s) : SomeOk (fun t => t) (recallSeq s q) := by
  unfold recallSeq
  split
  · exact someOk_none
  · exact someOk_map Prod.snd (fun _ hr => memoryOk_releasesDue (memoryOk_frame hr)) (someOk_recallDies h)

theorem ansOk_execRecallSequence {ra s} (h : MemoryOk s) : AnsOk (execRecallSequence ra s) := by
  unfold execRecallSequence
  split
  · exact .next h
  · next q _ =>
    refine ansOk_ite (.next ?_) (.next h)
    cases e : recallSeq s q with
    | none => exact h
    | some t => exact someOk_recallSeq h t e

theorem ansOk_execPark {ra w s} (h : MemoryOk s) : AnsOk (execPark ra w s) := by
  unfold execPark
  split
  · exact .next h
  · extract_lets
    refine ansOk_ite ?_ (.next h)
    split
    · exact .next (memoryOk_parkSeq h)
    · exact .next h

theorem memoryOk_copyOut {s g x} (h : MemoryOk s) : MemoryOk (copyOut s g x) := by
  unfold copyOut
  refine memoryOk_foldl _ (fun _ _ hu => ?_) _ _ h
  refine memoryOk_foldl _ (fun _ _ hv => ?_) _ _ hu
  split
  · exact hv
  · exact memoryOk_hostWrite (memoryOk_eccNote hv) _ _

theorem ansOk_execGenerationPark {slot gen w back s} (h : MemoryOk s) : AnsOk (execGenerationPark slot gen w back s) := by
  unfold execGenerationPark
  split
  · exact .next h
  · exact ansOk_ite
      (ansOk_ite (.next h) (.next (memoryOk_ite (memoryOk_frame (memoryOk_layWith h)) h)))
      (ansOk_ite (.next (memoryOk_frame (memoryOk_unseat (memoryOk_copyOut h)))) (.next h))

/-! ### The dispatch of commands (Machine/Dispatch) -/

/-- Every command keeps the canonical form of the memories. -/
theorem ansOk_exec {i s} (h : MemoryOk s) : AnsOk (exec i s) := by
  cases i with
  | queueEnable => exact ansOk_execQueueEnable h
  | queueDisable => exact ansOk_execQueueDisable h
  | queueIdle => exact ansOk_execQueueIdle h
  | hostRegionWrite => exact ansOk_execHostRegionWrite h
  | fenceRegisterWrite => exact ansOk_execFenceRegisterWrite h
  | sqDoorbell => exact ansOk_execSqDoorbell h
  | cqDoorbell => exact ansOk_execCqDoorbell h
  | fenceDoorbell => exact ansOk_execFenceDoorbell h
  | sqFetch => exact ansOk_execSqFetch h
  | completionWrite => exact ansOk_execCompletionWrite h
  | nop => exact ansOk_execNop h
  | kernel => exact ansOk_execKernel h
  | graph => exact ansOk_execGraph h
  | graphNodeStart => exact ansOk_execGraphNodeStart h
  | graphLaunchMessage => exact ansOk_execGraphLaunchMessage h
  | completionToken => exact ansOk_execCompletionToken h
  | dma => exact ansOk_execDma h
  | signal => exact ansOk_execSignal h
  | wait => exact ansOk_execWait h
  | waitTimeout => exact ansOk_execWaitTimeout h
  | branch => exact ansOk_execBranch h
  | branchPollDelay => exact ansOk_execBranchPollDelay h
  | loop => exact ansOk_execLoop h
  | call => exact ansOk_execCall h
  | ret => exact ansOk_execRet h
  | barrier => exact ansOk_execBarrier h
  | timestamp => exact ansOk_execTimestamp h
  | digest => exact ansOk_execDigest h
  | decodeLoop => exact ansOk_execDecodeLoop h
  | identify => exact ansOk_execIdentify h
  | attest => exact ansOk_execAttest h
  | bundleBegin => exact ansOk_execBundleBegin h
  | bundleChunk => exact ansOk_execBundleChunk h
  | bundleCommit => exact ansOk_execBundleCommit h
  | bundleMemberReport => exact ansOk_execBundleMemberReport h
  | bundleMemberCommit => exact ansOk_execBundleMemberCommit h
  | wsetSwitch => exact ansOk_execWsetSwitch h
  | modeRequest => exact ansOk_execModeRequest h
  | ringConfig => exact ansOk_execRingConfig h
  | cascadeJoin => exact ansOk_execCascadeJoin h
  | cascadeJoinSettled => exact ansOk_execCascadeJoinSettled h
  | twinPair => exact ansOk_execTwinPair h
  | twinPairTimeout => exact ansOk_execTwinPairTimeout h
  | powerPolicy => exact ansOk_execPowerPolicy h
  | clockPin => exact ansOk_execClockPin h
  | telemetry => exact ansOk_execTelemetry h
  | retire => exact ansOk_execRetire h
  | scrub => exact ansOk_execScrub h
  | scrubDone => exact ansOk_execScrubDone h
  | fwUpdate => exact ansOk_execFwUpdate h
  | reset => exact ansOk_execReset h
  | detachPrepare => exact ansOk_execDetachPrepare h
  | graphStore => exact ansOk_execGraphStore h
  | graphPatch => exact ansOk_execGraphPatch h
  | deltaLoad => exact ansOk_execDeltaLoad h
  | hostTierMap => exact ansOk_execHostTierMap h
  | timeTag => exact ansOk_execTimeTag h
  | faultPolicy => exact ansOk_execFaultPolicy h
  | tileQueueEnable => exact ansOk_execTileQueueEnable h
  | tileQueueTail => exact ansOk_execTileQueueTail h
  | todFetch => exact ansOk_execTodFetch h
  | todNop => exact ansOk_execTodNop h
  | mma => exact ansOk_execMma h
  | mmaT => exact ansOk_execMmaT h
  | dist => exact ansOk_execDist h
  | ashift => exact ansOk_execAshift h
  | softmax => exact ansOk_execSoftmax h
  | rmsnorm => exact ansOk_execRmsnorm h
  | glu => exact ansOk_execGlu h
  | rope => exact ansOk_execRope h
  | quant => exact ansOk_execQuant h
  | dequant => exact ansOk_execDequant h
  | topk => exact ansOk_execTopk h
  | ewise => exact ansOk_execEwise h
  | convert => exact ansOk_execConvert h
  | semSignal => exact ansOk_execSemSignal h
  | semWait => exact ansOk_execSemWait h
  | todBarrier => exact ansOk_execTodBarrier h
  | event => exact ansOk_execEvent h
  | qwait => exact ansOk_execQwait h
  | taskEnd => exact ansOk_execTaskEnd h
  | srkey => exact ansOk_execSrkey h
  | todComplete => exact ansOk_execTodComplete h
  | semRequest => exact ansOk_execSemRequest h
  | semSignalReport => exact ansOk_execSemSignalReport h
  | handleWrite => exact ansOk_execHandleWrite h
  | handleWriteRelease => exact ansOk_execHandleWriteRelease h
  | windowWrite => exact ansOk_execWindowWrite h
  | remoteAccess => exact ansOk_execRemoteAccess h
  | probe => exact ansOk_execProbe h
  | hbmWindowWrite => exact ansOk_execHbmWindowWrite h
  | hbmWindowAccess => exact ansOk_execHbmWindowAccess h
  | dmaChannelEnable => exact ansOk_execDmaChannelEnable h
  | dmaChannelTail => exact ansOk_execDmaChannelTail h
  | copy => exact ansOk_runDesc h
  | gather => exact ansOk_runDesc h
  | scatter => exact ansOk_runDesc h
  | fill => exact ansOk_runDesc h
  | pagewalk => exact ansOk_runDesc h
  | bond => exact ansOk_runDesc h
  | prefetch => exact ansOk_runDesc h
  | descriptorComplete => exact ansOk_execDescriptorComplete h
  | passBoundary => exact ansOk_execPassBoundary h
  | verifyPass => exact ansOk_execVerifyPass h
  | verifyPassCommit => exact ansOk_execVerifyPassCommit h
  | admission => exact ansOk_execAdmission h
  | prefillCommit => exact ansOk_execPrefillCommit h
  | park => exact ansOk_execPark h
  | recallSequence => exact ansOk_execRecallSequence h
  | generationPark => exact ansOk_execGenerationPark h
  | frameEmit => exact ansOk_execFrameEmit h
  | frameArrival => exact .next (memoryOk_frameArrives h)
  | frameTake => exact ansOk_execFrameTake h
  | runEntryPush => exact ansOk_execRunEntryPush h
  | genBuoy => exact .next (memoryOk_frameArrives h)
  | layerBuoy => exact .next (memoryOk_frameArrives h)
  | passEndBuoy => exact .next (memoryOk_frameArrives h)
  | gradFrame => exact ansOk_execGradFrame h
  | creditReturn => exact ansOk_execCreditReturn h
  | reRequest => exact ansOk_execReRequest h
  | resentCopy => exact ansOk_execResentCopy h
  | reRequestTimeout => exact .next (memoryOk_failAttempt h)
  | passComplete => exact ansOk_execPassComplete h
  | exchangePacket => exact ansOk_execExchangePacket h
  | exchangeComplete => exact ansOk_execExchangeComplete h
  | exchangeReRequest => exact ansOk_execExchangeReRequest h
  | exchangeResendTimeout => exact .next (memoryOk_xFail h)
  | governorEvaluation => exact ansOk_execGovernorEvaluation h
  | propose => exact ansOk_execPropose h
  | prepared => exact ansOk_execPrepared h
  | refused => exact ansOk_execRefused h
  | commit => exact ansOk_execCommit h
  | committed => exact ansOk_execCommitted h
  | settleComplete => exact ansOk_execSettleComplete h
  | abort => exact ansOk_execAbort h
  | reverted => exact ansOk_execReverted h
  | preparedDeadline => exact ansOk_execPreparedDeadline h
  | committedDeadline => exact ansOk_execCommittedDeadline h
  | revertedDeadline => exact ansOk_execRevertedDeadline h
  | heartbeatLoss => exact ansOk_execHeartbeatLoss h
  | arcFlitNak => exact ansOk_execArcFlitNak h
  | arcRetrainDone => exact ansOk_execArcRetrainDone h
  | auditRequest => exact ansOk_execAuditRequest h
  | conservationAudit => exact ansOk_execConservationAudit h
  | kill => exact ansOk_execKill h
  | watchdogExpiry => exact ansOk_execWatchdogExpiry h
  | barrierConfigWrite => exact ansOk_execBarrierConfigWrite h
  | barrierRoundComplete => exact ansOk_execBarrierRoundComplete h
  | beaconExchange => exact ansOk_execBeaconExchange h
  | arrive => exact ansOk_execArrive h
  | release => exact ansOk_execRelease h
  | cascadeReleaseTime => exact ansOk_execCascadeReleaseTime h
  | evrDoorbell => exact ansOk_execEvrDoorbell h
  | evrFclr => exact ansOk_execEvrFclr h
  | evrEnWrite => exact ansOk_execEvrEnWrite h
  | evrPendWrite => exact ansOk_execEvrPendWrite h
  | eventRouting => exact .next (memoryOk_routeCycle h)
  | keeperTake => exact ansOk_execKeeperTake h
  | eoi => exact ansOk_execEoi h
  | keeperWake => exact ansOk_execKeeperWake h
  | keeperSleep => exact .next (memoryOk_frame h)
  | hostEventQueueHead => exact ansOk_execHostEventQueueHead h
  | hostEventQueueEnable => exact ansOk_execHostEventQueueEnable h
  | msixVectorUnmask => exact ansOk_execMsixVectorUnmask h
  | linkSignalDetect => exact ansOk_execLinkSignalDetect h
  | linkTrained => exact ansOk_execLinkTrained h
  | linkTrainTimeout => exact ansOk_execLinkTrainTimeout h
  | characteristicFrame => exact ansOk_execCharacteristicFrame h
  | characteristicFrameSend => exact ansOk_execCharacteristicFrameSend h
  | linkSilenceTimeout => exact ansOk_execLinkSilenceTimeout h
  | linkSignalLoss => exact ansOk_execLinkSignalLoss h
  | flitNak => exact ansOk_execFlitNak h
  | message => exact ansOk_execMessage h
  | memberMessageSend => exact ansOk_execMemberMessageSend h
  | memberMessage => exact ansOk_execMemberMessage h
  | memberHeartbeatTimeout => exact ansOk_execMemberHeartbeatTimeout h
  | fogMessage => exact ansOk_execFogMessage h
  | twinLogEntry => exact ansOk_execTwinLogEntry h
  | twinCheckpoint => exact ansOk_execTwinCheckpoint h
  | checkpointAck => exact ansOk_execCheckpointAck h
  | writtenNotice => exact ansOk_execWrittenNotice h
  | fatalFault => exact ansOk_execFatalFault h
  | keeperWatchdog => exact ansOk_execKeeperWatchdog h
  | spineLoss => exact ansOk_execSpineLoss h
  | powerOn => exact ansOk_execPowerOn h
  | pwrEnDeassert => exact ansOk_execPwrEnDeassert h
  | pwrAlertAssert => exact ansOk_execPwrAlertAssert h
  | pwrAlertDeassert => exact ansOk_execPwrAlertDeassert h
  | grantResume => exact ansOk_execGrantResume h
  | inputUndervoltage => exact ansOk_execInputUndervoltage h
  | inputLow => exact ansOk_execInputLow h
  | inputHigh => exact ansOk_execInputHigh h
  | inputOvervoltage => exact ansOk_execInputOvervoltage h
  | overcurrent => exact ansOk_execOvercurrent h
  | grantInterval => exact ansOk_execGrantInterval h
  | drawSample => exact ansOk_execDrawSample h
  | loan => exact ansOk_execLoan h
  | loanRecall => exact ansOk_execLoanRecall h
  | cclkStepDown => exact ansOk_execCclkStepDown h
  | cclkStepUp => exact ansOk_execCclkStepUp h
  | junctionHot => exact ansOk_execJunctionHot h
  | junctionHotHold => exact ansOk_execJunctionHotHold h
  | junctionCritical => exact ansOk_execJunctionCritical h
  | thermalTrip => exact ansOk_execThermalTrip h
  | coolantInletHigh => exact ansOk_execCoolantInletHigh h
  | pllLockLoss => exact ansOk_execPllLockLoss h
  | pllRelock => exact ansOk_execPllRelock h
  | perstAssert => exact ansOk_execPerstAssert h
  | perstDeassert => exact .next (memoryOk_frame h)
  | functionLevelReset => exact ansOk_execFunctionLevelReset h
  | warmReset => exact ansOk_execWarmReset h
  | dieReset => exact ansOk_execDieReset h
  | dieResetComplete => exact ansOk_execDieResetComplete h
  | coldReset => exact ansOk_execColdReset h
  | program => exact ansOk_recWrite h
  | finish => exact ansOk_recWrite h
  | recoveryAbort => exact ansOk_recWrite h
  | tftpWriteRequest => exact ansOk_execTftpWriteRequest h
  | dhcpLeaseTimeout => exact ansOk_execDhcpLeaseTimeout h
  | enrol => exact ansOk_execEnrol h
  | revoke => exact ansOk_execRevoke h
  | keysLock => exact ansOk_execKeysLock h
  | challenge => exact ansOk_execChallenge h
  | debugUnlock => exact ansOk_execDebugUnlock h
  | debugLock => exact ansOk_execDebugLock h
  | debugFetch => exact ansOk_execDebugFetch h
  | debugFetchDone => exact ansOk_execDebugFetchDone h
  | apSegWrite => exact ansOk_execApSegWrite h
  | bar4Read => exact ansOk_execBar4Read h
  | bar4Write => exact ansOk_execBar4Write h
  | bar4Resize => exact ansOk_execBar4Resize h
  | bar0ImproperAccess => exact ansOk_execBar0ImproperAccess h
  | powerStateChange => exact ansOk_execPowerStateChange h
  | udpTelemetryRequest => exact ansOk_execUdpTelemetryRequest h
  | arpRequest => exact ansOk_execArpRequest h
  | icmpEchoRequest => exact ansOk_execIcmpEchoRequest h
  | i3cPrivateWrite => exact ansOk_execI3cPrivateWrite h
  | i3cPrivateRead => exact ansOk_execI3cPrivateRead h
  | i3cAddressAssignment => exact ansOk_execI3cAddressAssignment h
  | tileCountsCntClr => exact ansOk_execTileCountsCntClr h
  | spadCountsCntClr => exact ansOk_execSpadCountsCntClr h
  | dcEccCntClr => exact ansOk_execDcEccCntClr h
  | swpStatusCntClr => exact ansOk_execSwpStatusCntClr h
  | modeStatusCntClr => exact ansOk_execModeStatusCntClr h
  | cdcErrCntClr => exact ansOk_execCdcErrCntClr h
  | dmaCountsCntClr => exact ansOk_execDmaCountsCntClr h
  | hqCountsCntClr => exact ansOk_execHqCountsCntClr h
  | cpCapCntClr => exact ansOk_execCpCapCntClr h
  | evrStatusCntClr => exact ansOk_execEvrStatusCntClr h
  | bcnStatusCntClr => exact ansOk_execBcnStatusCntClr h
  | tlErrCntClr => exact ansOk_execTlErrCntClr h
  | pwrCountsCntClr => exact ansOk_execPwrCountsCntClr h
  | glbCountsCntClr => exact ansOk_execGlbCountsCntClr h
  | arcStatusCntClr => exact ansOk_execArcStatusCntClr h
  | registerWrite => exact ansOk_execRegisterWrite h
  | heartbeat => exact ansOk_execHeartbeat h
  | recOperationDone => exact ansOk_execRecOperationDone h
  | secOperationDone => exact ansOk_execSecOperationDone h
  | moduleReady => exact ansOk_execModuleReady h
  | inputBelow46V => exact ansOk_execInputBelow46V h
  | dhcpLease => exact ansOk_execDhcpLease h
  | tftpData => exact ansOk_execTftpData h

/-! ### The step (Machine/Step) -/

theorem ansOk_step {s} (h : MemoryOk s) : AnsOk (step s) := by
  cases e : s.pending with
  | nil => exact step_nil e ▸ .next (memoryOk_tick h)
  | cons c r => exact step_cons e ▸ ansOk_exec (memoryOk_frame h)

/-- Settles O2: each operation on the memories keeps their form, each command is composed of such operations, and a change of any other
field leaves the memories alone. -/
theorem everyStepKeepsMemoryCanonical : Obligations.EveryStepKeepsMemoryCanonical := by
  intro s t hs e
  have ha : AnsOk (step s) := ansOk_step hs
  rw [e] at ha
  cases ha with
  | next ht => exact ht

end Sys2Proof.Machine
end

section
/-! The values after reset (O3): each is read off `State.reset`, which the kernel evaluates; the form of the memories is
`memoryOk_reset`. -/

namespace Sys2Proof.Machine

theorem reset_tile_widths (t : Nat) :
    (State.reset.tiles.get t).w0 = 128 ∧ (State.reset.tiles.get t).w1 = 128 ∧ (State.reset.tiles.get t).sems = [] := ⟨rfl, rfl, rfl⟩

theorem reset_source_disabled (n : Nat) :
    (State.reset.evr.srcs.get n).prio = 15 ∧ (State.reset.evr.srcs.get n).en = false ∧ (State.reset.evr.srcs.get n).pend = false :=
  ⟨rfl, rfl, rfl⟩

/-- Settles O3: the memories by `memoryOk_reset`, every register by evaluation of the reset state. -/
theorem resetLeavesSpecifiedValues : Obligations.ResetLeavesSpecifiedValues :=
  ⟨memoryOk_reset, rfl, rfl, rfl, rfl, rfl, rfl, rfl, rfl, reset_tile_widths, reset_source_disabled, fun _ => rfl, rfl, rfl, rfl, rfl, rfl⟩

end Sys2Proof.Machine
end

section
/-!
Register writes (O59). A write is followed in three layers: what it carries to its 8-byte slot (`regWr_wide`, `regWr_lower`,
`regWr_upper`), that it reaches `writeSlot` of its slot (`registerWrite_wide`, `registerWrite_lower`, `registerWrite_upper`), and the
slots of the obligation, each with one lemma about the block's own write function.
-/

namespace Sys2Proof.Machine

/-! ### What a write carries (R10, R546) -/

/-- A 64-bit write carries its value and the set bits as they are. -/
theorem regWr_wide (o : Nat) (v hw : W64) : regWr o true v hw = ⟨true, true, v, hw⟩ := rfl

/-- A 32-bit write of a lower half leaves the bits of the upper half 0. -/
theorem regWr_lower {o : Nat} (ho : o % 8 ≠ 4) (v hw : W64) :
    regWr o false v hw = ⟨true, false, (v.setWidth 32).setWidth 64, (hw.setWidth 32).setWidth 64⟩ := by
  have low (x : W64) : BitVec.ofNat 64 (x.toNat % 2 ^ 32) = (x.setWidth 32).setWidth 64 := BitVec.eq_of_toNat_eq (by simp)
  simp [regWr, ho, ← low]

/-- A 32-bit write of an upper half leaves the bits of the lower half 0. -/
theorem regWr_upper {o : Nat} (ho : o % 8 = 4) (v hw : W64) :
    regWr o false v hw = ⟨false, true, (v.setWidth 32).setWidth 64 <<< 32, (hw.setWidth 32).setWidth 64 <<< 32⟩ := by
  have high (x : W64) : BitVec.ofNat 64 (x.toNat % 2 ^ 32 * 2 ^ 32) = (x.setWidth 32).setWidth 64 <<< 32 :=
    BitVec.eq_of_toNat_eq (by simp [Nat.shiftLeft_eq])
  simp [regWr, ho, ← high]

/-- A register written in both halves takes the written value. -/
theorem regMerge_both (old v hw : W64) : regMerge old ⟨true, true, v, hw⟩ = v := by
  have hm : regMask ⟨true, true, v, hw⟩ = BitVec.allOnes 64 := by simp [regMask]
  rw [regMerge, hm, BitVec.not_allOnes, BitVec.and_zero, BitVec.zero_or, BitVec.and_allOnes]

theorem wLo_setWidth (v hw : W64) (lo hi : Bool) : wLo ⟨lo, hi, (v.setWidth 32).setWidth 64, hw⟩ = v.setWidth 32 :=
  BitVec.eq_of_toNat_eq (by simp [wLo, rfld, fld])

theorem wHi_shiftLeft (v hw : W64) (lo hi : Bool) : wHi ⟨lo, hi, (v.setWidth 32).setWidth 64 <<< 32, hw⟩ = v.setWidth 32 :=
  BitVec.eq_of_toNat_eq <| by
    simp only [wHi, rfld, fld, BitVec.toNat_shiftLeft, BitVec.toNat_setWidth, Nat.shiftLeft_eq, BitVec.toNat_ofNat]
    omega

theorem onBit_set {w : RegWr} {n : Nat} (h : rbit w.v n = true) (s : State) (a : Ans) : onBit w n s a = a := by simp [onBit, h]

theorem onBit_clear {w : RegWr} {n : Nat} (h : rbit w.v n = false) (s : State) (a : Ans) : onBit w n s a = .next s := by simp [onBit, h]

theorem andThen_next (a : Ans) : andThen a .next = a := by cases a <;> rfl

theorem twoHalves_lower {w : RegWr} (hlo : w.lo = true) (hhi : w.hi = false) (lo hi : State → Ans) (s : State) :
    twoHalves w lo hi s = lo s := by
  simp [twoHalves, hlo, hhi, andThen_next]

theorem twoHalves_upper {w : RegWr} (hlo : w.lo = false) (hhi : w.hi = true) (lo hi : State → Ans) (s : State) :
    twoHalves w lo hi s = hi s := by
  simp [twoHalves, hlo, hhi, andThen]

/-! ### Which slot a write reaches (R545, R548, R549) -/

theorem registerWrite_off {s : State} {o : Nat} (h : barOn s = false ∨ 0x4000000 ≤ o) (wide : Bool) (v hw : W64) :
    exec (.registerWrite o wide v hw) s = .next s := by
  have hout : (!barOn s || decide (0x4000000 ≤ o)) = true := by
    rcases h with h | h
    · rw [h, Bool.not_false, Bool.true_or]
    · rw [decide_eq_true h, Bool.or_true]
  exact if_pos hout

/-- The guard of a write to a BAR0 that answers, at an offset inside it. -/
theorem bar0_guard_false {s : State} {o : Nat} (hb : barOn s = true) (ho : o < 0x4000000) :
    ¬ (!barOn s || decide (0x4000000 ≤ o)) = true := by
  rw [hb, decide_eq_false (Nat.not_le_of_lt ho)]
  exact Bool.false_ne_true

theorem registerWrite_misaligned {s : State} {o : Nat} (wide : Bool) (hb : barOn s = true) (ho : o < 0x4000000)
    (ha : o % (if wide then 8 else 4) ≠ 0) (v hw : W64) : exec (.registerWrite o wide v hw) s = .next (accRefused s) := by
  change execRegisterWrite o wide v hw s = _
  rw [execRegisterWrite, if_neg (bar0_guard_false hb ho), if_pos ha]

theorem registerWrite_aligned {s : State} {o : Nat} (wide : Bool) (hb : barOn s = true) (ho : o < 0x4000000)
    (ha : o % (if wide then 8 else 4) = 0) (v hw : W64) :
    exec (.registerWrite o wide v hw) s = writeSlot (o / 8 * 8) (regWr o wide v hw) s := by
  change execRegisterWrite o wide v hw s = _
  rw [execRegisterWrite, if_neg (bar0_guard_false hb ho), if_neg (not_not_intro ha)]

theorem registerWrite_wide {s : State} {o : Nat} (hb : barOn s = true) (ho : o < 0x4000000) (ha : o % 8 = 0) (v hw : W64) :
    exec (.registerWrite o true v hw) s = writeSlot o ⟨true, true, v, hw⟩ s := by
  rw [registerWrite_aligned true hb ho ha, regWr_wide, Nat.div_mul_cancel (Nat.dvd_of_mod_eq_zero ha)]

theorem registerWrite_lower {s : State} {o : Nat} (hb : barOn s = true) (ho : o < 0x4000000) (ha : o % 8 = 0) (v hw : W64) :
    exec (.registerWrite o false v hw) s =
      writeSlot o ⟨true, false, (v.setWidth 32).setWidth 64, (hw.setWidth 32).setWidth 64⟩ s := by
  have h4 : o % 4 = 0 := by omega
  rw [registerWrite_aligned false hb ho h4, regWr_lower (by omega), Nat.div_mul_cancel (Nat.dvd_of_mod_eq_zero ha)]

theorem registerWrite_upper {s : State} {o : Nat} (hb : barOn s = true) (ho : o + 4 < 0x4000000) (ha : o % 8 = 0) (v hw : W64) :
    exec (.registerWrite (o + 4) false v hw) s =
      writeSlot o ⟨false, true, (v.setWidth 32).setWidth 64 <<< 32, (hw.setWidth 32).setWidth 64 <<< 32⟩ s := by
  have h4 : (o + 4) % 4 = 0 := by omega
  have hslot : (o + 4) / 8 * 8 = o := by omega
  rw [registerWrite_aligned false hb ho h4, regWr_upper (by omega), hslot]

theorem barOn_of_blockOn {s : State} (h : blockOn s = true) : barOn s = true := by
  simp only [blockOn, Bool.and_eq_true] at h
  exact h.2

theorem blockOn_of_dieBlockOn {s : State} {d : Nat} (h : dieBlockOn s d = true) : blockOn s = true := by
  simp only [dieBlockOn, Bool.and_eq_true] at h
  exact h.1

theorem writeSlot_global {o : Nat} (ho : o < 0x100000) (w : RegWr) (s : State) : writeSlot o w s = writeGlobal o w s := by
  simp [writeSlot, ho]

/-- The blocks beside the global one, the host-queue control and the debug block take no write while READY is 0. -/
theorem writeSlot_notReady {s : State} {o : Nat} (hs : blockOn s = false) (h : 0x100008 ≤ o) (hd : o ≠ 0x3000008) (w : RegWr) :
    writeSlot o w s = .next s := by
  have hlow : ¬ o < 0x100000 := by omega
  have hctl : o ≠ 0x100000 := by omega
  simp [writeSlot, hlow, hctl, hd, gate_off _ _ hs]

theorem writeSlot_hqBlock {s : State} {o : Nat} (hs : blockOn s = true) (h : 0x100008 ≤ o) (ho : o < 0x112000) (w : RegWr) :
    writeSlot o w s = writeHqBlock (o - 0x100000) w s := by
  have hlow : ¬ o < 0x100000 := by omega
  have hctl : o ≠ 0x100000 := by omega
  have hge : 0x100000 ≤ o := by omega
  simp [writeSlot, hlow, hctl, hge, ho, gate_on _ _ hs]

theorem writeSlot_ready {s : State} {o : Nat} (hs : blockOn s = true) (h : 0x112000 ≤ o) (hd : o ≠ 0x3000008) (w : RegWr) :
    writeSlot o w s = writeReady o w s := by
  have hlow : ¬ o < 0x100000 := by omega
  have hctl : o ≠ 0x100000 := by omega
  have hhq : ¬ o < 0x112000 := by omega
  simp [writeSlot, hlow, hctl, hhq, hd, gate_on _ _ hs]

theorem writeReady_evrBlock {o : Nat} (h : 0x200000 ≤ o) (ho : o < 0x204400) (w : RegWr) (s : State) :
    writeReady o w s = writeEvrBlock (o - 0x200000) w s := by
  simp [writeReady, h, ho]

/-- A slot at offset `o` of the window of die `d`. -/
theorem writeReady_die (d : Die) {o : Nat} (ho : o < 0x200000) (w : RegWr) (s : State) :
    writeReady (0x1000000 + d.val * 0x200000 + o) w s = writeDie d o w s := by
  have hd : d.val < 8 := d.isLt
  have hdie : (0x1000000 + d.val * 0x200000 + o - 0x1000000) / 0x200000 = d.val := by omega
  have hoff : (0x1000000 + d.val * 0x200000 + o) % 0x200000 = o := by omega
  have hin : 0x1000000 ≤ 0x1000000 + d.val * 0x200000 + o ∧ 0x1000000 + d.val * 0x200000 + o < 0x2000000 := by omega
  unfold writeReady
  rw [if_neg (by omega), if_neg (by omega), if_neg (by omega), if_neg (by omega), if_neg (by omega), if_neg (by omega), if_neg (by omega),
    if_pos hin, hdie, hoff, Fin.ofNat_val_eq_self]

/-! ### The registers of the obligation -/

theorem writeGlobal_counts (w : RegWr) (s : State) : writeGlobal 0x30 w s = onBit w 32 s (execGlbCountsCntClr s) := by
  simp [writeGlobal]

theorem writeGlobal_status (w : RegWr) (s : State) : writeGlobal 0x18 w s = .next (writeGlbStatus s w) := by
  simp [writeGlobal]

theorem writeGlobal_reset {w : RegWr} (h : w.lo = true) (s : State) : writeGlobal 0x20 w s = writeGlbReset w s := by
  simp [writeGlobal, h]

theorem writeGlbReset_noKey {w : RegWr} (h : rfld w.v 31 24 ≠ 0x5A) (s : State) : writeGlbReset w s = .next (countIgnored s) := by
  simp [writeGlbReset, h]

theorem writeGlbReset_warm {w : RegWr} (hk : rfld w.v 31 24 = 0x5A) (hl : rfld w.v 2 0 = 2) (s : State) :
    writeGlbReset w s = execWarmReset .glbReset s := by
  simp [writeGlbReset, hk, hl]

/-- The watchdog limit is the low half word of the command processor's third register. -/
theorem writeGlobal_wdog {w : RegWr} (h : w.lo = true) (s : State) :
    writeGlobal 0xC010 w s = .next { s with cp := { s.cp with wdog := BitVec.ofNat 16 (rfld w.v 15 0) } } := by
  simp [writeGlobal, writeCp, h]

theorem writeSlot_hqControl {w : RegWr} (h : w.lo = true) (s : State) :
    writeSlot 0x100000 w s = if rbit w.v 0 then execQueueEnable s else execQueueDisable s := by
  simp [writeSlot, writeHqBlock, h]

theorem writeHqBlock_setup {o : Nat} (h : 0x10 ≤ o) (ho : o < 0x30) (w : RegWr) (s : State) :
    writeHqBlock o w s = .next (setHq s (writeHqSetup o w)) := by
  have h0 : o ≠ 0 := by omega
  have h8 : o ≠ 8 := by omega
  simp [writeHqBlock, h0, h8, h, ho]

theorem writeHqSetup_enabled {q : HostQ} (h : q.en = true) (o : Nat) (w : RegWr) : writeHqSetup o w q = q := by
  simp [writeHqSetup, h]

theorem writeHqSetup_sqBase {q : HostQ} (h : q.en = false) (w : RegWr) :
    writeHqSetup 0x10 w q = { q with sqBase := regMerge q.sqBase w &&& 0xFFFFFFFFFFFFF000 } := by
  simp [writeHqSetup, h]

theorem writeEvrBlock_doorbell (w : RegWr) (s : State) :
    writeEvrBlock 0 w s = twoHalves w (execEvrDoorbell (wLo w)) (execEvrFclr (wHi w) 0) s := by
  simp [writeEvrBlock]

/-- An 8-byte slot of the source table holds the sources `2 * m` and `2 * m + 1`. -/
theorem writeEvrBlock_sources {m : Nat} (h : m < 512) (w : RegWr) (s : State) :
    writeEvrBlock (0x2000 + 8 * m) w s = twoHalves w (writeSrc (2 * m) (wLo w)) (writeSrc (2 * m + 1) (wHi w)) s := by
  have hn : (0x2000 + 8 * m - 0x2000) / 4 = 2 * m := by omega
  unfold writeEvrBlock
  rw [if_neg (by omega), if_neg (by omega), if_neg (by omega), if_neg (by omega), if_pos (by omega), hn]

theorem writeReady_power (w : RegWr) (s : State) : writeReady 0x400000 w s = .next (writePwrStatus s w) := by
  simp [writeReady]

theorem writeReady_audit (w : RegWr) (s : State) : writeReady 0x600000 w s = onBit w 0 s (execAuditRequest s) := by
  simp [writeReady]

theorem writeDie_dcEcc {s : State} {d : Die} (hs : dieBlockOn s d.val = true) (w : RegWr) :
    writeDie d 0x10010 w s = onBit w 32 s (execDcEccCntClr d s) := by
  simp [writeDie, gate_on _ _ hs]

theorem writeDie_off {s : State} {d : Die} (hs : dieBlockOn s d.val = false) (o : Nat) (w : RegWr) : writeDie d o w s = .next s :=
  gate_off _ _ hs

/-! ### The obligation's clauses that need more than one slot lemma -/

theorem registerWrite_global {s : State} {o : Nat} (hb : barOn s = true) (ho : o < 0x100000) (ha : o % 8 = 0) (v hw : W64) :
    exec (.registerWrite o true v hw) s = writeGlobal o ⟨true, true, v, hw⟩ s := by
  rw [registerWrite_wide hb (by omega) ha, writeSlot_global ho]

theorem registerWrite_ready {s : State} {o : Nat} (hs : blockOn s = true) (h : 0x112000 ≤ o) (ho : o < 0x3000000) (ha : o % 8 = 0)
    (v hw : W64) : exec (.registerWrite o true v hw) s = writeReady o ⟨true, true, v, hw⟩ s := by
  rw [registerWrite_wide (barOn_of_blockOn hs) (by omega) ha, writeSlot_ready hs h (by omega)]

theorem registerWrite_hqSetup {s : State} (hs : blockOn s = true) (v hw : W64) :
    exec (.registerWrite 0x100010 true v hw) s = .next (setHq s (writeHqSetup 0x10 ⟨true, true, v, hw⟩)) := by
  rw [registerWrite_wide (barOn_of_blockOn hs) (by omega) (by omega), writeSlot_hqBlock hs (by omega) (by omega)]
  exact writeHqBlock_setup (by omega) (by omega) _ _

theorem registerWrite_glbStatus {s : State} (hb : barOn s = true) (v hw : W64) :
    exec (.registerWrite 0x18 true v hw) s = .next { s with glb := { s.glb with
      apErr := (s.glb.apErr && !rbit v 1) || rbit hw 1, accErr := (s.glb.accErr && !rbit v 0) || rbit hw 0,
      collCnt := satInc s.glb.collCnt ((if rbit v 0 && rbit hw 0 then 1 else 0) + (if rbit v 1 && rbit hw 1 then 1 else 0)) } } := by
  have hc : collAt ⟨true, true, v, hw⟩ [0, 1] =
      (if rbit v 0 && rbit hw 0 then 1 else 0) + (if rbit v 1 && rbit hw 1 then 1 else 0) := by
    simp [collAt, collisions, List.countP_cons, Nat.add_comm]
  rw [registerWrite_global hb (by omega) (by omega), writeGlobal_status, ← hc]
  rfl

theorem registerWrite_wdog {s : State} (hb : barOn s = true) (v hw : W64) :
    exec (.registerWrite 0xC010 false v hw) s = .next { s with cp := { s.cp with wdog := BitVec.ofNat 16 (v.toNat % 2 ^ 16) } } := by
  have hv : rfld ((v.setWidth 32).setWidth 64) 15 0 = v.toNat % 2 ^ 16 := by
    simp [rfld, fld]
  rw [registerWrite_lower hb (by omega) (by omega), writeSlot_global (by omega), writeGlobal_wdog rfl, hv]

theorem registerWrite_evrDoorbell {s : State} (hs : blockOn s = true) (v hw : W64) :
    exec (.registerWrite 0x200000 false v hw) s = execEvrDoorbell (v.setWidth 32) s := by
  rw [registerWrite_lower (barOn_of_blockOn hs) (by omega) (by omega), writeSlot_ready hs (by omega) (by omega),
    writeReady_evrBlock (by omega) (by omega), Nat.sub_self, writeEvrBlock_doorbell, twoHalves_lower rfl rfl, wLo_setWidth]

theorem registerWrite_evrFclr {s : State} (hs : blockOn s = true) (v hw : W64) :
    exec (.registerWrite 0x200004 false v hw) s = execEvrFclr (v.setWidth 32) 0 s := by
  change exec (.registerWrite (0x200000 + 4) false v hw) s = _
  rw [registerWrite_upper (barOn_of_blockOn hs) (by omega) (by omega), writeSlot_ready hs (by omega) (by omega), writeReady_evrBlock (by omega) (by omega), Nat.sub_self, writeEvrBlock_doorbell,
    twoHalves_upper rfl rfl, wHi_shiftLeft]

/-- The slot of two sources, reached by a write of either half. -/
theorem writeSlot_sources {s : State} {m : Nat} (hs : blockOn s = true) (h : m < 512) (w : RegWr) :
    writeSlot (0x202000 + 8 * m) w s = twoHalves w (writeSrc (2 * m) (wLo w)) (writeSrc (2 * m + 1) (wHi w)) s := by
  have hoff : 0x202000 + 8 * m - 0x200000 = 0x2000 + 8 * m := by omega
  rw [writeSlot_ready hs (by omega) (by omega), writeReady_evrBlock (by omega) (by omega), hoff, writeEvrBlock_sources h]

theorem writeSrc_setWidth (n : Nat) (v : W64) (s : State) : writeSrc n (v.setWidth 32) s =
    .next { s with evr := { s.evr with srcs := s.evr.srcs.upd n fun r =>
      { r with vec := v.extractLsb' 10 6, tmask := v.extractLsb' 5 5, prio := v.extractLsb' 0 4 } } } := by
  have field (lo len : Nat) (hl : lo + len ≤ 32) : (v.setWidth 32).extractLsb' lo len = v.extractLsb' lo len := by
    ext i hi
    have hlt : lo + i < 32 := by omega
    simp [hlt]
  rw [writeSrc, field 10 6 (by omega), field 5 5 (by omega), field 0 4 (by omega)]
  rfl

/-- An even source stands in the lower half of its slot, an odd one in the upper. -/
theorem registerWrite_source {s : State} {n : Nat} (hs : blockOn s = true) (hn : n < 1024) (v hw : W64) :
    exec (.registerWrite (0x202000 + 4 * n) false v hw) s = writeSrc n (v.setWidth 32) s := by
  have hb : barOn s = true := barOn_of_blockOn hs
  obtain ⟨m, rfl | rfl⟩ : ∃ m, n = 2 * m ∨ n = 2 * m + 1 := ⟨n / 2, by omega⟩
  · have ho : 0x202000 + 4 * (2 * m) = 0x202000 + 8 * m := by omega
    rw [ho, registerWrite_lower hb (by omega) (by omega), writeSlot_sources hs (by omega), twoHalves_lower rfl rfl, wLo_setWidth]
  · have ho : 0x202000 + 4 * (2 * m + 1) = 0x202000 + 8 * m + 4 := by omega
    rw [ho, registerWrite_upper hb (by omega) (by omega), writeSlot_sources hs (by omega), twoHalves_upper rfl rfl, wHi_shiftLeft]

theorem registerWrite_die {s : State} (d : Die) {o : Nat} (hs : blockOn s = true) (ho : o < 0x200000) (ha : o % 8 = 0) (v hw : W64) :
    exec (.registerWrite (0x1000000 + d.val * 0x200000 + o) true v hw) s = writeDie d o ⟨true, true, v, hw⟩ s := by
  have hd : d.val < 8 := d.isLt
  rw [registerWrite_ready hs (by omega) (by omega) (by omega), writeReady_die d ho]

theorem registerWrite_dieOff {s : State} (d : Die) {o : Nat} (hs : dieBlockOn s d.val = false) (ho : o < 0x200000) (ha : o % 8 = 0)
    (v hw : W64) : exec (.registerWrite (0x1000000 + d.val * 0x200000 + o) true v hw) s = .next s := by
  have hd : d.val < 8 := d.isLt
  cases hblk : blockOn s with
  | true => rw [registerWrite_die d hblk ho ha, writeDie_off hs]
  | false =>
    cases hb : barOn s with
    | true => rw [registerWrite_wide hb (by omega) (by omega), writeSlot_notReady hblk (by omega) (by omega)]
    | false => exact registerWrite_off (.inl hb) _ _ _

theorem rbit_or_countClear (v : W64) : rbit (v ||| 0x100000000) 32 = true := by
  have h : (v ||| 0x100000000).toNat.testBit 32 = true := by
    rw [BitVec.toNat_or, Nat.testBit_or, Bool.or_eq_true]
    exact .inr (by decide)
  simpa [rbit, bitN, Nat.testBit_eq_decide_div_mod_eq] using h

theorem blockOn_of_notReady {s : State} (h : s.hq.ready = false) : blockOn s = false := by simp [blockOn, h]

theorem registerWrite_power {s : State} (hs : blockOn s = true) (v hw : W64) : ∃ u, exec (.registerWrite 0x400000 true v hw) s = .next u ∧
    u.pw.capLim = ((s.pw.capLim && !rbit v 19) || rbit hw 19) ∧ u.pw.coolWarn = ((s.pw.coolWarn && !rbit v 16) || rbit hw 16) ∧
    u.pw.cap = s.pw.cap ∧ u.pw.toks = s.pw.toks ∧ u.mem = s.mem := by
  refine ⟨writePwrStatus s ⟨true, true, v, hw⟩, ?_, rfl, rfl, rfl, rfl, rfl⟩
  rw [registerWrite_ready hs (by omega) (by omega) (by omega), writeReady_power]

/-- Settles O59: each clause is the lemma of its register, at the slot that the written offset names. -/
theorem registerWritesReachTheirRegisters : Obligations.RegisterWritesReachTheirRegisters := by
  unfold Obligations.RegisterWritesReachTheirRegisters
  refine ⟨fun s o w v h hoff => registerWrite_off hoff w v h, fun s o v h hb ho =>
      ⟨fun ha => registerWrite_misaligned true hb ho ha v h, fun ha => registerWrite_misaligned false hb ho ha v h⟩,
    fun s o v h hr hb ha hlo ho hd => ?notReady, fun s v h hb hv => ?countsSet, fun s v h hb hv => ?countsClear,
    fun s v h hb => registerWrite_glbStatus hb v h, fun s v h hb hk => ?noKey, fun s v h hb hk hl => ?warm,
    fun s v h hb => registerWrite_wdog hb v h, fun s v h hb hv => ?enable, fun s v h hb hv => ?disable,
    fun s v h hs he => ?sqBase, fun s v h hs he => ?sqBaseKept, fun s v h hs => registerWrite_evrDoorbell hs v h,
    fun s v h hs => registerWrite_evrFclr hs v h, fun s n v h hs hn => ?source, fun s v h hs => registerWrite_power hs v h,
    fun s v h hs hv => ?audit, fun s d v h hs => ?dcEcc, fun s d v h hs => registerWrite_dieOff d hs (by omega) (by omega) v h⟩
  case notReady => rw [registerWrite_wide hb ho ha, writeSlot_notReady (blockOn_of_notReady hr) hlo hd]
  case countsSet =>
    rw [registerWrite_global hb (by omega) (by omega), writeGlobal_counts, onBit_set hv]
    rfl
  case countsClear => rw [registerWrite_global hb (by omega) (by omega), writeGlobal_counts, onBit_clear hv]
  case noKey =>
    rw [registerWrite_global hb (by omega) (by omega), writeGlobal_reset rfl, writeGlbReset_noKey hk]
    rfl
  case warm =>
    rw [registerWrite_global hb (by omega) (by omega), writeGlobal_reset rfl, writeGlbReset_warm hk hl]
    rfl
  case enable =>
    rw [registerWrite_wide hb (by omega) (by omega), writeSlot_hqControl rfl, if_pos hv]
    rfl
  case disable =>
    rw [registerWrite_wide hb (by omega) (by omega), writeSlot_hqControl rfl, if_neg (by simpa using hv)]
    rfl
  case sqBase => rw [registerWrite_hqSetup hs, setHq, writeHqSetup_sqBase he, regMerge_both]
  case sqBaseKept => rw [registerWrite_hqSetup hs, setHq, writeHqSetup_enabled he]
  case source => rw [registerWrite_source hs hn, writeSrc_setWidth]
  case audit =>
    rw [registerWrite_ready hs (by omega) (by omega) (by omega), writeReady_audit, onBit_set hv]
    rfl
  case dcEcc =>
    rw [registerWrite_die d (blockOn_of_dieBlockOn hs) (by omega) (by omega), writeDie_dcEcc hs, onBit_set (rbit_or_countClear v)]
    rfl

end Sys2Proof.Machine
end

section
/-!
The registers of a DMA channel and the completion of its first descriptor (O29). The rules about `updChan`, `fire` and `showFar` come
first; a completion is then the composition of `showFar`, `postSignal` and `postEvent` (`descriptorComplete_moved`), and each clause
reads one of those rules. That writes on other dies are seen only at the completion, and that they wait for a scrub, is the model's
choice (log entries 156 and 160).
-/

namespace Sys2Proof.Machine

/-! ### A channel of an engine -/

@[simp] theorem chanOf_updChan_self (s : State) (e ch : Nat) (f : Channel → Channel) :
    chanOf (updChan s e ch f) e ch = f (chanOf s e ch) := by
  simp [chanOf, updChan]

theorem chanOf_updChan_ne (s : State) (e : Nat) {ch c : Nat} (f : Channel → Channel) (h : c ≠ ch) :
    chanOf (updChan s e ch f) e c = chanOf s e c := by
  simp [chanOf, updChan, Tbl.get_upd_ne _ _ _ h]

theorem updChan_engines_ne (s : State) {e k : Nat} (ch : Nat) (f : Channel → Channel) (h : k ≠ e) :
    (updChan s e ch f).engines.get k = s.engines.get k := by
  rw [updChan, updEngine_engines, Tbl.get_upd_ne _ _ _ h]

@[simp] theorem updChan_mem (s : State) (e ch : Nat) (f : Channel → Channel) : (updChan s e ch f).mem = s.mem := rfl
@[simp] theorem updChan_tiles (s : State) (e ch : Nat) (f : Channel → Channel) : (updChan s e ch f).tiles = s.tiles := rfl
@[simp] theorem updChan_evr (s : State) (e ch : Nat) (f : Channel → Channel) : (updChan s e ch f).evr = s.evr := rfl

theorem chanOf_of_engines_eq {s t : State} (h : s.engines = t.engines) (e ch : Nat) : chanOf s e ch = chanOf t e ch := by
  rw [chanOf, chanOf, h]

/-! ### Events: a fire changes only the event router, and depends only on it -/

@[simp] theorem chanOf_fire (s : State) (n e ch : Nat) : chanOf (fire s n) e ch = chanOf s e ch :=
  chanOf_of_engines_eq (fire_engines s n) e ch

theorem fire_evr_of_evr_eq {s t : State} (h : s.evr = t.evr) (n : Nat) : (fire s n).evr = (fire t n).evr := by
  unfold fire fireN
  split
  · simp only [h]
  · exact h

/-! ### Writes on other dies (R35, R309) -/

/-- What a write leaves in the memories depends only on the memories. -/
theorem storeMod_mem_of_mem_eq {s t : State} (h : s.mem = t.mem) (k : Nat) (l : List PByte) :
    (storeMod s k l).mem = (storeMod t k l).mem := by
  unfold storeMod
  split
  · exact h
  · dsimp only
    split <;> simp only [updDie_mem, h]

theorem foldl_storeMod_mem_of_mem_eq (l : List (Nat × List PByte)) {s t : State} (h : s.mem = t.mem) :
    (l.foldl (fun s p => storeMod s p.1 p.2) s).mem = (l.foldl (fun s p => storeMod s p.1 p.2) t).mem := by
  induction l generalizing s t with
  | nil => exact h
  | cons p r ih => exact ih (storeMod_mem_of_mem_eq h p.1 p.2)

/-- A part of the state that no write of module memory changes is the same after any number of them. -/
theorem foldl_storeMod_frame {α : Type} {part : State → α} (hpart : ∀ s k l, part (storeMod s k l) = part s)
    (l : List (Nat × List PByte)) (s : State) : part (l.foldl (fun s p => storeMod s p.1 p.2) s) = part s := by
  induction l generalizing s with
  | nil => rfl
  | cons p r ih => exact (ih _).trans (hpart s p.1 p.2)

theorem showFar_mem_of_mem_eq {s t : State} (h : s.mem = t.mem) (d : DSlot) : (showFar s d).mem = (showFar t d).mem :=
  foldl_storeMod_mem_of_mem_eq d.far h

@[simp] theorem showFar_tiles (s : State) (d : DSlot) : (showFar s d).tiles = s.tiles :=
  foldl_storeMod_frame storeMod_tiles d.far s
@[simp] theorem showFar_engines (s : State) (d : DSlot) : (showFar s d).engines = s.engines :=
  foldl_storeMod_frame storeMod_engines d.far s
@[simp] theorem showFar_evr (s : State) (d : DSlot) : (showFar s d).evr = s.evr :=
  foldl_storeMod_frame storeMod_evr d.far s

/-! ### What a completed descriptor sends (R322, R329) -/

/-- The post-signal of a descriptor that belongs to no command. -/
def postSignal (s : State) (e ch : Nat) (b : Bytes) : State :=
  if dPsig b then sendSig s (dStile b) ⟨dSsem b, dScount b, .chan e ch, none⟩ else s

/-- The event of a descriptor. -/
def postEvent (s : State) (e : Nat) (b : Bytes) : State := if dIrq b then fire s (engineSrc e) else s

@[simp] theorem postSignal_mem (s : State) (e ch : Nat) (b : Bytes) : (postSignal s e ch b).mem = s.mem := by
  unfold postSignal; split <;> rfl
@[simp] theorem postSignal_engines (s : State) (e ch : Nat) (b : Bytes) : (postSignal s e ch b).engines = s.engines := by
  unfold postSignal; split <;> rfl
@[simp] theorem postSignal_evr (s : State) (e ch : Nat) (b : Bytes) : (postSignal s e ch b).evr = s.evr := by
  unfold postSignal; split <;> rfl

theorem postSignal_inbox {b : Bytes} (h : dPsig b = true) (s : State) (e ch : Nat) :
    ((postSignal s e ch b).tiles.get (dStile b)).inbox =
      (s.tiles.get (dStile b)).inbox ++ [⟨dSsem b, dScount b, .chan e ch, none⟩] := by
  rw [postSignal, if_pos h, sendSig, get_updTile]

theorem postSignal_none {b : Bytes} (h : dPsig b = false) (s : State) (e ch : Nat) : postSignal s e ch b = s := by
  simp [postSignal, h]

@[simp] theorem postEvent_mem (s : State) (e : Nat) (b : Bytes) : (postEvent s e b).mem = s.mem := by
  unfold postEvent; split <;> simp only [fire_mem]
@[simp] theorem postEvent_engines (s : State) (e : Nat) (b : Bytes) : (postEvent s e b).engines = s.engines := by
  unfold postEvent; split <;> simp only [fire_engines]
@[simp] theorem postEvent_tiles (s : State) (e : Nat) (b : Bytes) : (postEvent s e b).tiles = s.tiles := by
  unfold postEvent; split <;> simp only [fire_tiles]

theorem postEvent_fires {b : Bytes} (h : dIrq b = true) (s : State) (e : Nat) : postEvent s e b = fire s (engineSrc e) := by
  simp [postEvent, h]

theorem postEvent_none {b : Bytes} (h : dIrq b = false) (s : State) (e : Nat) : postEvent s e b = s := by
  simp [postEvent, h]

/-! ### DESCRIPTOR_COMPLETE -/

theorem noteDesc_unowned {d : DSlot} (hj : d.job = none) (hp : d.pois = false) (s : State) (e : Nat) : noteDesc s e d = s := by
  simp [noteDesc, hj, hp]

/-- The state after the completion of descriptor `d`, which leaves the descriptors `r` in its channel. -/
def completed (s : State) (e ch : Nat) (d : DSlot) (r : List DSlot) : State :=
  postEvent (postSignal (showFar (updChan s e ch fun c => { c with prog := r }) d) e ch d.bytes) e d.bytes

/-- The first descriptor of a channel, which belongs to no command, has moved, and consumed no line, completes. -/
theorem descriptorComplete_moved {s : State} {e : EngineNo} {ch : Chan} {d : DSlot} {r : List DSlot}
    (hprog : (chanOf s e.val ch.val).prog = d :: r) (hmoved : d.phase = .moved) (hjob : d.job = none)
    (hheld : farHeld s d = false) (hcons : d.consumed = []) (hpois : d.pois = false) :
    exec (.descriptorComplete e ch) s = .next (completed s e.val ch.val d r) := by
  change execDescriptorComplete e ch s = _
  simp [execDescriptorComplete, hprog, hmoved, hheld, hcons, noteDesc_unowned hjob hpois, hjob, completed, postSignal, postEvent]

/-- A descriptor that has not moved, or whose far writes wait for a scrub, does not complete (R117). -/
theorem descriptorComplete_waits {s : State} {e : EngineNo} {ch : Chan} {d : DSlot} {r : List DSlot}
    (hprog : (chanOf s e.val ch.val).prog = d :: r) (hwait : d.phase ≠ .moved ∨ farHeld s d = true) :
    exec (.descriptorComplete e ch) s = .next s := by
  change execDescriptorComplete e ch s = _
  simp only [execDescriptorComplete, hprog]
  exact if_pos (by simpa using hwait)

section
variable (s : State) (e ch : Nat) (d : DSlot) (r : List DSlot)

theorem completed_prog : (chanOf (completed s e ch d r) e ch).prog = r := by
  have heng : (completed s e ch d r).engines = (updChan s e ch fun c => { c with prog := r }).engines := by simp [completed]
  rw [chanOf_of_engines_eq heng, chanOf_updChan_self]

theorem completed_mem : (completed s e ch d r).mem = (showFar s d).mem := by
  rw [completed, postEvent_mem, postSignal_mem]
  exact showFar_mem_of_mem_eq (updChan_mem s e ch _) d

theorem completed_inbox (h : dPsig d.bytes = true) : ((completed s e ch d r).tiles.get (dStile d.bytes)).inbox =
    (s.tiles.get (dStile d.bytes)).inbox ++ [⟨dSsem d.bytes, dScount d.bytes, .chan e ch, none⟩] := by
  rw [completed, postEvent_tiles, postSignal_inbox h, showFar_tiles, updChan_tiles]

theorem completed_tiles (h : dPsig d.bytes = false) : (completed s e ch d r).tiles = s.tiles := by
  rw [completed, postEvent_tiles, postSignal_none h, showFar_tiles, updChan_tiles]

theorem completed_evr_fires (h : dIrq d.bytes = true) : (completed s e ch d r).evr = (fire s (engineSrc e)).evr := by
  rw [completed, postEvent_fires h]
  exact fire_evr_of_evr_eq (by simp) _

theorem completed_evr (h : dIrq d.bytes = false) : (completed s e ch d r).evr = s.evr := by
  rw [completed, postEvent_none h, postSignal_evr, showFar_evr, updChan_evr]

end

/-! ### DMA_CHANNEL_ENABLE and DMA_CHANNEL_TAIL (R307) -/

theorem dmaChannelEnable_on {s : State} {e : EngineNo} (hon : engineBlockOn s e.val = true) (ch : Chan) (en : Bool) :
    exec (.dmaChannelEnable e ch en) s = .next (updChan s e.val ch.val fun c => { c with qEn := en }) :=
  gate_on _ _ hon

/-- A channel that takes a TAIL: the slots it adds belong to no command. -/
def takeTail (tail : BitVec 6) (c : Channel) : Channel :=
  let news := (List.range (tail - c.tail).toNat).map fun i => (c.tail.toNat + i) % 32
  { c with
    tail := tail
    owners := news.foldl (fun m i => Tbl.set m i none) c.owners
    badReloc := news.foldl (fun m i => Tbl.set m i false) c.badReloc
    cancelled := news.foldl (fun m i => Tbl.set m i false) c.cancelled }

theorem dmaChannelTail_fits {s : State} {e : EngineNo} {ch : Chan} {tail : BitVec 6} (hon : engineBlockOn s e.val = true)
    (hfit : (tail - (chanOf s e.val ch.val).head).toNat ≤ 32) :
    exec (.dmaChannelTail e ch tail) s = .next (updChan s e.val ch.val (takeTail tail)) :=
  (gate_on _ _ hon).trans (if_neg (Nat.not_lt.2 hfit))

theorem dmaChannelTail_over {s : State} {e : EngineNo} {ch : Chan} {tail : BitVec 6} (hon : engineBlockOn s e.val = true)
    (hover : 32 < (tail - (chanOf s e.val ch.val).head).toNat) :
    exec (.dmaChannelTail e ch tail) s = .next (fire (updChan s e.val ch.val queueOver) (engineSrc e.val)) :=
  (gate_on _ _ hon).trans (if_pos hover)

theorem queueOver_fr_invalid {c : Channel} (h : c.fr.valid = false) : (queueOver c).fr.cause = 0x10 := by simp [queueOver, h]

theorem queueOver_fr_valid {c : Channel} (h : c.fr.valid = true) : (queueOver c).fr = c.fr := by simp [queueOver, h]

/-- Settles O29: a register write is one `updChan` of its channel, and a completion is `completed`. -/
theorem dmaChannelRegisters : Obligations.DmaChannelRegisters := by
  unfold Obligations.DmaChannelRegisters
  refine ⟨fun s e ch en hon => ?enable, fun s e ch tail hon hfit => ?tail, fun s e ch tail hon hover => ?queueOver,
    fun s e ch d r hprog hmoved hjob hheld hcons hpois => ?complete, fun s e ch d r => descriptorComplete_waits⟩
  case enable =>
    exact ⟨_, dmaChannelEnable_on hon ch en, chanOf_updChan_self s e.val ch.val _, fun c hc => chanOf_updChan_ne s e.val _ hc,
      fun k hk => updChan_engines_ne s ch.val _ hk, rfl, rfl⟩
  case tail =>
    refine ⟨_, dmaChannelTail_fits hon hfit, ?_⟩
    rw [chanOf_updChan_self]
    exact ⟨rfl, rfl, rfl, rfl, rfl, rfl⟩
  case queueOver =>
    refine ⟨_, dmaChannelTail_over hon hover, ?_⟩
    rw [chanOf_fire, chanOf_updChan_self]
    exact ⟨rfl, rfl, queueOver_fr_invalid, queueOver_fr_valid, fire_evr_of_evr_eq (updChan_evr s e.val ch.val _) _, fire_mem _ _⟩
  case complete =>
    exact ⟨_, descriptorComplete_moved hprog hmoved hjob hheld hcons hpois, completed_prog s e.val ch.val d r,
      completed_mem s e.val ch.val d r, completed_inbox s e.val ch.val d r, completed_tiles s e.val ch.val d r,
      completed_evr_fires s e.val ch.val d r, completed_evr s e.val ch.val d r⟩

end Sys2Proof.Machine
end

section
/-!
The registers of a tile's handles and windows and of a die's HBM windows (O27). A register pair that is valid and fails its check is
stored shut; `takeHandle`, `takeWindow` and `takeHbmWindow` say so once for a tile or a die, and each write is one change by them.
-/

namespace Sys2Proof.Machine

/-! ### Parts of the state -/

theorem get_updTile_ne (s : State) {t k : Nat} (f : Tile → Tile) (h : k ≠ t) : (updTile s t f).tiles.get k = s.tiles.get k :=
  Tbl.get_upd_ne s.tiles t f h

theorem get_updDie (s : State) (d : Nat) (f : DieRegs → DieRegs) : (updDie s d f).dies.get d = f (s.dies.get d) :=
  Tbl.get_upd_self s.dies d f

theorem get_updDie_ne (s : State) {d k : Nat} (f : DieRegs → DieRegs) (h : k ≠ d) : (updDie s d f).dies.get k = s.dies.get k :=
  Tbl.get_upd_ne s.dies d f h

/-- A change of a tile matters only by what it does to that tile. -/
theorem updTile_congr {s : State} {t : Nat} {f g : Tile → Tile} (h : f (s.tiles.get t) = g (s.tiles.get t)) :
    updTile s t f = updTile s t g := by
  simp only [updTile, Tbl.upd, h]

/-- A change of a die matters only by what it does to that die. -/
theorem updDie_congr {s : State} {d : Nat} {f g : DieRegs → DieRegs} (h : f (s.dies.get d) = g (s.dies.get d)) :
    updDie s d f = updDie s d g := by
  simp only [updDie, Tbl.upd, h]

theorem rbit_eq_getLsbD (v : W64) (n : Nat) : rbit v n = v.getLsbD n := by
  rw [rbit, bitN, BitVec.getLsbD, Nat.testBit_eq_decide_div_mod_eq]

/-! ### A register pair that fails its check (R113, R128, R276) -/

/-- A register pair with VALID = 0. -/
def shut (p : RegPair) : RegPair := { p with a := p.a &&& 0x7FFFFFFFFFFFFFFF }

theorem rbit_shut (p : RegPair) : rbit (shut p).a 63 = false := by
  rw [rbit_eq_getLsbD, shut, BitVec.getLsbD_and]
  exact Bool.and_eq_false_imp.2 fun _ => by decide

theorem handleF_shut_valid (p : RegPair) : (handleF (shut p)).valid = false := rbit_shut p

/-- Whether a written pair is valid and fails its check, whose result is `ok`. -/
def pairBad (ok : Bool) (p : RegPair) : Bool := rbit p.a 63 && !ok

theorem pairBad_eq_true {ok : Bool} {p : RegPair} (hv : rbit p.a 63 = true) (hok : ok = false) : pairBad ok p = true := by
  simp [pairBad, hv, hok]

theorem pairBad_eq_false {ok : Bool} {p : RegPair} (h : rbit p.a 63 = false ∨ ok = true) : pairBad ok p = false := by
  rcases h with h | h <;> simp [pairBad, h]

/-- The pair that is stored: the written one, shut when it is bad. -/
def storedPair (ok : Bool) (p : RegPair) : RegPair := if pairBad ok p then shut p else p

theorem storedPair_bad {ok : Bool} {p : RegPair} (h : pairBad ok p = true) : storedPair ok p = shut p := if_pos h

theorem storedPair_good {ok : Bool} {p : RegPair} (h : pairBad ok p = false) : storedPair ok p = p := by simp [storedPair, h]

/-! ### Handles (R113, R114) -/

/-- Handle `h` with its HANDLE_A written. -/
def writtenHandle (s : State) (t h : Nat) (v : W64) : RegPair := { (s.tiles.get t).handles.get h with a := v &&& handleAMask }

/-- A tile that takes a write of a handle: a bad pair is stored shut and raises HT_ERR. -/
def takeHandle (h : Nat) (p : RegPair) (x : Tile) : Tile :=
  { x with htErr := x.htErr || pairBad (handleF p).ok p, handles := x.handles.set h (storedPair (handleF p).ok p) }

theorem takeHandle_good {i : Nat} {p : RegPair} (h : pairBad (handleF p).ok p = false) (x : Tile) :
    (takeHandle i p x).handles.get i = p ∧ (takeHandle i p x).htErr = x.htErr := by
  simp [takeHandle, storedPair_good h, h]

theorem takeHandle_bad {i : Nat} {p : RegPair} (h : pairBad (handleF p).ok p = true) (x : Tile) :
    (takeHandle i p x).handles.get i = shut p ∧ (takeHandle i p x).htErr = true := by
  simp [takeHandle, storedPair_bad h, h]

theorem takeHandle_ne {i k : Nat} (p : RegPair) (x : Tile) (h : k ≠ i) : (takeHandle i p x).handles.get k = x.handles.get k :=
  Tbl.get_set_ne x.handles i _ h

theorem applyHandle_bad {s : State} {t h : Nat} {v : W64} {p : RegPair} (hp : p = writtenHandle s t h v)
    (hbad : pairBad (handleF p).ok p = true) : applyHandle s t h true v = updTile s t (takeHandle h p) := by
  subst hp
  refine (if_pos hbad).trans (updTile_congr ?_)
  rw [takeHandle, storedPair_bad hbad, hbad, Bool.or_true]
  rfl

/-- A write that passes R113 is stored, and clears the fill bits of a guarded buffer (R121). -/
theorem applyHandle_good {s : State} {t h : Nat} {v : W64} {p : RegPair} (hp : p = writtenHandle s t h v)
    (hgood : pairBad (handleF p).ok p = false) :
    applyHandle s t h true v =
      if (handleF p).valid && (handleF p).guard then clearFill (updTile s t (takeHandle h p)) t (handleF p).lines
      else updTile s t (takeHandle h p) := by
  have htake : updTile s t (takeHandle h p) = updTile s t fun x => { x with handles := x.handles.set h p } :=
    updTile_congr (by rw [takeHandle, storedPair_good hgood, hgood, Bool.or_false])
  rw [htake]
  subst hp
  exact if_neg (ne_true_of_eq_false hgood)

theorem applyHandle_tiles (s : State) (t h : Nat) (v : W64) :
    (applyHandle s t h true v).tiles = (updTile s t (takeHandle h (writtenHandle s t h v))).tiles := by
  cases hb : pairBad (handleF (writtenHandle s t h v)).ok (writtenHandle s t h v) with
  | true => rw [applyHandle_bad rfl hb]
  | false =>
    rw [applyHandle_good rfl hb]
    split
    · exact clearFill_tiles _ _ _
    · rfl

/-- No memory byte and no poison mark changes with a handle. -/
theorem applyHandle_bytes (s : State) (t h : Nat) (v : W64) :
    (applyHandle s t h true v).mem.mod = s.mem.mod ∧ (applyHandle s t h true v).mem.pois = s.mem.pois ∧
      (applyHandle s t h true v).mem.host = s.mem.host := by
  cases hb : pairBad (handleF (writtenHandle s t h v)).ok (writtenHandle s t h v) with
  | true =>
    rw [applyHandle_bad rfl hb]
    exact ⟨rfl, rfl, rfl⟩
  | false =>
    rw [applyHandle_good rfl hb]
    split <;> exact ⟨rfl, rfl, rfl⟩

theorem get_applyHandle (s : State) (t h : Nat) (v : W64) :
    (applyHandle s t h true v).tiles.get t = takeHandle h (writtenHandle s t h v) (s.tiles.get t) := by
  rw [applyHandle_tiles, get_updTile]

theorem get_applyHandle_ne (s : State) {t k : Nat} (h : Nat) (v : W64) (hk : k ≠ t) :
    (applyHandle s t h true v).tiles.get k = s.tiles.get k := by
  rw [applyHandle_tiles, get_updTile_ne s _ hk]

/-- A handle that nothing uses, on a tile that holds no write, takes its write at once. -/
theorem handleWrite_free {s : State} {t : TileNo} {h : Fin 64} (v : W64) (hon : dieBlockOn s (t.val / 32) = true)
    (hfree : handleBusy s t.val h.val = false) (hnone : (s.tiles.get t.val).heldHandles = []) :
    exec (.handleWrite t h v) s = .next (applyHandle s t.val h.val true v) := by
  refine (gate_on _ _ hon).trans ?_
  simp [writeHandle, hfree, hnone]

/-- A handle that is in use, or of which an earlier write is held, holds its write. -/
theorem handleWrite_held {s : State} {t : TileNo} {h : Fin 64} (v : W64) (hon : dieBlockOn s (t.val / 32) = true)
    (hheld : handleBusy s t.val h.val = true ∨ ∃ w ∈ (s.tiles.get t.val).heldHandles, w.1 = h.val) :
    exec (.handleWrite t h v) s = .next (updTile s t.val fun x => { x with heldHandles := x.heldHandles ++ [(h.val, true, v)] }) := by
  refine (gate_on _ _ hon).trans (congrArg _ (if_pos ?_))
  simpa using hheld

/-- The only held write of a handle is released once nothing names the handle. -/
theorem handleWriteRelease_only {s : State} {t : TileNo} {h : Fin 64} {b : Bool} {v : W64}
    (hheld : (s.tiles.get t.val).heldHandles = [(h.val, b, v)]) (hfree : handleBusy s t.val h.val = false) :
    exec (.handleWriteRelease t h) s =
      .next (applyHandle (updTile s t.val fun y => { y with heldHandles := [] }) t.val h.val b v) := by
  have herase : updTile s t.val (fun y => { y with heldHandles := y.heldHandles.erase (h.val, b, v) }) =
      updTile s t.val fun y => { y with heldHandles := [] } :=
    updTile_congr (by simp [hheld])
  change execHandleWriteRelease t h s = _
  simp [execHandleWriteRelease, hheld, hfree, herase]

/-! ### Windows (R128, R276) -/

/-- Window `w` of a tile with its WIN_A written. -/
def writtenWindow (s : State) (t w : Nat) (v : W64) : RegPair := { (s.tiles.get t).wins.get w with a := v &&& winAMask }

/-- A tile that takes a write of a window: a bad pair is stored shut and raises WIN_ERR. -/
def takeWindow (w : Nat) (p : RegPair) (x : Tile) : Tile :=
  { x with winErr := x.winErr || pairBad (winOk p) p, wins := x.wins.set w (storedPair (winOk p) p) }

theorem takeWindow_good {i : Nat} {p : RegPair} (h : pairBad (winOk p) p = false) (x : Tile) :
    (takeWindow i p x).wins.get i = p ∧ (takeWindow i p x).winErr = x.winErr := by
  simp [takeWindow, storedPair_good h, h]

theorem takeWindow_bad {i : Nat} {p : RegPair} (h : pairBad (winOk p) p = true) (x : Tile) :
    (takeWindow i p x).wins.get i = shut p ∧ (takeWindow i p x).winErr = true := by
  simp [takeWindow, storedPair_bad h, h]

theorem takeWindow_ne {i k : Nat} (p : RegPair) (x : Tile) (h : k ≠ i) : (takeWindow i p x).wins.get k = x.wins.get k :=
  Tbl.get_set_ne x.wins i _ h

theorem windowWrite_on {s : State} {t : TileNo} (w : Fin 8) (v : W64) (hon : dieBlockOn s (t.val / 32) = true) :
    exec (.windowWrite t w v) s = .next (updTile s t.val (takeWindow w.val (writtenWindow s t.val w.val v))) := by
  refine (gate_on _ _ hon).trans (congrArg _ ?_)
  cases hb : pairBad (winOk (writtenWindow s t.val w.val v)) (writtenWindow s t.val w.val v) with
  | true =>
    refine (if_pos hb).trans (updTile_congr ?_)
    rw [takeWindow, storedPair_bad hb, hb, Bool.or_true]
    rfl
  | false =>
    refine (if_neg (ne_true_of_eq_false hb)).trans (updTile_congr ?_)
    rw [takeWindow, storedPair_good hb, hb, Bool.or_false]
    rfl

/-- Window `w` of a die's HBM windows with its HBM_WIN_A written. -/
def writtenHbmWindow (s : State) (d w : Nat) (v : W64) : RegPair := { (s.dies.get d).hbmWins.get w with a := v &&& hbmWinAMask }

/-- A die that takes a write of an HBM window: a bad pair is stored shut and raises the die's error. -/
def takeHbmWindow (w : Nat) (p : RegPair) (x : DieRegs) : DieRegs :=
  { x with hbmWinErr := x.hbmWinErr || pairBad (hbmWinOk p) p, hbmWins := x.hbmWins.set w (storedPair (hbmWinOk p) p) }

theorem takeHbmWindow_good {i : Nat} {p : RegPair} (h : pairBad (hbmWinOk p) p = false) (x : DieRegs) :
    (takeHbmWindow i p x).hbmWins.get i = p ∧ (takeHbmWindow i p x).hbmWinErr = x.hbmWinErr := by
  simp [takeHbmWindow, storedPair_good h, h]

theorem takeHbmWindow_bad {i : Nat} {p : RegPair} (h : pairBad (hbmWinOk p) p = true) (x : DieRegs) :
    (takeHbmWindow i p x).hbmWins.get i = shut p ∧ (takeHbmWindow i p x).hbmWinErr = true := by
  simp [takeHbmWindow, storedPair_bad h, h]

theorem takeHbmWindow_ne {i k : Nat} (p : RegPair) (x : DieRegs) (h : k ≠ i) : (takeHbmWindow i p x).hbmWins.get k = x.hbmWins.get k :=
  Tbl.get_set_ne x.hbmWins i _ h

theorem hbmWindowWrite_on {s : State} {d : Die} (w : Fin 16) (v : W64) (hon : dieBlockOn s d.val = true) :
    exec (.hbmWindowWrite d w v) s = .next (updDie s d.val (takeHbmWindow w.val (writtenHbmWindow s d.val w.val v))) := by
  refine (gate_on _ _ hon).trans ?_
  cases hb : pairBad (hbmWinOk (writtenHbmWindow s d.val w.val v)) (writtenHbmWindow s d.val w.val v) with
  | true =>
    refine (if_pos hb).trans (congrArg _ (updDie_congr ?_))
    rw [takeHbmWindow, storedPair_bad hb, hb, Bool.or_true]
    rfl
  | false =>
    refine (if_neg (ne_true_of_eq_false hb)).trans (congrArg _ (updDie_congr ?_))
    rw [takeHbmWindow, storedPair_good hb, hb, Bool.or_false]
    rfl

/-- Settles O27: a write of a handle or a window is one change of its tile or die, which stores the pair or shuts it. -/
theorem handleAndWindowRegisters : Obligations.HandleAndWindowRegisters := by
  unfold Obligations.HandleAndWindowRegisters
  refine ⟨fun s t h v hon hfree hnone => ?handle, fun s t h v hon hbusy => ?busy,
    fun s t h v w hon hw hwh => handleWrite_held v hon (.inr ⟨w, hw, hwh⟩),
    fun s t h b v hheld hfree => handleWriteRelease_only hheld hfree, fun s t w v hon => ?window, fun s d w v hon => ?hbm⟩
  case handle =>
    refine ⟨_, handleWrite_free v hon hfree hnone, fun hgood => ?_, fun hv hok => ?_, fun k hk => ?_,
      fun k hk => get_applyHandle_ne s h.val v hk, applyHandle_bytes s t.val h.val v⟩
    · rw [get_applyHandle]
      exact takeHandle_good (pairBad_eq_false hgood) _
    · obtain ⟨hstored, herr⟩ := takeHandle_bad (i := h.val) (pairBad_eq_true hv hok) (s.tiles.get t.val)
      rw [handleOf, get_applyHandle, writtenHandle, hstored]
      exact ⟨herr, handleF_shut_valid _⟩
    · rw [get_applyHandle, takeHandle_ne _ _ hk]
  case busy =>
    refine ⟨_, handleWrite_held v hon (.inl hbusy), ?_, ?_, rfl⟩ <;> rw [get_updTile]
  case window =>
    refine ⟨_, windowWrite_on w v hon, fun hgood => ?_, fun hv hok => ?_, fun k hk => ?_, rfl, fun k hk => get_updTile_ne s _ hk⟩
    · rw [get_updTile]
      exact takeWindow_good (pairBad_eq_false (by rwa [rbit_eq_getLsbD])) _
    · obtain ⟨hstored, herr⟩ := takeWindow_bad (i := w.val) (pairBad_eq_true (by rwa [rbit_eq_getLsbD]) hok) (s.tiles.get t.val)
      rw [get_updTile, writtenWindow, hstored, ← rbit_eq_getLsbD]
      exact ⟨rbit_shut _, herr⟩
    · rw [get_updTile, takeWindow_ne _ _ hk]
  case hbm =>
    refine ⟨_, hbmWindowWrite_on w v hon, fun hgood => ?_, fun hv hok => ?_, fun k hk => ?_, rfl, rfl, fun k hk => get_updDie_ne s _ hk⟩
    · rw [get_updDie]
      exact (takeHbmWindow_good (pairBad_eq_false (by rwa [rbit_eq_getLsbD])) _).1
    · obtain ⟨hstored, herr⟩ := takeHbmWindow_bad (i := w.val) (pairBad_eq_true (by rwa [rbit_eq_getLsbD]) hok) (s.dies.get d.val)
      rw [get_updDie, writtenHbmWindow, hstored, ← rbit_eq_getLsbD]
      exact ⟨rbit_shut _, herr⟩
    · rw [get_updDie, takeHbmWindow_ne _ _ hk]

end Sys2Proof.Machine
end

section
/-!
Accesses and probes that arrive through the windows of a tile or of a die's HBM3 (O28): each is admitted or refused as a whole. That an
admitted access waits while its tile is being scrubbed is the model's choice (log entry 160).
-/

namespace Sys2Proof.Machine

/-! ### Accesses through windows (R126, R257) -/

/-- A read of memory without physical faults leaves no trace. -/
theorem eccAt_of_clean {s : State} (h : s.mem.ecc = []) (k n : Nat) : eccAt s k n = s := by simp [eccAt, eccNote, h]

theorem serveAccess_write {a : Access} (h : a.write = true) (s : State) (k : Nat) :
    serveAccess s k a = storeClean s k (bytesAt a.data 0 a.len) := if_pos h

theorem serveAccess_read {s : State} {a : Access} (h : a.write = false) (hecc : s.mem.ecc = []) (k : Nat) :
    serveAccess s k a = emit s (.winRead (plain (loadMod s k a.len))) := by
  simp [serveAccess, h, eccAt_of_clean hecc]

theorem rejectAccess_foreign {a : Access} (h : a.origin = none) (s : State) : rejectAccess s a = emit s .winReject := by
  simp [rejectAccess, h]

/-- An access that one of the tile's windows accepts is served, or waits for the tile's scrub. -/
theorem remoteAccess_admitted {s : State} {t : TileNo} {a : Access} (hup : dieUp s (t.val / 32) = true)
    (hadm : tileAdmits s t.val a.src.toNat a.addr a.len a.write = true) :
    exec (.remoteAccess t a) s = .next (if (s.tiles.get t.val).scrubBusy
      then updTile s t.val fun x => { x with waiting := x.waiting ++ [a] } else serveAccess s (tileKey t.val a.addr) a) :=
  if_pos (Bool.and_eq_true_iff.2 ⟨hup, hadm⟩)

/-- An access that no window admits is counted by the tile and rejected. -/
theorem remoteAccess_refused {s : State} {t : TileNo} {a : Access}
    (hno : dieUp s (t.val / 32) = false ∨ tileAdmits s t.val a.src.toNat a.addr a.len a.write = false) :
    exec (.remoteAccess t a) s = .next (rejectAccess (tileRefuses s t.val) a) :=
  if_neg (ne_true_of_eq_false (Bool.and_eq_false_iff.2 hno))

theorem hbmWindowAccess_admitted {s : State} {d : Die} {a : Access} (hup : dieUp s d.val = true)
    (hadm : hbmAdmits s d.val a.src.toNat a.addr a.len a.write = true) (hext : hbmExtent s d.val a.addr a.len = true) :
    exec (.hbmWindowAccess d a) s = .next (serveAccess s (dieKey d.val a.addr) a) :=
  if_pos (Bool.and_eq_true_iff.2 ⟨Bool.and_eq_true_iff.2 ⟨hup, hadm⟩, hext⟩)

theorem hbmWindowAccess_refused {s : State} {d : Die} {a : Access}
    (hno : dieUp s d.val = false ∨ hbmAdmits s d.val a.src.toNat a.addr a.len a.write = false ∨
      hbmExtent s d.val a.addr a.len = false) :
    exec (.hbmWindowAccess d a) s = .next (rejectAccess s a) := by
  refine if_neg (ne_true_of_eq_false ?_)
  rwa [Bool.and_eq_false_iff, Bool.and_eq_false_iff, or_assoc]

theorem tileRefuses_count (s : State) (t : Nat) :
    ((tileRefuses s t).tiles.get t).winReject = satInc (s.tiles.get t).winReject 1 := by
  rw [tileRefuses, get_updTile]

theorem tileRefuses_ne (s : State) {t k : Nat} (h : k ≠ t) : (tileRefuses s t).tiles.get k = s.tiles.get k := get_updTile_ne s _ h

/-! ### Probes (R315) -/

theorem probe_tile_admitted {s : State} {t : TileNo} {src : BitVec 12} {addr len : Nat} {write : Bool} (hup : dieUp s (t.val / 32) = true)
    (hadm : tileAdmits s t.val src.toNat addr len write = true) :
    exec (.probe (.tile t src addr len write)) s = .next (emit s (.probeAnswer true)) :=
  if_pos (Bool.and_eq_true_iff.2 ⟨hup, hadm⟩)

theorem probe_tile_refused {s : State} {t : TileNo} {src : BitVec 12} {addr len : Nat} {write : Bool}
    (hno : dieUp s (t.val / 32) = false ∨ tileAdmits s t.val src.toNat addr len write = false) :
    exec (.probe (.tile t src addr len write)) s = .next (emit (tileRefuses s t.val) (.probeAnswer false)) :=
  if_neg (ne_true_of_eq_false (Bool.and_eq_false_iff.2 hno))

/-- A descriptor whose targets all accept it, here and elsewhere, goes on. -/
theorem answerProbe_admitted {s : State} {e ch : Nat} {d : DSlot}
    (hadm : ∀ x ∈ extents d.bytes, needsProbe s e x = true → isLocal s x.w = true → targetAdmits s e x = true) :
    answerProbe s e ch d true = updSlotD s e ch d { d with phase := .probed } := by
  have hnone : ((extents d.bytes).filter (needsProbe s e)).filter (fun x => isLocal s x.w && !targetAdmits s e x) = [] := by
    simp only [List.filter_eq_nil_iff, List.mem_filter, and_imp]
    intro x hx hneeds
    cases hlocal : isLocal s x.w with
    | false => simp
    | true => simp [hadm x hx hneeds hlocal]
  simp [answerProbe, hnone]

/-- The probe of a channel's only descriptor, admitted everywhere, moves it on. -/
theorem probe_own_admitted {s : State} {e : EngineNo} {ch : Chan} {d : DSlot} (hprog : (chanOf s e.val ch.val).prog = [d])
    (hphase : d.phase = .probing)
    (hadm : ∀ x ∈ extents d.bytes, needsProbe s e.val x = true → isLocal s x.w = true → targetAdmits s e.val x = true) :
    exec (.probe (.own e ch true)) s = .next (updSlotD s e.val ch.val d { d with phase := .probed }) := by
  have hfind : (chanOf s e.val ch.val).prog.find? (fun d => d.phase = .probing) = some d := by simp [hprog, hphase]
  change execProbe (.own e ch true) s = _
  simp only [execProbe, hfind, answerProbe_admitted hadm]

/-- Settles O28: the accesses by `remoteAccess_admitted` and its companions, the probes by `probe_tile_admitted` and its companions. -/
theorem remoteAccessesThroughWindows : Obligations.RemoteAccessesThroughWindows := by
  unfold Obligations.RemoteAccessesThroughWindows
  refine ⟨fun s t a hidle hup hadm hw => ?write, fun s t a hidle hup hadm hr hecc => ?read, fun s t a hbusy hup hadm => ?waits,
    fun s t a hno horig => ?refused, fun s d a hup hadm hext hw => ?hbmWrite, fun s d a hno horig => ?hbmRefused,
    fun s t src addr len write hup hadm => probe_tile_admitted hup hadm, fun s t src addr len write hno => ?probeRefused,
    fun s d src addr len write => rfl, fun s e ch d hprog hphase hadm => ?own⟩
  case write => rw [remoteAccess_admitted hup hadm, hidle, if_neg Bool.false_ne_true, serveAccess_write hw]
  case read => rw [remoteAccess_admitted hup hadm, hidle, if_neg Bool.false_ne_true, serveAccess_read hr hecc]
  case waits => rw [remoteAccess_admitted hup hadm, hbusy, if_pos rfl]
  case refused =>
    refine ⟨_, remoteAccess_refused hno, ?_⟩
    rw [rejectAccess_foreign horig]
    exact ⟨rfl, rfl, tileRefuses_count s t.val, fun k hk => tileRefuses_ne s hk⟩
  case hbmWrite => rw [hbmWindowAccess_admitted hup hadm hext, serveAccess_write hw]
  case hbmRefused => rw [hbmWindowAccess_refused hno, rejectAccess_foreign horig]
  case probeRefused => exact ⟨_, probe_tile_refused hno, rfl, rfl, tileRefuses_count s t.val⟩
  case own =>
    refine ⟨_, probe_own_admitted hprog hphase hadm, ?_, rfl, rfl⟩
    rw [updSlotD, chanOf_updChan_self, hprog]
    simp

end Sys2Proof.Machine
end

section
/-!
What commands of a stream share (O12, O15): the command that a stream enters, the changes of a running command's data, a check of one
condition, and the messages that a command sends, which change only links, output and the free counter.
-/

namespace Sys2Proof.Machine

/-- A stream that enters its command runs it. -/
theorem startEntry_enters {s o : State} {st : Stream} {opc : Nat} {e : NextEntry} (run : JobRef → Bytes → State → State)
    (h : Enters s st opc e o) : startEntry opc st.val run s = .next (run (.stream st.val) e.bytes o) := by
  obtain ⟨hstarts, rfl⟩ := h
  exact startEntry_starts run hstarts

theorem startEntry_runs {s o t : State} {st : Stream} {opc : Nat} {e : NextEntry} {run : JobRef → Bytes → State → State}
    (h : Enters s st opc e o) (hrun : run (.stream st.val) e.bytes o = t) : startEntry opc st.val run s = .next t := by
  rw [startEntry_enters run h, hrun]

/-! ### A running command's data -/

@[simp] theorem updJob_mem (s : State) (j : JobRef) (f : Job → Job) : (updJob s j f).mem = s.mem := by unfold updJob; split <;> rfl
@[simp] theorem updJob_md (s : State) (j : JobRef) (f : Job → Job) : (updJob s j f).md = s.md := by unfold updJob; split <;> rfl
@[simp] theorem updJob_lk (s : State) (j : JobRef) (f : Job → Job) : (updJob s j f).lk = s.lk := by unfold updJob; split <;> rfl
@[simp] theorem updJob_pw (s : State) (j : JobRef) (f : Job → Job) : (updJob s j f).pw = s.pw := by unfold updJob; split <;> rfl

theorem getJob_updJob {s : State} {j : JobRef} {b : Job} (f : Job → Job) (h : getJob s j = some b) :
    getJob (updJob s j f) j = some (f b) := by
  rw [updJob_of_some f h, getJob_putJob]

theorem getJob_of_cp_eq {s t : State} (h : s.cp = t.cp) (j : JobRef) : getJob s j = getJob t j := by
  rw [getJob, getJob, h]

@[simp] theorem setBody_mem (s : State) (j : JobRef) (b : Body) : (setBody s j b).mem = s.mem := updJob_mem s j _
@[simp] theorem setBody_md (s : State) (j : JobRef) (b : Body) : (setBody s j b).md = s.md := updJob_md s j _
@[simp] theorem setBody_lk (s : State) (j : JobRef) (b : Body) : (setBody s j b).lk = s.lk := updJob_lk s j _
@[simp] theorem setBody_pw (s : State) (j : JobRef) (b : Body) : (setBody s j b).pw = s.pw := updJob_pw s j _

theorem getJob_setBody {s : State} {j : JobRef} {b : Job} (x : Body) (h : getJob s j = some b) :
    getJob (setBody s j x) j = some { b with body := x } := getJob_updJob _ h

@[simp] theorem noteModel_mem (s : State) (j : JobRef) (k : Nat) (g : BitVec 16) (p i : Bytes) (n : Nat) :
    (noteModel s j k g p i n).mem = s.mem := updJob_mem s j _
@[simp] theorem noteModel_md (s : State) (j : JobRef) (k : Nat) (g : BitVec 16) (p i : Bytes) (n : Nat) :
    (noteModel s j k g p i n).md = s.md := updJob_md s j _

theorem seqOf_of_md_eq {s t : State} (h : s.md = t.md) (ra : W64) : seqOf s ra = seqOf t ra := by rw [seqOf, seqOf, h]

/-! ### Checks -/

theorem firstFail_single {α : Type} {c : Bool} {x : α} (h : c = false) : firstFail [(c, x)] = none := by simp [firstFail, h]

theorem exclusively_alone {s : State} {j : JobRef} (run : State → State) (h : exclusiveRuns s j = false) : exclusively j run s = run s :=
  if_neg (ne_true_of_eq_false h)

theorem exclusively_busy {s : State} {j : JobRef} (run : State → State) (h : exclusiveRuns s j = true) :
    exclusively j run s = finish s j .busy 0 := if_pos h

/-! ### Messages to other modules (R444, R445) -/

/-- `t` is `s` after messages have been sent: links, output and the free counter apart, nothing has changed. -/
def SentFrom (s t : State) : Prop := ∃ lk out free, t = { s with lk := lk, out := out, free := free }

theorem SentFrom.refl (s : State) : SentFrom s s := ⟨s.lk, s.out, s.free, rfl⟩

theorem SentFrom.trans {s t u : State} (h : SentFrom s t) (h' : SentFrom t u) : SentFrom s u := by
  obtain ⟨_, _, _, rfl⟩ := h
  obtain ⟨lk, out, free, rfl⟩ := h'
  exact ⟨lk, out, free, rfl⟩

theorem SentFrom.mem_eq {s t : State} (h : SentFrom s t) : t.mem = s.mem := by obtain ⟨_, _, _, rfl⟩ := h; rfl
theorem SentFrom.md_eq {s t : State} (h : SentFrom s t) : t.md = s.md := by obtain ⟨_, _, _, rfl⟩ := h; rfl
theorem SentFrom.cp_eq {s t : State} (h : SentFrom s t) : t.cp = s.cp := by obtain ⟨_, _, _, rfl⟩ := h; rfl

theorem sentFrom_setLk (s : State) (f : Links → Links) : SentFrom s (setLk s f) := ⟨f s.lk, s.out, s.free, rfl⟩

theorem sentFrom_launchMsg (s : State) (p : Nat) (q : Port) (m : Msg) : SentFrom s (launchMsg s p q m) := ⟨_, _, _, rfl⟩

theorem sentFrom_postMsg (s : State) (p : Nat) (m : Msg) : SentFrom s (postMsg s p m) := by
  unfold postMsg
  split
  · exact .refl s
  · split
    · exact sentFrom_launchMsg s p _ m
    · exact ⟨_, s.out, s.free, rfl⟩

theorem sentFrom_sendOn (s : State) (p : Nat) (dst : BitVec 12) (kind : Nat) (pay : Bytes) : SentFrom s (sendOn s p dst kind pay) := by
  unfold sendOn
  split
  · exact sentFrom_postMsg s p _
  · exact List.foldlRecOn _ _ (motive := SentFrom s) (.refl s) fun t ht b _ => ht.trans (sentFrom_postMsg t p _)

theorem sentFrom_sendTwin (s : State) (kind : Nat) (pay : Bytes) : SentFrom s (sendTwin s kind pay) := by
  unfold sendTwin
  split
  · exact sentFrom_sendOn s 7 _ kind pay
  · exact .refl s

theorem sentFrom_mirrorLog (s : State) (e : Bytes) (ra : W64) : SentFrom s (mirrorLog s e ra) := by
  unfold mirrorLog
  split
  · exact (sentFrom_sendTwin s _ _).trans (sentFrom_setLk _ _)
  · exact .refl s

end Sys2Proof.Machine
end

section
/-!
KERNEL by its KIND (O12, R354, R368). `kernel_runs` is the step of a KERNEL that does not wait; each KIND then has one lemma. That a
kernel waits for the scrub of a tile that it maps is the model's choice (log entry 160).
-/

namespace Sys2Proof.Machine

/-- Only a compiled kernel waits for a scrub. -/
theorem kernelWaits_of_kind {e : Bytes} (h : byteN e 16 ≠ 0) (s : State) : kernelWaits s e = false := by
  simp [kernelWaits, h]

/-- A KERNEL that neither a drain nor a scrub holds runs. -/
theorem kernel_runs {s o : State} {st : Stream} {e : NextEntry} (h : Enters s st 0x01 e o)
    (hstay : leaving s = false ∨ byteN e.bytes 16 ≠ 1) (hwait : kernelWaits s e.bytes = false) :
    exec (.kernel st) s = .next (runKernel (.stream st.val) e.bytes o) := by
  have hdrain : ¬ (leaving s && entryOpc e.bytes = 0x01 && byteN e.bytes 16 = 1) = true := by
    rcases hstay with hstay | hstay <;> simp [hstay]
  have hstart := startEntry_enters runKernel h
  obtain ⟨⟨hnext, -⟩, -⟩ := h
  change execKernel st s = _
  simp only [execKernel, hnext]
  rw [if_neg hdrain, if_neg (ne_true_of_eq_false hwait), hstart]

/-- A KERNEL that a scrub or a drain holds waits (R129, R469). -/
theorem kernel_waits {s : State} {st : Stream} {e : NextEntry} (hnext : nextEntry s st.val = some e)
    (h : kernelWaits s e.bytes = true ∨ (leaving s = true ∧ entryOpc e.bytes = 0x01 ∧ byteN e.bytes 16 = 1)) :
    exec (.kernel st) s = .next s := by
  change execKernel st s = _
  simp only [execKernel, hnext]
  rcases h with hwait | ⟨hleave, hopc, hkind⟩
  · rw [if_pos hwait, ite_self]
  · exact if_pos (by simp [hleave, hopc, hkind])

/-! ### KIND 1: PREFILL (R266) -/

/-- A prefill that passes its checks runs as its record's, and is the last admission of its slot's queue. -/
theorem runPrefill_joins {s : State} {j : JobRef} {e : Bytes} {b : Job} (hjob : getJob s j = some b) (hchk : checkPrefill s e = none) :
    ∃ b', getJob (runPrefill j e s) j = some b' ∧ b'.body = .prefill (pRec e) ∧ (runPrefill j e s).mem = s.mem ∧
      (runPrefill j e s).md = { s.md with slots := s.md.slots.upd (pSlot e) fun x =>
        { x with admits := x.admits ++ [⟨j, pRec e, entryAddrW e, pLen e⟩] } } := by
  rw [runPrefill, checkThen_passes _ _ _ hchk]
  extract_lets slot m input s1 s2
  have hs2 := sentFrom_mirrorLog (setBody s1 j (.prefill (pRec e))) e (pRec e)
  obtain ⟨b1, hb1⟩ : ∃ b1, getJob s1 j = some b1 := ⟨_, getJob_updJob _ hjob⟩
  refine ⟨_, (getJob_of_cp_eq hs2.cp_eq j).trans (getJob_setBody _ hb1), rfl, ?_, ?_⟩
  · rw [updSlot_mem, hs2.mem_eq, setBody_mem, noteModel_mem]
  · rw [updSlot_md, hs2.md_eq, setBody_md, noteModel_md]

/-! ### KIND 2: RELEASE (R268) -/

theorem tryRelease_empty {s : State} {ra : W64} (j : JobRef) (hfree : recordBusy s ra = false) (hwaits : s.lk.twinWaits = [])
    (hnone : seqOf s ra = none) : tryRelease s j ra = finish s j .ok 0 := by
  simp [tryRelease, hfree, hwaits, hnone]

/-- A release of a record without a sequence, which nothing names, ends at once. -/
theorem runRelease_empty {s : State} {j : JobRef} {e : Bytes} (hchk : checkRelease s e = none) (hnone : seqOf s (pRec e) = none)
    (hfree : recordBusy (setBody s j (.release (pRec e))) (pRec e) = false) (hwaits : s.lk.twinWaits = []) :
    runRelease j e s = finish (setBody s j (.release (pRec e))) j .ok 0 := by
  have hnone' : seqOf (setBody s j (.release (pRec e))) (pRec e) = none := (seqOf_of_md_eq (setBody_md s j _) _).trans hnone
  rw [runRelease, checkThen_passes _ _ _ hchk]
  simp only [hnone, hnone', Option.isSome_none, Bool.false_eq_true, if_false]
  exact tryRelease_empty j hfree (by rwa [setBody_lk]) hnone'

/-! ### KERNEL -/

theorem runKernel_compiled {j : JobRef} {e : Bytes} {s : State} (h : byteN e 16 = 0) : runKernel j e s = runCompiled j e s := by
  simp only [runKernel, h]

theorem runKernel_prefill {j : JobRef} {e : Bytes} {s : State} (h : byteN e 16 = 1) : runKernel j e s = runPrefill j e s := by
  simp only [runKernel, h]

theorem runKernel_release {j : JobRef} {e : Bytes} {s : State} (h : byteN e 16 = 2) : runKernel j e s = runRelease j e s := by
  simp only [runKernel, h]

theorem runKernel_badKind {j : JobRef} {e : Bytes} {s : State} (h : 2 < byteN e 16) : runKernel j e s = finish s j .lenRange 0 := by
  unfold runKernel
  split
  case h_4 => rfl
  all_goals omega

/-- Settles O12: a KERNEL runs by `kernel_runs` as its KIND says, or waits by `kernel_waits`. -/
theorem kernelCommandsStart : Obligations.KernelCommandsStart := by
  unfold Obligations.KernelCommandsStart
  refine ⟨fun s o st e h hkind hwait hchk => ?compiled, fun s o st e h hjob hkind hleave hchk => ?prefill,
    fun s o st e h hkind hchk hnone hfree hwaits => ?release, fun s o st e h hkind => ?badKind, fun s st e hnext h => kernel_waits hnext h⟩
  case compiled =>
    rw [kernel_runs h (.inr (by omega)) hwait, runKernel_compiled hkind, runCompiled, checkThen_passes _ _ _ hchk]
  case prefill =>
    obtain ⟨b, hb, hbody, hmem, hmd⟩ := runPrefill_joins hjob hchk
    refine ⟨_, b, ?_, hb, hbody, hmem, ?_, fun k hk => ?_, ?_⟩
    · rw [kernel_runs h (.inl hleave) (kernelWaits_of_kind (by omega) s), runKernel_prefill hkind]
    · rw [hmd, Tbl.get_upd_self]
    · rw [hmd, Tbl.get_upd_ne _ _ _ hk]
    · rw [hmd]
  case release =>
    rw [kernel_runs h (.inr (by omega)) (kernelWaits_of_kind (by omega) s), runKernel_release hkind,
      runRelease_empty hchk hnone hfree hwaits]
  case badKind => rw [kernel_runs h (.inr (by omega)) (kernelWaits_of_kind (by omega) s), runKernel_badKind hkind]

end Sys2Proof.Machine
end

section
/-!
The control commands that set something (O15): SCRUB and the end of a scrub, FAULT_POLICY, HOST_TIER_MAP, POWER_POLICY, CLOCK_PIN, RETIRE,
RING_CONFIG and WSET_SWITCH. Each command has one lemma about its `run` function under its checks. That RETIRE takes its channel out of
service at once (log entry 88) and that remote accesses wait for a scrub (log entry 160) is the model's choice.
-/

namespace Sys2Proof.Machine

/-! ### SCRUB (R130) -/

theorem runScrub_switch {j : JobRef} {e : Bytes} (s : State) (h : byteN e 16 = 1 ∨ byteN e 16 = 2) :
    runScrub j e s = finish (setHq s fun q => { q with kscrub := decide (byteN e 16 = 2) }) j .ok 0 := by
  rw [runScrub, checkThen_passes _ _ _ (firstFail_single (decide_eq_false (by omega)))]
  rcases h with h | h <;> simp only [h]

theorem runScrub_tiles {j : JobRef} {e : Bytes} (s : State) (h : byteN e 16 = 0) :
    runScrub j e s =
      if maskTiles s (leAt e 20 4) (leAt e 24 4) = [] then finish s j .ok 0
      else (maskTiles s (leAt e 20 4) (leAt e 24 4)).foldl scrubTile
        (setBody s j (.ctl (.scrubTiles (maskTiles s (leAt e 20 4) (leAt e 24 4))))) := by
  rw [runScrub, checkThen_passes _ _ _ (firstFail_single (decide_eq_false (by omega)))]
  simp only [h, List.isEmpty_iff]

/-! ### The end of a scrub (R117, R129) -/

/-- A tile whose scrub has ended keeps nothing waiting. -/
def unscrubbed (x : Tile) : Tile := { x with scrubBusy := false, waiting := [] }

/-- Feeding does nothing where no kernel runs. -/
theorem feedAll_of_noKernel {s : State} (h : ∀ p ∈ s.cp.jobs, ∀ k, p.2.body ≠ .kernel k) : feedAll s = s := by
  refine if_neg (ne_true_of_eq_false (List.any_eq_false.2 fun p hp => ?_))
  split
  · next k hk => exact absurd hk (h p hp k)
  · exact Bool.false_ne_true

/-- No write makes a physical fault. -/
theorem storeClean_ecc {s : State} (h : s.mem.ecc = []) (k : Nat) (b : Bytes) : (storeClean s k b).mem.ecc = [] := by
  unfold storeClean storeMod
  split
  · exact h
  · dsimp only
    split <;> simp [eccAfter, Tbl.clear, h]

/-- Where memory has no physical fault, an access leaves the commands alone and makes no fault. -/
theorem serveAccess_clean {s : State} (h : s.mem.ecc = []) (k : Nat) (a : Access) :
    (serveAccess s k a).cp = s.cp ∧ (serveAccess s k a).mem.ecc = [] := by
  cases hw : a.write with
  | true =>
    rw [serveAccess_write hw]
    exact ⟨storeClean_cp _ _ _, storeClean_ecc h _ _⟩
  | false =>
    rw [serveAccess_read hw h]
    exact ⟨rfl, h⟩

/-- The accesses that wait for a scrub, served in order. -/
def serveWaiting (t : Nat) (l : List Access) (s : State) : State := l.foldl (fun s a => serveAccess s (tileKey t a.addr) a) s

theorem serveWaiting_cp {s : State} (h : s.mem.ecc = []) (t : Nat) (l : List Access) : (serveWaiting t l s).cp = s.cp := by
  induction l generalizing s with
  | nil => rfl
  | cons a r ih =>
    obtain ⟨hcp, hecc⟩ := serveAccess_clean h (tileKey t a.addr) a
    exact (ih hecc).trans hcp

/-- The state after the end of a tile's scrub, before its commands are looked at. -/
def afterScrub (s : State) (t : Nat) : State := serveWaiting t (s.tiles.get t).waiting (updTile s t unscrubbed)

/-- A SCRUB completes when every tile that it waits for is done. -/
def endScrub (s : State) (p : JobRef × Job) : State :=
  match p.2.body with
  | .ctl (.scrubTiles ts) => if ts.all fun t => !(s.tiles.get t).scrubBusy then finish s p.1 .ok (BitVec.ofNat 64 ts.length) else s
  | _ => s

theorem scrubDone_eq (s : State) (t : TileNo) :
    exec (.scrubDone t) s = .next ((feedAll (afterScrub s t.val)).cp.jobs.foldl endScrub (feedAll (afterScrub s t.val))) := rfl

/-- With no command running, the end of a scrub serves the waiting accesses and nothing more. -/
theorem scrubDone_idle {s : State} (t : TileNo) (hjobs : s.cp.jobs = []) (hecc : s.mem.ecc = []) :
    exec (.scrubDone t) s = .next (afterScrub s t.val) := by
  have hecc' : (updTile s t.val unscrubbed).mem.ecc = [] := hecc
  have hnone : (afterScrub s t.val).cp.jobs = [] := by rw [afterScrub, serveWaiting_cp hecc', updTile_cp, hjobs]
  rw [scrubDone_eq, feedAll_of_noKernel (by simp [hnone]), hnone, List.foldl_nil]

theorem endScrub_done {s : State} {j : JobRef} {b : Job} {t : Nat} (hbody : b.body = .ctl (.scrubTiles [t]))
    (hdone : (s.tiles.get t).scrubBusy = false) : endScrub s (j, b) = finish s j .ok 1 := by
  simp [endScrub, hbody, hdone]

/-- The end of the scrub for which alone a SCRUB waits completes it. -/
theorem scrubDone_last {s : State} {t : TileNo} {j : JobRef} {b : Job} (hjobs : s.cp.jobs = [(j, b)])
    (hbody : b.body = .ctl (.scrubTiles [t.val])) (hwait : (s.tiles.get t.val).waiting = []) :
    exec (.scrubDone t) s = .next (finish (updTile s t.val unscrubbed) j .ok 1) := by
  have hafter : afterScrub s t.val = updTile s t.val unscrubbed := by rw [afterScrub, hwait, serveWaiting, List.foldl_nil]
  have hfeed : feedAll (updTile s t.val unscrubbed) = updTile s t.val unscrubbed := feedAll_of_noKernel (by simp [hjobs, hbody])
  have hdone : ((updTile s t.val unscrubbed).tiles.get t.val).scrubBusy = false := by rw [get_updTile, unscrubbed]
  rw [scrubDone_eq, hafter, hfeed, updTile_cp, hjobs, List.foldl_cons, List.foldl_nil, endScrub_done hbody hdone]

/-! ### FAULT_POLICY (R478) -/

/-- The fault registers after a FAULT_POLICY. -/
def takePolicy (s : State) (e : Bytes) : Faults :=
  let kind := rfld (param64 e 16) 63 56
  let p := s.flt.policies.set (2 * kind + fld (byteN e 32) 7 7) (some ⟨leAt e 24 4, leAt e 28 4, fld (byteN e 32) 2 0⟩)
  { s.flt with policies := p, stored := if flashOpen s then p else s.flt.stored
               buckets := keepLevels s kind (fld (byteN e 32) 7 7) (leAt e 28 4) }

theorem takePolicy_policies (s : State) (e : Bytes) : (takePolicy s e).policies =
    s.flt.policies.set (2 * rfld (param64 e 16) 63 56 + fld (byteN e 32) 7 7)
      (some ⟨leAt e 24 4, leAt e 28 4, fld (byteN e 32) 2 0⟩) := rfl

theorem runFaultPolicy_passes {j : JobRef} {e : Bytes} (s : State) (h : policyBad e = false) :
    runFaultPolicy j e s = finish { s with flt := takePolicy s e } j .ok 0 :=
  checkThen_passes _ _ _ (firstFail_single h)

/-! ### HOST_TIER_MAP (R271) -/

theorem runTierMap_maps {j : JobRef} {e : Bytes} {s : State} (hchk : checkTierMap s e = none) (hlen : (param64 e 24).toNat ≠ 0) :
    runTierMap j e s = finish (setTier s (byteN e 16)
      { mapped := true, host := BitVec.ofNat 64 (hostF (entryAddrW e)), len := (param64 e 24).toNat
        off := (param64 e 32).toNat, use_ := byteN e 17 }) j .ok 0 := by
  rw [runTierMap, checkThen_passes _ _ _ hchk]
  simp only [if_neg hlen]

/-! ### POWER_POLICY (R500) -/

theorem reCap_policyCap (s : State) : (reCap s).pw.policyCap = s.pw.policyCap := rfl
theorem reCap_borrow (s : State) : (reCap s).pw.borrow = s.pw.borrow := rfl
theorem reCap_coolIn (s : State) : (reCap s).pw.coolIn = s.pw.coolIn := rfl
theorem reCap_cap (s : State) : (reCap s).pw.cap = capInForce s.pw := rfl

/-- The state after a POWER_POLICY with a cap and a borrowing setting, before its completion. -/
def takePowerPolicy (e : Bytes) (s : State) : State :=
  reCap (setPw (freeLenders (recallAll s)) fun p => { p with
    policyCap := if leAt e 16 2 = 0 then p.policyCap else leAt e 16 2
    borrow := if byteN e 18 = 2 then p.borrow else byteN e 18 = 1 })

theorem runPowerPolicy_passes {j : JobRef} {e : Bytes} (s : State) (hlo : 1200 ≤ leAt e 16 2) (hhi : leAt e 16 2 ≤ 3200)
    (hb : byteN e 18 ≤ 2) :
    runPowerPolicy j e s = finish (takePowerPolicy e s) j .ok (BitVec.ofNat 64 (takePowerPolicy e s).pw.cap) := by
  unfold runPowerPolicy
  extract_lets cap
  rw [checkThen_passes _ _ _ (firstFail_single (by simp [cap, Nat.not_lt.2 hlo, Nat.not_lt.2 hhi, Nat.not_lt.2 hb]))]
  rfl

theorem takePowerPolicy_policyCap {e : Bytes} (h : leAt e 16 2 ≠ 0) (s : State) :
    (takePowerPolicy e s).pw.policyCap = leAt e 16 2 := by
  rw [takePowerPolicy, reCap_policyCap, setPw_pw]
  exact if_neg h

theorem takePowerPolicy_borrow {e : Bytes} (h : byteN e 18 ≠ 2) (s : State) :
    (takePowerPolicy e s).pw.borrow = decide (byteN e 18 = 1) := by
  rw [takePowerPolicy, reCap_borrow, setPw_pw]
  exact if_neg h

/-- Up to 40.0 degrees of coolant the policy's cap is the cap in force (R509). -/
theorem reCap_cap_of_cool {s : State} (h : (reCap s).pw.coolIn.toNat ≤ 400) : (reCap s).pw.cap = (reCap s).pw.policyCap := by
  rw [reCap_coolIn] at h
  rw [reCap_cap, reCap_policyCap, capInForce, if_neg (Nat.not_lt.2 h)]

/-! ### CLOCK_PIN (R428) -/

theorem runClockPin_waits {j : JobRef} {e : Bytes} (s : State)
    (h : (byteN e 16 ≤ 3 ∧ byteN e 17 ≤ 1) ∨ (byteN e 16 = 0xFF ∧ byteN e 17 = 0)) :
    runClockPin j e s = setPw (setBody s j (.ctl .clock)) fun p => { p with
      clockPend := p.clockPend ++ [(byteN e 16, decide (byteN e 17 = 1), j)] } := by
  unfold runClockPin
  extract_lets n
  refine checkThen_passes _ _ _ (firstFail_single ?_)
  rcases h with ⟨hstep, hrepro⟩ | ⟨hstep, hrepro⟩
  · have hne : byteN e 16 ≠ 0xFF := by omega
    simp [n, Nat.not_lt.2 hstep, Nat.not_lt.2 hrepro, hne]
  · simp [n, hstep, hrepro]

/-! ### RETIRE (R471, R480) -/

theorem runRetire_alone {j : JobRef} {e : Bytes} {s : State} (hok : chanOk (param64 e 16) = true) (halone : exclusiveRuns s j = false) :
    runRetire j e s = finish (retireChannel s (param64 e 16)) j .ok 0 := by
  rw [runRetire, checkThen_passes _ _ _ (firstFail_single (by simp [hok])), exclusively_alone _ halone]

theorem runRetire_busy {j : JobRef} {e : Bytes} {s : State} (hok : chanOk (param64 e 16) = true) (hbusy : exclusiveRuns s j = true) :
    runRetire j e s = finish s j .busy 0 := by
  rw [runRetire, checkThen_passes _ _ _ (firstFail_single (by simp [hok])), exclusively_busy _ hbusy]

/-! ### RING_CONFIG (R358) -/

theorem runRingConfig_query {j : JobRef} {e : Bytes} {s : State} (hchk : checkRingConfig s e = none) (hop : byteN e 16 = 0) :
    runRingConfig j e s = finish (writeWord s (entryAddrW e) (bytesAt (ringReport s) 0 (entryLen e))) j .ok 0 := by
  rw [runRingConfig, checkThen_passes _ _ _ hchk, if_pos hop]

/-! ### WSET_SWITCH (R216) -/

theorem runWsetSwitch_serving {j : JobRef} {e : Bytes} {s : State} (hchk : checkSwitch s e = none)
    (h : (s.md.slots.get (byteN e 16)).serving = some (BitVec.ofNat 16 (leAt e 18 2))) :
    runWsetSwitch j e s = finish s j .ok 0 := by
  rw [runWsetSwitch, checkThen_passes _ _ _ hchk]
  exact if_pos h

/-- A slot with one more switch that waits. -/
def joinSwitch (w : Switch) (x : Slot) : Slot := { x with switches := x.switches ++ [w] }

theorem runWsetSwitch_joins {j : JobRef} {e : Bytes} {s : State} (hchk : checkSwitch s e = none)
    (h : (s.md.slots.get (byteN e 16)).serving ≠ some (BitVec.ofNat 16 (leAt e 18 2))) :
    runWsetSwitch j e s = updSlot (setBody s j (.ctl (.switch (byteN e 16)))) (byteN e 16)
      (joinSwitch ⟨BitVec.ofNat 16 (leAt e 18 2), byteN e 20, j⟩) := by
  rw [runWsetSwitch, checkThen_passes _ _ _ hchk]
  exact if_neg h

/-- Settles O15: each command enters by `startEntry_runs` and runs as its own lemma says. -/
theorem settingsCommandsComplete : Obligations.SettingsCommandsComplete := by
  unfold Obligations.SettingsCommandsComplete
  refine ⟨fun s o st e h hop => ?scrubSwitch, fun s o st e h hop => ?scrubTiles, fun s t hjobs hecc => scrubDone_idle t hjobs hecc,
    fun s t j b hjobs hbody hwait => scrubDone_last hjobs hbody hwait, fun s o st e h hgood => ?faultPolicy,
    fun s o st e h hchk hlen => ?tierMap, fun s o st e h hlo hhi hb => ?powerPolicy, fun s o st e h hjob hok => ?clockPin,
    fun s o st e h hok halone => ?retire, fun s o st e h hok hbusy => ?retireBusy, fun s o st e h hchk hop => ?ringConfig,
    fun s o st e h hchk hserv => ?switchServing, fun s o st e h hchk hserv => ?switchJoins⟩
  case scrubSwitch => exact startEntry_runs h (runScrub_switch o hop)
  case scrubTiles => exact startEntry_runs h (runScrub_tiles o hop)
  case faultPolicy =>
    refine ⟨takePolicy o e.bytes, startEntry_runs h (runFaultPolicy_passes o hgood),
      ?_, fun k hk => ?_, rfl, rfl⟩
    · rw [takePolicy_policies, Tbl.get_set_self]
    · rw [takePolicy_policies, Tbl.get_set_ne _ _ _ hk]
  case tierMap => exact startEntry_runs h (runTierMap_maps hchk hlen)
  case powerPolicy =>
    have hcap := takePowerPolicy_policyCap (e := e.bytes) (by omega) o
    exact ⟨takePowerPolicy e.bytes o, startEntry_runs h (runPowerPolicy_passes o hlo hhi hb),
      hcap, fun hset => takePowerPolicy_borrow hset o, fun hcool => (reCap_cap_of_cool hcool).trans hcap⟩
  case clockPin =>
    refine ⟨_, _, startEntry_runs h (runClockPin_waits o hok), getJob_setBody _ hjob, rfl, ?_, ?_, ?_, ?_⟩
    all_goals simp
  case retire => exact startEntry_runs h (runRetire_alone hok halone)
  case retireBusy => exact startEntry_runs h (runRetire_busy hok hbusy)
  case ringConfig => exact startEntry_runs h (runRingConfig_query hchk hop)
  case switchServing => exact startEntry_runs h (runWsetSwitch_serving hchk hserv)
  case switchJoins =>
    refine ⟨_, startEntry_runs h (runWsetSwitch_joins hchk hserv), setBody_mem o _ _, ?_, ?_⟩
    all_goals rw [updSlot_md, Tbl.get_upd_self, setBody_md, joinSwitch]

end Sys2Proof.Machine
end

section
/-!
Residency and levels (R142, R143, R173, R219): what the weights of a slot's generations need in SWS and in the scratchpads changes no more
of a slot than the shards of its generations. `Slot.bare` forgets those, and `ReseatedFrom` says so of two states (O18, O34).
-/

namespace Sys2Proof.Machine

/-! ### A slot but for its shards -/

/-- A slot without the shards of its generations. -/
def Slot.bare (x : Slot) : Slot := { x with gens := x.gens.map fun g => { g with shards := [] } }

@[simp] theorem bare_newest (x : Slot) : x.bare.newest = x.newest := rfl
@[simp] theorem bare_serving (x : Slot) : x.bare.serving = x.serving := rfl
@[simp] theorem bare_mode (x : Slot) : x.bare.mode = x.mode := rfl

theorem bare_gens_map {β : Type} {f : Gen → β} (hf : ∀ g sh, f { g with shards := sh } = f g) (x : Slot) :
    x.bare.gens.map f = x.gens.map f := by
  simp [Slot.bare, Function.comp_def, hf]

theorem bare_reshard (x : Slot) (p : Gen → Prop) [DecidablePred p] (f : Gen → Tbl Shard) :
    Slot.bare { x with gens := x.gens.map fun g => if p g then { g with shards := f g } else g } = x.bare := by
  simp only [Slot.bare, List.map_map]
  congr 1
  refine List.map_congr_left fun g _ => ?_
  rw [Function.comp_apply]
  split <;> rfl

/-- `t` is `s` after weights have moved: of the slots, sequences and passes only shards have changed, and no die has taken another epoch. -/
structure ReseatedFrom (s t : State) : Prop where
  md : ∃ slots, t.md = { s.md with slots := slots }
  bare : ∀ k, (t.md.slots.get k).bare = (s.md.slots.get k).bare
  epoch : ∀ d, (t.dies.get d).epoch = (s.dies.get d).epoch

namespace ReseatedFrom

theorem refl (s : State) : ReseatedFrom s s := ⟨⟨_, rfl⟩, fun _ => rfl, fun _ => rfl⟩

theorem trans {s t u : State} (h : ReseatedFrom s t) (h' : ReseatedFrom t u) : ReseatedFrom s u := by
  refine ⟨?_, fun k => (h'.bare k).trans (h.bare k), fun d => (h'.epoch d).trans (h.epoch d)⟩
  obtain ⟨_, ht⟩ := h.md
  obtain ⟨slots, hu⟩ := h'.md
  exact ⟨slots, by rw [hu, ht]⟩

theorem of_md_eq {s t : State} (hmd : t.md = s.md) (hep : ∀ d, (t.dies.get d).epoch = (s.dies.get d).epoch) : ReseatedFrom s t :=
  ⟨⟨s.md.slots, by rw [hmd]⟩, fun k => by rw [hmd], hep⟩

/-- A fold whose every step only moves weights only moves weights. -/
theorem foldl {α : Type} {f : State → α → State} (hf : ∀ t a, ReseatedFrom t (f t a)) (l : List α) (s : State) :
    ReseatedFrom s (l.foldl f s) :=
  List.foldlRecOn l f (motive := ReseatedFrom s) (.refl s) fun t ht a _ => ht.trans (hf t a)

theorem epochs_eq {s t : State} (h : ReseatedFrom s t) : t.md.epoch = s.md.epoch := by
  obtain ⟨_, ht⟩ := h.md
  rw [ht]

theorem seqs_eq {s t : State} (h : ReseatedFrom s t) : t.md.seqs = s.md.seqs := by
  obtain ⟨_, ht⟩ := h.md
  rw [ht]

end ReseatedFrom

theorem updDie_epoch {f : DieRegs → DieRegs} (hf : ∀ x, (f x).epoch = x.epoch) (s : State) (k d : Nat) :
    ((updDie s k f).dies.get d).epoch = (s.dies.get d).epoch := by
  by_cases h : d = k
  · subst h
    rw [get_updDie, hf]
  · rw [get_updDie_ne s f h]

theorem reseatedFrom_updDie {f : DieRegs → DieRegs} (hf : ∀ x, (f x).epoch = x.epoch) (s : State) (d : Nat) :
    ReseatedFrom s (updDie s d f) := .of_md_eq rfl (updDie_epoch hf s d)

theorem reseatedFrom_storeMod (s : State) (k : Nat) (l : List PByte) : ReseatedFrom s (storeMod s k l) := by
  refine .of_md_eq (storeMod_md s k l) fun d => ?_
  unfold storeMod
  split
  · rfl
  · dsimp only
    split
    · refine updDie_epoch ?_ _ _ d
      exact fun _ => rfl
    · rfl

theorem reseatedFrom_storeClean (s : State) (k : Nat) (b : Bytes) : ReseatedFrom s (storeClean s k b) := reseatedFrom_storeMod s k _

theorem reseatedFrom_fillSws (s : State) (g : Gen) (d : Nat) : ReseatedFrom s (fillSws s g d) :=
  .foldl (fun t _ => .foldl (fun u _ => reseatedFrom_storeMod u _ _) _ t) _ s

theorem reseatedFrom_setResident (s : State) (d : Nat) : ReseatedFrom s (setResident s d) := by
  refine reseatedFrom_updDie ?_ s d
  exact fun _ => rfl

theorem reseatedFrom_updGen (s : State) (k : Nat) (n : BitVec 16) (f : Gen → Tbl Shard) :
    ReseatedFrom s (updGen s k n fun x => { x with shards := f x }) := by
  refine ⟨⟨_, rfl⟩, fun i => ?_, fun _ => rfl⟩
  rw [updGen, updSlot_md, Tbl.get_upd]
  split
  · next h => rw [h]; exact bare_reshard _ _ f
  · rfl

theorem reseatedFrom_unseat (s : State) (k : Nat) (g : Gen) : ReseatedFrom s (unseat s k g) :=
  (reseatedFrom_updGen s k g.num _).trans (.foldl reseatedFrom_setResident _ _)

theorem reseatedFrom_seat (s : State) (k : Nat) (g : Gen) : ReseatedFrom s (seat s k g) := by
  unfold seat
  extract_lets
  split
  · exact .refl s
  · extract_lets h t
    have ht : ReseatedFrom s t := reseatedFrom_updGen s k h.num _
    exact (ht.trans (.foldl (fun t d => reseatedFrom_fillSws t h d) _ t)).trans (.foldl reseatedFrom_setResident _ _)

theorem reseatedFrom_reseat (k : Nat) (s : State) (n : BitVec 16) : ReseatedFrom s (reseat k s n) := by
  unfold reseat
  extract_lets x
  split
  · exact .refl s
  · next g _ =>
    extract_lets in_ t
    have ht : ReseatedFrom s t := by
      simp only [t]
      split
      · exact reseatedFrom_unseat s k g
      · exact .refl s
    split
    · exact .refl s
    · split
      · split
        · exact ht.trans (reseatedFrom_seat t k _)
        · exact ht
      · exact ht

theorem reseatedFrom_seatAll (s : State) : ReseatedFrom s (seatAll s) :=
  (ReseatedFrom.foldl (fun t k => .foldl (reseatedFrom_reseat k) _ t) _ s).trans (.foldl reseatedFrom_setResident _ _)

theorem reseatedFrom_placeLevels (s : State) (k : Nat) (g : Gen) : ReseatedFrom s (placeLevels s k g) := by
  unfold placeLevels
  extract_lets
  split
  · exact .refl s
  · exact .foldl (fun t _ => .foldl (fun u _ => reseatedFrom_storeClean u _ _) _ t) _ s

end Sys2Proof.Machine
end

section
/-!
Bundle loads and DELTA_LOAD (O18): what a new generation does to its slot (`Slot.withGen`), and what each bundle command does once its
checks have passed (R286, R288, R360, R457, R534).
-/

namespace Sys2Proof.Machine

/-! ### Sessions -/

@[simp] theorem sessionOf_setSession (s : State) (k : Nat) (x : Option Session) : sessionOf (setSession s k x) k = x := by
  rw [sessionOf, setSession, updSlot_md, Tbl.get_upd_self]

theorem slots_setSession_ne (s : State) {k i : Nat} (x : Option Session) (h : i ≠ k) :
    (setSession s k x).md.slots.get i = s.md.slots.get i :=
  Tbl.get_upd_ne s.md.slots k (fun y => { y with session := x }) h

/-! ### A generation enters its slot (R214, R220, R360) -/

theorem takeShard_shards (s : State) (g : Gen) (d : Nat) : ∃ sh, takeShard s g d = { g with shards := sh } := by
  unfold takeShard
  split
  · exact ⟨_, rfl⟩
  · exact ⟨_, rfl⟩

theorem takeShards_shards (s : State) (g : Gen) (l : List Nat) :
    ∃ sh, l.foldl (fun g d => takeShard s g d) g = { g with shards := sh } := by
  induction l generalizing g with
  | nil => exact ⟨g.shards, rfl⟩
  | cons d l ih =>
    obtain ⟨sh, hd⟩ := takeShard_shards s g d
    obtain ⟨sh', hl⟩ := ih { g with shards := sh }
    exact ⟨sh', by rw [List.foldl_cons, hd, hl]⟩

/-- A generation that is laid gets its cut, its shards and its wholeness. -/
theorem layGen_laid (s : State) (g : Gen) :
    ∃ cut sh whole, (layGen s g).2 = { g with cut := cut, shards := sh, whole := whole } := by
  obtain ⟨sh, hsh⟩ := takeShards_shards s { g with cut := s.md.epoch.line, shards := [] }
    ((cutDies s.md.epoch.line).filter fun d => !dieOut s d)
  rw [layGen, layWith, hsh]
  exact ⟨_, _, _, rfl⟩

theorem storeUnits_md (s : State) (g : Gen) (d : Nat) (b : Unit_ → Bytes) (keep : Unit_ → Bool) : (storeUnits s g d b keep).md = s.md := by
  unfold storeUnits
  refine List.foldlRecOn _ _ (motive := fun t : State => t.md = s.md) rfl fun t ht u _ => ?_
  unfold storeKeys
  refine List.foldlRecOn _ _ (motive := fun v : State => v.md = s.md) ht fun v hv p _ => ?_
  rw [storeClean_md, hv]

theorem layGen_md (s : State) (g : Gen) : (layGen s g).1.md = s.md := by
  unfold layGen layWith
  refine List.foldlRecOn _ _ (motive := fun t : State => t.md = s.md) rfl fun t ht d _ => ?_
  split
  · rw [storeUnits_md, ht]
  · exact ht

/-- A slot's first generation puts it in moored mode (R220). -/
theorem openSlot_slots (s : State) (k g : Nat) :
    (openSlot s k g).md.slots = s.md.slots.upd k fun x => { x with mode := 2 } := by
  unfold openSlot
  exact List.foldlRecOn _ _ (motive := fun t : State => t.md.slots = s.md.slots.upd k fun x => { x with mode := 2 }) rfl fun _ ht _ _ => ht

/-- A slot with one more generation; its first one puts it in moored mode. -/
def Slot.withGen (x : Slot) (g : Gen) : Slot :=
  { x with gens := x.gens ++ [g], newest := g.num, issued := true, mode := if x.gens.isEmpty then 2 else x.mode }

theorem addGen_bare (s : State) (k : Nat) (g : Gen) :
    ((addGen s k g).md.slots.get k).bare = ((s.md.slots.get k).withGen (layGen s g).2).bare := by
  have hnum : (layGen s g).2.num = g.num := by
    obtain ⟨_, _, _, h⟩ := layGen_laid s g
    rw [h]
  rw [addGen, (reseatedFrom_seatAll _).bare k, (reseatedFrom_placeLevels _ k _).bare k, Slot.withGen, hnum]
  congr 1
  split
  · next h => rw [openSlot_slots, Tbl.get_upd_self, updSlot_md, layGen_md, Tbl.get_upd_self]
  · next h => rw [updSlot_md, layGen_md, Tbl.get_upd_self]

theorem addGen_newest (s : State) (k : Nat) (g : Gen) : ((addGen s k g).md.slots.get k).newest = g.num := by
  obtain ⟨_, _, _, h⟩ := layGen_laid s g
  rw [← bare_newest, addGen_bare, bare_newest, Slot.withGen, h]

theorem addGen_serving (s : State) (k : Nat) (g : Gen) : ((addGen s k g).md.slots.get k).serving = (s.md.slots.get k).serving := by
  rw [← bare_serving, addGen_bare, bare_serving, Slot.withGen]

theorem addGen_mode_first {s : State} {k : Nat} (g : Gen) (h : (s.md.slots.get k).gens = []) :
    ((addGen s k g).md.slots.get k).mode = 2 := by
  rw [← bare_mode, addGen_bare, bare_mode, Slot.withGen, h]
  rfl

/-- The generations of the slot, seen through what neither cut, shards nor wholeness enter. -/
theorem addGen_gens_map {β : Type} {f : Gen → β} (hf : ∀ g cut sh whole, f { g with cut := cut, shards := sh, whole := whole } = f g)
    (s : State) (k : Nat) (g : Gen) :
    ((addGen s k g).md.slots.get k).gens.map f = ((s.md.slots.get k).gens ++ [g]).map f := by
  have hshards : ∀ x sh, f { x with shards := sh } = f x := fun x sh => hf x x.cut sh x.whole
  obtain ⟨cut, sh, whole, hlaid⟩ := layGen_laid s g
  rw [← bare_gens_map hshards, addGen_bare, bare_gens_map hshards, Slot.withGen, List.map_append, List.map_append, List.map_singleton,
    List.map_singleton, hlaid, hf]

theorem addRef_gens_map {β : Type} {f : Gen → β} (hf : ∀ g n, f { g with refs := n } = f g) (s : State) (b : Nat) (n : BitVec 16) (k : Nat) :
    ((addRef s b n).md.slots.get k).gens.map f = (s.md.slots.get k).gens.map f := by
  rw [addRef, updGen, updSlot_md, Tbl.get_upd]
  split
  · next h =>
    rw [h, List.map_map]
    refine List.map_congr_left fun g _ => ?_
    rw [Function.comp_apply]
    split
    · exact hf g _
    · rfl
  · rfl

/-! ### BUNDLE_BEGIN and BUNDLE_CHUNK (R360) -/

/-- The session that BUNDLE_BEGIN opens. -/
def newSession (s : State) (e : Bytes) : Session :=
  { num := s.md.nextSession, manifest := dataOf s e, mlen := (dataOf s e).length, total := bTotal e, chunks := []
    restores := (restoredBy s (bSlot e) (dataOf s e)).map (·.num), reports := [] }

/-- The state with that session open. -/
def openSession (s : State) (e : Bytes) : State :=
  setSession { s with md := { s.md with nextSession := s.md.nextSession + 1 } } (bSlot e) (some (newSession s e))

theorem runBundleBegin_opens {j : JobRef} {e : Bytes} {s : State} (hchk : checkBegin s e = none) (halone : patternShares s = false) :
    runBundleBegin j e s = finish (openSession s e) j .ok (BitVec.ofNat 64 s.md.nextSession.toNat) := by
  rw [runBundleBegin, checkThen_passes _ _ _ hchk]
  exact congrArg (finish · j .ok _) (if_neg (by simp [halone]))

/-- A session with one more chunk. -/
def Session.withChunk (x : Session) (off : Nat) (b : Bytes) : Session := { x with chunks := x.chunks ++ [(off, b)] }

theorem runBundleChunk_stores {j : JobRef} {e : Bytes} {s : State} {k : Nat} {x : Session} (hchk : checkChunk s e = none)
    (halone : patternShares s = false) (hslot : sessionSlot s (bSession e) = some k) (hx : sessionOf s k = some x) :
    runBundleChunk j e s = finish (setSession s k (some (x.withChunk (bOffset e) (dataOf s e)))) j .ok
      (BitVec.ofNat 64 (dataOf s e).length) := by
  rw [runBundleChunk, checkThen_passes _ _ _ hchk]
  simp only [hslot, hx]
  exact congrArg (finish · j .ok _) (if_neg (by simp [halone]))

/-! ### BUNDLE_COMMIT (R360, R457, R534) -/

section
variable {s : State} {e : Bytes} {k : Nat} {x : Session} (hmaster : notMaster s = false) (hslot : sessionSlot s (bSession e) = some k)
  (hx : sessionOf s k = some x)
include hmaster hslot hx

theorem runBundleCommit_incomplete (j : JobRef) (hlen : x.have_ < x.total) : runBundleCommit j e s = finish s j .notReady 0 := by
  simp [runBundleCommit, hmaster, hslot, hx, hlen]

theorem runBundleCommit_fails (j : JobRef) {st : Status} (hlen : x.total ≤ x.have_) (hv : reportStatus (verdict s x) = some st) :
    runBundleCommit j e s = failLoad s k j st := by
  simp [runBundleCommit, hmaster, hslot, hx, Nat.not_lt.mpr hlen, hv]

theorem runBundleCommit_commits (j : JobRef) (hlen : x.total ≤ x.have_) (hv : verdict s x = .ready) (halone : patternShares s = false) :
    runBundleCommit j e s = commitLoad s k j x := by
  simp [runBundleCommit, hmaster, hslot, hx, Nat.not_lt.mpr hlen, hv, reportStatus, halone]

end

theorem commitLoad_adds {s : State} {x : Session} (k : Nat) (j : JobRef) (hnew : x.restores = none) (halone : patternShares s = false) :
    commitLoad s k j x = finish (setSession (addGen s k (bundleGen s ((s.md.slots.get k).newest + 1) x)) k none) j .ok
      (BitVec.ofNat 64 ((s.md.slots.get k).newest + 1).toNat) := by
  simp [commitLoad, hnew, halone]

/-! ### The members of a load (R457) -/

/-- A session with a member's newest report. -/
def Session.withReport (x : Session) (m : Nat) (r : MemberResult) : Session :=
  { x with reports := x.reports.filter (·.1 ≠ m) ++ [(m, r)] }

theorem waitingLoad_setSession (s : State) (k : Nat) (x : Option Session) (i : Nat) : waitingLoad (setSession s k x) i = waitingLoad s i := rfl

theorem noteReport_notes {s : State} {k : Nat} {x : Session} (m : Nat) (r : MemberResult) (hx : sessionOf s k = some x)
    (hwait : waitingLoad s k = none) : noteReport s k m r = setSession s k (some (x.withReport m r)) := by
  simp only [noteReport, hx, waitingLoad_setSession, hwait]
  rfl

theorem closeLoadWins_md (s : State) (x : Session) : (closeLoadWins s x).md = s.md :=
  List.foldlRecOn _ _ (motive := fun t : State => t.md = s.md) rfl fun _ ht _ _ => ht

theorem memberCommit_matching {s : State} {k : Nat} {x : Session} (g : BitVec 16) (hx : sessionOf s k = some x) :
    memberCommit s k g (sha256 x.manifest) = setSession (if (s.md.slots.get k).gens.length < 2 then
      addGen (closeLoadWins s x) k (bundleGen (closeLoadWins s x) g x) else closeLoadWins s x) k none := by
  simp only [memberCommit, hx, closeLoadWins_md]
  rw [if_neg (not_not_intro rfl)]
  split
  · rw [if_neg (by omega)]
  · rw [if_pos (by omega)]

/-! ### DELTA_LOAD (R286 to R289) -/

theorem dataOf_free (s : State) (n : Nat) (e : Bytes) : dataOf { s with free := n } e = dataOf s e := rfl

theorem readWord_free (s : State) (n : Nat) (w : W64) (len : Nat) : readWord { s with free := n } w len = readWord s w len := rfl

theorem genOf_free (s : State) (n k : Nat) (g : BitVec 16) : genOf { s with free := n } k g = genOf s k g := rfl

/-- The delta generation that a load builds in `u` from the source's tensors `l`. -/
def builtDelta (u : State) (e : Bytes) (g : Gen) (l : List SrcTensor) (src : Bytes) : Gen := deltaGen u e g src (l.map (deltaTensor g src))

/-- The source's two passes, both clean and finite: the load is decided by their digests. `u` is the state of the second pass. -/
theorem runDeltaLoad_decides {j : JobRef} {e : Bytes} {s u : State} {g : Gen} {w : Option (Nat × Bytes)} {p p2 : List PByte}
    (hchk : checkDelta s e = none) (hgen : genOf s (dBase e) (dBaseGen e) = some g)
    (hu : u = rewriteSource { s with free := s.free + 1 } e w)
    (hp : p = readWord s (dSource e) (dSourceLen e)) (hp2 : p2 = readWord u (dSource e) (dSourceLen e))
    (hclean : anyPois p = false) (hfin : anyNonFinite g (plain p) (srcTensors (dataOf s e)) = false)
    (hclean2 : anyPois p2 = false) (hfin2 : anyNonFinite g (plain p2) (srcTensors (dataOf s e)) = false) :
    runDeltaLoad w j e s =
      if sha256 (plain p) ≠ sha256 (plain p2) then finish u j .digestMismatch 0
      else finish (addGen (addRef u (dBase e) (dBaseGen e)) (dTarget e) (builtDelta u e g (srcTensors (dataOf s e)) (plain p))) j .ok
        (deltaResult (builtDelta u e g (srcTensors (dataOf s e)) (plain p))) := by
  subst hu hp hp2
  rw [runDeltaLoad, checkThen_passes _ _ _ hchk]
  simp only [genOf_free, hgen, readWord_free, dataOf_free, hclean, hfin, hclean2, hfin2, Bool.or_false, Bool.false_eq_true, if_false]
  rfl

/-- Settles O18: each command enters by `startEntry_runs` and runs as its own lemma says; a new generation enters its slot as
`addGen_bare` says. -/
theorem bundleAndDeltaLoads : Obligations.BundleAndDeltaLoads := by
  unfold Obligations.BundleAndDeltaLoads
  refine ⟨fun s o st e h hchk halone => ?begin, fun s o st e k x h hchk halone hslot hx => ?chunk,
    fun s o st e k x h hmaster halone hslot hx hlen hv hnew => ?commit, fun s o st e k x h hmaster hslot hx => ?commitFails,
    fun s m k r x hshares hmaster hx hwait => ?report, fun s k g x hmember hx => ?memberCommit, fun s k g => ?newGen,
    fun s o st e g h hchk hgen hclean hfin => ?delta, fun s o st e g w h hchk hgen hclean hfin hclean2 hfin2 hne => ?deltaMismatch⟩
  case begin =>
    exact ⟨openSession o e.bytes, newSession o e.bytes, startEntry_runs h (runBundleBegin_opens hchk halone),
      sessionOf_setSession _ _ _, rfl, rfl, rfl, rfl, rfl, rfl, fun k hk => slots_setSession_ne _ _ hk⟩
  case chunk => exact startEntry_runs h (runBundleChunk_stores hchk halone hslot hx)
  case commit =>
    exact startEntry_runs h ((runBundleCommit_commits hmaster hslot hx _ hlen hv halone).trans (commitLoad_adds k _ hnew halone))
  case commitFails =>
    refine ⟨fun hlen => startEntry_runs h (runBundleCommit_incomplete hmaster hslot hx _ hlen), fun hlen hv => ?_, fun hlen hv => ?_⟩
    · exact startEntry_runs h (runBundleCommit_fails hmaster hslot hx _ hlen (by rw [hv]; rfl))
    · exact startEntry_runs h (runBundleCommit_fails hmaster hslot hx _ hlen (by rw [hv]; rfl))
  case report =>
    refine ⟨_, x.withReport _ r, ?_, sessionOf_setSession s k.val _, rfl, rfl, rfl, rfl⟩
    exact (if_pos (by simp [hshares, hmaster])).trans (congrArg Host.Outcome.next (noteReport_notes _ r hx hwait))
  case memberCommit => exact (if_pos hmember).trans (congrArg Host.Outcome.next (memberCommit_matching g hx))
  case newGen =>
    exact ⟨addGen_gens_map (fun _ _ _ _ => rfl) s k g, addGen_newest s k g, addGen_serving s k g, addGen_mode_first g⟩
  case delta =>
    have hrun := runDeltaLoad_decides (j := .stream st.val) (w := none) hchk hgen rfl rfl rfl hclean hfin hclean hfin
    refine ⟨_, _, startEntry_runs h (hrun.trans (if_neg (not_not_intro rfl))), rfl, rfl, rfl, ?_⟩
    rw [addGen_gens_map (fun _ _ _ _ => rfl), List.map_append, addRef_gens_map (fun _ _ => rfl), List.map_append]
    rfl
  case deltaMismatch =>
    exact startEntry_runs h ((runDeltaLoad_decides hchk hgen rfl rfl rfl hclean hfin hclean2 hfin2).trans (if_pos hne))

end Sys2Proof.Machine
end

section
/-!
The governor and the epoch changes (O34): what a window of the governor notes (R204), the messages of the two phases with their deadlines
(R206 to R212), each said once for the case in which it acts, and the settle stage (R213).
-/

namespace Sys2Proof.Machine

/-- A change of the epoch machinery matters only by what it does to what stands there. -/
theorem setEpoch_congr {s : State} {f g : Epoch → Epoch} (h : f s.md.epoch = g s.md.epoch) : setEpoch s f = setEpoch s g := by
  simp only [setEpoch, setMd, h]

theorem setEpoch_setEpoch (s : State) (f g : Epoch → Epoch) : setEpoch (setEpoch s f) g = setEpoch s (g ∘ f) := rfl

/-! ### The dies in service -/

theorem mem_upDies {s : State} {d : Nat} : d ∈ upDies s ↔ d < 8 ∧ dieUp s d = true := by
  rw [upDies, List.mem_filter, List.mem_range]

/-- Whether a list names every die in service. -/
theorem upDies_all_eq_true {s : State} {l : List Nat} :
    ((upDies s).all fun d => l.contains d) = true ↔ ∀ d, d < 8 → dieUp s d = true → d ∈ l := by
  simp [mem_upDies]

theorem upDies_all_eq_false {s : State} {l : List Nat} (h : ∃ d, d < 8 ∧ dieUp s d = true ∧ d ∉ l) :
    ((upDies s).all fun d => l.contains d) = false := by
  obtain ⟨d, hd, hup, hnot⟩ := h
  exact Bool.eq_false_iff.mpr fun hall => hnot (upDies_all_eq_true.mp hall d hd hup)

theorem idleDies_isEmpty_eq_false {s : State} {d : Nat} (hd : d < 8) (hup : dieUp s d = true) (hprep : (s.dies.get d).prepared = true) :
    (idleDies s).isEmpty = false :=
  List.isEmpty_eq_false_iff_exists_mem.mpr ⟨d, List.mem_filter.mpr ⟨mem_upDies.mpr ⟨hd, hup⟩, hprep⟩⟩

theorem idleDies_of_none_prepared {s : State} (h : ∀ d, dieUp s d = true → (s.dies.get d).prepared = false) : idleDies s = [] :=
  List.filter_eq_nil_iff.mpr fun d hd => ne_true_of_eq_false (h d (mem_upDies.mp hd).2)

/-! ### The governor (R204) -/

/-- The estimates of a window and the count of better ones noted in their slot. -/
def noteEstimate (s : State) (k : Nat) (x : Measured) : State :=
  updSlot s k fun y => { y with est := estimate s k x, better := betterNow (s.md.slots.get k) (estimate s k x) }

theorem get_noteEstimate (s : State) (k : Nat) (x : Measured) : (noteEstimate s k x).md.slots.get k =
    { s.md.slots.get k with est := estimate s k x, better := betterNow (s.md.slots.get k) (estimate s k x) } := by
  rw [noteEstimate, updSlot_md, Tbl.get_upd_self]

/-- The state in which the governor has asked for an epoch with slot `k` in mode `m`. -/
def askMove (s : State) (k m : Nat) : State := updSlot (askEpoch s (.mode k m none)) k fun y => { y with better := 0 }

theorem askMove_waiting (s : State) (k m : Nat) : (askMove s k m).md.epoch.waiting = s.md.epoch.waiting ++ [.mode k m none] := rfl

theorem askMove_better (s : State) (k m : Nat) : ((askMove s k m).md.slots.get k).better = 0 := by
  rw [askMove, updSlot_md, Tbl.get_upd_self]

section
variable {s : State} {k : Fin 8} (x : Measured) (hserv : (servingGen s k.val).isSome = true)
include hserv

theorem governorEvaluation_notes
    (h : proposal s k.val (s.md.slots.get k.val) (estimate s k.val x) (betterNow (s.md.slots.get k.val) (estimate s k.val x)) = none) :
    execGovernorEvaluation k x s = .next (noteEstimate s k.val x) := by
  refine (if_neg (by simpa [Option.isSome_iff_ne_none] using hserv)).trans ?_
  rw [h]
  rfl

theorem governorEvaluation_asks {m : Nat}
    (h : proposal s k.val (s.md.slots.get k.val) (estimate s k.val x) (betterNow (s.md.slots.get k.val) (estimate s k.val x)) = some m) :
    execGovernorEvaluation k x s = .next (askMove (noteEstimate s k.val x) k.val m) := by
  refine (if_neg (by simpa [Option.isSome_iff_ne_none] using hserv)).trans ?_
  rw [h]
  rfl

end

theorem proposal_pinned {s : State} {y : Slot} (h : pinOf s y ≠ 0) (k : Nat) (est : Estimate) (better : Nat) :
    proposal s k y est better = none := if_pos (.inl h)

/-! ### PROPOSE (R206, R208, R209) -/

/-- A die that has completed its pass and whose arcs are quiet answers PROPOSE. -/
theorem propose_answers {s : State} {d : Die} {n : W32} (hphase : s.md.epoch.phase = .proposed) (hup : dieUp s d.val = true)
    (hexp : expects s d.val n = true) (hprep : (s.dies.get d.val).prepared = false) (href : d.val ∉ s.md.epoch.refused)
    (hpass : s.md.pass.running = false ∨ d.val ∈ s.md.pass.done) (hquiet : quietAt s d.val = true) (hbuf : buffersReady s d.val = true)
    (ok : Bool) : execPropose d n ok s = .next (if ok then updDie s d.val fun x => { x with prepared := true, sums := dieSums s d.val }
      else setEpoch s fun e => { e with refused := e.refused ++ [d.val] }) := by
  refine (if_pos (by simpa [hphase, hup, hexp, hprep, href, hquiet, hbuf] using hpass)).trans ?_
  cases ok <;> rfl

theorem expects_eq_false {s : State} {d : Nat} {n : W32} (h : n ≠ (s.dies.get d).epoch + 1) : expects s d n = false := decide_eq_false h

theorem propose_unexpected {s : State} {d : Die} {n : W32} (h : expects s d.val n = false) (ok : Bool) : execPropose d n ok s = .next s :=
  if_neg (by simp [h])

theorem commit_unexpected {s : State} {d : Die} {n : W32} (h : expects s d.val n = false) : execCommit d n s = .next s :=
  if_neg (by simp [h])

theorem abort_unexpected {s : State} {d : Die} {n : W32} (h : expects s d.val n = false) : execAbort d n s = .next s :=
  (if_neg (by simp [h])).trans (if_neg (by simp [h]))

/-! ### PREPARED (R208, R487) -/

/-- A die's PREPARED noted. -/
def notePrepared (s : State) (d : Nat) : State := setEpoch s fun e => { e with prepared := e.prepared ++ [d] }

section
variable {s : State} {d : Die} (hphase : s.md.epoch.phase = .proposed) (hup : dieUp s d.val = true)
  (hprep : (s.dies.get d.val).prepared = true) (hnew : d.val ∉ s.md.epoch.prepared)
include hphase hup hprep hnew

theorem prepared_counts : execPrepared d s = .next
    (if (upDies s).all fun x => (s.md.epoch.prepared ++ [d.val]).contains x then
      if s.md.pass.running && !passOver (notePrepared s d.val) then s else decide_ (endPass (notePrepared s d.val))
    else notePrepared s d.val) := by
  refine (if_pos (by simp [hphase, hup, hprep, hnew])).trans ?_
  rw [apply_ite Host.Outcome.next, apply_ite Host.Outcome.next]
  rfl

theorem prepared_early (h : ∃ e, e < 8 ∧ dieUp s e = true ∧ e ≠ d.val ∧ e ∉ s.md.epoch.prepared) :
    execPrepared d s = .next (notePrepared s d.val) := by
  obtain ⟨e, he, heup, hne, hnot⟩ := h
  rw [prepared_counts hphase hup hprep hnew, upDies_all_eq_false ⟨e, he, heup, by simp [hne, hnot]⟩, if_neg Bool.false_ne_true]

theorem prepared_last (hall : ∀ e, e < 8 → dieUp s e = true → e = d.val ∨ e ∈ s.md.epoch.prepared) (hidle : s.md.pass.running = false) :
    execPrepared d s = .next (decide_ (joinFreed (notePrepared s d.val) none)) := by
  have hpass : endPass (notePrepared s d.val) = joinFreed (notePrepared s d.val) none := if_neg (ne_true_of_eq_false hidle)
  rw [prepared_counts hphase hup hprep hnew, if_pos (upDies_all_eq_true.mpr fun e he heup => by simpa [or_comm] using hall e he heup), hpass,
    hidle, Bool.false_and, if_neg Bool.false_ne_true]

end

/-- Where the audit sums agree, the commit begins. -/
theorem decide_agrees {s : State} (h : (auditWith s fun d => (s.dies.get d).sums) = []) :
    decide_ s = setEpoch s fun e => { e with phase := .committing, committed := [] } := by
  rw [decide_, h]

/-! ### REFUSED, the PREPARED deadline and ABORT (R208, R211) -/

theorem refused_aborts {s : State} {d : Die} (hphase : s.md.epoch.phase = .proposed) (href : d.val ∈ s.md.epoch.refused) :
    execRefused d s = .next (abortEpoch s) := if_pos (by simp [hphase, href])

theorem preparedDeadline_aborts {s : State} (hphase : s.md.epoch.phase = .proposed)
    (h : ∃ e, e < 8 ∧ dieUp s e = true ∧ e ∉ s.md.epoch.prepared) : execPreparedDeadline s = .next (abortEpoch s) := by
  exact if_pos (by rw [upDies_all_eq_false h]; simp [hphase])

/-- While a die is still prepared, an abort goes on. -/
theorem endAbort_idle {s : State} {d : Nat} (hd : d < 8) (hup : dieUp s d = true) (hprep : (s.dies.get d).prepared = true) : endAbort s = s :=
  if_neg (by rw [idleDies_isEmpty_eq_false hd hup hprep]; simp)

theorem endAbort_ends {s : State} (hphase : s.md.epoch.phase = .aborting)
    (hprep : ∀ d, dieUp s d = true → (s.dies.get d).prepared = false) (hrev : s.md.epoch.reverted = []) (hreqs : s.md.epoch.reqs = []) :
    endAbort s = setEpoch s fun e => { e with phase := .none, reqs := [], prepared := [], refused := [] } := by
  refine (if_pos (by simp [hphase, idleDies_of_none_prepared hprep, hrev])).trans ?_
  rw [hreqs]
  rfl

theorem abortEpoch_idle {s : State} {d : Nat} (hphase : s.md.epoch.phase = .proposed) (hd : d < 8) (hup : dieUp s d = true)
    (hprep : (s.dies.get d).prepared = true) : abortEpoch s = setEpoch s fun e => { e with phase := .aborting, reverted := [] } :=
  (if_pos hphase).trans (endAbort_idle (s := setEpoch s fun e => { e with phase := .aborting, reverted := [] }) hd hup hprep)

/-- A die that discards its prepared state. -/
def unprepare (n : W32) (x : DieRegs) : DieRegs := { x with prepared := false, sums := [], lastAbort := some n, abortCnt := satInc x.abortCnt 1 }

/-- A die's REVERTED under way. -/
def noteReverted (s : State) (d : Nat) : State := setEpoch s fun e => { e with reverted := e.reverted ++ [d] }

theorem noteReverted_eq {s : State} {d : Nat} (h : d ∉ s.md.epoch.reverted) :
    (setEpoch s fun e => { e with reverted := if e.reverted.contains d then e.reverted else e.reverted ++ [d] }) = noteReverted s d :=
  setEpoch_congr (by simp [h])

theorem abort_reverts {s : State} {d : Die} {n : W32} (hphase : s.md.epoch.phase = .aborting) (hup : dieUp s d.val = true)
    (hprep : (s.dies.get d.val).prepared = true) (hexp : expects s d.val n = true) (hnew : d.val ∉ s.md.epoch.reverted) :
    execAbort d n s = .next (noteReverted (updDie s d.val (unprepare n)) d.val) :=
  (if_pos (by simp [hphase, hup, hprep, hexp])).trans
    (congrArg Host.Outcome.next (noteReverted_eq (s := updDie s d.val (unprepare n)) hnew))

theorem abort_repeats {s : State} {d : Die} {n : W32} (hphase : s.md.epoch.phase = .aborting) (hup : dieUp s d.val = true)
    (hprep : (s.dies.get d.val).prepared = false) (hexp : expects s d.val n = true) (hlast : (s.dies.get d.val).lastAbort = some n)
    (hnew : d.val ∉ s.md.epoch.reverted) : execAbort d n s = .next (noteReverted s d.val) :=
  (if_neg (by simp [hprep])).trans ((if_pos (by simp [hphase, hup, hexp, hlast])).trans (congrArg Host.Outcome.next (noteReverted_eq hnew)))

/-- A die's REVERTED has arrived. -/
def dropReverted (s : State) (d : Nat) : State := setEpoch s fun e => { e with reverted := e.reverted.filter (· ≠ d) }

theorem reverted_last {s : State} {d : Die} (hphase : s.md.epoch.phase = .aborting) (hrev : s.md.epoch.reverted = [d.val])
    (hprep : ∀ e, dieUp s e = true → (s.dies.get e).prepared = false) (hreqs : s.md.epoch.reqs = []) :
    execReverted d s = .next (setEpoch s fun e => { e with phase := .none, reqs := [], prepared := [], refused := [], reverted := [] }) := by
  have hends := endAbort_ends (s := dropReverted s d.val) hphase hprep (by simp [dropReverted, hrev]) hreqs
  refine (if_pos (by simp [hphase, hrev])).trans (congrArg Host.Outcome.next (hends.trans ?_))
  rw [dropReverted, setEpoch_setEpoch]
  exact setEpoch_congr (by simp [hrev])

/-! ### COMMIT (R210) -/

/-- A new reserve changes no more than its die and the free counter. -/
theorem setSweepWays_changes (s : State) (n d : Nat) : ∃ f free, setSweepWays s n d = { updDie s d f with free := free } := by
  unfold setSweepWays setWays
  dsimp only
  split
  · exact ⟨fun x => { x with sweepWays := n }, s.free, rfl⟩
  · exact ⟨_, _, rfl⟩

@[simp] theorem setSweepWays_md (s : State) (n d : Nat) : (setSweepWays s n d).md = s.md := by
  obtain ⟨f, _, h⟩ := setSweepWays_changes s n d
  simp only [h, updDie_md]

@[simp] theorem setSweepWays_mem (s : State) (n d : Nat) : (setSweepWays s n d).mem = s.mem := by
  obtain ⟨f, _, h⟩ := setSweepWays_changes s n d
  simp only [h, updDie_mem]

theorem get_setSweepWays_ne (s : State) (n : Nat) {d e : Nat} (hne : e ≠ d) : (setSweepWays s n d).dies.get e = s.dies.get e := by
  obtain ⟨f, _, h⟩ := setSweepWays_changes s n d
  simp only [h, get_updDie_ne s f hne]

theorem takeConfig_md (s : State) (d : Nat) : (takeConfig s d).md = s.md := setSweepWays_md s _ d

theorem takeConfig_mem (s : State) (d : Nat) : (takeConfig s d).mem = s.mem := setSweepWays_mem s _ d

theorem get_takeConfig_ne (s : State) {d e : Nat} (h : e ≠ d) : (takeConfig s d).dies.get e = s.dies.get e := by
  rw [takeConfig, get_updDie_ne _ _ h, get_setSweepWays_ne s _ h]

theorem takeConfig_prepared (s : State) (d : Nat) : ((takeConfig s d).dies.get d).prepared = false := by
  rw [takeConfig, get_updDie]

theorem takeConfig_epoch (s : State) (d : Nat) : ((takeConfig s d).dies.get d).epoch = s.md.epoch.num + 1 := by
  rw [takeConfig, get_updDie, setSweepWays_md]

theorem takeConfig_line (s : State) (d : Nat) : ((takeConfig s d).dies.get d).line = (targetLine s).isSome := by
  rw [takeConfig, get_updDie]

theorem commit_takes {s : State} {d : Die} {n : W32} (hphase : s.md.epoch.phase = .committing) (hup : dieUp s d.val = true)
    (hprep : (s.dies.get d.val).prepared = true) (hexp : expects s d.val n = true) : execCommit d n s = .next (takeConfig s d.val) :=
  if_pos (by simp [hphase, hup, hprep, hexp])

/-! ### COMMITTED (R210) -/

/-- A die's COMMITTED noted. -/
def noteCommitted (s : State) (d : Nat) : State := setEpoch s fun e => { e with committed := e.committed ++ [d] }

theorem committed_counts {s : State} {d : Die} (hphase : s.md.epoch.phase = .committing) (hup : dieUp s d.val = true)
    (hprep : (s.dies.get d.val).prepared = false) (hep : (s.dies.get d.val).epoch = s.md.epoch.num + 1) (hnew : d.val ∉ s.md.epoch.committed) :
    execCommitted d s = .next (endCommit (noteCommitted s d.val)) :=
  if_pos (by simp [hphase, hup, hprep, hep, hnew])

theorem endCommit_early {s : State} (h : ∃ e, e < 8 ∧ dieUp s e = true ∧ e ∉ s.md.epoch.committed) : endCommit s = s :=
  if_neg (by rw [upDies_all_eq_false h]; simp)

/-- The epoch to come begins where no request asks for more. -/
theorem endCommit_begins {s : State} (hphase : s.md.epoch.phase = .committing)
    (hall : ∀ e, e < 8 → dieUp s e = true → e ∈ s.md.epoch.committed) (hreqs : s.md.epoch.reqs = []) :
    endCommit s = seatAll (setEpoch s fun e =>
      { e with num := e.num + 1, phase := .none, reqs := [], prepared := [], refused := [], committed := [] }) := by
  refine (if_pos (by rw [upDies_all_eq_true.mpr hall]; simp [hphase])).trans ?_
  rw [hreqs]
  rfl

/-! ### Later deadlines (R212) -/

theorem committedDeadline_late {s : State} {d : Die} (hphase : s.md.epoch.phase = .committing) (hup : dieUp s d.val = true)
    (hnot : d.val ∉ s.md.epoch.committed) : execCommittedDeadline d s = .next (lateDie s d.val) :=
  if_pos (by simp [hphase, hup, hnot])

theorem revertedDeadline_late {s : State} {d : Die} (hphase : s.md.epoch.phase = .aborting) (hup : dieUp s d.val = true)
    (h : (s.dies.get d.val).prepared = true ∨ d.val ∈ s.md.epoch.reverted) : execRevertedDeadline d s = .next (lateDie s d.val) :=
  if_pos (by simpa [hphase, hup] using h)

/-! ### The settle stage (R213) -/

theorem settleComplete_fits {s t : State} {k : Fin 8} (hset : (s.md.slots.get k.val).settling = true) (hphase : s.md.epoch.phase = .none)
    (hlay : relaySlot s k.val = some t) :
    execSettleComplete k s = .next (settledJobs (updSlot t k.val fun x => { x with settling := false }) k.val) := by
  refine (if_pos (by simp [hset, hphase])).trans ?_
  rw [hlay]

theorem relaySlot_empty {s : State} {k : Nat} (h : ∀ q ∈ s.md.seqs, q.slot ≠ k) : relaySlot s k = some s := by
  rw [relaySlot, List.filter_eq_nil_iff.mpr fun q hq => by simpa using h q hq, List.foldl_nil]

theorem settledJobs_idle {s : State} (k : Nat) (h : s.cp.jobs = []) : settledJobs s k = s := by
  rw [settledJobs, h, List.foldl_nil]

/-- Settles O34: each message acts as its own lemma says; the epoch that begins moves weights alone (`reseatedFrom_seatAll`). -/
theorem epochChangesInTwoPhases : Obligations.EpochChangesInTwoPhases := by
  unfold Obligations.EpochChangesInTwoPhases
  refine ⟨fun s k x hserv hpin => ?pinned, fun s k x m hserv hprop => ?proposes,
    fun y e => ⟨fun h => if_pos h, fun h => if_neg (Nat.not_le.mpr h)⟩,
    fun s d n ok hphase hup hexp hprep href hpass hquiet hbuf => ?propose,
    fun s d n ok hn => ⟨propose_unexpected (expects_eq_false hn) ok, commit_unexpected (expects_eq_false hn),
      abort_unexpected (expects_eq_false hn)⟩,
    fun s d hphase hup hprep hnew hmore => ⟨_, prepared_early hphase hup hprep hnew hmore, rfl, rfl, rfl⟩,
    fun s d hphase hup hprep hnew hall hidle _ haudit => ?preparedLast,
    fun s d hphase href => refused_aborts hphase href, fun s hphase h => preparedDeadline_aborts hphase h,
    fun s e hphase he hup hprep => ?aborting, fun s d n hphase hup hprep hexp => ?commit,
    fun s d hphase hup hprep hep hnew hmore => ?committed, fun s d hphase hup hprep hep hnew hall hreqs => ?committedLast,
    fun s d n hphase hup hprep hexp hnew => ?abort,
    fun s d n hphase hup hprep hexp hlast hnew => abort_repeats hphase hup hprep hexp hlast hnew,
    fun s d hphase hrev hprep hreqs => ⟨_, reverted_last hphase hrev hprep hreqs, rfl, rfl, rfl⟩,
    fun s d hphase hup hnot => committedDeadline_late hphase hup hnot, fun s d hphase hup h => revertedDeadline_late hphase hup h,
    fun s k hset hphase hseqs hjobs => ?settles, fun s t k hset hphase hlay => settleComplete_fits hset hphase hlay⟩
  case pinned =>
    refine ⟨noteEstimate s k.val x, ?_, ?_, ?_, rfl, ?_, rfl⟩
    · exact governorEvaluation_notes x hserv (proposal_pinned hpin _ _ _)
    all_goals rw [get_noteEstimate]
  case proposes =>
    exact ⟨askMove (noteEstimate s k.val x) k.val m, governorEvaluation_asks x hserv hprop, askMove_waiting _ _ _, askMove_better _ _ _, rfl⟩
  case propose =>
    refine ⟨_, propose_answers hphase hup hexp hprep href hpass hquiet hbuf ok, ?_⟩
    cases ok with
    | true =>
      refine ⟨?_, fun _ => ?_, rfl, fun e he => get_updDie_ne s _ he, rfl, rfl⟩
      all_goals rw [if_pos rfl, get_updDie]
    | false => exact ⟨hprep, nofun, rfl, fun _ _ => rfl, rfl, rfl⟩
  case preparedLast =>
    exact ⟨_, (prepared_last hphase hup hprep hnew hall hidle).trans (congrArg Host.Outcome.next (decide_agrees haudit)), rfl, rfl, rfl, rfl⟩
  case aborting =>
    rw [abortEpoch_idle hphase he hup hprep]
    exact ⟨rfl, rfl, rfl⟩
  case commit =>
    exact ⟨_, commit_takes hphase hup hprep hexp, takeConfig_prepared s _, takeConfig_epoch s _, takeConfig_line s _,
      fun e he => get_takeConfig_ne s he, takeConfig_md s _, takeConfig_mem s _⟩
  case committed =>
    obtain ⟨e, he, heup, hne, hnot⟩ := hmore
    have hwaits : endCommit (noteCommitted s d.val) = noteCommitted s d.val :=
      endCommit_early ⟨e, he, heup, fun hmem => (List.mem_append.mp hmem).elim hnot fun h => hne (List.mem_singleton.mp h)⟩
    exact ⟨_, (committed_counts hphase hup hprep hep hnew).trans (congrArg Host.Outcome.next hwaits), rfl, rfl⟩
  case committedLast =>
    have hbegins := endCommit_begins (s := noteCommitted s d.val) hphase
      (fun e he heup => List.mem_append.mpr ((hall e he heup).symm.imp_right List.mem_singleton.mpr)) hreqs
    refine ⟨_, (committed_counts hphase hup hprep hep hnew).trans (congrArg Host.Outcome.next hbegins), ?_, ?_,
      (reseatedFrom_seatAll _).seqs_eq, (reseatedFrom_seatAll _).epoch⟩
    all_goals
      rw [(reseatedFrom_seatAll _).epochs_eq]
      rfl
  case abort =>
    have hdie : (noteReverted (updDie s d.val (unprepare n)) d.val).dies.get d.val = unprepare n (s.dies.get d.val) := get_updDie s _ _
    refine ⟨_, abort_reverts hphase hup hprep hexp hnew, ?_, ?_, ?_, rfl, ?_, fun e he => get_updDie_ne s _ he⟩
    all_goals
      rw [hdie]
      rfl
  case settles =>
    have hruns := settleComplete_fits hset hphase (relaySlot_empty hseqs)
    refine ⟨_, hruns.trans (congrArg Host.Outcome.next (settledJobs_idle _ hjobs)), ?_, rfl, rfl⟩
    rw [updSlot_md, Tbl.get_upd_self]

end Sys2Proof.Machine
end

section
/-!
Sequences and decode loops (O32, O14): what a change of a sequence's record or of a loop does to the sequence and the loop that a decode
record names, and what the operations that a verify pass shares with other work leave unchanged.
-/

namespace Sys2Proof.Machine

/-! ### A record's sequence and its loop -/

/-- The first entry that has a property, once every such entry has been changed and keeps it. -/
theorem find?_map_update {α : Type} {p : α → Prop} [DecidablePred p] {f : α → α} (hf : ∀ x, p x → p (f x)) (l : List α) :
    (l.map fun x => if p x then f x else x).find? (fun x => decide (p x)) = (l.find? fun x => decide (p x)).map f := by
  induction l with
  | nil => rfl
  | cons x r ih =>
    rw [List.map_cons]
    by_cases h : p x
    · rw [if_pos h, List.find?_cons_of_pos (by simpa using hf x h), List.find?_cons_of_pos (by simpa using h), Option.map_some]
    · rw [if_neg h, List.find?_cons_of_neg (by simpa using h), List.find?_cons_of_neg (by simpa using h), ih]

theorem seqOf_updSeq {s : State} {ra : W64} {f : Seq → Seq} (hf : ∀ q, q.ra = ra → (f q).ra = ra) :
    seqOf (updSeq s ra f) ra = (seqOf s ra).map f := find?_map_update hf _

theorem loopOf_updLoop {s : State} {ra : W64} {f : DLoop → DLoop} (hf : ∀ l, l.ra = ra → (f l).ra = ra) :
    loopOf (updLoop s ra f) ra = (loopOf s ra).map f := find?_map_update hf _

theorem seqOf_ra {s : State} {ra : W64} {q : Seq} (h : seqOf s ra = some q) : q.ra = ra := by simpa using List.find?_some h

theorem loopOf_ra {s : State} {ra : W64} {l : DLoop} (h : loopOf s ra = some l) : l.ra = ra := by simpa using List.find?_some h

theorem seqOf_of_seqs_eq {s t : State} (h : s.md.seqs = t.md.seqs) (ra : W64) : seqOf s ra = seqOf t ra := by rw [seqOf, seqOf, h]

theorem loopOf_of_loops_eq {s t : State} (h : s.md.loops = t.md.loops) (ra : W64) : loopOf s ra = loopOf t ra := by rw [loopOf, loopOf, h]

@[simp] theorem updSeq_mem (s : State) (ra : W64) (f : Seq → Seq) : (updSeq s ra f).mem = s.mem := rfl
@[simp] theorem updSeq_loops (s : State) (ra : W64) (f : Seq → Seq) : (updSeq s ra f).md.loops = s.md.loops := rfl
@[simp] theorem getJob_updSeq (s : State) (ra : W64) (f : Seq → Seq) (j : JobRef) : getJob (updSeq s ra f) j = getJob s j := rfl
@[simp] theorem updLoop_seqs (s : State) (ra : W64) (f : DLoop → DLoop) : (updLoop s ra f).md.seqs = s.md.seqs := rfl

theorem updLoop_md_congr {s t : State} (h : s.md = t.md) (ra : W64) (f : DLoop → DLoop) : (updLoop s ra f).md = (updLoop t ra f).md := by
  rw [updLoop, updLoop, h]

/-! ### Writes and reads of a record -/

@[simp] theorem writeWord_md (s : State) (w : W64) (b : Bytes) : (writeWord s w b).md = s.md := by
  unfold writeWord
  split
  · exact hostWrite_md s _ b
  · exact storeClean_md s _ b

@[simp] theorem writeWord_cp (s : State) (w : W64) (b : Bytes) : (writeWord s w b).cp = s.cp := by
  unfold writeWord
  split
  · exact hostWrite_cp s _ b
  · exact storeClean_cp s _ b

@[simp] theorem writeWord_lk (s : State) (w : W64) (b : Bytes) : (writeWord s w b).lk = s.lk := by
  unfold writeWord
  split
  · exact hostWrite_lk s _ b
  · exact storeClean_lk s _ b

@[simp] theorem writeWord_bcn (s : State) (w : W64) (b : Bytes) : (writeWord s w b).bcn = s.bcn := by
  unfold writeWord
  split
  · exact hostWrite_bcn s _ b
  · exact storeClean_bcn s _ b

@[simp] theorem putRec_md (s : State) (ra : W64) (off : Nat) (b : Bytes) : (putRec s ra off b).md = s.md := writeWord_md s _ b
@[simp] theorem putRec_cp (s : State) (ra : W64) (off : Nat) (b : Bytes) : (putRec s ra off b).cp = s.cp := writeWord_cp s _ b
@[simp] theorem putRec_lk (s : State) (ra : W64) (off : Nat) (b : Bytes) : (putRec s ra off b).lk = s.lk := writeWord_lk s _ b
@[simp] theorem putRec_bcn (s : State) (ra : W64) (off : Nat) (b : Bytes) : (putRec s ra off b).bcn = s.bcn := writeWord_bcn s _ b

/-- Where no block has a physical fault, a read through an address word leaves no trace. -/
theorem eccWord_clean {s : State} (h : s.mem.ecc = []) (p : W64 × Nat) : eccWord s p = s := by simp [eccWord, h]

end Sys2Proof.Machine
end

section
/-!
VERIFY_PASS (O32, R224 to R229): the tree of a pass and its mask, and the writes of module memory that come with them.
-/

namespace Sys2Proof.Machine

/-! ### Writes of module memory alone -/

/-- `t` is `s` after writes of module memory: host memory, sequences and loops, and the commands are as they were. -/
structure ModWrites (s t : State) : Prop where
  host : t.mem.host = s.mem.host
  md : t.md = s.md
  cp : t.cp = s.cp

namespace ModWrites

theorem refl (s : State) : ModWrites s s := ⟨rfl, rfl, rfl⟩

theorem trans {s t u : State} (h : ModWrites s t) (h' : ModWrites t u) : ModWrites s u :=
  ⟨h'.host.trans h.host, h'.md.trans h.md, h'.cp.trans h.cp⟩

/-- A fold whose every step only writes module memory only writes module memory. -/
theorem foldl {α : Type} {f : State → α → State} (hf : ∀ t a, ModWrites t (f t a)) (l : List α) (s : State) : ModWrites s (l.foldl f s) :=
  List.foldlRecOn l f (motive := ModWrites s) (.refl s) fun t ht a _ => ht.trans (hf t a)

end ModWrites

theorem modWrites_storeMod (s : State) (k : Nat) (l : List PByte) : ModWrites s (storeMod s k l) :=
  ⟨storeMod_host s k l, storeMod_md s k l, storeMod_cp s k l⟩

theorem modWrites_freeEntry (s : State) (m : ModelInfo) (d page i : Nat) (pois : Bool) : ModWrites s (freeEntry s m d page i pois) :=
  (ModWrites.mk rfl rfl rfl : ModWrites s (takeFree s (2 * rowKv m)).2).trans ((modWrites_storeMod _ _ _).trans (modWrites_storeMod _ _ _))

theorem modWrites_treeEntries (m : ModelInfo) (q : Seq) (n : Nat) (s : State) (d : Nat) : ModWrites s (treeEntries m q n s d) :=
  .foldl (fun t _ => .foldl (fun u _ => .foldl (fun v _ => modWrites_freeEntry v m d _ _ false) _ u) _ t) _ s

theorem modWrites_writeMask (s : State) (m : ModelInfo) (q : Seq) (rows : List Bytes) : ModWrites s (writeMask s m q rows) :=
  .foldl (fun t _ => modWrites_storeMod t _ _) _ s

/-! ### The tree of a verify pass -/

/-- The tree that the next verify pass of a sequence builds (R226, R227). -/
def passDraft (s : State) (l : DLoop) (q : Seq) (drafts : List (List W32)) : Draft :=
  buildTree (rowSlices s s.md.pass.mode q.home) (recParams (recBytes s l.ra)) (infoOf s q.slot q.gen).draftMap
    (tmplLevels (passTmpl s l.ra q.tmpl) (ctxLimit (infoOf s q.slot q.gen) (recBytes s l.ra) - 1 - recCommitted (recBytes s l.ra)))
    (recRoot (recBytes s l.ra)) (recCommitted (recBytes s l.ra)) drafts

/-- A loop whose verify pass over the tree `d` runs, in pass `n`, its mask for `c` committed positions. -/
def DLoop.withTree (d : Draft) (c : Nat) (n : BitVec 16) (x : DLoop) : DLoop :=
  { x with tree := d.nodes, qs := d.qs, mask := maskRows d.nodes c, running := true, lastPass := some n }

/-- Module memory with a pass's mask and its tree-slot entries. -/
def layTree (s : State) (q : Seq) (d : Draft) (c : Nat) : State :=
  (List.range 8).foldl (treeEntries (infoOf s q.slot q.gen) q d.nodes.length) (writeMask s (infoOf s q.slot q.gen) q (maskRows d.nodes c))

theorem modWrites_layTree (s : State) (q : Seq) (d : Draft) (c : Nat) : ModWrites s (layTree s q d c) :=
  (modWrites_writeMask s _ q _).trans (.foldl (modWrites_treeEntries _ q _) _ _)

/-- A moored pass without rows for the tree waits (R226). -/
theorem beginVerify_waits {s : State} {l : DLoop} {q : Seq} {drafts : List (List W32)} (hecc : s.mem.ecc = []) (hmode : s.md.pass.mode = 2)
    (hrows : 2048 < rowsRunning s + (passDraft s l q drafts).nodes.length) : beginVerify s l q drafts = s := by
  unfold beginVerify
  rw [eccWord_clean hecc]
  exact if_pos ⟨hmode, hrows⟩

/-- The state in which a loop's verify pass over the tree `d` runs. -/
def treeBegun (s : State) (l : DLoop) (q : Seq) (d : Draft) : State :=
  updLoop (layTree s q d (recCommitted (recBytes s l.ra))) l.ra (DLoop.withTree d (recCommitted (recBytes s l.ra)) s.md.pass.num)

/-- A pass with rows for the tree begins. -/
theorem beginVerify_begins {s : State} {l : DLoop} {q : Seq} {drafts : List (List W32)} (hecc : s.mem.ecc = [])
    (hrows : s.md.pass.mode ≠ 2 ∨ rowsRunning s + (passDraft s l q drafts).nodes.length ≤ 2048)
    (htree : treeOk (passDraft s l q drafts).nodes = true) : beginVerify s l q drafts = treeBegun s l q (passDraft s l q drafts) := by
  have hfits : ¬ (s.md.pass.mode = 2 ∧ 2048 < rowsRunning s + (passDraft s l q drafts).nodes.length) := by omega
  have hgood : ¬ (!treeOk (passDraft s l q drafts).nodes) = true := by simp [htree]
  rw [treeBegun, ← (modWrites_layTree s q (passDraft s l q drafts) (recCommitted (recBytes s l.ra))).md]
  unfold beginVerify
  rw [eccWord_clean hecc]
  exact (if_neg hfits).trans (if_neg hgood)

/-- A pass that begins changes its loop, and module memory. -/
theorem treeBegun_leaves {s : State} {l x : DLoop} (q : Seq) (d : Draft) (h : loopOf s l.ra = some x) :
    loopOf (treeBegun s l q d) l.ra = some (x.withTree d (recCommitted (recBytes s l.ra)) s.md.pass.num) ∧
    (treeBegun s l q d).mem.host = s.mem.host ∧ (treeBegun s l q d).md.seqs = s.md.seqs ∧ (treeBegun s l q d).cp = s.cp := by
  obtain ⟨hhost, hmd, hcp⟩ := modWrites_layTree s q d (recCommitted (recBytes s l.ra))
  refine ⟨?_, hhost, (updLoop_seqs _ _ _).trans (congrArg _ hmd), hcp⟩
  rw [treeBegun, loopOf_updLoop (by exact fun _ hx => hx), loopOf_of_loops_eq (congrArg _ hmd), h, Option.map_some]

/-- A loop that the running pass drives stands for its record. -/
theorem passLoops_find {s : State} {ra : W64} {l : DLoop} {q : Seq} (h : (passLoops s).find? (fun p => p.1.ra = ra) = some (l, q)) :
    l.ra = ra ∧ ∃ x, loopOf s ra = some x := by
  have hra : l.ra = ra := by simpa using List.find?_some h
  obtain ⟨l', hl', heq⟩ := List.mem_filterMap.1 (List.mem_of_find?_eq_some h)
  have hll : l' = l := by
    split at heq
    · split at heq
      · simpa using congrArg (Option.map Prod.fst) heq
      · cases heq
    · cases heq
  subst hll
  exact ⟨hra, Option.isSome_iff_exists.1 (List.find?_isSome.2 ⟨l', hl', by simpa using hra⟩)⟩

/-- VERIFY_PASS begins the pass of a sequence that has not been in it. -/
theorem verifyPass_begins {s : State} {ra : W64} {l : DLoop} {q : Seq} (drafts : List (List W32)) (hrun : s.md.pass.running = true)
    (hpre : s.md.pass.pre = none) (hfind : (passLoops s).find? (fun p => p.1.ra = ra) = some (l, q)) (hidle : l.running = false)
    (hlast : l.lastPass ≠ some s.md.pass.num) : exec (.verifyPass ra drafts) s = .next (beginVerify s l q drafts) := by
  change execVerifyPass ra drafts s = _
  simp [execVerifyPass, hrun, hpre, hfind, hidle, hlast]

end Sys2Proof.Machine
end

section
/-!
VERIFY_PASS_COMMIT (O32, R238 to R243): the walk of a tree with the target's rows and what it emits, and the state that the commit leaves.
The accepted count that a sequence remembers is that of the walk, before MAX_NEW or a stop token cuts what is emitted: the model's choice
(log entry 45).
-/

namespace Sys2Proof.Machine

/-! ### What a commit reads and reports, and leaves of sequences and loops -/

theorem noteCommit_clean {s : State} (h : s.mem.ecc = []) (m : ModelInfo) (c : Nat) (q : Seq) : noteCommit s m c q = s := by
  have hfold : ∀ (key : Nat → Nat) (n : Nat) (l : List Nat), l.foldl (fun t a => eccAt t (key a) n) s = s := fun key n l =>
    List.foldlRecOn l _ (motive := fun t => t = s) rfl fun t ht a _ => ht.symm ▸ eccAt_of_clean h _ n
  refine List.foldlRecOn q.dies _ (motive := fun t => t = s) rfl fun t ht p _ => ?_
  subst ht
  dsimp only
  rw [hfold, hfold]

@[simp] theorem commitWords_md (s : State) (q : Seq) (r : Bytes) (es : List Emit) : (commitWords s q r es).md = s.md := by
  simp only [commitWords, putRec_md]
  exact List.foldlRecOn _ _ (motive := fun t : State => t.md = s.md) rfl fun t ht x _ => (writeWord_md t _ _).trans ht

@[simp] theorem notePass_md (s : State) (j : JobRef) (outs : List (List Bytes)) (pois : Bool) (mode : Nat) :
    (notePass s j outs pois mode).md = s.md := updJob_md s j _

theorem sentFrom_sendCkpt (s : State) (q : Seq) : SentFrom s (sendCkpt s q) := by
  unfold sendCkpt
  exact (sentFrom_sendTwin s _ _).trans (sentFrom_setLk _ _)

@[simp] theorem ckptAtCommit_md (s : State) (q : Seq) (c : Nat) : (ckptAtCommit s q c).md = s.md := by
  unfold ckptAtCommit
  split
  · exact (sentFrom_sendCkpt s q).md_eq
  · rfl

@[simp] theorem twinNotice_md (s : State) (tag : BitVec 16) : (twinNotice s tag).md = s.md := by
  unfold twinNotice
  split
  · exact (sentFrom_sendTwin s _ _).md_eq
  · rfl

@[simp] theorem writeCqe_md (s : State) (st : Nat) (c : HeldC) : (writeCqe s st c).md = s.md := by
  unfold writeCqe
  extract_lets a s1 h s2 s3
  have hs3 : s3.md = s.md := by
    simp only [s3]
    split
    · exact fire_md s2 657
    · rfl
  split
  · exact (twinNotice_md s3 _).trans hs3
  · exact hs3

@[simp] theorem postInterim_md (s : State) (st : Nat) (c : HeldC) : (postInterim s st c).md = s.md := by
  unfold postInterim
  split
  · rfl
  · exact writeCqe_md s st c

theorem releaseWait_interim_md {w : TwinWait} (h : w.final = false) (s : State) : (releaseWait s w).md = s.md := by
  unfold releaseWait
  rw [if_neg (ne_true_of_eq_false h)]
  split
  · rfl
  · extract_lets inner
    split
    · rfl
    · exact postInterim_md s _ _

theorem holdForTwin_interim_md {w : TwinWait} (h : w.final = false) (s : State) : (holdForTwin s w).md = s.md := by
  unfold holdForTwin
  extract_lets t
  have ht : t.md = s.md := by
    simp only [t]
    split
    · exact (sentFrom_sendCkpt s _).md_eq
    · rfl
  split
  · exact (releaseWait_interim_md h t).trans ht
  · exact ht

@[simp] theorem interimModel_md (s : State) (j : JobRef) (ra : W64) (result : W64) : (interimModel s j ra result).md = s.md := by
  unfold interimModel
  dsimp only
  split
  · exact holdForTwin_interim_md (by rfl) s
  · exact releaseWait_interim_md (by rfl) s

/-- Of sequences, loops and slots, the end of a reference changes slots alone. -/
theorem dropRef_md (s : State) (k : Nat) (g : BitVec 16) : ∃ slots, (dropRef s k g).md = { s.md with slots := slots } := by
  unfold dropRef
  dsimp only
  split
  · split <;> exact ⟨_, rfl⟩
  · exact ⟨_, rfl⟩

@[simp] theorem dropRef_seqs (s : State) (k : Nat) (g : BitVec 16) : (dropRef s k g).md.seqs = s.md.seqs := by
  obtain ⟨_, h⟩ := dropRef_md s k g
  rw [h]

@[simp] theorem dropRef_loops (s : State) (k : Nat) (g : BitVec 16) : (dropRef s k g).md.loops = s.md.loops := by
  obtain ⟨_, h⟩ := dropRef_md s k g
  rw [h]

/-- A re-pin at the token boundary leaves a sequence's pages and its accepted counts (R216, R242). -/
theorem seqOf_tokenBoundary {s : State} {ra : W64} {q : Seq} (j : JobRef) (h : seqOf s ra = some q) :
    ∃ y, seqOf (tokenBoundary s j ra) ra = some y ∧ y.dies = q.dies ∧ y.acc = q.acc := by
  unfold tokenBoundary
  simp only [h]
  split
  · exact ⟨q, h, rfl, rfl⟩
  · next g _ =>
    refine ⟨{ q with gen := g, repin := none, migrated := true }, ?_, rfl, rfl⟩
    rw [seqOf_of_md_eq (updJob_md _ _ _), seqOf_updSeq (by exact fun _ hx => hx), seqOf_of_seqs_eq (dropRef_seqs _ _ _)]
    exact congrArg (Option.map _) h

theorem loopOf_tokenBoundary (s : State) (j : JobRef) (ra x : W64) : loopOf (tokenBoundary s j ra) x = loopOf s x := by
  refine loopOf_of_loops_eq ?_ x
  unfold tokenBoundary
  split
  · rfl
  · split
    · rfl
    · rw [updJob_md, updSeq_loops, dropRef_loops]
      rfl

/-- An interim completion changes of its loop only when the last one was sent (R245). -/
theorem loopOf_interimDue {s : State} {ra : W64} {l : DLoop} (h : loopOf s ra = some l) :
    ∃ x, loopOf (interimDue s ra) ra = some x ∧ x.running = l.running ∧ x.tree = l.tree ∧ x.stopHit = l.stopHit := by
  unfold interimDue
  simp only [h]
  split
  · have hsent : loopOf (interimModel s l.job ra (BitVec.ofNat 64 (recOutPos (recBytes s ra)))) ra = some l :=
      (loopOf_of_loops_eq (congrArg _ (interimModel_md _ _ _ _)) ra).trans h
    exact ⟨_, (loopOf_updLoop (by exact fun _ hx => hx)).trans (congrArg (Option.map _) hsent), rfl, rfl, rfl⟩
  · exact ⟨l, h, rfl, rfl, rfl⟩

theorem seqOf_interimDue (s : State) (ra x : W64) : seqOf (interimDue s ra) x = seqOf s x := by
  refine seqOf_of_seqs_eq ?_ x
  unfold interimDue
  split
  · rfl
  · dsimp only
    split
    · rw [updLoop_seqs, interimModel_md]
    · rfl

/-! ### The adaptation (R226) -/

theorem adapt_keeps (s : State) (r : Bytes) (q : Seq) (a : Nat) :
    (adapt s r q a).ra = q.ra ∧ (adapt s r q a).dies = q.dies ∧ (adapt s r q a).acc = (a :: q.acc).take 32 := by
  unfold adapt
  extract_lets acc sum deep top y
  split
  · exact ⟨rfl, rfl, rfl⟩
  · split
    · exact ⟨rfl, rfl, rfl⟩
    · split <;> exact ⟨rfl, rfl, rfl⟩

/-! ### The commit -/

/-- The target distribution of a node's row (R230). -/
def passTarget (s : State) (l : DLoop) (q : Seq) (rows : List LogitRow) (n : Nat) : Target :=
  targetDist (rowSlices s s.md.pass.mode q.home) (recParams (recBytes s l.ra)).temp (recParams (recBytes s l.ra)).topP
    (recParams (recBytes s l.ra)).kc ((rows.getD n default).x)

/-- The walk of a sequence's tree (R232). -/
def passWalk (s : State) (l : DLoop) (q : Seq) (rows : List LogitRow) : Walk :=
  walkFrom (recParams (recBytes s l.ra)) l.tree l.qs (passTarget s l q rows) l.tree.length 0 (recCommitted (recBytes s l.ra))

/-- What the pass emits (R239). -/
def passEmits (s : State) (l : DLoop) (q : Seq) (rows : List LogitRow) : List Emit :=
  cutEmits (infoOf s q.slot q.gen) (recBytes s l.ra)
    (emitsOf l.tree (passTarget s l q rows) (fun n => (rows.getD n default).pois) (passWalk s l q rows))

/-- The copies of the accepted path (R238). -/
def passCopies (s : State) (l : DLoop) (q : Seq) (rows : List LogitRow) : Option (Tbl SeqDie × State) :=
  commitAll (infoOf s q.slot q.gen) q.slot (recCommitted (recBytes s l.ra))
    ((passWalk s l q rows).path.take (passEmits s l q rows).length) q.dies s

/-- A loop whose verify pass has committed. -/
def DLoop.committed (r : Bytes) (es : List Emit) (x : DLoop) : DLoop :=
  { x with
    tree := [], qs := [], mask := [], running := false
    stopHit := es.any fun e => (recStops r).contains e.token
    poisHit := es.any (·.pois) }

/-- A sequence whose verify pass has committed: its new pages, and its template adapted (R226). -/
def committedSeq (s s1 : State) (l : DLoop) (q : Seq) (rows : List LogitRow) (ds : Tbl SeqDie) : Seq :=
  adapt s1 (recBytes s l.ra) { q with dies := ds } ((passWalk s l q rows).path.length - 1)

theorem commitVerify_waits {s : State} {l : DLoop} {q : Seq} {rows : List LogitRow} (outs : List (List Bytes)) (hecc : s.mem.ecc = [])
    (h : passCopies s l q rows = none) : commitVerify s l q rows outs = s := by
  unfold commitVerify
  rw [eccWord_clean hecc]
  extract_lets t r m c p dist pois w es
  rw [noteCommit_clean hecc, show commitAll m q.slot c (w.path.take es.length) q.dies s = none from h]

/-- Before its token boundary, a commit has changed of sequences and loops its own sequence and its own loop. -/
theorem commitVerify_commits {s s1 : State} {l : DLoop} {q : Seq} {rows : List LogitRow} {ds : Tbl SeqDie} (outs : List (List Bytes))
    (hecc : s.mem.ecc = []) (h : passCopies s l q rows = some (ds, s1)) :
    ∃ t, commitVerify s l q rows outs = interimDue (tokenBoundary t l.job l.ra) l.ra ∧
      t.md = (updLoop (updSeq s1 q.ra fun _ => committedSeq s s1 l q rows ds) l.ra
        (DLoop.committed (recBytes s l.ra) (passEmits s l q rows))).md := by
  unfold commitVerify
  rw [eccWord_clean hecc]
  extract_lets t r m c p dist pois w es
  rw [noteCommit_clean hecc, show commitAll m q.slot c (w.path.take es.length) q.dies s = some (ds, s1) from h]
  refine ⟨_, rfl, ?_⟩
  rw [ckptAtCommit_md, notePass_md]
  split
  · rw [updJob_md]
    exact updLoop_md_congr (commitWords_md _ _ _ _) _ _
  · exact updLoop_md_congr (commitWords_md _ _ _ _) _ _

/-- The loop and the sequence that a commit leaves. -/
theorem commitVerify_leaves {s s1 : State} {l : DLoop} {q : Seq} {rows : List LogitRow} {ds : Tbl SeqDie} (outs : List (List Bytes))
    (hecc : s.mem.ecc = []) (h : passCopies s l q rows = some (ds, s1)) (hloop : loopOf s1 l.ra = some l) (hseq : seqOf s1 l.ra = some q) :
    (∃ x, loopOf (commitVerify s l q rows outs) l.ra = some x ∧ x.running = false ∧ x.tree = [] ∧
      x.stopHit = (passEmits s l q rows).any fun e => (recStops (recBytes s l.ra)).contains e.token) ∧
    ∃ y, seqOf (commitVerify s l q rows outs) l.ra = some y ∧ y.dies = ds ∧ y.acc = (((passWalk s l q rows).path.length - 1) :: q.acc).take 32 := by
  obtain ⟨t, ht, hmd⟩ := commitVerify_commits outs hecc h
  have hra : q.ra = l.ra := seqOf_ra hseq
  obtain ⟨hkra, hkdies, hkacc⟩ : (committedSeq s s1 l q rows ds).ra = q.ra ∧ _ := adapt_keeps s1 (recBytes s l.ra) { q with dies := ds } _
  rw [hra] at hmd
  have htloop : loopOf t l.ra = some (l.committed (recBytes s l.ra) (passEmits s l q rows)) := by
    rw [loopOf_of_loops_eq (congrArg _ hmd), loopOf_updLoop (by exact fun _ hx => hx), loopOf_of_loops_eq (updSeq_loops _ _ _), hloop,
      Option.map_some]
  have htseq : seqOf t l.ra = some (committedSeq s s1 l q rows ds) := by
    rw [seqOf_of_md_eq hmd, seqOf_of_seqs_eq (updLoop_seqs _ _ _), seqOf_updSeq fun _ _ => hkra.trans hra, hseq, Option.map_some]
  rw [ht]
  refine ⟨loopOf_interimDue ((loopOf_tokenBoundary t l.job l.ra l.ra).trans htloop), ?_⟩
  obtain ⟨y, hy, hydies, hyacc⟩ := seqOf_tokenBoundary l.job htseq
  exact ⟨y, (seqOf_interimDue _ _ _).trans hy, hydies.trans hkdies, hyacc.trans hkacc⟩

theorem verifyPassCommit_commits {s : State} {ra : W64} {l : DLoop} {q : Seq} (rows : List LogitRow) (outs : List (List Bytes))
    (hloop : loopOf s ra = some l) (hseq : seqOf s ra = some q) (hrun : l.running = true) (hpass : s.md.pass.running = true) :
    exec (.verifyPassCommit ra rows outs) s = .next (commitVerify s l q rows outs) := by
  change execVerifyPassCommit ra rows outs s = _
  simp [execVerifyPassCommit, hloop, hseq, hrun, hpass]

theorem verifyPassCommit_noPass {s : State} (ra : W64) (rows : List LogitRow) (outs : List (List Bytes)) (h : s.md.pass.running = false) :
    exec (.verifyPassCommit ra rows outs) s = .next s := by
  change execVerifyPassCommit ra rows outs s = _
  unfold execVerifyPassCommit
  split
  · rw [h, Bool.and_false, if_neg Bool.false_ne_true]
  · rfl

/-- Settles O32: VERIFY_PASS by `beginVerify_waits` and `beginVerify_begins`, VERIFY_PASS_COMMIT by `commitVerify_waits` and
`commitVerify_leaves`. -/
theorem verifyPassesRunAndCommit : Obligations.VerifyPassesRunAndCommit := by
  unfold Obligations.VerifyPassesRunAndCommit
  refine ⟨fun s ra drafts l q d hecc hrun hpre hfind hidle hlast hd => ⟨fun hmode hrows => ?waits, fun hrows htree => ?begins⟩,
    fun s ra rows outs l q sl w es hecc hsl hloop hseq hrun hpass hw hes => ⟨fun hcopies => ?noRoom, fun ds s1 hcopies hseqs hloops => ?commits⟩,
    fun s ra rows outs hpass => verifyPassCommit_noPass ra rows outs hpass⟩
  case waits =>
    replace hd : d = passDraft s l q drafts := hd
    subst hd
    rw [verifyPass_begins drafts hrun hpre hfind hidle hlast, beginVerify_waits hecc hmode hrows]
  case begins =>
    replace hd : d = passDraft s l q drafts := hd
    subst hd
    obtain ⟨hra, x, hx⟩ := passLoops_find hfind
    subst hra
    obtain ⟨hloop, hhost, hseqs, hcp⟩ := treeBegun_leaves q (passDraft s l q drafts) hx
    refine ⟨_, _, ?_, hloop, rfl, rfl, rfl, rfl, rfl, hhost, hseqs, hcp⟩
    rw [verifyPass_begins drafts hrun hpre hfind hidle hlast, beginVerify_begins hecc hrows htree]
  case noRoom =>
    have hra := loopOf_ra hloop
    subst hsl hw hes hra
    rw [verifyPassCommit_commits rows outs hloop hseq hrun hpass, commitVerify_waits outs hecc hcopies]
  case commits =>
    have hra := loopOf_ra hloop
    subst hsl hw hes hra
    obtain ⟨⟨x, hx, hidle, htree, hstop⟩, y, hy, hdies, hacc⟩ := commitVerify_leaves outs hecc hcopies ((loopOf_of_loops_eq hloops _).trans hloop)
      ((seqOf_of_seqs_eq hseqs _).trans hseq)
    exact ⟨_, x, y, verifyPassCommit_commits rows outs hloop hseq hrun hpass, hx, hidle, htree, hstop, hy, hdies, hacc⟩

end Sys2Proof.Machine
end

section
/-!
DMA, DECODE_LOOP and BARRIER as work commands (O14): each has one lemma about its `run` function once its checks have passed. That a DMA
waits while its ring is full is the model's choice (log entry 32).
-/

namespace Sys2Proof.Machine

/-! ### What a change of a running command leaves unchanged -/

@[simp] theorem updJob_hq (s : State) (j : JobRef) (f : Job → Job) : (updJob s j f).hq = s.hq := by unfold updJob; split <;> rfl
@[simp] theorem updJob_tiles (s : State) (j : JobRef) (f : Job → Job) : (updJob s j f).tiles = s.tiles := by unfold updJob; split <;> rfl
@[simp] theorem updJob_engines (s : State) (j : JobRef) (f : Job → Job) : (updJob s j f).engines = s.engines := by
  unfold updJob; split <;> rfl
@[simp] theorem updJob_bcn (s : State) (j : JobRef) (f : Job → Job) : (updJob s j f).bcn = s.bcn := by unfold updJob; split <;> rfl

@[simp] theorem setBody_hq (s : State) (j : JobRef) (b : Body) : (setBody s j b).hq = s.hq := updJob_hq s j _
@[simp] theorem setBody_tiles (s : State) (j : JobRef) (b : Body) : (setBody s j b).tiles = s.tiles := updJob_tiles s j _
@[simp] theorem setBody_engines (s : State) (j : JobRef) (b : Body) : (setBody s j b).engines = s.engines := updJob_engines s j _
@[simp] theorem setBody_bcn (s : State) (j : JobRef) (b : Body) : (setBody s j b).bcn = s.bcn := updJob_bcn s j _

@[simp] theorem noteModel_lk (s : State) (j : JobRef) (k : Nat) (g : BitVec 16) (p i : Bytes) (n : Nat) :
    (noteModel s j k g p i n).lk = s.lk := updJob_lk s j _
@[simp] theorem noteModel_bcn (s : State) (j : JobRef) (k : Nat) (g : BitVec 16) (p i : Bytes) (n : Nat) :
    (noteModel s j k g p i n).bcn = s.bcn := updJob_bcn s j _

/-! ### DMA (R357) -/

/-- A DMA waits while its channel's ring is full. -/
theorem dma_waits {s : State} {st : Stream} {de : Fin 16} {ch : Chan} {e : NextEntry} (hnext : nextEntry s st.val = some e)
    (hopc : entryOpc e.bytes = 0x03) (hfull : 32 ≤ chanQueued (chanOf s (dmaEngine s e.bytes de.val) ch.val)) :
    exec (.dma st de ch) s = .next s := by
  change execDma st de ch s = _
  simp only [execDma, hnext]
  exact if_pos (by simp [hopc, hfull])

/-- A DMA whose ring has room runs. -/
theorem dma_runs {s o : State} {st : Stream} {de : Fin 16} {ch : Chan} {e : NextEntry} (h : Enters s st 0x03 e o)
    (hroom : chanQueued (chanOf s (dmaEngine s e.bytes de.val) ch.val) < 32) :
    exec (.dma st de ch) s = .next (runDma de.val ch.val (.stream st.val) e.bytes o) := by
  have hstart := startEntry_enters (runDma de.val ch.val) h
  obtain ⟨⟨hnext, -⟩, -⟩ := h
  change execDma st de ch s = _
  simp only [execDma, hnext]
  rw [if_neg (by simp [Nat.not_le.2 hroom]), hstart]

/-- A DMA that passes its checks places its descriptor. -/
theorem runDma_places {de ch : Nat} {j : JobRef} {e : Bytes} {s : State} (hchk : checkDmaCmd s e (dmaEngine s e de) = none) :
    runDma de ch j e s = updChan (setBody s j (.dma (dmaEngine s e de) ch)) (dmaEngine s e de) ch
      fun c => putDesc c (some j) (dmaEntryDesc e) false := by
  rw [runDma]
  exact checkThen_passes _ _ _ hchk

/-! ### DECODE_LOOP (R244, R248) -/

theorem mirrors_of_lk_eq {s t : State} (h : s.lk = t.lk) : mirrors s = mirrors t := by rw [mirrors, mirrors, h]

theorem mirrorLog_off {s : State} (h : mirrors s = false) (e : Bytes) (ra : W64) : mirrorLog s e ra = s := if_neg (ne_true_of_eq_false h)

/-- A loop that has just started for the record `ra`. -/
def newLoop (ra : W64) (j : JobRef) (t : W64) : DLoop :=
  { ra := ra, job := j, lastBeacon := t, lastOut := 0, tree := [], qs := [], running := false, mask := [], stopHit := false, poisHit := false }

theorem newLoop_fields (ra : W64) (j : JobRef) (t : W64) : (newLoop ra j t).ra = ra ∧ (newLoop ra j t).job = j ∧
    (newLoop ra j t).running = false ∧ (newLoop ra j t).lastBeacon = t := ⟨rfl, rfl, rfl, rfl⟩

/-- A loop joins the others, as the last of them. -/
def addLoop (s : State) (l : DLoop) : State := { s with md := { s.md with loops := s.md.loops ++ [l] } }

@[simp] theorem addLoop_mem (s : State) (l : DLoop) : (addLoop s l).mem = s.mem := rfl
@[simp] theorem addLoop_loops (s : State) (l : DLoop) : (addLoop s l).md.loops = s.md.loops ++ [l] := rfl
@[simp] theorem getJob_addLoop (s : State) (l : DLoop) (j : JobRef) : getJob (addLoop s l) j = getJob s j := rfl

/-- A DECODE_LOOP of a sequence, its record's OUT_POS restarted, as the loop of that record. -/
def decodeBegun (s : State) (j : JobRef) (e : Bytes) (q : Seq) : State :=
  let t := putRec s (entryAddrW e) 44 (leBytes 4 0)
  setBody (noteModel t j q.slot q.gen (servedModel t q.slot).decodeDigest (recInput (recBytes s (entryAddrW e))) (infoOf t q.slot q.gen).layers)
    j (.decode (entryAddrW e))

@[simp] theorem decodeBegun_mem (s : State) (j : JobRef) (e : Bytes) (q : Seq) :
    (decodeBegun s j e q).mem = (putRec s (entryAddrW e) 44 (leBytes 4 0)).mem := by simp [decodeBegun]
@[simp] theorem decodeBegun_md (s : State) (j : JobRef) (e : Bytes) (q : Seq) : (decodeBegun s j e q).md = s.md := by simp [decodeBegun]
@[simp] theorem decodeBegun_lk (s : State) (j : JobRef) (e : Bytes) (q : Seq) : (decodeBegun s j e q).lk = s.lk := by simp [decodeBegun]
@[simp] theorem decodeBegun_bcn (s : State) (j : JobRef) (e : Bytes) (q : Seq) : (decodeBegun s j e q).bcn = s.bcn := by simp [decodeBegun]

/-- The command of a loop that starts carries MIGRATED as its sequence does (R242). -/
def decodeMarked (s : State) (j : JobRef) (e : Bytes) (q : Seq) : State :=
  updJob (decodeBegun s j e q) j fun b => { b with migrated := q.migrated }

theorem getJob_decodeMarked {s : State} {j : JobRef} {b : Job} (h : getJob s j = some b) (e : Bytes) (q : Seq) :
    ∃ b', getJob (decodeMarked s j e q) j = some b' ∧ b'.body = .decode (entryAddrW e) :=
  ⟨_, getJob_updJob _ (getJob_setBody _ (getJob_updJob _ ((getJob_of_cp_eq (putRec_cp s _ _ _) j).trans h))), rfl⟩

@[simp] theorem decodeMarked_mem (s : State) (j : JobRef) (e : Bytes) (q : Seq) :
    (decodeMarked s j e q).mem = (putRec s (entryAddrW e) 44 (leBytes 4 0)).mem := by simp [decodeMarked]
@[simp] theorem decodeMarked_md (s : State) (j : JobRef) (e : Bytes) (q : Seq) : (decodeMarked s j e q).md = s.md := by simp [decodeMarked]

/-- Outside MIRROR, a DECODE_LOOP that passes its checks starts as the last of the loops. -/
theorem runDecode_starts {s : State} {j : JobRef} {e : Bytes} {q : Seq} (hchk : checkDecode s e = none)
    (hseq : seqOf s (entryAddrW e) = some q) (hmirror : mirrors s = false) :
    runDecode j e s = addLoop (updSeq (decodeMarked s j e q) (entryAddrW e) fun x =>
      { x with tmpl := startTmpl (recBytes s (entryAddrW e)) q }) (newLoop (entryAddrW e) j (now s)) := by
  have hlog : mirrorLog (decodeBegun s j e q) e (entryAddrW e) = decodeBegun s j e q :=
    mirrorLog_off ((mirrors_of_lk_eq (decodeBegun_lk s j e q)).trans hmirror) e _
  have hnow : now s = now (decodeMarked s j e q) := by simp [now, decodeMarked]
  rw [runDecode, checkThen_passes _ _ _ hchk, hnow, decodeMarked, ← hlog]
  unfold startDecode
  simp only [hseq]
  rfl

/-! ### BARRIER (R401, R402, R404) -/

theorem checkBarrier_passes {e : Bytes} (hkind : byteN e 16 ≤ 1) (hbar : byteN e 17 ≤ (if byteN e 16 = 0 then 31 else 63)) :
    checkBarrier e = none := firstFail_single (by simp [Nat.not_lt.2 hkind, Nat.not_lt.2 hbar])

theorem runBarrier_disabled {j : JobRef} {e : Bytes} {s : State} (hchk : checkBarrier e = none)
    (hoff : (barOf s (decide (byteN e 16 = 1)) (byteN e 17)).en = false) : runBarrier j e s = finish s j .notReady 0 := by
  rw [runBarrier, checkThen_passes _ _ _ hchk]
  exact if_pos (by simp [hoff])

theorem barOf_of_bcn_eq {s t : State} (h : s.bcn = t.bcn) (casc : Bool) (b : Nat) : barOf s casc b = barOf t casc b := by
  rw [barOf, barOf, h]

theorem barOf_updBar_module (s : State) (b : Nat) (f : Barrier → Barrier) : barOf (updBar s false b f) false b = f (barOf s false b) :=
  Tbl.get_upd_self s.bcn.mbar b f

/-- An entry that a module barrier takes. -/
theorem enterBar_takes {s : State} {b : Nat} {p : Part} (h : (placeEntry (barOf s false b) p).2 = false) :
    enterBar s false b p = (updBar s false b fun _ => (placeEntry (barOf s false b) p).1, false) := by
  rw [enterBar]
  exact if_neg (ne_true_of_eq_false h)

/-- A BARRIER that its module barrier takes waits there. -/
theorem runBarrier_waits {j : JobRef} {e : Bytes} {s : State} (hkind : byteN e 16 = 0) (hbar : byteN e 17 < 32)
    (hon : (barOf s false (byteN e 17)).en = true) (htakes : (placeEntry (barOf s false (byteN e 17)) (.job j)).2 = false) :
    runBarrier j e s = updBar (setBody s j (.barrier false (byteN e 17))) false (byteN e 17)
      fun _ => (placeEntry (barOf s false (byteN e 17)) (.job j)).1 := by
  have hbar' : byteN e 17 ≤ (if byteN e 16 = 0 then 31 else 63) := by rw [if_pos hkind]; omega
  have hself := barOf_of_bcn_eq (setBody_bcn s j (.barrier false (byteN e 17))) false (byteN e 17)
  have hmodule : decide (byteN e 16 = 1) = false := by simp [hkind]
  rw [runBarrier, checkThen_passes _ _ _ (checkBarrier_passes (by omega) hbar')]
  simp only [hmodule, hon, Bool.not_true, Bool.false_eq_true, if_false]
  rw [enterBar_takes (hself ▸ htakes), hself]
  exact if_neg Bool.false_ne_true

/-- Settles O14: each command enters by `startEntry_runs` and runs as its own lemma says. -/
theorem dmaDecodeLoopAndBarrierStart : Obligations.DmaDecodeLoopAndBarrierStart := by
  unfold Obligations.DmaDecodeLoopAndBarrierStart
  refine ⟨fun s o st de ch e h hjob hroom hchk => ?dma, fun s st de ch e hnext hopc hfull => dma_waits hnext hopc hfull,
    fun s o st e q h hjob hchk hseq hmirror => ?decode, fun s o st e h hjob hkind hbar hon htakes => ?barrier,
    fun s o st e h hkind hbar hoff => startEntry_runs h (runBarrier_disabled (checkBarrier_passes hkind hbar) hoff)⟩
  case dma =>
    refine ⟨_, _, (dma_runs h hroom).trans (congrArg Host.Outcome.next (runDma_places hchk)), getJob_setBody _ hjob, rfl, ?_, ?_, ?_⟩
    · rw [chanOf_updChan_self, chanOf_of_engines_eq (setBody_engines o _ _)]
    · rw [updChan_mem, setBody_mem]
    · exact setBody_hq o _ _
  case decode =>
    obtain ⟨b, hb, hbody⟩ := getJob_decodeMarked hjob e.bytes q
    have hstarts := startEntry_runs h (runDecode_starts hchk hseq hmirror)
    refine ⟨_, b, hstarts, ?_, hbody, ?_, _, ?_, newLoop_fields (entryAddrW e.bytes) (.stream st.val) (now o)⟩
    · rw [getJob_addLoop, getJob_updSeq, hb]
    · rw [addLoop_mem, updSeq_mem, decodeMarked_mem]
    · rw [addLoop_loops, updSeq_loops, decodeMarked_md]
  case barrier =>
    refine ⟨_, _, startEntry_runs h (runBarrier_waits hkind hbar hon htakes), getJob_setBody _ hjob, rfl, barOf_updBar_module _ _ _, ?_, ?_⟩
    · rw [updBar_mem, setBody_mem]
    · rw [updBar_tiles, setBody_tiles]

end Sys2Proof.Machine
end

section
/-!
Sequences and generations under a change of their record (O33): what the generation that a number names, the counts of a generation's
references and a sequence's token boundary leave of slots and sequences.
-/

namespace Sys2Proof.Machine

/-! ### The generation that a slot's number names -/

theorem genOf_of_slots_eq {s t : State} (h : s.md.slots = t.md.slots) (k : Nat) (n : BitVec 16) : genOf s k n = genOf t k n := by
  rw [genOf, genOf, h]

theorem genOf_num {s : State} {k : Nat} {n : BitVec 16} {g : Gen} (h : genOf s k n = some g) : g.num = n := by
  simpa using List.find?_some h

theorem genOf_updGen {s : State} {k : Nat} {n : BitVec 16} {f : Gen → Gen} (hf : ∀ g, g.num = n → (f g).num = n) :
    genOf (updGen s k n f) k n = (genOf s k n).map f := by
  rw [genOf, updGen, updSlot_md, Tbl.get_upd_self]
  exact find?_map_update hf _

/-- A generation without its shards. -/
def Gen.bare (g : Gen) : Gen := { g with shards := [] }

/-- Weights that move leave a generation as it is but for its shards. -/
theorem genOf_bare {s t : State} (h : ReseatedFrom s t) (k : Nat) (n : BitVec 16) :
    (genOf t k n).map Gen.bare = (genOf s k n).map Gen.bare := by
  have hfind (x : Slot) : (x.gens.find? fun g => g.num = n).map Gen.bare = x.bare.gens.find? fun g => g.num = n := by
    rw [Slot.bare, List.find?_map]
    rfl
  rw [genOf, genOf, hfind, hfind, h.bare k]

/-! ### References and the token boundary (R215, R216, R242) -/

theorem updSlot_lastPrefill {f : Slot → Slot} (hf : ∀ x, (f x).lastPrefill = x.lastPrefill) (s : State) (k i : Nat) :
    ((updSlot s k f).md.slots.get i).lastPrefill = (s.md.slots.get i).lastPrefill := by
  rw [updSlot_md, Tbl.get_upd]
  split
  · next h => rw [hf, h]
  · rfl

theorem updGen_lastPrefill (s : State) (k : Nat) (n : BitVec 16) (f : Gen → Gen) (i : Nat) :
    ((updGen s k n f).md.slots.get i).lastPrefill = (s.md.slots.get i).lastPrefill :=
  updSlot_lastPrefill (by exact fun _ => rfl) s k i

theorem dropOneRef_lastPrefill (s : State) (k : Nat) (n : BitVec 16) (i : Nat) :
    ((dropOneRef s k n).md.slots.get i).lastPrefill = (s.md.slots.get i).lastPrefill :=
  (updSlot_lastPrefill (by exact fun _ => rfl) _ k i).trans (updGen_lastPrefill s k n _ i)

/-- The end of a reference is one dropped reference, or two. -/
theorem dropRef_cases (s : State) (k : Nat) (n : BitVec 16) :
    dropRef s k n = dropOneRef s k n ∨ ∃ b : Nat × BitVec 16, dropRef s k n = dropOneRef (dropOneRef s k n) b.1 b.2 := by
  unfold dropRef
  dsimp only
  split
  · next b _ =>
    split
    · exact .inr ⟨b, rfl⟩
    · exact .inl rfl
  · exact .inl rfl

theorem dropRef_lastPrefill (s : State) (k : Nat) (n : BitVec 16) (i : Nat) :
    ((dropRef s k n).md.slots.get i).lastPrefill = (s.md.slots.get i).lastPrefill := by
  rcases dropRef_cases s k n with h | ⟨b, h⟩
  · rw [h, dropOneRef_lastPrefill]
  · rw [h, dropOneRef_lastPrefill, dropOneRef_lastPrefill]

@[simp] theorem dropRef_lk (s : State) (k : Nat) (n : BitVec 16) : (dropRef s k n).lk = s.lk := by
  rcases dropRef_cases s k n with h | ⟨b, h⟩
  · rw [h]; rfl
  · rw [h]; rfl

/-- At its token boundary a sequence changes at most by its re-pin. -/
theorem seqOf_tokenBoundary_repins {s : State} {ra : W64} {q : Seq} (j : JobRef) (h : seqOf s ra = some q) :
    ∃ g r m, seqOf (tokenBoundary s j ra) ra = some { q with gen := g, repin := r, migrated := m } := by
  unfold tokenBoundary
  simp only [h]
  split
  · exact ⟨q.gen, q.repin, q.migrated, h⟩
  · next g _ =>
    refine ⟨g, none, true, ?_⟩
    rw [seqOf_of_md_eq (updJob_md _ _ _), seqOf_updSeq (by exact fun _ hx => hx), seqOf_of_seqs_eq (dropRef_seqs _ _ _)]
    exact congrArg (Option.map _) h

theorem tokenBoundary_lk (s : State) (j : JobRef) (ra : W64) : (tokenBoundary s j ra).lk = s.lk := by
  unfold tokenBoundary
  split
  · rfl
  · split
    · rfl
    · next q _ g _ => exact (updJob_lk _ _ _).trans (dropRef_lk _ _ _)

theorem tokenBoundary_lastPrefill (s : State) (j : JobRef) (ra : W64) (i : Nat) :
    ((tokenBoundary s j ra).md.slots.get i).lastPrefill = (s.md.slots.get i).lastPrefill := by
  unfold tokenBoundary
  split
  · rfl
  · split
    · rfl
    · rw [updJob_md]
      exact (dropRef_lastPrefill _ _ _ i).trans (updGen_lastPrefill s _ _ _ i)

end Sys2Proof.Machine
end

section
/-!
ADMISSION and PREFILL_COMMIT (O33, R267): what becomes of the head of a slot's queue, and the state that the last prefill pass leaves.
-/

namespace Sys2Proof.Machine

/-! ### The head of a slot's queue -/

/-- The state without the head of a slot's queue. -/
def popAdmit (s : State) (k : Nat) : State := updSlot s k fun x => { x with admits := x.admits.tail }

/-- The sequence that an admission begins: pinned to the serving generation `g`, with the pages `ds` on the dies in service. -/
def newSeq (s : State) (k : Nat) (a : Admit) (g : Gen) (ds : Tbl SeqDie) : Seq :=
  { ra := a.ra, slot := k, gen := g.num, home := homeDie s, dies := ds, parked := none, repin := none, migrated := false
    acc := [], tmpl := 0, sinceMove := 0, prefilling := true, filled := 0, pois := false }

/-- Where the pools have room, the head becomes the last of the sequences. -/
theorem admitHead_admits {s s1 : State} {k : Nat} {a : Admit} {g : Gen} {ds : Tbl SeqDie} (hgen : servingGen s k = some g)
    (hroom : allocAll g.info k (modeOf s k) (homeDie s) (a.n + 1) (upDies s) (popAdmit s k) = some (ds, s1)) :
    (admitHead s k a).md.seqs = s1.md.seqs ++ [newSeq s k a g ds] ∧ (admitHead s k a).mem = s1.mem := by
  unfold popAdmit at hroom
  simp only [admitHead, hgen, hroom]
  exact ⟨congrArg (fun m : Models => m.seqs ++ [newSeq s k a g ds]) (updJob_md _ _ _), updJob_mem _ _ _⟩

theorem admitHead_waits {s : State} {k : Nat} {a : Admit} {g : Gen} (hgen : servingGen s k = some g)
    (hroom : allocAll g.info k (modeOf s k) (homeDie s) (a.n + 1) (upDies s) (popAdmit s k) = none) : admitHead s k a = s := by
  unfold popAdmit at hroom
  simp only [admitHead, hgen, hroom]

theorem admitHead_notReady {s : State} {k : Nat} (a : Admit) (hgen : servingGen s k = none) :
    admitHead s k a = finish (popAdmit s k) a.job .notReady 0 := by
  simp only [admitHead, hgen]
  rfl

/-- The head of a queue is looked at unless the slot is in its settle stage or the module drains. -/
theorem admission_head {s : State} {k : Fin 8} {a : Admit} {r : List Admit} (hhead : (s.md.slots.get k.val).admits = a :: r) :
    exec (.admission k) s =
      if ((s.md.slots.get k.val).settling || leaving s) = true then .next s else .next (admitHead s k.val a) := by
  change execAdmission k s = _
  simp only [execAdmission, hhead]

theorem admission_takes {s : State} {k : Fin 8} {a : Admit} {r : List Admit} (hhead : (s.md.slots.get k.val).admits = a :: r)
    (hsettle : (s.md.slots.get k.val).settling = false) (hstay : leaving s = false) :
    exec (.admission k) s = .next (admitHead s k.val a) := by
  rw [admission_head hhead, hsettle, hstay]
  rfl

/-! ### The last prefill pass -/

/-- A part of the state that no entry of a position changes is the same after a pass has filled a sequence. -/
theorem fillSeq_frame {α : Type} {part : State → α} (hpart : ∀ s m d a i p, part (freeEntry s m d a i p) = part s)
    (s : State) (q : Seq) (lo hi : Nat) (pois : Bool) : part (fillSeq s q lo hi pois) = part s := by
  refine List.foldlRecOn _ _ (motive := fun t => part t = part s) rfl fun t ht d _ => ?_
  refine List.foldlRecOn _ _ (motive := fun t => part t = part s) ht fun t ht h _ => ?_
  refine List.foldlRecOn _ _ (motive := fun t => part t = part s) ht fun t ht l _ => ?_
  refine List.foldlRecOn _ _ (motive := fun t => part t = part s) ht fun t ht p _ => ?_
  split
  · rw [hpart, ht]
  · exact ht

theorem freeEntry_lk (s : State) (m : ModelInfo) (d page i : Nat) (pois : Bool) : (freeEntry s m d page i pois).lk = s.lk :=
  (storeMod_lk _ _ _).trans (storeMod_lk _ _ _)

theorem fillSeq_md (s : State) (q : Seq) (lo hi : Nat) (pois : Bool) : (fillSeq s q lo hi pois).md = s.md :=
  fillSeq_frame (part := State.md) (fun s m d a i p => (modWrites_freeEntry s m d a i p).md) s q lo hi pois

theorem fillSeq_lk (s : State) (q : Seq) (lo hi : Nat) (pois : Bool) : (fillSeq s q lo hi pois).lk = s.lk :=
  fillSeq_frame (part := State.lk) freeEntry_lk s q lo hi pois

@[simp] theorem prefillWords_md (s : State) (q : Seq) (n tok : Nat) : (prefillWords s q n tok).md = s.md :=
  (putRec_md _ _ _ _).trans (putRec_md _ _ _ _)

@[simp] theorem prefillWords_lk (s : State) (q : Seq) (n tok : Nat) : (prefillWords s q n tok).lk = s.lk :=
  (putRec_lk _ _ _ _).trans (putRec_lk _ _ _ _)

/-- Outside MIRROR no checkpoint is sent (R463). -/
theorem ckptAtCommit_off {s : State} (h : mirrors s = false) (q : Seq) (c : Nat) : ckptAtCommit s q c = s := by
  rw [ckptAtCommit, h, Bool.false_and, if_neg Bool.false_ne_true]

/-- Outside MIRROR a model's command completes without waiting for the twin (R463). -/
theorem finishModel_off {s : State} (h : mirrors s = false) (j : JobRef) (ra : W64) (x : Status) (v : W64) :
    finishModel s j ra x v = finish s j x v := if_neg (ne_true_of_eq_false h)

/-- A sequence out of prefill, its `n` positions filled, with the first template of its record `r`. -/
def Seq.prefilled (r : Bytes) (n : Nat) (x : Seq) : Seq :=
  { x with prefilling := false, filled := n, tmpl := tmplFor (if recNodesMax r = 0 then 16 else recNodesMax r) }

/-- A slot whose last pass was a prefill pass. -/
def Slot.prefilled (x : Slot) : Slot := { x with lastPrefill := true }

/-- Before its token boundary, the last prefill pass has changed its own sequence and its slot. -/
theorem commitPrefill_commits {s : State} (j : JobRef) (q : Seq) (n : Nat) (row : LogitRow) (outs : List (List Bytes))
    (hmirror : mirrors s = false) :
    ∃ t, commitPrefill s j q n row outs = finish (tokenBoundary t j q.ra) j
        (rankStatus (((getJob (tokenBoundary t j q.ra) j).map (·.conds)).getD []))
        (BitVec.ofNat 64 (n * 2 ^ 32 + firstToken (rowSlices s s.md.pass.mode q.home) (recBytes s q.ra) n row % 2 ^ 17)) ∧
      t.md = (updSlot (updSeq s q.ra (Seq.prefilled (recBytes s q.ra) n)) q.slot Slot.prefilled).md := by
  unfold commitPrefill
  extract_lets r tok s1 s2 s3 s4 s5 s6 s7 s8
  have hmd4 : s4.md = (updSlot (updSeq s q.ra (Seq.prefilled r n)) q.slot Slot.prefilled).md := by
    have hmd2 : s2.md = s.md := (prefillWords_md _ _ _ _).trans (fillSeq_md _ _ _ _ _)
    simp only [s4, s3, updSlot_md, updSeq, hmd2]
    rfl
  have hlk4 : s4.lk = s.lk := (prefillWords_lk _ _ _ _).trans (fillSeq_lk _ _ _ _ _)
  obtain ⟨hmd6, hlk6⟩ : s6.md = s4.md ∧ s6.lk = s4.lk := by
    simp only [s6]
    split
    · exact ⟨(updJob_md _ _ _).trans (notePass_md _ _ _ _ _), (updJob_lk _ _ _).trans (updJob_lk _ _ _)⟩
    · exact ⟨notePass_md _ _ _ _ _, updJob_lk _ _ _⟩
  have hoff6 : mirrors s6 = false := (mirrors_of_lk_eq (hlk6.trans hlk4)).trans hmirror
  have h7 : s7 = s6 := by
    simp only [s7]
    split
    · exact ckptAtCommit_off hoff6 _ _
    · rfl
  have hoff8 : mirrors s8 = false := by
    rw [mirrors_of_lk_eq (tokenBoundary_lk _ _ _), h7, hoff6]
  exact ⟨s7, finishModel_off hoff8 _ _ _ _, by rw [h7, hmd6, hmd4]⟩

theorem prefillCommit_commits {s : State} {ra : W64} {q : Seq} {j : JobRef} (row : LogitRow) (outs : List (List Bytes))
    (hseq : seqOf s ra = some q) (hjob : jobOfSeq s ra = some j) (hrun : s.md.pass.running = true) (hpre : s.md.pass.pre = some ra)
    (hfill : q.prefilling = true) (hlast : prefillLen s j ≤ q.filled + 2048) :
    exec (.prefillCommit ra row outs) s = .next (commitPrefill s j q (prefillLen s j) row outs) := by
  change execPrefillCommit ra row outs s = _
  simp [execPrefillCommit, hseq, hjob, hrun, hpre, hfill, hlast]

end Sys2Proof.Machine
end

section
/-!
PARK, RECALL and GENERATION_PARK (O33, R273, R274): the copies to and from the host tier, and what they leave of sequences and generations.
The window, and which of several equally old sequences is parked, are operands (log entry 66).
-/

namespace Sys2Proof.Machine

/-! ### Copies between HBM3 and a window -/

/-- `t` is `s` after copies without a physical fault: the memories and the free frames may differ, the sequences, the slots and the
commands are as they were. -/
structure CopiedFrom (s t : State) : Prop where
  ecc : t.mem.ecc = []
  seqs : t.md.seqs = s.md.seqs
  slots : t.md.slots = s.md.slots
  cp : t.cp = s.cp

namespace CopiedFrom

variable {s t : State}

theorem refl (h : s.mem.ecc = []) : CopiedFrom s s := ⟨h, rfl, rfl, rfl⟩

/-- A fold whose every step only copies only copies. -/
theorem foldl {α : Type} {f : State → α → State} (hf : ∀ t a, CopiedFrom s t → CopiedFrom s (f t a)) (l : List α)
    (h : CopiedFrom s t) : CopiedFrom s (l.foldl f t) :=
  List.foldlRecOn l f (motive := CopiedFrom s) h fun t ht a _ => hf t a ht

theorem hostWrite (h : CopiedFrom s t) (a : Nat) (b : Bytes) : CopiedFrom s (hostWrite t a b) := ⟨h.ecc, h.seqs, h.slots, h.cp⟩

theorem freeFrames (h : CopiedFrom s t) (k d : Nat) (l : List Nat) : CopiedFrom s (freeFrames t k d l) := ⟨h.ecc, h.seqs, h.slots, h.cp⟩

theorem writePte (h : CopiedFrom s t) (d : Nat) (q : SeqDie) (i v : Nat) : CopiedFrom s (writePte t d q i v) := by
  refine ⟨storeClean_ecc h.ecc _ _, ?_, ?_, (storeClean_cp _ _ _).trans h.cp⟩
  · exact (congrArg Models.seqs (storeClean_md _ _ _)).trans h.seqs
  · exact (congrArg Models.slots (storeClean_md _ _ _)).trans h.slots

theorem parkPage (h : CopiedFrom s t) (m : ModelInfo) (x : TierWin) (d a o : Nat) : CopiedFrom s (parkPage m x d a o t) := by
  rw [Machine.parkPage, eccAt_of_clean h.ecc]
  exact h.hostWrite _ _

theorem parkDie {r : State × Nat} (h : CopiedFrom s r.1) (m : ModelInfo) (x : TierWin) (k : Nat) (p : Nat × SeqDie) :
    CopiedFrom s (parkDie m x k r p).1 := by
  refine freeFrames (.foldl (fun t a ht => ?_) _ h) _ _ _
  dsimp only
  split
  · exact (ht.parkPage m x _ _ _).writePte _ _ _ _
  · exact ht.parkPage m x _ _ _

end CopiedFrom

/-! ### Sequences (R273) -/

theorem parkDies_copy {s : State} (h : s.mem.ecc = []) (m : ModelInfo) (x : TierWin) (k o : Nat) (ds : Tbl SeqDie) :
    CopiedFrom s (ds.foldl (parkDie m x k) (s, o)).1 :=
  List.foldlRecOn ds _ (motive := fun r : State × Nat => CopiedFrom s r.1) (.refl h) fun _ hr p _ => hr.parkDie m x k p

/-- A parked sequence names its place, and keeps its generation. -/
theorem parkSeq_parks {s : State} {ra : W64} {q : Seq} (w o : Nat) (hecc : s.mem.ecc = []) (hseq : seqOf s ra = some q) :
    (∃ y, seqOf (parkSeq s q w o) ra = some y ∧ y.parked = some (w, o) ∧ y.gen = q.gen) ∧ (parkSeq s q w o).cp = s.cp := by
  have hra : q.ra = ra := seqOf_ra hseq
  subst hra
  have hcopy := parkDies_copy hecc (infoOf s q.slot q.gen) (tierWin s w) q.slot o q.dies
  have hkept := (seqOf_of_seqs_eq hcopy.seqs q.ra).trans hseq
  exact ⟨⟨_, (seqOf_updSeq (by exact fun _ hx => hx)).trans (congrArg (Option.map _) hkept), rfl, rfl⟩, hcopy.cp⟩

theorem mayPark_iff {s : State} {q : Seq} : mayPark s q = true ↔ q.parked = none ∧ recordNamed s q.ra = false := by
  simp [mayPark]

/-- No sequence that a command names could come back to HBM3 first. -/
theorem anyRecall_eq_false {s : State} (h : ∀ r ∈ s.md.seqs, recordNamed s r.ra = true → recallSeq s r = none) :
    (s.md.seqs.any fun r => recordNamed s r.ra && (recallSeq s r).isSome) = false := by
  simpa using h

/-- Of the sequences that may be parked, none has its last pass longer back. -/
theorem noneOlder_iff {s : State} {q : Seq} :
    (s.md.seqs.all fun r => !mayPark s r || decide (q.lastRun.toNat ≤ r.lastRun.toNat)) = true ↔
      ∀ r ∈ s.md.seqs, mayPark s r = true → q.lastRun.toNat ≤ r.lastRun.toNat := by
  simp only [List.all_eq_true, Bool.or_eq_true, Bool.not_eq_true', decide_eq_true_eq]
  refine ⟨fun h r hr hmay => (h r hr).resolve_left (ne_false_of_eq_true hmay), fun h r hr => ?_⟩
  cases hmay : mayPark s r with
  | false => exact .inl rfl
  | true => exact .inr (h r hr hmay)

theorem park_parks {s : State} {ra : W64} {w : Fin 64} {q : Seq} {o : Nat} (hseq : seqOf s ra = some q)
    (hwait : (s.md.slots.any fun k => !k.2.admits.isEmpty) = true) (hmay : mayPark s q = true)
    (hrecall : ∀ r ∈ s.md.seqs, recordNamed s r.ra = true → recallSeq s r = none)
    (hold : ∀ r ∈ s.md.seqs, mayPark s r = true → q.lastRun.toNat ≤ r.lastRun.toNat) (hmapped : (tierWin s w.val).mapped = true)
    (huse : bitN (tierWin s w.val).use_ 0 = true) (hplace : parkPlace s w.val (parkBytes s q) = some o) :
    exec (.park ra w) s = .next (parkSeq s q w.val o) := by
  change execPark ra w s = _
  simp only [execPark, hseq, hwait, hmay, anyRecall_eq_false hrecall, noneOlder_iff.2 hold, hmapped, huse, hplace]
  rfl

/-- A sequence that another has waited longer than is not parked. -/
theorem park_younger {s : State} {ra : W64} {w : Fin 64} {q : Seq} (hseq : seqOf s ra = some q)
    (h : ∃ r ∈ s.md.seqs, mayPark s r = true ∧ r.lastRun.toNat < q.lastRun.toNat) : exec (.park ra w) s = .next s := by
  obtain ⟨r, hr, hmay, hlt⟩ := h
  have hold : (s.md.seqs.all fun r => !mayPark s r || decide (q.lastRun.toNat ≤ r.lastRun.toNat)) = false :=
    Bool.eq_false_iff.2 fun hall => absurd (noneOlder_iff.1 hall r hr hmay) (Nat.not_le.2 hlt)
  change execPark ra w s = _
  simp only [execPark, hseq, hold, Bool.and_false, Bool.false_and, Bool.false_eq_true, if_false]

theorem recallSequence_named {s : State} {ra : W64} {q : Seq} (hseq : seqOf s ra = some q) (hnamed : recordNamed s ra = true) :
    exec (.recallSequence ra) s = .next ((recallSeq s q).getD s) := by
  change execRecallSequence ra s = _
  simp only [execRecallSequence, hseq, if_pos hnamed]

theorem recallSequence_unnamed {s : State} {ra : W64} (hnamed : recordNamed s ra = false) : exec (.recallSequence ra) s = .next s := by
  change execRecallSequence ra s = _
  unfold execRecallSequence
  split
  · rfl
  · rw [hnamed, if_neg Bool.false_ne_true]

theorem recallSeq_recalls {s s1 : State} {q : Seq} {w o : Nat} {ds : Tbl SeqDie} (hparked : q.parked = some (w, o))
    (hroom : recallDies (infoOf s q.slot q.gen) (tierWin s w) q.slot q.dies s o = some (ds, s1)) :
    recallSeq s q = some (releasesDue (updSeq s1 q.ra fun x => { x with parked := none, dies := ds })) := by
  simp only [recallSeq, hparked, hroom, Option.map_some]

/-! ### Generations (R274) -/

theorem eccNote_of_clean {s : State} (h : s.mem.ecc = []) (l : List Nat) : eccNote s l = s := by simp [eccNote, h]

theorem copyOut_copies {s : State} (h : s.mem.ecc = []) (g : Gen) (x : TierWin) : CopiedFrom s (copyOut s g x) := by
  refine .foldl (fun t d ht => .foldl (fun t u ht => ?_) _ ht) _ (.refl h)
  split
  · exact ht
  · dsimp only
    rw [eccNote_of_clean ht.ecc]
    exact ht.hostWrite _ _

theorem unseat_mem (s : State) (k : Nat) (g : Gen) : (unseat s k g).mem = s.mem :=
  List.foldlRecOn _ setResident (motive := fun t : State => t.mem = s.mem) rfl fun _ ht _ _ => ht

/-- A generation in a window, its frames in HBM3 free. -/
def Gen.inWindow (w : Nat) (g : Gen) : Gen := { g with window := some w, shards := [] }

/-- The state with a generation copied to a window and its frames free. -/
def genParked (s : State) (k : Nat) (n : BitVec 16) (w : Nat) (g : Gen) : State :=
  updGen (unseat (copyOut s g (tierWin s w)) k g) k n (Gen.inWindow w)

theorem genParked_mem (s : State) (k : Nat) (n : BitVec 16) (w : Nat) (g : Gen) :
    (genParked s k n w g).mem = (copyOut s g (tierWin s w)).mem := unseat_mem _ k g

theorem genOf_genParked {s : State} {k : Nat} {n : BitVec 16} {g : Gen} (w : Nat) (hecc : s.mem.ecc = []) (hgen : genOf s k n = some g) :
    genOf (genParked s k n w g) k n = some (g.inWindow w) := by
  have hcopied : genOf (copyOut s g (tierWin s w)) k n = some g :=
    (genOf_of_slots_eq (copyOut_copies hecc g (tierWin s w)).slots k n).trans hgen
  have hbare := genOf_bare (reseatedFrom_unseat (copyOut s g (tierWin s w)) k g) k n
  rw [hcopied] at hbare
  calc genOf (genParked s k n w g) k n
      = (genOf (unseat (copyOut s g (tierWin s w)) k g) k n).map (Gen.inWindow w) := genOf_updGen (by exact fun _ hx => hx)
    _ = ((genOf (unseat (copyOut s g (tierWin s w)) k g) k n).map Gen.bare).map (Gen.inWindow w) := by rw [Option.map_map]; rfl
    _ = some (g.inWindow w) := by rw [hbare]; rfl

theorem generationPark_out {s : State} {k : Fin 8} {n : BitVec 16} {w : Fin 64} {g : Gen} (hgen : genOf s k.val n = some g)
    (hhome : g.window = none) (hserving : (s.md.slots.get k.val).serving ≠ some n) (hpin : runnablePin s k.val n = false)
    (hflight : g.inFlight = 0) (hmapped : (tierWin s w.val).mapped = true) (huse : bitN (tierWin s w.val).use_ 1 = true)
    (hempty : windowHeld s w.val = false) (hlen : imageLen g ≤ (tierWin s w.val).len) (hplaced : placed g = true) :
    exec (.generationPark k n w false) s = .next (genParked s k.val n w.val g) := by
  change execGenerationPark k n w false s = _
  simp only [execGenerationPark, hgen]
  refine (if_neg Bool.false_ne_true).trans (if_pos ?_)
  simp [hhome, hserving, hpin, hflight, hmapped, huse, hempty, hlen, hplaced]

/-- A generation that is laid is cut for the topology in force. -/
theorem layWith_laid (s : State) (g : Gen) (b : Unit_ → Bytes) :
    ∃ sh whole, (layWith s g b).2 = { g with cut := s.md.epoch.line, shards := sh, whole := whole } := by
  obtain ⟨sh, hsh⟩ := takeShards_shards s { g with cut := s.md.epoch.line, shards := [] }
    ((cutDies s.md.epoch.line).filter fun d => !dieOut s d)
  rw [layWith, hsh]
  exact ⟨_, _, rfl⟩

theorem layWith_md (s : State) (g : Gen) (b : Unit_ → Bytes) : (layWith s g b).1.md = s.md := by
  unfold layWith
  refine List.foldlRecOn _ _ (motive := fun t : State => t.md = s.md) rfl fun t ht d _ => ?_
  split
  · rw [storeUnits_md, ht]
  · exact ht

/-- A generation of a window laid in HBM3 again, with the state that holds its frames. -/
def laidBack (s : State) (g : Gen) (w : Nat) : State × Gen := layWith s { g with window := none } (imageBytesOf s g (tierWin s w))

theorem generationPark_back {s : State} {k : Fin 8} {n : BitVec 16} {w : Fin 64} {g : Gen} (hgen : genOf s k.val n = some g)
    (hwin : g.window = some w.val) :
    exec (.generationPark k n w true) s =
      .next (if placed (laidBack s g w.val).2 = true then updGen (laidBack s g w.val).1 k.val n fun _ => (laidBack s g w.val).2 else s) := by
  change execGenerationPark k n w true s = _
  simp only [execGenerationPark, hgen]
  exact (if_pos trivial).trans (if_neg (not_not_intro hwin))

theorem genOf_laidBack {s : State} {k : Nat} {n : BitVec 16} {g : Gen} (w : Nat) (hgen : genOf s k n = some g) :
    genOf (updGen (laidBack s g w).1 k n fun _ => (laidBack s g w).2) k n = some (laidBack s g w).2 := by
  obtain ⟨sh, whole, hlaid⟩ := layWith_laid s { g with window := none } (imageBytesOf s g (tierWin s w))
  have hnum : (laidBack s g w).2.num = n := by
    rw [laidBack, hlaid]
    exact (genOf_num hgen : g.num = n)
  have hmd : (laidBack s g w).1.md = s.md := layWith_md _ _ _
  rw [genOf_updGen fun _ _ => hnum, genOf_of_slots_eq (congrArg Models.slots hmd), hgen, Option.map_some]

/-- Settles O33: an admission by `admission_head` and what becomes of the head of the queue, the end of prefill by `commitPrefill_commits`,
sequences by `parkSeq_parks` and `recallSeq_recalls`, generations by `genOf_genParked` and `genOf_laidBack`. -/
theorem sequencesAreAdmittedAndParked : Obligations.SequencesAreAdmittedAndParked := by
  unfold Obligations.SequencesAreAdmittedAndParked
  refine ⟨fun s s1 k a r g ds hhead hsettle hstay hgen hroom => ?admits, fun s k a r g hhead hgen hroom => ?waits,
    fun s k a r hhead hsettle hstay hgen => ?notReady, fun s ra row outs q j hseq hjob hrun hpre hfill hlast hmirror => ?prefilled,
    fun s ra w q o hecc hseq hwait hparked hnamed hrecall hold hmapped huse hplace => ?parks,
    fun s s1 ra q w o ds hseq hparked hnamed hroom => ?recalls, fun s ra q w o _ _ hnamed => recallSequence_unnamed hnamed,
    fun s ra w q r hseq hr hparked hnamed hlt => park_younger hseq ⟨r, hr, mayPark_iff.2 ⟨hparked, hnamed⟩, hlt⟩,
    fun s k n w g hecc hgen hhome hserving hpin hflight hmapped huse hempty hlen hplaced => ?out,
    fun s k n w g r hgen hwin hr => ⟨fun hplaced => ?back, fun hplaced => ?stays⟩⟩
  case admits =>
    obtain ⟨hseqs, hmem⟩ := admitHead_admits hgen hroom
    exact ⟨_, newSeq s k a g ds, admission_takes hhead hsettle hstay, hseqs, rfl, rfl, rfl, rfl, rfl, rfl, rfl, hmem⟩
  case waits => rw [admission_head hhead, admitHead_waits hgen hroom, ite_self]
  case notReady => rw [admission_takes hhead hsettle hstay, admitHead_notReady a hgen, popAdmit]
  case prefilled =>
    have hra : q.ra = ra := seqOf_ra hseq
    subst hra
    obtain ⟨t, hcommit, hmd⟩ := commitPrefill_commits j q (prefillLen s j) row outs hmirror
    have htseq : seqOf t q.ra = some (q.prefilled (recBytes s q.ra) (prefillLen s j)) := by
      rw [seqOf_of_md_eq hmd]
      exact (seqOf_updSeq (by exact fun _ hx => hx)).trans (congrArg (Option.map _) hseq)
    obtain ⟨g, p, m, hy⟩ := seqOf_tokenBoundary_repins j htseq
    refine ⟨_, _, ?_, hy, rfl, rfl, ?_⟩
    · rw [prefillCommit_commits row outs hseq hjob hrun hpre hfill hlast, hcommit]
    · rw [tokenBoundary_lastPrefill, hmd, updSlot_md, Tbl.get_upd_self]
      rfl
  case parks =>
    have hra : q.ra = ra := seqOf_ra hseq
    obtain ⟨⟨y, hy, hplaced, hgen⟩, hcp⟩ := parkSeq_parks w.val o hecc hseq
    refine ⟨_, y, park_parks hseq hwait (mayPark_iff.2 ⟨hparked, hra ▸ hnamed⟩) hrecall (fun r hr hmay => ?_) hmapped huse hplace, hy,
      hplaced, hgen, hcp⟩
    obtain ⟨hfree, hidle⟩ := mayPark_iff.1 hmay
    exact hold r hr hfree hidle
  case recalls =>
    rw [recallSequence_named hseq hnamed, recallSeq_recalls hparked hroom, seqOf_ra hseq]
    rfl
  case out =>
    exact ⟨_, _, generationPark_out hgen hhome hserving hpin hflight hmapped huse hempty hlen hplaced, genOf_genParked w.val hecc hgen,
      rfl, rfl, rfl, genParked_mem _ _ _ _ _⟩
  case back =>
    replace hr : r = laidBack s g w.val := hr
    subst hr
    obtain ⟨sh, whole, hlaid⟩ : ∃ sh whole, (laidBack s g w.val).2 = _ := layWith_laid s { g with window := none } _
    refine ⟨_, _, (generationPark_back hgen hwin).trans (congrArg Host.Outcome.next (if_pos hplaced)), genOf_laidBack w.val hgen, ?_, ?_, ?_, rfl⟩
    all_goals rw [hlaid]
  case stays =>
    replace hr : r = laidBack s g w.val := hr
    subst hr
    exact (generationPark_back hgen hwin).trans (congrArg Host.Outcome.next (if_neg (ne_true_of_eq_false hplaced)))

end Sys2Proof.Machine
end

section
/-!
What the data of a DMA descriptor leaves unchanged (O30): reads and writes of any kind keep the channels, the commands, the host regions and
the module's chip numbers, on which the course of the descriptor depends.
-/

namespace Sys2Proof.Machine

/-- `t` is `s` after data has moved: the channels, the commands, the host queue with its regions and the pins are as they were. -/
structure DataMoved (s t : State) : Prop where
  chans : ∀ e ch, chanOf t e ch = chanOf s e ch
  cp : t.cp = s.cp
  hq : t.hq = s.hq
  pins : t.pins = s.pins

namespace DataMoved

theorem refl (s : State) : DataMoved s s := ⟨fun _ _ => rfl, rfl, rfl, rfl⟩

theorem trans {s t u : State} (h : DataMoved s t) (h' : DataMoved t u) : DataMoved s u :=
  ⟨fun e ch => (h'.chans e ch).trans (h.chans e ch), h'.cp.trans h.cp, h'.hq.trans h.hq, h'.pins.trans h.pins⟩

theorem of_eq {s t : State} (he : t.engines = s.engines) (hc : t.cp = s.cp) (hh : t.hq = s.hq) (hp : t.pins = s.pins) : DataMoved s t :=
  ⟨chanOf_of_engines_eq he, hc, hh, hp⟩

/-- A fold whose every step only moves data only moves data. -/
theorem foldl {α : Type} {f : State → α → State} (hf : ∀ t a, DataMoved t (f t a)) (l : List α) (s : State) : DataMoved s (l.foldl f s) :=
  List.foldlRecOn l f (motive := DataMoved s) (.refl s) fun t ht a _ => ht.trans (hf t a)

theorem ite {c : Prop} {_ : Decidable c} {s t u : State} (ht : DataMoved s t) (hu : DataMoved s u) : DataMoved s (if c then t else u) := by
  split
  · exact ht
  · exact hu

theorem isLocal_eq {s t : State} (h : DataMoved s t) (w : W64) : isLocal t w = isLocal s w := by rw [isLocal, isLocal, chipBase, chipBase, h.pins]

theorem needsProbe_eq {s t : State} (h : DataMoved s t) (e : Nat) (x : Ext) : needsProbe t e x = needsProbe s e x := by
  rw [needsProbe, needsProbe, h.isLocal_eq]

theorem putAdmitted_eq {s t : State} (h : DataMoved s t) (q : W64 × Nat × List PByte) : putAdmitted t q = putAdmitted s q := by
  simp only [putAdmitted, hostPrefix, hostMapped, h.hq]

end DataMoved

theorem SentFrom.dataMoved {s t : State} (h : SentFrom s t) : DataMoved s t := by
  obtain ⟨_, _, _, rfl⟩ := h
  exact .of_eq rfl rfl rfl rfl

/-! ### Writes -/

theorem dataMoved_storeMod (s : State) (k : Nat) (l : List PByte) : DataMoved s (storeMod s k l) :=
  .of_eq (storeMod_engines s k l) (storeMod_cp s k l) (storeMod_hq s k l) (storeMod_pins s k l)

/-- Fault marks, poison marks and bytes of a scratchpad are memory alone. -/
theorem dataMoved_clearEcc (s : State) (t : Nat) (as : List Nat) : DataMoved s (clearEcc s t as) := by
  refine .ite (.refl s) (.foldl (fun u b => ?_) _ s)
  split
  · exact .of_eq rfl rfl rfl rfl
  · exact .refl u

theorem dataMoved_clearWhole (s : State) (t : Nat) (as : List Nat) : DataMoved s (clearWhole s t as) := by
  refine .foldl (fun u b => ?_) _ s
  split
  · exact .of_eq rfl rfl rfl rfl
  · exact .refl u

theorem dataMoved_storeAddrs (s : State) (t : Nat) (l : List (Nat × PByte)) : DataMoved s (storeAddrs s t l) := by
  have hbytes : ∀ u, DataMoved u (storeTile u t l) := fun u => by
    refine .foldl (fun v p => ?_) _ u
    exact .of_eq rfl rfl rfl rfl
  exact ((dataMoved_clearEcc s t _).trans (dataMoved_clearWhole _ t _)).trans (hbytes _)

theorem dataMoved_updTile (s : State) (t : Nat) (f : Tile → Tile) : DataMoved s (updTile s t f) := .of_eq rfl rfl rfl rfl

theorem dataMoved_updDie (s : State) (d : Nat) (f : DieRegs → DieRegs) : DataMoved s (updDie s d f) := .of_eq rfl rfl rfl rfl

theorem dataMoved_flushEntry (s : State) (t : Nat) (g : GEntry) : DataMoved s (flushEntry s t g) :=
  (dataMoved_storeAddrs s t g.data).trans (dataMoved_updTile _ _ _)

theorem dataMoved_gatherLine (s : State) (t uid line : Nat) (l : List (Nat × PByte)) : DataMoved s (gatherLine s t uid line l) := by
  unfold gatherLine
  extract_lets g old x u
  have hroom : DataMoved s (match g with | h :: _ => if 8 ≤ g.length then flushEntry s t h else s | [] => s) := by
    cases g with
    | nil => exact .refl s
    | cons h r => exact .ite (dataMoved_flushEntry s t h) (.refl s)
  have hu : DataMoved s u := .ite (.refl s) hroom
  exact .ite (hu.trans (dataMoved_flushEntry u t _)) (hu.trans (dataMoved_updTile _ _ _))

theorem dataMoved_storeHandle (s : State) (t : Nat) (h : HandleF) (off : Nat) (l : List PByte) : DataMoved s (storeHandle s t h off l) := by
  unfold storeHandle
  extract_lets as uid u
  have hgather : DataMoved s (gatherAll s t uid (as.zip l)) := .foldl (fun u _ => dataMoved_gatherLine u t uid _ _) _ s
  have hflush : ∀ v, DataMoved v (flushTod v t uid) := fun v => .foldl (fun u _ => dataMoved_flushEntry u t _) _ v
  have hu : DataMoved s u := .ite (dataMoved_storeAddrs s t _) (hgather.trans (hflush _))
  exact hu.trans (.of_eq rfl rfl rfl rfl)

theorem sentFrom_linkAccess (s : State) (w : W64) (kind : Nat) (pay : Bytes) : SentFrom s (linkAccess s w kind pay) := by
  unfold linkAccess
  split
  · exact sentFrom_sendOn s _ _ kind pay
  · exact .refl s

theorem dataMoved_putData (s : State) (q : W64 × Nat × List PByte) : DataMoved s (putData s q) := by
  unfold putData
  extract_lets w o
  split
  · exact .ite (dataMoved_storeMod s _ _) (sentFrom_linkAccess s w _ _).dataMoved
  · exact dataMoved_storeHandle s _ _ _ _
  · split
    · exact .of_eq rfl rfl rfl rfl
    · exact .refl s
  · exact .of_eq rfl rfl rfl rfl
  · exact .refl s

theorem dataMoved_putNear (s : State) (e : Nat) (q : W64 × Nat × List PByte) : DataMoved s (putNear s e q) :=
  .ite (.refl s) (dataMoved_putData s q)

/-! ### Effects of reads, counts and arcs -/

theorem dataMoved_cacheReads (s : State) (e : Nat) (cache : Bool) (keys : List Nat) : DataMoved s (cacheReads s e cache keys) :=
  .ite (.refl s) (.ite (.refl s) (dataMoved_updDie _ _ _))

/-- Reads of another module are sent to it, and their bytes are taken free. -/
theorem dataMoved_readEffects (s : State) (e : Nat) (b : Bytes) (m : Move) : DataMoved s (readEffects s e b m) := by
  unfold readEffects
  extract_lets cache u far v
  have hu : DataMoved s u := dataMoved_cacheReads s e _ _
  have hv : DataMoved u v := by
    refine .foldl (fun t x => ?_) far u
    exact (sentFrom_linkAccess t x.w _ _).dataMoved.trans (.of_eq rfl rfl rfl rfl)
  clear_value v
  exact (hu.trans hv).trans (.ite (.refl v) (dataMoved_updDie _ _ _))

theorem dataMoved_countPois (s : State) (e : Nat) (puts : List (W64 × Nat × List PByte)) : DataMoved s (countPois s e puts) := by
  unfold countPois
  extract_lets n
  refine .ite (.refl s) ⟨fun k ch => ?_, rfl, rfl, rfl⟩
  rw [chanOf, chanOf, updEngine_engines, Tbl.get_upd]
  split
  · next h => rw [h]
  · rfl

theorem countPois_mem (s : State) (e : Nat) (puts : List (W64 × Nat × List PByte)) : (countPois s e puts).mem = s.mem := by
  unfold countPois
  extract_lets n
  split <;> rfl

/-- What crosses arcs changes their counts alone. -/
theorem crossArcs_eq (s : State) (a b n : Nat) : ∃ arcs, crossArcs s a b n = { s with arcs := arcs } := by
  refine List.foldlRecOn _ _ (motive := fun t : State => ∃ arcs, t = { s with arcs := arcs }) ⟨s.arcs, rfl⟩ ?_
  rintro _ ⟨arcs, rfl⟩ h -
  exact ⟨_, rfl⟩

theorem crossAll_eq (s : State) (e : Nat) (b : Bytes) (keys : List Nat) (puts : List (W64 × Nat × List PByte)) :
    ∃ arcs, crossAll s e b keys puts = { s with arcs := arcs } := by
  refine List.foldlRecOn _ _ (motive := fun t : State => ∃ arcs, t = { s with arcs := arcs }) ⟨s.arcs, rfl⟩ ?_
  rintro _ ⟨arcs, rfl⟩ c -
  obtain ⟨arcs', h⟩ := crossArcs_eq { s with arcs := arcs } c.1 c.2.1 c.2.2
  exact ⟨arcs', h⟩

theorem dataMoved_crossAll (s : State) (e : Nat) (b : Bytes) (keys : List Nat) (puts : List (W64 × Nat × List PByte)) :
    DataMoved s (crossAll s e b keys puts) := by
  obtain ⟨arcs, h⟩ := crossAll_eq s e b keys puts
  rw [h]
  exact .of_eq rfl rfl rfl rfl

theorem crossAll_mem (s : State) (e : Nat) (b : Bytes) (keys : List Nat) (puts : List (W64 × Nat × List PByte)) :
    (crossAll s e b keys puts).mem = s.mem := by
  obtain ⟨arcs, h⟩ := crossAll_eq s e b keys puts
  rw [h]

end Sys2Proof.Machine
end

section
/-!
The writes of a descriptor lie at its destination (O30, R311, R316 to R318, R320, R321): all of them name its DST word, and those of COPY
and FILL stay inside the extent that R313 checks. So a descriptor for host memory that has passed its checks writes only where a host
region admits it.
-/

namespace Sys2Proof.Machine

/-! ### Lengths of what is read, encoded and expanded -/

@[simp] theorem length_leBytes (n v : Nat) : (leBytes n v).length = n := by
  induction n generalizing v with
  | zero => rfl
  | succ n ih => simp [leBytes, ih]

@[simp] theorem length_readN (m : Mem) (a n : Nat) : (Mem.readN m a n).length = n := by
  induction n generalizing a with
  | zero => rfl
  | succ n ih => simp [Mem.readN, ih]

/-- An extent is read whole or in part, never beyond its end. -/
theorem length_readExt_le (s : State) (e : Nat) (x : Ext) : (readExt s e x).data.length ≤ x.n := by
  unfold readExt
  extract_lets o k t h as n m
  have has : as.length = x.n := by simp [as, physOf]
  split
  · split
    · simp [takeFree]
    · split
      · simp
      · simp [loadMod]
  · simp only [loadKeys, List.length_map, List.length_take, has]
    omega
  · simp [hostRead]
  · simp only [hostRead, m, hostPrefix, List.length_map, length_readN]
    omega
  · simp

@[simp] theorem length_azcExpand (n : Nat) (src : List PByte) : (azcExpand n src).data.length = n := by
  unfold azcExpand
  extract_lets
  split
  · exact List.length_replicate
  · simp only [fitTo, bytesAt, List.length_map, List.length_append, List.length_take, List.length_replicate]
    omega

/-- A row expands to no more than the bytes asked for. -/
theorem length_azcDecode_le (packed : Bool) (src : List PByte) (f pos n : Nat) (r : AzcRow) :
    (azcDecode packed src f pos n r).data.length ≤ r.data.length + n := by
  induction f generalizing pos n r with
  | zero => simp [azcDecode]
  | succ f ih =>
    unfold azcDecode
    split
    · omega
    · extract_lets k x
      split
      · refine Nat.le_trans (ih _ _ _) ?_
        simp only [AzcRow.add, List.length_append, List.length_replicate]
        omega
      · refine Nat.le_trans (ih _ _ _) ?_
        simp only [AzcRow.add, List.length_append, x, length_azcExpand]
        omega

theorem length_wdcRow (fmt n : Nat) (lvl base delta : List PByte) : (wdcRow fmt n lvl base delta).data.length = n := by
  simp only [wdcRow, wdcGroup, List.length_append, List.length_take, List.length_flatMap, List.length_map, List.length_range,
    List.length_replicate, List.map_const', List.sum_replicate_nat]
  omega

/-! ### The extent of compressed rows (R295, R297, R299) -/

/-- Room for one block and for the blocks after it. -/
theorem azcExtent_block {n : Nat} (packed : Bool) (hpos : 0 < n) :
    ceilDiv (min 4096 n + 8) 64 * 64 ≤ azcExtent packed n ∧
      (if packed then ceilDiv (min 4096 n + 8) 64 * 64 else 4160) + azcExtent packed (n - 4096) ≤ azcExtent packed n := by
  unfold azcExtent ceilDiv
  cases packed with
  | false =>
    simp only [Bool.false_eq_true, if_false]
    omega
  | true =>
    simp only [if_true]
    split <;> split <;> omega

/-- A block of compressed data takes its header and at most its own bytes. -/
theorem length_azcBlock_le (es : Nat) (d : List PByte) : (azcBlock es d).length ≤ d.length + 8 := by
  unfold azcBlock
  extract_lets b k coded raw body
  have hb : b.length = d.length := List.length_map _
  have hbody : body.length ≤ d.length := by
    simp only [body, raw, decide_eq_true_eq]
    split
    · exact Nat.le_of_eq hb
    · omega
  simp only [azcHeader, List.length_map, List.length_append, length_leBytes, List.length_singleton]
  omega

/-- A block padded to whole 64-byte units. -/
def azcPadded (es : Nat) (d : List PByte) : List PByte :=
  azcBlock es d ++ List.replicate ((64 - (azcBlock es d).length % 64) % 64) (0, anyPois d)

/-- One more block of a row in its place. -/
def azcPlace (packed : Bool) (es : Nat) (r : List (Nat × List PByte) × Nat) (d : List PByte) : List (Nat × List PByte) × Nat :=
  (r.1 ++ [(r.2, azcPadded es d)], if packed then r.2 + (azcPadded es d).length else r.2 + 4160)

theorem azcEncode_eq (packed : Bool) (es : Nat) (d : List PByte) :
    azcEncode packed es d = ((pieces 4096 d).foldl (azcPlace packed es) ([], 0)).1 := rfl

theorem length_azcPadded_le {d : List PByte} {k : Nat} (es : Nat) (hk : d.length ≤ k) :
    (azcPadded es d).length ≤ ceilDiv (k + 8) 64 * 64 := by
  have hblock := length_azcBlock_le es d
  simp only [azcPadded, List.length_append, List.length_replicate, ceilDiv]
  omega

/-- The blocks of at most `n` decoded bytes stay within the extent of `n` bytes, from where the first of them is placed. -/
theorem foldl_azcPlace_within (packed : Bool) (es f : Nat) {l : List PByte} {n : Nat} (hn : l.length ≤ n) (r : List (Nat × List PByte) × Nat) :
    ∀ p ∈ ((cut 4096 f l).foldl (azcPlace packed es) r).1, p ∈ r.1 ∨ p.1 + p.2.length ≤ r.2 + azcExtent packed n := by
  induction f generalizing l n r with
  | zero => exact fun p hp => .inl hp
  | succ f ih =>
    intro p hp
    by_cases hempty : l.isEmpty
    · exact .inl (by simpa [cut, hempty] using hp)
    · have hpos : 0 < n := Nat.lt_of_lt_of_le (List.length_pos_iff.2 (by simpa using hempty)) hn
      have hlen : (azcPadded es (l.take 4096)).length ≤ ceilDiv (min 4096 n + 8) 64 * 64 :=
        length_azcPadded_le es (by rw [List.length_take]; omega)
      obtain ⟨hfirst, hrest⟩ := azcExtent_block packed hpos
      have hdrop : (l.drop 4096).length ≤ n - 4096 := by rw [List.length_drop]; omega
      simp only [cut, hempty, Bool.false_eq_true, if_false, List.foldl_cons] at hp
      rcases ih hdrop _ p hp with hold | hlater
      · simp only [azcPlace, List.mem_append, List.mem_singleton] at hold
        rcases hold with hold | rfl
        · exact .inl hold
        · exact .inr (by simp only; omega)
      · refine .inr (Nat.le_trans hlater ?_)
        cases packed with
        | true =>
          simp only [azcPlace, if_true] at hrest ⊢
          omega
        | false =>
          simp only [azcPlace, Bool.false_eq_true, if_false] at hrest ⊢
          omega

theorem azcEncode_within (packed : Bool) (es : Nat) {d : List PByte} {n : Nat} (h : d.length ≤ n) :
    ∀ p ∈ azcEncode packed es d, p.1 + p.2.length ≤ azcExtent packed n := by
  rw [azcEncode_eq]
  intro p hp
  simpa using foldl_azcPlace_within packed es d.length h ([], 0) p hp

/-! ### Writes of moves in sequence -/

/-- A write at the address word `w` that ends within its first `n` bytes. -/
def LiesIn (w : W64) (n : Nat) (q : W64 × Nat × List PByte) : Prop := q.1 = w ∧ q.2.1 + q.2.2.length ≤ n

theorem mem_puts_then {a b : Move} {q : W64 × Nat × List PByte} (h : q ∈ (a.then b).puts) : q ∈ a.puts ∨ q ∈ b.puts := by
  unfold Move.then at h
  split at h
  · exact .inl h
  · exact List.mem_append.1 h

/-- What holds of every write of each move holds of every write of all of them in sequence. -/
theorem puts_foldl_then {P : W64 × Nat × List PByte → Prop} {f : Nat → Move} {l : List Nat} (hf : ∀ r ∈ l, ∀ q ∈ (f r).puts, P q) :
    ∀ q ∈ (l.foldl (fun (m : Move) r => m.then (f r)) {}).puts, P q :=
  List.foldlRecOn l _ (motive := fun m : Move => ∀ q ∈ m.puts, P q) (by simp) fun m hm r hr q hq => (mem_puts_then hq).elim (hm q) (hf r hr q)

theorem eq_of_mem_ite_singleton {α : Type} {c : Prop} {_ : Decidable c} {a q : α} (h : q ∈ if c then [] else [a]) : q = a := by
  split at h
  · cases h
  · exact List.mem_singleton.1 h

theorem eq_of_mem_straight {s : State} {e : Nat} {x : Ext} {dst : W64} {lo : Nat} {q : W64 × Nat × List PByte}
    (h : q ∈ (straight s e x dst lo).puts) : q = (dst, lo, (readExt s e x).data) := eq_of_mem_ite_singleton h

/-! ### COPY and FILL -/

/-- Row `r` of several ends within their span. -/
theorem row_within {r rows k n : Nat} (pitch : Nat) (hr : r < rows) (hk : k ≤ n) : r * pitch + k ≤ rowsSpan rows pitch n := by
  have hstart : r * pitch ≤ (rows - 1) * pitch := Nat.mul_le_mul_right pitch (Nat.le_sub_one_of_lt hr)
  unfold rowsSpan
  omega

theorem liesIn_row {b : Bytes} {r : Nat} {l : List PByte} (hr : r < dRows b) (hl : l.length ≤ dstRow b) :
    LiesIn (dDst b) (rowsSpan (dRows b) (dDpitch b) (dstRow b)) (dDst b, r * dDpitch b, l) := ⟨rfl, row_within _ hr hl⟩

theorem copyRow_within {b : Bytes} {r : Nat} (s : State) (e : Nat) (hr : r < dRows b) :
    ∀ q ∈ (copyRow s e b r).puts, LiesIn (dDst b) (rowsSpan (dRows b) (dDpitch b) (dstRow b)) q := by
  intro q hq
  unfold copyRow at hq
  extract_lets src lo x whole us n a d l stop have_ w at hq
  have hread : x.data.length ≤ srcRow b := length_readExt_le s e src
  split at hq
  · next hcodec =>
    obtain rfl := eq_of_mem_straight hq
    refine liesIn_row hr (Nat.le_trans hread (Nat.le_of_eq ?_))
    simp [srcRow, dstRow, hcodec]
  · next hcodec =>
    have hwhole : whole.length ≤ dRlen b := by
      have hsrc : srcRow b = dRlen b := by simp [srcRow, hcodec]
      have hcut : whole.length ≤ x.data.length := by
        simp only [whole]
        split
        · exact List.length_take_le' _ _
        · exact Nat.le_refl _
      exact Nat.le_trans hcut (Nat.le_trans hread (Nat.le_of_eq hsrc))
    obtain ⟨p, hp, rfl⟩ := List.mem_map.1 hq
    have hlast := azcEncode_within (dPacked b) (dEs b) hwhole p hp
    have hrow : azcExtent (dPacked b) (dRlen b) = dstRow b := by simp [dstRow, hcodec]
    refine ⟨rfl, ?_⟩
    have := row_within (dDpitch b) hr (Nat.le_trans hlast (Nat.le_of_eq hrow))
    simp only [lo]
    omega
  · next hcodec =>
    obtain rfl := eq_of_mem_ite_singleton hq
    have hn : n ≤ dRlen b := by
      simp only [n]
      split <;> omega
    have ha : a.data.length ≤ n := by simpa using length_azcDecode_le (dPacked b) x.data (dRlen b) 0 n {}
    refine liesIn_row hr (Nat.le_trans (Nat.le_trans ha hn) (Nat.le_of_eq ?_))
    simp [dstRow, hcodec]
  · next h0 h1 h2 =>
    obtain rfl := eq_of_mem_ite_singleton hq
    refine liesIn_row hr ?_
    rw [length_wdcRow, dstRow, if_neg h1]
    split <;> omega

theorem length_aordData (b : Bytes) (rows : List (List PByte)) : (aordData b rows).length = aordSpan b := by
  simp [aordData]

theorem aordPrefix_within (b : Bytes) (rows : List (List PByte)) (n : Nat) :
    ∀ q ∈ aordPrefix b rows n, LiesIn (dDst b) (aordSpan b) q := by
  intro q hq
  unfold aordPrefix at hq
  extract_lets g other full out at hq
  split at hq
  · cases hq
  · obtain ⟨i, hi, rfl⟩ := List.mem_map.1 hq
    have hlt : i < aordSpan b / g := List.mem_range.1 (List.mem_filter.1 hi).1
    have hend : (i + 1) * g ≤ aordSpan b := Nat.le_trans (Nat.mul_le_mul_right g hlt) (Nat.div_mul_le_self _ _)
    refine ⟨rfl, Nat.le_trans ?_ hend⟩
    rw [Nat.succ_mul]
    exact Nat.add_le_add_left (List.length_take_le _ _) _

theorem aordMove_within (s : State) (e : Nat) (b : Bytes) : ∀ q ∈ (aordMove s e b).puts, LiesIn (dDst b) (aordSpan b) q := by
  unfold aordMove
  extract_lets rs
  split
  · exact aordPrefix_within b _ _
  · intro q hq
    obtain rfl := List.mem_singleton.1 hq
    exact ⟨rfl, by simp [length_aordData]⟩

/-- Bytes from DST on that COPY may write (R316, R318, R320). -/
def copySpan (b : Bytes) : Nat := if dAord b ≠ 0 then aordSpan b else rowsSpan (dRows b) (dDpitch b) (dstRow b)

theorem copyMove_within (s : State) (e : Nat) (b : Bytes) : ∀ q ∈ (copyMove s e b).puts, LiesIn (dDst b) (copySpan b) q := by
  unfold copyMove copySpan
  split
  · exact aordMove_within s e b
  · exact puts_foldl_then fun r hr => copyRow_within s e (List.mem_range.1 hr)

theorem fillMove_within (b : Bytes) : ∀ q ∈ (fillMove b).puts, LiesIn (dDst b) (rowsSpan (dRows b) (dDpitch b) (dRlen b)) q := by
  intro q hq
  obtain ⟨r, hr, rfl⟩ := List.mem_map.1 hq
  refine ⟨rfl, row_within _ (List.mem_range.1 hr) ?_⟩
  simp only [List.length_map, List.length_flatten, List.map_replicate, List.sum_replicate_nat, length_leBytes]
  omega

/-! ### The other opcodes -/

theorem records_dst (s : State) (e : Nat) (b : Bytes) (gather : Bool) (l : List Nat) (i : Nat) {m : Move} (hm : ∀ q ∈ m.puts, q.1 = dDst b) :
    ∀ q ∈ (records s e b gather l i m).puts, q.1 = dDst b := by
  induction l generalizing i m with
  | nil => exact hm
  | cons v r ih =>
    have hthen : ∀ {x : Move}, (∀ q ∈ x.puts, q.1 = dDst b) → ∀ q ∈ (m.then x).puts, q.1 = dDst b := fun hx q hq =>
      (mem_puts_then hq).elim (hm q) (hx q)
    unfold records
    split
    · exact hm
    · split
      · refine ih (i + 1) ?_
        split
        · exact hthen (by simp)
        · exact hm
      · extract_lets x
        split
        · exact hthen (by simp)
        · split
          · exact hthen (by simp)
          · refine ih (i + 1) (hthen fun q hq => ?_)
            split at hq <;> rw [eq_of_mem_straight hq]

theorem indexMove_dst (s : State) (e : Nat) (b : Bytes) (gather : Bool) : ∀ q ∈ (indexMove s e b gather).puts, q.1 = dDst b := by
  unfold indexMove
  extract_lets x idx m
  exact records_dst s e b gather _ 0 (m := {}) (by simp)

theorem walkPage_dst (s : State) (e : Nat) (b : Bytes) (g : Nat) : ∀ q ∈ (walkPage s e b g).puts, q.1 = dDst b := by
  intro q hq
  unfold walkPage at hq
  extract_lets t v d p n at hq
  split at hq
  · cases hq
  · split at hq
    · cases hq
    · split at hq
      · cases hq
      · simp only [List.mem_cons, List.not_mem_nil, or_false] at hq
        rcases hq with rfl | rfl <;> rfl

theorem mem_insertBy {α : Type} {le : α → α → Bool} {a q : α} {l : List α} (h : q ∈ insertBy le a l) : q = a ∨ q ∈ l := by
  induction l with
  | nil => exact .inl (List.mem_singleton.1 h)
  | cons b r ih =>
    unfold insertBy at h
    split at h
    · exact List.mem_cons.1 h
    · rcases List.mem_cons.1 h with rfl | h
      · exact .inr List.mem_cons_self
      · exact (ih h).imp_right (List.mem_cons_of_mem b)

theorem mem_sortBy {α : Type} {le : α → α → Bool} {q : α} {l : List α} (h : q ∈ sortBy le l) : q ∈ l := by
  induction l with
  | nil => exact h
  | cons a r ih =>
    rcases mem_insertBy h with rfl | h
    · exact List.mem_cons_self
    · exact List.mem_cons_of_mem a (ih h)

theorem walkMove_dst (s : State) (e : Nat) (b : Bytes) : ∀ q ∈ (walkMove s e b).puts, q.1 = dDst b := by
  have hpages := puts_foldl_then (P := fun q => q.1 = dDst b) (l := List.range (dIcount b)) fun g _ => walkPage_dst s e b g
  unfold walkMove
  extract_lets m
  split
  · exact fun q hq => hpages q (mem_sortBy hq)
  · exact hpages

theorem bondMove_dst (s : State) (e : Nat) (b : Bytes) : ∀ q ∈ (bondMove s e b).puts, q.1 = dDst b :=
  puts_foldl_then fun _ _ _ hq => by rw [eq_of_mem_straight hq]

/-- PREFETCH writes nothing (R321). -/
theorem prefetchMove_puts (s : State) (e : Nat) (b : Bytes) : (prefetchMove s e b).puts = [] :=
  List.eq_nil_iff_forall_not_mem.2 fun q hq => puts_foldl_then (P := fun _ => False) (by simp) q hq

/-! ### Every descriptor -/

theorem moveOf_copy {b : Bytes} (h : dOpc b = 0x01) (s : State) (e : Nat) :
    moveOf s e b = copyMove (cacheView s e (dCache b && dOpc b ≠ 0x06)) e b := by simp only [moveOf, h]

theorem moveOf_fill {b : Bytes} (h : dOpc b = 0x04) (s : State) (e : Nat) : moveOf s e b = fillMove b := by simp only [moveOf, h]

theorem moveOf_prefetch {b : Bytes} (h : dOpc b = 0x07) (s : State) (e : Nat) : (moveOf s e b).puts = [] := by
  simp only [moveOf, h]
  exact prefetchMove_puts _ e b

theorem moveOf_dst (s : State) (e : Nat) (b : Bytes) : ∀ q ∈ (moveOf s e b).puts, q.1 = dDst b := by
  unfold moveOf
  extract_lets v
  split
  · exact fun q hq => (copyMove_within v e b q hq).1
  · exact indexMove_dst v e b true
  · exact indexMove_dst v e b false
  · exact fun q hq => (fillMove_within b q hq).1
  · exact walkMove_dst v e b
  · exact bondMove_dst v e b
  · rw [prefetchMove_puts]
    exact fun q hq => absurd hq List.not_mem_nil

/-! ### The checks of R313 -/

theorem firstFail_eq_none {α : Type} {l : List (Bool × α)} : firstFail l = none ↔ ∀ p ∈ l, p.1 = false := by
  simp [firstFail]

/-- What a descriptor that passes the checks of R313 promises about its opcode, its address words and its extents. -/
theorem checkDesc_passes {s : State} {e : Nat} {bad : Bool} {b : Bytes} (h : checkDesc s e bad b = none) :
    opOk e (dOpc b) = true ∧ (∀ p ∈ usedWords b, spaceAllowed e p.1 p.2 = true) ∧ ∀ x ∈ extents b, inRegion s e x = true := by
  simp only [checkDesc, firstFail_eq_none, List.forall_mem_cons, Bool.not_eq_false'] at h
  obtain ⟨hop, hparam, -, -, -, -, haddr, -⟩ := h
  refine ⟨hop, ?_, ?_⟩
  · simp only [dmaParam, Bool.or_assoc, Bool.or_eq_false_iff, List.any_eq_false] at hparam
    obtain ⟨hspaces, -⟩ := hparam
    simpa using hspaces
  · simp only [dmaAddr, Bool.or_eq_false_iff, List.any_eq_false] at haddr
    obtain ⟨hregions, -⟩ := haddr
    simpa using hregions

/-- Only the HDE writes host memory. -/
theorem isHde_of_host {e : Nat} {w : W64} (h : spaceAllowed e w true = true) (hw : spaceOf w = 4) : isHde e = true := by
  simpa [spaceAllowed, hw] using h

/-- Every opcode that writes has DST among its words. -/
theorem dst_used {e : Nat} {b : Bytes} (hop : opOk e (dOpc b) = true) (h7 : dOpc b ≠ 0x07) : (dDst b, true) ∈ usedWords b := by
  have hlist : dOpc b = 1 ∨ dOpc b = 2 ∨ dOpc b = 3 ∨ dOpc b = 4 ∨ dOpc b = 5 ∨ dOpc b = 6 := by
    simp [opOk] at hop
    omega
  rcases hlist with h | h | h | h | h | h <;> simp [usedWords, h]

/-- The HDE copies and fills, and nothing else (R311). -/
theorem opOk_hde {e o : Nat} (hop : opOk e o = true) (he : isHde e = true) : o = 0x01 ∨ o = 0x04 := by
  have hde : e = 144 := by simpa [isHde] using he
  simpa [opOk, isDe, isHde, hde] using hop

/-! ### Host regions (R336, R337) -/

/-- A region that admits an extent admits every part of it. -/
theorem hostMapped_part {s : State} {a n c k : Nat} {w : Bool} (h : hostMapped s a n w = true) (hlo : a ≤ c) (hhi : c + k ≤ a + n) :
    hostMapped s c k w = true := by
  simp only [hostMapped, List.any_eq_true, Bool.and_eq_true, decide_eq_true_eq] at h ⊢
  obtain ⟨r, hr, ⟨hvalid, hfrom⟩, hto⟩ := h
  exact ⟨r, hr, ⟨hvalid, Nat.le_trans hfrom hlo⟩, Nat.le_trans hhi hto⟩

/-- A list is taken whole while all its elements pass. -/
theorem takeWhile_of_forall {α : Type} {p : α → Bool} {l : List α} (h : ∀ a ∈ l, p a = true) : l.takeWhile p = l := by
  induction l with
  | nil => rfl
  | cons a r ih =>
    obtain ⟨ha, hr⟩ := List.forall_mem_cons.1 h
    rw [List.takeWhile_cons, if_pos ha, ih hr]

theorem hostPrefix_of_mapped {s : State} {a n : Nat} {w : Bool} (h : hostMapped s a n w = true) : hostPrefix s a n w = n := by
  have hall : ((List.range (ceilDiv n 4096)).takeWhile fun i => hostMapped s (a + 4096 * i) (min 4096 (n - 4096 * i)) w) =
      List.range (ceilDiv n 4096) := by
    refine takeWhile_of_forall fun i hi => hostMapped_part h (by omega) ?_
    have hlt : i < ceilDiv n 4096 := List.mem_range.1 hi
    unfold ceilDiv at hlt
    omega
  rw [hostPrefix, hall, List.length_range, ceilDiv]
  omega

/-- The bytes from DST on that the HDE may write. -/
theorem hde_within {s : State} {e : Nat} {bad : Bool} {b : Bytes} (hcheck : checkDesc s e bad b = none) (he : isHde e = true) (t : State) :
    ∃ n, ⟨dDst b, 0, n, true⟩ ∈ extents b ∧ ∀ q ∈ (moveOf t e b).puts, LiesIn (dDst b) n q := by
  rcases opOk_hde (checkDesc_passes hcheck).1 he with hopc | hopc
  · refine ⟨copySpan b, by simp [extents, hopc, copySpan], ?_⟩
    rw [moveOf_copy hopc]
    exact copyMove_within _ e b
  · refine ⟨rowsSpan (dRows b) (dDpitch b) (dRlen b), by simp [extents, hopc], ?_⟩
    rw [moveOf_fill hopc]
    exact fillMove_within b

/-- Host regions admit every write of a descriptor that has passed its checks. -/
theorem puts_admitted {s : State} {e : Nat} {bad : Bool} {b : Bytes} (hcheck : checkDesc s e bad b = none) (t : State) :
    ∀ q ∈ (moveOf t e b).puts, putAdmitted s q = q.2.2.length := by
  intro q hq
  have hdst : q.1 = dDst b := moveOf_dst t e b q hq
  obtain ⟨hop, hspaces, hregions⟩ := checkDesc_passes hcheck
  rw [putAdmitted]
  split
  · next hhost =>
    have h7 : dOpc b ≠ 0x07 := fun h => by simp [moveOf_prefetch h] at hq
    have hde : isHde e = true := isHde_of_host (hspaces _ (dst_used hop h7)) (hdst ▸ hhost)
    obtain ⟨n, hext, hlies⟩ := hde_within hcheck hde t
    have hmapped : hostMapped s (offOf (dDst b)) n true = true := by
      have := hregions _ hext
      simp only [inRegion, ← hdst, hhost, Bool.and_eq_true] at this
      exact hdst ▸ this.2
    obtain ⟨-, hend⟩ := hlies q hq
    exact hostPrefix_of_mapped (hostMapped_part hmapped (by rw [hdst]; omega) (by rw [hdst]; omega))
  · rfl

end Sys2Proof.Machine
end

section
/-!
A descriptor from its fetch on (O30, R308, R313, R315): `runDesc_fetches` is the step that fetches it; it then faults (`beginDesc_faults`),
waits in a line (`beginDesc_waits`), is probed or moves (`beginDesc_taken`, `moveDesc_waits`, `moveDesc_moves`). That writes for another
die of the module are kept until the completion is the model's choice (log entry 156).
-/

namespace Sys2Proof.Machine

/-! ### The fetch -/

/-- HEAD past the descriptor that is fetched. -/
def headTaken (s : State) (e ch : Nat) : State := updChan s e ch fun c => { c with head := c.head + 1 }

theorem descTaken_eq (s : State) (e ch : Nat) (d : DSlot) :
    descTaken s e ch d = updChan (headTaken s e ch) e ch fun c => { c with prog := c.prog ++ [d] } := rfl

/-- A change of a channel matters only by what it does to that channel. -/
theorem updChan_congr {s : State} {e ch : Nat} {f g : Channel → Channel} (h : f (chanOf s e ch) = g (chanOf s e ch)) :
    updChan s e ch f = updChan s e ch g := by
  have h' : f ((s.engines.get e).chans.get ch) = g ((s.engines.get e).chans.get ch) := h
  simp only [updChan, updEngine, Tbl.upd, h']

theorem skipCancelled_live {c : Channel} (h : c.cancelled.get (c.head.toNat % 32) = false) (n : Nat) : skipCancelled n c = c := by
  cases n with
  | zero => rfl
  | succ n => simp [skipCancelled, h]

/-- The step that fetches a descriptor. -/
theorem runDesc_fetches {s : State} {e ch opc : Nat} {d : DSlot} (h : FetchesDesc s e ch opc d) :
    runDesc opc e ch s = .next (feedAll (beginDesc (headTaken s e ch) e ch d
      ((chanOf s e ch).badReloc.get ((chanOf s e ch).head.toNat % 32)))) := by
  obtain ⟨hup, hprog, hmay, hlive, rfl, hopc⟩ := h
  have hfind : (chanOf s e ch).prog.find? (fun d => d.phase ≠ .moved) = none := by rw [hprog]; rfl
  have htaken : updChan s e ch (fun _ => { chanOf s e ch with head := (chanOf s e ch).head + 1 }) = headTaken s e ch := updChan_congr rfl
  simp only [runDesc, hup, hfind, skipCancelled_live hlive, hmay, takesDesc, hopc, decide_true, Bool.true_or,
    Bool.not_true, Bool.false_eq_true, if_false, htaken]

/-- The seven commands that take a descriptor (R311). -/
theorem exec_descriptor {p : Nat × (EngineNo → Chan → Instr)} (hp : p ∈ [(0x01, Instr.copy), (0x02, Instr.gather), (0x03, Instr.scatter),
    (0x04, Instr.fill), (0x05, Instr.pagewalk), (0x06, Instr.bond), (0x07, Instr.prefetch)]) (e : EngineNo) (ch : Chan) (s : State) :
    exec (p.2 e ch) s = runDesc p.1 e.val ch.val s := by
  simp only [List.mem_cons, List.not_mem_nil, or_false] at hp
  rcases hp with rfl | rfl | rfl | rfl | rfl | rfl | rfl <;> rfl

theorem FetchesDesc.prog {s : State} {e ch opc : Nat} {d : DSlot} (h : FetchesDesc s e ch opc d) : (chanOf s e ch).prog = [] := by
  obtain ⟨-, hprog, -⟩ := h
  exact hprog

/-- A descriptor just fetched keeps no write for another die. -/
theorem FetchesDesc.far {s : State} {e ch opc : Nat} {d : DSlot} (h : FetchesDesc s e ch opc d) : d.far = [] := by
  obtain ⟨-, -, -, -, rfl, -⟩ := h
  rfl

theorem FetchesDesc.opc {s : State} {e ch opc : Nat} {d : DSlot} (h : FetchesDesc s e ch opc d) : dOpc d.bytes = opc := by
  obtain ⟨-, -, -, -, -, hopc⟩ := h
  exact hopc

/-- Nothing is fed while no command runs. -/
theorem feedAll_idle {s : State} (h : s.cp.jobs = []) : feedAll s = s := feedAll_of_noKernel (by simp [h])

/-! ### Checks, wait and probe -/

/-- The state in which a descriptor of no command has faulted its channel. -/
def descFaulted (s : State) (e ch : Nat) (d : DSlot) (c : Nat) : State :=
  fire (withdrawChan (updChan s e ch fun k => haltChan k d c (byteN d.bytes 0) d.qidx) e ch) (engineSrc e)

theorem descFaulted_chan (s : State) (e ch : Nat) (d : DSlot) (c : Nat) :
    chanOf (descFaulted s e ch d c) e ch = haltChan (chanOf s e ch) d c (byteN d.bytes 0) d.qidx := by
  rw [descFaulted, chanOf_fire]
  exact chanOf_updChan_self s e ch _

theorem descFaulted_evr (s : State) (e ch : Nat) (d : DSlot) (c : Nat) :
    (descFaulted (headTaken s e ch) e ch d c).evr = (fire s (engineSrc e)).evr := by
  rw [descFaulted]
  refine fire_evr_of_evr_eq ?_ _
  rfl

theorem endDesc_unowned {d : DSlot} (hjob : d.job = none) (hfar : d.far = []) (s : State) (e ch c : Nat) (x : Status) :
    endDesc s e ch d c x = descFaulted s e ch d c := by
  simp [endDesc, chanFaultAs, hjob, showFar, hfar, descFaulted]

/-- A descriptor that waits for a semaphore: in progress, and in the line of its tile. -/
def descWaiting (s : State) (e ch : Nat) (d : DSlot) : State :=
  updTile (descTaken s e ch { d with phase := .waiting }) (dWtile d.bytes) fun x =>
    { x with line := x.line ++ [⟨dWsem d.bytes, dWcount d.bytes, dChk d.bytes, .chan e ch⟩] }

section
variable {s : State} {e ch : Nat} {d : DSlot} {bad : Bool}

theorem beginDesc_faults {c : Nat} {x : Status} (h : checkDesc (headTaken s e ch) e bad d.bytes = some (c, x)) :
    beginDesc (headTaken s e ch) e ch d bad = endDesc (headTaken s e ch) e ch d c x := by
  simp only [beginDesc, h]

theorem beginDesc_waits (h : checkDesc (headTaken s e ch) e bad d.bytes = none) (hwait : dPwait d.bytes = true) :
    beginDesc (headTaken s e ch) e ch d bad = descWaiting s e ch d := by
  simp only [beginDesc, h, hwait, if_true]
  rfl

theorem beginDesc_taken (h : checkDesc (headTaken s e ch) e bad d.bytes = none) (hwait : dPwait d.bytes = false) :
    beginDesc (headTaken s e ch) e ch d bad = afterWait (descTaken s e ch d) e ch d := by
  simp only [beginDesc, h, hwait, Bool.false_eq_true, if_false]
  rfl

end

theorem afterWait_probes {s : State} {e ch : Nat} {d : DSlot} (h : (extents d.bytes).any (needsProbe s e) = true) :
    afterWait s e ch d = updSlotD s e ch d { d with phase := .probing } := if_pos h

theorem afterWait_moves {s : State} {e ch : Nat} {d : DSlot} (h : (extents d.bytes).any (needsProbe s e) = false) :
    afterWait s e ch d = moveDesc s e ch d := if_neg (ne_true_of_eq_false h)

/-! ### The move -/

theorem moveDesc_waits {s : State} {e ch : Nat} {d : DSlot} (h : moveReady s e d.bytes (moveOf s e d.bytes) = false) :
    moveDesc s e ch d = updSlotD s e ch d { d with phase := .probed } := by
  simp only [moveDesc, h, Bool.not_false, if_true]

/-- Writes that no window stops and that host regions admit are all made, but for those that another die is to hold. -/
theorem putAll_accepts {s : State} {e : Nat} {puts : List (W64 × Nat × List PByte)}
    (hprobe : ∀ q ∈ puts, needsProbe s e ⟨q.1, q.2.1, q.2.2.length, true⟩ = false) (hhost : ∀ q ∈ puts, putAdmitted s q = q.2.2.length) :
    putAll s e puts = (puts.foldl (fun z q => putNear z e q) s, puts, none) := by
  induction puts generalizing s with
  | nil => rfl
  | cons q r ih =>
    rw [List.forall_mem_cons] at hprobe hhost
    have hmoved := dataMoved_putNear s e q
    have hrest : putAll (putNear s e q) e r = (r.foldl (fun z q => putNear z e q) (putNear s e q), r, none) := by
      refine ih (fun p hp => ?_) fun p hp => ?_
      · rw [hmoved.needsProbe_eq]
        exact hprobe.2 p hp
      · rw [hmoved.putAdmitted_eq]
        exact hhost.2 p hp
    simp [putAll, putRejected, hprobe.1, hhost.1, hrest]

/-- A descriptor whose data has moved. -/
def movedSlot (s : State) (e : Nat) (d : DSlot) (m : Move) : DSlot :=
  { slotAfter s d m.puts m with phase := .moved, far := d.far ++ farPuts s e m.puts }

/-- The machine with the data of move `m` at its destinations. -/
def dataWritten (s : State) (e : Nat) (b : Bytes) (m : Move) : State :=
  m.puts.foldl (fun z q => putNear z e q) (readEffects s e b m)

/-- The state in which the data of descriptor `d` has moved. -/
def descMoved (s : State) (e ch : Nat) (d : DSlot) (m : Move) : State :=
  countPois (crossAll (updSlotD (dataWritten s e d.bytes m) e ch d (movedSlot s e d m)) e d.bytes m.keys m.puts) e m.puts

theorem dataMoved_dataWritten (s : State) (e : Nat) (b : Bytes) (m : Move) : DataMoved s (dataWritten s e b m) :=
  (dataMoved_readEffects s e b m).trans (.foldl (fun t q => dataMoved_putNear t e q) _ _)

/-- A descriptor that is ready, and whose writes are all accepted, moves. -/
theorem moveDesc_moves {s : State} {e ch : Nat} {d : DSlot} {m : Move} (hecc : s.mem.ecc = []) (hm : m = moveOf s e d.bytes)
    (hready : moveReady s e d.bytes m = true) (hdst : spaceOf (dDst d.bytes) ≠ 2 ∨ dOpc d.bytes = 0x07) (hstop : m.stop = none)
    (hprobe : ∀ q ∈ m.puts, needsProbe s e ⟨q.1, q.2.1, q.2.2.length, true⟩ = false)
    (hhost : ∀ q ∈ m.puts, putAdmitted s q = q.2.2.length) : moveDesc s e ch d = descMoved s e ch d m := by
  have heffects := dataMoved_readEffects s e d.bytes m
  have hall : putAll (readEffects s e d.bytes m) e m.puts = (dataWritten s e d.bytes m, m.puts, none) :=
    putAll_accepts (fun q hq => by rw [heffects.needsProbe_eq]; exact hprobe q hq)
      fun q hq => by rw [heffects.putAdmitted_eq]; exact hhost q hq
  have hport : (spaceOf (dDst d.bytes) = 2 && dOpc d.bytes ≠ 0x07) = false := by
    rcases hdst with h | h <;> simp [h]
  unfold moveDesc
  rw [← hm, hready]
  simp only [meetErrors, eccNote_of_clean hecc, ← hm, hport, hall, hstop, Bool.not_true, Bool.false_eq_true, if_false,
    Option.isSome_none, reduceCtorEq, decide_false, Bool.or_self]
  rfl

theorem chanOf_descMoved (s : State) (e ch : Nat) (d : DSlot) (m : Move) :
    chanOf (descMoved s e ch d m) e ch =
      { chanOf s e ch with prog := (chanOf s e ch).prog.map fun p => if p = d then movedSlot s e d m else p } := by
  rw [descMoved, (dataMoved_countPois _ _ _).chans, (dataMoved_crossAll _ _ _ _ _).chans, updSlotD, chanOf_updChan_self,
    (dataMoved_dataWritten s e d.bytes m).chans]

theorem descMoved_mem (s : State) (e ch : Nat) (d : DSlot) (m : Move) : (descMoved s e ch d m).mem = (dataWritten s e d.bytes m).mem := by
  rw [descMoved, countPois_mem, crossAll_mem]
  rfl

theorem descMoved_cp (s : State) (e ch : Nat) (d : DSlot) (m : Move) : (descMoved s e ch d m).cp = s.cp := by
  rw [descMoved, (dataMoved_countPois _ _ _).cp, (dataMoved_crossAll _ _ _ _ _).cp]
  exact (dataMoved_dataWritten s e d.bytes m).cp

/-! ### The statement -/

theorem headTaken_chan (s : State) (e ch : Nat) : chanOf (headTaken s e ch) e ch = { chanOf s e ch with head := (chanOf s e ch).head + 1 } :=
  chanOf_updChan_self s e ch _

theorem descTaken_chan (s : State) (e ch : Nat) (d : DSlot) : chanOf (descTaken s e ch d) e ch =
    { chanOf s e ch with head := (chanOf s e ch).head + 1, prog := (chanOf s e ch).prog ++ [d] } := by
  rw [descTaken_eq, chanOf_updChan_self, headTaken_chan]

theorem updSlotD_prog {s : State} {e ch : Nat} {d d' : DSlot} (h : (chanOf s e ch).prog = [d]) :
    (chanOf (updSlotD s e ch d d') e ch).prog = [d'] := by
  rw [updSlotD, chanOf_updChan_self, h]
  simp

section
variable {p : Nat × (EngineNo → Chan → Instr)} (hp : p ∈ [(0x01, Instr.copy), (0x02, Instr.gather), (0x03, Instr.scatter), (0x04, Instr.fill),
    (0x05, Instr.pagewalk), (0x06, Instr.bond), (0x07, Instr.prefetch)])
  {s : State} {e : EngineNo} {ch : Chan} {d : DSlot} (hfetch : FetchesDesc s e.val ch.val p.1 d) (hjobs : s.cp.jobs = [])
include hp hfetch hjobs

/-- The step of a fetched descriptor that leaves the channel in state `u`. -/
theorem exec_fetches {u : State} (hu : beginDesc (headTaken s e.val ch.val) e.val ch.val d
    ((chanOf s e.val ch.val).badReloc.get ((chanOf s e.val ch.val).head.toNat % 32)) = u) (hcp : u.cp = s.cp) :
    exec (p.2 e ch) s = .next u := by
  rw [exec_descriptor hp, runDesc_fetches hfetch, hu, feedAll_idle (by rw [hcp, hjobs])]

theorem exec_descFaulted {c : Nat} {x : Status} (hcheck : descCheck s e.val ch.val d = some (c, x)) (hjob : d.job = none) :
    exec (p.2 e ch) s = .next (descFaulted (headTaken s e.val ch.val) e.val ch.val d c) := by
  refine exec_fetches hp hfetch hjobs ((beginDesc_faults hcheck).trans (endDesc_unowned hjob hfetch.far _ _ _ _ _)) ?_
  exact fire_cp _ _

theorem exec_descWaiting (hcheck : descCheck s e.val ch.val d = none) (hwait : dPwait d.bytes = true) :
    exec (p.2 e ch) s = .next (descWaiting s e.val ch.val d) :=
  exec_fetches hp hfetch hjobs (beginDesc_waits hcheck hwait) rfl

theorem exec_descProbing (hcheck : descCheck s e.val ch.val d = none) (hwait : dPwait d.bytes = false)
    (hprobe : (extents d.bytes).any (needsProbe s e.val) = true) :
    exec (p.2 e ch) s = .next (updSlotD (descTaken s e.val ch.val d) e.val ch.val d { d with phase := .probing }) :=
  exec_fetches hp hfetch hjobs ((beginDesc_taken hcheck hwait).trans (afterWait_probes hprobe)) rfl

/-- A descriptor without wait or probe goes straight to its move. -/
theorem exec_moveDesc (hcheck : descCheck s e.val ch.val d = none) (hwait : dPwait d.bytes = false)
    (hprobe : (extents d.bytes).any (needsProbe s e.val) = false) {u : State}
    (hu : moveDesc (descTaken s e.val ch.val d) e.val ch.val d = u) (hcp : u.cp = s.cp) : exec (p.2 e ch) s = .next u :=
  exec_fetches hp hfetch hjobs (((beginDesc_taken hcheck hwait).trans (afterWait_moves hprobe)).trans hu) hcp

end

/-- Settles O30: a fetched descriptor faults, waits, is probed or moves, each by its own lemma; the writes of one that moves are all
accepted (`puts_admitted`). -/
theorem descriptorsMoveTheirData : Obligations.DescriptorsMoveTheirData := by
  unfold Obligations.DescriptorsMoveTheirData
  refine ⟨fun p hp s e ch d hfetch hjobs => ?_, fun s e b h => moveOf_prefetch h s e, fun s e b h => by rw [moveOf_fill h]; rfl⟩
  have hprog : (chanOf s e.val ch.val).prog = [] := hfetch.prog
  have htaken : (chanOf (descTaken s e.val ch.val d) e.val ch.val).prog = [d] := by rw [descTaken_chan, hprog]; rfl
  refine ⟨fun c x hcheck hjob => ?faults, fun hcheck hwait => ?waits, fun hcheck hwait hprobe => ?probes,
    fun hcheck hwait hprobe hready => ?notReady, fun hcheck hwait hprobe hdst hecc o m ho hm hstop hready hopen => ?moves⟩
  case faults =>
    refine ⟨_, exec_descFaulted hp hfetch hjobs hcheck hjob, ?_, ?_, ?_, fire_mem _ _, descFaulted_evr _ _ _ _ _⟩ <;>
      rw [descFaulted_chan, headTaken_chan, haltChan]
    simp [hprog]
  case waits =>
    refine ⟨_, exec_descWaiting hp hfetch hjobs hcheck hwait, ?_, ?_, rfl⟩
    · change (chanOf (descTaken s e.val ch.val { d with phase := .waiting }) e.val ch.val).prog = _
      rw [descTaken_chan, hprog]
      rfl
    · rw [descWaiting, get_updTile]
      rfl
  case probes => exact ⟨_, exec_descProbing hp hfetch hjobs hcheck hwait hprobe, updSlotD_prog htaken, rfl, rfl⟩
  case notReady => exact ⟨_, exec_moveDesc hp hfetch hjobs hcheck hwait hprobe (moveDesc_waits hready) rfl, updSlotD_prog htaken, rfl, rfl⟩
  case moves =>
    subst ho
    have hhost : ∀ q ∈ m.puts, putAdmitted (descTaken s e.val ch.val d) q = q.2.2.length := by
      rw [hm]
      exact puts_admitted (s := headTaken s e.val ch.val) hcheck _
    refine ⟨_, movedSlot (descTaken s e.val ch.val d) e.val d m, exec_moveDesc hp hfetch hjobs hcheck hwait hprobe
      (moveDesc_moves hecc hm hready (hfetch.opc ▸ hdst) hstop hopen hhost) (descMoved_cp _ _ _ _ _), ?_, rfl, rfl, ?_, ?_, descMoved_mem _ _ _ _ _⟩
    · rw [chanOf_descMoved, htaken]
      simp
    · rw [movedSlot, hfetch.far]
      rfl
    · rw [chanOf_descMoved, descTaken_chan]

end Sys2Proof.Machine
end

section
/-!
The host queue (O4 to O7): enabling and idling, the doorbells, host regions and fence registers, the fetch and the completion queue. Each
host access and each step of the queue has one lemma for each way it ends.
-/

namespace Sys2Proof.Machine

/-! ### Enabling, disabling and idling (R335) -/

theorem enableOk_iff {h : HostQ} : enableOk h = true ↔
    h.ready = true ∧ 6 ≤ h.sqLog2 ∧ h.sqLog2 ≤ 16 ∧ 6 ≤ h.cqLog2 ∧ h.cqLog2 ≤ 18 ∧ h.dlog ≤ 10 := by
  simp [enableOk, and_assoc]

theorem enableOk_eq_false {h : HostQ}
    (hbad : h.ready = false ∨ h.sqLog2 < 6 ∨ 16 < h.sqLog2 ∨ h.cqLog2 < 6 ∨ 18 < h.cqLog2 ∨ 10 < h.dlog) : enableOk h = false := by
  refine Bool.eq_false_iff.2 fun hok => ?_
  obtain ⟨hready, hsizes⟩ := enableOk_iff.1 hok
  rw [hready] at hbad
  simp only [Bool.true_eq_false, false_or] at hbad
  omega

/-- The queues just enabled: empty, and in the first phase. -/
def HostQ.opened (h : HostQ) : HostQ :=
  { h with en := true, idle := false, fetchStop := false, sqHead := 0, sqTail := 0, cqTail := 0, cqHead := 0, phase := true }

theorem queueEnable_opens {s : State} (hon : barOn s = true) (hen : s.hq.en = false) (hok : enableOk s.hq = true) :
    exec .queueEnable s = .next (setHq s HostQ.opened) := by
  change execQueueEnable s = _
  rw [execQueueEnable, gate_on _ _ hon, if_neg (ne_true_of_eq_false hen), if_pos hok]
  rfl

theorem queueEnable_refused {s : State} (hon : barOn s = true) (hen : s.hq.en = false) (hbad : enableOk s.hq = false) :
    exec .queueEnable s = .next (hqErr s fun h => { h with sqErr := true }) := by
  change execQueueEnable s = _
  rw [execQueueEnable, gate_on _ _ hon, if_neg (ne_true_of_eq_false hen), if_neg (ne_true_of_eq_false hbad)]

theorem queueDisable_closes {s : State} (hon : barOn s = true) :
    exec .queueDisable s = .next (setHq s fun h => { h with en := false }) := gate_on s _ hon

theorem queueIdle_idles {s : State} (hen : s.hq.en = false) (hempty : ∀ st, st < 16 → streamEmpty s st = true) :
    exec .queueIdle s = .next (setHq s fun h => { h with idle := true }) := by
  have hall : (List.range 16).all (streamEmpty s) = true := List.all_eq_true.2 fun st hst => hempty st (List.mem_range.1 hst)
  exact if_pos (by simp only [hen, hall, Bool.not_false, Bool.and_self])

/-! ### Doorbells 0 and 1 (R338, R339) -/

theorem sqDoorbell_disabled {s : State} (hen : s.hq.en = false) (v : W64) : exec (.sqDoorbell v) s = .next s := by
  change execSqDoorbell v s = _
  rw [execSqDoorbell, hen]
  exact ite_self _

theorem cqDoorbell_disabled {s : State} (hen : s.hq.en = false) (v : W64) : exec (.cqDoorbell v) s = .next s := by
  change execCqDoorbell v s = _
  rw [execCqDoorbell, hen]
  exact ite_self _

/-- Whether a written TAIL is taken: in range, and at most one SQ of entries ahead of SQ_HEAD. -/
def tailFits (s : State) (t : Nat) : Prop := t < 2 * sqSize s ∧ (t + 2 * sqSize s - s.hq.sqHead) % (2 * sqSize s) ≤ sqSize s

/-- Whether a written HEAD is taken: in range, and not past CQ_TAIL. -/
def headFits (s : State) (t : Nat) : Prop := t < 2 * cqSize s ∧
  (t + 2 * cqSize s - s.hq.cqHead) % (2 * cqSize s) ≤ (s.hq.cqTail + 2 * cqSize s - s.hq.cqHead) % (2 * cqSize s)

section
variable {s : State} {v : W64} (hon : barOn s = true) (hen : s.hq.en = true)
include hon hen

theorem sqDoorbell_taken (hfits : tailFits s (rfld v 16 0)) :
    exec (.sqDoorbell v) s = .next (setHq s fun h => { h with sqTail := rfld v 16 0 }) := by
  change execSqDoorbell v s = _
  rw [execSqDoorbell, gate_on _ _ hon, if_neg (by simp [hen])]
  exact if_pos hfits

theorem sqDoorbell_refused (hover : ¬ tailFits s (rfld v 16 0)) :
    exec (.sqDoorbell v) s = .next (hqErr s fun h => { h with sqErr := true }) := by
  change execSqDoorbell v s = _
  rw [execSqDoorbell, gate_on _ _ hon, if_neg (by simp [hen])]
  exact if_neg hover

theorem cqDoorbell_taken (hfits : headFits s (rfld v 18 0)) :
    exec (.cqDoorbell v) s = .next (setHq s fun h => { h with cqHead := rfld v 18 0 }) := by
  change execCqDoorbell v s = _
  rw [execCqDoorbell, gate_on _ _ hon, if_neg (by simp [hen])]
  exact if_pos hfits

theorem cqDoorbell_refused (hover : ¬ headFits s (rfld v 18 0)) :
    exec (.cqDoorbell v) s = .next (hqErr s fun h => { h with cqErr := true }) := by
  change execCqDoorbell v s = _
  rw [execCqDoorbell, gate_on _ _ hon, if_neg (by simp [hen])]
  exact if_neg hover

end

/-! ### The fence doorbell (R353) -/

theorem fenceDoorbell_disabled {s : State} (hen : s.hq.en = false) (f : Fin 256) (one : Bool) (v : W64) :
    exec (.fenceDoorbell f one v) s = .next s := by
  change execFenceDoorbell f one v s = _
  rw [execFenceDoorbell, hen]
  exact ite_self _

/-- The fence with a new value, its waiters not yet released. -/
def setFence (s : State) (f : Nat) (v : W64) : State := setHq s fun h => { h with fences := h.fences.upd f fun x => { x with value := v } }

theorem get_setFence (s : State) (f : Nat) (v : W64) : (setFence s f v).hq.fences.get f = { s.hq.fences.get f with value := v } := by
  rw [setFence, setHq_hq, Tbl.get_upd_self]

theorem get_setFence_ne (s : State) {f g : Nat} (v : W64) (h : g ≠ f) : (setFence s f v).hq.fences.get g = s.hq.fences.get g := by
  rw [setFence, setHq_hq, Tbl.get_upd_ne _ _ _ h]

/-- With no command running, no WAIT is released. -/
theorem wakeWaits_idle {s : State} (hjobs : ∀ st : Nat, getJob s (.stream st) = none) (f : Nat) : wakeWaits s f = s := by
  refine List.foldlRecOn _ _ (motive := (· = s)) rfl fun t ht st _ => ?_
  simp only [ht, hjobs]

section
variable {s : State} {f : Fin 256} (hon : barOn s = true) (hen : s.hq.en = true)
include hon hen

theorem fenceDoorbell_raises {v : W64} (hsig : (s.hq.fences.get f.val).hostSig = true) (hlt : (s.hq.fences.get f.val).value < v) :
    exec (.fenceDoorbell f true v) s = .next (wakeWaits (setFence s f.val v) f.val) := by
  change execFenceDoorbell f true v s = _
  rw [execFenceDoorbell, gate_on _ _ hon, if_neg (by simp [hen])]
  exact if_pos (by simp [hsig, hlt])

theorem fenceDoorbell_refused {one : Bool} {v : W64}
    (h : (s.hq.fences.get f.val).hostSig = false ∨ one = false ∨ v ≤ (s.hq.fences.get f.val).value) :
    exec (.fenceDoorbell f one v) s = .next (hqErr s fun h => { h with fenceErr := true }) := by
  change execFenceDoorbell f one v s = _
  rw [execFenceDoorbell, gate_on _ _ hon, if_neg (by simp [hen])]
  refine if_neg ?_
  rcases h with h | h | h
  · simp [h]
  · simp [h]
  · simp [BitVec.not_lt.2 h]

theorem fenceDoorbell_raises_idle {v : W64} (hsig : (s.hq.fences.get f.val).hostSig = true) (hlt : (s.hq.fences.get f.val).value < v)
    (hjobs : ∀ st : Nat, getJob s (.stream st) = none) : exec (.fenceDoorbell f true v) s = .next (setFence s f.val v) := by
  have hidle : ∀ st : Nat, getJob (setFence s f.val v) (.stream st) = none := fun st => (getJob_of_cp_eq rfl _).trans (hjobs st)
  rw [fenceDoorbell_raises hon hen hsig hlt, wakeWaits_idle hidle]

end

/-! ### Host regions and fence registers (R336, R337, R350) -/

theorem rfld_eq_shift (v : W64) : rfld v 63 12 = (v >>> 12).toNat := by
  simp only [rfld, fld, BitVec.toNat_ushiftRight, Nat.shiftRight_eq_div_pow]
  omega

/-- The mask of HQ_REGION_A keeps BASE. -/
theorem regionMask_base (a : W64) : rfld (a &&& 0xFFFFFFFFFFFFF007) 63 12 = rfld a 63 12 := by
  have hkeep : (0xFFFFFFFFFFFFF007 : W64) >>> 12 = BitVec.allOnes 64 >>> 12 := by decide
  have hall : (a >>> 12) &&& (BitVec.allOnes 64 >>> 12) = a >>> 12 := by
    rw [← BitVec.ushiftRight_and_distrib, BitVec.and_allOnes]
  rw [rfld_eq_shift, rfld_eq_shift, BitVec.ushiftRight_and_distrib, hkeep, hall]

/-- The mask of HQ_REGION_A keeps VALID. -/
theorem regionMask_valid (a : W64) : rbit (a &&& 0xFFFFFFFFFFFFF007) 0 = a.getLsbD 0 := by
  rw [rbit_eq_getLsbD, BitVec.getLsbD_and]
  exact Bool.and_true _

theorem validBit_cleared (a : W64) : (a &&& 0xFFFFFFFFFFFFFFFE).getLsbD 0 = false := by
  rw [BitVec.getLsbD_and]
  exact Bool.and_false _

/-- The register pair that a write of HQ_REGION_A leaves, its reserved bits ignored. -/
def writtenRegion (s : State) (r : Nat) (a : W64) : RegPair := { s.hq.regions.get r with a := a &&& 0xFFFFFFFFFFFFF007 }

theorem regionOk_writtenRegion {s : State} {r : Nat} {a : W64} : regionOk (writtenRegion s r a) = true ↔
    1 ≤ rfld (s.hq.regions.get r).b 31 0 ∧ rfld a 63 12 * 4096 + rfld (s.hq.regions.get r).b 31 0 * 4096 ≤ 2 ^ 64 := by
  rw [regionOk, Bool.and_eq_true, decide_eq_true_iff, decide_eq_true_iff, writtenRegion, regionMask_base]

theorem hostRegionWrite_valid {s : State} {r : Fin 64} {a : W64} (hon : blockOn s = true)
    (hok : regionOk (writtenRegion s r.val a) = true) :
    exec (.hostRegionWrite r a) s = .next (setHq s fun h => { h with regions := h.regions.set r.val (writtenRegion s r.val a) }) := by
  change execHostRegionWrite r a s = _
  rw [execHostRegionWrite, gate_on _ _ hon]
  exact if_neg (by rw [← writtenRegion, hok]; simp)

theorem hostRegionWrite_invalid {s : State} {r : Fin 64} {a : W64} (hon : blockOn s = true) (hv : a.getLsbD 0 = true)
    (hbad : regionOk (writtenRegion s r.val a) = false) :
    exec (.hostRegionWrite r a) s = .next (hqErr s fun h => { h with
      regionErr := true
      regions := h.regions.set r.val { writtenRegion s r.val a with a := a &&& 0xFFFFFFFFFFFFF007 &&& 0xFFFFFFFFFFFFFFFE } }) := by
  change execHostRegionWrite r a s = _
  rw [execHostRegionWrite, gate_on _ _ hon]
  exact if_pos (by rw [← writtenRegion, hbad, regionMask_valid, hv]; rfl)

/-- A fence register after a write: the value, or the owner and whether the host signals it. -/
def writtenFence (val : Bool) (v : W64) (x : Fence) : Fence :=
  if val then { x with value := v } else { x with hostSig := v.getLsbD 31, owner := v.setWidth 4 }

theorem fenceRegisterWrite_free {s : State} {f : Fin 256} (hon : blockOn s = true) (hfree : fenceNamed s f.val = false)
    (val : Bool) (v : W64) :
    exec (.fenceRegisterWrite f val v) s = .next (setHq s fun h => { h with fences := h.fences.upd f.val (writtenFence val v) }) := by
  change execFenceRegisterWrite f val v s = _
  rw [execFenceRegisterWrite, gate_on _ _ hon, if_neg (ne_true_of_eq_false hfree), rbit_eq_getLsbD]
  rfl

theorem fenceRegisterWrite_named {s : State} {f : Fin 256} (hon : blockOn s = true) (hnamed : fenceNamed s f.val = true)
    (val : Bool) (v : W64) :
    exec (.fenceRegisterWrite f val v) s = .next (hqErr s fun h => { h with fenceErr := true }) := by
  change execFenceRegisterWrite f val v s = _
  rw [execFenceRegisterWrite, gate_on _ _ hon, if_pos hnamed]

/-! ### The fetch (R339, R340) -/

theorem sqFetch_disabled {s : State} (hen : s.hq.en = false) (ok : Bool) : exec (.sqFetch ok) s = .next s :=
  if_pos (by simp [hen])

theorem get_updStream (s : State) (n : Nat) (f : StreamSt → StreamSt) :
    (updStream s n f).cp.streams.get n = f (s.cp.streams.get n) := Tbl.get_upd_self s.cp.streams n f

theorem get_updStream_ne (s : State) {n k : Nat} (f : StreamSt → StreamSt) (h : k ≠ n) :
    (updStream s n f).cp.streams.get k = s.cp.streams.get k := Tbl.get_upd_ne s.cp.streams n f h

/-- The entry at SQ_HEAD. -/
def headEntry (s : State) : Bytes := hostRead s (sqEntryAddr s s.hq.sqHead) 64

/-- The entry at SQ_HEAD goes to the end of its stream's pending queue. -/
def entryFetched (s : State) : State :=
  setHq (updStream s (entryStream (headEntry s)) fun q => { q with pending := q.pending ++ [⟨headEntry s, s.hq.sqHead⟩] })
    fun h => { h with sqHead := nextCount (sqSize s) h.sqHead }

theorem entryFetched_stream (s : State) : ((entryFetched s).cp.streams.get (entryStream (headEntry s))).pending =
    (s.cp.streams.get (entryStream (headEntry s))).pending ++ [⟨headEntry s, s.hq.sqHead⟩] := by
  rw [entryFetched, setHq_cp, get_updStream]

theorem entryFetched_stream_ne (s : State) {st : Nat} (h : st ≠ entryStream (headEntry s)) :
    (entryFetched s).cp.streams.get st = s.cp.streams.get st := by
  rw [entryFetched, setHq_cp, get_updStream_ne _ _ h]

section
variable {s : State} (hen : s.hq.en = true) (hgo : s.hq.fetchStop = false) (hsome : s.hq.sqHead ≠ s.hq.sqTail)
include hen hgo hsome

theorem sqFetch_takes (hroom : (s.cp.streams.get (entryStream (headEntry s))).pending.length < 256) :
    exec (.sqFetch true) s = .next (entryFetched s) := by
  change execSqFetch true s = _
  rw [execSqFetch, if_neg (by simp [hen, hgo, hsome]), if_neg (by simp)]
  exact if_neg (Nat.not_le.2 hroom)

theorem sqFetch_waits (hfull : 256 ≤ (s.cp.streams.get (entryStream (headEntry s))).pending.length) :
    exec (.sqFetch true) s = .next s := by
  change execSqFetch true s = _
  rw [execSqFetch, if_neg (by simp [hen, hgo, hsome]), if_neg (by simp)]
  exact if_pos hfull

theorem sqFetch_fails : exec (.sqFetch false) s = .next (hqErr s fun h => { h with fetchErr := true, fetchStop := true }) := by
  change execSqFetch false s = _
  rw [execSqFetch, if_neg (by simp [hen, hgo, hsome])]
  rfl

end

/-! ### One completion entry (R345 to R347) -/

theorem SentFrom.hq_eq {s t : State} (h : SentFrom s t) : t.hq = s.hq := by obtain ⟨_, _, _, rfl⟩ := h; rfl
theorem SentFrom.pw_eq {s t : State} (h : SentFrom s t) : t.pw = s.pw := by obtain ⟨_, _, _, rfl⟩ := h; rfl

theorem sentFrom_twinNotice (s : State) (tag : BitVec 16) : SentFrom s (twinNotice s tag) := by
  unfold twinNotice
  split
  · exact sentFrom_sendTwin s _ _
  · exact .refl s

/-- The host bus address of the CQ slot at CQ_TAIL. -/
def cqSlotAddr (s : State) : Nat := rfld s.hq.cqBase 63 12 * 4096 + 32 * (s.hq.cqTail % cqSize s)

/-- CQ_TAIL past one slot, and the phase inverted past the last one. -/
def HostQ.cqAdvanced (h : HostQ) : HostQ :=
  { h with cqTail := nextCount (2 ^ h.cqLog2) h.cqTail, phase := if (h.cqTail + 1) % 2 ^ h.cqLog2 = 0 then !h.phase else h.phase }

/-- A completion entry in its slot, its event and its notice to the twin partner aside. -/
def cqeStored (s : State) (st : Nat) (c : HeldC) : State := setHq (hostWrite s (cqSlotAddr s) (cqeBytes s st c)) HostQ.cqAdvanced

/-- A stored completion entry with its event: source 657 fires for an entry with IRQ or a status other than OK. -/
def cqeSignalled (s : State) (st : Nat) (c : HeldC) : State :=
  if c.fire || c.status ≠ .ok then fire (cqeStored s st c) 657 else cqeStored s st c

theorem cqeSignalled_mem (s : State) (st : Nat) (c : HeldC) : (cqeSignalled s st c).mem = (cqeStored s st c).mem := by
  unfold cqeSignalled; split
  · exact fire_mem _ _
  · rfl

theorem cqeSignalled_hq (s : State) (st : Nat) (c : HeldC) : (cqeSignalled s st c).hq = (cqeStored s st c).hq := by
  unfold cqeSignalled; split
  · exact fire_hq _ _
  · rfl

theorem cqeSignalled_cp (s : State) (st : Nat) (c : HeldC) : (cqeSignalled s st c).cp = s.cp := by
  unfold cqeSignalled; split
  · exact fire_cp _ _
  · rfl

theorem cqeSignalled_pw (s : State) (st : Nat) (c : HeldC) : (cqeSignalled s st c).pw = s.pw := by
  unfold cqeSignalled; split
  · exact fire_pw _ _
  · rfl

/-- Beyond its event, a completion only sends the notice of a mirrored command. -/
theorem sentFrom_writeCqe (s : State) (st : Nat) (c : HeldC) : SentFrom (cqeSignalled s st c) (writeCqe s st c) := by
  change SentFrom _ (if c.twin then twinNotice (cqeSignalled s st c) c.tag else cqeSignalled s st c)
  split
  · exact sentFrom_twinNotice _ _
  · exact .refl _

theorem writeCqe_mem (s : State) (st : Nat) (c : HeldC) :
    (writeCqe s st c).mem = { s.mem with host := Mem.writeN s.mem.host (cqSlotAddr s) (cqeBytes s st c) } :=
  (sentFrom_writeCqe s st c).mem_eq.trans (cqeSignalled_mem s st c)

theorem writeCqe_hq (s : State) (st : Nat) (c : HeldC) : (writeCqe s st c).hq = s.hq.cqAdvanced :=
  (sentFrom_writeCqe s st c).hq_eq.trans (cqeSignalled_hq s st c)

theorem writeCqe_cp (s : State) (st : Nat) (c : HeldC) : (writeCqe s st c).cp = s.cp :=
  (sentFrom_writeCqe s st c).cp_eq.trans (cqeSignalled_cp s st c)

theorem writeCqe_pw (s : State) (st : Nat) (c : HeldC) : (writeCqe s st c).pw = s.pw :=
  (sentFrom_writeCqe s st c).pw_eq.trans (cqeSignalled_pw s st c)

theorem cqeBytes_congr {s t : State} (hhq : s.hq = t.hq) (hnow : now s = now t) (st : Nat) (c : HeldC) :
    cqeBytes s st c = cqeBytes t st c := by
  simp only [cqeBytes, durationOf, hhq, hnow]

theorem completionWrite_writes {s : State} {st : Stream} {c : HeldC} {r : List HeldC} (hheld : (s.cp.streams.get st.val).held = c :: r)
    (hroom : cqFull s = false) :
    exec (.completionWrite st) s = .next (writeCqe (updStream s st.val fun q => { q with held := r }) st.val c) := by
  change execCompletionWrite st s = _
  simp only [execCompletionWrite, hheld]
  exact if_neg (ne_true_of_eq_false hroom)

/-! ### The statements -/

/-- Settles O4: each clause is the lemma of its step; a doorbell that fails a bound does not fit. -/
theorem hostQueueEnablesAndTakesDoorbells : Obligations.HostQueueEnablesAndTakesDoorbells := by
  unfold Obligations.HostQueueEnablesAndTakesDoorbells
  refine ⟨fun s hon hen hready hsq hsq' hcq hcq' hdlog => queueEnable_opens hon hen (enableOk_iff.2 ⟨hready, hsq, hsq', hcq, hcq', hdlog⟩),
    fun s hon hen hbad => queueEnable_refused hon hen (enableOk_eq_false hbad),
    fun s hon => queueDisable_closes hon, fun s ok hen => sqFetch_disabled hen ok, fun s hen hempty => queueIdle_idles hen hempty,
    fun s v hon hen hlt hle => sqDoorbell_taken hon hen ⟨hlt, hle⟩, fun s v hon hen hover => sqDoorbell_refused hon hen ?tail,
    fun s v hon hen hlt hle => cqDoorbell_taken hon hen ⟨hlt, hle⟩, fun s v hon hen hover => cqDoorbell_refused hon hen ?head,
    fun s v f one hen => ⟨sqDoorbell_disabled hen v, cqDoorbell_disabled hen v, fenceDoorbell_disabled hen f one v⟩⟩
  case tail => exact fun ⟨hlt, hle⟩ => hover.elim (Nat.not_le.2 hlt) (Nat.not_lt.2 hle)
  case head => exact fun ⟨hlt, hle⟩ => hover.elim (Nat.not_le.2 hlt) (Nat.not_lt.2 hle)

/-- Settles O5: a written region by the check of its pair, a written fence by whether a fetched command names it. -/
theorem regionsAndFencesAreWritten : Obligations.RegionsAndFencesAreWritten := by
  unfold Obligations.RegionsAndFencesAreWritten
  refine ⟨fun s r a hon hv hpages hend => ?valid, fun s r a hon hv hbad => ?invalid, fun s f val v hon hfree => ?fence,
    fun s f val v hon hnamed => fenceRegisterWrite_named hon hnamed val v⟩
  case valid =>
    exact ⟨_, hostRegionWrite_valid hon (regionOk_writtenRegion.2 ⟨hpages, hend⟩), rfl, Tbl.get_set_self _ _ _,
      fun q hq => Tbl.get_set_ne _ _ _ hq, rfl, rfl⟩
  case invalid =>
    have hfails : regionOk (writtenRegion s r.val a) = false :=
      Bool.eq_false_iff.2 (mt regionOk_writtenRegion.1 (by omega))
    refine ⟨_, hostRegionWrite_invalid hon hv hfails, ?_, ?_, fire_mem _ _⟩
    · rw [hqErr, fire_hq]
    · rw [hqErr, fire_hq, Tbl.get_set_self]
      exact validBit_cleared _
  case fence =>
    exact ⟨_, fenceRegisterWrite_free hon hfree val v, Tbl.get_upd_self _ _ _, fun g hg => Tbl.get_upd_ne _ _ _ hg, rfl⟩

/-- Settles O6: an accepted write sets the fence, so the second of two is checked against the value of the first. -/
theorem fenceDoorbellAdmitsLargerValues : Obligations.FenceDoorbellAdmitsLargerValues := by
  unfold Obligations.FenceDoorbellAdmitsLargerValues
  refine ⟨fun s f v hon hen hsig hlt => ⟨setFence s f.val v, fenceDoorbell_raises hon hen hsig hlt, get_setFence s f.val v,
      fun g hg => get_setFence_ne s v hg, rfl, rfl, rfl, rfl⟩,
    fun s f one v hon hen h => fenceDoorbell_refused hon hen h, fun s f v w hon hen hsig hlt hjobs hvw => ?larger,
    fun s f v w hon hen hsig hlt hjobs hwv => ?notLarger⟩
  all_goals
    have hvalue : ((setFence s f.val v).hq.fences.get f.val).value = v := by rw [get_setFence]
    have hsig' : ((setFence s f.val v).hq.fences.get f.val).hostSig = true := by rw [get_setFence]; exact hsig
  case larger =>
    refine ⟨_, _, fenceDoorbell_raises_idle hon hen hsig hlt hjobs, hvalue, rfl, rfl,
      fenceDoorbell_raises_idle (s := setFence s f.val v) hon hen hsig' (hvalue.symm ▸ hvw) hjobs, ?_, fun g hg => ?_, rfl, rfl, rfl⟩
    · rw [get_setFence]
    · rw [get_setFence_ne _ _ hg, get_setFence_ne _ _ hg]
  case notLarger =>
    refine ⟨_, _, fenceDoorbell_raises_idle hon hen hsig hlt hjobs,
      fenceDoorbell_refused (s := setFence s f.val v) hon hen (.inr (.inr (hvalue.symm ▸ hwv))), ?_, ?_, fire_mem _ _, fire_cp _ _⟩
    · rw [hqErr, fire_hq]
      exact hvalue
    · rw [hqErr, fire_hq]

/-- Settles O7: a fetch by what SQ_HEAD and its stream's queue say, a held completion as one completion entry. -/
theorem entriesAreFetchedInOrder : Obligations.EntriesAreFetchedInOrder := by
  unfold Obligations.EntriesAreFetchedInOrder
  refine ⟨fun s hen hgo hsome hroom => ⟨entryFetched s, sqFetch_takes hen hgo hsome hroom, rfl, rfl, rfl, entryFetched_stream s,
      fun st hst => entryFetched_stream_ne s hst⟩,
    fun s hen hgo hsome hfull => sqFetch_waits hen hgo hsome hfull, fun s hen hgo hsome => sqFetch_fails hen hgo hsome,
    fun s st c r hheld hroom => ⟨_, completionWrite_writes hheld hroom, ?_, ?_, ?_, fun _ => ?_⟩⟩
  · rw [writeCqe_cp, get_updStream]
  · rw [writeCqe_hq]
    rfl
  · rw [writeCqe_mem]
    rfl
  · rw [writeCqe_mem]
    rfl

end Sys2Proof.Machine
end

section
/-!
Commands without data (O8): NOP, SIGNAL, WAIT and its timeout, and TIMESTAMP, each with one lemma for each way that its `run` function
goes. That a WAIT on a fence of its own stream is counted as a cycle of one is the model's choice (log entry 19).
-/

namespace Sys2Proof.Machine

/-! ### SIGNAL (R351) -/

theorem checkSignal_passes {s : State} {j : JobRef} {e : Bytes} (hlt : (s.hq.fences.get (byteN e 16)).value < param64 e 24)
    (hsig : (s.hq.fences.get (byteN e 16)).hostSig = false) (hown : (s.hq.fences.get (byteN e 16)).owner.toNat = j.streamOf) :
    checkSignal s j e = none := by
  simp [checkSignal, firstFail, BitVec.not_le.2 hlt, hsig, hown]

theorem checkSignal_notRaised {s : State} {e : Bytes} (hle : param64 e 24 ≤ (s.hq.fences.get (byteN e 16)).value) (j : JobRef) :
    checkSignal s j e = some .lenRange := by
  simp [checkSignal, firstFail, hle]

/-! ### WAIT (R352, R386) -/

/-- The stream's command waits for its fence to reach its target. -/
def waitBlocked (s : State) (j : JobRef) (e : Bytes) : State := setBody s j (.wait (byteN e 16) (param64 e 24))

theorem runWait_reached {s : State} {e : Bytes} (hle : param64 e 24 ≤ (s.hq.fences.get (byteN e 16)).value) (j : JobRef) :
    runWait j e s = finish s j .ok (s.hq.fences.get (byteN e 16)).value := if_pos (decide_eq_true hle)

section
variable {s : State} {j : JobRef} {e : Bytes} (hlt : (s.hq.fences.get (byteN e 16)).value < param64 e 24)
include hlt

theorem runWait_ownFence (hsig : (s.hq.fences.get (byteN e 16)).hostSig = false)
    (hown : (s.hq.fences.get (byteN e 16)).owner.toNat = j.streamOf) :
    runWait j e s = finish (countCycle s) j .deadlock (s.hq.fences.get (byteN e 16)).value := by
  rw [runWait, if_neg (by simp [BitVec.not_le.2 hlt])]
  exact if_pos (by simp [hsig, hown])

section
variable (hother : (s.hq.fences.get (byteN e 16)).hostSig = true ∨ (s.hq.fences.get (byteN e 16)).owner.toNat ≠ j.streamOf)
include hother

theorem runWait_blocks (hcycle : fenceCycle (waitBlocked s j e) j.streamOf 16 j.streamOf [] = none) : runWait j e s = waitBlocked s j e := by
  rw [runWait, if_neg (by simp [BitVec.not_le.2 hlt]), if_neg (by rcases hother with h | h <;> simp [h]), ← waitBlocked]
  simp only [hcycle]

theorem runWait_closesCycle {l : List Nat} (hcycle : fenceCycle (waitBlocked s j e) j.streamOf 16 j.streamOf [] = some l) :
    runWait j e s = failCycle (waitBlocked s j e) l := by
  rw [runWait, if_neg (by simp [BitVec.not_le.2 hlt]), if_neg (by rcases hother with h | h <;> simp [h]), ← waitBlocked]
  simp only [hcycle]

end

end

theorem waitTimeout_expires {s : State} {st : Stream} {b : Job} {f : Nat} {v : W64} (hjob : getJob s (.stream st.val) = some b)
    (hbody : b.body = .wait f v) (hsig : (s.hq.fences.get f).hostSig = true) :
    exec (.waitTimeout st) s = .next (finish (setHq s fun h => { h with wdFired := satInc h.wdFired 1 }) (.stream st.val) .timeout
      (s.hq.fences.get f).value) := by
  change execWaitTimeout st s = _
  simp only [execWaitTimeout, hjob, hbody]
  exact if_pos hsig

/-- Settles O8: each command enters by `startEntry_runs` and runs as its own lemma says. -/
theorem commandsWithoutDataComplete : Obligations.CommandsWithoutDataComplete := by
  unfold Obligations.CommandsWithoutDataComplete
  refine ⟨fun s o st e h => startEntry_enters runNop h,
    fun s o st e h hlt hsig hown => startEntry_runs h (checkThen_passes _ _ _ (checkSignal_passes hlt hsig hown)),
    fun s o st e h hle => startEntry_runs h (checkThen_fails _ _ _ (checkSignal_notRaised hle _)),
    fun s o st e h hle => startEntry_runs h (runWait_reached hle _),
    fun s o st e h hlt hsig hown => startEntry_runs h (runWait_ownFence hlt hsig hown),
    fun s o st e h hlt hother => startEntry_runs h ?blocks,
    fun s st b f v hjob hbody hsig => waitTimeout_expires hjob hbody hsig,
    fun s o st e h hchk => startEntry_runs h (checkThen_passes _ _ _ hchk)⟩
  case blocks =>
    rw [← waitBlocked]
    cases hcycle : fenceCycle (waitBlocked o (.stream st.val) e.bytes) st.val 16 st.val [] with
    | none => exact runWait_blocks (j := .stream st.val) hlt hother hcycle
    | some l => exact runWait_closesCycle (j := .stream st.val) hlt hother hcycle

end Sys2Proof.Machine
end

section
/-!
The end of a command that holds no unit (O9): its units stop without any memory changing, and its completion entry is all that it
leaves.
-/

namespace Sys2Proof.Machine

/-! ### A command without units stops (R389) -/

theorem chansOf_of_engines_eq {s t : State} (h : s.engines = t.engines) (j : JobRef) : chansOf s j = chansOf t j := by
  rw [chansOf, chansOf, h]

theorem ctxsOf_of_tiles_eq {s t : State} (h : s.tiles = t.tiles) (j : JobRef) : ctxsOf s j = ctxsOf t j := by
  rw [ctxsOf, ctxsOf, h]

/-- A command without units has stopped: what is queued for it is discarded, and its barrier entries are withdrawn. -/
def unitlessStopped (s : State) (j : JobRef) : State := withdrawAll (resetChans (dropSupply s j) j) (.job j)

theorem stopUnits_unitless {s : State} {j : JobRef} (hchans : chansOf s j = []) (hctxs : ctxsOf s j = []) :
    stopUnits s j = unitlessStopped s j := by
  rw [stopUnits, hchans, hctxs]
  rfl

@[simp] theorem unitlessStopped_mem (s : State) (j : JobRef) : (unitlessStopped s j).mem = s.mem := rfl
@[simp] theorem unitlessStopped_hq (s : State) (j : JobRef) : (unitlessStopped s j).hq = s.hq := rfl
@[simp] theorem unitlessStopped_cp (s : State) (j : JobRef) : (unitlessStopped s j).cp = s.cp := rfl
@[simp] theorem unitlessStopped_md (s : State) (j : JobRef) : (unitlessStopped s j).md = s.md := rfl
@[simp] theorem unitlessStopped_pw (s : State) (j : JobRef) : (unitlessStopped s j).pw = s.pw := rfl
@[simp] theorem now_unitlessStopped (s : State) (j : JobRef) : now (unitlessStopped s j) = now s := rfl

/-! ### Its end (R344 to R347) -/

theorem captured_ok (s : State) (b : Job) : captured s b .ok = false := rfl

theorem wantsDigest_eq_false {b : Job} (hdig : entryDig b.entry = false) (hopc : entryOpc b.entry ≠ 0x0C) (s : State) :
    wantsDigest s b = false := by
  simp [wantsDigest, hdig, hopc]

theorem digestOut_none {s : State} {b : Job} (h : wantsDigest s b = false) (x : Status) : digestOut s b x = (s, 0xFFFFFFFF) :=
  if_neg (ne_true_of_eq_false h)

/-- Without a GRAPH_PATCH that deletes, no deletion is due. -/
theorem deletesDue_none {s : State} (h : ∀ p ∈ s.cp.jobs, ∀ id, p.2.body ≠ .ctl (.graphDelete id)) : deletesDue s = s := by
  refine List.foldlRecOn _ _ (motive := (· = s)) rfl fun t ht p hp => ?_
  rw [ht, deleteDue]
  split
  · next id hbody => exact absurd hbody (h p hp id)
  · rfl

theorem mem_putJobL {l : List (JobRef × Job)} {j : JobRef} {b : Job} {p : JobRef × Job} (h : p ∈ putJobL l j b) :
    p = (j, b) ∨ p ∈ l := by
  induction l with
  | nil => exact .inl (List.mem_singleton.1 h)
  | cons q r ih =>
    unfold putJobL at h
    split at h
    · exact (List.mem_cons.1 h).imp_right (List.mem_cons_of_mem _)
    · rcases List.mem_cons.1 h with rfl | h
      · exact .inr List.mem_cons_self
      · exact (ih h).imp_right (List.mem_cons_of_mem _)

/-- The state in which a command without units has ended but for its completion entry. -/
def unitlessEnded (s : State) (st : Nat) : State := delJob (unitlessStopped s (.stream st)) (.stream st)

/-- A command that has only begun, without units, a frame or a digest record, ends with its completion entry. -/
theorem finishStream_begun {s : State} {st : Nat} {b : Job} (hbody : b.body = .begun) (hpois : b.poisAddr = none)
    (hdig : ∀ t, wantsDigest t b = false) (hchans : chansOf s (.stream st) = []) (hctxs : ctxsOf s (.stream st) = [])
    (hframes : (s.cp.streams.get st).frames = []) (hdel : ∀ p ∈ s.cp.jobs, ∀ id, p.2.body ≠ .ctl (.graphDelete id)) (result : W64) :
    finishStream s st b .ok result false = postFinal (unitlessEnded s st) st (heldOf b .ok 0xFFFFFFFF result) := by
  have hrelease : releaseFor s (.stream st) b .ok false = unitlessStopped s (.stream st) := by
    rw [releaseFor, captured_ok, releaseDone, kernelOf, hbody]
    exact stopUnits_unitless hchans hctxs
  have hgraph : ∀ t, endGraphWork t st b .ok false = t := fun t => by rw [endGraphWork, hbody]
  have hlog : ∀ t, poisonLog t (.stream st) b .ok = t := fun t => by rw [poisonLog, hpois]
  have hdue : deletesDue (unitlessEnded s st) = unitlessEnded s st := deletesDue_none fun p hp => hdel p (List.mem_filter.1 hp).1
  have hframes' : ((unitlessEnded s st).cp.streams.get st).frames = [] := hframes
  simp only [finishStream, hrelease, hgraph, hlog, digestOut_none (hdig _)]
  rw [← unitlessEnded, hdue, hframes']

/-! ### NOP -/

theorem entered_nop {s : State} {st : Nat} {e : NextEntry} (hopc : entryOpc e.bytes = 0x00) (hdepth : e.depth = 0) :
    entered s st e = openJob s st e := by
  have hreads : entryReads e.bytes = [] := by simp [entryReads, hopc]
  rw [entered, noteReads, hreads, if_pos hdepth]
  rfl

theorem openJob_outermost {s : State} {st : Nat} {e : NextEntry} (h : e.depth = 0) :
    openJob s st e = putJob (updStream s st fun q => { q with pending := q.pending.tail }) (.stream st) (newJob s e) := by
  rw [openJob, if_pos h]

theorem nextEntry_held {s : State} {st : Nat} {e : NextEntry} (h : nextEntry s st = some e) : (s.cp.streams.get st).held = [] := by
  unfold nextEntry at h
  extract_lets q at h
  refine Classical.byContradiction fun hne => ?_
  rw [if_pos (by simp [q, hne])] at h
  exact nomatch h

theorem postFinal_writes {s : State} {st : Nat} (hroom : cqFull s = false) (hheld : (s.cp.streams.get st).held = []) (c : HeldC) :
    postFinal s st c = writeCqe s st c := if_neg (by simp [hroom, hheld])

/-- The state in which a NOP outside a command buffer has ended but for its completion entry. -/
def nopEnded (s : State) (st : Nat) (e : NextEntry) : State := unitlessEnded (openJob s st e) st

section
variable (s : State) (st : Nat) (e : NextEntry)

@[simp] theorem nopEnded_mem : (nopEnded s st e).mem = s.mem := openJob_mem s st e
@[simp] theorem nopEnded_hq : (nopEnded s st e).hq = s.hq := openJob_hq s st e
@[simp] theorem nopEnded_md : (nopEnded s st e).md = s.md := openJob_md s st e
@[simp] theorem nopEnded_pw : (nopEnded s st e).pw = s.pw := openJob_pw s st e
theorem now_nopEnded : now (nopEnded s st e) = now s := congrArg (·.local_) (openJob_bcn s st e)
theorem getJob_nopEnded : getJob (nopEnded s st e) (.stream st) = none := getJob_delJob _ _

variable {s st e}

theorem nopEnded_stream (h : e.depth = 0) :
    (nopEnded s st e).cp.streams.get st = { s.cp.streams.get st with pending := (s.cp.streams.get st).pending.tail } := by
  change (openJob s st e).cp.streams.get st = _
  rw [openJob_outermost h]
  exact get_updStream s st fun q => { q with pending := q.pending.tail }

end

/-- A NOP outside a command buffer without units or a digest record, with room in the CQ, ends with its completion entry. -/
theorem nop_writesEntry {s : State} {st : Stream} {e : NextEntry} (h : StartsEntry s st 0x00 e) (hdepth : e.depth = 0)
    (hframes : (s.cp.streams.get st.val).frames = []) (hroom : cqFull s = false) (hdig : entryDig e.bytes = false)
    (hchans : chansOf s (.stream st.val) = []) (hctxs : ctxsOf s (.stream st.val) = [])
    (hdel : ∀ p ∈ s.cp.jobs, ∀ id, p.2.body ≠ .ctl (.graphDelete id)) :
    exec (.nop st) s = .next (writeCqe (nopEnded s st.val e) st.val (heldOf (newJob s e) .ok 0xFFFFFFFF 0)) := by
  have hstart := startEntry_starts runNop h
  obtain ⟨hnext, -, hopc, -⟩ := h
  have hdigest : ∀ t, wantsDigest t (newJob s e) = false :=
    wantsDigest_eq_false hdig (by change entryOpc e.bytes ≠ 0x0C; rw [hopc]; decide)
  have hframes' : ((openJob s st.val e).cp.streams.get st.val).frames = [] :=
    (congrArg StreamSt.frames (nopEnded_stream hdepth)).trans hframes
  have hdel' : ∀ p ∈ (openJob s st.val e).cp.jobs, ∀ id, p.2.body ≠ .ctl (.graphDelete id) := by
    intro p hp id
    rw [openJob_outermost hdepth] at hp
    rcases mem_putJobL hp with rfl | hp
    · exact Body.noConfusion
    · exact hdel p hp id
  have hheld : ((nopEnded s st.val e).cp.streams.get st.val).held = [] :=
    (congrArg StreamSt.held (nopEnded_stream hdepth)).trans (nextEntry_held hnext)
  have hroom' : cqFull (nopEnded s st.val e) = false := by rw [cqFull, cqSize, nopEnded_hq]; exact hroom
  change startEntry 0x00 st.val runNop s = _
  rw [hstart, entered_nop hopc hdepth, runNop, finish, getJob_openJob]
  dsimp only
  rw [finishStream_begun rfl rfl hdigest ((chansOf_of_engines_eq (openJob_engines s _ _) _).trans hchans)
    ((ctxsOf_of_tiles_eq (openJob_tiles s _ _) _).trans hctxs) hframes' hdel', ← nopEnded, postFinal_writes hroom' hheld]

/-- Settles O9: a NOP ends with its completion entry (`nop_writesEntry`), which changes host memory and the queue alone. -/
theorem nopCompletionEntry : Obligations.NopCompletionEntry := by
  unfold Obligations.NopCompletionEntry
  intro s st e h hdepth hframes hroom hdig hchans hctxs hdel
  refine ⟨_, nop_writesEntry h hdepth hframes hroom hdig hchans hctxs hdel, ?host, ?mod, ?pois, ?fill, ?tail, ?phase, ?fences, ?regions,
    ?serial, ?pending, ?free, ?md, ?pw⟩
  case host =>
    have hbytes := cqeBytes_congr (nopEnded_hq s st.val e) (now_nopEnded s st.val e) st.val (heldOf (newJob s e) .ok 0xFFFFFFFF 0)
    rw [writeCqe_mem, nopEnded_mem, hbytes, cqSlotAddr, cqSize, nopEnded_hq]
    rfl
  case mod => rw [writeCqe_mem, nopEnded_mem]
  case pois => rw [writeCqe_mem, nopEnded_mem]
  case fill => rw [writeCqe_mem, nopEnded_mem]
  case pending => rw [writeCqe_cp, nopEnded_stream hdepth]
  case free => rw [getJob_of_cp_eq (writeCqe_cp _ _ _), getJob_nopEnded]
  case md => rw [writeCqe_md, nopEnded_md]
  case pw => rw [writeCqe_pw, nopEnded_pw]
  case tail | phase | fences | regions | serial =>
    rw [writeCqe_hq, nopEnded_hq]
    rfl

end Sys2Proof.Machine
end

section
/-!
Reports (O11): DIGEST, IDENTIFY, ATTEST, TELEMETRY and TIME_TAG, and the bytes of the structures that they write.
-/

namespace Sys2Proof.Machine

/-! ### Structures of a fixed length -/

@[simp] theorem length_bytesAt (l : Bytes) (off n : Nat) : (bytesAt l off n).length = n := by
  simp only [bytesAt, List.length_append, List.length_replicate, List.length_take]
  omega

theorem bytesAt_append {a b : Bytes} {off n : Nat} (ha : a.length = off) (hb : b.length = n) (c : Bytes) :
    bytesAt (a ++ b ++ c) off n = b := by
  have htake : ((a ++ b ++ c).drop off).take n = b := by
    rw [List.append_assoc, ← ha, List.drop_left, ← hb, List.take_left]
  simp only [bytesAt, htake, hb, Nat.sub_self, List.replicate_zero, List.append_nil]

/-- A structure begins with the bytes that begin the list from which it is cut. -/
theorem bytesAt_begins {a : Bytes} {n : Nat} (h : a.length ≤ n) (r : Bytes) : ∃ r', bytesAt (a ++ r) 0 n = a ++ r' := by
  rw [bytesAt, List.drop_zero, List.take_append, List.take_of_length_le h, List.append_assoc]
  exact ⟨_, rfl⟩

theorem length_identifyBytes (s : State) : (identifyBytes s).length = 4096 := length_bytesAt _ 0 4096

/-! ### ATTEST (R531) -/

/-- What stands before the nonce of a report. -/
def attestHead (s : State) (certLen : Nat) : Bytes :=
  leBytes 2 1 ++ [0, 0] ++ leBytes 4 8192 ++ leBytes 4 certLen ++ leBytes 4 s.boot.bootEpoch.toNat ++ leBytes 8 (now s).toNat

theorem length_attestHead (s : State) (certLen : Nat) : (attestHead s certLen).length = 24 := by
  simp [attestHead]

theorem attestSigned_begins (s : State) (nonce : Bytes) (certLen : Nat) :
    ∃ r, attestSigned s nonce certLen = attestHead s certLen ++ nonce ++ r := by
  unfold attestSigned attestHead
  simp only [List.append_assoc]
  exact ⟨_, rfl⟩

/-- The certificates of a report whose buffer has room for them. -/
def attestCerts (len : Nat) : Bytes := if 8192 + Config.certs.length ≤ len then Config.certs else []

/-- A report is what both signatures cover, with keys and signatures after it, in 8,192 bytes, and then the certificates. -/
theorem attestBytes_eq (s : State) (nonce : Bytes) (len : Nat) : ∃ r, attestBytes s nonce len =
    bytesAt (attestSigned s nonce (attestCerts len).length ++ r) 0 8192 ++ attestCerts len := by
  simp only [attestBytes, List.append_assoc]
  exact ⟨_, rfl⟩

theorem attestBytes_nonce {nonce : Bytes} (s : State) (h : nonce.length = 32) (len : Nat) :
    bytesAt (attestBytes s nonce len) 24 32 = nonce := by
  obtain ⟨rest, hreport⟩ := attestBytes_eq s nonce len
  obtain ⟨signed, hsigned⟩ := attestSigned_begins s nonce (attestCerts len).length
  have hshort : (attestHead s (attestCerts len).length ++ nonce).length ≤ 8192 := by simp [length_attestHead, h]
  obtain ⟨tail, hbegins⟩ := bytesAt_begins hshort (signed ++ rest)
  rw [hreport, hsigned, List.append_assoc _ signed, hbegins, List.append_assoc]
  exact bytesAt_append (length_attestHead s _) h _

theorem length_attestBytes (s : State) (nonce : Bytes) (len : Nat) :
    (attestBytes s nonce len).length = if 8192 + Config.certs.length ≤ len then 8192 + Config.certs.length else 8192 := by
  obtain ⟨rest, hreport⟩ := attestBytes_eq s nonce len
  rw [hreport, List.length_append, length_bytesAt, attestCerts]
  split <;> rfl

/-! ### The commands -/

/-- DIGEST of unpoisoned data notes its digest, and in MODE 1 whether it is another than the entry's. -/
theorem runDigest_notes {s : State} {j : JobRef} {e : Bytes} (hchk : checkDigest s e = none)
    (hclean : anyPois (readWord s (entryAddrW e) (entryLen e)) = false) :
    runDigest j e s = finishRanked (updJob s j fun b => { b with
      digest := some (sha256 (plain (readWord s (entryAddrW e) (entryLen e))))
      rowPois := false
      conds := b.conds ++ (if byteN e 16 = 1 ∧ sha256 (plain (readWord s (entryAddrW e) (entryLen e))) ≠ bytesAt e 24 32
        then [.digestMismatch] else []) }) j 0 := by
  rw [runDigest, checkThen_passes _ _ _ hchk]
  simp [hclean]

theorem runIdentify_writes {s : State} {j : JobRef} {e : Bytes} (hchk : checkReply s e 4096 65536 false = none) :
    runIdentify j e s = finish (writeWord s (entryAddrW e) (identifyBytes s)) j .ok 4096 := by
  rw [runIdentify, checkThen_passes _ _ _ hchk, reply, length_identifyBytes]
  rfl

theorem runTelemetry_page0 {s : State} {j : JobRef} {e : Bytes} (hchk : checkReply s e 64 65536 false = none) (hpage : byteN e 16 = 0) :
    runTelemetry j e s = reply j e ((telPage0 s).take (entryLen e)) s := by
  have hchk' : checkReply s e 64 65536 (3 < byteN e 16) = none := by rw [hpage]; exact hchk
  rw [runTelemetry, checkThen_passes _ _ _ hchk']
  simp only [hpage]

/-- Settles O11: each command enters by `startEntry_runs` and runs as its own lemma says. -/
theorem reportsAreWritten : Obligations.ReportsAreWritten := by
  unfold Obligations.ReportsAreWritten
  exact ⟨fun s o st e h hchk hclean => startEntry_runs h (runDigest_notes hchk hclean),
    fun s o st e h hchk => startEntry_runs h (runIdentify_writes hchk), length_identifyBytes,
    fun s o st e h hchk => startEntry_runs h (checkThen_passes _ _ _ hchk),
    fun s nonce len hnonce => ⟨attestBytes_nonce s hnonce len, length_attestBytes s nonce len⟩,
    fun s o st e h hchk hpage => startEntry_runs h (runTelemetry_page0 hchk hpage),
    fun s o st e h => startEntry_enters runTimeTag h⟩

end Sys2Proof.Machine
end

section
/-!
Control flow in a command buffer (O10, R371 to R373): BRANCH, LOOP, CALL and RETURN once their checks have passed. Which loops a taken branch
leaves is the model's choice (log entry 20, `leaveLoops`).
-/

namespace Sys2Proof.Machine

theorem topFrame_of_frames {s : State} {st : Nat} {f : CFrame} {r : List CFrame} (h : (s.cp.streams.get st).frames = f :: r) :
    topFrame s st = some f := by
  rw [topFrame, h, List.head?_cons]

/-! ### BRANCH (R372) -/

/-- The word that a BRANCH compares, under its mask. -/
def branchWord (s : State) (e : Bytes) : W64 := BitVec.ofNat 64 (leNat (plain (readWord s (param64 e 16) 8))) &&& param64 e 40

/-- The innermost frame of a stream after a jump to entry `n`. -/
def jumped (s : State) (st n : Nat) : State := updTop s st fun f => leaveLoops f n

section
variable {s : State} {j : JobRef} {e : Bytes} {f : CFrame} {r : List CFrame} (hframes : (s.cp.streams.get j.streamOf).frames = f :: r)
include hframes

section
variable (hchk : checkBranch s f e = none)
include hchk

theorem runBranch_checked : runBranch j e s =
    if taken (byteN e 24) (branchWord s e) (param64 e 32) then
      finishJump (if leAt e 48 4 ≤ f.idx then updStream (jumped s j.streamOf (leAt e 48 4)) j.streamOf fun q => { q with polling := true }
        else jumped s j.streamOf (leAt e 48 4)) j.streamOf (leAt e 48 4)
    else finish s j .ok 0 := by
  simp only [runBranch, topFrame_of_frames hframes, checkThen_passes _ _ _ hchk]
  rfl

theorem runBranch_forward (htaken : taken (byteN e 24) (branchWord s e) (param64 e 32) = true) (h : f.idx < leAt e 48 4) :
    runBranch j e s = finishJump (jumped s j.streamOf (leAt e 48 4)) j.streamOf (leAt e 48 4) := by
  rw [runBranch_checked hframes hchk, if_pos htaken, if_neg (Nat.not_le.mpr h)]

theorem runBranch_backward (htaken : taken (byteN e 24) (branchWord s e) (param64 e 32) = true) (h : leAt e 48 4 ≤ f.idx) :
    runBranch j e s = finishJump (updStream (jumped s j.streamOf (leAt e 48 4)) j.streamOf fun q => { q with polling := true })
      j.streamOf (leAt e 48 4) := by
  rw [runBranch_checked hframes hchk, if_pos htaken, if_pos h]

theorem runBranch_notTaken (htaken : taken (byteN e 24) (branchWord s e) (param64 e 32) = false) : runBranch j e s = finish s j .ok 0 := by
  rw [runBranch_checked hframes hchk, if_neg (ne_true_of_eq_false htaken)]

end

/-! ### LOOP (R373) and RETURN (R371) -/

theorem runLoop_steps (hchk : checkLoop f e = none) :
    runLoop j e s = finishJump (updTop s j.streamOf fun _ => (loopStep f (leAt e 16 4) (leAt e 20 4)).1) j.streamOf
      (loopStep f (leAt e 16 4) (leAt e 20 4)).2 := by
  simp only [runLoop, topFrame_of_frames hframes, checkThen_passes _ _ _ hchk]

theorem runReturn_ends : runReturn j e s = finishJump s j.streamOf f.entries := by
  simp only [runReturn, topFrame_of_frames hframes]

end

/-- An active loop jumps back while its counter stands above 0. -/
theorem loopStep_active {f : CFrame} {l : LoopCtr} (h : f.loops.find? (fun l => l.at_ = f.idx) = some l) (count target : Nat) :
    (loopStep f count target).2 = if 0 < l.ctr then target else f.idx + 1 := by
  simp only [loopStep, h]
  split <;> rfl

/-- A loop that begins has run once of its COUNT times. -/
theorem loopStep_begins {f : CFrame} (h : f.loops.find? (fun l => l.at_ = f.idx) = none) (count target : Nat) :
    (loopStep f count target).2 = if 1 < count then target else f.idx + 1 := by
  simp only [loopStep, h, Nat.sub_pos_iff_lt]
  split <;> rfl

/-! ### The wait of a taken backward branch -/

theorem branchPollDelay_ends {s : State} {st : Stream} (h : (s.cp.streams.get st.val).polling = true) :
    exec (.branchPollDelay st) s = .next (updStream s st.val fun q => { q with polling := false }) := if_pos h

/-! ### CALL (R371) -/

/-- The state in which a CALL's frame is open. -/
def callOpened (s : State) (j : JobRef) (b : Job) (e : Bytes) : State :=
  updStream (delJob s j) j.streamOf fun q => { q with frames := ⟨entryAddrW e, entryLen e / 64, 0, [], b⟩ :: q.frames }

theorem runCall_opens {s : State} {j : JobRef} {b : Job} {e : Bytes} (hjob : getJob s j = some b) (hchk : checkCall s b.depth e = none) :
    runCall j e s = callOpened s j b e := by
  simp only [runCall, hjob, checkThen_passes _ _ _ hchk]
  rfl

theorem callOpened_frames (s : State) (st : Nat) (b : Job) (e : Bytes) : ((callOpened s (.stream st) b e).cp.streams.get st).frames =
    ⟨entryAddrW e, entryLen e / 64, 0, [], b⟩ :: (s.cp.streams.get st).frames := by
  rw [callOpened, JobRef.streamOf, get_updStream]
  rfl

/-- Settles O10: each command enters by `startEntry_runs` and runs as its own lemma says. -/
theorem branchLoopCallReturn : Obligations.BranchLoopCallReturn := by
  unfold Obligations.BranchLoopCallReturn
  refine ⟨fun s o st e f r h hframes hchk htaken hlt => startEntry_runs h (runBranch_forward hframes hchk htaken hlt),
    fun s o st e f r h hframes hchk htaken hle => startEntry_runs h (runBranch_backward hframes hchk htaken hle),
    fun s o st e f r h hframes hchk htaken => startEntry_runs h (runBranch_notTaken hframes hchk htaken),
    fun s st hpoll => ?polled, fun s o st e f r h hframes hchk => startEntry_runs h (runLoop_steps hframes hchk),
    fun f count target l h => loopStep_active h count target, fun f count target h => loopStep_begins h count target,
    fun s o st e h hjob hchk => ?call, fun s o st e f r h hframes => startEntry_runs h (runReturn_ends hframes)⟩
  case polled =>
    exact ⟨_, branchPollDelay_ends hpoll, get_updStream s st.val _, fun q hq => get_updStream_ne s _ hq, rfl, rfl, rfl, rfl⟩
  case call =>
    exact ⟨_, startEntry_runs h (runCall_opens hjob hchk), callOpened_frames o st.val _ _, getJob_delJob o _, rfl, rfl, rfl, rfl⟩

end Sys2Proof.Machine
end

section
/-!
Graph launches (O13, R383, R384): GRAPH, GRAPH_NODE_START, GRAPH_LAUNCH_MESSAGE and COMPLETION_TOKEN. The answers to a launch and the start
of its nodes by tokens are the model's choice (log entry 178), and so is DIE_RETIRED as the answer of a module with two dies out of service
(log entry 162).
-/

namespace Sys2Proof.Machine

/-! ### GRAPH (R383 steps 1 and 2) -/

/-- The nodes of a version that this module launches by the entry `e`. -/
def ownNodes (s : State) (e : Bytes) (v : GVersion) : List GNode :=
  launchNodes v.image (dataOf s e) (leAt e 0 4) (selfModule s) (selfModule s)

/-- A launch whose nodes all wait and which awaits the answers of the other modules that it names. -/
def newRun (e : Bytes) (v : GVersion) (l : List GNode) : GraphRun :=
  { id := gId e, version := v.num, nodes := l, failed := [], firstFail := none, asked := launchModules l }

/-- The state in which the running command `j` holds that launch. -/
def graphBegun (s : State) (j : JobRef) (e : Bytes) (v : GVersion) : State :=
  setBody (updJob s j fun b => { b with program := v.digest, input := sha256 (dataOf s e), repro := s.pw.repro }) j
    (.graph (newRun e v (ownNodes s e v)))

/-- A GRAPH whose nodes all lie here tells no other module. -/
theorem runGraph_alone {s : State} {j : JobRef} {e : Bytes} {v : GVersion} (hchk : checkGraph s e = none)
    (hver : versionOf s (gId e) (gVer e) = some v) (hown : launchModules (ownNodes s e v) = []) : runGraph j e s = graphBegun s j e v := by
  rw [runGraph, checkThen_passes _ _ _ hchk]
  simp only [hver]
  rw [← ownNodes, hown, List.foldl_nil, graphBegun, newRun, hown]

theorem launchNodes_waiting {m args : Bytes} {h l k : Nat} {n : GNode} (hn : n ∈ launchNodes m args h l k) : n.phase = .waiting := by
  obtain ⟨p, -, rfl⟩ := List.mem_map.mp hn
  rfl

/-! ### GRAPH_NODE_START (R383 step 4) -/

/-- The entry of node `n` of a launch. -/
def GraphRun.entryAt (g : GraphRun) (n : Nat) : Bytes := ((g.nodes[n]?).map (·.entry)).getD []

/-- The state in which node `n` of a stream's launch has started as the command of entry `e`. -/
def ownStarted (s : State) (st n de ch : Nat) (b : Job) (g : GraphRun) (e : Bytes) : State :=
  startNode (.node st n) { bareJob e with sqIdx := b.sqIdx, depth := b.depth, frames := b.frames } e de ch
    (putJob s (.stream st) { b with body := .graph { g with nodes := markRunning g.nodes n } })

section
variable {s : State} {st : Stream} {n : Nat} {b : Job} {g : GraphRun} (hn : n < 4096) (hjob : getJob s (.stream st.val) = some b)
  (hbody : b.body = .graph g) (de : Fin 16) (ch : Chan)
include hn hjob hbody

theorem graphNodeStart_own : exec (.graphNodeStart st n de ch) s = .next (
    if nodeReady g.nodes n && g.failed.isEmpty && g.asked.isEmpty && !nodeBlocked s (g.entryAt n) de.val ch.val then
      ownStarted s st.val n de.val ch.val b g (g.entryAt n)
    else s) := by
  refine (if_pos hn).trans ?_
  simp only [startOwn, hjob, hbody]
  rfl

theorem graphNodeStart_starts {x : GNode} (hx : g.nodes[n]? = some x) (hready : nodeReady g.nodes n = true) (hfailed : g.failed = [])
    (hasked : g.asked = []) (hfree : nodeBlocked s x.entry de.val ch.val = false) :
    exec (.graphNodeStart st n de ch) s = .next (ownStarted s st.val n de.val ch.val b g x.entry) := by
  have hentry : g.entryAt n = x.entry := by rw [GraphRun.entryAt, hx, Option.map_some, Option.getD_some]
  rw [graphNodeStart_own hn hjob hbody, hentry, if_pos (by simp [hready, hfailed, hasked, hfree])]

theorem graphNodeStart_stays (h : nodeReady g.nodes n = false ∨ g.failed ≠ [] ∨ g.asked ≠ []) :
    exec (.graphNodeStart st n de ch) s = .next s := by
  rw [graphNodeStart_own hn hjob hbody, if_neg]
  rcases h with h | h | h <;> simp [h]

end

theorem startRemote_stays {s : State} {k : Nat} {l : RemoteLaunch} (hl : s.cp.remotes.get k = some l) (h : l.go = false ∨ l.halted = true)
    (n de ch : Nat) : startRemote s k n de ch = s := by
  simp only [startRemote, hl]
  refine if_neg ?_
  rcases h with h | h <;> simp [h]

/-! ### GRAPH_LAUNCH_MESSAGE (R383 step 3) -/

section
variable {s : State} (src : Fin 512) (h : W32) {id ver : BitVec 16}

theorem graphLaunchMessage_stopped (hstop : stopped s = true) (digest args : Bytes) :
    exec (.graphLaunchMessage src h id ver digest args) s = .next (answerLaunch s src.val h id ver .dieRetired) := if_pos hstop

variable (hstop : stopped s = false)
include hstop

theorem graphLaunchMessage_notHeld {digest : Bytes} (hver : ∀ v, versionOf s id.toNat ver.toNat = some v → v.digest ≠ digest) (args : Bytes) :
    exec (.graphLaunchMessage src h id ver digest args) s = .next (answerLaunch s src.val h id ver .notReady) := by
  change execGraphLaunchMessage src h id ver digest args s = _
  simp only [execGraphLaunchMessage, hstop]
  refine (if_neg Bool.false_ne_true).trans ?_
  split
  · rfl
  · next v hv => exact if_pos (hver v hv)

/-- The launch that another module's message asks for, by its version held here. -/
def heldLaunch (s : State) (src : Nat) (h : W32) (id : Nat) (v : GVersion) (args : Bytes) : RemoteLaunch :=
  ⟨src, rfld (h.setWidth 64) 11 8, id, v.num, launchNodes v.image args h.toNat src (selfModule s), [], false, false⟩

theorem graphLaunchMessage_holds {v : GVersion} {args : Bytes} (hver : versionOf s id.toNat ver.toNat = some v)
    (hargs : args.length = gArgMax v.image) (hchk : checkNodes s (launchNodes v.image args h.toNat src.val (selfModule s)) = none) :
    exec (.graphLaunchMessage src h id ver v.digest args) s = .next (answerLaunch
      { s with cp := { s.cp with remotes := s.cp.remotes.set (freeRemote s) (some (heldLaunch s src.val h id.toNat v args)) } }
      src.val h id ver .ok) := by
  change execGraphLaunchMessage src h id ver v.digest args s = _
  simp only [execGraphLaunchMessage, hstop, hver, hargs, hchk]
  refine (if_neg Bool.false_ne_true).trans ((if_neg (not_not_intro rfl)).trans ((if_neg (not_not_intro rfl)).trans rfl))

end

/-! ### COMPLETION_TOKEN (R383, R384) -/

/-- The first failure of a launch halts it on the other modules. -/
theorem tokenOwn_firstFailure {s : State} {st n : Nat} {b : Job} {g : GraphRun} {x : Status} (hx : x ≠ .ok) (hfirst : g.failed = [])
    (r : NodeReport) : tokenOwn s st b g n x r =
      settleOwn (tellFar (farCompletion s st n b g x r) st (graphMark g n x) (farModules (graphMark g n x).nodes) .busy) st b
        { graphMark g n x with stopping := farModules (graphMark g n x).nodes } := by
  have hone : (graphMark g n x).failed.length = 1 := by simp [graphMark, hx, hfirst]
  simp only [tokenOwn, if_neg hx, haltFar, if_pos hone]

theorem takeToken_reports {s : State} {src launcher st id version n : Nat} {b : Job} {g : GraphRun} (hself : launcher = selfModule s)
    (hown : ownLaunch s st id = some (b, g)) (hwait : awaits g.nodes src n = true) (hn : n < 4096) (x : Status) (r : NodeReport) :
    takeToken s src launcher st id version n x r = tokenOwn s st b g n x r := by
  simp only [takeToken, hown]
  exact (if_pos hself).trans ((if_neg (by omega)).trans ((if_neg (by omega)).trans (if_pos hwait)))

theorem completionToken_reports {s : State} {src launcher : Fin 512} {st : Stream} {id : BitVec 16} {edge : Nat} {b : Job} {g : GraphRun}
    (hself : launcher.val = selfModule s) (hown : ownLaunch s st.val id.toNat = some (b, g))
    (hwait : awaits g.nodes src.val (tokenNode s id.toNat g.version edge) = true) (hn : tokenNode s id.toNat g.version edge < 4096)
    (r : NodeReport) : exec (.completionToken src launcher st id edge r) s =
      .next (tokenOwn s st.val b g (tokenNode s id.toNat g.version edge) .ok r) := by
  change execCompletionToken src launcher st id edge r s = _
  simp only [execCompletionToken, if_pos hself, hown, Option.map_some]
  rw [takeToken_reports hself hown hwait hn]

/-- The last answer that a launch awaits starts its nodes or ends it. -/
theorem answerOwn_last {s : State} {st src : Nat} {b : Job} {g : GraphRun} (hlast : g.asked = [src]) (x : Status) :
    answerOwn s st b g src x = if x = .ok
      then tellFar (putJob s (.stream st) { b with body := .graph { g with asked := [] } }) st { g with asked := [] } (farModules g.nodes) .ok
      else finish s (.stream st) x 0 := by
  have hasked : g.asked.contains src = true := by simp [hlast]
  have hnone : g.asked.erase src = [] := by simp [hlast]
  simp only [answerOwn, hasked, hnone]
  by_cases hx : x = .ok <;> simp [hx]

/-- Settles O13: a GRAPH by `runGraph_alone`, a node's start by `graphNodeStart_own`, a launch message and a token each by its own lemma. -/
theorem graphLaunches : Obligations.GraphLaunches := by
  unfold Obligations.GraphLaunches
  refine ⟨fun s o st e v h hjob hchk hver hown => ?launch, fun m args h l k n hn => launchNodes_waiting hn,
    fun s st n de ch b g x hn hjob hbody hx hready hfailed hasked hfree =>
      graphNodeStart_starts hn hjob hbody de ch hx hready hfailed hasked hfree,
    fun s st n de ch b g hn hjob hbody hnot => graphNodeStart_stays hn hjob hbody de ch hnot,
    fun s src h id ver args v hstop hver hargs hchk => ⟨_, graphLaunchMessage_holds src h hstop hver hargs hchk, rfl⟩,
    fun s src h id ver digest args hstop => graphLaunchMessage_stopped src h hstop digest args,
    fun s src h id ver digest args hstop hver => graphLaunchMessage_notHeld src h hstop hver args,
    fun s _ k n de ch l hl hnot => startRemote_stays hl hnot n de ch,
    fun s src launcher st id edge r b g hself hown hwait hn => completionToken_reports hself hown hwait hn r,
    fun s st src b g x hlast => answerOwn_last hlast x, fun s st n b g x r hx hfirst => tokenOwn_firstFailure hx hfirst r⟩
  case launch =>
    refine ⟨_, _, startEntry_runs h (runGraph_alone hchk hver hown), getJob_setBody _ (getJob_updJob _ hjob), ?_, rfl, rfl, ?_, ?_, ?_⟩
    · simp only [newRun, ownNodes, hown]
    · rw [graphBegun, setBody_mem, updJob_mem]
    · rw [graphBegun, setBody_tiles, updJob_tiles]
    · rw [graphBegun, setBody_lk, updJob_lk]

end Sys2Proof.Machine
end

section
/-!
Changes beside the command processor (O36, O51): what stops the units of a command, moves weights and pages, ends sequences and passes, or
logs and sends, touches neither the command processor nor the global registers, and moves no die into or out of service.
-/

namespace Sys2Proof.Machine

/-- `t` is `s` after changes that neither the command processor nor the global registers nor the state of any die shows. -/
structure ControlKept (s t : State) : Prop where
  cp : t.cp = s.cp
  glb : t.glb = s.glb
  dieSt : ∀ d, (t.dies.get d).st = (s.dies.get d).st

theorem ControlKept.refl (s : State) : ControlKept s s := ⟨rfl, rfl, fun _ => rfl⟩

theorem ControlKept.trans {s t u : State} (h : ControlKept s t) (h' : ControlKept t u) : ControlKept s u :=
  ⟨h'.cp.trans h.cp, h'.glb.trans h.glb, fun d => (h'.dieSt d).trans (h.dieSt d)⟩

/-- A change of any other field keeps them. -/
theorem controlKept_frame {s t : State} {pending mem tiles engines arcs hq md bcn evr lk flt pw boot pins out free} (h : ControlKept s t) :
    ControlKept s ⟨pending, mem, tiles, engines, t.dies, arcs, hq, t.cp, md, bcn, evr, lk, flt, pw, boot, t.glb, pins, out, free⟩ :=
  ⟨h.cp, h.glb, h.dieSt⟩

theorem controlKept_ite {c : Prop} {_ : Decidable c} {s t u : State} (ht : ControlKept s t) (hu : ControlKept s u) :
    ControlKept s (if c then t else u) := by
  split
  · exact ht
  · exact hu

/-- A fold whose every step keeps them keeps them. -/
theorem controlKept_foldl {α : Type} {s t : State} {f : State → α → State} (hf : ∀ u a, ControlKept s u → ControlKept s (f u a)) (l : List α)
    (h : ControlKept s t) : ControlKept s (l.foldl f t) :=
  List.foldlRecOn l f (motive := ControlKept s) h fun u hu a _ => hf u a hu

theorem controlKept_sent {s t u : State} (h : ControlKept s t) (h' : SentFrom t u) : ControlKept s u := by
  obtain ⟨_, _, _, rfl⟩ := h'
  exact controlKept_frame h

/-! ### Dies -/

theorem Tbl.map_get_upd {α β : Type} [Inhabited α] [DecidableEq α] {p : α → β} {f : α → α} (hf : ∀ x, p (f x) = p x) (t : Tbl α) (k j : Nat) :
    p (Tbl.get (Tbl.upd t k f) j) = p (Tbl.get t j) := by
  rw [Tbl.get_upd]
  split
  · next h => rw [hf, h]
  · rfl

/-- What every change of an entry leaves, a change of all entries leaves. -/
theorem Tbl.map_get_mapAll {α β : Type} [Inhabited α] [DecidableEq α] {p : α → β} {f : Nat → α → α} (hf : ∀ k x, p (f k x) = p x) (t : Tbl α)
    (j : Nat) : p (Tbl.get (Tbl.mapAll t f) j) = p (Tbl.get t j) :=
  List.foldlRecOn t _ (motive := fun u : Tbl α => p (Tbl.get u j) = p (Tbl.get t j)) rfl
    fun u hu c _ => (Tbl.map_get_upd (hf c.1) u c.1 j).trans hu

section
variable {s t : State}

theorem controlKept_updDie {f : DieRegs → DieRegs} (hf : ∀ x, (f x).st = x.st) (d : Nat) (h : ControlKept s t) : ControlKept s (updDie t d f) :=
  h.trans ⟨rfl, rfl, Tbl.map_get_upd hf t.dies d⟩

/-! ### Writes, events and the log -/

theorem controlKept_storeMod (k : Nat) (l : List PByte) (h : ControlKept s t) : ControlKept s (storeMod t k l) := by
  refine controlKept_ite h ?_
  refine controlKept_ite (controlKept_updDie ?_ _ ?_) (controlKept_frame h)
  · exact fun _ => rfl
  · exact controlKept_frame h

theorem controlKept_storeClean (k : Nat) (b : Bytes) (h : ControlKept s t) : ControlKept s (storeClean t k b) := controlKept_storeMod k _ h

theorem controlKept_writeWord (w : W64) (b : Bytes) (h : ControlKept s t) : ControlKept s (writeWord t w b) :=
  controlKept_ite (controlKept_frame h) (controlKept_storeClean _ b h)

theorem controlKept_fire (n : Nat) (h : ControlKept s t) : ControlKept s (fire t n) := controlKept_ite (controlKept_frame h) h

theorem controlKept_flog (r : FRec) (h : ControlKept s t) : ControlKept s (flog t r) := controlKept_fire 704 (controlKept_frame h)

/-! ### The units of a command stop (R389) -/

theorem controlKept_scrambleDest (p : DSlot) (h : ControlKept s t) : ControlKept s (scrambleDest t p) :=
  controlKept_foldl (fun _ _ => controlKept_frame) _ <|
    controlKept_foldl (fun _ k hu => controlKept_storeMod k _ (controlKept_frame hu)) _ h

theorem controlKept_stopCtx (e c : Nat) (p : TodSlot → Bool) (h : ControlKept s t) : ControlKept s (stopCtx t e c p) :=
  controlKept_frame (controlKept_frame h)

theorem controlKept_stopUnits (j : JobRef) (h : ControlKept s t) : ControlKept s (stopUnits t j) :=
  controlKept_frame <| controlKept_frame <|
  controlKept_foldl (fun _ _ hu => controlKept_frame (controlKept_frame (controlKept_foldl (fun _ => controlKept_scrambleDest) _ hu))) _ <|
  controlKept_foldl (fun _ _ => controlKept_stopCtx _ _ _) _ (controlKept_frame h)

/-! ### Sequences -/

theorem controlKept_dropOneRef (k : Nat) (n : BitVec 16) (h : ControlKept s t) : ControlKept s (dropOneRef t k n) :=
  controlKept_frame (controlKept_frame h)

theorem controlKept_dropRef (k : Nat) (n : BitVec 16) (h : ControlKept s t) : ControlKept s (dropRef t k n) := by
  rcases dropRef_cases t k n with e | ⟨b, e⟩
  · rw [e]; exact controlKept_dropOneRef _ _ h
  · rw [e]; exact controlKept_dropOneRef _ _ (controlKept_dropOneRef _ _ h)

theorem controlKept_dropSeq (q : Seq) (h : ControlKept s t) : ControlKept s (dropSeq t q) :=
  controlKept_dropRef _ _ (controlKept_frame (controlKept_foldl (fun _ _ => controlKept_frame) _ h))

theorem controlKept_endModelWork (j : JobRef) (b : Job) (x : Status) (h : ControlKept s t) : ControlKept s (endModelWork t j b x) := by
  unfold endModelWork
  split
  · exact controlKept_ite (controlKept_writeWord _ _ (controlKept_frame h)) (controlKept_frame h)
  · split
    · exact controlKept_ite (controlKept_dropSeq _ (controlKept_frame h)) (controlKept_frame h)
    · exact controlKept_frame h
  · exact h

/-! ### Tiles and windows of a command (R130, R370) -/

theorem controlKept_killTile (e : Nat) (h : ControlKept s t) : ControlKept s (killTile t e) :=
  controlKept_ite (controlKept_frame (controlKept_frame h)) (controlKept_frame (controlKept_frame h))

theorem controlKept_closeWins (k : KernelRun) (h : ControlKept s t) : ControlKept s (closeWins t k) := by
  refine controlKept_foldl (fun _ p hu => controlKept_updDie ?_ p.1 hu) _ (controlKept_foldl (fun _ _ => controlKept_frame) _ h)
  exact fun _ => rfl

end

end Sys2Proof.Machine
end

section
/-!
KILL and the watchdog (O36, R388 to R390): what they end, and that the capture of a command counts one more capture, whatever the command held.
-/

namespace Sys2Proof.Machine

/-! ### The capture of a command (R390, R394) -/

theorem endPersist_capSeq (s : State) (id : Nat) : (endPersist s id).cp.capSeq = s.cp.capSeq := by
  unfold endPersist
  split
  · rfl
  · next p _ =>
    have hstop := controlKept_foldl (fun _ t hu => controlKept_foldl (fun _ c => controlKept_stopCtx t c fun _ => true) (setBits 4 p.ctxMask) hu)
      p.tiles (.refl { s with cp := { s.cp with persists := s.cp.persists.filter fun q => q.id ≠ id } })
    exact (congrArg CmdProc.capSeq hstop.cp).trans rfl

theorem releaseKilled_capSeq (s : State) (j : JobRef) (b : Job) (x : Status) : (releaseKilled s j b x).cp.capSeq = s.cp.capSeq := by
  have hunits : ControlKept s (endModelWork (stopUnits s j) j b x) := controlKept_endModelWork j b x (controlKept_stopUnits j (.refl s))
  unfold releaseKilled
  split
  · exact congrArg CmdProc.capSeq hunits.cp
  · next k _ =>
    extract_lets s1 s2
    have hs2 : s2.cp.capSeq = s.cp.capSeq := by
      unfold s2
      split
      · exact (endPersist_capSeq s1 _).trans (congrArg CmdProc.capSeq hunits.cp)
      · exact congrArg CmdProc.capSeq hunits.cp
    have htiles := controlKept_closeWins k (controlKept_foldl (fun _ => controlKept_killTile) k.tiles (.refl s2))
    exact (congrArg CmdProc.capSeq htiles.cp).trans hs2

theorem capture_capSeq (s : State) (j : JobRef) (b : Job) (x : Status) (killed : Bool) :
    (capture s j b x killed).cp.capSeq = s.cp.capSeq + 1 := by
  rw [capture, fire_cp, releaseKilled_capSeq]
  exact congrArg CmdProc.capSeq (controlKept_flog _ (.refl _)).cp

/-! ### KILL (R389) -/

section
variable {s : State} {st : Stream} (hon : barOn s = true)
include hon

theorem kill_runs : exec (.kill st) s = .next (killStream s st.val) := gate_on s _ hon

theorem kill_ends {b : Job} (hjob : getJob s (.stream st.val) = some b) (hwork : entryOpc b.entry < 0x80) :
    exec (.kill st) s = .next (finish s (.stream st.val) .timeout 0 true) := by
  rw [kill_runs hon]
  simp only [killStream, hjob, if_pos hwork]

theorem kill_control {b : Job} (hjob : getJob s (.stream st.val) = some b) (hctl : 0x80 ≤ entryOpc b.entry) :
    exec (.kill st) s = .next s := by
  rw [kill_runs hon]
  simp only [killStream, hjob, if_neg (Nat.not_lt.mpr hctl)]

theorem kill_idle (hjob : getJob s (.stream st.val) = none) (hframes : (s.cp.streams.get st.val).frames = []) :
    exec (.kill st) s = .next s := by
  rw [kill_runs hon]
  simp only [killStream, hjob, hframes]

end

/-! ### WATCHDOG_EXPIRY (R388) -/

section
variable {s : State} {st : Stream} {b : Job} (hjob : getJob s (.stream st.val) = some b)
include hjob

theorem watchdogExpiry_running : exec (.watchdogExpiry st) s =
    if s.cp.wdog ≠ 0 && watched.contains (entryOpc b.entry) && !(entryOpc b.entry = 0x0D && !s.glb.dieResets.isEmpty) then
      .next (finish s (.stream st.val) .timeout 0 true) else .next s := by
  change execWatchdogExpiry st s = _
  simp only [execWatchdogExpiry, hjob]

theorem watchdogExpiry_ends (hlimit : s.cp.wdog ≠ 0) (hcovered : entryOpc b.entry ∈ watched)
    (htimed : entryOpc b.entry ≠ 0x0D ∨ s.glb.dieResets = []) :
    exec (.watchdogExpiry st) s = .next (finish s (.stream st.val) .timeout 0 true) := by
  rw [watchdogExpiry_running hjob]
  exact if_pos (by rcases htimed with h | h <;> simpa [hcovered, h] using hlimit)

theorem watchdogExpiry_stays (h : s.cp.wdog = 0 ∨ entryOpc b.entry ∉ watched ∨ (entryOpc b.entry = 0x0D ∧ s.glb.dieResets ≠ [])) :
    exec (.watchdogExpiry st) s = .next s := by
  rw [watchdogExpiry_running hjob]
  refine if_neg ?_
  rcases h with h | h | ⟨hopc, hreset⟩
  · simp [h]
  · simp [h]
  · simp [hopc, hreset]

end

/-- Settles O36: each clause is the lemma of its step; a killed command is captured whatever its status. -/
theorem killAndWatchdog : Obligations.KillAndWatchdog := by
  unfold Obligations.KillAndWatchdog
  exact ⟨fun s st b hon hjob hwork => kill_ends hon hjob hwork, fun s st b hon hjob hctl => kill_control hon hjob hctl,
    fun s st hon hjob hframes => kill_idle hon hjob hframes,
    fun s st b hjob hlimit hcovered htimed => watchdogExpiry_ends hjob hlimit hcovered htimed,
    fun s st b hjob h => watchdogExpiry_stays hjob h, fun s j b => capture_capSeq s j b .timeout true⟩

end Sys2Proof.Machine
end

section
/-!
More changes beside the command processor (O51): weights that move to other dies (R150 to R155, R179), the end of a pass (R175, R182), power
tokens, and what is logged and sent.
-/

namespace Sys2Proof.Machine

section
variable {s t : State}

/-! ### The log and messages -/

theorem controlKept_persistRetire (c : W64) (h : ControlKept s t) : ControlKept s (persistRetire t c) := controlKept_ite h (controlKept_frame h)

theorem controlKept_sendFog (cause : Nat) (h : ControlKept s t) : ControlKept s (sendFog t cause) :=
  controlKept_flog _ (controlKept_ite h (controlKept_frame h))

theorem sentFrom_sendTo (s : State) (m kind : Nat) (pay : Bytes) : SentFrom s (sendTo s m kind pay) := by
  unfold sendTo
  split
  · exact sentFrom_sendOn s _ _ kind pay
  · exact .refl s

theorem controlKept_sendTo (m kind : Nat) (pay : Bytes) (h : ControlKept s t) : ControlKept s (sendTo t m kind pay) :=
  controlKept_sent h (sentFrom_sendTo t m kind pay)

/-! ### Stored weights -/

theorem controlKept_storeKeys (ks : List Nat) (b : Bytes) (h : ControlKept s t) : ControlKept s (storeKeys t ks b) :=
  controlKept_foldl (fun _ _ => controlKept_storeClean _ _) _ h

theorem controlKept_storeUnits (g : Gen) (d : Nat) (b : Unit_ → Bytes) (keep : Unit_ → Bool) (h : ControlKept s t) :
    ControlKept s (storeUnits t g d b keep) := controlKept_foldl (fun _ _ => controlKept_storeKeys _ _) _ h

theorem controlKept_layWith (g : Gen) (b : Unit_ → Bytes) (h : ControlKept s t) : ControlKept s (layWith t g b).1 :=
  controlKept_foldl (fun _ _ hu => controlKept_ite (controlKept_storeUnits _ _ _ _ hu) hu) _ h

theorem controlKept_crossArcs (a b n : Nat) (h : ControlKept s t) : ControlKept s (crossArcs t a b n) := by
  obtain ⟨_, e⟩ := crossArcs_eq t a b n
  rw [e]
  exact controlKept_frame h

theorem controlKept_crossCut (g : Gen) (old new : Option Nat) (h : ControlKept s t) : ControlKept s (crossCut t g old new) :=
  controlKept_foldl (fun _ _ hu => controlKept_foldl (fun _ _ hv => controlKept_ite hv (controlKept_crossArcs _ _ _ hv)) _ hu) _ h

theorem controlKept_recutLine (r : Nat) (g : Gen) (reach : Bool) (h : ControlKept s t) : ControlKept s (recutLine t r g reach).1 :=
  controlKept_foldl (fun _ _ hu => controlKept_ite (controlKept_storeUnits _ _ _ _ hu) hu) _ (controlKept_crossCut g g.cut (some r) h)

theorem controlKept_relayLine (r : Nat) (g : Gen) (h : ControlKept s t) : ControlKept s (relayLine r t g).1 := by
  unfold relayLine
  split
  · exact h
  · split
    · exact h
    · exact controlKept_recutLine r g _ (controlKept_frame h)

theorem controlKept_relayRing (g : Gen) (h : ControlKept s t) : ControlKept s (relayRing t g).1 := by
  unfold relayRing
  split
  · exact h
  · unfold recutRing
    split
    · split
      · exact controlKept_layWith _ _ (controlKept_crossCut _ _ _ h)
      · exact controlKept_layWith _ _ h
    · exact h

theorem controlKept_relayGens {f : State → Gen → State × Gen} (hf : ∀ u g, ControlKept s u → ControlKept s (f u g).1) (h : ControlKept s t) :
    ControlKept s (relayGens t f) := by
  refine controlKept_foldl (fun u p hu => ?_) _ h
  split
  split
  · exact controlKept_frame (hf u _ hu)
  · exact hu

/-! ### What the dies take up -/

theorem controlKept_showSettle (h : ControlKept s t) : ControlKept s (showSettle t) := by
  refine controlKept_foldl (fun _ d hu => controlKept_updDie ?_ d hu) _ h
  exact fun _ => rfl

theorem controlKept_setSweepWays (n d : Nat) (h : ControlKept s t) : ControlKept s (setSweepWays t n d) := by
  refine controlKept_ite (controlKept_updDie ?_ d h) (controlKept_frame (controlKept_updDie ?_ d h))
  · exact fun _ => rfl
  · exact fun _ => rfl

theorem controlKept_holdConfig (d : Nat) (h : ControlKept s t) : ControlKept s (holdConfig t d) := by
  refine controlKept_updDie ?_ d (controlKept_setSweepWays _ d h)
  exact fun _ => rfl

theorem controlKept_recallAll (h : ControlKept s t) : ControlKept s (recallAll t) :=
  controlKept_foldl (fun _ _ hu => controlKept_ite hu <| controlKept_frame <| controlKept_frame <| controlKept_frame <|
    controlKept_foldl (fun _ _ => controlKept_frame) _ hu) _ h

/-! ### The end of a pass -/

theorem controlKept_clearRings (h : ControlKept s t) : ControlKept s (clearRings t) := by
  refine controlKept_foldl (fun _ d hu => controlKept_updDie ?_ d hu) _ h
  exact fun _ => rfl

/-- A change of every die that moves none into or out of service keeps them, whatever other fields change with it. -/
theorem controlKept_mapDies {f : Nat → DieRegs → DieRegs} {pending mem tiles engines arcs hq md bcn evr lk flt pw boot pins out free}
    (hf : ∀ k x, (f k x).st = x.st) (h : ControlKept s t) : ControlKept s
      ⟨pending, mem, tiles, engines, t.dies.mapAll f, arcs, hq, t.cp, md, bcn, evr, lk, flt, pw, boot, t.glb, pins, out, free⟩ :=
  h.trans ⟨rfl, rfl, Tbl.map_get_mapAll hf t.dies⟩

theorem controlKept_endPassRef (h : ControlKept s t) : ControlKept s (endPassRef t) :=
  controlKept_ite (controlKept_dropRef _ _ (controlKept_frame (controlKept_frame h))) h

theorem controlKept_stopPass (h : ControlKept s t) : ControlKept s (stopPass t) := by
  refine controlKept_mapDies ?_ (controlKept_foldl (fun _ _ => controlKept_frame) _ (controlKept_endPassRef h))
  exact fun _ _ => rfl

theorem controlKept_abandonPass (h : ControlKept s t) : ControlKept s (abandonPass t) :=
  controlKept_clearRings (controlKept_frame (controlKept_stopPass (controlKept_frame h)))

theorem controlKept_joinFreed (slot : Option Nat) (h : ControlKept s t) : ControlKept s (joinFreed t slot) := controlKept_frame h

end

end Sys2Proof.Machine
end

section
/-!
A module in which no command runs (O51): the loss of links, arcs and dies ends no command there, so neither the die resets in progress or
waiting change, nor does a retired die come back. The epoch requests that a reset completes start no command either.
-/

namespace Sys2Proof.Machine

/-! ### No command to end -/

section
variable {s : State} (hjobs : s.cp.jobs = [])
include hjobs

theorem getJob_idle (j : JobRef) : getJob s j = none := by simp [getJob, hjobs]

theorem finish_idle (j : JobRef) (x : Status) (r : W64) (killed : Bool) : finish s j x r killed = s := by
  simp only [finish, getJob_idle hjobs]

theorem unitFault_idle (j : JobRef) (x : Status) (origin : W64) : unitFault s j x origin = s := by
  simp only [unitFault, updJob_of_none _ (getJob_idle hjobs j), getJob_idle hjobs]

theorem deletesDue_idle : deletesDue s = s := by rw [deletesDue, hjobs, List.foldl_nil]

theorem releaseWait_idle (w : TwinWait) : releaseWait s w = s := by
  simp only [releaseWait, getJob_idle hjobs, ite_self]

end

/-! ### What stays -/

/-- In `t`, reached from `s`, no command runs, the die resets are those of `s`, and the dies of `R` are retired. -/
structure IdleKept (R : Nat → Prop) (s t : State) : Prop where
  jobs : t.cp.jobs = []
  resets : t.glb.dieResets = s.glb.dieResets
  queue : t.glb.dieResetQ = s.glb.dieResetQ
  retired : ∀ d, R d → (t.dies.get d).st = .retired

theorem idleKept_start {s : State} (h : s.cp.jobs = []) : IdleKept (fun _ => False) s s := ⟨h, rfl, rfl, nofun⟩

section
variable {R : Nat → Prop} {s t : State}

theorem IdleKept.mono {R' : Nat → Prop} (h : IdleKept R s t) (hR : ∀ d, R' d → R d) : IdleKept R' s t :=
  ⟨h.jobs, h.resets, h.queue, fun d hd => h.retired d (hR d hd)⟩

theorem IdleKept.control {u : State} (h : IdleKept R s t) (h' : ControlKept t u) : IdleKept R s u :=
  ⟨by rw [h'.cp, h.jobs], by rw [h'.glb, h.resets], by rw [h'.glb, h.queue], fun d hd => (h'.dieSt d).trans (h.retired d hd)⟩

/-- A change of any other field keeps it. -/
theorem idleKept_frame {pending mem tiles engines arcs hq md bcn evr lk flt pw boot pins out free} (h : IdleKept R s t) :
    IdleKept R s ⟨pending, mem, tiles, engines, t.dies, arcs, hq, t.cp, md, bcn, evr, lk, flt, pw, boot, t.glb, pins, out, free⟩ :=
  ⟨h.jobs, h.resets, h.queue, h.retired⟩

theorem idleKept_ite {c : Prop} {_ : Decidable c} {u : State} (ht : IdleKept R s t) (hu : IdleKept R s u) :
    IdleKept R s (if c then t else u) := by
  split
  · exact ht
  · exact hu

/-- A fold whose every step keeps it keeps it. -/
theorem idleKept_foldl {α : Type} {f : State → α → State} (hf : ∀ u a, IdleKept R s u → IdleKept R s (f u a)) (l : List α)
    (h : IdleKept R s t) : IdleKept R s (l.foldl f t) :=
  List.foldlRecOn l f (motive := IdleKept R s) h fun u hu a _ => hf u a hu

theorem idleKept_finish (j : JobRef) (x : Status) (r : W64) (h : IdleKept R s t) : IdleKept R s (finish t j x r) := by
  rwa [finish_idle h.jobs]

theorem idleKept_updDie {f : DieRegs → DieRegs} (hf : ∀ x, (f x).st = x.st) (d : Nat) (h : IdleKept R s t) : IdleKept R s (updDie t d f) :=
  h.control (controlKept_updDie hf d (.refl t))

theorem idleKept_fire (n : Nat) (h : IdleKept R s t) : IdleKept R s (fire t n) := h.control (controlKept_fire n (.refl t))

theorem idleKept_flog (r : FRec) (h : IdleKept R s t) : IdleKept R s (flog t r) := h.control (controlKept_flog r (.refl t))

/-! ### Transfers, ports and links -/

theorem idleKept_chanFaultAs (e ch : Nat) (d : DSlot) (cause : Nat) (x : Status) (h : IdleKept R s t) :
    IdleKept R s (chanFaultAs t e ch d cause x) := by
  unfold chanFaultAs
  extract_lets t1 u t2 t3
  have ht1 : IdleKept R s t1 := idleKept_foldl (fun u _ hu => hu.control (controlKept_storeMod _ _ (.refl u))) d.far h
  have ht3 : IdleKept R s t3 := idleKept_fire _ (idleKept_frame (idleKept_frame ht1))
  split
  · rwa [unitFault_idle ht3.jobs]
  · exact ht3

theorem idleKept_endDescs (p : Nat → Bytes → Bool) (x : Status) (h : IdleKept R s t) : IdleKept R s (endDescs t p x) :=
  idleKept_foldl (fun _ _ hu => idleKept_foldl (fun _ _ hv => idleKept_foldl
    (fun _ _ hw => idleKept_ite (idleKept_chanFaultAs _ _ _ _ _ hw) hw) _ hv) _ hu) _ h

theorem idleKept_settleRemote (k : Nat) (l : RemoteLaunch) (h : IdleKept R s t) : IdleKept R s (settleRemote t k l) := by
  unfold settleRemote
  extract_lets mine ended quiet t1
  have ht1 : IdleKept R s t1 := idleKept_ite (h.control (controlKept_sendTo _ _ _ (.refl t))) h
  rw [deletesDue_idle (by exact ht1.jobs)]
  exact ⟨ht1.jobs, ht1.resets, ht1.queue, ht1.retired⟩

theorem idleKept_endRemote (gone : Nat → Bool) (h : IdleKept R s t) : IdleKept R s (endRemote t gone) := by
  refine idleKept_foldl (fun u r hu => ?_) _ (idleKept_foldl (fun _ _ => idleKept_finish _ _ _) _ h)
  split
  · exact idleKept_ite (idleKept_settleRemote _ _ hu) hu
  · exact hu

theorem idleKept_flushWaits (h : IdleKept R s t) : IdleKept R s (flushWaits t) :=
  idleKept_foldl (fun _ w hu => by rwa [releaseWait_idle hu.jobs w]) _ (idleKept_frame h)

theorem idleKept_twinIsolated (h : IdleKept R s t) : IdleKept R s (twinIsolated t) := by
  unfold twinIsolated
  extract_lets _ t1
  have ht1 : IdleKept R s t1 := by
    unfold t1
    split
    · exact idleKept_finish _ _ _ (idleKept_frame h)
    · exact idleKept_finish _ _ _ (idleKept_frame h)
    · exact h
  split
  · exact idleKept_flushWaits (idleKept_frame ht1)
  · exact idleKept_frame ht1
  · exact idleKept_flushWaits (idleKept_frame ht1)
  · exact ht1

theorem idleKept_portDown (p : Nat) (h : IdleKept R s t) : IdleKept R s (portDown t p) := by
  unfold portDown
  extract_lets gone _ t1 t2
  have ht2 : IdleKept R s t2 := idleKept_endRemote _ (idleKept_endDescs _ _ (idleKept_frame h))
  exact idleKept_ite (idleKept_twinIsolated ht2) ht2

theorem idleKept_leavePort (n : Nat) (h : IdleKept R s t) : IdleKept R s (leavePort t n) := by
  unfold leavePort
  split
  · exact h
  · extract_lets t1
    split
    · exact idleKept_frame (idleKept_foldl (fun _ _ => idleKept_frame) _ (idleKept_frame h))
    · exact idleKept_portDown _ (idleKept_frame h)

theorem idleKept_linkTo (n st : Nat) (h : IdleKept R s t) : IdleKept R s (linkTo t n st) := by
  have ht := idleKept_leavePort n h
  exact idleKept_ite (idleKept_frame ht) (idleKept_fire _ (idleKept_frame (idleKept_frame ht)))

theorem idleKept_dropJoins (d arcSt linkSt : Nat) (h : IdleKept R s t) : IdleKept R s (dropJoins t d arcSt linkSt) :=
  idleKept_foldl (fun _ _ => idleKept_linkTo _ _) _ <|
    idleKept_foldl (fun _ _ hu => idleKept_ite hu (idleKept_fire _ (idleKept_frame hu))) _ h

/-! ### Sequences and epochs -/

theorem idleKept_loseSeq (x : Status) (q : Seq) (h : IdleKept R s t) : IdleKept R s (loseSeq t x q) := by
  unfold loseSeq
  extract_lets t1
  have ht1 : IdleKept R s t1 := by
    unfold t1
    split
    · exact idleKept_finish _ _ _ h
    · exact h
  exact idleKept_ite (ht1.control (controlKept_dropSeq q (.refl t1))) ht1

theorem idleKept_tellAbort (r : EpochReq) (h : IdleKept R s t) : IdleKept R s (tellAbort t r) := by
  unfold tellAbort
  split
  · exact idleKept_finish _ _ _ h
  · exact idleKept_frame h
  · exact h

theorem idleKept_endAbort (h : IdleKept R s t) : IdleKept R s (endAbort t) :=
  idleKept_ite (idleKept_foldl (fun _ => idleKept_tellAbort) _ (idleKept_frame h)) h

theorem idleKept_abortEpoch (h : IdleKept R s t) : IdleKept R s (abortEpoch t) := idleKept_ite (idleKept_endAbort (idleKept_frame h)) h

/-! ### A die is retired (R482) -/

/-- The die `d` retired in its own registers joins those that stay retired. -/
theorem idleKept_retire {f : DieRegs → DieRegs} (hf : ∀ x, (f x).st = .retired) (d : Nat) (h : IdleKept R s t) :
    IdleKept (fun e => R e ∨ e = d) s (updDie t d f) := by
  refine ⟨h.jobs, h.resets, h.queue, fun e he => ?_⟩
  by_cases hed : e = d
  · rw [hed, get_updDie, hf]
  · rw [get_updDie_ne t f hed]
    exact h.retired e (he.resolve_right hed)

theorem idleKept_leaveService (d : Nat) (x : Status) (h : IdleKept R s t) :
    IdleKept (fun e => R e ∨ e = d) s (leaveService t d .retired x) := by
  unfold leaveService
  extract_lets t1 lost t2 t3 t4 t5 js t6 t7
  have ht1 : IdleKept R s t1 := (idleKept_ite (idleKept_endDescs _ _ h) h).control (controlKept_recallAll (.refl (hostPathLost t d)))
  have ht2 : IdleKept (fun e => R e ∨ e = d) s t2 := by
    refine idleKept_fire _ (idleKept_retire ?_ d ht1)
    exact fun _ => rfl
  have ht4 : IdleKept (fun e => R e ∨ e = d) s t4 := idleKept_endAbort <|
    (idleKept_abortEpoch (idleKept_dropJoins d 3 _ ht2)).control (controlKept_abandonPass (.refl (abortEpoch t3)))
  have ht6 : IdleKept (fun e => R e ∨ e = d) s t6 := idleKept_foldl (fun _ _ => idleKept_finish _ _ _) js (idleKept_endDescs _ _ ht4)
  exact idleKept_frame (idleKept_frame (idleKept_foldl (fun _ => idleKept_loseSeq x) lost ht6))

theorem idleKept_afterLeave (d : Nat) (h : IdleKept R s t) : IdleKept R s (afterLeave t d) := by
  refine idleKept_ite ?_ (idleKept_frame h)
  have hstate : IdleKept R s { t with glb := { t.glb with state := if t.glb.state = 1 then 3 else t.glb.state } } :=
    ⟨h.jobs, h.resets, h.queue, h.retired⟩
  exact hstate.control (controlKept_sendFog 0x05 (.refl _))

theorem idleKept_retireDie (d : Nat) (stuck : Bool) (h : IdleKept R s t) : IdleKept (fun e => R e ∨ e = d) s (retireDie t d stuck) := by
  unfold retireDie
  split
  · next hst =>
    refine ⟨h.jobs, h.resets, h.queue, fun e he => ?_⟩
    exact he.elim (h.retired e) fun hed => by rw [hed, hst]
  · extract_lets was t1 t2
    have ht2 : IdleKept R s t2 :=
      (idleKept_ite (idleKept_flog _ h) (idleKept_flog _ h)).control (controlKept_persistRetire (dieChan d) (.refl t1))
    split
    · refine idleKept_dropJoins _ _ _ (idleKept_retire ?_ d ht2)
      exact fun _ => rfl
    · exact idleKept_afterLeave d (idleKept_leaveService d .dieRetired ht2)

theorem idleKept_retireDie_keeps (d : Nat) (stuck : Bool) (h : IdleKept R s t) : IdleKept R s (retireDie t d stuck) :=
  (idleKept_retireDie d stuck h).mono fun _ => .inl

/-! ### What the tests of a die find -/

theorem idleKept_retireTile (n : Nat) (stuck : Bool) (level : Nat) (h : IdleKept R s t) : IdleKept R s (retireTile t n stuck level) := by
  unfold retireTile
  extract_lets c t1 t2
  have ht1 : IdleKept R s t1 := idleKept_ite (idleKept_flog _ h) (idleKept_flog _ h)
  have ht2 : IdleKept R s t2 := idleKept_frame (ht1.control (controlKept_persistRetire c (.refl t1)))
  exact idleKept_ite h (idleKept_ite (idleKept_retireDie_keeps _ true ht2) ht2)

theorem idleKept_bypassColumn (n : Nat) (arr : Bool) (col : Nat) (h : IdleKept R s t) : IdleKept R s (bypassColumn t n arr col) :=
  idleKept_ite h (idleKept_ite (idleKept_retireTile _ _ _ h) (idleKept_frame (idleKept_flog _ h)))

/-- A die among those that failed is retired. -/
theorem idleKept_applyTest {x : SelfTest} {d : Die} (hd : d ∈ x.failedDies) (h : IdleKept R s t) :
    IdleKept (· = d.val) s (applyTest t x) := by
  obtain ⟨l, r, hlr⟩ := List.append_of_mem hd
  unfold applyTest
  extract_lets t1 t2
  have ht2 : IdleKept R s t2 := idleKept_foldl (fun _ _ => idleKept_bypassColumn _ _ _) _ (idleKept_foldl (fun _ _ => idleKept_retireTile _ _ _) _ h)
  rw [hlr, List.foldl_append, List.foldl_cons]
  refine idleKept_foldl (fun _ _ => idleKept_retireDie_keeps _ true) r ?_
  exact (idleKept_retireDie _ true (idleKept_foldl (fun _ _ => idleKept_retireDie_keeps _ true) l ht2)).mono fun _ => .inr

theorem idleKept_startRow (d : Nat) (r : RowFix) (h : IdleKept R s t) : IdleKept R s (startRow d t r) := by
  unfold startRow
  split
  · exact idleKept_retireDie_keeps d true h
  · next n _ =>
    extract_lets t1
    have ht1 : IdleKept R s t1 := by
      refine idleKept_updDie ?_ d (idleKept_flog _ h)
      exact fun _ => rfl
    exact idleKept_ite (idleKept_frame ht1) ht1

theorem idleKept_testRows (x : SelfTest) (d : Nat) (h : IdleKept R s t) : IdleKept R s (testRows x t d) := by
  refine idleKept_updDie ?_ d (idleKept_foldl (fun _ => idleKept_startRow d) _ (idleKept_updDie ?_ d (idleKept_updDie ?_ d h)))
  · exact fun _ => rfl
  · exact fun _ => rfl
  · exact fun _ => rfl

theorem idleKept_endDieJobs (d : Nat) (x : Status) (h : IdleKept R s t) : IdleKept R s (endDieJobs t d x) := by
  rwa [endDieJobs, h.jobs, List.foldl_nil]

end

/-! ### The requests of an epoch that a reset completes (R210, R491) -/

theorem idleKept_applyReq {s t : State} (r : EpochReq) (h : IdleKept (fun _ => False) s t) :
    IdleKept (fun _ => False) s (applyReq t r) := by
  unfold applyReq
  split
  case h_1 k m job =>
    extract_lets change t1 t2
    have ht2 : IdleKept (fun _ => False) s t2 := idleKept_frame (idleKept_ite (h.control (controlKept_showSettle (.refl t))) h)
    split
    · exact idleKept_ite ht2 (idleKept_finish _ _ _ ht2)
    · exact ht2
  case h_2 d =>
    exact h.control (controlKept_relayGens (fun _ g => controlKept_relayLine d g) (controlKept_frame (controlKept_showSettle (.refl t))))
  case h_3 d =>
    extract_lets t1 t2 _ t3 _ _ _ t4
    have ht1 : IdleKept (fun _ => False) s t1 := ⟨h.jobs, h.resets, h.queue, nofun⟩
    have ht2 : IdleKept (fun _ => False) s t2 := by
      unfold t2
      rwa [ht1.jobs, List.foldl_nil]
    have ht3 : IdleKept (fun _ => False) s t3 := idleKept_ite ⟨ht2.jobs, ht2.resets, ht2.queue, nofun⟩ ht2
    have ht4 : IdleKept (fun _ => False) s t4 := idleKept_ite
      (ht3.control (controlKept_relayGens (fun _ => controlKept_relayRing) (controlKept_frame (controlKept_showSettle (.refl t3))))) ht3
    exact ht4.control (controlKept_holdConfig d (.refl t4))

end Sys2Proof.Machine
end

section
/-!
The work of a module ends (O51, R491): what a reset of level 1 or 2 does before it sets registers. `StoredFrom` says what the writes that it
leaves undefined touch, `ClearedFrom` what the end of sequences and passes touches.
-/

namespace Sys2Proof.Machine

/-! ### Writes of memory -/

/-- `t` is `s` after writes: the memories, the dies, whose caches follow, and the free counter may differ, these are as they were. -/
structure StoredFrom (s t : State) : Prop where
  tiles : t.tiles = s.tiles
  cp : t.cp = s.cp
  md : t.md = s.md
  bcn : t.bcn = s.bcn
  flt : t.flt = s.flt
  boot : t.boot = s.boot
  glb : t.glb = s.glb

theorem StoredFrom.refl (s : State) : StoredFrom s s := ⟨rfl, rfl, rfl, rfl, rfl, rfl, rfl⟩

section
variable {s t : State}

/-- A change of any other field keeps it. -/
theorem storedFrom_frame {pending mem engines dies arcs hq evr lk pw pins out free} (h : StoredFrom s t) :
    StoredFrom s ⟨pending, mem, t.tiles, engines, dies, arcs, hq, t.cp, t.md, t.bcn, evr, lk, t.flt, pw, t.boot, t.glb, pins, out, free⟩ :=
  ⟨h.tiles, h.cp, h.md, h.bcn, h.flt, h.boot, h.glb⟩

theorem storedFrom_ite {c : Prop} {_ : Decidable c} {u : State} (ht : StoredFrom s t) (hu : StoredFrom s u) :
    StoredFrom s (if c then t else u) := by
  split
  · exact ht
  · exact hu

/-- A fold whose every step only writes only writes. -/
theorem storedFrom_foldl {α : Type} {f : State → α → State} (hf : ∀ u a, StoredFrom s u → StoredFrom s (f u a)) (l : List α)
    (h : StoredFrom s t) : StoredFrom s (l.foldl f t) :=
  List.foldlRecOn l f (motive := StoredFrom s) h fun u hu a _ => hf u a hu

theorem storedFrom_storeMod (k : Nat) (l : List PByte) (h : StoredFrom s t) : StoredFrom s (storeMod t k l) :=
  storedFrom_ite h (storedFrom_ite (storedFrom_frame (storedFrom_frame h)) (storedFrom_frame h))

theorem storedFrom_storeKeys (ks : List Nat) (b : Bytes) (h : StoredFrom s t) : StoredFrom s (storeKeys t ks b) :=
  storedFrom_foldl (fun _ _ => storedFrom_storeMod _ _) _ h

theorem storedFrom_fillSws (g : Gen) (d : Nat) (h : StoredFrom s t) : StoredFrom s (fillSws t g d) :=
  storedFrom_foldl (fun _ _ hu => storedFrom_foldl (fun _ _ => storedFrom_storeMod _ _) _ hu) _ h

theorem storedFrom_reloadSws (d : Nat) (h : StoredFrom s t) : StoredFrom s (reloadSws t d) :=
  storedFrom_foldl (fun _ _ hu => storedFrom_ite (storedFrom_fillSws _ d hu) hu) _ (storedFrom_storeKeys _ _ (storedFrom_frame h))

theorem storedFrom_scrambleDest (p : DSlot) (h : StoredFrom s t) : StoredFrom s (scrambleDest t p) :=
  storedFrom_foldl (fun _ _ hu => storedFrom_frame (storedFrom_frame hu)) _ <|
    storedFrom_foldl (fun _ k hu => storedFrom_storeMod k _ (storedFrom_frame hu)) _ h

theorem storedFrom_scrambleEngine (e : Nat) (h : StoredFrom s t) : StoredFrom s (scrambleEngine t e) :=
  storedFrom_foldl (fun _ _ hu => storedFrom_foldl (fun _ => storedFrom_scrambleDest) _ hu) _ h

theorem storedFrom_scrambleEngines (l : List Nat) (h : StoredFrom s t) : StoredFrom s (l.foldl scrambleEngine t) :=
  storedFrom_foldl (fun _ => storedFrom_scrambleEngine) l h

end

/-! ### The end of sequences and passes -/

/-- `t` is `s` after sequences and passes have ended: the memories, the engines and these registers are as they were. -/
structure ClearedFrom (s t : State) : Prop where
  mem : t.mem = s.mem
  engines : t.engines = s.engines
  bcn : t.bcn = s.bcn
  evr : t.evr = s.evr
  flt : t.flt = s.flt
  pw : t.pw = s.pw
  glb : t.glb = s.glb

theorem ClearedFrom.refl (s : State) : ClearedFrom s s := ⟨rfl, rfl, rfl, rfl, rfl, rfl, rfl⟩

section
variable {s t : State}

/-- A change of any other field keeps it. -/
theorem clearedFrom_frame {pending tiles dies arcs hq cp md lk boot pins out free} (h : ClearedFrom s t) :
    ClearedFrom s ⟨pending, t.mem, tiles, t.engines, dies, arcs, hq, cp, md, t.bcn, t.evr, lk, t.flt, t.pw, boot, t.glb, pins, out, free⟩ :=
  ⟨h.mem, h.engines, h.bcn, h.evr, h.flt, h.pw, h.glb⟩

/-- A fold whose every step keeps it keeps it. -/
theorem clearedFrom_foldl {α : Type} {f : State → α → State} (hf : ∀ u a, ClearedFrom s u → ClearedFrom s (f u a)) (l : List α)
    (h : ClearedFrom s t) : ClearedFrom s (l.foldl f t) :=
  List.foldlRecOn l f (motive := ClearedFrom s) h fun u hu a _ => hf u a hu

theorem clearedFrom_dropRef (k : Nat) (n : BitVec 16) (h : ClearedFrom s t) : ClearedFrom s (dropRef t k n) := by
  rcases dropRef_cases t k n with e | ⟨b, e⟩
  · rw [e]; exact clearedFrom_frame (clearedFrom_frame h)
  · rw [e]; exact clearedFrom_frame (clearedFrom_frame (clearedFrom_frame (clearedFrom_frame h)))

theorem clearedFrom_dropSeq (q : Seq) (h : ClearedFrom s t) : ClearedFrom s (dropSeq t q) :=
  clearedFrom_dropRef _ _ (clearedFrom_frame (clearedFrom_foldl (fun _ _ => clearedFrom_frame) _ h))

theorem clearedFrom_stopPass (h : ClearedFrom s t) : ClearedFrom s (stopPass t) := by
  have href : ClearedFrom s (endPassRef t) := by
    unfold endPassRef
    extract_lets p
    split
    · exact clearedFrom_dropRef _ _ (clearedFrom_frame (clearedFrom_frame h))
    · exact h
  exact clearedFrom_frame (clearedFrom_foldl (fun _ _ => clearedFrom_frame) _ href)

theorem clearedFrom_abandonPass (h : ClearedFrom s t) : ClearedFrom s (abandonPass t) :=
  clearedFrom_foldl (fun _ _ => clearedFrom_frame) _ (clearedFrom_frame (clearedFrom_stopPass (clearedFrom_frame h)))

/-- Outside a commit no epoch request is left to complete. -/
theorem clearedFrom_resetModels (hphase : t.md.epoch.phase ≠ .committing) (h : ClearedFrom s t) : ClearedFrom s (resetModels t) := by
  unfold resetModels
  rw [if_neg hphase]
  exact clearedFrom_frame (clearedFrom_foldl (fun _ => clearedFrom_dropSeq) _ (clearedFrom_frame (clearedFrom_abandonPass h)))

end

/-! ### The end of the module's work -/

/-- A module whose commands, sequences and passes have all ended, what its engines were writing left undefined. -/
def workEnded (s : State) : State := ((resetModels (killWork s)).engines.map (·.1)).foldl scrambleEngine (resetModels (killWork s))

theorem workEnded_stored (s : State) : StoredFrom (resetModels (killWork s)) (workEnded s) := storedFrom_scrambleEngines _ (.refl _)

theorem killWork_jobs (s : State) : (killWork s).cp.jobs = [] := rfl

theorem resetModels_loops (s : State) : (resetModels s).md.loops = [] := rfl

theorem resetModels_jobs {s : State} (h : s.cp.jobs = []) : (resetModels s).cp.jobs = [] := by
  unfold resetModels
  extract_lets t u v
  have ht : IdleKept (fun _ => False) s t := idleKept_ite (idleKept_foldl (fun _ => idleKept_applyReq) _ (idleKept_start h)) (idleKept_start h)
  have hu : IdleKept (fun _ => False) s u := ht.control (controlKept_joinFreed none (controlKept_abandonPass (.refl t)))
  exact (idleKept_foldl (fun w q hw => hw.control (controlKept_dropSeq q (.refl w))) _ hu).jobs

theorem workEnded_jobs (s : State) : (workEnded s).cp.jobs = [] := by
  rw [(workEnded_stored s).cp, resetModels_jobs (killWork_jobs s)]

theorem workEnded_loops (s : State) : (workEnded s).md.loops = [] := by
  rw [(workEnded_stored s).md, resetModels_loops]

theorem killWork_idle {s : State} (hjobs : s.cp.jobs = []) (hpers : s.cp.persists = []) (hrem : s.cp.remotes = []) :
    ∃ cp lk, killWork s = { s with cp := cp, lk := lk } := by
  unfold killWork
  dsimp only
  rw [hjobs, List.foldl_nil, hrem, List.flatMap_nil, List.foldl_nil, hpers, List.foldl_nil]
  exact ⟨_, _, rfl⟩

/-- Where no command runs and no engine works, nothing is left to write or to scrub. -/
theorem clearedFrom_workEnded {s : State} (hjobs : s.cp.jobs = []) (hpers : s.cp.persists = []) (hrem : s.cp.remotes = [])
    (hengines : s.engines = []) (hphase : s.md.epoch.phase ≠ .committing) : ClearedFrom s (workEnded s) := by
  obtain ⟨cp, lk, hkill⟩ := killWork_idle hjobs hpers hrem
  have hmodels : ClearedFrom s (resetModels (killWork s)) := by
    rw [hkill]
    exact clearedFrom_resetModels hphase (clearedFrom_frame (.refl s))
  rw [workEnded, hmodels.engines, hengines]
  exact hmodels

end Sys2Proof.Machine
end

section
/-!
Reset levels 1, 2 and 4 (O51, R491, R552, R553): what each leaves and keeps.
-/

namespace Sys2Proof.Machine

theorem resetCommon_jobs (s : State) : (resetCommon s).cp.jobs = [] := by
  unfold resetCommon
  dsimp only
  rw [← workEnded, workEnded_jobs]

/-! ### Level 1 -/

theorem resetLevel1_clears (s : State) (src : Nat) : (resetLevel1 s src).hq = {} ∧ (resetLevel1 s src).cp.jobs = [] ∧
    (resetLevel1 s src).engines = [] ∧ (resetLevel1 s src).evr.hostqs = [] ∧ (resetLevel1 s src).glb.state = 0 ∧
    (resetLevel1 s src).bcn.mbar = [] ∧ (resetLevel1 s src).md.loops = [] := by
  unfold resetLevel1 resetCommon
  dsimp only
  rw [← workEnded]
  exact ⟨rfl, workEnded_jobs _, rfl, rfl, rfl, rfl, workEnded_loops _⟩

/-- In a quiet module level 1 keeps module memory, the policy and what reports show. -/
theorem resetLevel1_keeps {s : State} (src : Nat) (hjobs : s.cp.jobs = []) (hpers : s.cp.persists = []) (hengines : s.engines = [])
    (hphase : s.md.epoch.phase = .none) (hrem : s.cp.remotes = []) : (resetLevel1 s src).mem = s.mem ∧
      (resetLevel1 s src).pw.policyCap = s.pw.policyCap ∧ (resetLevel1 s src).pw.borrow = s.pw.borrow ∧
      (resetLevel1 s src).evr.srcs = s.evr.srcs ∧ (resetLevel1 s src).bcn.local_ = s.bcn.local_ ∧
      (resetLevel1 s src).bcn.lateRel = s.bcn.lateRel ∧ (resetLevel1 s src).glb.rcLevel = 1 ∧
      (resetLevel1 s src).glb.rcSource = src ∧ (resetLevel1 s src).flt = s.flt := by
  have hphase' : s.md.epoch.phase ≠ .committing := by rw [hphase]; exact nofun
  have h : ClearedFrom (noteReset s 1 src 0) (workEnded (noteReset s 1 src 0)) := clearedFrom_workEnded hjobs hpers hrem hengines hphase'
  unfold resetLevel1 resetCommon
  dsimp only
  rw [← workEnded, h.mem, h.pw, h.evr, h.bcn, h.glb, h.flt]
  exact ⟨rfl, rfl, rfl, rfl, rfl, rfl, rfl, rfl, rfl⟩

/-! ### The boot ROM (R519, R526) -/

/-- What the boot ROM leaves, whether the image starts or the module waits in recovery. -/
structure RomKept (s t : State) : Prop where
  mem : t.mem = s.mem
  tiles : t.tiles = s.tiles
  engines : t.engines = s.engines
  cp : t.cp = s.cp
  bcn : t.bcn = s.bcn
  evr : t.evr = s.evr
  lk : t.lk = s.lk
  flt : t.flt = s.flt
  bootEpoch : t.boot.bootEpoch = s.boot.bootEpoch
  cause : t.glb.rcLevel = s.glb.rcLevel ∧ t.glb.rcSource = s.glb.rcSource ∧ t.glb.rcFatal = s.glb.rcFatal
  ready : s.hq.ready = false → t.hq.ready = false

theorem romKept_refl (s : State) : RomKept s s := ⟨rfl, rfl, rfl, rfl, rfl, rfl, rfl, rfl, rfl, ⟨rfl, rfl, rfl⟩, id⟩

theorem romKept_enterRecovery (s : State) (cause : Nat) : RomKept s (enterRecovery s cause) := by
  unfold enterRecovery setBoot
  exact ⟨rfl, rfl, rfl, rfl, rfl, rfl, rfl, rfl, rfl, ⟨rfl, rfl, rfl⟩, fun _ => rfl⟩

theorem romKept_romStage (s : State) : RomKept s (romStage s) := by
  unfold romStage
  split
  · exact romKept_enterRecovery s 3
  · split
    · exact romKept_enterRecovery s 1
    · split
      · exact romKept_enterRecovery s 2
      · exact ⟨rfl, rfl, rfl, rfl, rfl, rfl, rfl, rfl, rfl, ⟨rfl, rfl, rfl⟩, id⟩

/-! ### Level 2 -/

/-- Links that are dropped fire their events; besides, only the links change. -/
theorem dropLinks_eq (s : State) : ∃ lk evr, dropLinks s = { s with lk := lk, evr := evr } ∧ lk.joined = false := by
  unfold dropLinks
  extract_lets gone t
  refine List.foldlRecOn gone _ (motive := fun u : State => ∃ lk evr, u = { s with lk := lk, evr := evr } ∧ lk.joined = false)
    ⟨_, s.evr, rfl, rfl⟩ fun u hu n _ => ?_
  obtain ⟨lk, evr, rfl, hlk⟩ := hu
  unfold fire fireN
  split
  · exact ⟨lk, _, rfl, hlk⟩
  · exact ⟨lk, evr, rfl, hlk⟩

theorem resetLevel2_clears (s : State) (src f : Nat) (b : Bool) : (resetLevel2 s src f b).hq.ready = false ∧
    (resetLevel2 s src f b).cp.jobs = [] ∧ (resetLevel2 s src f b).engines = [] ∧ (resetLevel2 s src f b).mem.fill = [] ∧
    (resetLevel2 s src f b).lk.joined = false ∧ (resetLevel2 s src f b).bcn.cbar = [] ∧ (resetLevel2 s src f b).evr.keepers = [] := by
  unfold resetLevel2
  extract_lets s1 s2
  obtain ⟨lk, evr, h, hlk⟩ := dropLinks_eq (resetCommon (noteReset s1 2 src f))
  have hs2 : s2 = { resetCommon (noteReset s1 2 src f) with lk := lk, evr := evr } := h
  rw [(romKept_romStage _).cp, (romKept_romStage _).engines, (romKept_romStage _).mem, (romKept_romStage _).lk, (romKept_romStage _).bcn,
    (romKept_romStage _).evr, hs2]
  refine ⟨(romKept_romStage _).ready rfl, ?_, rfl, rfl, hlk, rfl, rfl⟩
  dsimp only
  rw [resetCommon_jobs]

/-! ### Level 4 -/

/-- A fog message leaves what a cold reset reads, but for the log. -/
theorem fogIfJoined_keeps (s : State) (cause : Nat) : ∃ out evr flt, fogIfJoined s cause = { s with out := out, evr := evr, flt := flt } ∧
    flt.retired = s.flt.retired := by
  unfold fogIfJoined
  split
  · unfold fogOut
    split
    · exact ⟨s.out, s.evr, s.flt, rfl, rfl⟩
    · unfold sendFog flog fire fireN
      dsimp only
      split
      · split
        · exact ⟨_, _, _, rfl, rfl⟩
        · exact ⟨_, _, _, rfl, rfl⟩
      · split
        · exact ⟨_, _, _, rfl, rfl⟩
        · exact ⟨_, _, _, rfl, rfl⟩
  · exact ⟨s.out, s.evr, s.flt, rfl, rfl⟩

theorem get_foldl_set {α : Type} [Inhabited α] [DecidableEq α] (p : Nat → Bool) (v : α) {n : Nat} (hp : p n = true) (l : List Nat)
    (t : Tbl α) (h : n ∈ l ∨ Tbl.get t n = v) : Tbl.get (l.foldl (fun t k => if p k then Tbl.set t k v else t) t) n = v := by
  induction l generalizing t with
  | nil => exact h.resolve_left List.not_mem_nil
  | cons k l ih =>
    refine ih _ ?_
    dsimp only
    by_cases hk : n = k
    · subst hk
      exact .inr (by rw [if_pos hp, Tbl.get_set_self])
    · refine h.imp (fun hmem => (List.mem_cons.mp hmem).resolve_left hk) fun ht => ?_
      split
      · rw [Tbl.get_set_ne _ _ _ hk, ht]
      · exact ht

/-- The links of a die with a retirement record stay retired. -/
theorem coldState_links {s : State} {n : Nat} (hn : n < 24) (hret : s.flt.retired.contains (dieChan (n / 3)) = true) :
    ((coldState s).lk.links.get n).st = 5 :=
  congrArg Link.st (get_foldl_set (fun k => s.flt.retired.contains (dieChan (k / 3))) ({ st := 5 } : Link) hret (List.range 24) []
    (.inl (List.mem_range.mpr hn)))

/-- The module whose reset is noted and whose engines' writes are left undefined. -/
def coldBegun (s : State) (src fatal : Nat) : State := (s.engines.map (·.1)).foldl scrambleEngine (noteReset s 4 src fatal)

theorem coldBegun_stored (s : State) (src fatal : Nat) : StoredFrom (noteReset s 4 src fatal) (coldBegun s src fatal) :=
  storedFrom_scrambleEngines _ (.refl _)

/-- The module of a cold reset before its boot ROM may run. -/
def coldReady (s : State) (src fatal : Nat) : State :=
  setGlb (coldState (coldBegun s src fatal)) fun g => { g with reset := some ⟨4, 0, src⟩ }

theorem romKept_held (s : State) : RomKept s (if s.pins.pllHold then s else romStage s) := by
  split
  · exact romKept_refl s
  · exact romKept_romStage s

/-- The module after the fog message, if any, of a cold reset. -/
def coldFogged (s : State) (fog : Bool) : State := if fog then fogIfJoined s 0x08 else s

theorem resetLevel4_romKept (s : State) (src fatal : Nat) (fog : Bool) :
    RomKept (coldReady (coldFogged s fog) src fatal) (resetLevel4 s src fatal fog) := by
  unfold resetLevel4
  dsimp only
  rw [← coldFogged, ← coldBegun, ← coldReady]
  exact romKept_held _

theorem coldReady_clears (s : State) (src f : Nat) : (coldReady s src f).cp.jobs = [] ∧ (coldReady s src f).hq.ready = false ∧
    (coldReady s src f).tiles = [] ∧ (coldReady s src f).engines = [] ∧ (coldReady s src f).mem.mod = [] := ⟨rfl, rfl, rfl, rfl, rfl⟩

theorem coldReady_keeps (s : State) (src f : Nat) : (coldReady s src f).glb.rcLevel = 4 ∧ (coldReady s src f).glb.rcSource = src ∧
    (coldReady s src f).glb.rcFatal = BitVec.ofNat 8 f ∧ (coldReady s src f).bcn.local_ = s.bcn.local_ ∧
    (coldReady s src f).boot.bootEpoch = s.boot.bootEpoch ∧ (coldReady s src f).flt.retired = s.flt.retired := by
  have h := coldBegun_stored s src f
  unfold coldReady coldState coldBoot coldFaults setGlb
  dsimp only
  rw [h.glb, h.bcn, h.boot, h.flt]
  exact ⟨rfl, rfl, rfl, rfl, rfl, rfl⟩

theorem coldReady_links {s : State} {n : Nat} (src f : Nat) (hn : n < 24) (hret : s.flt.retired.contains (dieChan (n / 3)) = true) :
    ((coldReady s src f).lk.links.get n).st = 5 := by
  refine coldState_links hn ?_
  rw [(coldBegun_stored s src f).flt]
  exact hret

theorem coldReady_host {s : State} (src f : Nat) (hengines : s.engines = []) : (coldReady s src f).mem.host = s.mem.host := by
  have h : coldBegun s src f = noteReset s 4 src f := by rw [coldBegun, hengines, List.map_nil, List.foldl_nil]
  rw [coldReady, h]
  rfl

theorem coldFogged_keeps (s : State) (fog : Bool) : (coldFogged s fog).mem = s.mem ∧ (coldFogged s fog).engines = s.engines ∧
    (coldFogged s fog).bcn = s.bcn ∧ (coldFogged s fog).boot = s.boot ∧ (coldFogged s fog).flt.retired = s.flt.retired := by
  unfold coldFogged
  split
  · obtain ⟨_, _, _, h, hret⟩ := fogIfJoined_keeps s 0x08
    rw [h]
    exact ⟨rfl, rfl, rfl, rfl, hret⟩
  · exact ⟨rfl, rfl, rfl, rfl, rfl⟩

theorem resetLevel4_clears (s : State) (src f : Nat) (b : Bool) : (resetLevel4 s src f b).cp.jobs = [] ∧
    (resetLevel4 s src f b).hq.ready = false ∧ (resetLevel4 s src f b).tiles = [] ∧ (resetLevel4 s src f b).engines = [] ∧
    (resetLevel4 s src f b).mem.mod = [] ∧ (resetLevel4 s src f b).glb.rcLevel = 4 ∧ (resetLevel4 s src f b).glb.rcSource = src ∧
    (resetLevel4 s src f b).glb.rcFatal = BitVec.ofNat 8 f ∧ (resetLevel4 s src f b).bcn.local_ = s.bcn.local_ ∧
    (resetLevel4 s src f b).boot.bootEpoch = s.boot.bootEpoch ∧ (resetLevel4 s src f b).flt.retired = s.flt.retired ∧
    (∀ n, n < 24 → s.flt.retired.contains (dieChan (n / 3)) = true → ((resetLevel4 s src f b).lk.links.get n).st = 5) ∧
    (s.engines = [] → (resetLevel4 s src f b).mem.host = s.mem.host) := by
  obtain ⟨hmem, heng, hbcn, hboot, hret⟩ := coldFogged_keeps s b
  have hrom := resetLevel4_romKept s src f b
  obtain ⟨hjobs, hready, htiles, hengines, hmod⟩ := coldReady_clears (coldFogged s b) src f
  obtain ⟨hlevel, hsource, hfatal, hlocal, hepoch, hrets⟩ := coldReady_keeps (coldFogged s b) src f
  obtain ⟨clevel, csource, cfatal⟩ := hrom.cause
  rw [hrom.cp, hrom.tiles, hrom.engines, hrom.mem, hrom.bcn, hrom.bootEpoch, hrom.flt, hrom.lk, clevel, csource, cfatal, ← hbcn, ← hboot, ← hret,
    ← hmem, ← heng]
  exact ⟨hjobs, hrom.ready hready, htiles, hengines, hmod, hlevel, hsource, hfatal, hlocal, hepoch, hrets,
    fun n hn hr => coldReady_links src f hn hr, coldReady_host src f⟩

end Sys2Proof.Machine
end

section
/-!
Requests for a reset and the reset of one die (O51, R391, R492, R552): who is heard, how a die reset begins, and how it ends.
-/

namespace Sys2Proof.Machine

/-! ### Requests (R552) -/

section
variable {s : State} {src : ResetSource}

theorem functionLevelReset_refused (h : glbRefuses s src = true) : exec (.functionLevelReset src) s = .next (countIgnored s) := if_pos h

theorem functionLevelReset_outranked (h : glbRefuses s src = false) (hrank : resetRefused s 1 = true) :
    exec (.functionLevelReset src) s = .next s := (if_neg (ne_true_of_eq_false h)).trans (if_pos hrank)

theorem functionLevelReset_resets (h : glbRefuses s src = false) (hrank : resetRefused s 1 = false) :
    exec (.functionLevelReset src) s = .next (resetLevel1 s (sourceCode src).1) :=
  (if_neg (ne_true_of_eq_false h)).trans (if_neg (ne_true_of_eq_false hrank))

theorem warmReset_refused (h : glbRefuses s src = true) : exec (.warmReset src) s = .next (countIgnored s) := if_pos h

theorem warmReset_outranked (h : glbRefuses s src = false) (hrank : resetRefused s 2 = true) : exec (.warmReset src) s = .next s :=
  (if_neg (ne_true_of_eq_false h)).trans (if_pos hrank)

theorem warmReset_resets (h : glbRefuses s src = false) (hrank : resetRefused s 2 = false) :
    exec (.warmReset src) s = .next (resetLevel2 s (sourceCode src).1 (sourceCode src).2 true) :=
  (if_neg (ne_true_of_eq_false h)).trans (if_neg (ne_true_of_eq_false hrank))

theorem glbRefuses_glbReset (h : s.hq.ready = false) : glbRefuses s .glbReset = true := by simp [glbRefuses, h]

theorem dieReset_refused (h : glbRefuses s src = true) (d : Die) : exec (.dieReset d src) s = .next (countIgnored s) :=
  if_pos (by rw [h, Bool.true_or])

theorem coldReset_outranked (hsrc : src ≠ .faultNotReady) (hrank : resetRefused s 4 = true) : exec (.coldReset src) s = .next s :=
  if_pos (by simp [hrank, hsrc])

theorem resetRefused_unpowered (h : powered s = false) (level : Nat) : resetRefused s level = true := by simp [resetRefused, h]

theorem coldReset_resets (hsrc : src ≠ .faultNotReady) (hrank : resetRefused s 4 = false) :
    exec (.coldReset src) s = .next (resetLevel4 s (sourceCode src).1 (sourceCode src).2 (src ≠ .pllLoss)) := by
  have hpower : powered s = true := eq_true_of_ne_false fun h => ne_true_of_eq_false hrank (resetRefused_unpowered h 4)
  have hnote : noteBootFault s src = s := if_neg hsrc
  refine (if_neg (by simp [hrank])).trans ((if_neg (by simp [hpower, hsrc])).trans ?_)
  rw [hnote]

/-! ### A fault while READY is 0 (R391) -/

theorem coldReset_ready (h : s.hq.ready = true) : exec (.coldReset .faultNotReady) s = .next s :=
  (if_neg (by simp)).trans (if_pos (by simp [h]))

theorem coldReset_fault (hpower : s.pins.hotSwap = true) (h : s.hq.ready = false) :
    exec (.coldReset .faultNotReady) s = .next (resetLevel4 (noteBootFault s .faultNotReady) 5 0 true) :=
  (if_neg (by simp)).trans ((if_neg (by simp [powered, hpower, h])).trans rfl)

theorem noteBootFault_mem (s : State) : (noteBootFault s .faultNotReady).mem = s.mem := by
  rw [noteBootFault, if_pos rfl, setFlt_mem, flog, fire_mem]

theorem noteBootFault_counts (hflash : s.pins.alert = false) : (noteBootFault s .faultNotReady).flt.bootFaults = s.flt.bootFaults + 1 := by
  have hopen : flashOpen s = true := by simp [flashOpen, hflash]
  have hlog : (flog s { kind := 10 }).flt.bootFaults = s.flt.bootFaults := by rw [flog, fire_flt]
  rw [noteBootFault, if_pos rfl, setFlt_flt, if_pos hopen, hlog]

end

/-! ### A die reset begins or waits (R492) -/

section
variable {s : State} {d : Die} {src : ResetSource} (hpower : s.pins.hotSwap = true) (hglb : glbRefuses s src = false)
  (hreset : s.glb.reset = none) (hst : (s.dies.get d.val).st ≠ .retired)
include hpower hglb hreset hst

theorem dieReset_queues (hin : d.val ∉ s.glb.dieResets) (hq : d.val ∉ s.glb.dieResetQ) : exec (.dieReset d src) s =
    .next (nextDieReset (setGlb s fun g => { g with dieResetQ := g.dieResetQ ++ [d.val] }) (sourceCode src).1) := by
  refine (if_neg (by simp [hglb, hst])).trans (congrArg Host.Outcome.next ?_)
  exact if_neg (by simp [powered, hpower, hreset, hst, hin, hq])

theorem dieReset_begins (hnone : s.glb.dieResets = []) (hq : s.glb.dieResetQ = []) : exec (.dieReset d src) s =
    .next (startDieReset (setGlb s fun g => { g with dieResetQ := g.dieResetQ ++ [d.val] }) d.val (sourceCode src).1) := by
  rw [dieReset_queues hpower hglb hreset hst (by rw [hnone]; exact List.not_mem_nil) (by rw [hq]; exact List.not_mem_nil), nextDieReset,
    if_neg (by simp [setGlb, hnone, hreset])]
  simp only [setGlb, hq, List.nil_append, sortBy, insertBy]

theorem dieReset_waits {e : Nat} {r : List Nat} (hbusy : s.glb.dieResets = e :: r) (hin : d.val ∉ s.glb.dieResets)
    (hq : d.val ∉ s.glb.dieResetQ) :
    exec (.dieReset d src) s = .next { s with glb := { s.glb with dieResetQ := s.glb.dieResetQ ++ [d.val] } } := by
  rw [dieReset_queues hpower hglb hreset hst hin hq, nextDieReset, if_pos (by simp [setGlb, hbusy])]
  rfl

end

theorem clearDie_st (s : State) (d : Nat) : ((clearDie s d).dies.get d).st = .reset3 := by
  unfold clearDie
  rw [rePool, setPw_dies]
  dsimp only
  rw [Tbl.get_upd_self]

/-- A die whose reset begins is out of service, and its reset in progress. -/
theorem startDieReset_begins (s : State) (d src : Nat) :
    ((startDieReset s d src).dies.get d).st = .reset3 ∧ d ∈ (startDieReset s d src).glb.dieResets := by
  unfold startDieReset
  refine ⟨?_, List.mem_append_right _ (List.mem_singleton_self d)⟩
  rw [setGlb_dies, clearDie_st]

/-! ### A die reset ends (R492) -/

theorem nextDieReset_none {s : State} (h : s.glb.dieResetQ = []) (src : Nat) : nextDieReset s src = s := by
  unfold nextDieReset
  split
  · rfl
  · rw [h]
    rfl

/-- The die is no longer in its reset. -/
def resetOver (s : State) (d : Nat) : State := setGlb s fun g => { g with dieResets := g.dieResets.filter (· ≠ d) }

/-- The die with what its tests found. -/
def dieTested (s : State) (d : Nat) (t : SelfTest) : State := testRows (testOf t d) (applyTest (resetOver s d) (testOf t d)) d

/-- The die asks to come back into the topology. -/
def rejoinAsked (s : State) (d : Nat) : State :=
  setMd (reloadSws s d) fun m => { m with epoch := { m.epoch with waiting := m.epoch.waiting ++ [.rejoin d] } }

section
variable {s : State} {d : Die} {t : SelfTest}

theorem dieResetComplete_idle (h : d.val ∉ s.glb.dieResets) : exec (.dieResetComplete d t) s = .next s := if_pos (by simp [h])

section
variable (hin : d.val ∈ s.glb.dieResets)
include hin

theorem dieResetComplete_rejoins (hst : ((dieTested s d.val t).dies.get d.val).st ≠ .retired)
    (hq : (rejoinAsked (dieTested s d.val t) d.val).glb.dieResetQ = []) :
    exec (.dieResetComplete d t) s = .next (rejoinAsked (dieTested s d.val t) d.val) := by
  change execDieResetComplete d t s = _
  unfold execDieResetComplete
  refine (if_neg (by simp [hin])).trans (congrArg Host.Outcome.next ?_)
  dsimp only
  rw [← resetOver, ← dieTested, if_pos hst, ← rejoinAsked, nextDieReset_none hq]

theorem dieResetComplete_retires (hst : ((dieTested s d.val t).dies.get d.val).st = .retired)
    (hq : (endDieJobs (dieTested s d.val t) d.val .dieRetired).glb.dieResetQ = []) :
    exec (.dieResetComplete d t) s = .next (endDieJobs (dieTested s d.val t) d.val .dieRetired) := by
  change execDieResetComplete d t s = _
  unfold execDieResetComplete
  refine (if_neg (by simp [hin])).trans (congrArg Host.Outcome.next ?_)
  dsimp only
  rw [← resetOver, ← dieTested, if_neg (not_not_intro hst), nextDieReset_none hq]

end

end

/-! ### Tests that find nothing (R148, R521) -/

/-- The reads of swept rows, and the writes that lay them again, are writes to module memory. -/
theorem modWrites_storeKeys (s : State) (ks : List Nat) (b : Bytes) : ModWrites s (storeKeys s ks b) :=
  .foldl (fun t _ => modWrites_storeMod t _ _) _ s

theorem modWrites_fillSws (s : State) (g : Gen) (d : Nat) : ModWrites s (fillSws s g d) :=
  .foldl (fun t _ => .foldl (fun u _ => modWrites_storeMod u _ _) _ t) _ s

theorem modWrites_ite {c : Prop} {_ : Decidable c} {s t u : State} (ht : ModWrites s t) (hu : ModWrites s u) : ModWrites s (if c then t else u) := by
  split
  · exact ht
  · exact hu

theorem reloadSws_host (s : State) (d : Nat) : (reloadSws s d).mem.host = s.mem.host := by
  have h : ModWrites s (reloadSws s d) := by
    unfold reloadSws
    extract_lets own ks f t
    have ht : ModWrites s t := (ModWrites.mk rfl rfl rfl : ModWrites s f.2).trans (modWrites_storeKeys f.2 ks f.1)
    exact ht.trans (.foldl (fun u _ => modWrites_ite (modWrites_fillSws u _ d) (.refl u)) _ t)
  exact h.host

theorem controlKept_fillSws {s t : State} (g : Gen) (d : Nat) (h : ControlKept s t) : ControlKept s (fillSws t g d) :=
  controlKept_foldl (fun _ _ hu => controlKept_foldl (fun _ _ => controlKept_storeMod _ _) _ hu) _ h

theorem controlKept_reloadSws {s t : State} (d : Nat) (h : ControlKept s t) : ControlKept s (reloadSws t d) :=
  controlKept_foldl (fun _ _ hu => controlKept_ite (controlKept_fillSws _ d hu) hu) _ (controlKept_storeKeys _ _ (controlKept_frame h))

/-- Tests that find nothing on a die whose spare rows are all usable change only what its registers show of the rows. -/
theorem testRows_clean {u : State} {e : Nat} (hspares : (u.dies.get e).badSpares = []) :
    ControlKept u (testRows ⟨[], [], [], [], []⟩ u e) ∧ StoredFrom u (testRows ⟨[], [], [], [], []⟩ u e) ∧
    (testRows ⟨[], [], [], [], []⟩ u e).mem = u.mem := by
  unfold testRows
  extract_lets key mine s1 x spoilt found s2
  have hbad : x.badSpares = [] := by
    simp only [x, s1, mine, updDie, Tbl.get_upd_self, hspares, List.filter_nil, List.map_nil, List.append_nil, List.eraseDups_nil]
  have hrows : x.rowMap.filter spoilt ++ found = [] :=
    List.append_eq_nil_iff.2 ⟨List.filter_eq_nil_iff.2 fun q _ => by simp [spoilt, hbad], rfl⟩
  have hs1 : ControlKept u s1 := by
    refine controlKept_updDie ?_ e (.refl u)
    exact fun _ => rfl
  have hs2 : ControlKept u s2 := by
    refine controlKept_updDie ?_ e hs1
    exact fun _ => rfl
  rw [hrows, List.foldl_nil]
  refine ⟨controlKept_updDie ?_ e hs2, storedFrom_frame (storedFrom_frame (storedFrom_frame (.refl u))), rfl⟩
  exact fun _ => rfl

section
variable {s : State} {d : Die} {t : SelfTest}

section
variable (htest : testOf t d.val = ⟨[], [], [], [], []⟩) (hspares : (s.dies.get d.val).badSpares = [])
include htest hspares

theorem dieTested_clean : ControlKept (resetOver s d.val) (dieTested s d.val t) ∧ StoredFrom (resetOver s d.val) (dieTested s d.val t) ∧
    (dieTested s d.val t).mem = s.mem := by
  have htested : dieTested s d.val t = testRows ⟨[], [], [], [], []⟩ (resetOver s d.val) d.val := by
    rw [dieTested, htest]
    rfl
  rw [htested]
  exact testRows_clean (u := resetOver s d.val) hspares

/-- A die whose tests find nothing asks to come back. -/
theorem rejoinAsked_clean {u : State} (hu : u = rejoinAsked (dieTested s d.val t) d.val) :
    u.glb = { s.glb with dieResets := s.glb.dieResets.filter (· ≠ d.val) } ∧
    u.md = { s.md with epoch := { s.md.epoch with waiting := s.md.epoch.waiting ++ [.rejoin d.val] } } ∧
    (u.dies.get d.val).st = (s.dies.get d.val).st ∧ u.cp = s.cp ∧ u.flt = s.flt ∧ u.tiles = s.tiles ∧ u.mem.host = s.mem.host := by
  obtain ⟨hctl, hstored, hmem⟩ := dieTested_clean htest hspares
  have hreload := storedFrom_reloadSws d.val hstored
  have hst := (controlKept_reloadSws d.val hctl).dieSt d.val
  have hhost := reloadSws_host (dieTested s d.val t) d.val
  rw [hmem] at hhost
  rw [rejoinAsked, setMd] at hu
  generalize reloadSws (dieTested s d.val t) d.val = v at hu hreload hst hhost
  subst hu
  refine ⟨hreload.glb, ?_, hst, hreload.cp, hreload.flt, hreload.tiles, hhost⟩
  dsimp only
  rw [hreload.md]
  rfl

theorem dieResetComplete_passed (hin : d.val ∈ s.glb.dieResets) (hq : s.glb.dieResetQ = []) (hst : (s.dies.get d.val).st = .reset3) :
    ∃ u, exec (.dieResetComplete d t) s = .next u ∧ u.glb = { s.glb with dieResets := s.glb.dieResets.filter (· ≠ d.val) } ∧
      u.md = { s.md with epoch := { s.md.epoch with waiting := s.md.epoch.waiting ++ [.rejoin d.val] } } ∧ (u.dies.get d.val).st = .reset3 ∧
      u.cp = s.cp ∧ u.flt = s.flt ∧ u.tiles = s.tiles ∧ u.mem.host = s.mem.host := by
  obtain ⟨hctl, _⟩ := dieTested_clean htest hspares
  have htested : ((dieTested s d.val t).dies.get d.val).st = .reset3 := (hctl.dieSt d.val).trans hst
  obtain ⟨hglb, hmd, hdie, hrest⟩ := rejoinAsked_clean htest hspares rfl
  exact ⟨_, dieResetComplete_rejoins hin (by simp [htested]) (by rw [hglb]; exact hq), hglb, hmd, hdie.trans hst, hrest⟩

end

/-! ### Tests that fail the die (R149, R521) -/

theorem idleKept_dieTested (hjobs : s.cp.jobs = []) (hfail : d ∈ t.failedDies) :
    IdleKept (· = d.val) (resetOver s d.val) (dieTested s d.val t) :=
  idleKept_testRows _ _ (idleKept_applyTest (List.mem_filter.2 ⟨hfail, decide_eq_true rfl⟩) (idleKept_start (s := resetOver s d.val) hjobs))

theorem dieResetComplete_failed (hin : d.val ∈ s.glb.dieResets) (hq : s.glb.dieResetQ = []) (hjobs : s.cp.jobs = []) (hfail : d ∈ t.failedDies) :
    ∃ u, exec (.dieResetComplete d t) s = .next u ∧ (u.dies.get d.val).st = .retired ∧ d.val ∉ u.glb.dieResets := by
  have htested := idleKept_dieTested hjobs hfail
  have hended := idleKept_endDieJobs d.val .dieRetired htested
  refine ⟨_, dieResetComplete_retires hin (htested.retired d.val rfl) (hended.queue.trans hq), hended.retired d.val rfl, ?_⟩
  rw [hended.resets]
  simp [resetOver, setGlb]

end

/-- Settles O51: a request resets the module, is outranked or counted as its rank and its source say, the levels clear and keep what their
lemmas list, and a die reset begins, waits, and ends with the die's return or its retirement. -/
theorem resetsKeepAndClear : Obligations.ResetsKeepAndClear := by
  unfold Obligations.ResetsKeepAndClear
  have hfault (s : State) (hpower : s.pins.hotSwap = true) (hready : s.hq.ready = false) (hflash : s.pins.alert = false) :
      ∃ v, v.flt.bootFaults = s.flt.bootFaults + 1 ∧ v.mem = s.mem ∧
        exec (.coldReset .faultNotReady) s = .next (resetLevel4 v 5 0 true) :=
    ⟨noteBootFault s .faultNotReady, noteBootFault_counts hflash, noteBootFault_mem s, coldReset_fault hpower hready⟩
  have hcounted (s : State) (hready : s.hq.ready = false) : exec (.functionLevelReset .glbReset) s = .next (countIgnored s) ∧
      exec (.warmReset .glbReset) s = .next (countIgnored s) ∧ (∀ d, exec (.dieReset d .glbReset) s = .next (countIgnored s)) :=
    have h := glbRefuses_glbReset hready
    ⟨functionLevelReset_refused h, warmReset_refused h, dieReset_refused h⟩
  have hbegins (s : State) (d : Die) (src : ResetSource) (hpower : s.pins.hotSwap = true) (hglb : glbRefuses s src = false)
      (hreset : s.glb.reset = none) (hst : (s.dies.get d.val).st ≠ .retired) (hnone : s.glb.dieResets = []) (hq : s.glb.dieResetQ = []) :
      ∃ u, exec (.dieReset d src) s = .next u ∧ (u.dies.get d.val).st = .reset3 ∧ d.val ∈ u.glb.dieResets :=
    ⟨_, dieReset_begins hpower hglb hreset hst hnone hq, startDieReset_begins _ d.val _⟩
  exact ⟨fun _ _ => functionLevelReset_resets, fun _ _ => warmReset_resets, fun _ _ => coldReset_resets, hfault,
    fun _ _ => functionLevelReset_outranked, fun _ _ => warmReset_outranked, fun _ _ => coldReset_outranked, fun _ => coldReset_ready, hcounted,
    resetLevel1_clears, fun _ src hjobs hpers hengines _ _ hphase _ hrem _ => resetLevel1_keeps src hjobs hpers hengines hphase hrem,
    resetLevel2_clears, resetLevel4_clears, hbegins,
    fun _ _ _ _ _ hpower hglb hreset hst => dieReset_waits hpower hglb hreset hst,
    fun _ _ _ hin hq hst htest hspares => dieResetComplete_passed htest hspares hin hq hst,
    fun _ _ _ => dieResetComplete_failed, fun _ _ _ => dieResetComplete_idle⟩

end Sys2Proof.Machine
end

section
/-!
Every step answers a next state (O60). What a command answers is a tree of branches over next states: `Answers` says so of an answer,
one rule holds for each shared form of a command (a gated register write, an entry of a stream, a TOD, a descriptor), and a command
with a form of its own has one lemma that follows its branches. Files are in the order of the model's.
-/

namespace Sys2Proof.Machine

/-- An answer that is a next state: neither a fault nor a refusal. -/
def Answers (a : Ans) : Prop := ∃ t, a = .next t

/-! ### The forms that commands share -/

theorem answers_next (t : State) : Answers (.next t) := ⟨t, rfl⟩

theorem answers_ite {c : Prop} {_ : Decidable c} {a b : Ans} (ha : Answers a) (hb : Answers b) : Answers (if c then a else b) := by
  split
  · exact ha
  · exact hb

/-- A command with one condition. -/
theorem answers_branch {c : Prop} {_ : Decidable c} {t u : State} : Answers (if c then .next t else .next u) :=
  answers_ite (answers_next t) (answers_next u)

theorem answers_gate {on : Bool} {s : State} {a : Ans} (ha : Answers a) : Answers (gate on s a) := answers_ite ha (answers_next s)

/-- A gated write of a register that is always taken. -/
theorem answers_gated {on : Bool} {s t : State} : Answers (gate on s (.next t)) := answers_gate (answers_next t)

section
variable {s : State}

theorem answers_startEntry {opc st : Nat} {run : JobRef → Bytes → State → State} : Answers (startEntry opc st run s) := by
  unfold startEntry
  split
  · exact answers_next _
  · split
    · exact answers_next _
    · exact answers_branch

theorem answers_runTod {opc t n : Nat} {go : TodSlot → State → State} : Answers (runTod opc t n go s) := by
  unfold runTod
  split
  · exact answers_next _
  · refine answers_ite (answers_next _) (answers_ite (answers_next _) (answers_ite (answers_next _) (answers_ite (answers_next _)
      (answers_ite (answers_next _) (answers_ite (answers_next _) ?_)))))
    split
    · exact answers_next _
    · exact answers_next _

theorem answers_runDesc {opc e ch : Nat} : Answers (runDesc opc e ch s) := by
  unfold runDesc
  refine answers_ite (answers_next _) ?_
  split
  · refine answers_ite (answers_next _) ?_
    split
    · exact answers_next _
    · exact answers_next _
    · exact answers_next _
  · exact answers_ite (answers_next _) answers_branch

/-! ### Streams and the host queue -/

theorem answers_execQueueEnable : Answers (execQueueEnable s) := answers_gate (answers_ite (answers_next _) answers_branch)

theorem answers_execHostRegionWrite {r a} : Answers (execHostRegionWrite r a s) := answers_gate answers_branch

theorem answers_execFenceRegisterWrite {f val v} : Answers (execFenceRegisterWrite f val v s) := answers_gate answers_branch

theorem answers_execCompletionWrite {st} : Answers (execCompletionWrite st s) := by
  unfold execCompletionWrite
  split
  · exact answers_next _
  · exact answers_branch

theorem answers_execWaitTimeout {st} : Answers (execWaitTimeout st s) := by
  unfold execWaitTimeout
  split
  · split
    · exact answers_branch
    · exact answers_next _
  · exact answers_next _

theorem answers_execDma {st de ch} : Answers (execDma st de ch s) := by
  unfold execDma
  split
  · exact answers_next _
  · exact answers_ite (answers_next _) answers_startEntry

theorem answers_execKernel {st} : Answers (execKernel st s) := by
  unfold execKernel
  split
  · exact answers_ite (answers_next _) (answers_ite (answers_next _) answers_startEntry)
  · exact answers_next _

theorem answers_execWatchdogExpiry {st} : Answers (execWatchdogExpiry st s) := by
  unfold execWatchdogExpiry
  split
  · exact answers_branch
  · exact answers_next _

/-! ### Tiles, sync units and barriers -/

theorem answers_execTileQueueEnable {t h} : Answers (execTileQueueEnable t h s) := answers_gate (answers_ite (answers_next _) answers_branch)

theorem answers_execTileQueueTail {t tail} : Answers (execTileQueueTail t tail s) := answers_gate answers_branch

theorem answers_execTodFetch {t} : Answers (execTodFetch t s) :=
  answers_ite (answers_next _) (answers_ite (answers_next _) answers_branch)

theorem answers_execTodComplete {t n} : Answers (execTodComplete t n s) := by
  unfold execTodComplete
  split
  · exact answers_next _
  · exact answers_branch

theorem answers_execSemSignalReport {t n} : Answers (execSemSignalReport t n s) := by
  unfold execSemSignalReport
  split
  · exact answers_next _
  · split
    · exact answers_next _
    · exact answers_next _
    · exact answers_next _

theorem answers_execTodBarrier {t w} : Answers (execTodBarrier t w s) := answers_ite (answers_next _) answers_runTod

theorem answers_execBarrierRoundComplete {casc b} : Answers (execBarrierRoundComplete casc b s) := answers_ite answers_branch answers_branch

theorem answers_execBarrierConfigWrite {casc b v} : Answers (execBarrierConfigWrite casc b v s) :=
  answers_gate (answers_ite (answers_next _) answers_branch)

theorem answers_execRelease {c round trel} : Answers (execRelease c round trel s) :=
  answers_ite (answers_next _) (answers_ite (answers_next _) answers_branch)

theorem answers_execBeaconExchange {a b c d} : Answers (execBeaconExchange a b c d s) := by
  unfold execBeaconExchange
  refine answers_ite (answers_next _) (answers_ite (answers_next _) ?_)
  split
  · exact answers_next _
  · exact answers_next _

/-! ### The event router -/

theorem answers_execEvrFclr {v k} : Answers (execEvrFclr v k s) := answers_ite (answers_next _) answers_branch

theorem answers_execKeeperTake {k h} : Answers (execKeeperTake k h s) := by
  unfold execKeeperTake
  extract_lets
  split
  · exact answers_next _
  · exact answers_branch

theorem answers_execEoi {k src} : Answers (execEoi k src s) := by
  unfold execEoi
  extract_lets
  split
  · exact answers_next _
  · exact answers_branch

theorem answers_execHostEventQueueHead {v h} : Answers (execHostEventQueueHead v h s) := answers_gate answers_branch

theorem answers_execHostEventQueueEnable {v w} : Answers (execHostEventQueueEnable v w s) :=
  answers_gate (answers_ite (answers_next _) (answers_ite (answers_next _) answers_branch))

/-! ### Handles, windows and engines -/

theorem answers_execHandleWriteRelease {t h} : Answers (execHandleWriteRelease t h s) := by
  unfold execHandleWriteRelease
  split
  · exact answers_next _
  · exact answers_branch

theorem answers_execHbmWindowWrite {d w a} : Answers (execHbmWindowWrite d w a s) := answers_gate answers_branch

theorem answers_execProbe {p} : Answers (execProbe p s) := by
  cases p with
  | own e ch other =>
    unfold execProbe
    dsimp only
    split
    · exact answers_next _
    · exact answers_next _
  | tile t src addr len write => exact answers_branch
  | hbm d src addr len write => exact answers_next _

theorem answers_execDescriptorComplete {e ch} : Answers (execDescriptorComplete e ch s) := by
  unfold execDescriptorComplete
  split
  · exact answers_next _
  · exact answers_branch

theorem answers_execDmaChannelTail {e ch tail} : Answers (execDmaChannelTail e ch tail s) := answers_gate answers_branch

/-! ### Passes, sequences and epochs -/

theorem answers_execVerifyPass {ra drafts} : Answers (execVerifyPass ra drafts s) := by
  unfold execVerifyPass
  refine answers_ite ?_ (answers_next _)
  split
  · exact answers_branch
  · exact answers_next _

theorem answers_execVerifyPassCommit {ra rows outs} : Answers (execVerifyPassCommit ra rows outs s) := by
  unfold execVerifyPassCommit
  split
  · exact answers_branch
  · exact answers_next _

theorem answers_execAdmission {slot} : Answers (execAdmission slot s) := by
  unfold execAdmission
  split
  · exact answers_next _
  · exact answers_branch

theorem answers_execPrefillCommit {ra row outs} : Answers (execPrefillCommit ra row outs s) := by
  unfold execPrefillCommit
  split
  · exact answers_branch
  · exact answers_next _

theorem answers_execPark {ra w} : Answers (execPark ra w s) := by
  unfold execPark
  split
  · exact answers_next _
  · extract_lets
    refine answers_ite ?_ (answers_next _)
    split
    · exact answers_next _
    · exact answers_next _

theorem answers_execRecallSequence {ra} : Answers (execRecallSequence ra s) := by
  unfold execRecallSequence
  split
  · exact answers_next _
  · exact answers_branch

theorem answers_execGenerationPark {slot gen w back} : Answers (execGenerationPark slot gen w back s) := by
  unfold execGenerationPark
  split
  · exact answers_next _
  · exact answers_ite answers_branch answers_branch

theorem answers_execPrepared {d} : Answers (execPrepared d s) :=
  answers_ite (answers_ite answers_branch (answers_next _)) (answers_next _)

theorem answers_execAbort {d n} : Answers (execAbort d n s) := answers_ite (answers_next _) answers_branch

theorem answers_execSettleComplete {slot} : Answers (execSettleComplete slot s) := by
  unfold execSettleComplete
  refine answers_ite ?_ (answers_next _)
  split
  · exact answers_next _
  · exact answers_next _

theorem answers_execHeartbeat {d} : Answers (execHeartbeat d s) := by
  unfold execHeartbeat
  split
  · exact answers_next _
  · exact answers_next _
  · exact answers_next _

/-! ### The ring -/

theorem answers_execFrameEmit {d dir f} : Answers (execFrameEmit d dir f s) := by
  unfold execFrameEmit
  refine answers_ite (answers_next _) ?_
  cases f with
  | packet => exact answers_branch
  | weight => exact answers_branch
  | grad => exact answers_branch
  | genBuoy => exact answers_branch
  | layerBuoy => exact answers_branch
  | passEnd => exact answers_branch

theorem answers_execFrameTake {d dir i} : Answers (execFrameTake d dir i s) := by
  unfold execFrameTake
  extract_lets
  split
  · exact answers_next _
  · exact answers_branch

theorem answers_execRunEntryPush {d dir i} : Answers (execRunEntryPush d dir i s) := by
  unfold execRunEntryPush
  split
  · exact answers_next _
  · exact answers_branch

theorem answers_execCreditReturn {d dir} : Answers (execCreditReturn d dir s) := by
  unfold execCreditReturn
  split
  · exact answers_next _
  · exact answers_next _

theorem answers_execReRequest {d dir} : Answers (execReRequest d dir s) := by
  unfold execReRequest
  split
  · exact answers_ite answers_branch answers_branch
  · exact answers_next _

theorem answers_execResentCopy {d dir hx px} : Answers (execResentCopy d dir hx px s) := by
  unfold execResentCopy
  split
  · split
    · exact answers_next _
    · exact answers_ite (answers_next _) answers_branch
  · exact answers_next _

theorem answers_execExchangePacket {d dir hx px} : Answers (execExchangePacket d dir hx px s) := by
  unfold execExchangePacket
  split
  · exact answers_ite (answers_next _) answers_branch
  · exact answers_next _

theorem answers_execExchangeComplete {d layer xid} : Answers (execExchangeComplete d layer xid s) := by
  unfold execExchangeComplete
  split
  · exact answers_next _
  · refine answers_ite (answers_next _) ?_
    extract_lets
    split
    · exact answers_branch
    · exact answers_branch

theorem answers_execExchangeReRequest {d dir} : Answers (execExchangeReRequest d dir s) := by
  unfold execExchangeReRequest
  split
  · extract_lets
    refine answers_ite answers_branch ?_
    split
    · exact answers_branch
    · exact answers_next _
  · exact answers_next _

/-! ### Graphs, links, members and twins -/

theorem answers_execGraphLaunchMessage {src head id version digest args} : Answers (execGraphLaunchMessage src head id version digest args s) := by
  unfold execGraphLaunchMessage
  extract_lets
  refine answers_ite (answers_next _) ?_
  split
  · exact answers_next _
  · refine answers_ite (answers_next _) (answers_ite (answers_next _) ?_)
    extract_lets
    split
    · exact answers_next _
    · exact answers_next _

theorem answers_execCompletionToken {src launcher st id edge rep} : Answers (execCompletionToken src launcher st id edge rep s) := by
  unfold execCompletionToken
  dsimp only
  split
  · exact answers_next _
  · exact answers_next _

theorem answers_execCascadeJoinSettled : Answers (execCascadeJoinSettled s) := by
  unfold execCascadeJoinSettled
  split
  · exact answers_next _
  · exact answers_next _

theorem answers_execTwinPairTimeout : Answers (execTwinPairTimeout s) := by
  unfold execTwinPairTimeout
  split
  · exact answers_branch
  · exact answers_next _

theorem answers_execLinkSilenceTimeout {n} : Answers (execLinkSilenceTimeout n s) := by
  unfold execLinkSilenceTimeout
  split
  · exact answers_next _
  · exact answers_next _
  · exact answers_next _
  · exact answers_next _

theorem answers_execMessage {n m} : Answers (execMessage n m s) := by
  unfold execMessage
  split
  · exact answers_next _
  · extract_lets
    split
    · exact answers_next _
    · exact answers_next _

/-! ### Power, resets, boot and the management targets -/

theorem answers_execDieReset {d src} : Answers (execDieReset d src s) := answers_branch

theorem answers_execFunctionLevelReset {src} : Answers (execFunctionLevelReset src s) := answers_ite (answers_next _) answers_branch

theorem answers_execWarmReset {src} : Answers (execWarmReset src s) := answers_ite (answers_next _) answers_branch

theorem answers_execColdReset {src} : Answers (execColdReset src s) := answers_ite (answers_next _) answers_branch

theorem answers_execRecOperationDone : Answers (execRecOperationDone s) := by
  unfold execRecOperationDone
  split
  · exact answers_next _
  · exact answers_next _

theorem answers_execEnrol {i} : Answers (execEnrol i s) := by
  refine answers_gate ?_
  split
  · exact answers_next _
  · exact answers_next _

theorem answers_execRevoke {i} : Answers (execRevoke i s) := by
  refine answers_gate ?_
  split
  · exact answers_next _
  · exact answers_next _

theorem answers_execSecOperationDone : Answers (execSecOperationDone s) := by
  unfold execSecOperationDone
  split
  · exact answers_next _
  · exact answers_next _

theorem answers_execDebugFetch {a} : Answers (execDebugFetch a s) := by
  refine answers_gate ?_
  split
  · exact answers_next _
  · exact answers_next _

theorem answers_execTftpWriteRequest {name n} : Answers (execTftpWriteRequest name n s) :=
  answers_ite (answers_next _) (answers_ite (answers_next _) answers_branch)

theorem answers_execTftpData {data last} : Answers (execTftpData data last s) :=
  answers_ite (answers_next _) (answers_ite (answers_next _) answers_branch)

theorem answers_execUdpTelemetryRequest {b} : Answers (execUdpTelemetryRequest b s) := by
  unfold execUdpTelemetryRequest
  split
  · exact answers_branch
  · exact answers_next _

theorem answers_execI3cPrivateWrite {bus data} : Answers (execI3cPrivateWrite bus data s) := by
  unfold execI3cPrivateWrite
  split
  · exact answers_gated
  · exact answers_next _

theorem answers_execApSegWrite {g v} : Answers (execApSegWrite g v s) := answers_gate answers_branch

/-! ### Register writes -/

theorem answers_andThen {a : Ans} {f : State → Ans} (ha : Answers a) (hf : ∀ u, Answers (f u)) : Answers (andThen a f) := by
  obtain ⟨t, rfl⟩ := ha
  exact hf t

theorem answers_onBit {w n a} (ha : Answers a) : Answers (onBit w n s a) := answers_ite ha (answers_next s)

theorem answers_twoHalves {w lo hi} (hlo : ∀ u, Answers (lo u)) (hhi : ∀ u, Answers (hi u)) : Answers (twoHalves w lo hi s) :=
  answers_andThen (answers_ite (hlo s) (answers_next s)) fun u => answers_ite (hhi u) (answers_next u)

theorem answers_writeEngine {e o w} : Answers (writeEngine e o w s) :=
  answers_gate <| answers_ite (answers_next _) <| answers_ite (answers_onBit answers_gated) <|
  answers_ite (answers_twoHalves (fun _ => answers_execDmaChannelTail) fun _ => answers_gated) answers_branch

theorem answers_writeGlbReset {w} : Answers (writeGlbReset w s) := by
  unfold writeGlbReset
  refine answers_ite (answers_next _) ?_
  split
  · exact answers_execFunctionLevelReset
  · exact answers_execWarmReset
  · exact answers_execDieReset
  · exact answers_execColdReset
  · exact answers_next _

theorem answers_writeMsix {o w} : Answers (writeMsix o w s) :=
  answers_ite (answers_next _) <|
    answers_twoHalves (fun _ => answers_next _) fun _ => answers_ite (answers_next _) answers_gated

theorem answers_writeRecCtrl {w} : Answers (writeRecCtrl w s) := by
  unfold writeRecCtrl
  split
  · exact answers_gated
  · exact answers_gated
  · exact answers_gated
  · exact answers_next _

theorem answers_writeSecCtrl {w} : Answers (writeSecCtrl w s) := by
  unfold writeSecCtrl
  extract_lets
  split
  · exact answers_execEnrol
  · exact answers_execRevoke
  · exact answers_gated
  · exact answers_gated
  · exact answers_gated
  · exact answers_gated
  · exact answers_next _

theorem answers_writeCpKill {w} : Answers (writeCpKill w s) :=
  List.foldlRecOn _ _ (motive := Answers) (answers_next s) fun _ ha _ _ => answers_andThen ha fun _ => answers_gated

theorem answers_writeCp {o w} : Answers (writeCp o w s) :=
  answers_ite (answers_next _) <| answers_ite (answers_twoHalves (fun _ => answers_next _) fun _ => answers_onBit answers_gated) <|
  answers_ite (answers_next _) (answers_ite answers_writeCpKill (answers_next _))

theorem answers_writeGlobal {o w} : Answers (writeGlobal o w s) :=
  answers_ite (answers_next _) <| answers_ite answers_writeGlbReset <| answers_ite (answers_onBit answers_gated) <|
  answers_ite answers_execApSegWrite <| answers_ite answers_writeMsix <| answers_ite answers_writeRecCtrl <|
  answers_ite answers_writeSecCtrl <| answers_ite (answers_next _) <| answers_ite (answers_next _) <|
  answers_ite answers_writeEngine (answers_ite answers_writeCp (answers_next _))

theorem answers_writeHqBlock {o w} : Answers (writeHqBlock o w s) :=
  answers_ite (answers_ite answers_execQueueEnable answers_gated) <| answers_ite (answers_next _) <| answers_ite (answers_next _) <|
  answers_ite (answers_onBit answers_gated) <| answers_ite (answers_ite answers_execHostRegionWrite (answers_next _)) <|
  answers_ite (answers_ite (answers_ite answers_execFenceRegisterWrite (answers_next _)) answers_execFenceRegisterWrite) (answers_next _)

theorem answers_writeEvq {v w} : Answers (writeEvq v w s) := answers_ite answers_execHostEventQueueHead (answers_next _)

theorem answers_writeEvrBlock {o w} : Answers (writeEvrBlock o w s) :=
  answers_ite (answers_twoHalves (fun _ => answers_gated) fun _ => answers_execEvrFclr) <| answers_ite (answers_onBit answers_gated) <|
  answers_ite (answers_twoHalves (fun _ => answers_gated) fun _ => answers_gated) <|
  answers_ite (answers_twoHalves (fun _ => answers_branch) fun _ => answers_branch) <|
  answers_ite (answers_twoHalves (fun _ => answers_next _) fun _ => answers_next _) <|
  answers_ite (answers_ite answers_execKeeperTake (answers_ite answers_execEoi (answers_next _))) <|
  answers_ite (answers_ite answers_execHostEventQueueEnable answers_writeEvq) (answers_next _)

theorem answers_writeBarReg {casc b w} : Answers (writeBarReg casc b w s) :=
  answers_ite (answers_next _) (answers_andThen answers_execBarrierConfigWrite fun _ => answers_next _)

theorem answers_writeBcnBlock {o w} : Answers (writeBcnBlock o w s) :=
  answers_ite (answers_onBit answers_gated) (answers_ite answers_writeBarReg (answers_ite answers_writeBarReg (answers_next _)))

theorem answers_writeTile {t o w} : Answers (writeTile t o w s) :=
  answers_ite (answers_next _) <| answers_ite (answers_onBit answers_gated) <|
  answers_ite (answers_twoHalves (fun _ => answers_execTileQueueTail) fun _ => answers_ite answers_execTileQueueEnable (answers_next _)) <|
  answers_ite (answers_next _) <| answers_ite (answers_onBit answers_gated) <| answers_ite (answers_ite answers_gated (answers_next _)) <|
  answers_ite (answers_ite answers_gated (answers_next _)) answers_branch

theorem answers_writeDie {d o w} : Answers (writeDie d o w s) :=
  answers_gate <| answers_ite (answers_onBit answers_gated) <| answers_ite (answers_onBit answers_gated) <|
  answers_ite (answers_onBit answers_gated) <| answers_ite (answers_next _) <|
  answers_ite (answers_ite answers_execHbmWindowWrite (answers_next _)) <| answers_ite (answers_onBit answers_gated) <|
  answers_ite answers_writeEngine (answers_ite answers_writeTile (answers_next _))

theorem answers_writeReady {o w} : Answers (writeReady o w s) :=
  answers_ite answers_writeEvrBlock <| answers_ite (answers_next _) <| answers_ite (answers_onBit answers_gated) <|
  answers_ite (answers_next _) <| answers_ite (answers_onBit answers_gated) <| answers_ite (answers_next _) <|
  answers_ite answers_writeBcnBlock <| answers_ite answers_writeDie <| answers_ite (answers_onBit answers_gated) <|
  answers_ite (answers_onBit answers_gated) (answers_next _)

theorem answers_writeSlot {o w} : Answers (writeSlot o w s) :=
  answers_ite answers_writeGlobal <| answers_ite answers_writeHqBlock <| answers_ite (answers_gate answers_writeHqBlock) <|
  answers_ite answers_execDebugFetch (answers_gate answers_writeReady)

theorem answers_execRegisterWrite {off wide v hw} : Answers (execRegisterWrite off wide v hw s) :=
  answers_ite (answers_next _) (answers_ite (answers_next _) answers_writeSlot)

/-! ### The dispatch of commands and the step -/

/-- Every command answers a next state. -/
theorem answers_exec (i : Instr) : Answers (exec i s) := by
  cases i with
  | queueEnable => exact answers_execQueueEnable
  | queueDisable => exact answers_gated
  | queueIdle => exact answers_branch
  | hostRegionWrite => exact answers_execHostRegionWrite
  | fenceRegisterWrite => exact answers_execFenceRegisterWrite
  | sqDoorbell => exact answers_gate (answers_ite (answers_next _) answers_branch)
  | cqDoorbell => exact answers_gate (answers_ite (answers_next _) answers_branch)
  | fenceDoorbell => exact answers_gate (answers_ite (answers_next _) answers_branch)
  | sqFetch => exact answers_ite (answers_next _) (answers_ite (answers_next _) answers_branch)
  | completionWrite => exact answers_execCompletionWrite
  | nop => exact answers_startEntry
  | kernel => exact answers_execKernel
  | graph => exact answers_startEntry
  | graphNodeStart => exact answers_branch
  | graphLaunchMessage => exact answers_execGraphLaunchMessage
  | completionToken => exact answers_execCompletionToken
  | dma => exact answers_execDma
  | signal => exact answers_startEntry
  | wait => exact answers_startEntry
  | waitTimeout => exact answers_execWaitTimeout
  | branch => exact answers_startEntry
  | branchPollDelay => exact answers_branch
  | loop => exact answers_startEntry
  | call => exact answers_startEntry
  | ret => exact answers_startEntry
  | barrier => exact answers_startEntry
  | timestamp => exact answers_startEntry
  | digest => exact answers_startEntry
  | decodeLoop => exact answers_startEntry
  | identify => exact answers_startEntry
  | attest => exact answers_startEntry
  | bundleBegin => exact answers_startEntry
  | bundleChunk => exact answers_startEntry
  | bundleCommit => exact answers_startEntry
  | bundleMemberReport => exact answers_branch
  | bundleMemberCommit => exact answers_branch
  | wsetSwitch => exact answers_startEntry
  | modeRequest => exact answers_startEntry
  | ringConfig => exact answers_startEntry
  | cascadeJoin => exact answers_startEntry
  | cascadeJoinSettled => exact answers_execCascadeJoinSettled
  | twinPair => exact answers_startEntry
  | twinPairTimeout => exact answers_execTwinPairTimeout
  | powerPolicy => exact answers_startEntry
  | clockPin => exact answers_startEntry
  | telemetry => exact answers_startEntry
  | retire => exact answers_startEntry
  | scrub => exact answers_startEntry
  | scrubDone => exact answers_next _
  | fwUpdate => exact answers_startEntry
  | reset => exact answers_startEntry
  | detachPrepare => exact answers_startEntry
  | graphStore => exact answers_startEntry
  | graphPatch => exact answers_startEntry
  | deltaLoad => exact answers_startEntry
  | hostTierMap => exact answers_startEntry
  | timeTag => exact answers_startEntry
  | faultPolicy => exact answers_startEntry
  | tileQueueEnable => exact answers_execTileQueueEnable
  | tileQueueTail => exact answers_execTileQueueTail
  | todFetch => exact answers_execTodFetch
  | todNop => exact answers_runTod
  | mma => exact answers_runTod
  | mmaT => exact answers_runTod
  | dist => exact answers_runTod
  | ashift => exact answers_runTod
  | softmax => exact answers_runTod
  | rmsnorm => exact answers_runTod
  | glu => exact answers_runTod
  | rope => exact answers_runTod
  | quant => exact answers_runTod
  | dequant => exact answers_runTod
  | topk => exact answers_runTod
  | ewise => exact answers_runTod
  | convert => exact answers_runTod
  | semSignal => exact answers_runTod
  | semWait => exact answers_runTod
  | todBarrier => exact answers_execTodBarrier
  | event => exact answers_runTod
  | qwait => exact answers_runTod
  | taskEnd => exact answers_runTod
  | srkey => exact answers_runTod
  | todComplete => exact answers_execTodComplete
  | semRequest => exact answers_next _
  | semSignalReport => exact answers_execSemSignalReport
  | handleWrite => exact answers_gated
  | handleWriteRelease => exact answers_execHandleWriteRelease
  | windowWrite => exact answers_gated
  | remoteAccess => exact answers_branch
  | probe => exact answers_execProbe
  | hbmWindowWrite => exact answers_execHbmWindowWrite
  | hbmWindowAccess => exact answers_branch
  | dmaChannelEnable => exact answers_gated
  | dmaChannelTail => exact answers_execDmaChannelTail
  | copy => exact answers_runDesc
  | gather => exact answers_runDesc
  | scatter => exact answers_runDesc
  | fill => exact answers_runDesc
  | pagewalk => exact answers_runDesc
  | bond => exact answers_runDesc
  | prefetch => exact answers_runDesc
  | descriptorComplete => exact answers_execDescriptorComplete
  | passBoundary => exact answers_branch
  | verifyPass => exact answers_execVerifyPass
  | verifyPassCommit => exact answers_execVerifyPassCommit
  | admission => exact answers_execAdmission
  | prefillCommit => exact answers_execPrefillCommit
  | park => exact answers_execPark
  | recallSequence => exact answers_execRecallSequence
  | generationPark => exact answers_execGenerationPark
  | frameEmit => exact answers_execFrameEmit
  | frameArrival => exact answers_next _
  | frameTake => exact answers_execFrameTake
  | runEntryPush => exact answers_execRunEntryPush
  | genBuoy => exact answers_next _
  | layerBuoy => exact answers_next _
  | passEndBuoy => exact answers_next _
  | gradFrame => exact answers_next _
  | creditReturn => exact answers_execCreditReturn
  | reRequest => exact answers_execReRequest
  | resentCopy => exact answers_execResentCopy
  | reRequestTimeout => exact answers_next _
  | passComplete => exact answers_branch
  | exchangePacket => exact answers_execExchangePacket
  | exchangeComplete => exact answers_execExchangeComplete
  | exchangeReRequest => exact answers_execExchangeReRequest
  | exchangeResendTimeout => exact answers_next _
  | governorEvaluation => exact answers_branch
  | propose => exact answers_ite answers_branch (answers_next _)
  | prepared => exact answers_execPrepared
  | refused => exact answers_branch
  | commit => exact answers_branch
  | committed => exact answers_branch
  | settleComplete => exact answers_execSettleComplete
  | abort => exact answers_execAbort
  | reverted => exact answers_branch
  | preparedDeadline => exact answers_branch
  | committedDeadline => exact answers_branch
  | revertedDeadline => exact answers_branch
  | heartbeatLoss => exact answers_branch
  | arcFlitNak => exact answers_branch
  | arcRetrainDone => exact answers_branch
  | auditRequest => exact answers_gated
  | conservationAudit => exact answers_branch
  | kill => exact answers_gated
  | watchdogExpiry => exact answers_execWatchdogExpiry
  | barrierConfigWrite => exact answers_execBarrierConfigWrite
  | barrierRoundComplete => exact answers_execBarrierRoundComplete
  | beaconExchange => exact answers_execBeaconExchange
  | arrive => exact answers_branch
  | release => exact answers_execRelease
  | cascadeReleaseTime => exact answers_branch
  | evrDoorbell => exact answers_gated
  | evrFclr => exact answers_execEvrFclr
  | evrEnWrite => exact answers_gated
  | evrPendWrite => exact answers_branch
  | eventRouting => exact answers_next _
  | keeperTake => exact answers_execKeeperTake
  | eoi => exact answers_execEoi
  | keeperWake => exact answers_branch
  | keeperSleep => exact answers_next _
  | hostEventQueueHead => exact answers_execHostEventQueueHead
  | hostEventQueueEnable => exact answers_execHostEventQueueEnable
  | msixVectorUnmask => exact answers_gated
  | linkSignalDetect => exact answers_branch
  | linkTrained => exact answers_branch
  | linkTrainTimeout => exact answers_branch
  | characteristicFrame => exact answers_branch
  | characteristicFrameSend => exact answers_branch
  | linkSilenceTimeout => exact answers_execLinkSilenceTimeout
  | linkSignalLoss => exact answers_branch
  | flitNak => exact answers_ite (answers_next _) answers_branch
  | message => exact answers_execMessage
  | memberMessageSend => exact answers_branch
  | memberMessage => exact answers_branch
  | memberHeartbeatTimeout => exact answers_branch
  | fogMessage => exact answers_branch
  | twinLogEntry => exact answers_branch
  | twinCheckpoint => exact answers_branch
  | checkpointAck => exact answers_branch
  | writtenNotice => exact answers_branch
  | fatalFault => exact answers_branch
  | keeperWatchdog => exact answers_branch
  | spineLoss => exact answers_branch
  | powerOn => exact answers_branch
  | pwrEnDeassert => exact answers_branch
  | pwrAlertAssert => exact answers_ite (answers_next _) answers_branch
  | pwrAlertDeassert => exact answers_ite (answers_next _) answers_branch
  | grantResume => exact answers_branch
  | inputUndervoltage => exact answers_branch
  | inputLow => exact answers_branch
  | inputHigh => exact answers_branch
  | inputOvervoltage => exact answers_branch
  | overcurrent => exact answers_branch
  | grantInterval => exact answers_branch
  | drawSample => exact answers_branch
  | loan => exact answers_branch
  | loanRecall => exact answers_next _
  | cclkStepDown => exact answers_ite (answers_next _) answers_branch
  | cclkStepUp => exact answers_branch
  | junctionHot => exact answers_branch
  | junctionHotHold => exact answers_branch
  | junctionCritical => exact answers_branch
  | thermalTrip => exact answers_branch
  | coolantInletHigh => exact answers_branch
  | pllLockLoss => exact answers_branch
  | pllRelock => exact answers_branch
  | perstAssert => exact answers_branch
  | perstDeassert => exact answers_next _
  | functionLevelReset => exact answers_execFunctionLevelReset
  | warmReset => exact answers_execWarmReset
  | dieReset => exact answers_execDieReset
  | dieResetComplete => exact answers_branch
  | coldReset => exact answers_execColdReset
  | program => exact answers_gated
  | finish => exact answers_gated
  | recoveryAbort => exact answers_gated
  | tftpWriteRequest => exact answers_execTftpWriteRequest
  | dhcpLeaseTimeout => exact answers_branch
  | enrol => exact answers_execEnrol
  | revoke => exact answers_execRevoke
  | keysLock => exact answers_gated
  | challenge => exact answers_gated
  | debugUnlock => exact answers_gated
  | debugLock => exact answers_gated
  | debugFetch => exact answers_execDebugFetch
  | debugFetchDone => exact answers_ite (answers_next _) answers_branch
  | apSegWrite => exact answers_execApSegWrite
  | bar4Read => exact answers_gated
  | bar4Write => exact answers_gated
  | bar4Resize => exact answers_branch
  | bar0ImproperAccess => exact answers_branch
  | powerStateChange => exact answers_gated
  | udpTelemetryRequest => exact answers_execUdpTelemetryRequest
  | arpRequest => exact answers_branch
  | icmpEchoRequest => exact answers_branch
  | i3cPrivateWrite => exact answers_execI3cPrivateWrite
  | i3cPrivateRead => exact answers_gated
  | i3cAddressAssignment => exact answers_gated
  | tileCountsCntClr => exact answers_gated
  | spadCountsCntClr => exact answers_gated
  | dcEccCntClr => exact answers_gated
  | swpStatusCntClr => exact answers_gated
  | modeStatusCntClr => exact answers_gated
  | cdcErrCntClr => exact answers_gated
  | dmaCountsCntClr => exact answers_gated
  | hqCountsCntClr => exact answers_gated
  | cpCapCntClr => exact answers_gated
  | evrStatusCntClr => exact answers_gated
  | bcnStatusCntClr => exact answers_gated
  | tlErrCntClr => exact answers_gated
  | pwrCountsCntClr => exact answers_gated
  | glbCountsCntClr => exact answers_gated
  | arcStatusCntClr => exact answers_gated
  | registerWrite => exact answers_execRegisterWrite
  | heartbeat => exact answers_execHeartbeat
  | recOperationDone => exact answers_execRecOperationDone
  | secOperationDone => exact answers_execSecOperationDone
  | moduleReady => exact answers_branch
  | inputBelow46V => exact answers_branch
  | dhcpLease => exact answers_branch
  | tftpData => exact answers_execTftpData

end

theorem answers_step (s : State) : Answers (step s) := by
  cases e : s.pending with
  | nil => exact step_nil e ▸ answers_next _
  | cons c r => exact step_cons e ▸ answers_exec c

/-- Settles O60: a step is the tick of an empty queue or the front command, and each of the table's commands answers a next state. -/
theorem everyStepAnswersANextState : Obligations.EveryStepAnswersANextState := answers_step

end Sys2Proof.Machine
end

section
/-!
PROOFS. The step of an empty queue, the cascade time, and the words of the event router (O1, O38, O39).
-/

namespace Sys2Proof.Machine

/-! ### The step of an empty queue -/

theorem takeoverDue_of_ne {s : State} (h : s.lk.twin ≠ .takeover) : takeoverDue s = s := by simp [takeoverDue, h]

theorem detachDue_of_ne {s : State} (h : s.lk.twin ≠ .detaching) : detachDue s = s := by
  unfold detachDue
  split <;> simp [h]

theorem idle_lk (s : State) : (idle s).lk = s.lk := by
  unfold idle
  split <;> rfl

/-- With no takeover and no detach in progress a tick is one cycle of the local beacon. -/
theorem tick_eq_idle {s : State} (htake : s.lk.twin ≠ .takeover) (hdetach : s.lk.twin ≠ .detaching) : tick s = idle s := by
  rw [← idle_lk s] at htake hdetach
  rw [tick, takeoverDue_of_ne htake, detachDue_of_ne hdetach]

/-- Settles O1: a step is `exec` of the front command, or the tick of an empty queue. -/
theorem stepRunsFrontCommand : Obligations.StepRunsFrontCommand := by
  unfold Obligations.StepRunsFrontCommand
  refine ⟨fun c s => step_cons rfl, fun s => step_nil, fun s h htake hdetach hpower => ?_, fun s h htake hdetach hpower => ?_⟩
  · rw [step_nil h, tick_eq_idle htake hdetach, idle, if_pos hpower]
  · rw [step_nil h, tick_eq_idle htake hdetach, idle, if_neg (by simp [hpower])]

/-! ### The cascade time (R408, R409) -/

/-- The bounds that MARGIN keeps: it never falls, and covers a measured delay that a 16-bit field can hold with 16 to spare. -/
theorem margin_covers (m : BitVec 16) (d : Int) :
    m.toNat ≤ (BitVec.ofNat 16 (max m.toNat (min 0xFFFF (d.toNat + 16)))).toNat ∧
    (d ≤ 0xFFEF → d + 16 ≤ (BitVec.ofNat 16 (max m.toNat (min 0xFFFF (d.toNat + 16)))).toNat) := by
  have hm := m.isLt
  rw [BitVec.toNat_ofNat, Nat.mod_eq_of_lt (by omega)]
  exact ⟨by omega, fun h => by omega⟩

section
variable {s : State} {a b c d : W64}

theorem beaconExchange_alone (hj : s.lk.joined = false) : exec (.beaconExchange a b c d) s = .next s := by
  simp [exec, execBeaconExchange, hj]

theorem beaconExchange_root (hj : s.lk.joined = true) (hr : s.bcn.root = true) : exec (.beaconExchange a b c d) s = .next { s with
    bcn := { s.bcn with margin := BitVec.ofNat 16 (max s.bcn.margin.toNat (min 0xFFFF ((owDelay a b c d).toNat + 16))) } } := by
  simp [exec, execBeaconExchange, hj, hr]

/-- The step that a measured error `e` moves the offset by: the first measurement the whole error, a later one a cycle at most. -/
def slewStep (measured : Bool) (e : Int) : Int := if measured then (if 0 < e then 1 else if e < 0 then -1 else 0) else e

theorem beaconExchange_member {p : Nat} (hj : s.lk.joined = true) (hr : s.bcn.root = false) (hp : routeTo s 0 = some p) :
    exec (.beaconExchange a b c d) s = .next { s with bcn := { s.bcn with
      upport := BitVec.ofNat 3 p
      offset := s.bcn.offset + BitVec.ofInt 64 (slewStep s.bcn.measured (offsetError a b c d))
      measured := true
      aligned := alignedAfter s.bcn.aligned (offsetError a b c d) } } := by
  simp [exec, execBeaconExchange, hj, hr, hp, slewStep]

end

theorem slewStep_up (x : W64) {e : Int} (h : 0 < e) : x + BitVec.ofInt 64 (slewStep true e) = x + 1 := by
  simp [slewStep, h]

theorem slewStep_down (x : W64) {e : Int} (h : e < 0) : x + BitVec.ofInt 64 (slewStep true e) = x - 1 := by
  simp [slewStep, h, Int.not_lt.2 h.le, BitVec.sub_eq_add_neg]

theorem alignedAfter_near (old : Bool) {e : Int} (h : e.natAbs ≤ 1) : alignedAfter old e = true := if_pos h

theorem alignedAfter_far (old : Bool) {e : Int} (h : 4 < e.natAbs) : alignedAfter old e = false := by
  rw [alignedAfter, if_neg (by omega), if_pos h]

theorem alignedAfter_between (old : Bool) {e : Int} (h : 1 < e.natAbs) (h' : e.natAbs ≤ 4) : alignedAfter old e = old := by
  rw [alignedAfter, if_neg (by omega), if_neg (by omega)]

/-- Settles O38: the root only raises MARGIN, a member steps its offset once and slews it afterwards, and ALIGNED follows the error's bounds. -/
theorem cascadeTimeIsMeasured : Obligations.CascadeTimeIsMeasured := by
  unfold Obligations.CascadeTimeIsMeasured
  refine ⟨fun s a b c d hj hr => ?_, fun s a b c d p hj hr hp hm => ?_, fun s a b c d p hj hr hp hm => ?_, fun s a b c d => beaconExchange_alone⟩
  · have h := margin_covers s.bcn.margin (owDelay a b c d)
    exact ⟨_, beaconExchange_root hj hr, rfl, h.1, h.2, rfl⟩
  · refine ⟨_, beaconExchange_member hj hr hp, ?_, rfl, rfl, rfl, rfl, rfl, rfl⟩
    dsimp only
    rw [hm]
    rfl
  · refine ⟨_, beaconExchange_member hj hr hp, ?_, ?_, ?_, alignedAfter_near _, alignedAfter_far _, alignedAfter_between _, rfl, rfl, rfl, rfl⟩
    all_goals dsimp only; rw [hm]
    · exact slewStep_up _
    · exact slewStep_down _
    · intro h
      simp [slewStep, h]

end Sys2Proof.Machine
end

section
/-!
PROOFS. Fires of sources, folds of updates over the bits of a word, and the words of the event router (O39).
-/

namespace Sys2Proof.Machine

/-! ### Updates along a list of keys -/

section
variable {α : Type} [Inhabited α] [DecidableEq α] (f : Nat → α → α) (a : Nat)

/-- The entries `a + i` for the `i` of a list changed one after the other. -/
def updKeys (t : Tbl α) (l : List Nat) : Tbl α := l.foldl (fun t i => Tbl.upd t (a + i) (f i)) t

theorem get_updKeys_notMem {l : List Nat} (t : Tbl α) {n : Nat} (h : ∀ i ∈ l, n ≠ a + i) : Tbl.get (updKeys f a t l) n = Tbl.get t n := by
  induction l generalizing t with
  | nil => rfl
  | cons k l ih =>
    obtain ⟨hk, hl⟩ := List.forall_mem_cons.1 h
    exact (ih _ hl).trans (Tbl.get_upd_ne t _ _ hk)

theorem get_updKeys_mem {l : List Nat} (hl : l.Nodup) (t : Tbl α) {i : Nat} (h : i ∈ l) :
    Tbl.get (updKeys f a t l) (a + i) = f i (Tbl.get t (a + i)) := by
  induction l generalizing t with
  | nil => exact absurd h List.not_mem_nil
  | cons k l ih =>
    obtain ⟨hk, hl⟩ := List.nodup_cons.1 hl
    rcases List.mem_cons.1 h with rfl | hi
    · have hrest : ∀ j ∈ l, a + i ≠ a + j := fun j hj e => hk (Nat.add_left_cancel e ▸ hj)
      exact (get_updKeys_notMem f a _ hrest).trans (Tbl.get_upd_self t _ _)
    · have hne : a + i ≠ a + k := fun e => hk (Nat.add_left_cancel e ▸ hi)
      rw [updKeys, List.foldl_cons]
      exact (ih hl _ hi).trans (congrArg (f i) (Tbl.get_upd_ne t _ _ hne))

end

/-! ### Fires -/

theorem fireN_eq_updSrc {n : Nat} (h : srcExists n = true) (s : State) (k : Nat) : fireN s n k = updSrc s n fun r => fired r k := by
  rw [fireN, if_pos h]
  rfl

theorem fire_eq_updSrc {n : Nat} (h : srcExists n = true) (s : State) : fire s n = updSrc s n fun r => fired r 1 := fireN_eq_updSrc h s 1

theorem fire_pend {n : Nat} (h : srcExists n = true) (s : State) : ((fire s n).evr.srcs.get n).pend = true := by
  simp [fire_eq_updSrc h, fired]

theorem fire_src_ne {n m : Nat} (h : m ≠ n) (s : State) : (fire s n).evr.srcs.get m = s.evr.srcs.get m := by
  by_cases hx : srcExists n = true
  · simp [fire_eq_updSrc hx, Tbl.get_upd_ne _ _ _ h]
  · rw [fire, fireN, if_neg hx]

/-- A source that is pending stays so whatever fires. -/
theorem fire_pend_mono {m : Nat} {s : State} (n : Nat) (h : (s.evr.srcs.get m).pend = true) : ((fire s n).evr.srcs.get m).pend = true := by
  by_cases hm : m = n
  · subst hm
    by_cases hx : srcExists m = true
    · exact fire_pend hx s
    · rwa [fire, fireN, if_neg hx]
  · rwa [fire_src_ne hm]

theorem srcExists_soft {n : Nat} (h : 960 ≤ n) (h' : n < 1024) : srcExists n = true := by simp [srcExists, h, h']

theorem fired_fire (r : Src) (k : Nat) : (fired r k).fire = r.fire + BitVec.ofNat 16 k := by
  unfold fired
  split
  · next h => simp [h]
  · rfl

theorem fired_pend (r : Src) (k : Nat) : (fired r k).pend = (r.pend || decide (0 < k)) := by
  unfold fired
  split
  · next h => simp [h]
  · next h => simp [Nat.pos_of_ne_zero h]

theorem fired_en (r : Src) (k : Nat) : (fired r k).en = r.en := by
  unfold fired
  split <;> rfl

/-! ### The words -/

section
variable {s : State}

theorem evrDoorbell_soft {v : W32} (hon : blockOn s = true) (h : 960 ≤ v.toNat % 1024) :
    exec (.evrDoorbell v) s = .next (updSrc s (v.toNat % 1024) fun r => fired r 1) := by
  have hlt : v.toNat % 1024 < 1024 := Nat.mod_lt _ (by decide)
  rw [exec, execEvrDoorbell, gate_on _ _ hon, doorbell, if_pos ⟨h, hlt⟩, fire_eq_updSrc (srcExists_soft h hlt)]

theorem evrDoorbell_ignored {v : W32} (hon : blockOn s = true) (h : v.toNat % 1024 < 960) :
    exec (.evrDoorbell v) s = .next { s with evr := { s.evr with dbIgn := satInc s.evr.dbIgn 1 } } := by
  rw [exec, execEvrDoorbell, gate_on _ _ hon, doorbell, if_neg (fun h' => Nat.not_lt.2 h'.1 h)]

theorem evrFclr_writes {v : W32} (k : Nat) (hon : blockOn s = true) (h : srcExists (v.toNat % 1024) = true) :
    exec (.evrFclr v k) s = .next (updSrc s (v.toNat % 1024) fun r => fclr r k) := by
  simp [exec, execEvrFclr, hon, h]

theorem fclr_fire (r : Src) (k : Nat) : (fclr r k).fire = BitVec.ofNat 16 k := by simp [fclr, fired_fire]

theorem fclr_pend (r : Src) (k : Nat) : (fclr r k).pend = (r.pend || decide (0 < k)) := fired_pend _ k

/-- The 32 sources of a word changed bit by bit. -/
theorem foldl_updSrc (f : Nat → Src → Src) (a : Nat) (l : List Nat) :
    l.foldl (fun s i => updSrc s (a + i) (f i)) s = setEvr s fun e => { e with srcs := updKeys f a e.srcs l } := by
  induction l generalizing s with
  | nil => rfl
  | cons k l ih => exact ih

theorem evrEnWrite_writes (w : Fin 32) (v : W32) (hon : blockOn s = true) : exec (.evrEnWrite w v) s = .next (setEvr s fun e =>
    { e with srcs := updKeys (fun i r => { r with en := v.getLsbD i }) (32 * w.val) e.srcs (List.range 32) }) := by
  rw [exec, execEvrEnWrite, gate_on _ _ hon, foldl_updSrc fun i r => { r with en := v.getLsbD i }]

/-- Source `a + i` of a word whose pending bits are written with `v` while hardware fires those of `hw`. -/
def pendWord (v hw : W32) (a i : Nat) (r : Src) : Src := pendWrite r (v.getLsbD i) (hw.getLsbD i && srcExists (a + i))

theorem pendWrite_pend (r : Src) (b hw : Bool) : (pendWrite r b hw).pend = (b || hw) := by
  cases hw <;> simp [pendWrite, fired_pend, b2n]

theorem pendWrite_fire (r : Src) (b hw : Bool) : (pendWrite r b hw).fire = r.fire + (if hw then 1 else 0) := by
  cases hw <;> simp [pendWrite, fired_fire, b2n]

theorem pendWrite_en (r : Src) (b hw : Bool) : (pendWrite r b hw).en = r.en := fired_en _ _

theorem evrPendWrite_writes (w : Fin 32) (v hw : W32) (hon : blockOn s = true) : ∃ u, exec (.evrPendWrite w v hw) s = .next u ∧
    u.evr.srcs = updKeys (pendWord v hw (32 * w.val)) (32 * w.val) s.evr.srcs (List.range 32) ∧ u.evr.keepers = s.evr.keepers ∧ u.mem = s.mem := by
  rw [exec, execEvrPendWrite, if_neg (by simp [hon])]
  dsimp only
  rw [show (fun (s : State) i => updSrc s (32 * w.val + i) fun r => pendWrite r (v.getLsbD i) (hw.getLsbD i && srcExists (32 * w.val + i))) =
    fun s i => updSrc s (32 * w.val + i) (pendWord v hw (32 * w.val) i) from rfl, foldl_updSrc]
  split <;> exact ⟨_, rfl, rfl, rfl, rfl⟩

/-! ### The unmasking of a vector -/

theorem msixVectorUnmask_sends {v : Fin 64} (hon : barOn s = true) (hdue : s.glb.msixPend.get v.val = true) : exec (.msixVectorUnmask v) s =
    .next (emit { s with glb := { s.glb with msixOpen := s.glb.msixOpen.set v.val true, msixPend := s.glb.msixPend.set v.val false } }
      (.msix v.val (s.glb.msixAddr.get v.val) (s.glb.msixData.get v.val))) := by
  rw [exec, execMsixVectorUnmask, gate_on _ _ hon]
  simp [hdue, sendMsix]

theorem msixVectorUnmask_idle {v : Fin 64} (hon : barOn s = true) (hdue : s.glb.msixPend.get v.val = false) : exec (.msixVectorUnmask v) s =
    .next { s with glb := { s.glb with msixOpen := s.glb.msixOpen.set v.val true, msixPend := s.glb.msixPend.set v.val false } } := by
  rw [exec, execMsixVectorUnmask, gate_on _ _ hon]
  simp [hdue]

end

/-- The sources of word `w` are the 32 numbers from `32 * w`. -/
theorem ne_word_bit {n w i : Nat} (h : n / 32 ≠ w) (hi : i ∈ List.range 32) : n ≠ 32 * w + i := by
  have := List.mem_range.1 hi
  omega

/-- Settles O39: each word changes the sources that it names, bit by bit, and a due message leaves when its vector is unmasked. -/
theorem eventRouterWords : Obligations.EventRouterWords := by
  unfold Obligations.EventRouterWords
  refine ⟨fun s v hon h => ?_, fun s v => evrDoorbell_ignored, fun s v k hon hx => ?_, fun s w v hon => ?_, fun s w v hw hon => ?_,
    fun s v hon hdue => ?_, fun s v hon hdue => ?_⟩
  · exact evrDoorbell_soft hon h
  · refine ⟨_, evrFclr_writes k hon hx, ?_, ?_, fun n hn => by simp [Tbl.get_upd_ne _ _ _ hn], rfl, rfl, rfl⟩
    · simp [fclr_fire]
    · simp [fclr_pend]
  · exact ⟨_, evrEnWrite_writes w v hon, fun i hi => get_updKeys_mem _ _ List.nodup_range _ (List.mem_range.2 hi),
      fun n hn => get_updKeys_notMem _ _ _ fun i => ne_word_bit hn, rfl⟩
  · obtain ⟨u, hu, hsrcs, hkeep, hmem⟩ := evrPendWrite_writes w v hw hon
    refine ⟨u, hu, fun i hi => ?_, fun n hn => ?_, hkeep, hmem⟩
    · rw [hsrcs, get_updKeys_mem _ _ List.nodup_range _ (List.mem_range.2 hi)]
      exact ⟨pendWrite_pend _ _ _, pendWrite_fire _ _ _, pendWrite_en _ _ _⟩
    · rw [hsrcs, get_updKeys_notMem _ _ _ fun i => ne_word_bit hn]
  · exact ⟨_, msixVectorUnmask_sends hon hdue, rfl, by simp, by simp, fun n hn => by simp [Tbl.get_set_ne _ _ _ hn]⟩
  · exact ⟨_, msixVectorUnmask_idle hon hdue, rfl, by simp, rfl⟩

end Sys2Proof.Machine
end

section
/-!
PROOFS. Routing of one source, the keeper's commands, and the host event queues (O40).
-/

namespace Sys2Proof.Machine

/-! ### One source and its only target (R416) -/

/-- A mask of one target leaves that target alone in the order, wherever the turn stands. -/
theorem targetOrder_single {r : Src} {t : Nat} (ht : t < 5) (hmask : r.tmask = BitVec.ofNat 5 (2 ^ t)) : targetOrder r = [t] := by
  have h : ∀ start < 6, ∀ t < 5, (((List.range 5).map fun i => (start + i) % 5).filter fun k => (BitVec.ofNat 5 (2 ^ t)).getLsbD k) = [t] := by
    decide
  have hstart : (if r.last < 5 then r.last + 1 else 0) < 6 := by split <;> omega
  rw [targetOrder, hmask]
  exact h _ hstart t ht

theorem choose_single {s : State} {n t : Nat} (h : (targetOrder (s.evr.srcs.get n)).filter (accepts s (s.evr.srcs.get n)) = [t]) :
    choose s [n] = [(t, n)] := by
  rw [choose, List.map_singleton, h]
  simp [Nat.repeat, offer]

/-- A source that is not pending has nothing deferred. -/
theorem noteDeferred_idle {s : State} {n : Nat} (h : (s.evr.srcs.get n).pend = false) : noteDeferred s n = s := by
  simp [noteDeferred, h]

/-- One candidate whose only target accepts is srcPresented there, and is no longer pending. -/
theorem routeCycle_single {s : State} {n t : Nat} (ht : t < 5) (hmask : (s.evr.srcs.get n).tmask = BitVec.ofNat 5 (2 ^ t))
    (hacc : accepts s (s.evr.srcs.get n) t = true) (hpend : ((present s t n).evr.srcs.get n).pend = false) :
    routeCycle s [n] = present s t n := by
  have hone : (targetOrder (s.evr.srcs.get n)).filter (accepts s (s.evr.srcs.get n)) = [t] := by
    simp [targetOrder_single ht hmask, hacc]
  rw [routeCycle, choose_single hone]
  exact noteDeferred_idle hpend

/-- The source `n` after its record has been written to target `t`. -/
def srcPresented (t : Nat) (r : Src) : Src :=
  { r with pend := false, last := t, records := r.records + 1, refire := false, deferred := false, queued := decide (t < 4) }

theorem sendMsix_mem (s : State) (v : Nat) : (sendMsix s v).mem = s.mem := by
  unfold sendMsix
  split <;> rfl

theorem sendMsix_evr (s : State) (v : Nat) : (sendMsix s v).evr = s.evr := by
  unfold sendMsix
  split <;> rfl

theorem sendMsix_open {s : State} {v : Nat} (h : s.glb.msixOpen.get v = true) :
    sendMsix s v = emit s (.msix v (s.glb.msixAddr.get v) (s.glb.msixData.get v)) := if_pos h

/-- The record that a keeper's queue receives for source `n`. -/
def keeperRecord (s : State) (n : Nat) : KRec :=
  ⟨n, (s.evr.srcs.get n).prio.toNat, (s.evr.srcs.get n).refire, (s.evr.srcs.get n).fire, now s⟩

theorem present_keeper {s : State} {n k : Nat} (hk : k < 4) : present s k n = { s with evr := { s.evr with
    srcs := s.evr.srcs.upd n (srcPresented k)
    lastSrc := s.evr.lastSrc.set k (some n)
    keepers := s.evr.keepers.upd k fun c => { c with q := c.q ++ [keeperRecord s n], tail := c.tail + 1, irq := true } } } := by
  rw [present]
  dsimp only
  rw [if_pos hk]
  rfl

/-- The host queue of source `n`, its first-record rule (R417), and the state with its record written and its TAIL moved. -/
def hostPresented (s : State) (n : Nat) (q : HostEvq) : State :=
  let r := s.evr.srcs.get n
  let s' := hostWrite s (rfld q.base 63 12 * 4096 + 16 * (q.tail % evqSize q)) (eventRecord s n r q.phase)
  { s' with evr := { s.evr with
    srcs := s.evr.srcs.upd n (srcPresented 4)
    lastSrc := s.evr.lastSrc.set 4 (some n)
    hostqs := s.evr.hostqs.upd r.vec.toNat fun q' => { q' with
      tail := (q.tail + 1) % (2 * evqSize q)
      phase := if (q.tail + 1) % evqSize q = 0 then !q.phase else q.phase
      sent := q'.sent || (evqCount q = 0 && !q.sent) } } }

theorem present_host {s : State} {n : Nat} {q : HostEvq} (hq : q = s.evr.hostqs.get (s.evr.srcs.get n).vec.toNat) (hd3 : s.pins.d3 = false) :
    present s 4 n = if evqCount q = 0 && !q.sent then sendMsix (hostPresented s n q) (s.evr.srcs.get n).vec.toNat else hostPresented s n q := by
  subst hq
  simp [present, hd3, hostPresented, hostWrite, Tbl.upd, srcPresented, setEvr, updSrc]

section
variable {s : State} {n : Nat} {r : Src}

/-- With one routable source EVENT_ROUTING is the routing cycle of that source. -/
theorem eventRouting_single (hone : (s.evr.srcs.filter fun p => routable p.1 p.2) = [(n, r)]) :
    exec .eventRouting s = .next (routeCycle s [n]) := by
  simp [exec, execEventRouting, hone]

theorem eventRouting_none (hnone : (s.evr.srcs.filter fun p => routable p.1 p.2) = []) : exec .eventRouting s = .next s := by
  simp [exec, execEventRouting, hnone, routeCycle, choose, Nat.repeat, offer]

theorem eventRouting_keeper {k : Nat} (hone : (s.evr.srcs.filter fun p => routable p.1 p.2) = [(n, r)]) (hr : s.evr.srcs.get n = r)
    (hk : k < 4) (hmask : r.tmask = BitVec.ofNat 5 (2 ^ k)) (hacc : accepts s r k = true) :
    exec .eventRouting s = .next (present s k n) := by
  subst hr
  rw [eventRouting_single hone, routeCycle_single (by omega) hmask hacc]
  simp [present_keeper hk, srcPresented]

theorem hostPresented_src (s : State) (n : Nat) (q : HostEvq) : (hostPresented s n q).evr.srcs = s.evr.srcs.upd n (srcPresented 4) := rfl

theorem present_host_srcs {q : HostEvq} (hq : q = s.evr.hostqs.get (s.evr.srcs.get n).vec.toNat) (hd3 : s.pins.d3 = false) :
    (present s 4 n).evr = (hostPresented s n q).evr := by
  rw [present_host hq hd3]
  split
  · exact sendMsix_evr _ _
  · rfl

theorem eventRouting_host {q : HostEvq} (hone : (s.evr.srcs.filter fun p => routable p.1 p.2) = [(n, r)]) (hr : s.evr.srcs.get n = r)
    (hmask : r.tmask = 16) (hq : q = s.evr.hostqs.get r.vec.toNat) (hen : q.en = true) (hfull : evqFull q = false) (hd3 : s.pins.d3 = false) :
    exec .eventRouting s = .next (present s 4 n) := by
  subst hr
  have hacc : accepts s (s.evr.srcs.get n) 4 = true := by simp [accepts, ← hq, hen, hfull]
  rw [eventRouting_single hone, routeCycle_single (t := 4) (by omega) hmask hacc]
  simp [present_host_srcs hq hd3, hostPresented_src, srcPresented]

end

/-- The message that a first record of a queue sends. -/
theorem present_host_out {s : State} {n : Nat} {q : HostEvq} (hq : q = s.evr.hostqs.get (s.evr.srcs.get n).vec.toNat) (hd3 : s.pins.d3 = false) :
    (evqCount q = 0 → q.sent = false → s.glb.msixOpen.get (s.evr.srcs.get n).vec.toNat = true → (present s 4 n).out = s.out ++
      [.msix (s.evr.srcs.get n).vec.toNat (s.glb.msixAddr.get (s.evr.srcs.get n).vec.toNat) (s.glb.msixData.get (s.evr.srcs.get n).vec.toNat)]) ∧
    (q.sent = true → (present s 4 n).out = s.out) := by
  rw [present_host hq hd3]
  refine ⟨fun hempty hsent hopen => ?_, fun hsent => ?_⟩
  · rw [if_pos (by simp [hempty, hsent]), sendMsix_open (by exact hopen)]
    rfl
  · rw [if_neg (by simp [hsent])]
    rfl

theorem present_host_mem {s : State} {n : Nat} {q : HostEvq} (hq : q = s.evr.hostqs.get (s.evr.srcs.get n).vec.toNat) (hd3 : s.pins.d3 = false) :
    (present s 4 n).mem =
      (hostWrite s (rfld q.base 63 12 * 4096 + 16 * (q.tail % evqSize q)) (eventRecord s n (s.evr.srcs.get n) q.phase)).mem := by
  rw [present_host hq hd3]
  split
  · exact sendMsix_mem _ _
  · rfl

/-! ### The keeper's commands (R419 to R421) -/

/-- The keeper after it has taken the record `r`, with `l` behind it, by writing `h` to HEAD. -/
def keeperTook (h : BitVec 4) (r : KRec) (l : List KRec) (c : Keeper) : Keeper :=
  { c with head := h, q := l, stack := (c.runPrio, r.src) :: c.stack, runPrio := r.prio, irq := !l.isEmpty }

section
variable {s : State} {k : Fin 4}

theorem keeperTake_takes {r : KRec} {l : List KRec} (hq : (s.evr.keepers.get k.val).q = r :: l) :
    exec (.keeperTake k ((s.evr.keepers.get k.val).head + 1)) s =
      .next (updSrc (setEvr s fun e => { e with
        keepers := e.keepers.upd k.val (keeperTook ((s.evr.keepers.get k.val).head + 1) r l) }) r.src fun x => { x with act := true, queued := false }) := by
  rw [exec, execKeeperTake]
  simp only [hq]
  exact if_neg (fun h => h rfl)

theorem keeperTake_wrongHead {h : BitVec 4} (hh : h ≠ (s.evr.keepers.get k.val).head + 1) : exec (.keeperTake k h) s = .next s := by
  rw [exec, execKeeperTake]
  cases (s.evr.keepers.get k.val).q with
  | nil => rfl
  | cons r l => exact if_pos hh

theorem keeperTake_empty {h : BitVec 4} (hq : (s.evr.keepers.get k.val).q = []) : exec (.keeperTake k h) s = .next s := by
  rw [exec, execKeeperTake]
  simp only [hq]

/-- The state in which keeper `k` has popped its stack and source `n` is no longer active. -/
def eoiPopped (s : State) (k p n : Nat) (l : List (Nat × Nat)) : State :=
  updSrc (setEvr s fun e => { e with keepers := e.keepers.upd k fun c => { c with stack := l, runPrio := p } }) n
    fun x => { x with act := false, refire := x.pend }

theorem eoi_pops {src : BitVec 10} {p : Nat} {l : List (Nat × Nat)} (hs : (s.evr.keepers.get k.val).stack = (p, src.toNat) :: l)
    (hp : (s.evr.srcs.get src.toNat).pend = false) : exec (.eoi k src) s = .next (eoiPopped s k.val p src.toNat l) := by
  rw [exec, execEoi]
  simp [hs, routable, hp, eoiPopped]

/-- The state in which a mismatched EOI is noted and logged. -/
def eoiRefused (s : State) (k : Nat) : State :=
  flog (setEvr s fun e => { e with keepers := e.keepers.upd k fun c => { c with eoiErr := true } }) { status := .eoiOrder, kind := 9 }

theorem eoi_refused {src : BitVec 10} (h : ∀ p n l, (s.evr.keepers.get k.val).stack = (p, n) :: l → n ≠ src.toNat) :
    exec (.eoi k src) s = .next (eoiRefused s k.val) := by
  rw [exec, execEoi]
  cases hst : (s.evr.keepers.get k.val).stack with
  | nil => rfl
  | cons a l =>
    obtain ⟨p, n⟩ := a
    exact if_pos (h p n l hst)

theorem fire_keepers (s : State) (n : Nat) : (fire s n).evr.keepers = s.evr.keepers := by
  unfold fire fireN
  split <;> rfl

theorem fire_hostqs (s : State) (n : Nat) : (fire s n).evr.hostqs = s.evr.hostqs := by
  unfold fire fireN
  split <;> rfl

theorem flog_keepers (s : State) (r : FRec) : (flog s r).evr.keepers = s.evr.keepers := fire_keepers _ _

theorem flog_logSeq (s : State) (r : FRec) : (flog s r).flt.logSeq = s.flt.logSeq + 1 := by
  rw [flog, fire_flt]

theorem keeperWake_wakes (hs : (s.evr.keepers.get k.val).sleep = true) (hw : wakes s k.val = true) : exec (.keeperWake k) s =
    .next (setEvr s fun e => { e with keepers := e.keepers.upd k.val fun c => { c with sleep := false, en := c.savedEn } }) := by
  simp [exec, execKeeperWake, hs, hw]

theorem keeperWake_idle (hw : wakes s k.val = false) : exec (.keeperWake k) s = .next s := by
  simp [exec, execKeeperWake, hw]

theorem keeperSleep_sleeps (s : State) (k : Fin 4) : exec (.keeperSleep k) s = .next (setEvr s fun e =>
    { e with keepers := e.keepers.upd k.val fun c => if c.sleep then c else { c with sleep := true, savedEn := c.en } }) := rfl

end

/-! ### The host event queues (R417, R425) -/

section
variable {s : State} {v : Fin 64}

/-- A HEAD that has reached TAIL leaves the queue empty, with no message sent. -/
theorem hostEventQueueHead_reaches {h : BitVec 13} (hon : blockOn s = true) (hen : (s.evr.hostqs.get v.val).en = true)
    (hh : h.toNat = (s.evr.hostqs.get v.val).tail) (ht : (s.evr.hostqs.get v.val).tail < 2 * evqSize (s.evr.hostqs.get v.val)) :
    exec (.hostEventQueueHead v h) s = .next { s with evr := { s.evr with
      hostqs := s.evr.hostqs.upd v.val fun x => { x with head := (s.evr.hostqs.get v.val).tail, sent := false } } } := by
  rw [exec, execHostEventQueueHead, gate_on _ _ hon]
  simp [hen, hh, Nat.not_le.2 ht, evqCount, Tbl.upd, setEvr]

theorem hostEventQueueHead_disabled {h : BitVec 13} (hen : (s.evr.hostqs.get v.val).en = false) : exec (.hostEventQueueHead v h) s = .next s := by
  rw [exec, execHostEventQueueHead]
  cases hon : blockOn s with
  | true => rw [gate_on _ _ rfl]; simp [hen]
  | false => exact gate_off _ _ rfl

theorem hostEventQueueEnable_starts {w : W64} (hon : blockOn s = true) (hen : (s.evr.hostqs.get v.val).en = false) (hw : rbit w 0 = true)
    (hok : evqOk (rfld (w &&& 0xFFFFFFFFFFFFF000) 63 12) (s.evr.hostqs.get v.val).log2 = true) :
    exec (.hostEventQueueEnable v w) s = .next { s with evr := { s.evr with hostqs := s.evr.hostqs.upd v.val fun q =>
      { q with base := w &&& 0xFFFFFFFFFFFFF000, en := true, head := 0, tail := 0, phase := true, sent := false } } } := by
  rw [exec, execHostEventQueueEnable, gate_on _ _ hon]
  dsimp only
  rw [if_neg (by simp [hen]), if_neg (by simp [hw]), if_pos hok]
  rfl

theorem hostEventQueueEnable_refused {w : W64} (hon : blockOn s = true) (hen : (s.evr.hostqs.get v.val).en = false) (hw : rbit w 0 = true)
    (hbad : evqOk (rfld (w &&& 0xFFFFFFFFFFFFF000) 63 12) (s.evr.hostqs.get v.val).log2 = false) :
    exec (.hostEventQueueEnable v w) s = .next (hqErr (setEvr s fun e =>
      { e with hostqs := e.hostqs.upd v.val fun q => { q with base := w &&& 0xFFFFFFFFFFFFF000 } }) fun h => { h with sqErr := true }) := by
  rw [exec, execHostEventQueueEnable, gate_on _ _ hon]
  dsimp only
  rw [if_neg (by simp [hen]), if_neg (by simp [hw]), if_neg (by simp only [hbad, Bool.false_eq_true, not_false_eq_true])]

theorem evqOk_wrongSize (b : Nat) {log2 : Nat} (h : log2 < 6 ∨ 12 < log2) : evqOk b log2 = false := by
  simp only [evqOk, Bool.and_eq_false_iff, decide_eq_false_iff_not]
  omega

end

/-- Settles O40: one routable source is presented to its target, a keeper takes and ends its records in order, sleeps and wakes, and a host
queue takes its HEAD and its enable. -/
theorem eventsReachTheirTargets : Obligations.EventsReachTheirTargets := by
  unfold Obligations.EventsReachTheirTargets
  refine ⟨fun s => eventRouting_none, fun s n k r hone hr hk hmask hacc => ?_, fun s n r q hone hr hmask hq hen hfull hd3 => ?_,
    fun s k r l hq => ?_, fun s k h => keeperTake_wrongHead, fun s k h => keeperTake_empty, fun s k src p l hs hp => ?_, fun s k src h => ?_,
    fun s k hs hw => ?_, fun s k => keeperWake_idle, fun s k hs => ?_, fun s v h q hon hq hen hh ht _ => ?_, fun s v h => hostEventQueueHead_disabled,
    fun s v w => hostEventQueueEnable_starts, fun s v w hon hen hw hbad => ?_⟩
  · refine ⟨_, eventRouting_keeper hone hr hk hmask hacc, ?_⟩
    subst hr
    rw [present_keeper hk]
    exact ⟨by simp [keeperRecord], by simp, by simp [srcPresented], by simp [srcPresented, hk], by simp [srcPresented], by simp [srcPresented],
      fun m hm => by simp [Tbl.get_upd_ne _ _ _ hm], fun m hm => by simp [Tbl.get_upd_ne _ _ _ hm], rfl, rfl⟩
  · refine ⟨_, eventRouting_host hone hr hmask hq hen hfull hd3, ?_⟩
    subst hr
    obtain ⟨hfirst, hlater⟩ := present_host_out hq hd3
    refine ⟨present_host_mem hq hd3, ?_⟩
    rw [present_host_srcs hq hd3]
    exact ⟨by simp [hostPresented], by simp [hostPresented, ← hq], by simp [hostPresented, srcPresented], by simp [hostPresented, srcPresented],
      fun m hm => by simp [hostPresented, Tbl.get_upd_ne _ _ _ hm], hfirst, hlater⟩
  · exact ⟨_, keeperTake_takes hq, by simp [keeperTook], by simp [keeperTook], by simp [keeperTook], by simp [keeperTook], by simp,
      fun m hm => by simp [Tbl.get_upd_ne _ _ _ hm], fun m hm => by simp [Tbl.get_upd_ne _ _ _ hm], rfl⟩
  · exact ⟨_, eoi_pops hs hp, by simp [eoiPopped], by simp [eoiPopped], by simp [eoiPopped],
      fun m hm => by simp [eoiPopped, Tbl.get_upd_ne _ _ _ hm], rfl, rfl⟩
  · refine ⟨_, eoi_refused h, ?_, ?_, flog_logSeq _ _, fire_mem _ _⟩
    all_goals rw [eoiRefused, flog_keepers]; simp
  · exact ⟨_, keeperWake_wakes hs hw, by simp, rfl⟩
  · exact ⟨_, keeperSleep_sleeps s k, by simp [hs], rfl⟩
  · subst hq
    exact hostEventQueueHead_reaches hon hen hh ht
  · refine ⟨_, hostEventQueueEnable_refused hon hen hw (evqOk_wrongSize _ hbad), ?_, ?_⟩
    · rw [hqErr, fire_hostqs]
      simp [hen]
    · rw [hqErr, fire_hq]

end Sys2Proof.Machine
end

section
/-!
PROOFS. A signal at the sync unit: applied whole, or refused with SEM_OVERFLOW (O25).
-/

namespace Sys2Proof.Machine

/-! ### The report to the requester -/

/-- The state in which a TOD that reports has been told how its signal ended; another requester keeps no report. -/
def toldSig (v : State) (g : SemSig) (ok : Bool) : State :=
  match g.who with
  | .tod t u => updTod v t u fun w => if w.phase = .reporting then { w with report := some ok } else w
  | _ => v

/-- A report reaches the window of one tile and nothing else. -/
theorem toldSig_eq (v : State) (g : SemSig) (ok : Bool) :
    toldSig v g ok = v ∨ ∃ (t : Nat) (f : List TodSlot → List TodSlot), toldSig v g ok = updTile v t fun x => { x with window := f x.window } := by
  unfold toldSig
  split
  · next t u _ => exact .inr ⟨t, List.map fun w => if w.uid = u then (if w.phase = .reporting then { w with report := some ok } else w) else w, rfl⟩
  · exact .inl rfl

theorem toldSig_tile (v : State) (g : SemSig) (ok : Bool) (k : Nat) :
    ∃ w, (toldSig v g ok).tiles.get k = { v.tiles.get k with window := w } := by
  rcases toldSig_eq v g ok with h | ⟨t, f, h⟩
  · rw [h]
    exact ⟨(v.tiles.get k).window, rfl⟩
  · rw [h, updTile_tiles, Tbl.get_upd]
    split
    · next hk =>
      rw [hk]
      exact ⟨f (v.tiles.get t).window, rfl⟩
    · exact ⟨(v.tiles.get k).window, rfl⟩

theorem toldSig_frame (v : State) (g : SemSig) (ok : Bool) :
    (toldSig v g ok).mem = v.mem ∧ (toldSig v g ok).evr = v.evr ∧ (toldSig v g ok).cp = v.cp := by
  rcases toldSig_eq v g ok with h | ⟨t, f, h⟩ <;> rw [h] <;> exact ⟨rfl, rfl, rfl⟩

/-! ### A fault at the tile that holds the semaphore -/

theorem holderFault_tile (s : State) (t : Nat) (ovf : Bool) (sem : Nat) (who : Requester) :
    (holderFault s t ovf sem who).tiles.get t = semErr (s.tiles.get t) ovf sem (whoFields s who).1 (whoFields s who).2.1
      (whoFields s who).2.2.1 (whoFields s who).2.2.2 := by
  unfold holderFault
  dsimp only
  split
  · split <;> simp
  · simp

theorem holderFault_frame (s : State) (t : Nat) (ovf : Bool) (sem : Nat) (who : Requester) :
    (holderFault s t ovf sem who).mem = s.mem ∧ (holderFault s t ovf sem who).cp = s.cp := by
  unfold holderFault
  dsimp only
  split
  · split
    · exact ⟨rfl, rfl⟩
    · exact ⟨fire_mem _ _, fire_cp _ _⟩
  · exact ⟨fire_mem _ _, fire_cp _ _⟩

/-! ### One signal served -/

section
variable {s : State} {t : Nat} {g : SemSig}

theorem serveSig_fits (h : ((s.tiles.get t).sems.get g.sem).toNat + g.count ≤ 0xFFFF) :
    serveSig s t g = toldSig (updTile s t fun x => applySig x g.sem g.count) g true := by
  have hok : semFits (s.tiles.get t) g.sem g.count = true := decide_eq_true h
  rw [serveSig, hok]
  unfold toldSig
  cases g.who <;> rfl

/-- A refused signal leaves a record at the tile and a report; a command that sent it then faults. -/
theorem serveSig_overflows (h : 0xFFFF < ((s.tiles.get t).sems.get g.sem).toNat + g.count) :
    serveSig s t g = toldSig (holderFault s t true g.sem g.who) g false ∨
    ∃ j, g.job = some j ∧ toldSig (holderFault s t true g.sem g.who) g false = holderFault s t true g.sem g.who ∧
      serveSig s t g = unitFault (holderFault s t true g.sem g.who) j .semOverflow (whoUnit (holderFault s t true g.sem g.who) g.who 0x08) := by
  have hok : semFits (s.tiles.get t) g.sem g.count = false := decide_eq_false (Nat.not_le.2 h)
  rw [serveSig, hok]
  unfold toldSig
  cases hw : g.who with
  | tod t' u => exact .inl rfl
  | chan e ch => cases hj : g.job with
    | none => exact .inl rfl
    | some j => exact .inr ⟨j, rfl, rfl, rfl⟩
  | seq d j' => cases hj : g.job with
    | none => exact .inl rfl
    | some j => exact .inr ⟨j, rfl, rfl, rfl⟩
  | xch d => cases hj : g.job with
    | none => exact .inl rfl
    | some j => exact .inr ⟨j, rfl, rfl, rfl⟩

theorem serveSig_overflows_noJob (h : 0xFFFF < ((s.tiles.get t).sems.get g.sem).toNat + g.count) (hj : g.job = none) :
    serveSig s t g = toldSig (holderFault s t true g.sem g.who) g false :=
  (serveSig_overflows h).resolve_right fun ⟨_, hjob, _⟩ => nomatch hj.symm.trans hjob

/-- A sum that fits is the sum of the numbers. -/
theorem toNat_add_count {x : BitVec 16} {n : Nat} (h : x.toNat + n ≤ 0xFFFF) : (x + BitVec.ofNat 16 n).toNat = x.toNat + n := by
  rw [BitVec.toNat_add, BitVec.toNat_ofNat, Nat.mod_eq_of_lt (by omega : n < 2 ^ 16), Nat.mod_eq_of_lt (by omega)]

/-- A signal that fits adds its count to its semaphore alone. -/
theorem serveSig_adds (h : ((s.tiles.get t).sems.get g.sem).toNat + g.count ≤ 0xFFFF) :
    (((serveSig s t g).tiles.get t).sems.get g.sem).toNat = ((s.tiles.get t).sems.get g.sem).toNat + g.count ∧
    (∀ k, k ≠ g.sem → ((serveSig s t g).tiles.get t).sems.get k = (s.tiles.get t).sems.get k) ∧
    ((serveSig s t g).tiles.get t).semOvf = (s.tiles.get t).semOvf ∧ ((serveSig s t g).tiles.get t).line = (s.tiles.get t).line := by
  obtain ⟨w, hw⟩ := toldSig_tile (updTile s t fun x => applySig x g.sem g.count) g true t
  rw [serveSig_fits h, hw]
  simp only [updTile_tiles, Tbl.get_upd_self, applySig]
  exact ⟨toNat_add_count h, fun k hk => Tbl.get_upd_ne _ _ _ hk, trivial, trivial⟩

/-- The state that a refused signal leaves keeps the semaphores and marks SEM_OVF. -/
theorem refusedSig_marks (s : State) (t : Nat) (g : SemSig) : ∀ v, v = toldSig (holderFault s t true g.sem g.who) g false →
    (v.tiles.get t).sems = (s.tiles.get t).sems ∧ (v.tiles.get t).semOvf = true ∧ (v.tiles.get t).line = (s.tiles.get t).line := by
  rintro v rfl
  obtain ⟨w, hw⟩ := toldSig_tile (holderFault s t true g.sem g.who) g false t
  rw [hw, holderFault_tile]
  exact ⟨rfl, Bool.or_true _, rfl⟩

end

/-! ### SEM_REQUEST with one signal -/

/-- The tile whose inbox has been taken. -/
def boxTaken (s : State) (t : Nat) : State := updTile s t fun x => { x with inbox := [] }

/-- With one signal that no command waits for, and nobody in line after it, SEM_REQUEST serves that signal. -/
theorem semRequest_single {s : State} {t : TileNo} {g : SemSig} (hbox : (s.tiles.get t.val).inbox = [g]) (hj : g.job = none)
    (hline : ((serveSig (boxTaken s t.val) t.val g).tiles.get t.val).line = []) :
    exec (.semRequest t) s = .next (serveSig (boxTaken s t.val) t.val g) := by
  have horder : [g].filter (ownSig t.val) ++ [g].filter (fun g => !ownSig t.val g) = [g] := by
    cases h : ownSig t.val g <;> simp [h]
  rw [exec, execSemRequest, hbox, horder]
  simp only [List.foldl_cons, List.foldl_nil, List.filterMap_cons, hj, List.filterMap_nil, List.eraseDups_nil]
  rw [boxTaken] at hline ⊢
  rw [hline]
  rfl

theorem boxTaken_sems (s : State) (t : Nat) : ((boxTaken s t).tiles.get t).sems = (s.tiles.get t).sems := by simp [boxTaken]

theorem boxTaken_semOvf (s : State) (t : Nat) : ((boxTaken s t).tiles.get t).semOvf = (s.tiles.get t).semOvf := by simp [boxTaken]

theorem boxTaken_line (s : State) (t : Nat) : ((boxTaken s t).tiles.get t).line = (s.tiles.get t).line := by simp [boxTaken]

/-- Settles O25: the sync unit adds a sum that fits, and else leaves the semaphores, marks SEM_OVF and only then faults the sender's command. -/
theorem signalIsAppliedWholeOrNotAtAll : Obligations.SignalIsAppliedWholeOrNotAtAll := by
  unfold Obligations.SignalIsAppliedWholeOrNotAtAll
  refine ⟨fun s t g hbox hline hj h => ?_, fun s t g hbox hline hj h => ?_, fun s t g h => ?_, fun s t g h => ?_⟩
  · rw [← boxTaken_sems] at h
    obtain ⟨hsum, hother, hovf, hl⟩ := serveSig_adds h
    obtain ⟨hmem, hevr, hcp⟩ := toldSig_frame (updTile (boxTaken s t.val) t.val fun x => applySig x g.sem g.count) g true
    rw [← serveSig_fits h] at hmem hevr hcp
    rw [boxTaken_sems] at hsum hother
    exact ⟨_, semRequest_single hbox hj (by rw [hl, boxTaken_line, hline]), hsum, hother, hovf.trans (boxTaken_semOvf _ _), hmem, hevr, hcp⟩
  · rw [← boxTaken_sems] at h
    have hs := serveSig_overflows_noJob h hj
    obtain ⟨hsems, hovf, hl⟩ := refusedSig_marks _ _ _ _ hs
    obtain ⟨hmem, _, hcp⟩ := toldSig_frame (holderFault (boxTaken s t.val) t.val true g.sem g.who) g false
    obtain ⟨hmem', hcp'⟩ := holderFault_frame (boxTaken s t.val) t.val true g.sem g.who
    rw [← hs] at hmem hcp
    exact ⟨_, semRequest_single hbox hj (by rw [hl, boxTaken_line, hline]), hsems.trans (boxTaken_sems _ _), hovf, hmem.trans hmem', hcp.trans hcp'⟩
  · obtain ⟨hsum, hother, _⟩ := serveSig_adds h
    exact ⟨hsum, hother⟩
  · obtain ⟨hsems, hovf, _⟩ := refusedSig_marks s t.val g _ rfl
    refine ⟨_, hsems, hovf, ?_⟩
    rcases serveSig_overflows h with hs | ⟨j, hjob, htold, hs⟩
    · exact .inl hs
    · exact .inr ⟨j, hjob, htold.symm ▸ hs⟩

end Sys2Proof.Machine
end

section
/-!
PROOFS. Barrier registers, rounds, and the release of cascade barriers (O37).
-/

namespace Sys2Proof.Machine

/-! ### A write of a barrier's register (R405) -/

/-- A barrier whose W1C bits have been written with `v`. -/
def barW1c (v : W64) (b : Barrier) : Barrier := { b with phaseErr := b.phaseErr && !rbit v 60, cfgErr := b.cfgErr && !rbit v 59 }

/-- A barrier as an accepted configuring write leaves it. -/
def barConfigured (v : W64) (b : Barrier) : Barrier :=
  { en := rbit v 63, expect := rfld v 42 32, phaseErr := b.phaseErr && !rbit v 60, cfgErr := b.cfgErr && !rbit v 59 }

section
variable {casc : Bool} {v : W64} {b : Barrier}

theorem writeBar_same (hen : rbit v 63 = b.en) (hex : rfld v 42 32 = b.expect) : writeBar casc v b = (barW1c v b, false) := by
  rw [writeBar]
  exact if_pos (by simp [hen, hex])

theorem writeBar_accepted (hnew : rbit v 63 ≠ b.en ∨ rfld v 42 32 ≠ b.expect) (hidle : barIdle b = true)
    (hfits : rbit v 63 = true → (if casc then 0 else 1) ≤ rfld v 42 32 ∧ rfld v 42 32 ≤ 1040) :
    writeBar casc v b = (barConfigured v b, false) := by
  have hw : barIdle (barW1c v b) = true := hidle
  have hin : ¬ (rbit v 63 = true ∧ (rfld v 42 32 < (if casc then 0 else 1) ∨ 1040 < rfld v 42 32)) := fun ⟨hen, h⟩ => by
    obtain ⟨hlo, hhi⟩ := hfits hen
    omega
  rw [writeBar]
  refine (if_neg ?_).trans (if_neg ?_)
  · simpa [imp_iff_not_or] using hnew
  · have : barIdle { b with phaseErr := b.phaseErr && !rbit v 60, cfgErr := b.cfgErr && !rbit v 59 } = true := hw
    simpa [this] using hin

theorem writeBar_refused (hnew : rbit v 63 ≠ b.en ∨ rfld v 42 32 ≠ b.expect)
    (hbad : barIdle b = false ∨ (rbit v 63 = true ∧ (rfld v 42 32 < (if casc then 0 else 1) ∨ 1040 < rfld v 42 32))) :
    writeBar casc v b = ({ barW1c v b with cfgErr := true }, true) := by
  rw [writeBar]
  refine (if_neg ?_).trans (if_pos ?_)
  · simpa [imp_iff_not_or] using hnew
  · rcases hbad with hbusy | hsize
    · have : barIdle { b with phaseErr := b.phaseErr && !rbit v 60, cfgErr := b.cfgErr && !rbit v 59 } = false := hbusy
      simp [this]
    · simp [hsize]

end

section
variable {s : State} {b : Fin 64} {v : W64}

theorem barrierConfigWrite_module (hon : blockOn s = true) (hb : b.val < 32) (r : Barrier × Bool) (hr : writeBar false v (s.bcn.mbar.get b.val) = r) :
    exec (.barrierConfigWrite false b v) s =
      if r.2 then .next (fire (updBar s false b.val fun _ => r.1) 660) else .next (updBar s false b.val fun _ => r.1) := by
  subst hr
  rw [exec, execBarrierConfigWrite, gate_on _ _ hon]
  exact if_neg (by simp [hb])

theorem sendArrive_disabled {u : State} (h : (u.bcn.cbar.get b.val).en = false) : sendArrive u b.val = u := by
  simp [sendArrive, barOf, h]

theorem barrierConfigWrite_cascadeOff (hon : blockOn s = true) (hr : writeBar true v (s.bcn.cbar.get b.val) = (barConfigured v (s.bcn.cbar.get b.val), false))
    (hoff : rbit v 63 = false) :
    exec (.barrierConfigWrite true b v) s = .next (updBar s true b.val fun _ => barConfigured v (s.bcn.cbar.get b.val)) := by
  have hbar : writeBar true v (barOf s true b.val) = (barConfigured v (s.bcn.cbar.get b.val), false) := hr
  rw [exec, execBarrierConfigWrite, gate_on _ _ hon, hbar]
  exact congrArg Host.Outcome.next (sendArrive_disabled (by simp [updBar, barConfigured, hoff]))

/-! ### The round of a barrier (R403) -/

theorem completeRound_module (s : State) (b : Nat) :
    completeRound s false b = (s.bcn.mbar.get b).in0.foldl releasePart (updBar s false b nextRound) := rfl

theorem barrierRoundComplete_completes (hen : (s.bcn.mbar.get b.val).en = true) (hfull : (s.bcn.mbar.get b.val).expect ≤ (s.bcn.mbar.get b.val).cnt0) :
    exec (.barrierRoundComplete false b) s = .next (completeRound s false b.val) := by
  simp [exec, execBarrierRoundComplete, barOf, hen, hfull]

theorem barrierRoundComplete_early (h : (s.bcn.mbar.get b.val).cnt0 < (s.bcn.mbar.get b.val).expect) :
    exec (.barrierRoundComplete false b) s = .next s := by
  simp [exec, execBarrierRoundComplete, barOf, Nat.not_le.2 h]

/-! ### ARRIVE at the timing root (R411 step 2) -/

/-- The root after it has noted that member `m` has arrived for round `n`. -/
def arrivalNoted (s : State) (c m n : Nat) : State :=
  updBar s true c fun b => { b with arrived := if b.arrived.contains (4 * m + n) then b.arrived else b.arrived ++ [4 * m + n] }

theorem arrivalNoted_bar (s : State) (c m n : Nat) : (arrivalNoted s c m n).bcn.cbar.get c = { s.bcn.cbar.get c with
    arrived := if (s.bcn.cbar.get c).arrived.contains (4 * m + n) then (s.bcn.cbar.get c).arrived else (s.bcn.cbar.get c).arrived ++ [4 * m + n] } := by
  simp [arrivalNoted, updBar]

theorem arrivalNoted_mem (s : State) (c m n k : Nat) :
    k ∈ ((arrivalNoted s c m n).bcn.cbar.get c).arrived ↔ k ∈ (s.bcn.cbar.get c).arrived ∨ k = 4 * m + n := by
  rw [arrivalNoted_bar]
  dsimp only
  split
  · next h => exact ⟨.inl, fun hk => hk.elim id fun e => e ▸ List.contains_iff_mem.1 h⟩
  · simp

theorem arrive_root {m : Fin 512} {c : Fin 64} {n : BitVec 2} (hroot : s.bcn.root = true) :
    exec (.arrive m c n) s = .next (rootCheck (arrivalNoted s c.val m.val n.toNat) c.val) := by
  rw [exec, execArrive]
  exact if_neg (by simp [hroot])

theorem rootCheck_waits {u : State} {c k : Nat} (hk : k ∈ membersIn u) (h : 4 * k + (u.bcn.cbar.get c).round.toNat ∉ (u.bcn.cbar.get c).arrived) :
    rootCheck u c = u := by
  have hall : ((membersIn u).all fun m => (u.bcn.cbar.get c).arrived.contains (4 * m + (u.bcn.cbar.get c).round.toNat)) = false :=
    List.all_eq_false.2 ⟨k, hk, by simpa using h⟩
  rw [rootCheck]
  exact if_neg (by simp only [barOf, if_true, hall]; simp)

theorem sentFrom_foldl {α : Type} {f : State → α → State} (hf : ∀ s a, SentFrom s (f s a)) (l : List α) (s : State) : SentFrom s (l.foldl f s) :=
  List.foldlRecOn l _ (motive := SentFrom s) (.refl s) fun t ht a _ => ht.trans (hf t a)

/-- When every member has arrived, T_rel is MARGIN after the root's cascade time. -/
theorem rootCheck_releases {u : State} {c : Nat} (hroot : u.bcn.root = true) (htrel : (u.bcn.cbar.get c).trel = none)
    (hall : ∀ k ∈ membersIn u, 4 * k + (u.bcn.cbar.get c).round.toNat ∈ (u.bcn.cbar.get c).arrived) (hne : (u.bcn.cbar.get c).arrived ≠ []) :
    ((rootCheck u c).bcn.cbar.get c).trel = some (cascTime u + BitVec.ofNat 64 u.bcn.margin.toNat) ∧
    ((rootCheck u c).bcn.cbar.get c).round = (u.bcn.cbar.get c).round ∧
    (rootCheck u c).mem = u.mem ∧ (rootCheck u c).cp = u.cp ∧ (rootCheck u c).tiles = u.tiles := by
  have hall' : ((membersIn u).all fun m => (u.bcn.cbar.get c).arrived.contains (4 * m + (u.bcn.cbar.get c).round.toNat)) = true :=
    List.all_eq_true.2 fun k hk => List.contains_iff_mem.2 (hall k hk)
  have hsent : ∀ pay : Nat → Bytes, SentFrom u ((membersIn u).foldl (fun s m => if m = selfModule s then s else sendTo s m kindRelease (pay m)) u) :=
    fun pay => sentFrom_foldl (fun s m => by
      split
      · exact .refl s
      · exact sentFrom_sendTo s _ _ _) _ u
  rw [rootCheck]
  dsimp only
  rw [if_pos (by simpa [barOf, hroot, htrel, hne] using hall')]
  generalize hv : List.foldl _ u (membersIn u) = v
  obtain ⟨lk, out, free, rfl⟩ : SentFrom u v := hv ▸ hsent _
  simp [updBar]

/-! ### RELEASE at a member (R411 steps 3 and 4) -/

section
variable {c : Fin 64} {n : BitVec 2} {t : W64}

theorem release_taken (hen : (s.bcn.cbar.get c.val).en = true) (hn : (s.bcn.cbar.get c.val).round = n) (ht : (s.bcn.cbar.get c.val).trel = none) :
    exec (.release c n t) s =
      if onReceipt s then .next (completeRound s true c.val)
      else if decide (0 < (cascTime s - t).toInt) then
        .next (completeRound (fire { s with bcn := { s.bcn with lateRel := satInc s.bcn.lateRel 1 } } 660) true c.val)
      else .next (updBar s true c.val fun b => { b with trel := some t }) := by
  rw [exec, execRelease]
  exact if_neg (by simp [barOf, hen, hn, ht])

/-- A release whose barrier has no entrants, away from the root, with the next round not yet full. -/
theorem completeRound_cascade (h0 : (s.bcn.cbar.get c.val).in0 = []) (hroot : s.bcn.root = false)
    (hnext : (s.bcn.cbar.get c.val).cnt1 < (s.bcn.cbar.get c.val).expect) :
    completeRound s true c.val = updBar s true c.val nextRound := by
  have hin : (barOf s true c.val).in0 = [] := h0
  rw [completeRound, hin]
  simp [sendArrive, rootCheck, barOf, updBar, nextRound, hroot, Nat.not_le.2 hnext]

theorem cascadeReleaseTime_due (ht : (s.bcn.cbar.get c.val).trel = some t) : exec (.cascadeReleaseTime c) s = .next (completeRound s true c.val) := by
  rw [exec, execCascadeReleaseTime]
  exact if_pos (by simp [barOf, ht])

theorem cascadeReleaseTime_none (ht : (s.bcn.cbar.get c.val).trel = none) : exec (.cascadeReleaseTime c) s = .next s := by
  rw [exec, execCascadeReleaseTime]
  exact if_neg (by simp [barOf, ht])

end

end

/-- Settles O37: the three outcomes of a register write, the completion of a round, ARRIVE at the root, and RELEASE at a member. -/
theorem barriersRoundsAndRelease : Obligations.BarriersRoundsAndRelease := by
  unfold Obligations.BarriersRoundsAndRelease
  refine ⟨fun s b v hon hb hidle hnew hfits => ?_, fun s b v hon hb hnew hbad => ?_, fun s b v hon hb hen hex => ?_,
    fun s b v hon hidle hen hoff => ?_, fun s b x hx hen hfull hin => ?_, fun s b j hen hfull hin => ?_, fun s b => barrierRoundComplete_early,
    fun s m c n hroot hn hnone hother => ?_, fun s m c n hroot hn htrel hall => ?_, fun s c n t hen hn ht hon htime => ?_,
    fun s c n t hen hn ht hon htime => ?_, fun s c n t hen hn ht hal hroot => ?_, fun s c t ht h0 hroot hnext => ?_, fun s c => cascadeReleaseTime_none⟩
  · rw [barrierConfigWrite_module hon hb _ (writeBar_accepted hnew hidle hfits)]
    rfl
  · rw [barrierConfigWrite_module hon hb _ (writeBar_refused hnew (hbad.imp_right fun h => ⟨h.1, h.2.imp_left Nat.lt_one_iff.2⟩))]
    rfl
  · rw [barrierConfigWrite_module hon hb _ (writeBar_same hen hex)]
    rfl
  · have hnew : rbit v 63 ≠ (s.bcn.cbar.get b.val).en ∨ rfld v 42 32 ≠ (s.bcn.cbar.get b.val).expect := .inl (by simp [hoff, hen])
    rw [barrierConfigWrite_cascadeOff hon (writeBar_accepted hnew hidle fun h => absurd (h.symm.trans hoff) (by decide)) hoff, barConfigured, hoff]
    rfl
  · subst hx
    rw [barrierRoundComplete_completes hen hfull, completeRound_module, hin]
    rfl
  · rw [barrierRoundComplete_completes hen hfull, completeRound_module, hin]
    rfl
  · obtain ⟨k, hk, hkm⟩ := hother
    rw [arrive_root hroot, rootCheck_waits (u := arrivalNoted s c.val m.val n.toNat) (k := k) hk]
    · simp [arrivalNoted, updBar, Tbl.upd, hnone]
    · rw [arrivalNoted_mem, hnone, arrivalNoted_bar]
      simp only [List.not_mem_nil, false_or, hn]
      omega
  · obtain ⟨hrel, hround, hmem, hcp, htiles⟩ := rootCheck_releases (u := arrivalNoted s c.val m.val n.toNat) (c := c.val) hroot
      (by rw [arrivalNoted_bar]; exact htrel)
      (fun k hk => by
        rw [arrivalNoted_mem, arrivalNoted_bar]
        simp only [hn]
        exact (hall k hk).symm.imp id fun e => by rw [e])
      (List.ne_nil_of_mem ((arrivalNoted_mem s c.val m.val n.toNat _).2 (.inr rfl)))
    exact ⟨_, arrive_root hroot, hrel, hround.trans (by rw [arrivalNoted_bar]; exact hn), hmem, hcp, htiles⟩
  · rw [release_taken hen hn ht, if_neg (by simp [hon]), if_neg (by simpa using htime)]
  · rw [release_taken hen hn ht, if_neg (by simp [hon]), if_pos (by simpa using htime)]
  · rw [release_taken hen hn ht, if_pos (by simp [onReceipt, hal, hroot])]
  · rw [cascadeReleaseTime_due ht, completeRound_cascade h0 hroot hnext]

end Sys2Proof.Machine
end

section
/-!
PROOFS. One entry of a table written twice is written once; the shared updates of links, dies and tiles follow.
-/

namespace Sys2Proof.Machine

section
variable {α : Type}

theorem Tbl.del_of_notMem {t : Tbl α} {k : Nat} (h : ∀ c ∈ t, c.1 ≠ k) : Tbl.del t k = t := by
  induction t with
  | nil => rfl
  | cons c r ih =>
    obtain ⟨hc, hr⟩ := List.forall_mem_cons.1 h
    simp [Tbl.del, hc, ih hr]

theorem Tbl.del_del (t : Tbl α) (k : Nat) : Tbl.del (Tbl.del t k) k = Tbl.del t k :=
  Tbl.del_of_notMem fun c hc => ((Tbl.mem_del t k c).1 hc).2

theorem Tbl.del_ins {t : Tbl α} {k : Nat} (v : α) (h : ∀ c ∈ t, c.1 ≠ k) : Tbl.del (Tbl.ins t k v) k = t := by
  induction t with
  | nil => simp [Tbl.ins, Tbl.del]
  | cons c r ih =>
    obtain ⟨hc, hr⟩ := List.forall_mem_cons.1 h
    obtain ⟨a, w⟩ := c
    by_cases hlt : k < a
    · simp [Tbl.ins, hlt, Tbl.del, hc, Tbl.del_of_notMem hr]
    · simp [Tbl.ins, hlt, Tbl.del, hc, ih hr]

variable [Inhabited α] [DecidableEq α]

theorem Tbl.del_set (t : Tbl α) (k : Nat) (v : α) : Tbl.del (Tbl.set t k v) k = Tbl.del t k := by
  unfold Tbl.set
  split
  · exact Tbl.del_del t k
  · exact Tbl.del_ins v fun c hc => ((Tbl.mem_del t k c).1 hc).2

@[simp] theorem Tbl.set_set (t : Tbl α) (k : Nat) (v w : α) : Tbl.set (Tbl.set t k v) k w = Tbl.set t k w := by
  rw [Tbl.set, Tbl.del_set, Tbl.set]

@[simp] theorem Tbl.upd_upd (t : Tbl α) (k : Nat) (f g : α → α) : Tbl.upd (Tbl.upd t k f) k g = Tbl.upd t k fun x => g (f x) := by
  simp [Tbl.upd]

theorem Tbl.upd_congr {t : Tbl α} {k : Nat} {f g : α → α} (h : f (Tbl.get t k) = g (Tbl.get t k)) : Tbl.upd t k f = Tbl.upd t k g := by
  rw [Tbl.upd, Tbl.upd, h]

end

theorem updLink_updLink (s : State) (n : Nat) (f g : Link → Link) : updLink (updLink s n f) n g = updLink s n fun l => g (f l) := by
  simp [updLink]

theorem updLink_congr {s : State} {n : Nat} {f g : Link → Link} (h : f (s.lk.links.get n) = g (s.lk.links.get n)) : updLink s n f = updLink s n g := by
  rw [updLink, updLink, Tbl.upd_congr h]

@[simp] theorem updLink_get (s : State) (n : Nat) (f : Link → Link) : (updLink s n f).lk.links.get n = f (s.lk.links.get n) := by simp

theorem updLink_get_ne (s : State) {n m : Nat} (f : Link → Link) (h : m ≠ n) : (updLink s n f).lk.links.get m = s.lk.links.get m := by
  simp [Tbl.get_upd_ne _ _ _ h]

end Sys2Proof.Machine
end

section
/-!
PROOFS. The states of a tensor link, its characteristic frames, and its failed flits (O45).
-/

namespace Sys2Proof.Machine

/-! ### Changes of state (R448) -/

section
variable {s : State} {n : Nat}

theorem setLinkState_new {st : Nat} (h : (s.lk.links.get n).st ≠ st) :
    setLinkState s n st = fire (updLink s n fun l => { l with st := st }) (664 + n) := if_neg h

theorem leavePort_none (h : (s.lk.links.get n).port = none) : leavePort s n = s := by
  unfold leavePort
  simp only [h]

/-- A link without a port that changes state forgets its peer, and source 664 + n fires. -/
theorem linkTo_portless {st : Nat} (hport : (s.lk.links.get n).port = none) (hst : (s.lk.links.get n).st ≠ st) :
    linkTo s n st = fire (updLink s n fun l => { l with cand := none, consec := 0, heard := false, hold := 0, st := st }) (664 + n) := by
  rw [linkTo, leavePort_none hport, setLinkState_new (by rw [updLink_get]; exact hst), updLink_updLink]

theorem linkTalks_iff : linkTalks s n = true ↔ (s.lk.links.get n).st = 2 ∨ (s.lk.links.get n).st = 3 ∨ (s.lk.links.get n).st = 4 := by
  simp [linkTalks]

end

section
variable {s : State} {n : LinkNo}

theorem linkSignalDetect_detects (hst : (s.lk.links.get n.val).st = 0) (htwin : s.lk.twin ≠ .detached) (hout : dieOut s (n.val / 3) = false) :
    exec (.linkSignalDetect n) s = .next (fire (updLink s n.val fun l => { l with st := 1 }) (664 + n.val)) := by
  rw [exec, execLinkSignalDetect, if_pos (by simp [hst, htwin, hout]), setLinkState_new (by simp [hst])]

theorem linkSignalDetect_idle (h : (s.lk.links.get n.val).st ≠ 0 ∨ s.lk.twin = .detached ∨ dieOut s (n.val / 3) = true) :
    exec (.linkSignalDetect n) s = .next s := by
  rw [exec, execLinkSignalDetect]
  refine if_neg fun hon => ?_
  simp only [Bool.and_eq_true, decide_eq_true_eq, Bool.not_eq_true'] at hon
  obtain ⟨⟨hst, htwin⟩, hout⟩ := hon
  rcases h with h | h | h
  · exact h hst
  · exact htwin h
  · exact absurd (hout.symm.trans h) (by decide)

theorem linkTrained_both (hst : (s.lk.links.get n.val).st = 1) : exec (.linkTrained n true true) s = .next (linkTo s n.val 2) := by
  simp [exec, execLinkTrained, hst]

theorem linkTrainTimeout_training (hst : (s.lk.links.get n.val).st = 1) : exec (.linkTrainTimeout n) s = .next (linkTo s n.val 0) := by
  rw [exec, execLinkTrainTimeout, if_pos hst]

theorem linkSilence_discover (hst : (s.lk.links.get n.val).st = 2) : exec (.linkSilenceTimeout n) s = .next (linkTo s n.val 1) := by
  simp only [exec, execLinkSilenceTimeout, hst]

theorem linkSilence_up (hst : (s.lk.links.get n.val).st = 3) : exec (.linkSilenceTimeout n) s = .next (linkTo s n.val 1) := by
  simp only [exec, execLinkSilenceTimeout, hst]

theorem linkSilence_held (hst : (s.lk.links.get n.val).st = 4) :
    exec (.linkSilenceTimeout n) s = .next (updLink s n.val fun l => { l with heard := false }) := by
  simp only [exec, execLinkSilenceTimeout, hst]

theorem linkSignalLoss_talks (h : linkTalks s n.val = true) : exec (.linkSignalLoss n) s = .next (linkTo s n.val 1) := by
  rw [exec, execLinkSignalLoss, if_pos h]

/-! ### Characteristic frames (R446 to R451) -/

theorem characteristicFrameSend_sends (h : linkTalks s n.val = true) :
    exec (.characteristicFrameSend n) s = .next (emit s (.charFrame n.val (frameOf s n.val))) := by
  rw [exec, execCharacteristicFrameSend, if_pos h]

variable {f : Bytes}

theorem characteristicFrame_discarded (h : linkTalks s n.val = false ∨ frameOk f = false) : exec (.characteristicFrame n f) s = .next s := by
  rw [exec, execCharacteristicFrame]
  exact if_pos (by rcases h with h | h <;> simp [h])

/-- The module that has heard its peer on link `n`. -/
def heardOn (s : State) (n : Nat) : State := updLink s n fun l => { l with heard := true }

theorem characteristicFrame_discover (hst : (s.lk.links.get n.val).st = 2) (hok : frameOk f = true) :
    exec (.characteristicFrame n f) s = .next (discover (heardOn s n.val) n.val (framePeer f) (frameHeard f)) := by
  rw [exec, execCharacteristicFrame, if_neg (by simp [linkTalks, hst, hok])]
  dsimp only
  rw [updLink_get, hst]
  rfl

theorem characteristicFrame_up (hst : (s.lk.links.get n.val).st = 3) (hok : frameOk f = true) :
    exec (.characteristicFrame n f) s = .next (frameUp (heardOn s n.val) n.val (framePeer f) (frameHeard f)) := by
  rw [exec, execCharacteristicFrame, if_neg (by simp [linkTalks, hst, hok])]
  dsimp only
  rw [updLink_get, hst]
  rfl

theorem discover_first {p : Peer} (heard : Bool) (hc : (s.lk.links.get n.val).cand = none) :
    discover s n.val p heard = updLink s n.val fun l => { l with cand := some p, consec := if heard then 1 else 0 } := by
  rw [discover, hc]
  cases heard <;> rfl

/-- The third frame in a row of one peer identity leads to the checks. -/
theorem discover_third {p c : Peer} (hc : (s.lk.links.get n.val).cand = some c) (hsame : samePeer c p = true) (hk : 2 ≤ (s.lk.links.get n.val).consec) :
    discover s n.val p true = admitLink (updLink s n.val fun l => { l with cand := some p, consec := l.consec + 1 }) n.val p := by
  rw [discover, hc]
  simp only [Bool.not_true, Bool.false_eq_true, if_false, hsame, if_true]
  exact (if_pos (Nat.succ_le_succ hk)).trans (congrArg (admitLink · n.val p) (updLink_congr rfl))

theorem frameUp_same {p q : Peer} (heard : Bool) (hq : (s.lk.links.get n.val).peer = some q) (hsame : samePeer q p = true) :
    frameUp s n.val p heard = updLink s n.val fun l => { l with peer := some p } := by
  rw [frameUp, hq]
  exact if_pos hsame

/-! ### Admission (R443, R449, R450) -/

variable {w : State} {p : Peer}

theorem admitLink_held (h : holdCause w n.val p ≠ 0) (hst : (w.lk.links.get n.val).st ≠ 4) :
    admitLink w n.val p = fire (updLink w n.val fun l => { l with hold := holdCause w n.val p, peer := some p, st := 4 }) (664 + n.val) := by
  unfold admitLink
  split
  · next h0 => exact absurd h0 h
  · rw [setLinkState_new (by rw [updLink_get]; exact hst), updLink_updLink]

/-- The module whose link `n` has gone into port `k`, the peer's identity taken. -/
def portJoined (w : State) (n k : Nat) (p : Peer) : State :=
  updLink { w with lk := { w.lk with ports := w.lk.ports.set k (some ((w.lk.ports.get k).getD
    { serial := p.serial, group := p.group, module := p.module, switch := p.switch, twin := twinLink w n p })) } } n
    fun l => { l with port := some k, peer := some p, hold := 0, vmaj := 2, vmin := min 1 p.vmin, st := 3 }

theorem twinBack_of_ne {u : State} (h : u.lk.twin ≠ .isolated) : twinBack u = u := by simp [twinBack, h]

theorem admitLink_up {k : Nat} (h : holdCause w n.val p = 0) (hk : choosePort w n.val p = some k) (htwin : w.lk.twin ≠ .isolated)
    (hst : (w.lk.links.get n.val).st ≠ 3) : admitLink w n.val p = fire (portJoined w n.val k p) (664 + n.val) := by
  rw [admitLink, h]
  simp only [linkUp, hk]
  rw [setLinkState_new (by rw [updLink_get]; exact hst), updLink_updLink, twinBack_of_ne (by rw [fire_lk]; exact htwin)]
  rfl

/-! ### Failed flits (R442) -/

theorem flitNak_replays (htalk : linkTalks s n.val = true) (hfew : (s.lk.links.get n.val).flitFails < 8) :
    exec (.flitNak n) s = .next (linkEvents (updLink s n.val fun l =>
      { l with crcCnt := satInc l.crcCnt 1, flitFails := l.flitFails + 1, replayCnt := satInc l.replayCnt 1 }) n.val 1) := by
  rw [exec, execFlitNak, if_neg (by simp [htalk])]
  dsimp only
  rw [updLink_get, if_pos (by exact hfew), updLink_updLink]

theorem flitNak_retrains (htalk : linkTalks s n.val = true) (hmany : 8 ≤ (s.lk.links.get n.val).flitFails) :
    exec (.flitNak n) s =
      .next (retrainLink (updLink s n.val fun l => { l with crcCnt := satInc l.crcCnt 1, flitFails := l.flitFails + 1 }) n.val 0) := by
  rw [exec, execFlitNak, if_neg (by simp [htalk])]
  dsimp only
  rw [updLink_get, if_neg (by exact Nat.not_le.2 (Nat.lt_succ_of_le hmany))]

theorem flitNak_idle (htalk : linkTalks s n.val = false) : exec (.flitNak n) s = .next s := by
  rw [exec, execFlitNak, if_pos (by simp [htalk])]

end

/-- Settles O45: each state's signals and timeouts, the frames that a link sends and takes, the checks that let it in or hold it, and its failed flits. -/
theorem linksTrainAndAreAdmitted : Obligations.LinksTrainAndAreAdmitted := by
  unfold Obligations.LinksTrainAndAreAdmitted
  refine ⟨fun s n => linkSignalDetect_detects, fun s n => linkSignalDetect_idle, fun s n hst hport => ?_, fun s n hst hport => ?_,
    fun s n hst hport => ?_, fun s n hst => ?_, fun s n => linkSilence_held, fun s n => characteristicFrameSend_sends,
    fun s n f => characteristicFrame_discarded, fun s n f hst hok hc => ?_, fun s n f c w hst hok hc hsame hheard hk hw => ?_,
    fun s n f q hst hok hq hsame => ?_, fun s n => flitNak_replays, fun s n => flitNak_retrains, fun s n => flitNak_idle⟩
  · rw [linkTrained_both hst, linkTo_portless hport (by simp [hst])]
  · rw [linkTrainTimeout_training hst, linkTo_portless hport (by simp [hst])]
  · rw [linkSignalLoss_talks (linkTalks_iff.2 (.inl hst)), linkSilence_discover hst, linkTo_portless hport (by simp [hst])]
    exact ⟨rfl, rfl⟩
  · exact ⟨linkSilence_up hst, linkSignalLoss_talks (linkTalks_iff.2 (.inr (.inl hst)))⟩
  · have hcand : ((heardOn s n.val).lk.links.get n.val).cand = none := by simp [heardOn, hc]
    rw [characteristicFrame_discover hst hok, discover_first _ hcand, heardOn, updLink_updLink]
  · have hthird : exec (.characteristicFrame n f) s = .next (admitLink w n.val (framePeer f)) := by
      rw [characteristicFrame_discover hst hok, hheard, discover_third (c := c) (by simp [heardOn, hc]) hsame (by simpa [heardOn] using hk),
        heardOn, updLink_updLink, hw]
    have hstate : (w.lk.links.get n.val).st = 2 := by rw [hw, updLink_get]; exact hst
    have hother : ∀ k, k ≠ n.val → w.lk.links.get k = s.lk.links.get k := fun k hkn => by rw [hw, updLink_get_ne _ _ hkn]
    refine ⟨fun hhold => ?_, fun k hhold hport htwin => ?_⟩
    · rw [hthird, admitLink_held hhold (by simp [hstate])]
      refine ⟨_, rfl, by simp, by simp, by simp [hw], fun k hkn => ?_, by simp [hw]⟩
      rw [fire_lk, updLink_get_ne _ _ hkn, hother k hkn]
    · rw [hthird, admitLink_up hhold hport (by simpa [hw] using htwin) (by simp [hstate])]
      refine ⟨_, rfl, by simp [portJoined], by simp [portJoined], by simp [portJoined], by simp [portJoined], fun m hm => ?_, by simp [portJoined, hw]⟩
      rw [fire_lk, portJoined, updLink_get_ne _ _ hm]
      exact hother m hm
  · rw [characteristicFrame_up hst hok, frameUp_same _ (by simp [heardOn, hq]) hsame, heardOn, updLink_updLink]

end Sys2Proof.Machine
end

section
/-!
PROOFS. Messages on a port, the member messages, and the fog signal (O46).
-/

namespace Sys2Proof.Machine

/-! ### What a message that goes out changes -/

/-- The state `t` is `s` but for what sending a message changes: the ports, the output and the choices left open. -/
def PostedFrom (s t : State) : Prop := ∃ ports out free, t = { s with lk := { s.lk with ports := ports }, out := out, free := free }

theorem PostedFrom.refl (s : State) : PostedFrom s s := ⟨s.lk.ports, s.out, s.free, rfl⟩

theorem PostedFrom.trans {s t u : State} (h : PostedFrom s t) (h' : PostedFrom t u) : PostedFrom s u := by
  obtain ⟨_, _, _, rfl⟩ := h
  obtain ⟨ports, out, free, rfl⟩ := h'
  exact ⟨ports, out, free, rfl⟩

theorem postedFrom_foldl {α : Type} {f : State → α → State} (hf : ∀ s a, PostedFrom s (f s a)) (l : List α) (s : State) : PostedFrom s (l.foldl f s) :=
  List.foldlRecOn l _ (motive := PostedFrom s) (.refl s) fun t ht a _ => ht.trans (hf t a)

theorem postedFrom_postMsg (s : State) (p : Nat) (m : Msg) : PostedFrom s (postMsg s p m) := by
  unfold postMsg
  split
  · exact .refl s
  · split
    · exact ⟨_, _, _, rfl⟩
    · exact ⟨_, s.out, s.free, rfl⟩

theorem postedFrom_sendOn (s : State) (p : Nat) (dst : BitVec 12) (kind : Nat) (pay : Bytes) : PostedFrom s (sendOn s p dst kind pay) := by
  unfold sendOn
  split
  · exact postedFrom_postMsg s p _
  · exact postedFrom_foldl (fun t b => postedFrom_postMsg t p _) _ s

theorem postedFrom_sendTwin (s : State) (kind : Nat) (pay : Bytes) : PostedFrom s (sendTwin s kind pay) := by
  unfold sendTwin
  split
  · exact postedFrom_sendOn s 7 _ kind pay
  · exact .refl s

/-! ### A message that waits for a credit (R445) -/

theorem sendMsg_waits {s : State} {p kind : Nat} {dst : BitVec 12} {pay : Bytes} {q : Port} (hq : s.lk.ports.get p = some q)
    (hfull : 64 ≤ (q.unacked.countP fun u => u.2.control = controlKind kind)) :
    sendMsg s p dst kind pay = { s with lk := { s.lk with ports := s.lk.ports.set p (some { q with held := q.held ++
      [{ seq := 0, control := controlKind kind, src := BitVec.ofNat 12 (chipBase s), dst := dst, kind := kind, payload := pay }] }) } } := by
  have hnone : hasCredit q (controlKind kind) = false := decide_eq_false (Nat.not_lt.2 hfull)
  rw [sendMsg, postMsg, hq]
  simp [hnone]

/-! ### A message that arrives (R444) -/

section
variable {s : State} {n : LinkNo} {m : Msg} {k : Nat} {q : Port}

/-- The module whose link `n` has carried a message: its failed flits are over. -/
def linkSound (s : State) (n : Nat) : State := updLink s n fun l => { l with flitFails := 0 }

theorem message_noPort (hn : (s.lk.links.get n.val).port = none) : exec (.message n m) s = .next s := by
  simp only [exec, execMessage, hn]

theorem message_onPort (hn : (s.lk.links.get n.val).port = some k) (hq : s.lk.ports.get k = some q) : exec (.message n m) s =
    .next (if m.kind = kindAck then takeAck (linkSound s n.val) k q m.seq else takeMsg (linkSound s n.val) k q m) := by
  have hq' : (linkSound s n.val).lk.ports.get k = some q := hq
  rw [linkSound] at hq'
  simp only [exec, execMessage, hn, hq']
  rfl

/-- The module whose port `k` is `q`. -/
def setPort (s : State) (k : Nat) (q : Port) : State := { s with lk := { s.lk with ports := s.lk.ports.set k (some q) } }

@[simp] theorem setPort_get (s : State) (k : Nat) (q : Port) : (setPort s k q).lk.ports.get k = some q := Tbl.get_set_self s.lk.ports k (some q)

@[simp] theorem setPort_setPort (s : State) (k : Nat) (q r : Port) : setPort (setPort s k q) k r = setPort s k r := by simp [setPort]

theorem takeAck_forgets (seq : BitVec 16) (hheld : q.held = []) :
    takeAck s k q seq = setPort s k { q with unacked := q.unacked.filter fun u => !seqUpTo u.2.seq seq } := by
  rw [takeAck, hheld]
  rfl

/-- What port `q` holds ahead of its turn once `m` has come: `m` as well, unless it is known. -/
def earlyWith (q : Port) (m : Msg) : List Msg :=
  if seqUpTo m.seq (q.nextSeq - 1) || q.early.any fun x => x.seq = m.seq then q.early else q.early ++ [m]

/-- Port `k`, if it is in service, acknowledges what it has taken. -/
def ackPort (k : Nat) (s : State) : State := match s.lk.ports.get k with | some q => sendAck s k (q.nextSeq - 1) | none => s

theorem takeMsg_eq (s : State) (k : Nat) (q : Port) (m : Msg) :
    takeMsg s k q m = ackPort k (deliverRun k (earlyWith q m).length (setPort s k { q with early := earlyWith q m })) := rfl

theorem ackPort_some {z : Port} (hz : s.lk.ports.get k = some z) : ackPort k s = sendAck s k (z.nextSeq - 1) := by
  rw [ackPort, hz]

/-- A message that was delivered before is only acknowledged. -/
theorem takeMsg_old (hold : seqUpTo m.seq (q.nextSeq - 1) = true) (hearly : q.early = []) :
    takeMsg s k q m = sendAck (setPort s k q) k (q.nextSeq - 1) := by
  have hnone : earlyWith q m = [] := by rw [earlyWith, hold, hearly]; rfl
  have hport : ({ q with early := [] } : Port) = q := by rw [← hearly]
  rw [takeMsg_eq, hnone, hport]
  exact ackPort_some (setPort_get s k q)

theorem seqUpTo_next (a : BitVec 16) : seqUpTo a (a - 1) = false := by
  have : a - 1 - a = (0xFFFF : BitVec 16) := by bv_omega
  rw [seqUpTo, this]
  rfl

/-- The port holds the message whose turn it is, alone: it is delivered, and nothing waits behind it. -/
theorem deliverRun_turn (hseq : m.seq = q.nextSeq) :
    deliverRun k 1 (setPort s k { q with early := [m] }) = deliverMsg k (setPort s k { q with nextSeq := q.nextSeq + 1, early := [] }) m := by
  simp only [deliverRun, setPort_get, List.find?_cons, hseq, decide_true, List.filter_cons, ne_eq, not_true_eq_false, decide_false,
    Bool.false_eq_true, if_false, List.filter_nil]
  exact congrArg (deliverMsg k · m) (setPort_setPort s k _ _)

/-- A message in its turn is delivered, and acknowledged if the port is still there. -/
theorem takeMsg_turn (hseq : m.seq = q.nextSeq) (hearly : q.early = []) :
    takeMsg s k q m = ackPort k (deliverMsg k (setPort s k { q with nextSeq := q.nextSeq + 1 }) m) := by
  have hone : earlyWith q m = [m] := by rw [earlyWith, hseq, seqUpTo_next, hearly]; rfl
  have hport : ({ q with nextSeq := q.nextSeq + 1, early := [] } : Port) = { q with nextSeq := q.nextSeq + 1 } := by rw [← hearly]
  rw [takeMsg_eq, hone, List.length_singleton, deliverRun_turn hseq, hport]

end

/-! ### Member messages (R452) -/

section
variable {s : State}

/-- The module whose heartbeat has advanced, its own entry renewed. -/
def beaten (s : State) : State :=
  updMember { s with lk := { s.lk with heartbeat := s.lk.heartbeat + 1 } } (selfModule s) fun _ =>
    ownMember { s with lk := { s.lk with heartbeat := s.lk.heartbeat + 1 } }

theorem memberMessageSend_sends (h : talksMembers s = true) : ∃ u, exec .memberMessageSend s = .next u ∧ PostedFrom (beaten s) u := by
  rw [exec, execMemberMessageSend, if_neg (by simp [h])]
  exact ⟨_, rfl, postedFrom_foldl (fun t k => postedFrom_sendOn t k _ _ _) _ _⟩

theorem memberMessageSend_alone (h : talksMembers s = false) : exec .memberMessageSend s = .next s := by
  rw [exec, execMemberMessageSend, if_pos (by simp [h])]

theorem memberMessage_merges {p : Fin 8} {r : MemberRow} (htalk : talksMembers s = true) (hport : portLinks s p.val ≠ []) (hr : r.i.val ≠ selfModule s) :
    exec (.memberMessage p [r]) s =
      .next (updMember s r.i.val fun e => mergeMember (switchRank s r.i.val p.val e.port) p.val r e) := by
  rw [exec, execMemberMessage, if_neg (by simp [htalk, hport])]
  simp [hr]

theorem memberMessage_own {p : Fin 8} {r : MemberRow} (hr : r.i.val = selfModule s) : exec (.memberMessage p [r]) s = .next s := by
  rw [exec, execMemberMessage]
  split <;> simp [hr]

variable {rank : Option Bool} {k : Nat} {r : MemberRow} {e : Member}

/-- A row of a member that was not known gives its entry and its route, unless it is too far. -/
theorem mergeMember_new (hhops : r.hops < 15) (he : e.valid = false) :
    (mergeMember rank k r e).valid = true ∧ (mergeMember rank k r e).port = k ∧ (mergeMember rank k r e).hops = r.hops + 1 ∧
    (mergeMember rank k r e).heartbeat = r.heartbeat := by
  have hnear : ¬ 15 < r.hops + 1 := by omega
  simp [mergeMember, hnear, he]

theorem mergeMember_tooFar (hhops : 15 ≤ r.hops) (he : e.valid = false) : mergeMember rank k r e = e := by
  simp [mergeMember, Nat.lt_succ_of_le hhops, he]

theorem mergeMember_newer (hbeat : e.heartbeat < r.heartbeat) (he : e.valid = true) : (mergeMember rank k r e).heartbeat = r.heartbeat := by
  simp only [mergeMember, hbeat, he, decide_true, Bool.or_true, Bool.and_self, if_true]
  split
  · rfl
  · split <;> rfl

end

/-! ### Lost members and fog (R452, R460) -/

section
variable {s : State}

theorem markLost_invalid {i : Nat} (h : (s.lk.members.get i).valid = false) : markLost s i = s := by simp [markLost, h]

theorem memberHeartbeatTimeout_unknown {i : Fin 512} (h : (s.lk.members.get i.val).valid = false) : exec (.memberHeartbeatTimeout i) s = .next s := by
  rw [exec, execMemberHeartbeatTimeout, markLost_invalid h, ite_self]

theorem memberHeartbeatTimeout_loses {i : Fin 512} (htalk : talksMembers s = true) (hi : i.val ≠ selfModule s)
    (hv : (s.lk.members.get i.val).valid = true) (hl : (s.lk.members.get i.val).lost = false) :
    exec (.memberHeartbeatTimeout i) s = .next (switchIn (memberLostLoads (endRemote (endTransfers
      (updMember s i.val fun e => { e with lost := true }) (fun c => c / 8 = i.val) .linkDown) fun m => m = i.val) i.val) i.val) := by
  rw [exec, execMemberHeartbeatTimeout, if_pos htalk, markLost]
  exact congrArg _ (if_neg (by simp [hi, hv, hl]))

variable {p : Fin 8} {f : Fog}

/-- What identifies a fog message: its source and the source's boot epoch. -/
def fogKey (f : Fog) : Nat × Nat × W32 := (f.group.toNat, f.module.toNat, f.bootEpoch)

theorem fogMessage_repeat (hport : portLinks s p.val ≠ []) (hseen : fogKey f ∈ s.lk.fogSeen) : exec (.fogMessage p f) s = .next s := by
  rw [exec, execFogMessage, if_neg (by simp [hport]), takeFog]
  rw [fogKey] at hseen
  exact congrArg _ (if_pos (by simp [hseen]))

theorem foldl_emit {α : Type} (o : Out) (l : List α) (s : State) : l.foldl (fun s _ => emit s o) s = { s with out := s.out ++ l.map fun _ => o } := by
  induction l generalizing s with
  | nil => simp
  | cons a l ih =>
    rw [List.foldl_cons, ih]
    simp [emit]

/-- The module that has noted a fog message, sent it on through every other port, and logged it. -/
def fogTaken (s : State) (p : Nat) (f : Fog) : State :=
  fire (flog { s with lk := { s.lk with fogSeen := s.lk.fogSeen ++ [fogKey f] }, out := s.out ++ ((portsUp s).filter (· ≠ p)).map fun _ => Out.fog f }
    { kind := 7, cause := f.cause.toNat, expect := BitVec.ofNat 64 (f.group.toNat * 256 + f.module.toNat) }) 708

theorem fogTaken_lk (s : State) (p : Nat) (f : Fog) : (fogTaken s p f).lk = { s.lk with fogSeen := s.lk.fogSeen ++ [fogKey f] } := by
  rw [fogTaken, fire_lk, flog, fire_lk]

theorem fogMessage_taken (hport : portLinks s p.val ≠ []) (hseen : fogKey f ∉ s.lk.fogSeen) (hself : 16 * f.group.toNat + f.module.toNat ≠ selfModule s)
    (htwin : s.lk.twin = .unpaired) (hv : (s.lk.members.get (16 * f.group.toNat + f.module.toNat)).valid = false) :
    exec (.fogMessage p f) s = .next (fogTaken s p.val f) := by
  have hlost : markLost (fogTaken s p.val f) (16 * f.group.toNat + f.module.toNat) = fogTaken s p.val f :=
    markLost_invalid (by rw [fogTaken_lk]; exact hv)
  have hdue : takeoverDue (fogTaken s p.val f) = fogTaken s p.val f := takeoverDue_of_ne (by rw [fogTaken_lk]; simp [htwin])
  rw [exec, execFogMessage, if_neg (by simp [hport]), takeFog]
  rw [fogKey] at hseen
  refine congrArg _ ((if_neg (by simp [hseen, hself])).trans ?_)
  dsimp only
  rw [foldl_emit, if_neg (by simp [htwin])]
  exact (congrArg takeoverDue hlost).trans hdue

end

/-- Settles O46: a message waits for a credit, is delivered in its turn or acknowledged again; rows merge; a member is lost; fog is taken once. -/
theorem messagesMembersAndFog : Obligations.MessagesMembersAndFog := by
  unfold Obligations.MessagesMembersAndFog
  refine ⟨fun s p dst kind pay q hq hfull => ⟨_, sendMsg_waits hq hfull, rfl, rfl, rfl⟩, fun s n m k q hn hq => ⟨fun hack hheld => ?_,
    fun hack hold hearly => ?_, fun hack hseq hearly => ?_⟩, fun s n m => message_noPort, fun s hj => ?_, fun s hj hg => ?_, fun s p r hj hport hr => ?_,
    fun s p r => memberMessage_own, fun s i => memberHeartbeatTimeout_loses, fun s i => memberHeartbeatTimeout_unknown,
    fun s p f => fogMessage_repeat, fun s p f hport hseen hself htwin hv => ?_⟩
  · rw [message_onPort hn hq, if_pos hack, takeAck_forgets _ hheld]
    exact ⟨_, rfl, setPort_get _ _ _, rfl, rfl⟩
  · rw [message_onPort hn hq, if_neg hack, takeMsg_old hold hearly]
    exact ⟨_, rfl, setPort_get _ _ _, rfl, rfl, rfl⟩
  · refine ⟨setPort (linkSound s n.val) k { q with nextSeq := q.nextSeq + 1 }, setPort_get _ _ _, fun i hi => ?_, rfl, rfl, rfl, rfl, rfl, ?_⟩
    · simp [setPort, linkSound, Tbl.get_set_ne _ _ _ hi]
    · rintro w z rfl hz
      rw [message_onPort hn hq, if_neg hack, takeMsg_turn hseq hearly, ackPort_some hz]
      rfl
  · obtain ⟨u, hu, ports, out, free, rfl⟩ := memberMessageSend_sends (s := s) (by simp [talksMembers, hj])
    exact ⟨_, hu, rfl, by simp [beaten, ownMember], by simp [beaten, ownMember], fun i hi => by simp [beaten, Tbl.get_upd_ne _ _ _ hi], rfl, rfl⟩
  · exact memberMessageSend_alone (by simp [talksMembers, hj, hg])
  · refine ⟨_, memberMessage_merges (by simp [talksMembers, hj]) hport hr, fun i hi => by simp [Tbl.get_upd_ne _ _ _ hi], rfl, fun hhops hv => ?_,
      fun hbeat hv => ?_, fun hhops hv => ?_⟩
    all_goals simp only [updMember_lk, Tbl.get_upd_self]
    · exact mergeMember_new hhops hv
    · exact mergeMember_newer hbeat hv
    · exact mergeMember_tooFar hhops hv
  · refine ⟨_, fogMessage_taken hport hseen hself htwin hv, ?_, ?_, fire_pend (by decide) _, ?_, ?_⟩
    · rw [fogTaken_lk, fogKey]
    · rw [fogTaken, fire_flt, flog_logSeq]
    · rw [fogTaken, fire_out, flog, fire_out]
    · rw [fogTaken, fire_mem, flog, fire_mem]

end Sys2Proof.Machine
end

section
/-!
PROOFS. What the twin partner sends (O47).
-/

namespace Sys2Proof.Machine

section
variable {s : State}

theorem twinLogEntry_kept {e r : Bytes} (h : twinListens s = true) :
    exec (.twinLogEntry e r) s = .next (setLk s fun l => { l with log := l.log ++ [⟨bytesAt e 0 64, bytesAt r 0 128, none⟩] }) := by
  rw [exec, execTwinLogEntry, if_pos h]

/-- The log with a checkpoint noted at the entries that name its record. -/
def ckptNoted (c : Checkpoint) (l : List TwinLog) : List TwinLog := l.map fun x => if namedRecord x.entry = c.recAddr then { x with ckpt := some c } else x

theorem ckptNoted_ckpt {c : Checkpoint} {l : List TwinLog} : ∀ x ∈ ckptNoted c l, namedRecord x.entry = c.recAddr → x.ckpt = some c := by
  intro x hx hname
  obtain ⟨y, _, rfl⟩ := List.mem_map.1 hx
  by_cases h : namedRecord y.entry = c.recAddr
  · rw [if_pos h]
  · rw [if_neg h] at hname
    exact absurd hname h

theorem ckptNoted_entry (c : Checkpoint) (l : List TwinLog) : (ckptNoted c l).map (·.entry) = l.map (·.entry) := by
  rw [ckptNoted, List.map_map]
  refine List.map_congr_left fun x _ => ?_
  dsimp only [Function.comp]
  split <;> rfl

theorem twinCheckpoint_stored {c : Checkpoint} (h : twinListens s = true) (hc : c.committed = true) : ∃ u, exec (.twinCheckpoint c) s = .next u ∧
    PostedFrom (setLk s fun l => { l with mirror := poolWith l.mirror c, log := ckptNoted c l.log }) u := by
  rw [exec, execTwinCheckpoint, if_pos (by simp [h, hc])]
  exact ⟨_, rfl, postedFrom_sendTwin _ _ _⟩

theorem twinCheckpoint_unfinished {c : Checkpoint} (h : twinListens s = false ∨ c.committed = false) : exec (.twinCheckpoint c) s = .next s := by
  rw [exec, execTwinCheckpoint]
  exact if_neg (by rcases h with h | h <;> simp [h])

theorem checkpointAck_listens {ra : W64} (h : twinListens s = true) : exec (.checkpointAck ra) s = .next (ackCkpt s ra) := by
  rw [exec, execCheckpointAck, if_pos h]

theorem ackCkpt_unknown {ra : W64} (h : s.lk.unackedCk.contains ra = false) : ackCkpt s ra = s := by
  rw [ackCkpt]
  exact if_neg (by rw [h]; decide)

theorem releasesDue_noJobs (h : s.cp.jobs = []) : releasesDue s = s := by
  rw [releasesDue, h]
  rfl

/-- With nothing else waiting, an acknowledgement only leaves the list of what is unacknowledged. -/
theorem ackCkpt_first {ra : W64} {r : List W64} (htwin : s.lk.twin = .mirror) (hck : s.lk.unackedCk = ra :: r) (hwaits : s.lk.twinWaits = [])
    (hjobs : s.cp.jobs = []) : ackCkpt s ra = { s with lk := { s.lk with unackedCk := r } } := by
  have hnone : s.lk.twinWaits.map (ackWait ra) = [] := by rw [hwaits, List.map_nil]
  rw [ackCkpt, if_pos (by simp [hck])]
  simp only [hnone, List.filter_nil, List.foldl_nil]
  have herase : s.lk.unackedCk.erase ra = r := by rw [hck, List.erase_cons_head]
  have hstate : (setLk s fun l => { l with unackedCk := l.unackedCk.erase ra, twinWaits := [] }) = { s with lk := { s.lk with unackedCk := r } } := by
    rw [setLk, herase, ← hwaits]
  rw [hstate, releasesDue_noJobs (by exact hjobs)]
  refine if_neg ?_
  simp [htwin]

theorem writtenNotice_drops {tag : BitVec 16} (h : twinListens s = true) : exec (.writtenNotice tag) s = .next (setLk s fun l => dropLog l tag) := by
  rw [exec, execWrittenNotice, if_pos h]

theorem dropLog_release {l : Links} {tag : BitVec 16} {x : TwinLog} (hx : l.log.find? (fun y => entryTag y.entry = tag.toNat) = some x)
    (hopc : entryOpc x.entry = 0x01) (hkind : byteN x.entry 16 = 2) :
    dropLog l tag = { l with log := l.log.erase x, mirror := l.mirror.filter fun y => y.ra ≠ namedRecord x.entry } := by
  simp [dropLog, hx, hopc, hkind]

theorem dropLog_other {l : Links} {tag : BitVec 16} {x : TwinLog} (hx : l.log.find? (fun y => entryTag y.entry = tag.toNat) = some x)
    (hopc : entryOpc x.entry ≠ 0x01) : dropLog l tag = { l with log := l.log.erase x } := by
  simp [dropLog, hx, hopc]

theorem twinTraffic_deaf (h : twinListens s = false) (tag : BitVec 16) (ra : W64) (c : Checkpoint) (e r : Bytes) :
    exec (.writtenNotice tag) s = .next s ∧ exec (.checkpointAck ra) s = .next s ∧ exec (.twinCheckpoint c) s = .next s ∧
    exec (.twinLogEntry e r) s = .next s :=
  have hno : ¬ twinListens s = true := by simp [h]
  ⟨if_neg hno, if_neg hno, twinCheckpoint_unfinished (.inl h), if_neg hno⟩

end

/-- Settles O47: what a listening twin half keeps, stores, acknowledges and drops, and that a deaf one changes nothing. -/
theorem twinTrafficIsKept : Obligations.TwinTrafficIsKept := by
  unfold Obligations.TwinTrafficIsKept
  refine ⟨fun s e r => twinLogEntry_kept, fun s c h hc => ?_, fun s c h => twinCheckpoint_unfinished (.inr h), fun s ra h hck => ?_,
    fun s ra r htwin hck hwaits hjobs => ?_, fun s tag x h hx hopc => ?_, fun s tag x h hx hopc hkind => ?_, fun s tag ra c e r h => twinTraffic_deaf h tag ra c e r⟩
  · obtain ⟨u, hu, ports, out, free, rfl⟩ := twinCheckpoint_stored h hc
    exact ⟨_, hu, rfl, rfl, rfl, rfl, ckptNoted_ckpt, ckptNoted_entry _ _⟩
  · rw [checkpointAck_listens h, ackCkpt_unknown hck]
  · rw [checkpointAck_listens (by simp [twinListens, htwin]), ackCkpt_first htwin hck hwaits hjobs]
  · rw [writtenNotice_drops h, setLk, dropLog_other hx hopc]
  · rw [writtenNotice_drops h, setLk, dropLog_release hx hopc hkind]

end Sys2Proof.Machine
end

section
/-!
PROOFS. The policy of a cascade (whether the module is joining, the pattern and the wiring) and what leaves it alone: the end of commands,
ports that go down, links that are admitted (O17).
-/

namespace Sys2Proof.Machine

/-- What a CASCADE_JOIN sets: that the module is joining, the pattern and the wiring. -/
def policy (s : State) : Bool × Nat × Bool := (s.lk.joining, s.lk.pattern, s.lk.wiring)

theorem policy_of_lk {s t : State} (h : t.lk = s.lk) : policy t = policy s := by rw [policy, h, policy]

theorem policy_ite {c : Prop} {_ : Decidable c} {s t u : State} (ht : policy t = policy s) (hu : policy u = policy s) :
    policy (if c then t else u) = policy s := by
  split
  · exact ht
  · exact hu

theorem policy_foldl {α : Type} {f : State → α → State} (hf : ∀ u a, policy (f u a) = policy u) (l : List α) (s : State) :
    policy (l.foldl f s) = policy s :=
  List.foldlRecOn l f (motive := fun t => policy t = policy s) rfl fun t ht a _ => (hf t a).trans ht

section
variable (s : State)

/-! ### Stores, events and messages -/

theorem policy_fire (n : Nat) : policy (fire s n) = policy s := policy_of_lk (fire_lk s n)

theorem policy_flog (r : FRec) : policy (flog s r) = policy s := policy_fire _ _

theorem policy_storeMod (k : Nat) (l : List PByte) : policy (storeMod s k l) = policy s := policy_of_lk (storeMod_lk s k l)

theorem policy_writeWord (w : W64) (b : Bytes) : policy (writeWord s w b) = policy s := policy_ite rfl (policy_of_lk (storeClean_lk s _ b))

theorem policy_updJob (j : JobRef) (f : Job → Job) : policy (updJob s j f) = policy s := policy_of_lk (updJob_lk s j f)

theorem policy_posted {s t : State} (h : PostedFrom s t) : policy t = policy s := by
  obtain ⟨_, _, _, rfl⟩ := h
  rfl

theorem policy_sendTo (m kind : Nat) (pay : Bytes) : policy (sendTo s m kind pay) = policy s := by
  unfold sendTo
  split
  · exact policy_posted (postedFrom_sendOn s _ _ _ _)
  · rfl

theorem policy_sendTwin (kind : Nat) (pay : Bytes) : policy (sendTwin s kind pay) = policy s := policy_posted (postedFrom_sendTwin s kind pay)

theorem policy_twinNotice (tag : BitVec 16) : policy (twinNotice s tag) = policy s := policy_ite (policy_sendTwin s _ _) rfl

/-! ### Completions -/

theorem policy_writeCqe (st : Nat) (c : HeldC) : policy (writeCqe s st c) = policy s := by
  have hsignalled : policy (cqeSignalled s st c) = policy s := policy_ite (policy_fire _ _) rfl
  change policy (if c.twin then twinNotice (cqeSignalled s st c) c.tag else cqeSignalled s st c) = _
  exact policy_ite ((policy_twinNotice _ _).trans hsignalled) hsignalled

theorem policy_postFinal (st : Nat) (c : HeldC) : policy (postFinal s st c) = policy s := policy_ite rfl (policy_writeCqe s st c)

theorem policy_postInterim (st : Nat) (c : HeldC) : policy (postInterim s st c) = policy s := policy_ite rfl (policy_writeCqe s st c)

theorem policy_postInner (st : Nat) (b : Job) (x : Status) (dig : W32) (r : W64) : policy (postInner s st b x dig r) = policy s :=
  policy_ite (policy_postFinal s _ _) (policy_ite (policy_twinNotice s _) rfl)

theorem policy_writeDigest (r : Bytes) : policy (writeDigest s r) = policy s := rfl

theorem policy_digestOut (b : Job) (x : Status) : policy (digestOut s b x).1 = policy s := by
  unfold digestOut
  split
  · exact (policy_writeDigest _ _).trans (policy_foldl (fun _ _ => policy_writeDigest _ _) _ s)
  · rfl

/-! ### Units that stop -/

theorem policy_scrambleDest (p : DSlot) : policy (scrambleDest s p) = policy s :=
  (policy_foldl (f := fun s a => let f := takeFree s 1; hostWrite f.2 a f.1) (fun _ _ => rfl) _ _).trans
    (policy_foldl (fun u k => by exact policy_storeMod (takeFree u 1).2 k _) _ s)

theorem policy_stopUnits (j : JobRef) : policy (stopUnits s j) = policy s :=
  (policy_foldl (f := fun s (p : Nat × Nat) => withdrawChan (updChan (scrambleOwned s p.1 p.2 j) p.1 p.2 fun x => dropDesc x j) p.1 p.2)
    (fun u _ => policy_foldl policy_scrambleDest _ u) _ _).trans
    (policy_foldl (f := fun s (p : Nat × Nat) => stopCtx s p.1 p.2 fun w => w.job = some j || w.launch.isSome) (fun _ _ => rfl) _ (dropSupply s j))

theorem policy_closeWins (k : KernelRun) : policy (closeWins s k) = policy s := by
  unfold closeWins
  refine (policy_foldl ?_ _ _).trans (policy_foldl ?_ _ s) <;> exact fun _ _ => rfl

theorem policy_endPersist (id : Nat) : policy (endPersist s id) = policy s := by
  unfold endPersist
  split
  · rfl
  · exact policy_foldl (fun u t => policy_foldl (f := fun s c => stopCtx s t c fun _ => true) (fun _ _ => rfl) _ u) _ _

theorem policy_killTile (t : Nat) : policy (killTile s t) = policy s := policy_ite rfl rfl

theorem policy_dropOneRef (slot : Nat) (g : BitVec 16) : policy (dropOneRef s slot g) = policy s := rfl

theorem policy_dropRef (slot : Nat) (g : BitVec 16) : policy (dropRef s slot g) = policy s := by
  unfold dropRef
  dsimp only
  split
  · exact policy_ite ((policy_dropOneRef _ _ _).trans (policy_dropOneRef s _ _)) (policy_dropOneRef s _ _)
  · exact policy_dropOneRef s _ _

theorem policy_dropSeq (q : Seq) : policy (dropSeq s q) = policy s :=
  (policy_dropRef _ _ _).trans (policy_foldl (f := fun s (p : Nat × SeqDie) => freeFrames s q.slot p.1 _) (fun _ _ => rfl) _ s)

theorem policy_endModelWork (j : JobRef) (b : Job) (x : Status) : policy (endModelWork s j b x) = policy s := by
  unfold endModelWork
  split
  · exact policy_ite (policy_writeWord _ _ _) rfl
  · split
    · exact policy_ite (policy_dropSeq _ _) rfl
    · rfl
  · rfl

theorem policy_releaseKilled (j : JobRef) (b : Job) (x : Status) : policy (releaseKilled s j b x) = policy s := by
  have hended := (policy_endModelWork (stopUnits s j) j b x).trans (policy_stopUnits s j)
  unfold releaseKilled
  dsimp only
  split
  · exact hended
  · refine (policy_closeWins _ _).trans ((policy_foldl policy_killTile _ _).trans ?_)
    split
    · exact (policy_endPersist _ _).trans hended
    · exact hended

theorem policy_releaseDone (j : JobRef) (b : Job) : policy (releaseDone s j b) = policy s := by
  unfold releaseDone
  split
  · exact policy_stopUnits s j
  · refine (policy_closeWins _ _).trans ((policy_foldl (f := fun s (p : Nat × Nat) => updChan s p.1 p.2 fun x => dropDesc x j) (fun _ _ => rfl) _ _).trans ?_)
    have hstopped := policy_foldl (f := fun s (p : Nat × Nat) => stopCtx s p.1 p.2 fun w => w.job = some j) (fun _ _ => rfl)
      ((ctxsOf s j).filter fun p => ((s.tiles.get p.1).ctxs.get p.2).halted) s
    exact policy_ite hstopped hstopped

theorem policy_releaseFor (j : JobRef) (b : Job) (x : Status) (killed : Bool) : policy (releaseFor s j b x killed) = policy s :=
  policy_ite ((policy_fire _ _).trans ((policy_releaseKilled _ j b x).trans (policy_flog _ _))) (policy_releaseDone s j b)

/-! ### The end of a command -/

theorem policy_endCalls (x : Status) (st : Nat) (l : List CFrame) : policy (endCalls x st l s) = policy s := by
  induction l generalizing s with
  | nil => rfl
  | cons f r ih =>
    cases r with
    | nil => exact policy_postFinal _ _ _
    | cons g r => exact (ih _).trans (policy_postInner s _ _ _ _ _)

theorem policy_resumeAt (st : Nat) (l : List CFrame) (n : Nat) : policy (resumeAt st l n s) = policy s := by
  induction l generalizing n s with
  | nil => rfl
  | cons f r ih =>
    unfold resumeAt
    refine policy_ite rfl ?_
    cases r with
    | nil => exact policy_postFinal _ _ _
    | cons g r => exact (ih _ _).trans (policy_postInner s _ _ _ _ _)

theorem policy_poisonLog (j : JobRef) (b : Job) (x : Status) : policy (poisonLog s j b x) = policy s := by
  unfold poisonLog
  split
  · exact (policy_fire _ _).trans (policy_flog _ _)
  · rfl

theorem policy_dropNodes (st : Nat) (x : Status) : policy (dropNodes s st x) = policy s :=
  policy_foldl (fun u j => by
    split
    · exact policy_releaseKilled _ _ _ _
    · rfl) _ s

theorem policy_deletesDue : policy (deletesDue s) = policy s :=
  policy_foldl (fun u p => by
    unfold deleteDue
    split
    · exact policy_ite (policy_postFinal _ _ _) rfl
    · rfl) _ s

theorem policy_tellFar (st : Nat) (g : GraphRun) (ms : List Nat) (x : Status) : policy (tellFar s st g ms x) = policy s :=
  policy_foldl (fun _ _ => policy_sendTo _ _ _ _) _ s

theorem policy_endGraphWork (st : Nat) (b : Job) (x : Status) (killed : Bool) : policy (endGraphWork s st b x killed) = policy s := by
  unfold endGraphWork
  split
  · next g _ =>
    have htold : policy (if g.failed.isEmpty then tellFar (dropNodes s st x) st g (farModules g.nodes) .busy else dropNodes s st x) = policy s :=
      policy_ite ((policy_tellFar _ _ _ _ _).trans (policy_dropNodes s st x)) (policy_dropNodes s st x)
    exact policy_ite ((policy_foldl policy_killTile _ _).trans htold) htold
  · rfl

theorem policy_finishStream (st : Nat) (b : Job) (x : Status) (r : W64) (killed : Bool) (jump : Option Nat) :
    policy (finishStream s st b x r killed jump) = policy s := by
  have hreleased : policy (poisonLog (endGraphWork (releaseFor s (.stream st) b x killed) st b x killed) (.stream st) b x) = policy s :=
    (policy_poisonLog _ _ _ _).trans ((policy_endGraphWork _ _ _ _ _).trans (policy_releaseFor s _ _ _ _))
  have hended (v : State) (hv : v = deletesDue (delJob (digestOut (poisonLog (endGraphWork (releaseFor s (.stream st) b x killed) st b x killed)
      (.stream st) b x) b x).1 (.stream st))) : policy v = policy s := by
    rw [hv]
    exact (policy_deletesDue _).trans ((policy_digestOut _ b x).trans hreleased)
  unfold finishStream
  dsimp only
  split
  · exact (policy_postFinal _ _ _).trans (hended _ rfl)
  · exact policy_ite ((policy_resumeAt _ _ _ _).trans ((policy_postInner _ _ _ _ _ _).trans (hended _ rfl)))
      ((policy_endCalls _ _ _ _).trans ((policy_postInner _ _ _ _ _ _).trans (hended _ rfl)))

theorem policy_finishGraph (st : Nat) (b : Job) (g : GraphRun) : policy (finishGraph s st b g) = policy s := by
  unfold finishGraph
  refine (policy_finishStream _ _ _ _ _ _ _).trans ?_
  split
  · exact policy_flog _ _
  · rfl

theorem policy_haltFar (st : Nat) (g : GraphRun) : policy (haltFar s st g).1 = policy s := by
  unfold haltFar
  split
  · exact policy_tellFar s _ _ _ _
  · rfl

theorem policy_finishNode (st n : Nat) (b : Job) (x : Status) (r : W64) (killed : Bool) : policy (finishNode s st n b x r killed) = policy s := by
  have hended (v : State) (hv : v = postInner (delJob (poisonLog (releaseFor s (.node st n) b x killed) (.node st n) b x) (.node st n)) st b x 0xFFFFFFFF r) :
      policy v = policy s := by
    rw [hv]
    exact (policy_postInner _ _ _ _ _ _).trans ((policy_poisonLog _ _ _ _).trans (policy_releaseFor s _ _ _ _))
  unfold finishNode
  extract_lets _ _ _ v
  have hv := hended v rfl
  clear_value v
  split
  · exact hv
  · split
    · extract_lets _ _ _ w p _ _ u
      have hw : policy w = policy s := policy_ite ((policy_foldl (fun _ _ => policy_sendTo _ _ _ _) _ v).trans hv) hv
      clear_value w
      have hp : policy p.1 = policy s := by
        unfold p
        split
        · exact hw
        · exact (policy_haltFar w _ _).trans hw
      have hu : policy u = policy s := hp
      exact policy_ite ((policy_finishGraph _ _ _ _).trans hu) hu
    · exact hv

theorem policy_settleRemote (k : Nat) (l : RemoteLaunch) : policy (settleRemote s k l) = policy s :=
  (policy_deletesDue _).trans (policy_ite (policy_sendTo s _ _ _) rfl)

theorem policy_finishRemote (k n : Nat) (b : Job) (x : Status) (r : W64) (killed : Bool) : policy (finishRemote s k n b x r killed) = policy s := by
  unfold finishRemote
  extract_lets _ _ v
  have hv : policy v = policy s := (policy_poisonLog _ _ _ _).trans (policy_releaseFor s _ _ _ _)
  clear_value v
  split
  · exact hv
  · exact (policy_settleRemote _ _ _).trans ((policy_foldl (fun _ _ => policy_sendTo _ _ _ _) _ v).trans hv)

theorem policy_finishAdopted (j : JobRef) (b : Job) (x : Status) (r : W64) (killed : Bool) : policy (finishAdopted s j b x r killed) = policy s :=
  (policy_postFinal _ _ _).trans ((policy_deletesDue _).trans ((policy_digestOut _ b x).trans
    ((policy_poisonLog _ _ _ _).trans (policy_releaseFor s _ _ _ _))))

theorem policy_finish (j : JobRef) (x : Status) (r : W64) (killed : Bool) : policy (finish s j x r killed) = policy s := by
  unfold finish
  split
  · rfl
  · split
    · exact policy_finishStream s _ _ _ _ _ _
    · exact policy_finishNode s _ _ _ _ _ _
    · exact policy_finishRemote s _ _ _ _ _ _
    · exact policy_finishAdopted s _ _ _ _ _

theorem policy_unitFault (j : JobRef) (x : Status) (o : W64) : policy (unitFault s j x o) = policy s := by
  unfold unitFault
  dsimp only
  split
  · exact policy_updJob s _ _
  · exact policy_ite ((policy_finish _ _ _ _ _).trans (policy_updJob s _ _)) (policy_updJob s _ _)

/-! ### Ports that go down -/

theorem policy_chanFaultAs (e ch : Nat) (d : DSlot) (cause : Nat) (x : Status) : policy (chanFaultAs s e ch d cause x) = policy s := by
  have hfar : policy (showFar s d) = policy s := policy_foldl (fun _ _ => policy_storeMod _ _ _) _ s
  unfold chanFaultAs
  dsimp only
  split
  · exact (policy_unitFault _ _ _ _).trans ((policy_fire _ _).trans hfar)
  · exact (policy_fire _ _).trans hfar

theorem policy_endTransfers (p : Nat → Bool) (x : Status) : policy (endTransfers s p x) = policy s :=
  policy_foldl (fun u _ => policy_foldl (fun v _ => policy_foldl (fun _ _ => policy_ite (policy_chanFaultAs _ _ _ _ _ _) rfl) _ v) _ u) _ s

theorem policy_endRemote (gone : Nat → Bool) : policy (endRemote s gone) = policy s :=
  (policy_foldl (fun u r => by
    split
    · exact policy_ite (policy_settleRemote _ _ _) rfl
    · rfl) _ _).trans (policy_foldl (fun _ _ => policy_finish _ _ _ _ _) _ s)

theorem policy_releaseWait (w : TwinWait) : policy (releaseWait s w) = policy s := by
  unfold releaseWait
  split
  · split
    · rfl
    · exact policy_finish s _ _ _ _
  · split
    · rfl
    · exact policy_ite rfl (policy_postInterim s _ _)

theorem policy_flushWaits : policy (flushWaits s) = policy s := policy_foldl (fun _ _ => policy_releaseWait _ _) _ _

theorem policy_twinIsolated : policy (twinIsolated s) = policy s := by
  unfold twinIsolated
  extract_lets _ v
  have hv : policy v = policy s := by
    unfold v
    split
    · exact policy_finish _ _ _ _ _
    · exact policy_finish _ _ _ _ _
    · rfl
  clear_value v
  split
  · exact (policy_flushWaits _).trans hv
  · exact hv
  · exact (policy_flushWaits _).trans hv
  · exact hv

theorem policy_portDown (p : Nat) : policy (portDown s p) = policy s := by
  unfold portDown
  extract_lets _ _ _ w
  have hw : policy w = policy s := (policy_endRemote _ _).trans (policy_endTransfers _ _ _)
  exact policy_ite ((policy_twinIsolated _).trans hw) hw

theorem policy_leavePort (n : Nat) : policy (leavePort s n) = policy s := by
  unfold leavePort
  split
  · rfl
  · dsimp only
    split
    · exact policy_foldl (f := fun s msg => emit s (.link _ msg)) (fun _ _ => rfl) _ (updLink s n fun l => { l with port := none })
    · exact policy_portDown _ _

/-! ### Links that are checked again -/

theorem policy_setLinkState (n st : Nat) : policy (setLinkState s n st) = policy s := policy_ite rfl (policy_fire _ _)

theorem policy_enterMirror : policy (enterMirror s) = policy s := by
  unfold enterMirror
  dsimp only
  split
  · exact policy_finish _ _ _ _ _
  · rfl

theorem policy_startPairing : policy (startPairing s) = policy s := by
  unfold startPairing
  extract_lets v live w z
  have hz : policy z = policy s := policy_foldl (f := sendCkpt) (fun u q => policy_sendTwin u _ _) live v
  clear_value z
  exact policy_ite ((policy_enterMirror z).trans hz) hz

theorem policy_linkUp (n : Nat) (p : Peer) : policy (linkUp s n p) = policy s := by
  unfold linkUp
  split
  · rfl
  · exact policy_ite ((policy_startPairing _).trans (policy_setLinkState _ _ _)) (policy_setLinkState _ _ _)

theorem policy_admitLink (n : Nat) (p : Peer) : policy (admitLink s n p) = policy s := by
  unfold admitLink
  split
  · exact policy_linkUp s n p
  · exact policy_setLinkState _ _ _

theorem policy_recheckLink (n : Nat) : policy (recheckLink s n) = policy s := by
  unfold recheckLink
  dsimp only
  split
  · rfl
  · split
    · exact policy_admitLink s n _
    · split
      · split
        · rfl
        · exact (policy_setLinkState _ _ _).trans (policy_leavePort s n)
      · rfl

end

/-- A link that is neither UP nor HELD has nothing to check again. -/
theorem recheckLink_idle {s : State} {n : Nat} (h3 : (s.lk.links.get n).st ≠ 3) (h4 : (s.lk.links.get n).st ≠ 4) : recheckLink s n = s := by
  unfold recheckLink
  dsimp only
  split
  · rfl
  · rw [if_neg h4, if_neg h3]

theorem foldl_recheckLink_idle {l : List Nat} {s : State} (h : ∀ n ∈ l, (s.lk.links.get n).st ≠ 3 ∧ (s.lk.links.get n).st ≠ 4) :
    l.foldl recheckLink s = s := by
  induction l with
  | nil => rfl
  | cons n l ih =>
    obtain ⟨hn, hl⟩ := List.forall_mem_cons.1 h
    rw [List.foldl_cons, recheckLink_idle hn.1 hn.2, ih hl]

end Sys2Proof.Machine
end

section
/-!
PROOFS. CASCADE_JOIN and TWIN_PAIR (O17). That JOINED is set whatever the status of the join is the model's choice (assumption log 109).
-/

namespace Sys2Proof.Machine

/-! ### CASCADE_JOIN (R454) -/

/-- The module that has taken the policy of the entry `e` for the join `j`, before its links are checked again. -/
def joinTaken (s : State) (j : JobRef) (e : Bytes) : State :=
  let x := if entryLen e = 0 then [] else bytesAt (dataOf s e) 0 112
  let s := setLk (setBody s j (.ctl .join)) fun l => { l with
    joining := true, wiring := jWiring e = 1, pattern := jPattern e, expected := x
    role := if s.pins.standby && !l.switchedIn then l.role else if l.switchedIn then l.role else s.pins.casc.toNat }
  startBeacon (updMember s (selfModule s) fun _ => ownMember s)

theorem joinTaken_policy (s : State) (j : JobRef) (e : Bytes) : policy (joinTaken s j e) = (true, jPattern e, decide (jWiring e = 1)) := rfl

theorem joinTaken_links (s : State) (j : JobRef) (e : Bytes) : (joinTaken s j e).lk.links = s.lk.links := by
  change (setBody s j (.ctl .join)).lk.links = _
  rw [setBody_lk]

theorem joinTaken_mem (s : State) (j : JobRef) (e : Bytes) : (joinTaken s j e).mem = s.mem := setBody_mem s j _

theorem joinTaken_job {s : State} {j : JobRef} {b : Job} (e : Bytes) (h : getJob s j = some b) :
    getJob (joinTaken s j e) j = some { b with body := .ctl .join } :=
  (getJob_of_cp_eq (t := setBody s j (.ctl .join)) rfl j).trans (getJob_setBody _ h)

section
variable {s o : State} {st : Stream} {e : NextEntry}

theorem cascadeJoin_takes (h : Enters s st 0x88 e o) (halone : exclusiveRuns o (.stream st.val) = false) (hchk : checkJoin o e.bytes = none) :
    exec (.cascadeJoin st) s = .next ((List.range 24).foldl recheckLink (joinTaken o (.stream st.val) e.bytes)) := by
  refine startEntry_runs h ?_
  rw [runJoin, exclusively_alone _ halone, checkThen_passes _ _ _ hchk]
  rfl

end

/-- The join that runs, if there is one. -/
def joinRunning (s : State) : Option (JobRef × Job) := s.cp.jobs.find? fun p => match p.2.body with | .ctl .join => true | _ => false

theorem execCascadeJoinSettled_eq (s : State) : execCascadeJoinSettled s =
    match joinRunning s with
    | none => .next s
    | some p => .next (finish (setLk s fun l => { l with joining := false, joined := true }) p.1 (joinStatus s) (BitVec.ofNat 64 (portsUp s).length)) := rfl

theorem cascadeJoinSettled_joins {s : State} {p : JobRef × Job} (h : joinRunning s = some p) : exec .cascadeJoinSettled s =
    .next (finish { s with lk := { s.lk with joining := false, joined := true } } p.1 (joinStatus s) (BitVec.ofNat 64 (portsUp s).length)) := by
  rw [exec, execCascadeJoinSettled_eq, h]
  rfl

/-! ### TWIN_PAIR (R462, R468) -/

section
variable {s o : State} {st : Stream} {p : PartnerReport} {e : NextEntry}

theorem twinPair_mirror (h : Enters s st 0x89 e o) (hact : byteN e.bytes 16 = 0) (halone : exclusiveRuns o (.stream st.val) = false) :
    exec (.twinPair st p) s = .next (pairMirror (.stream st.val) p o) := by
  refine startEntry_runs h ?_
  rw [runTwinPair, hact]
  exact exclusively_alone _ halone

theorem twinPair_down (h : Enters s st 0x89 e o) (hact : byteN e.bytes 16 = 1) (halone : exclusiveRuns o (.stream st.val) = false) :
    exec (.twinPair st p) s = .next (pairDown (.stream st.val) o) := by
  refine startEntry_runs h ?_
  rw [runTwinPair, hact]
  exact exclusively_alone _ halone

end

section
variable {s : State} {j : JobRef} {p : PartnerReport}

theorem pairMirror_already (h : s.lk.twin = .mirror) : pairMirror j p s = finish s j .ok 0 := if_pos h

theorem pairMirror_fails {x : Status} (htwin : s.lk.twin = .unpaired) (hchk : checkPair s p = some x) : pairMirror j p s = finish s j x 0 := by
  rw [pairMirror, if_neg (by simp [htwin]), checkThen_fails _ _ _ hchk]

/-- The module on which the TWIN_PAIR `j` waits for the partner's. -/
def pairWaits (s : State) (j : JobRef) : State := setLk (setBody s j (.ctl .pair)) fun l => { l with pairJob := some j }

theorem pairMirror_waits (htwin : s.lk.twin = .unpaired) (hchk : checkPair s p = none) (hpartner : s.lk.partnerPair = false) :
    PostedFrom (pairWaits s j) (pairMirror j p s) := by
  have hsent := postedFrom_sendTwin (pairWaits s j) kindTwinPair [1]
  have htwin' : (sendTwin (pairWaits s j) kindTwinPair [1]).lk.twin = .unpaired ∧ (sendTwin (pairWaits s j) kindTwinPair [1]).lk.partnerPair = false := by
    obtain ⟨_, _, _, e⟩ := hsent
    rw [e]
    exact ⟨(congrArg Links.twin (setBody_lk s j _)).trans htwin, (congrArg Links.partnerPair (setBody_lk s j _)).trans hpartner⟩
  have hrun : pairMirror j p s = sendTwin (pairWaits s j) kindTwinPair [1] := by
    rw [pairMirror, if_neg (by simp [htwin]), checkThen_passes _ _ _ hchk]
    refine (if_neg ?_).trans (if_neg ?_)
    · exact fun hp => nomatch hp.symm.trans htwin'.1
    · exact fun hp => nomatch hp.symm.trans htwin'.2
  rwa [hrun]

theorem pairWaits_job {b : Job} (h : getJob s j = some b) : getJob (pairWaits s j) j = some { b with body := .ctl .pair } :=
  (getJob_of_cp_eq (t := setBody s j (.ctl .pair)) rfl j).trans (getJob_setBody _ h)

theorem pairDown_unpaired (h : s.lk.twin = .unpaired) : pairDown j s = finish s j .ok 0 := by
  rw [pairDown, h]

theorem twinPairTimeout_ends (hj : s.lk.pairJob = some j) (htwin : s.lk.twin = .unpaired) :
    exec .twinPairTimeout s = .next (finish { s with lk := { s.lk with pairJob := none } } j .timeout 0) := by
  rw [exec, execTwinPairTimeout, hj]
  exact if_neg (by simp [htwin])

end

/-- Settles O17: a join takes its policy, which no link that is checked again touches, and completes when the light list has settled; TWIN_PAIR
completes, waits, fails or times out. -/
theorem cascadeJoinAndTwinPair : Obligations.CascadeJoinAndTwinPair := by
  unfold Obligations.CascadeJoinAndTwinPair
  refine ⟨fun s o st e h hjob halone hchk => ?_, fun s p h => cascadeJoinSettled_joins h, fun s o st p e h hact halone htwin => ?_,
    fun s o st p e h hjob hact halone htwin hchk hpartner => ?_, fun s o st p e x h hact halone htwin hchk => ?_,
    fun s o st p e h hact halone htwin => ?_, fun s j => twinPairTimeout_ends⟩
  · have hpolicy := (policy_foldl policy_recheckLink (List.range 24) (joinTaken o (.stream st.val) e.bytes)).trans (joinTaken_policy _ _ _)
    simp only [policy, Prod.mk.injEq] at hpolicy
    obtain ⟨hjoining, hpattern, hwiring⟩ := hpolicy
    refine ⟨_, cascadeJoin_takes h halone hchk, hjoining, hpattern, hwiring, fun hlinks => ?_⟩
    rw [foldl_recheckLink_idle fun n hn => by rw [joinTaken_links]; exact hlinks n (List.mem_range.1 hn)]
    exact ⟨_, joinTaken_job _ hjob, rfl, joinTaken_mem _ _ _⟩
  · rw [twinPair_mirror h hact halone, pairMirror_already htwin]
  · obtain ⟨ports, out, free, hposted⟩ := pairMirror_waits (j := .stream st.val) htwin hchk hpartner
    rw [twinPair_mirror h hact halone, hposted]
    exact ⟨_, _, rfl, pairWaits_job hjob, rfl, rfl, (congrArg Links.twin (setBody_lk o _ _)).trans htwin, setBody_mem o _ _⟩
  · rw [twinPair_mirror h hact halone, pairMirror_fails htwin hchk]
  · rw [twinPair_down h hact halone, pairDown_unpaired htwin]

end Sys2Proof.Machine
end

section
/-!
PROOFS. PWR_ALERT#, the input, and power-on and power-off (O48). That PWR_EN's deassertion and a low input act as PWR_ALERT# and power down at
once is the model's choice (assumption log 115).
-/

namespace Sys2Proof.Machine

/-! ### PWR_ALERT# (R498) -/

/-- A table whose entries at the listed keys have been lowered to `n` at most. -/
theorem held_foldl_le {n : Nat} {l : List Nat} {t : Tbl Tok} {d : Nat} (h : d ∈ l ∨ (t.get d).held ≤ n) :
    ((l.foldl (fun t d => Tbl.upd t d fun x => { x with held := min x.held n }) t).get d).held ≤ n := by
  induction l generalizing t with
  | nil => exact h.resolve_left List.not_mem_nil
  | cons k l ih =>
    refine ih ?_
    by_cases hk : d = k
    · subst hk
      exact .inr (by simp)
    · refine h.imp (fun hmem => (List.mem_cons.1 hmem).resolve_left hk) fun hd => ?_
      rwa [Tbl.get_upd_ne _ _ _ hk]

theorem alertOn_effects (s : State) : (alertOn s).pw.alert = true ∧ (alertOn s).pw.suspended = true ∧ ((alertOn s).evr.srcs.get 700).pend = true ∧
    (∀ d, d < 8 → dieUp (alertOn s) d = true → (tokOf (alertOn s) d).held ≤ 120) := by
  unfold alertOn
  generalize freeLenders (recallAll s) = u
  refine ⟨by rw [fire_pw]; rfl, by rw [fire_pw]; rfl, fire_pend (by decide) _, fun d hd hup => ?_⟩
  have hu : d ∈ upDies u := by
    refine List.mem_filter.2 ⟨List.mem_range.2 hd, ?_⟩
    rw [dieUp, fire_dies] at hup
    exact hup
  rw [tokOf, fire_pw]
  exact held_foldl_le (.inl hu)

section
variable {s : State}

theorem pwrAlertAssert_alerts (hpower : s.pins.hotSwap = true) (hold : s.pins.alert = false) :
    exec .pwrAlertAssert s = .next (alertOn { s with pins := { s.pins with alert := true } }) := by
  rw [exec, execPwrAlertAssert, if_neg (by simp [powered, hpower]), if_neg (by simp [hold])]
  rfl

theorem pwrAlertAssert_again (hpower : s.pins.hotSwap = true) (hold : s.pins.alert = true) : exec .pwrAlertAssert s = .next s := by
  rw [exec, execPwrAlertAssert, if_neg (by simp [powered, hpower]), if_pos hold]

theorem pwrAlertDeassert_ends (hpower : s.pins.hotSwap = true) (hold : s.pins.alert = true) : exec .pwrAlertDeassert s =
    .next (fire { s with pins := { s.pins with alert := false }, pw := { s.pw with alert := false } } 700) := by
  rw [exec, execPwrAlertDeassert, if_neg (by simp [powered, hpower]), if_neg (by simp [hold])]
  rfl

/-- Without power an event of the input or of a pin moves the pin alone. -/
theorem unpowered_pins (hpower : s.pins.hotSwap = false) : exec .pwrAlertAssert s = .next { s with pins := { s.pins with alert := true } } ∧
    exec .pwrAlertDeassert s = .next { s with pins := { s.pins with alert := false } } ∧ exec .inputHigh s = .next s ∧
    exec .inputLow s = .next s ∧ exec .overcurrent s = .next s ∧
    exec .pwrEnDeassert s = .next { s with pins := { s.pins with pwrEn := false, needPwrEn := false } } := by
  have hoff : powered s = false := hpower
  have hno : ¬ powered s = true := by simp [hoff]
  have hyes : (!powered s) = true := by simp [hoff]
  exact ⟨if_pos hyes, if_pos hyes, if_neg hno, if_neg hno, if_neg hno, if_pos hyes⟩

theorem grantResume_resumes (h : s.pins.alert = false) : exec .grantResume s = .next { s with pw := { s.pw with suspended := false } } :=
  if_neg (by simp [h])

theorem grantResume_waits (h : s.pins.alert = true) : exec .grantResume s = .next s := if_pos h

/-! ### The input (R496, R497, R509) -/

theorem inputHigh_warns (hpower : s.pins.hotSwap = true) :
    exec .inputHigh s = .next (fire { s with pw := { s.pw with inputWarn := true } } 698) := if_pos hpower

theorem input_opens (hpower : s.pins.hotSwap = true) : exec .inputUndervoltage s = .next (offState s) ∧
    exec .inputOvervoltage s = .next (offState s) ∧ exec .inputLow s = .next (fatal (alertOn s) 3) ∧ exec .overcurrent s = .next (fatal s 6) ∧
    (s.pins.alert = true → exec .inputBelow46V s = .next (fatal s 3)) ∧ (s.pins.alert = false → exec .inputBelow46V s = .next s) :=
  ⟨if_pos hpower, if_pos hpower, if_pos hpower, if_pos hpower, fun h => if_pos (by simp [powered, hpower, h]), fun h => if_neg (by simp [h])⟩

theorem thermalTrip_trips {d : Die} {t : BitVec 8} (hpower : s.pins.hotSwap = true) (hup : dieUp s d.val = true) (ht : 105 ≤ t.toNat) :
    exec (.thermalTrip d t) s = .next (fatal (thermLim (setTj s d.val t)) 4) := if_pos (by simp [powered, hpower, hup, ht])

theorem thermalTrip_cool {d : Die} {t : BitVec 8} (ht : t.toNat < 105) : exec (.thermalTrip d t) s = .next s :=
  if_neg (by simp [Nat.not_le.2 ht])

/-! ### Power-off (R499, R571) -/

theorem offState_keeps (s : State) : (offState s).pins.hotSwap = false ∧ (offState s).pins.pwrgd = false ∧ (offState s).mem = { host := s.mem.host } ∧
    (offState s).cp.jobs = [] ∧ (offState s).hq.ready = false ∧ (offState s).boot.image = s.boot.image ∧ (offState s).flt.retired = s.flt.retired ∧
    (offState s).bcn.local_ = 0 ∧ (offState s).out = s.out ∧ (offState s).pending = s.pending :=
  ⟨rfl, rfl, rfl, rfl, rfl, rfl, rfl, rfl, rfl, rfl⟩

theorem powerDown_keeps (s : State) : (powerDown s).pins.hotSwap = false ∧ (powerDown s).pins.needPwrEn = s.pins.pwrEn ∧
    (powerDown s).out = s.out ∧ (powerDown s).mem = { host := s.mem.host } := ⟨rfl, rfl, rfl, rfl⟩

/-- The fog message of a module that serves, with a port to send it on. -/
theorem fogOut_sends (cause : Nat) (hrec : s.boot.recovery = false) (hports : portsUp s ≠ []) :
    (fogOut s cause).out = s.out ++ [.fog (ownFog s cause)] ∧ (fogOut s cause).pins = s.pins ∧ (fogOut s cause).mem = s.mem := by
  rw [fogOut, if_neg (by simp [hrec]), sendFog, if_neg (by simp [hports]), flog]
  exact ⟨fire_out _ _, fire_pins _ _, fire_mem _ _⟩

/-- The fatal faults of the power supply and of a temperature end with the power off. -/
theorem fatal_powersDown {c : Nat} (hc : c = 3 ∨ c = 4 ∨ c = 6) : fatal s c = powerDown (fogOut s c) := by
  rcases hc with rfl | rfl | rfl <;> rfl

theorem fatal_unpowers {c : Nat} (hc : c = 3 ∨ c = 4 ∨ c = 6) (hrec : s.boot.recovery = false) (hports : portsUp s ≠ []) :
    (fatal s c).pins.hotSwap = false ∧ (fatal s c).pins.needPwrEn = s.pins.pwrEn ∧ (fatal s c).out = s.out ++ [.fog (ownFog s c)] ∧
    (fatal s c).mem = { host := s.mem.host } := by
  obtain ⟨hout, hpins, hmem⟩ := fogOut_sends c hrec hports
  obtain ⟨hoff, hneed, hkept, hhost⟩ := powerDown_keeps (fogOut s c)
  rw [fatal_powersDown hc]
  exact ⟨hoff, by rw [hneed, hpins], by rw [hkept, hout], by rw [hhost, hmem]⟩

/-! ### Power-on (R519, R569) -/

/-- The module that starts the image that flash holds from manufacture. -/
def imageStarted (s : State) : State := setBoot s fun b => { b with recovery := false, recCause := 0, recErr := 0, running := b.image, stage := 3 }

theorem romStage_starts (hfaults : s.flt.bootFaults < 3) (hcommitted : s.boot.committed = true) (himage : s.boot.image = []) :
    romStage s = imageStarted s := by
  rw [romStage, if_neg (by omega), if_neg (by simp [hcommitted]), if_neg (by simp [imageOk, himage])]
  rfl

theorem powerOn_starts {t : SelfTest} (hpower : s.pins.hotSwap = false) (hneed : (s.pins.pwrEn && s.pins.needPwrEn) = false)
    (hfaults : s.flt.bootFaults < 3) (hcommitted : s.boot.committed = true) (himage : s.boot.image = []) :
    exec (.powerOn t) s = .next (imageStarted (powerUp t s)) := by
  rw [exec, execPowerOn, if_neg (by simp [powered, hpower, hneed]), romStage_starts (by exact hfaults) (by exact hcommitted) (by exact himage)]

theorem powerOn_powered {t : SelfTest} (hpower : s.pins.hotSwap = true) : exec (.powerOn t) s = .next s := if_pos (by simp [powered, hpower])

theorem pwrEnDeassert_powersDown {a : State} (hpower : s.pins.hotSwap = true) (ha : a = alertOn { s with pins := { s.pins with pwrEn := false } }) :
    exec .pwrEnDeassert s = .next (powerDown (if a.lk.twin = .detached then a else fogOut a 3)) := by
  rw [exec, execPwrEnDeassert, if_neg (by simp [powered, hpower])]
  dsimp only
  rw [setPins, ← ha]

end

/-- Settles O48: PWR_ALERT# and its end, the input's thresholds, the fatal power faults, and the pins of a module with and without power. -/
theorem inputAlertAndPowerPins : Obligations.InputAlertAndPowerPins := by
  unfold Obligations.InputAlertAndPowerPins
  refine ⟨fun s => pwrAlertAssert_alerts, alertOn_effects, fun s => pwrAlertAssert_again, fun s => pwrAlertDeassert_ends, fun s => unpowered_pins,
    fun s => grantResume_resumes, fun s => grantResume_waits, fun s => inputHigh_warns, fun s => input_opens, fun s d t => thermalTrip_trips,
    fun s d t => thermalTrip_cool, offState_keeps, fun s c => fatal_unpowers, fun s t hpower hneed hfaults hcommitted himage => ?_,
    fun s t => powerOn_powered, fun s a => pwrEnDeassert_powersDown⟩
  exact ⟨_, powerOn_starts hpower hneed hfaults hcommitted himage, rfl, rfl, rfl, rfl, rfl, rfl, rfl, rfl, rfl, rfl, rfl, rfl⟩

end Sys2Proof.Machine
end

section
/-!
PROOFS. Power tokens: grants, draws, loans and their recall (O49).
-/

namespace Sys2Proof.Machine

@[simp] theorem tokOf_updTok (s : State) (d : Nat) (f : Tok → Tok) : tokOf (updTok s d f) d = f (tokOf s d) := by simp [tokOf]

theorem tokOf_updTok_ne (s : State) {d e : Nat} (f : Tok → Tok) (h : e ≠ d) : tokOf (updTok s d f) e = tokOf s e := by
  simp [tokOf, Tbl.get_upd_ne _ _ _ h]

/-! ### What a change of tokens leaves -/

/-- The state `t` is `s` but for the tokens of its die stacks. -/
def TokFrom (s t : State) : Prop := ∃ toks, t = { s with pw := { s.pw with toks := toks } }

theorem TokFrom.refl (s : State) : TokFrom s s := ⟨s.pw.toks, rfl⟩

theorem TokFrom.trans {s t u : State} (h : TokFrom s t) (h' : TokFrom t u) : TokFrom s u := by
  obtain ⟨_, rfl⟩ := h
  obtain ⟨toks, rfl⟩ := h'
  exact ⟨toks, rfl⟩

theorem tokFrom_updTok (s : State) (d : Nat) (f : Tok → Tok) : TokFrom s (updTok s d f) := ⟨_, rfl⟩

theorem TokFrom.dies_eq {s t : State} (h : TokFrom s t) : t.dies = s.dies := by obtain ⟨_, rfl⟩ := h; rfl

theorem TokFrom.dieUp_eq {s t : State} (h : TokFrom s t) (d : Nat) : dieUp t d = dieUp s d := by rw [dieUp, h.dies_eq, dieUp]

theorem tokOf_rePool (s : State) (d : Nat) : tokOf (rePool s) d = tokOf s d := rfl

/-! ### Grants (R501, R502) -/

theorem clampTo_bounds {lo hi : Nat} (h : lo ≤ hi) (n : Nat) : lo ≤ clampTo lo hi n ∧ clampTo lo hi n ≤ hi := by
  unfold clampTo
  omega

/-- What a die stack keeps of its share lies between 120 tokens and the share. -/
theorem keptGrant_bounds (t : Tok) {share : Nat} (slack : Nat) (h : 120 ≤ share) : 120 ≤ keptGrant t share slack ∧ keptGrant t share slack ≤ share := by
  unfold keptGrant
  split <;> omega

theorem keptGrant_noSlack (t : Tok) (share : Nat) : keptGrant t share 0 = share := rfl

section
variable (share : Nat) (slack : Nat → Nat)

/-- One die stack's grant of its share; one out of service has none. -/
def grantTo (s : State) (d : Nat) : State := updTok s d fun t => { t with held := if dieUp s d then keptGrant t share (slack d) else 0 }

theorem grants_tokFrom (l : List Nat) (s : State) : TokFrom s (l.foldl (grantTo share slack) s) :=
  List.foldlRecOn l _ (motive := TokFrom s) (.refl s) fun t ht d _ => ht.trans (tokFrom_updTok t d _)

theorem grants_held {l : List Nat} (hl : l.Nodup) (s : State) :
    (∀ d ∈ l, (tokOf (l.foldl (grantTo share slack) s) d).held = if dieUp s d then keptGrant (tokOf s d) share (slack d) else 0) ∧
    (∀ d, d ∉ l → tokOf (l.foldl (grantTo share slack) s) d = tokOf s d) := by
  induction l generalizing s with
  | nil => exact ⟨nofun, fun _ _ => rfl⟩
  | cons k l ih =>
    obtain ⟨hk, hl⟩ := List.nodup_cons.1 hl
    obtain ⟨hin, hout⟩ := ih hl (grantTo share slack s k)
    have hup (d : Nat) : dieUp (grantTo share slack s k) d = dieUp s d := (tokFrom_updTok s k _).dieUp_eq d
    have hne {d : Nat} (h : d ≠ k) : tokOf (grantTo share slack s k) d = tokOf s d := tokOf_updTok_ne s _ h
    refine ⟨fun d hd => ?_, fun d hd => ?_⟩
    · rcases List.mem_cons.1 hd with rfl | hd
      · rw [List.foldl_cons, hout d hk, grantTo, tokOf_updTok]
      · rw [List.foldl_cons, hin d hd, hup, hne fun e => hk (e ▸ hd)]
    · obtain ⟨hdk, hdl⟩ := not_or.1 (mt List.mem_cons.2 hd)
      rw [List.foldl_cons, hout d hdl, hne hdk]

end

/-- Returned tokens only go to listed die stacks, and no stack passes 310. -/
theorem giveReturned_spec (l : List Nat) (s : State) (n : Nat) : TokFrom s (giveReturned s l n) ∧
    (∀ d, d ∉ l → tokOf (giveReturned s l n) d = tokOf s d) ∧
    (∀ d, (tokOf s d).held ≤ 310 → (tokOf s d).held ≤ (tokOf (giveReturned s l n) d).held ∧ (tokOf (giveReturned s l n) d).held ≤ 310) ∧
    (n = 0 → ∀ d, (tokOf (giveReturned s l n) d).held = (tokOf s d).held) := by
  induction l generalizing s n with
  | nil => exact ⟨.refl s, fun _ _ => rfl, fun _ h => ⟨Nat.le_refl _, h⟩, fun _ _ => rfl⟩
  | cons k l ih =>
    rw [giveReturned]
    split
    · obtain ⟨hfrom, hout, hle, hzero⟩ := ih s n
      exact ⟨hfrom, fun d hd => hout d fun h => hd (List.mem_cons_of_mem k h), hle, hzero⟩
    · dsimp only
      set g := min n (310 - (tokOf s k).held)
      set v := updTok s k fun t => { t with held := t.held + g }
      obtain ⟨hfrom, hout, hle, hzero⟩ := ih v (n - g)
      have hne {d : Nat} (h : d ≠ k) : tokOf v d = tokOf s d := tokOf_updTok_ne s _ h
      have hself : (tokOf v k).held = (tokOf s k).held + g := by rw [tokOf_updTok]
      refine ⟨(tokFrom_updTok s k _).trans hfrom, fun d hd => ?_, fun d hd => ?_, fun h0 d => ?_⟩
      · obtain ⟨hdk, hdl⟩ := not_or.1 (mt List.mem_cons.2 hd)
        rw [hout d hdl, hne hdk]
      · by_cases h : d = k
        · subst h
          obtain ⟨hlo, hhi⟩ := hle d (by omega)
          exact ⟨by omega, hhi⟩
        · have hbound := hle d (by rwa [hne h])
          rwa [hne h] at hbound
      · rw [hzero (by omega)]
        by_cases h : d = k
        · subst h
          omega
        · rw [hne h]

theorem foldl_add_zero {l : List Nat} (h : ∀ n ∈ l, n = 0) : l.foldl (· + ·) 0 = 0 := by
  induction l with
  | nil => rfl
  | cons n l ih =>
    obtain ⟨hn, hl⟩ := List.forall_mem_cons.1 h
    rw [List.foldl_cons, hn]
    exact ih hl

section
variable (s : State) (r : Nat) (l : List Nat)

/-- The equal share of a die stack in service. -/
def shareOf : Nat := clampTo 120 310 ((s.pw.cap - reserveFor r) / max 1 (upDies s).length)

theorem shareOf_bounds : 120 ≤ shareOf s r ∧ shareOf s r ≤ 310 := clampTo_bounds (by decide) _

/-- The module whose die stacks have been granted their shares. -/
def granted : State := (List.range 8).foldl (grantTo (shareOf s r) fun d => l.getD d 0) s

theorem granted_tokFrom : TokFrom s (granted s r l) := grants_tokFrom _ _ _ s

/-- The tokens that die stacks return. -/
def returned : Nat := ((upDies s).map fun d => shareOf s r - keptGrant (tokOf s d) (shareOf s r) (l.getD d 0)).foldl (· + ·) 0

theorem granted_held {d : Nat} (hd : d < 8) :
    (tokOf (granted s r l) d).held = if dieUp s d then keptGrant (tokOf s d) (shareOf s r) (l.getD d 0) else 0 :=
  (grants_held _ _ List.nodup_range s).1 d (List.mem_range.2 hd)

/-- The module after a grant interval, its pool aside. -/
def grantsGiven : State := giveReturned (setPw (granted s r l) fun p => { p with reserve := reserveFor r }) (upDies (granted s r l)) (returned s r l)

variable {s} in
theorem grantInterval_grants (h : s.pw.suspended = false) : exec (.grantInterval r l) s = .next (rePool (grantsGiven s r l)) := by
  rw [exec, execGrantInterval, if_neg (by simp [h])]
  rfl

theorem grantsGiven_frame : ∃ toks, grantsGiven s r l = { s with pw := { s.pw with toks := toks, reserve := reserveFor r } } := by
  obtain ⟨hfrom, _⟩ := giveReturned_spec (upDies (granted s r l)) (setPw (granted s r l) fun p => { p with reserve := reserveFor r }) (returned s r l)
  obtain ⟨toks, hg⟩ := granted_tokFrom s r l
  obtain ⟨toks', h⟩ := hfrom
  rw [grantsGiven, h, hg]
  exact ⟨toks', rfl⟩

theorem rePool_pool (s : State) : (rePool s).pw.pool = s.pw.cap - heldSum (rePool s) := rfl

/-- The grant interval's own words: the reserve and the pool; the rest of the module stays. -/
theorem grantsGiven_words : (rePool (grantsGiven s r l)).pw.reserve = reserveFor r ∧ (rePool (grantsGiven s r l)).pw.cap = s.pw.cap ∧
    (rePool (grantsGiven s r l)).pw.pool = s.pw.cap - heldSum (rePool (grantsGiven s r l)) ∧ (rePool (grantsGiven s r l)).dies = s.dies ∧
    (rePool (grantsGiven s r l)).tiles = s.tiles ∧ (rePool (grantsGiven s r l)).mem = s.mem := by
  have hpool := rePool_pool (grantsGiven s r l)
  obtain ⟨toks, hframe⟩ := grantsGiven_frame s r l
  generalize grantsGiven s r l = u at hframe hpool ⊢
  subst hframe
  exact ⟨rfl, rfl, hpool, rfl, rfl, rfl⟩

theorem grantsGiven_up {d : Nat} (hd : d < 8) (hup : dieUp s d = true) : 120 ≤ (tokOf (grantsGiven s r l) d).held ∧ (tokOf (grantsGiven s r l) d).held ≤ 310 := by
  obtain ⟨_, _, hle, _⟩ := giveReturned_spec (upDies (granted s r l)) (setPw (granted s r l) fun p => { p with reserve := reserveFor r }) (returned s r l)
  have hheld := granted_held s r l hd
  rw [if_pos hup] at hheld
  obtain ⟨hlo, hhi⟩ := keptGrant_bounds (tokOf s d) (l.getD d 0) (shareOf_bounds s r).1
  have hshare := (shareOf_bounds s r).2
  obtain ⟨hge, hmax⟩ := hle d (by change (tokOf (granted s r l) d).held ≤ 310; omega)
  change (tokOf (granted s r l) d).held ≤ _ at hge
  exact ⟨by rw [grantsGiven]; omega, hmax⟩

theorem grantsGiven_down {d : Nat} (hd : d < 8) (hdown : dieUp s d = false) : (tokOf (grantsGiven s r l) d).held = 0 := by
  obtain ⟨_, hout, _, _⟩ := giveReturned_spec (upDies (granted s r l)) (setPw (granted s r l) fun p => { p with reserve := reserveFor r }) (returned s r l)
  have hheld := granted_held s r l hd
  rw [if_neg (by simp [hdown])] at hheld
  have hnot : d ∉ upDies (granted s r l) := fun h => by
    have := (mem_upDies.1 h).2
    rw [(granted_tokFrom s r l).dieUp_eq, hdown] at this
    exact absurd this (by decide)
  rw [grantsGiven, hout d hnot]
  exact hheld

/-- Where no die stack returns any, each keeps its equal share. -/
theorem grantsGiven_equal {d : Nat} (hd : d < 8) (hup : dieUp s d = true) : (tokOf (grantsGiven s r []) d).held = shareOf s r := by
  obtain ⟨_, _, _, hzero⟩ := giveReturned_spec (upDies (granted s r [])) (setPw (granted s r []) fun p => { p with reserve := reserveFor r }) (returned s r [])
  have hheld := granted_held s r [] hd
  rw [if_pos hup] at hheld
  have hnone : returned s r [] = 0 := foldl_add_zero fun n hn => by
    obtain ⟨e, _, rfl⟩ := List.mem_map.1 hn
    rw [List.getD_nil, keptGrant_noSlack, Nat.sub_self]
  rw [grantsGiven, hzero hnone]
  exact hheld.trans (keptGrant_noSlack _ _)

end

/-! ### Draw samples (R504) -/

section
variable (t : Tok)

theorem thrUp_thr : (thrUp t).thr.toNat = min 15 (t.thr.toNat + 1) := by
  unfold thrUp
  split
  · next h => rw [h]; rfl
  · next h => bv_omega

theorem thrDown_thr : (thrDown t).thr.toNat = t.thr.toNat - 1 := by
  unfold thrDown
  split
  · next h => rw [h]; rfl
  · next h => bv_omega

theorem thrUp_rest : thrUp t = { t with thr := (thrUp t).thr } := by
  unfold thrUp
  split <;> rfl

theorem thrDown_rest : thrDown t = { t with thr := (thrDown t).thr } := by
  unfold thrDown
  split <;> rfl

theorem sampled_up {w : BitVec 9} (h : allowance t < w.toNat ∨ 95 ≤ t.tj.toNat) : sampled_ t w = thrUp { t with draw := w } := if_pos h

theorem sampled_down {w : BitVec 9} (htj : t.tj.toNat < 95) (h : w.toNat + 10 ≤ allowance t) : sampled_ t w = thrDown { t with draw := w } := by
  have hno : ¬ (allowance t < w.toNat ∨ 95 ≤ t.tj.toNat) := by omega
  exact (if_neg hno).trans (if_pos h)

theorem sampled_same {w : BitVec 9} (htj : t.tj.toNat < 95) (hle : w.toNat ≤ allowance t) (h : allowance t < w.toNat + 10) :
    sampled_ t w = { t with draw := w } := by
  have hno : ¬ (allowance t < w.toNat ∨ 95 ≤ t.tj.toNat) := by omega
  exact (if_neg hno).trans (if_neg (Nat.not_le.2 h))

theorem sampled_rest (w : BitVec 9) : sampled_ t w = { t with draw := w, thr := (sampled_ t w).thr } := by
  unfold sampled_
  dsimp only
  split
  · exact thrUp_rest _
  · split
    · exact thrDown_rest _
    · rfl

end

theorem drawSample_samples {s : State} {d : Die} {w : BitVec 9} (hup : dieUp s d.val = true) :
    exec (.drawSample d w) s = .next (updTok s d.val fun t => sampled_ t w) := if_pos hup

/-! ### Loans (R505, R506) -/

theorem sum_map_bump {l : List Nat} (hl : l.Nodup) {f g : Nat → Nat} {e n : Nat} (he : e ∈ l) (hg : g e = f e + n) (hne : ∀ x, x ≠ e → g x = f x) :
    (l.map g).sum = (l.map f).sum + n := by
  induction l with
  | nil => exact absurd he List.not_mem_nil
  | cons k l ih =>
    obtain ⟨hk, hl⟩ := List.nodup_cons.1 hl
    rw [List.map_cons, List.map_cons, List.sum_cons, List.sum_cons]
    rcases List.mem_cons.1 he with rfl | he
    · have hrest : l.map g = l.map f := List.map_congr_left fun x hx => hne x fun h => hk (h ▸ hx)
      rw [hrest, hg]
      omega
    · rw [ih hl he, hne k fun h => hk (h ▸ he)]
      omega

/-- The whole share of the `i`-th of `k` borrowers, the first ones taking the remainder. -/
def loanShare (amount k i : Nat) : Nat := amount / k + b2n (i < amount % k)

theorem sum_remainder (m n : Nat) (h : m ≤ n) : ((List.range n).map fun i => b2n (i < m)).sum = m := by
  induction n with
  | zero => simp; omega
  | succ n ih =>
    rw [List.range_succ, List.map_append, List.sum_append]
    by_cases hm : m ≤ n
    · rw [ih hm]
      simp [b2n, Nat.not_lt.2 hm]
    · obtain rfl : m = n + 1 := by omega
      have hall : ((List.range n).map fun i => b2n (i < n + 1)) = (List.range n).map fun _ => 1 :=
        List.map_congr_left fun i hi => by simp [b2n, Nat.lt_succ_of_lt (List.mem_range.1 hi)]
      rw [hall]
      simp [b2n]

/-- The shares of all borrowers are the whole loan. -/
theorem sum_loanShare {amount k : Nat} (hk : 0 < k) : ((List.range k).map (loanShare amount k)).sum = amount := by
  have hsplit : ((List.range k).map (loanShare amount k)).sum = k * (amount / k) + ((List.range k).map fun i => b2n (i < amount % k)).sum := by
    unfold loanShare
    rw [List.sum_map_add]
    simp
  rw [hsplit, sum_remainder _ _ (Nat.mod_lt _ hk).le, Nat.div_add_mod]

/-- Tokens borrowed by the eight die stacks together. -/
def borrowedSum (s : State) : Nat := ((List.range 8).map fun e => (tokOf s e).borrowed).sum

/-- One borrower takes `n` tokens of lender `d`. -/
def borrowFrom (d n : Nat) (t : Tok) : Tok := { t with borrowed := t.borrowed + n, from_ := t.from_ ++ [(d, n)] }

/-- The borrowers of a list, numbered from `i`, take the shares `sh`. -/
theorem lend_fold (d : Nat) (sh : Nat → Nat) (l : List Nat) (hl8 : ∀ e ∈ l, e < 8) (i : Nat) (s : State) :
    let u := (l.zipIdx i).foldl (fun s x => updTok s x.1 (borrowFrom d (sh x.2))) s
    TokFrom s u ∧ (∀ e, e ∉ l → tokOf u e = tokOf s e) ∧ borrowedSum u = borrowedSum s + ((List.range l.length).map fun k => sh (i + k)).sum := by
  induction l generalizing i s with
  | nil => exact ⟨.refl s, fun _ _ => rfl, rfl⟩
  | cons k l ih =>
    obtain ⟨hk8, hl8⟩ := List.forall_mem_cons.1 hl8
    obtain ⟨hfrom, hout, hsum⟩ := ih hl8 (i + 1) (updTok s k (borrowFrom d (sh i)))
    have hne {e : Nat} (h : e ≠ k) : tokOf (updTok s k (borrowFrom d (sh i))) e = tokOf s e := tokOf_updTok_ne s _ h
    have hone : borrowedSum (updTok s k (borrowFrom d (sh i))) = borrowedSum s + sh i :=
      sum_map_bump List.nodup_range (List.mem_range.2 hk8) (by rw [tokOf_updTok]; rfl) fun e he => by rw [hne he]
    refine ⟨(tokFrom_updTok s k _).trans hfrom, fun e he => ?_, ?_⟩
    · obtain ⟨hek, hel⟩ := not_or.1 (mt List.mem_cons.2 he)
      exact (hout e hel).trans (hne hek)
    · rw [List.length_cons, List.range_succ_eq_map, List.map_cons, List.map_map, List.sum_cons]
      refine hsum.trans ?_
      rw [hone, Nat.add_assoc]
      refine congrArg (fun n => borrowedSum s + (sh i + n)) (congrArg List.sum (List.map_congr_left fun j _ => ?_))
      exact congrArg sh (by omega)

theorem lendTo_spec (s : State) (d amount : Nat) {bs : List Nat} (h8 : ∀ e ∈ bs, e < 8) (hne : bs ≠ []) :
    TokFrom s (lendTo s d amount bs) ∧ (∀ e, e ∉ bs → tokOf (lendTo s d amount bs) e = tokOf s e) ∧
    borrowedSum (lendTo s d amount bs) = borrowedSum s + amount := by
  obtain ⟨hfrom, hout, hsum⟩ := lend_fold d (loanShare amount bs.length) bs h8 0 s
  refine ⟨hfrom, hout, hsum.trans ?_⟩
  have hall := sum_loanShare (amount := amount) (List.length_pos_iff.2 hne)
  simp only [Nat.zero_add]
  rw [hall]

theorem throttled_lt {s : State} {d e : Nat} (h : e ∈ throttled s d) : e < 8 := (mem_upDies.1 (List.mem_filter.1 h).1).1

theorem notMem_throttled_self (s : State) (d : Nat) : d ∉ throttled s d := fun h => by
  have := (List.mem_filter.1 h).2
  simp at this

/-- A loan in the module's counts. -/
def loanCounted (s : State) : State := rePool (setPw s fun p => { p with loans := satInc p.loans 1 })

theorem tokOf_loanCounted (s : State) (d : Nat) : tokOf (loanCounted s) d = tokOf s d := rfl

theorem borrowedSum_loanCounted (s : State) : borrowedSum (loanCounted s) = borrowedSum s := rfl

section
variable {s : State} {d : Die} {us : Nat}

/-- The module whose die stack `d` has lent what it holds beyond 120 tokens. -/
def loanMade (s : State) (d : Nat) : State :=
  lendTo (updTok s d fun t => { t with lent := t.held - 120 }) d ((tokOf s d).held - 120) (throttled s d)

theorem loan_lends (hb : borrowing s = true) (hup : dieUp s d.val = true) (hstall : allStalled s d.val = true) (hus : 50 ≤ us)
    (hlent : (tokOf s d.val).lent = 0) (hheld : 120 < (tokOf s d.val).held) (hthr : throttled s d.val ≠ []) :
    exec (.loan d us) s = .next (loanCounted (loanMade s d.val)) :=
  if_pos (by simp [hb, hup, hstall, hus, hlent, hheld, hthr])

theorem loan_refused (h : borrowing s = false ∨ allStalled s d.val = false ∨ us < 50 ∨ throttled s d.val = []) : exec (.loan d us) s = .next s := by
  refine if_neg fun hall => ?_
  simp only [Bool.and_eq_true, decide_eq_true_eq, Bool.not_eq_true', List.isEmpty_eq_false_iff] at hall
  obtain ⟨⟨⟨⟨⟨⟨hb, _⟩, hstall⟩, hus⟩, _⟩, _⟩, hthr⟩ := hall
  rcases h with h | h | h | h
  · exact absurd (h.symm.trans hb) (by decide)
  · exact absurd (h.symm.trans hstall) (by decide)
  · omega
  · exact hthr h

theorem loanMade_spec (hthr : throttled s d.val ≠ []) : TokFrom s (loanMade s d.val) ∧ (tokOf (loanMade s d.val) d.val).lent = (tokOf s d.val).held - 120 ∧
    (tokOf (loanMade s d.val) d.val).held = (tokOf s d.val).held ∧ borrowedSum (loanMade s d.val) = borrowedSum s + ((tokOf s d.val).held - 120) ∧
    (∀ e, e ∉ throttled s d.val → e ≠ d.val → tokOf (loanMade s d.val) e = tokOf s e) := by
  obtain ⟨hfrom, hout, hsum⟩ := lendTo_spec (updTok s d.val fun t => { t with lent := t.held - 120 }) d.val ((tokOf s d.val).held - 120)
    (fun e he => throttled_lt he) hthr
  have hself : tokOf (loanMade s d.val) d.val = { tokOf s d.val with lent := (tokOf s d.val).held - 120 } :=
    (hout _ (notMem_throttled_self s d.val)).trans (tokOf_updTok s d.val _)
  have hsame : borrowedSum (updTok s d.val fun t => { t with lent := t.held - 120 }) = borrowedSum s :=
    congrArg List.sum (List.map_congr_left fun e _ => by
      by_cases he : e = d.val
      · rw [he, tokOf_updTok]
      · rw [tokOf_updTok_ne s _ he])
  exact ⟨(tokFrom_updTok s d.val _).trans hfrom, by rw [hself], by rw [hself], hsum.trans (by rw [hsame]),
    fun e he hed => (hout e he).trans (tokOf_updTok_ne s _ hed)⟩

end

theorem recallLoan_lent (s : State) (d : Nat) : (tokOf (recallLoan s d) d).lent = 0 := by
  unfold recallLoan
  split
  · next h => exact h
  · rw [tokOf_rePool, tokOf_updTok]

/-- Settles O49: a grant interval keeps every stack within its bounds, a sample moves THR by a step, a loan hands out what it lends, a recall ends it. -/
theorem tokensAreGrantedAndLent : Obligations.TokensAreGrantedAndLent := by
  unfold Obligations.TokensAreGrantedAndLent
  refine ⟨fun s r l hs => ?_, fun s r l hs => if_pos hs, fun s d w hup => ?_, fun s d us hb hup hstall hus hlent hheld hthr => ?_,
    fun s d us => loan_refused, fun s d => rfl, recallLoan_lent⟩
  · obtain ⟨hrsv, hcap, hpool, hdies, htiles, hmem⟩ := grantsGiven_words s r l
    have hreserve := clampTo_bounds (lo := 160) (hi := 720) (by decide) (ceilDiv (r * 105) 100)
    refine ⟨_, grantInterval_grants r l hs, hrsv, hrsv ▸ hreserve.1, hrsv ▸ hreserve.2, fun d => ?_, fun d => ?_, ?_, hcap, hpool, hdies, htiles, hmem⟩
    · rw [tokOf_rePool]
      exact grantsGiven_up s r l
    · rw [tokOf_rePool]
      exact grantsGiven_down s r l
    · rintro rfl d hd hup
      rw [tokOf_rePool]
      exact grantsGiven_equal s r hd hup
  · refine ⟨_, drawSample_samples hup, ?_, ?_, fun h => ?_, fun htj h => ?_, fun htj hle h => ?_, fun e he => tokOf_updTok_ne s _ he, rfl, rfl, rfl⟩
    all_goals rw [tokOf_updTok]
    · rw [sampled_rest]
    · rw [sampled_rest]
    · rw [sampled_up _ h, thrUp_thr]
    · rw [sampled_down _ htj h, thrDown_thr]
    · rw [sampled_same _ htj hle h]
  · obtain ⟨⟨toks, hfrom⟩, hlent', hheld', hsum, hother⟩ := loanMade_spec (s := s) (d := d) hthr
    refine ⟨_, loan_lends hb hup hstall hus hlent hheld hthr, ?_, ?_, (borrowedSum_loanCounted _).trans hsum, ?_, fun e he hne => ?_, ?_, ?_⟩
    · rw [tokOf_loanCounted, hlent']
    · rw [tokOf_loanCounted, hheld']
    · rw [hfrom]; rfl
    · rw [tokOf_loanCounted, hother e he hne]
    · rw [hfrom]; rfl
    · rw [hfrom]; rfl

end Sys2Proof.Machine
end

section
/-!
PROOFS. CCLK steps, junction and coolant thresholds, the root PLL and PERST# (O50). That one step in all is taken when power and a temperature call
in one interval, that a critical lowering is deferred in reproducible mode, and that the loss of the lock has source 6 are the model's choices
(assumption log 179, 62, 117).
-/

namespace Sys2Proof.Machine

section
variable {s : State} {d : Die}

/-! ### CCLK steps (R507, R508) -/

theorem stepTo_pw {n : Nat} (hpin : s.pw.pinned = false) : (stepTo s n).pw = { s.pw with step := n, stepDn := satInc s.pw.stepDn 1 } := by
  rw [stepTo, fire_pw]
  simp [setPw, hpin]

theorem stepTo_mem (n : Nat) : (stepTo s n).mem = s.mem := by rw [stepTo, fire_mem]; rfl

theorem stepTo_tiles (n : Nat) : (stepTo s n).tiles = s.tiles := by rw [stepTo, fire_tiles]; rfl

theorem lower_steps {n : Nat} (hrepro : s.pw.repro = false) (hn : s.pw.step < n) : lower s n = stepTo s n := by
  rw [lower, if_neg (by omega), if_neg (by simp [hrepro])]

/-- A lowering to the step in force, or a faster one, does nothing. -/
theorem lower_same {n : Nat} (hn : n ≤ s.pw.step) : lower s n = s := if_pos hn

/-- In reproducible mode a lowering waits for the pass boundary. -/
theorem lower_waits {n : Nat} (hrepro : s.pw.repro = true) (hn : s.pw.step < n) :
    lower s n = setPw s fun p => { p with lowerPend := some (max n (p.lowerPend.getD 0)) } := by
  rw [lower, if_neg (by omega), if_pos hrepro]

theorem lower_mem (n : Nat) : (lower s n).mem = s.mem := by
  unfold lower
  split
  · rfl
  · split
    · rfl
    · exact stepTo_mem n

/-- Outside a pinned module a thermal lowering is a lowering. -/
theorem lowerHot_unpinned {n : Nat} (hpin : s.pw.pinned = false) : lowerHot s n = lower s n := by
  rw [lowerHot, if_neg (by simp [hpin])]

theorem lowerHot_pw (n : Nat) : (lowerHot s n).pw = (lower s n).pw := by
  unfold lowerHot
  dsimp only
  split
  · exact fire_pw _ _
  · rfl

theorem lowerHot_mem (n : Nat) : (lowerHot s n).mem = s.mem := by
  unfold lowerHot
  dsimp only
  split
  · rw [fire_mem, lower_mem]
  · exact lower_mem n

theorem lowerStep_once {hot : Bool} (f : State → Nat → State) (hboth : bothCall s hot = false) :
    lowerStep s hot f = setPw (f s (min 3 (s.pw.step + 1))) fun p => { p with downFor := some (hot, now s) } := by
  rw [lowerStep, if_neg (by simp [hboth])]

theorem bothCall_of_downFor {t : State} {hot : Bool} (h : t.pw.downFor = s.pw.downFor) (hnow : now t = now s) : bothCall t hot = bothCall s hot := by
  rw [bothCall, h, hnow, bothCall]

theorem capLim_pw (s : State) : (capLim s).pw = { s.pw with capLim := true } := fire_pw _ _

theorem thermLim_pw (s : State) : (thermLim s).pw = { s.pw with thermLim := true } := fire_pw _ _

theorem thermLim_mem (s : State) : (thermLim s).mem = s.mem := fire_mem _ _

theorem now_capLim (s : State) : now (capLim s) = now s := by rw [now, capLim, fire_bcn, now]; rfl

theorem now_thermLim (s : State) : now (thermLim s) = now s := by rw [now, thermLim, fire_bcn, now]; rfl

theorem cclkStepDown_steps (hup : dieUp s d.val = true) (hthr : 8 ≤ (tokOf s d.val).thr.toNat) (hpin : s.pw.pinned = false) (hrepro : s.pw.repro = false)
    (hstep : s.pw.step < 3) (hboth : bothCall s false = false) : exec (.cclkStepDown d) s =
      .next (setPw (stepTo (capLim s) (s.pw.step + 1)) fun p => { p with downFor := some (false, now s) }) := by
  have hcap := capLim_pw s
  have honce := lowerStep_once (s := capLim s) lower ((bothCall_of_downFor (by rw [hcap]) (now_capLim s)).trans hboth)
  have hnext : min 3 ((capLim s).pw.step + 1) = s.pw.step + 1 := by rw [hcap]; exact Nat.min_eq_right hstep
  rw [exec, execCclkStepDown, if_neg (by simp [hup, hthr]), if_neg (by simp [hpin]), honce, hnext, now_capLim,
    lower_steps (by rw [hcap]; exact hrepro) (by rw [hcap]; exact Nat.lt_succ_self _)]

theorem cclkStepDown_pw (hpin : s.pw.pinned = false) (n : Nat) (x : Option (Bool × W64)) :
    (setPw (stepTo (capLim s) n) fun p => { p with downFor := x }).pw =
      { s.pw with capLim := true, step := n, stepDn := satInc s.pw.stepDn 1, downFor := x } := by
  have hcap := capLim_pw s
  rw [setPw, stepTo_pw (by rw [hcap]; exact hpin), hcap]

theorem cclkStepDown_pends (n : Nat) (f : Power → Power) : ((setPw (stepTo (capLim s) n) f).evr.srcs.get 696).pend = true ∧
    ((setPw (stepTo (capLim s) n) f).evr.srcs.get 702).pend = true :=
  ⟨fire_pend_mono 702 (fire_pend (n := 696) (by decide) _), fire_pend (n := 702) (by decide) _⟩

theorem cclkStepDown_rest (n : Nat) (f : Power → Power) : (setPw (stepTo (capLim s) n) f).mem = s.mem ∧ (setPw (stepTo (capLim s) n) f).tiles = s.tiles :=
  ⟨(stepTo_mem (s := capLim s) n).trans (fire_mem _ 696), (stepTo_tiles (s := capLim s) n).trans (fire_tiles _ 696)⟩

theorem cclkStepDown_cool (hthr : (tokOf s d.val).thr.toNat < 8) : exec (.cclkStepDown d) s = .next s := if_pos (by simp [hthr])

theorem cclkStepUp_steps (hpin : s.pw.pinned = false) (hstep : 0 < s.pw.step) (hfits : fitsFaster s = true) :
    exec .cclkStepUp s = .next (fire { s with pw := { s.pw with step := s.pw.step - 1, downFor := none } } 702) :=
  if_pos (by simp [hpin, hstep, hfits])

theorem cclkStepUp_stays (h : s.pw.pinned = true ∨ s.pw.step = 0 ∨ fitsFaster s = false) : exec .cclkStepUp s = .next s := by
  refine if_neg fun hall => ?_
  simp only [Bool.and_eq_true, Bool.not_eq_true', decide_eq_true_eq] at hall
  obtain ⟨⟨hpin, hstep⟩, hfits⟩ := hall
  rcases h with h | h | h
  · exact absurd (h.symm.trans hpin) (by decide)
  · omega
  · exact absurd (h.symm.trans hfits) (by decide)

/-! ### Temperatures (R509) -/

/-- The module whose die stack `d` has reported a hot junction. -/
def junctionHeated (s : State) (d : Nat) (t : BitVec 8) : State := thermLim (updTok (setTj s d t) d thrUp)

theorem junctionHot_raises {t : BitVec 8} (ht : 95 ≤ t.toNat) : exec (.junctionHot d t) s = .next (junctionHeated s d.val t) := if_pos ht

theorem tokOf_junctionHeated (d : Nat) (t : BitVec 8) : tokOf (junctionHeated s d t) d = thrUp { tokOf s d with tj := t } := by
  rw [tokOf, junctionHeated, thermLim_pw]
  exact (tokOf_updTok _ _ _).trans (congrArg thrUp (tokOf_updTok _ _ _))

theorem junctionHeated_eq (d : Nat) (t : BitVec 8) : (junctionHeated s d t).pw.thermLim = true ∧ ((junctionHeated s d t).evr.srcs.get 697).pend = true ∧
    (junctionHeated s d t).pw.step = s.pw.step ∧ (junctionHeated s d t).mem = s.mem := by
  have hpend := fire_pend (n := 697) (by decide) (setPw (updTok (setTj s d t) d thrUp) fun p => { p with thermLim := true })
  rw [junctionHeated, thermLim_pw, thermLim_mem]
  exact ⟨rfl, hpend, rfl, rfl⟩

theorem junctionHotHold_both (hhot : 95 ≤ (tokOf s d.val).tj.toNat) (hboth : bothCall s true = true) :
    exec (.junctionHotHold d) s = .next (setPw (thermLim s) fun p => { p with downFor := none }) := by
  have htherm := (bothCall_of_downFor (hot := true) (by rw [thermLim_pw]) (now_thermLim s)).trans hboth
  rw [exec, execJunctionHotHold, if_pos hhot, lowerStep, if_pos htherm]

theorem junctionHotHold_steps (hhot : 95 ≤ (tokOf s d.val).tj.toNat) (hrepro : s.pw.repro = false) (hpin : s.pw.pinned = false) (hstep : s.pw.step < 3)
    (hboth : bothCall s true = false) : exec (.junctionHotHold d) s =
      .next (setPw (stepTo (thermLim s) (s.pw.step + 1)) fun p => { p with downFor := some (true, now s) }) := by
  have htherm := thermLim_pw s
  have honce := lowerStep_once (s := thermLim s) lowerHot ((bothCall_of_downFor (by rw [htherm]) (now_thermLim s)).trans hboth)
  have hnext : min 3 ((thermLim s).pw.step + 1) = s.pw.step + 1 := by rw [htherm]; exact Nat.min_eq_right hstep
  rw [exec, execJunctionHotHold, if_pos hhot, honce, hnext, now_thermLim, lowerHot_unpinned (by rw [htherm]; exact hpin),
    lower_steps (by rw [htherm]; exact hrepro) (by rw [htherm]; exact Nat.lt_succ_self _)]

theorem junctionHotHold_pw (hpin : s.pw.pinned = false) (n : Nat) (x : Option (Bool × W64)) :
    (setPw (stepTo (thermLim s) n) fun p => { p with downFor := x }).pw =
      { s.pw with thermLim := true, step := n, stepDn := satInc s.pw.stepDn 1, downFor := x } := by
  have htherm := thermLim_pw s
  rw [setPw, stepTo_pw (by rw [htherm]; exact hpin), htherm]

theorem junctionCritical_lowers {t : BitVec 8} (ht : 100 ≤ t.toNat) :
    exec (.junctionCritical d t) s = .next (lowerHot (thermLim (setTj s d.val t)) 3) := if_pos ht

/-- A critical junction leads to step 3 at once, or at the pass boundary in reproducible mode. -/
theorem lower_three (s : State) : (lower s 3).pw.thermLim = s.pw.thermLim ∧ (lower s 3).pw.toks = s.pw.toks ∧
    (s.pw.repro = false → (lower s 3).pw.step = max 3 s.pw.step) ∧
    (s.pw.repro = true → (lower s 3).pw.step = s.pw.step ∧ (s.pw.step < 3 → ∃ n, (lower s 3).pw.lowerPend = some n ∧ 3 ≤ n)) := by
  by_cases hstep : s.pw.step < 3
  · cases hrepro : s.pw.repro with
    | true =>
      rw [lower_waits hrepro hstep]
      exact ⟨rfl, rfl, nofun, fun _ => ⟨rfl, fun _ => ⟨_, rfl, Nat.le_max_left _ _⟩⟩⟩
    | false =>
      rw [lower_steps hrepro hstep, stepTo, fire_pw]
      exact ⟨rfl, rfl, fun _ => (Nat.max_eq_left hstep.le).symm, nofun⟩
  · rw [lower_same (Nat.not_lt.1 hstep)]
    exact ⟨rfl, rfl, fun _ => (Nat.max_eq_right (Nat.not_lt.1 hstep)).symm, fun _ => ⟨rfl, fun h => absurd h hstep⟩⟩

theorem junctionCritical_spec (t : BitVec 8) : (lowerHot (thermLim (setTj s d.val t)) 3).mem = s.mem ∧
    (lowerHot (thermLim (setTj s d.val t)) 3).pw.thermLim = true ∧ (tokOf (lowerHot (thermLim (setTj s d.val t)) 3) d.val).tj = t ∧
    (s.pw.repro = false → (lowerHot (thermLim (setTj s d.val t)) 3).pw.step = max 3 s.pw.step) ∧
    (s.pw.repro = true → (lowerHot (thermLim (setTj s d.val t)) 3).pw.step = s.pw.step ∧
      (s.pw.step < 3 → ∃ n, (lowerHot (thermLim (setTj s d.val t)) 3).pw.lowerPend = some n ∧ 3 ≤ n)) := by
  obtain ⟨hlim, htoks, hnow, hlater⟩ := lower_three (thermLim (setTj s d.val t))
  have htherm := thermLim_pw (setTj s d.val t)
  rw [lowerHot_mem, thermLim_mem, tokOf, lowerHot_pw, hlim, htoks]
  rw [htherm] at hnow hlater ⊢
  exact ⟨rfl, rfl, congrArg Tok.tj (tokOf_updTok s d.val fun x => { x with tj := t }), hnow, hlater⟩

/-- The module that knows a coolant inlet's temperature. -/
def inletNoted (s : State) (t : BitVec 12) : State := reCap (setPw s fun p => { p with coolIn := t })

/-- The module that warns of a warm inlet. -/
def inletWarned (s : State) (t : BitVec 12) : State := fire (setPw (inletNoted s t) fun p => { p with coolWarn := true }) 699

theorem coolantInletHigh_warns {t : BitVec 12} (ht : 400 < t.toNat) : exec (.coolantInletHigh t) s = .next (inletWarned s t) := if_pos ht

theorem coolantInletHigh_cool {t : BitVec 12} (ht : t.toNat ≤ 400) : exec (.coolantInletHigh t) s = .next (inletNoted s t) := if_neg (Nat.not_lt.2 ht)

theorem capInForce_warm {p : Power} (h : 400 < p.coolIn.toNat) : capInForce p = max 1200 (p.policyCap - 100 * ((p.coolIn.toNat - 400) / 10)) := if_pos h

theorem capInForce_cool {p : Power} (h : p.coolIn.toNat ≤ 400) : capInForce p = p.policyCap := if_neg (Nat.not_lt.2 h)

theorem inletWarned_eq {t : BitVec 12} (ht : 400 < t.toNat) : (inletWarned s t).pw.coolIn = t ∧ (inletWarned s t).pw.coolWarn = true ∧
    (inletWarned s t).pw.cap = max 1200 (s.pw.policyCap - 100 * ((t.toNat - 400) / 10)) ∧ ((inletWarned s t).evr.srcs.get 699).pend = true ∧
    (inletWarned s t).mem = s.mem := by
  have hcap : (inletNoted s t).pw.cap = max 1200 (s.pw.policyCap - 100 * ((t.toNat - 400) / 10)) := capInForce_warm ht
  refine ⟨?_, ?_, ?_, fire_pend (n := 699) (by decide) _, fire_mem _ _⟩
  all_goals rw [inletWarned, fire_pw]
  · rfl
  · rfl
  · exact hcap

/-! ### The root PLL (R510) and PERST# (R570) -/

/-- The module that holds itself in cold reset. -/
def lockLost (s : State) : State := { s with pins := { s.pins with pllHold := true }, pw := { s.pw with lock := false } }

/-- A module without engines' state has no write that its cold reset could cut. -/
theorem coldBegun_eq (src f : Nat) (hengines : s.engines = []) : coldBegun s src f = noteReset s 4 src f := by
  rw [coldBegun, hengines, List.map_nil, List.foldl_nil]

theorem resetLevel4_held {src f : Nat} (hhold : s.pins.pllHold = true) (hengines : s.engines = []) :
    resetLevel4 s src f false = coldReady s src f := by
  have hpins : (coldReady s src f).pins.pllHold = true := by rw [coldReady, coldBegun_eq src f hengines]; exact hhold
  exact if_pos hpins

theorem pllLockLoss_holds (hpower : s.pins.hotSwap = true) (hhold : s.pins.pllHold = false) (hengines : s.engines = []) :
    exec .pllLockLoss s = .next (coldReady (lockLost s) 6 0) := by
  rw [exec, execPllLockLoss, if_neg (by simp [powered, hpower, hhold])]
  exact congrArg Host.Outcome.next (resetLevel4_held (s := lockLost s) rfl hengines)

theorem coldReady_lockLost (hengines : s.engines = []) : (coldReady (lockLost s) 6 0).pins.pllHold = true ∧ (coldReady (lockLost s) 6 0).pw.lock = false ∧
    (coldReady (lockLost s) 6 0).out = s.out ∧ (coldReady (lockLost s) 6 0).mem = { host := s.mem.host } := by
  rw [coldReady, coldBegun_eq (s := lockLost s) 6 0 hengines]
  exact ⟨rfl, rfl, rfl, rfl⟩

theorem pllRelock_starts (hpower : s.pins.hotSwap = true) (hhold : s.pins.pllHold = true) (hfaults : s.flt.bootFaults < 3)
    (hcommitted : s.boot.committed = true) (himage : s.boot.image = []) :
    exec .pllRelock s = .next (imageStarted { s with pins := { s.pins with pllHold := false }, pw := { s.pw with lock := true } }) := by
  rw [exec, execPllRelock, if_neg (by simp [powered, hpower, hhold]), romStage_starts (by exact hfaults) (by exact hcommitted) (by exact himage)]
  rfl

theorem perstAssert_resets (hpower : s.pins.hotSwap = true) (hold : s.pins.perst = false) (hseen : s.pins.perstSeen = true) (halert : s.pins.alert = false)
    (hfree : resetRefused s 4 = false) :
    exec .perstAssert s = .next (resetLevel4 { s with pins := { s.pins with perst := true } } 1 0 true) :=
  if_neg (by simp [powered, hpower, hold, hseen, halert, hfree])

theorem perstAssert_pin (h : s.pins.perst = true ∨ s.pins.perstSeen = false ∨ s.pins.alert = true) :
    exec .perstAssert s = .next { s with pins := { s.pins with perst := true } } :=
  if_pos (by rcases h with h | h | h <;> simp [h])

end

/-- Settles O50: CCLK's steps, the thresholds of junctions and of the coolant, the root PLL's lock, and PERST#. -/
theorem clockStepsAndThermalLimits : Obligations.ClockStepsAndThermalLimits := by
  unfold Obligations.ClockStepsAndThermalLimits
  refine ⟨fun s d hup hthr hpin hrepro hstep hboth => ?_, fun s d => cclkStepDown_cool, fun s => cclkStepUp_steps, fun s => cclkStepUp_stays,
    fun s d t ht => ?_, fun s d hhot hrepro hpin hstep hboth => ?_, fun s d hhot hboth => ?_, fun s d t ht hrepro => ?_, fun s d t ht hrepro => ?_,
    fun s t ht => ?_, fun s t ht => ?_, fun s hpower hhold hengines => ?_, fun s hpower hhold hfaults hcommitted himage => ?_,
    fun s => perstAssert_resets, fun s => perstAssert_pin, fun s => rfl⟩
  · obtain ⟨hsrc696, hsrc702⟩ := cclkStepDown_pends (s := s) (s.pw.step + 1) fun p => { p with downFor := some (false, now s) }
    exact ⟨_, cclkStepDown_steps hup hthr hpin hrepro hstep hboth, cclkStepDown_pw hpin _ _, hsrc696, hsrc702, cclkStepDown_rest _ _⟩
  · obtain ⟨hlim, hpend, hstep, hmem⟩ := junctionHeated_eq (s := s) d.val t
    refine ⟨_, junctionHot_raises ht, hlim, ?_, ?_, hpend, hstep, hmem⟩
    · rw [tokOf_junctionHeated, thrUp_rest]
    · rw [tokOf_junctionHeated, thrUp_thr]
  · exact ⟨_, junctionHotHold_steps hhot hrepro hpin hstep hboth, junctionHotHold_pw hpin _ _, (stepTo_mem (s := thermLim s) (s.pw.step + 1)).trans (thermLim_mem s)⟩
  · exact ⟨_, junctionHotHold_both hhot hboth, by rw [setPw, thermLim_pw], thermLim_mem s⟩
  · obtain ⟨hmem, hlim, htj, hnow, _⟩ := junctionCritical_spec (s := s) (d := d) t
    exact ⟨_, junctionCritical_lowers ht, hnow hrepro, hlim, htj, hmem⟩
  · obtain ⟨_, hlim, _, _, hlater⟩ := junctionCritical_spec (s := s) (d := d) t
    obtain ⟨hstep, hpend⟩ := hlater hrepro
    exact ⟨_, junctionCritical_lowers ht, hstep, hlim, hpend⟩
  · exact ⟨_, coolantInletHigh_warns ht, inletWarned_eq ht⟩
  · exact ⟨_, coolantInletHigh_cool ht, capInForce_cool ht, rfl⟩
  · obtain ⟨hheld, hlock, hout, hmem⟩ := coldReady_lockLost hengines
    obtain ⟨hjobs, hready, _, _, _⟩ := coldReady_clears (lockLost s) 6 0
    obtain ⟨hlevel, hsource, _, hlocal, _, _⟩ := coldReady_keeps (lockLost s) 6 0
    exact ⟨_, pllLockLoss_holds hpower hhold hengines, hheld, hlock, hlevel, hsource, hready, hjobs, hlocal, hout, hmem⟩
  · exact ⟨_, pllRelock_starts hpower hhold hfaults hcommitted himage, rfl, rfl, rfl, rfl⟩

end Sys2Proof.Machine
end

section
/-!
PROOFS. The management port in service and the I3C target (O57). That the I3C target answers transfers only with an address, and that a read
leaves its index, are the model's choices (assumption log 127).
-/

namespace Sys2Proof.Machine

/-- An index of eight status words takes eight bytes for each die. -/
theorem length_flatMap_words (f : Nat → Nat) (l : List Nat) : (l.flatMap fun d => leBytes 8 (f d)).length = l.length * 8 := by
  induction l with
  | nil => rfl
  | cons d l ih => rw [List.flatMap_cons, List.length_append, ih, length_leBytes, List.length_cons, Nat.succ_mul, Nat.add_comm]

theorem length_telemetryIndex (s : State) : (telemetryIndex s).length = 104 := by
  simp only [telemetryIndex, List.length_append, length_leBytes, length_flatMap_words, List.length_range]

section
variable {s : State}

/-- A port without an address answers nothing. -/
theorem mgmtOn_noAddress (h : s.pins.ip = 0) : mgmtOn s = false := by simp [mgmtOn, h]

/-- What an answering request does: it takes effect where the port has an address and the module is in service. -/
theorem answers_on {t : State} (hon : mgmtOn s = true) (hin : inService s = true) :
    (if mgmtOn s && inService s then Host.Outcome.next t else .next s : Ans) = .next t := if_pos (by rw [hon, hin]; rfl)

theorem answers_off {t : State} (hon : mgmtOn s = false) : (if mgmtOn s && inService s then Host.Outcome.next t else .next s : Ans) = .next s :=
  if_neg (by simp [hon])

theorem udpTelemetryRequest_silent (b : Bytes) (hip : s.pins.ip = 0) : exec (.udpTelemetryRequest b) s = .next s := by
  match b with
  | [] => rfl
  | [_] => exact answers_off (mgmtOn_noAddress hip)
  | _ :: _ :: _ => rfl

/-- A datagram of another length than one byte is discarded. -/
theorem udpTelemetryRequest_length {b : Bytes} (h : b.length ≠ 1) : exec (.udpTelemetryRequest b) s = .next s := by
  match b with
  | [] => rfl
  | [_] => exact absurd rfl h
  | _ :: _ :: _ => rfl

theorem i3cPrivateWrite_length {b : Fin 2} {d : Bytes} (h : d.length ≠ 1) : exec (.i3cPrivateWrite b d) s = .next s := by
  match d with
  | [] => rfl
  | [_] => exact absurd rfl h
  | _ :: _ :: _ => rfl

theorem i3cOn_addressed {b : Nat} (hgood : s.pins.pwrgd = true) (haddr : s.pins.i3cAddr.get b ≠ 0) : i3cOn s b = true := by
  rw [i3cOn, hgood]
  exact decide_eq_true haddr

theorem i3cOn_off {b : Nat} (h : s.pins.pwrgd = false ∨ s.pins.i3cAddr.get b = 0) : i3cOn s b = false := by
  rcases h with h | h <;> simp [i3cOn, h]

theorem i3cPrivateWrite_silent {b : Fin 2} (d : Bytes) (hoff : i3cOn s b.val = false) : exec (.i3cPrivateWrite b d) s = .next s := by
  match d with
  | [] => rfl
  | [_] => exact gate_off _ _ hoff
  | _ :: _ :: _ => rfl

theorem dhcpLeaseTimeout_links (hup : mgmtUp s = true) (hip : s.pins.ip = 0) :
    exec .dhcpLeaseTimeout s = .next { s with pins := { s.pins with ip := Config.linkLocal } } := if_pos (by simp [hup, hip])

theorem dhcpLeaseTimeout_leased (hip : s.pins.ip ≠ 0) : exec .dhcpLeaseTimeout s = .next s :=
  if_neg fun h => hip (by simpa using (Bool.and_eq_true_iff.1 h).2)

end

/-- Settles O57: what the management port and the I3C target answer with an address, and that they answer nothing without one. -/
theorem managementPortsAnswer : Obligations.ManagementPortsAnswer := by
  unfold Obligations.ManagementPortsAnswer
  refine ⟨fun s b hon hin => ⟨answers_on hon hin, answers_on hon hin, fun i => answers_on hon hin⟩, fun s b hip => ?_,
    fun s b => udpTelemetryRequest_length, length_telemetryIndex, fun s a hup => if_pos hup, fun s => dhcpLeaseTimeout_links, fun s => dhcpLeaseTimeout_leased,
    fun s b a => gate_on _ _, fun s b i hgood haddr => gate_on _ _ (i3cOn_addressed hgood haddr), fun s b d => i3cPrivateWrite_length,
    fun s b n hgood haddr => gate_on _ _ (i3cOn_addressed hgood haddr), fun s b n d h => ⟨gate_off _ _ (i3cOn_off h), i3cPrivateWrite_silent d (i3cOn_off h)⟩⟩
  have hoff := mgmtOn_noAddress hip
  exact ⟨answers_off hoff, answers_off hoff, udpTelemetryRequest_silent b hip⟩

end Sys2Proof.Machine
end

section
/-!
PROOFS. BAR4: its size, its segments and its accesses; refused BAR0 accesses; and the function's power state (O55, O56). The model's choices: a size
outside the range changes nothing and an access splits at segment bounds (assumption log 125), and the arcs that an access crosses (log 153).
-/

namespace Sys2Proof.Machine

/-! ### A table changed entry by entry -/

section
variable {α : Type} [Inhabited α]

theorem Tbl.get_of_not_listed {t : Tbl α} {k : Nat} (h : ∀ c ∈ t, c.1 ≠ k) : Tbl.get t k = default := by
  induction t with
  | nil => rfl
  | cons c t ih =>
    obtain ⟨hc, ht⟩ := List.forall_mem_cons.1 h
    exact (if_neg hc).trans (ih ht)

variable [DecidableEq α]

/-- Changes of listed entries by one idempotent function leave each entry as it was or changed once. -/
theorem Tbl.get_foldl_upd {f : α → α} (hf : ∀ x, f (f x) = f x) (l : List (Nat × α)) (t : Tbl α) (k : Nat) :
    Tbl.get (l.foldl (fun acc c => Tbl.upd acc c.1 f) t) k = if ∃ c ∈ l, c.1 = k then f (Tbl.get t k) else Tbl.get t k := by
  induction l generalizing t with
  | nil => simp
  | cons c l ih =>
    rw [List.foldl_cons, ih, Tbl.get_upd]
    by_cases hc : c.1 = k
    · subst hc
      simp [hf]
    · rw [if_neg (Ne.symm hc)]
      simp only [List.mem_cons, or_and_right, exists_or, exists_eq_left, hc, false_or]

theorem Tbl.get_mapAll {f : α → α} (hf : ∀ x, f (f x) = f x) (hdef : f default = default) (t : Tbl α) (k : Nat) :
    Tbl.get (Tbl.mapAll t fun _ => f) k = f (Tbl.get t k) := by
  rw [Tbl.mapAll, Tbl.get_foldl_upd hf]
  split
  · rfl
  · next h =>
    have hnone : Tbl.get t k = default := Tbl.get_of_not_listed fun c hc hk => h ⟨c, hc, hk⟩
    rw [hnone, hdef]

end

/-! ### The size of BAR4 (R562) -/

section
variable {s : State} {n : Fin 64}

theorem bar4Resize_resizes (hpower : s.pins.hotSwap = true) (hperst : s.pins.perst = false) (hlo : 30 ≤ n.val) (hhi : n.val ≤ 36)
    (hnew : n.val ≠ s.glb.bar4Log2) : exec (.bar4Resize n) s =
      .next { s with glb := { s.glb with bar4Log2 := n.val, apSegs := s.glb.apSegs.mapAll fun _ v => v &&& 0x7FFFFFFFFFFFFFFF } } :=
  if_neg (by simp [powered, hpower, hperst, hnew]; omega)

theorem bar4Resize_same (h : n.val = s.glb.bar4Log2) : exec (.bar4Resize n) s = .next s := if_pos (by simp [h])

theorem bar4Resize_outside (h : n.val < 30 ∨ 36 < n.val) : exec (.bar4Resize n) s = .next s := if_pos (by simp; omega)

end

/-- A segment without its VALID bit. -/
def invalidated (v : W64) : W64 := v &&& 0x7FFFFFFFFFFFFFFF

theorem invalidated_invalidated (v : W64) : invalidated (invalidated v) = invalidated v := by
  unfold invalidated
  rw [BitVec.and_assoc, BitVec.and_self]

theorem invalidated_bits (v : W64) : (invalidated v).getLsbD 63 = false ∧ ∀ b, b < 63 → (invalidated v).getLsbD b = v.getLsbD b := by
  have hmask : (0x7FFFFFFFFFFFFFFF : W64) = BitVec.ofNat 64 (2 ^ 63 - 1) := rfl
  refine ⟨?_, fun b hb => ?_⟩
  · rw [invalidated, BitVec.getLsbD_and]
    exact Bool.and_false _
  · have hone : (BitVec.ofNat 64 (2 ^ 63 - 1)).getLsbD b = true := by
      rw [BitVec.getLsbD_ofNat, Nat.testBit_two_pow_sub_one]
      simp [hb]
      omega
    rw [invalidated, BitVec.getLsbD_and, hmask, hone, Bool.and_true]

theorem get_invalidated (t : Tbl W64) (g : Nat) : (t.mapAll fun _ v => v &&& 0x7FFFFFFFFFFFFFFF).get g = invalidated (t.get g) :=
  Tbl.get_mapAll invalidated_invalidated rfl t g

theorem segSize_of_16GiB {s : State} (h : s.glb.bar4Log2 = 34) : segSize s = 268435456 := by rw [segSize, h]; rfl

/-- The rule's example: offset 0x5234_5680 of 16 GiB lies in segment 5. -/
theorem segParts_example {s : State} (h : s.glb.bar4Log2 = 34) : segParts s 0x52345680 64 = [(5, 0x2345680, 64)] := by
  rw [segParts, segSize_of_16GiB h]
  decide

theorem segKey_example {s : State} (hseg : s.glb.apSegs.get 5 = 0xE006000410000000) (hup : dieUp s 6 = true) :
    segKey s 5 0x2345680 false = some (dieKey 6 0x0412345680) := by
  have hdie : rfld (0xE006000410000000 : W64) 50 48 = 6 := by decide
  have hoff : rfld (0xE006000410000000 : W64) 47 0 = 0x410000000 := by decide
  rw [segKey, hseg, hdie, hoff, hup]
  rfl

/-- Settles O55: each offered size is taken and invalidates every segment, other sizes change nothing, and the rule's example. -/
theorem apertureResizeClearsSegments : Obligations.ApertureResizeClearsSegments := by
  unfold Obligations.ApertureResizeClearsSegments
  refine ⟨fun s n hpower hperst hlo hhi hnew => ?_, fun s n => bar4Resize_same, fun s n => bar4Resize_outside,
    fun s hsize hseg hup => ⟨segParts_example hsize, segKey_example hseg hup⟩⟩
  refine ⟨_, bar4Resize_resizes hpower hperst hlo hhi hnew, rfl, fun g _ => ?_, rfl, rfl, rfl, rfl, rfl, rfl⟩
  rw [get_invalidated]
  exact invalidated_bits _

/-! ### Accesses (R545, R561) -/

section
variable {s : State} {off n g o : Nat}

theorem apSegWrite_taken {g : Fin 64} {v : W64} (hon : barOn s = true)
    (hok : rbit (v &&& apSegMask) 63 = false ∨ segOk s (v &&& apSegMask) = true) :
    exec (.apSegWrite g v) s = .next { s with glb := { s.glb with apSegs := s.glb.apSegs.set g.val (v &&& apSegMask) } } := by
  refine (gate_on _ _ hon).trans (if_neg ?_)
  rcases hok with h | h <;> simp [h]

theorem apSegWrite_fails {g : Fin 64} {v : W64} (hon : barOn s = true) (hvalid : rbit (v &&& apSegMask) 63 = true)
    (hbad : segOk s (v &&& apSegMask) = false) : exec (.apSegWrite g v) s =
      .next { s with glb := { s.glb with apErr := true, apSegs := s.glb.apSegs.set g.val (v &&& apSegMask &&& 0x7FFFFFFFFFFFFFFF) } } :=
  (gate_on _ _ hon).trans (if_pos (by rw [hvalid, hbad]; rfl))

theorem markAt_clean (hpois : s.mem.pois = []) (hecc : s.mem.ecc = []) (b : Nat) : markAt s b = false := by
  rw [markAt, hpois, hecc]
  rfl

/-- A read of memory without marks logs nothing. -/
theorem readPoison_clean (hpois : s.mem.pois = []) (hecc : s.mem.ecc = []) (k n : Nat) : readPoison s k n = s := by
  refine List.foldlRecOn _ _ (motive := fun u => u = s) rfl ?_
  rintro u rfl b -
  rw [markAt_clean hpois hecc]
  rfl

theorem readPart_admitted {k : Nat} (hkey : partKey s (g, o, n) false = some k) (hpois : s.mem.pois = []) (hecc : s.mem.ecc = []) :
    readPart (s, []) (g, o, n) = (apertureCross s k n false, plain (loadMod s k n)) := by
  simp only [readPart, hkey, eccAt_of_clean hecc, readPoison_clean hpois hecc, List.nil_append]

theorem readPart_refused (hkey : partKey s (g, o, n) false = none) : readPart (s, []) (g, o, n) = (accRefused s, List.replicate n 0) := by
  simp only [readPart, hkey, List.nil_append]

theorem writePart_admitted {k : Nat} {b : Bytes} (hkey : partKey s (g, o, b.length) true = some k) :
    (writePart (s, b) (g, o, b.length)).1 = apertureCross (storeClean s k b) k b.length true := by
  simp only [writePart, hkey, List.take_length]

theorem writePart_refused {b : Bytes} (hkey : partKey s (g, o, b.length) true = none) : (writePart (s, b) (g, o, b.length)).1 = accRefused s := by
  simp only [writePart, hkey]

/-- A read that lies in one segment. -/
theorem bar4Read_single (hon : barOn s = true) (hparts : segParts s off n = [(g, o, n)]) :
    exec (.bar4Read off n) s = .next (emit (readPart (s, []) (g, o, n)).1 (.pcieRead (readPart (s, []) (g, o, n)).2)) := by
  rw [exec, execBar4Read, gate_on _ _ hon, hparts, List.foldl_cons, List.foldl_nil]

/-- A write that lies in one segment. -/
theorem bar4Write_single {b : Bytes} (hon : barOn s = true) (hparts : segParts s off b.length = [(g, o, b.length)]) :
    exec (.bar4Write off b) s = .next (writePart (s, b) (g, o, b.length)).1 := by
  rw [exec, execBar4Write, gate_on _ _ hon, hparts, List.foldl_cons, List.foldl_nil]

/-- Data on its way only counts bytes on arcs. -/
theorem apertureCross_eq (k n : Nat) (w : Bool) : ∃ a, apertureCross s k n w = { s with arcs := a } := by
  cases w <;> exact crossArcs_eq s _ _ n

theorem hopsTo_self (d : Nat) (dir : Dir) : hopsTo d d dir = [] := by
  have hzero : (d + 8 - d) % 8 = 0 := by omega
  cases dir <;> rw [hopsTo, hzero, List.range_zero, List.map_nil]

theorem arcRoute_self (d : Nat) : arcRoute s d d = [] := by
  unfold arcRoute
  rw [hopsTo_self, hopsTo_self]
  rfl

theorem crossArcs_self (d n : Nat) : crossArcs s d d n = s := by rw [crossArcs, arcRoute_self]; rfl

/-- Data of an entry die crosses no arc. -/
theorem apertureCross_entry {k : Nat} (h : entryDie s (k / 2 ^ 48) = k / 2 ^ 48) (n : Nat) (w : Bool) : apertureCross s k n w = s := by
  rw [apertureCross, h]
  cases w <;> exact crossArcs_self _ n

theorem bar0ImproperAccess_refused {w : Nat} (hon : barOn s = true) (hbad : properAccess off w = false) :
    exec (.bar0ImproperAccess true off w) s = .next (accRefused s) ∧
    exec (.bar0ImproperAccess false off w) s = .next (emit (accRefused s) (.pcieRead (List.replicate w 0))) :=
  ⟨if_neg (by simp [hon, hbad]), if_neg (by simp [hon, hbad])⟩

theorem bar0ImproperAccess_proper {w : Bool} (hgood : properAccess off n = true) : exec (.bar0ImproperAccess w off n) s = .next s :=
  if_pos (by simp [hgood])

theorem powerStateChange_moves (hpower : s.pins.hotSwap = true) (hperst : s.pins.perst = false) :
    exec (.powerStateChange true) s = .next { s with pins := { s.pins with d3 := true, wake := s.pins.wake || evqWaiting s } } ∧
    exec (.powerStateChange false) s = .next { s with pins := { s.pins with d3 := false, wake := false } } := by
  have hon : (powered s && !s.pins.perst) = true := by simp [powered, hpower, hperst]
  exact ⟨gate_on _ _ hon, gate_on _ _ hon⟩

theorem powerStateChange_unpowered (b : Bool) (hpower : s.pins.hotSwap = false) : exec (.powerStateChange b) s = .next s :=
  gate_off _ _ (by simp [powered, hpower])

end

/-- Settles O56: writes of segments, accesses inside one segment, refused accesses, BAR4's size, and WAKE#. -/
theorem apertureAccessesReachMemory : Obligations.ApertureAccessesReachMemory := by
  unfold Obligations.ApertureAccessesReachMemory
  refine ⟨fun s g v => apSegWrite_taken, fun s g v => apSegWrite_fails, fun s off n g o k hon hparts hkey hpois hecc => ?_,
    fun s off n g o hon hparts hkey => ?_, fun s off g o k b hon hparts hkey => ?_, fun s off g o b hon hparts hkey => ?_,
    fun s k n w => ⟨apertureCross_eq k n w, fun h => apertureCross_entry h n w⟩, fun s n => bar4Resize_resizes, fun s n => bar4Resize_outside,
    fun s off w => bar0ImproperAccess_refused, fun s w off n => bar0ImproperAccess_proper, fun s => powerStateChange_moves,
    fun s b => powerStateChange_unpowered b⟩
  · rw [bar4Read_single hon hparts, readPart_admitted hkey hpois hecc]
  · rw [bar4Read_single hon hparts, readPart_refused hkey]
    rfl
  · rw [bar4Write_single hon hparts, writePart_admitted hkey]
  · rw [bar4Write_single hon hparts, writePart_refused hkey]
    rfl

end Sys2Proof.Machine
end

section
/-!
PROOFS. Recovery over PCIe and over the management port (O53). The model's choices: REC_CTRL outside recovery and a FINISH of the image from
manufacture (assumption log 119), the sector erase (log 120), and SOURCE 0 of the reset (log 121).
-/

namespace Sys2Proof.Machine

/-! ### REC_CTRL (R527) -/

section
variable {s : State}

theorem recWrite_starts {op : RecOp} (hon : barOn s = true) (hrec : s.boot.recovery = true) (hidle : s.boot.recOp = none) :
    recWrite op s = .next { s with boot := { s.boot with recOp := some op } } := gate_on _ _ (by simp [hon, hrec, hidle])

theorem recWrite_ignored {op : RecOp} (h : s.boot.recovery = false ∨ s.boot.recOp ≠ none) : recWrite op s = .next s := by
  refine gate_off _ _ ?_
  rcases h with h | h
  · simp [h]
  · obtain ⟨x, hx⟩ := Option.ne_none_iff_exists'.1 h
    simp [hx]

theorem recOperationDone_applies {op : RecOp} (h : s.boot.recOp = some op) :
    exec .recOperationDone s = .next (applyRec (setBoot s fun b => { b with recOp := none }) op) := by
  simp only [exec, execRecOperationDone, h]

theorem recOperationDone_idle (h : s.boot.recOp = none) : exec .recOperationDone s = .next s := by simp only [exec, execRecOperationDone, h]

section
variable {p : Nat} {owner : RecOwner} (b : Bytes) (halert : s.pins.alert = false)
include halert

theorem programErr_owned (hown : s.boot.recOwner ≠ .none) (hother : s.boot.recOwner ≠ owner) : programErr s p owner = 4 := by
  rw [programErr, if_neg (by simp [flashOpen, halert]), if_pos ⟨hown, hother⟩]

theorem programErr_page (hfree : ¬ (s.boot.recOwner ≠ .none ∧ s.boot.recOwner ≠ owner)) (hp : 15360 ≤ p) : programErr s p owner = 1 := by
  rw [programErr, if_neg (by simp [flashOpen, halert]), if_neg hfree, if_pos (.inl hp)]

theorem programErr_none (hfree : ¬ (s.boot.recOwner ≠ .none ∧ s.boot.recOwner ≠ owner)) (hp : p < 15360) (hnew : ∀ q ∈ s.boot.pages, q.1 ≠ p) :
    programErr s p owner = 0 := by
  have hfit : ¬ (15360 ≤ p ∨ s.boot.pages.any (fun q => q.1 = p) = true) := by
    rintro (h | h)
    · omega
    · obtain ⟨q, hq, heq⟩ := List.any_eq_true.1 h
      exact hnew q hq (of_decide_eq_true heq)
  rw [programErr, if_neg (by simp [flashOpen, halert]), if_neg hfree, if_neg hfit]

end

/-- A source owns recovery only with a programmed page of its own. -/
theorem pcie_mayProgram (h : s.boot.recOwner ≠ .mgmt) : ¬ (s.boot.recOwner ≠ .none ∧ s.boot.recOwner ≠ .pcie) := by
  rintro ⟨hnone, hpcie⟩
  cases hown : s.boot.recOwner with
  | none => exact hnone hown
  | pcie => exact hpcie hown
  | mgmt => exact h hown

theorem programPage_writes {p : Nat} {owner : RecOwner} (b : Bytes) (h : programErr s p owner = 0) :
    programPage s p owner b = setBoot s fun x => writePage x p owner b := by simp only [programPage, h]

theorem programPage_fails {p e : Nat} {owner : RecOwner} (b : Bytes) (h : programErr s p owner = e + 1) :
    programPage s p owner b = setBoot s fun x => { x with recErr := e + 1 } := by simp only [programPage, h]

theorem finishImage_alert (h : s.pins.alert = true) : finishImage s = { s with boot := { s.boot with recErr := 2 } } := if_pos (by simp [flashOpen, h])

theorem finishImage_fails (halert : s.pins.alert = false) (himage : s.boot.image ≠ []) (hheader : imgHeaderOk s.boot.image = false) :
    finishImage s = forgetPages s 3 := by
  rw [finishImage, if_neg (by simp [flashOpen, halert]), if_pos (by simp [imageOk, hheader, himage])]

/-- The module whose FINISH committed the image from manufacture, before its cold reset. -/
def imageCommitted (s : State) : State :=
  setFlt (setBoot (forgetPages s 0) fun b => { b with image := cutImage b.image, committed := true }) fun f => { f with bootFaults := 0 }

theorem finishImage_commits (halert : s.pins.alert = false) (himage : s.boot.image = []) :
    finishImage s = resetLevel4 (imageCommitted s) 0 0 false := by
  rw [finishImage, if_neg (by simp [flashOpen, halert]), if_neg (by simp [imageOk, himage])]
  rfl

/-- A cold reset of a module without engines' state, whose clock runs, starts the image from manufacture. -/
theorem resetLevel4_starts {src f : Nat} (hhold : s.pins.pllHold = false) (hengines : s.engines = []) (hfaults : s.flt.bootFaults < 3)
    (hcommitted : s.boot.committed = true) (himage : s.boot.image = []) : resetLevel4 s src f false = imageStarted (coldReady s src f) := by
  have hready : coldReady s src f = setGlb (coldState (noteReset s 4 src f)) fun g => { g with reset := some ⟨4, 0, src⟩ } := by
    rw [coldReady, coldBegun_eq src f hengines]
  have hrun : (coldReady s src f).pins.pllHold = false := by rw [hready]; exact hhold
  refine (if_neg (ne_true_of_eq_false hrun)).trans (romStage_starts ?_ ?_ ?_)
  · change (coldReady s src f).flt.bootFaults < 3
    rw [hready]
    exact hfaults
  · change (coldReady s src f).boot.committed = true
    rw [hready]
    exact hcommitted
  · change (coldReady s src f).boot.image = []
    rw [hready]
    exact himage

theorem finishImage_starts (halert : s.pins.alert = false) (himage : s.boot.image = []) (hhold : s.pins.pllHold = false) (hengines : s.engines = []) :
    finishImage s = imageStarted (coldReady (imageCommitted s) 0 0) := by
  have hcut : (imageCommitted s).boot.image = [] := by
    change cutImage s.boot.image = []
    rw [himage]
    rfl
  exact (finishImage_commits halert himage).trans
    (resetLevel4_starts (by exact hhold) (by exact hengines) (by decide : 0 < 3) (show true = true from rfl) hcut)

theorem coldReady_committed (hengines : s.engines = []) : (coldReady (imageCommitted s) 0 0).boot.committed = true ∧
    (coldReady (imageCommitted s) 0 0).flt.bootFaults = 0 ∧ (coldReady (imageCommitted s) 0 0).mem = { host := s.mem.host } := by
  rw [coldReady, coldBegun_eq (s := imageCommitted s) 0 0 hengines]
  exact ⟨rfl, rfl, rfl⟩

/-! ### TFTP (R528) -/

theorem tftpWriteRequest_accepted {n : Nat} (hon : mgmtOn s = true) (hrec : s.boot.recovery = true) (hown : s.boot.recOwner ≠ .pcie) :
    exec (.tftpWriteRequest roshaName n) s = .next { s with boot := { s.boot with tftpOn := true, tftp := [], tftpPage := 0 },
                                                             out := s.out ++ [.mgmt mgmtTftpAck (beBytes 2 (min n 1428))] } := by
  rw [exec, execTftpWriteRequest, if_neg (by simp [hon, hrec]), if_neg hown, if_neg (not_not_intro rfl)]
  rfl

theorem tftpWriteRequest_owned {f : Bytes} {n : Nat} (hon : mgmtOn s = true) (hrec : s.boot.recovery = true) (hown : s.boot.recOwner = .pcie) :
    exec (.tftpWriteRequest f n) s = .next { s with out := s.out ++ [.mgmt mgmtTftpErr (beBytes 2 2)] } := by
  rw [exec, execTftpWriteRequest, if_neg (by simp [hon, hrec]), if_pos hown]
  rfl

theorem cut_nil {α : Type} (n f : Nat) : cut n f ([] : List α) = [] := by cases f <;> rfl

theorem pieces_short {α : Type} {n : Nat} {l : List α} (hne : l ≠ []) (hlen : l.length < n) : pieces n l = [l] := by
  cases l with
  | nil => exact absurd rfl hne
  | cons x l =>
    rw [pieces, List.length_cons, cut, if_neg (by simp), List.take_of_length_le hlen.le, List.drop_of_length_le hlen.le, cut_nil]

/-- Bytes that do not fill a page wait for the next block. -/
theorem programFull_short {b : Bytes} (hne : b ≠ []) (hlen : b.length < 4096) :
    programFull s (pieces 4096 b) = { s with boot := { s.boot with tftp := b } } := by
  rw [pieces_short hne hlen, programFull, List.foldl_cons, List.foldl_nil, if_neg (by omega)]
  rfl

theorem tftpData_gathers {b : Bytes} (hon : mgmtOn s = true) (hrec : s.boot.recovery = true) (htftp : s.boot.tftpOn = true)
    (hown : s.boot.recOwner ≠ .pcie) (hne : b ≠ []) (hlen : s.boot.tftp.length + b.length < 4096) :
    exec (.tftpData b false) s = .next { s with boot := { s.boot with tftp := s.boot.tftp ++ b }, out := s.out ++ [.mgmt mgmtTftpAck []] } := by
  have hshort := programFull_short (s := emit s (.mgmt mgmtTftpAck [])) (b := s.boot.tftp ++ b) (by simp [hne]) (by simpa using hlen)
  rw [exec, execTftpData, if_neg (by simp [hon, hrec, htftp]), if_neg hown, if_neg (by decide)]
  exact congrArg Host.Outcome.next hshort

theorem tftpData_ignored {b : Bytes} {l : Bool} (h : s.boot.recovery = false ∨ s.boot.tftpOn = false) : exec (.tftpData b l) s = .next s :=
  if_pos (by rcases h with h | h <;> simp [h])

end

/-- Settles O53: REC_CTRL, the end of PROGRAM, FINISH and an abort, and a TFTP transfer below one page. -/
theorem recoveryProgramsTheImage : Obligations.RecoveryProgramsTheImage := by
  unfold Obligations.RecoveryProgramsTheImage
  refine ⟨fun s p hon hrec hidle => ⟨recWrite_starts hon hrec hidle, recWrite_starts hon hrec hidle, recWrite_starts hon hrec hidle⟩,
    fun s p h => ⟨recWrite_ignored h, recWrite_ignored h, recWrite_ignored h⟩, fun s p b hop halert hown hp hnew => ?_,
    fun s p b hop halert hown => ?_, fun s p b hop halert hown hp => ?_, fun s hop halert => ?_, fun s hop halert himage hheader => ?_,
    fun s hop halert himage hhold hengines => ?_, fun s => recOperationDone_applies, fun s => recOperationDone_idle,
    fun s n => tftpWriteRequest_accepted, fun s f n => tftpWriteRequest_owned, fun s b => tftpData_gathers, fun s b l => tftpData_ignored⟩
  all_goals rw [recOperationDone_applies hop]
  · have herr := programErr_none (s := setBoot s fun x => { x with recOp := none }) halert (pcie_mayProgram hown) hp hnew
    exact ⟨_, congrArg Host.Outcome.next (programPage_writes b herr), rfl, rfl, rfl, rfl, rfl, rfl, rfl, rfl⟩
  · have herr := programErr_owned (s := setBoot s fun x => { x with recOp := none }) (p := p) (owner := .pcie) halert
      (fun h => by simp [setBoot, hown] at h) (fun h => by simp [setBoot, hown] at h)
    exact congrArg Host.Outcome.next (programPage_fails b herr)
  · have herr := programErr_page (s := setBoot s fun x => { x with recOp := none }) halert (pcie_mayProgram hown) hp
    exact congrArg Host.Outcome.next (programPage_fails b herr)
  · exact congrArg Host.Outcome.next (finishImage_alert halert)
  · exact congrArg Host.Outcome.next (finishImage_fails halert himage hheader)
  · obtain ⟨hcommitted, hfaults, hmem⟩ := coldReady_committed (s := setBoot s fun x => { x with recOp := none }) hengines
    obtain ⟨hlevel, hsource, _⟩ := coldReady_keeps (imageCommitted (setBoot s fun x => { x with recOp := none })) 0 0
    exact ⟨_, congrArg Host.Outcome.next (finishImage_starts (s := setBoot s fun x => { x with recOp := none }) halert himage hhold hengines), rfl,
      hcommitted, rfl, hfaults, hlevel, hsource, hmem⟩

end Sys2Proof.Machine
end

section
/-!
PROOFS. Publisher keys and the debug lock (O54). The model's choices: KEYS_LOCK, CHALLENGE and DEBUG_LOCK act at once (assumption log 123), and
DBG_ADDR keeps a refused write's value (log 126).
-/

namespace Sys2Proof.Machine

section
variable {s : State}

/-! ### SEC_CTRL (R532, R537) -/

theorem secWrite_busy {op : SecOp} (h : s.boot.secOp = some op) (a : Ans) : secWrite s a = .next s := gate_off _ _ (by simp [h])

theorem secWrite_idle (hon : barOn s = true) (h : s.boot.secOp = none) (a : Ans) : secWrite s a = a := gate_on _ _ (by simp [hon, h])

section
variable {i : Fin 16} (hon : barOn s = true) (hidle : s.boot.secOp = none)
include hon hidle

theorem enrol_passes (h : enrolCheck s i.val (stagedKey s) = none) :
    exec (.enrol i) s = .next { s with boot := { s.boot with secOp := some (.enrol i.val (stagedKey s)) } } := by
  rw [exec, execEnrol, secWrite_idle hon hidle]
  simp only [h]
  rfl

theorem enrol_fails {r : Nat} (h : enrolCheck s i.val (stagedKey s) = some r) :
    exec (.enrol i) s = .next { s with boot := { s.boot with secOp := some (.result r) } } := by
  rw [exec, execEnrol, secWrite_idle hon hidle]
  simp only [h]
  rfl

theorem revoke_passes (h : revokeCheck s i.val = none) :
    exec (.revoke i) s = .next { s with boot := { s.boot with secOp := some (.revoke i.val) } } := by
  rw [exec, execRevoke, secWrite_idle hon hidle]
  simp only [h]
  rfl

theorem revoke_fails {r : Nat} (h : revokeCheck s i.val = some r) :
    exec (.revoke i) s = .next { s with boot := { s.boot with secOp := some (.result r) } } := by
  rw [exec, execRevoke, secWrite_idle hon hidle]
  simp only [h]
  rfl

end

/-! ### The checks in order (R532) -/

theorem enrolCheck_locked (i : Nat) (key : Bytes) (h : s.boot.keysLock = true) : enrolCheck s i key = some 2 := by simp [enrolCheck, firstFail, h]

theorem revokeCheck_locked (i : Nat) (h : s.boot.keysLock = true) : revokeCheck s i = some 2 := by simp [revokeCheck, firstFail, h]

theorem revokeCheck_absent {i : Nat} (hlock : s.boot.keysLock = false) (hkey : s.boot.keys.get i = []) : revokeCheck s i = some 1 := by
  simp [revokeCheck, firstFail, hlock, hkey]

theorem revokeCheck_passes {i : Nat} (hlock : s.boot.keysLock = false) (hkey : s.boot.keys.get i ≠ []) (halert : s.pins.alert = false) :
    revokeCheck s i = none := by
  simp [revokeCheck, firstFail_eq_none, hlock, hkey, flashOpen, halert]

/-! ### SEC_OPERATION_DONE (R532) -/

theorem secOperationDone_applies {op : SecOp} (h : s.boot.secOp = some op) :
    exec .secOperationDone s = .next (applySec (setBoot s fun b => { b with secOp := none }) op) := by
  simp only [exec, execSecOperationDone, h]

theorem secOperationDone_idle (h : s.boot.secOp = none) : exec .secOperationDone s = .next s := by simp only [exec, execSecOperationDone, h]

theorem applySec_enrol (i : Nat) (k : Bytes) (halert : s.pins.alert = false) :
    applySec s (.enrol i k) = { s with boot := { s.boot with keys := s.boot.keys.set i k, secRes := 0 } } := by
  rw [applySec, setBoot, if_pos (by simp [flashOpen, halert])]

theorem applySec_revoke (i : Nat) (halert : s.pins.alert = false) :
    applySec s (.revoke i) = { s with boot := { s.boot with keys := s.boot.keys.set i [], secRes := 0 } } := by
  rw [applySec, setBoot, if_pos (by simp [flashOpen, halert])]

theorem applySec_revoke_alert (i : Nat) (halert : s.pins.alert = true) : applySec s (.revoke i) = { s with boot := { s.boot with secRes := 8 } } := by
  rw [applySec, setBoot, if_neg (by simp [flashOpen, halert])]

/-! ### The debug lock (R536) and its fetches (R563, R564) -/

/-- The module after an attempt to unlock the debug port. -/
def unlockTried (s : State) : State :=
  setBoot s fun b => { b with chal := [], secRes := unlockResult s, debugOpen := b.debugOpen || unlockResult s = 0 }

theorem unlockTried_eq (s : State) : (unlockTried s).boot.chal = [] ∧ (unlockTried s).boot.secRes = unlockResult s ∧
    (unlockTried s).boot.debugOpen = (s.boot.debugOpen || decide (unlockResult s = 0)) ∧ (unlockTried s).mem = s.mem ∧
    (unlockTried s).boot.keys = s.boot.keys := ⟨rfl, rfl, rfl, rfl, rfl⟩

/-- Without a challenge the attempt fails. -/
theorem unlockResult_noChallenge (h : s.boot.chal = []) : unlockResult s = 6 ∨ unlockResult s = 7 := by
  unfold unlockResult
  cases Config.debugDisable <;> simp [firstFail, h]

theorem debugFetch_on (hon : barOn s = true) (hopen : s.boot.debugOpen = true) (a : W64) : exec (.debugFetch a) s =
    match debugCheck s a with
    | 0 => .next (setGlb s fun g => { g with dbgAddr := a, dbgFrom := a, dbgBusy := true, dbgErr := 0 })
    | e => .next (setGlb s fun g => { g with dbgAddr := a, dbgErr := e }) := gate_on _ _ (by simp [hon, hopen])

theorem debugFetch_starts {a : W64} (hon : barOn s = true) (hopen : s.boot.debugOpen = true) (hcheck : debugCheck s a = 0) :
    exec (.debugFetch a) s = .next { s with glb := { s.glb with dbgAddr := a, dbgFrom := a, dbgBusy := true, dbgErr := 0 } } := by
  rw [debugFetch_on hon hopen, hcheck]
  rfl

theorem debugFetch_refused {a : W64} (hon : barOn s = true) (hopen : s.boot.debugOpen = true) (hcheck : debugCheck s a ≠ 0) :
    exec (.debugFetch a) s = .next { s with glb := { s.glb with dbgAddr := a, dbgErr := debugCheck s a } } := by
  obtain ⟨e, he⟩ := Nat.exists_eq_succ_of_ne_zero hcheck
  rw [debugFetch_on hon hopen, he]
  rfl

theorem debugFetch_locked (a : W64) (hopen : s.boot.debugOpen = false) : exec (.debugFetch a) s = .next s := gate_off _ _ (by simp [hopen])

/-- The module that has fetched the bytes behind DBG_ADDR. -/
def debugFetched (s : State) : State := setGlb s fun g => { g with
  dbgBusy := false
  dbgData := plain (loadMod s (keyOf s.glb.dbgFrom) 4096)
  dbgPois := BitVec.ofNat 64 (bitsOf 64 fun j => markAt s (keyOf s.glb.dbgFrom / 64 + j)) }

theorem debugFetched_eq (s : State) : (debugFetched s).glb.dbgBusy = false ∧
    (debugFetched s).glb.dbgData = plain (loadMod s (keyOf s.glb.dbgFrom) 4096) ∧ (debugFetched s).mem = s.mem := by
  unfold debugFetched setGlb
  dsimp only
  exact ⟨rfl, rfl, rfl⟩

theorem debugFetchDone_shows (hbusy : s.glb.dbgBusy = true) (hwait : debugWaits s = false) (hopen : s.boot.debugOpen = true) :
    exec .debugFetchDone s = .next (debugFetched s) := by
  rw [exec, execDebugFetchDone, if_neg (by simp [hbusy, hwait]), if_neg (by simp [hopen])]
  rfl

theorem debugFetchDone_idle (hbusy : s.glb.dbgBusy = false) : exec .debugFetchDone s = .next s := if_pos (by simp [hbusy])

end

/-- Settles O54: SEC_CTRL while BUSY, the checks and ends of ENROL and REVOKE, the debug lock, and a debug fetch. -/
theorem keysAndTheDebugLock : Obligations.KeysAndTheDebugLock := by
  unfold Obligations.KeysAndTheDebugLock
  refine ⟨fun s i op hbusy => ?_, fun s i hon hidle => ⟨enrol_passes hon hidle, fun r => enrol_fails hon hidle⟩, fun s i hon hidle hlock => ?_,
    fun s i hon hidle hlock hkey halert => revoke_passes hon hidle (revokeCheck_passes hlock hkey halert),
    fun s i hon hidle hlock hkey => revoke_fails hon hidle (revokeCheck_absent hlock hkey), fun s i k hop halert => ?_, fun s i hop halert => ?_,
    fun s i hop halert => ?_, fun s r => secOperationDone_applies, fun s => secOperationDone_idle, fun s hon hidle => ?_, fun s hon hidle => ?_,
    fun s a => debugFetch_starts, fun s a => debugFetch_refused, fun s a => debugFetch_locked a,
    fun s hbusy hwait hopen => ⟨_, debugFetchDone_shows hbusy hwait hopen, debugFetched_eq s⟩, fun s => debugFetchDone_idle⟩
  · exact ⟨secWrite_busy hbusy _, secWrite_busy hbusy _, secWrite_busy hbusy _, secWrite_busy hbusy _, secWrite_busy hbusy _, secWrite_busy hbusy _⟩
  · exact ⟨enrol_fails hon hidle (enrolCheck_locked _ _ hlock), revoke_fails hon hidle (revokeCheck_locked _ hlock)⟩
  · rw [secOperationDone_applies hop]
    exact congrArg Host.Outcome.next (applySec_enrol i k halert)
  · rw [secOperationDone_applies hop]
    exact congrArg Host.Outcome.next (applySec_revoke i halert)
  · rw [secOperationDone_applies hop]
    exact congrArg Host.Outcome.next (applySec_revoke_alert i halert)
  · exact ⟨secWrite_idle hon hidle _, secWrite_idle hon hidle _, secWrite_idle hon hidle _⟩
  · obtain ⟨hchal, hres, hdebug, hmem, hkeys⟩ := unlockTried_eq s
    refine ⟨_, secWrite_idle hon hidle _, hchal, hres, hdebug, hmem, hkeys, fun hnone => ?_⟩
    have hfail := unlockResult_noChallenge hnone
    refine ⟨?_, hfail⟩
    change (s.boot.debugOpen || decide (unlockResult s = 0)) = s.boot.debugOpen
    rw [decide_eq_false (by omega), Bool.or_false]

end Sys2Proof.Machine
end

section
/-!
PROOFS. The third clause of O52 fails: a die whose last quarantine has not ended counts as out of service through its start-up (assumption log 162), and
the statement's conditions leave that open.
-/

namespace Sys2Proof.Machine

/-- A module with power at the end of its cold reset, whose die 3 has left service by a quarantine. -/
def quarantinedStart : State :=
  { State.reset with
    pins := { State.reset.pins with hotSwap := true }
    dies := (List.range 8).foldl (fun t d => Tbl.set t d { st := .starting, quar := d = 3 }) [] }

theorem quarantinedStart_dies : ∀ d, d < 8 → (quarantinedStart.dies.get d).st = .starting ∧ (quarantinedStart.dies.get d).rowMap = [] := by
  decide +kernel

/-- The die that the line leaves out once the module is ready. -/
def lineOf (a : Ans) : Option Nat :=
  match a with
  | .next u => u.md.epoch.line
  | _ => none

theorem lineOf_quarantinedStart : lineOf (exec (.moduleReady ⟨[], [], [], [], []⟩) quarantinedStart) = some 3 := by decide +kernel

/-- Refutes O52: a cold start of dies that all may start, one of them still marked by its quarantine, ends with the line without that die and not with
the ring that the third clause promises. -/
theorem not_startUpAndFatalFaults : ¬ Obligations.StartUpAndFatalFaults := by
  unfold Obligations.StartUpAndFatalFaults
  rintro ⟨_, _, hcold, _⟩
  obtain ⟨u, hu, _, _, _, _, _, _, _, hline, _⟩ := hcold quarantinedStart ⟨[], [], [], [], []⟩ rfl rfl rfl rfl rfl (by decide) nofun rfl rfl rfl rfl rfl rfl rfl
    quarantinedStart_dies
  have hthree := lineOf_quarantinedStart
  rw [hu] at hthree
  exact absurd (hline.symm.trans hthree) (by decide)

end Sys2Proof.Machine
end
